-- ==== Sys2Proof/Word.lean ====
section
/-! DEFINITION. The word types of the model: bytes, the register words of BAR0 and of the programmable cores,
granules of the selvedge code (spec 00, "Bits, bytes and fields"). -/
namespace Sys2Proof

/-- One byte. -/
abbrev Byte := BitVec 8

/-- A 32-bit register word. -/
abbrev W32 := BitVec 32

/-- A 64-bit word: a 64-bit register quantity, a global fabric address, an x or f register. -/
abbrev W64 := BitVec 64

/-- A granule: 256 bits of data, the unit of the selvedge code (spec 00, Conventions). -/
abbrev Granule := BitVec 256

/-- A vector register of 8,192 bits (R119). -/
abbrev VWord := BitVec 8192

/-- A mask register of 1,024 bits (R119). -/
abbrev MWord := BitVec 1024

end Sys2Proof
end

