-- ==== Sys2Proof/Syntax.lean ====
section
/-! DEFINITION. The commands of the block: `Instr`, one constructor per row of the table of operations
(opcode_table.json), and the types of their operands. -/
namespace Sys2Proof

/-- The two grades of the package (R3). -/
inductive Grade where
  | lcv8 | lcv4
  deriving DecidableEq, Repr

/-- A unit that runs programs: the vector engine and sequencer of a logical tile, or a logical solver core (R119, R178). -/
inductive VUnit where
  | tile (t : Fin 256)
  | core (c : Fin 256)
  deriving DecidableEq, Repr

/-- A unit that runs a share of a solver batch: a core (iterative kinds) or a factorisation engine (direct kinds). -/
inductive SUnit where
  | core (c : Fin 256)
  | engine (e : Fin 32)
  deriving DecidableEq, Repr

/-- The operand fields of a vector instruction word (R126): the register fields, the mask register, the mask-use and
zeroing bits, and whether the scalar form of the word is meant. -/
structure VFields where
  sc : Bool
  b : Fin 32
  a : Fin 32
  d : Fin 32
  msk : Fin 8
  m1 : Bool
  z : Bool
  deriving DecidableEq, Repr

/-- A hardware error in one evaluation of a block of a tile task (R102 to R104): the block, whether it strikes the
recomputation, the row and column in the block, what it strikes (term `k`, or pass `k` of a sliced product; none: the
accumulator), and the error, in units of the term's integer or of the accumulator. -/
structure ArrayFault where
  block : Nat
  again : Bool
  row : Nat
  col : Nat
  term : Option Nat
  err : Int
  deriving DecidableEq, Repr

/-- One symbol error of a granule read: the symbol position of the selvedge code word and the error value (R366). -/
structure SymErr where
  pos : Fin 36
  val : Byte
  deriving DecidableEq, Repr

/-- A read of BAR0: its offset, and whether it reads 64 bits or 32 (R13). -/
structure RegRead where
  off : Nat
  wide : Bool
  deriving DecidableEq, Repr

/-- The symbol errors that a request meets: those of the granule it reads (R254), and those of each seam it crosses (R18). -/
structure PathErrs where
  own : List SymErr
  hops : List (List SymErr)
  deriving DecidableEq, Repr

/-- The copy of a retired page: the page, and the symbol errors that each of its granules is read with (R254, R260). -/
structure PageCopy where
  page : Nat
  errs : List (List SymErr)
  deriving DecidableEq, Repr

/-- What a test finds: the units that failed, and the lanes (port, receiving direction, lane) of an optical engine (R375, R377). -/
structure TestFound where
  failed : List Nat
  lanes : List (Fin 32 × Bool × Fin 9)
  deriving DecidableEq, Repr

/-- A received cinch arrival (R51, R52, R54). -/
structure ArriveMsg where
  src : BitVec 16
  stitch : BitVec 64
  det : BitVec 3
  pkey : BitVec 16
  sent : BitVec 64
  lat : BitVec 64
  start : Bool
  deriving DecidableEq, Repr

/-- A received cinch release (R52): the stitch to begin, the release time, and the pocket request of the
capture timer (R348). -/
structure ReleaseMsg where
  stitch : BitVec 64
  t : BitVec 64
  pocket : Bool
  deriving DecidableEq, Repr

/-- One word of a flit: a granule and its four selvedge check bytes, p0 lowest (R269). -/
structure FWord where
  data : BitVec 256
  check : BitVec 32
  deriving DecidableEq, Repr

/-- A flit without its link part (R269, Tables 11-2 and 11-3): NWORDS is the length of `words`. -/
structure Flit where
  pkey : BitVec 16
  dst : BitVec 16
  src : BitVec 16
  typ : BitVec 7
  start : Bool
  vc : BitVec 3
  last : Bool
  replica : Bool
  tag : BitVec 16
  seq : BitVec 12
  addr : BitVec 36
  words : List FWord
  trailer : BitVec 64
  deriving DecidableEq, Repr

/-- The link part of a flit (Table 11-2, bytes 240 to 255). -/
structure LinkPart where
  lseq : BitVec 12
  ack : BitVec 12
  nack : Bool
  cvc : BitVec 3
  ccount : BitVec 12
  crc : BitVec 64
  deriving DecidableEq, Repr

/-- Who issues an access: the block index of its kind and its logical unit number (HUB_ADDR_UNIT, R23). -/
structure Req where
  blk : Nat
  unit : Nat
  deriving DecidableEq, Repr

/-- What waits for a sync counter (R111): the task at the head of a tile's queue, the launch or share at the head of a
core's or engine's queue, a program in WAITSC, a DMA, or the collective at the head of a channel. -/
inductive Waiter where
  | tile (t : Fin 256)
  | core (c : Fin 256)
  | engine (e : Fin 32)
  | program (u : VUnit)
  | dma (id : Nat)
  | collective (ch : Fin 16)
  | capture
  deriving DecidableEq, Repr

/-- An atomic operation at a home controller (R139, Table 11-4): the operation code, log2 of its size in bytes, the
byte offset in the sector, the format of a floating addition, and the operand and compare values. -/
structure AtomOp where
  op : Fin 8
  size : Fin 4
  off : Fin 32
  ffmt : BitVec 5
  a : BitVec 64
  b : BitVec 64
  deriving DecidableEq, Repr

/-- What a lane reports (R266): an uncorrectable codeword, how many symbols were corrected in 1 ms, or loss of lock. -/
inductive LaneCause where
  | uncorrectable
  | corrections (symbols : Nat)
  | lockLoss
  deriving DecidableEq, Repr

/-- The kinds of unit that can be remapped (R374). -/
inductive UnitKind where
  | tile | core | engine
  deriving DecidableEq, Repr

/-- An addition of a chunk (R303, R308): an element of the chunk, and how often its check mismatches. -/
structure CollAdd where
  elem : Nat
  mism : Nat
  deriving DecidableEq, Repr

/-- The start of a collective: its channel, and the check outcomes of the member's own additions (R308). -/
structure CollStart where
  ch : Fin 16
  sums : List CollAdd
  deriving DecidableEq, Repr
/-- What a boot finds (R387): the known-answer and health tests pass, the fuses read well, the identity key unwraps, and
the nonce that the DRBG draws (R396). -/
structure BootInputs where
  kat : Bool
  fuses : Bool
  unwrap : Bool
  nonce : BitVec 128
  deriving DecidableEq, Repr

/-- An SPDM request (R393): the session it was sent in, where it is secured. -/
structure SpdmReq where
  session : Option Nat
  deriving DecidableEq, Repr

/-- An IDE key command (R395): the session it came in, whether it is for CXL.cachemem, its direction, key set and key. -/
structure IdeKey where
  session : Nat
  cachemem : Bool
  dir : Bool
  set : Bool
  key : BitVec 256
  deriving DecidableEq, Repr
/-- The commands and events of the package, one constructor per row of the table of operations; each docstring gives the
row's name and the rule of the spec that states it. -/
inductive Instr where
  /-- REGISTER_WRITE (R10): A BAR0 write to a register field with no row of its own acts according to its field type (RW, WO, W1C, W1S, RWL) and ignores reserved bits. -/
  | registerWrite (off : Nat) (wide : Bool) (v : BitVec 64)
  /-- PAIR_LOW_WORD_READ (R13): A 32-bit read of the low word of a 64-bit register pair returns it and latches the high word for the next high-word read. -/
  | pairLowWordRead (rd : RegRead)
  /-- PAIR_LOW_WORD_WRITE (R13): A 32-bit write of the low word of a 64-bit register pair holds the value and changes nothing else. -/
  | pairLowWordWrite (off : Nat) (v : BitVec 32)
  /-- PAIR_HIGH_WORD_WRITE (R13): A 32-bit write of the high word applies it together with any held low word and empties the held word. -/
  | pairHighWordWrite (off : Nat) (v : BitVec 32)
  /-- BAD_SIZE_ACCESS (R14): A BAR0 access of unsupported size or alignment reads 0, has no effect and records a register-access error. -/
  | badSizeAccess (off bytes : Nat) (write : Bool)
  /-- SYNC_INTERVAL (R32): On expiry of the sync interval a non-master package sends a timestamped sync message to its parent on VC4. -/
  | syncInterval
  /-- SYNC_REQ (R32): A received SYNC_REQ flit is timestamped and answered with SYNC_RSP. -/
  | syncReq (src : BitVec 16) (tSend tRecv : BitVec 64)
  /-- SYNC_RSP (R32): A received SYNC_RSP completes an exchange; the package computes delay and offset, adjusts the rate word and advances the synchronisation state. -/
  | syncRsp (t1 t2 t3 t4 : BitVec 64)
  /-- SYNC_HOLDOVER (R33): Eight sync intervals with no completed exchange move a LOCKED package to HOLDOVER and set SYNC_LOST. -/
  | syncHoldover
  /-- RUN_SET (R37): Setting TIM_CTRL.RUN makes the package join the start cinch carrying its stitch and DET_CFG profile. -/
  | runSet (v : BitVec 32)
  /-- RUN_CLEAR (R38): Clearing RUN while HELD or STOPPED drops any withheld arrival and latched STITCH_IN pulse and leaves the cinch; otherwise RUN stays 1. -/
  | runClear (v : BitVec 32)
  /-- HOLD_SET (R38): Setting TIM_CTRL.HOLD makes the package withhold its next cinch arrival. -/
  | holdSet (v : BitVec 32)
  /-- HOLD_CLEAR (R38): Clearing HOLD while RUN is 1 sends the withheld arrival. -/
  | holdClear (v : BitVec 32)
  /-- PLEAT_BEGIN (R43): A pleat begins: its kind and length are read, sync counters reset, and the active bank is examined for firing entries. -/
  | pleatBegin
  /-- ACTION_DMA (R45): A firing DMA action launches its COUNT DMA descriptors at its launch slot. -/
  | actionDma
  /-- ACTION_TILE_TASK (R110): A firing tile-task action launches its descriptors into the named tiles' queues. -/
  | actionTileTask
  /-- ACTION_SOLVER_BATCH (R184): A firing solver-batch action launches its batch descriptors onto engines or cores. -/
  | actionSolverBatch
  /-- ACTION_CORE_PROGRAM (R180): A firing core-program action launches its core launch descriptors into core queues. -/
  | actionCoreProgram
  /-- ACTION_COLLECTIVE_START (R291): A firing collective-start action places its collective descriptors on their channels' queues. -/
  | actionCollectiveStart
  /-- ACTION_TELEMETRY_SAMPLE (R49): A telemetry-sample action captures its counter set into the next slot of its record buffer. -/
  | actionTelemetrySample
  /-- ACTION_CHECKPOINT (R347): A checkpoint action queues its pocket capture descriptor at the pocket engine. -/
  | actionCheckpoint
  /-- ACTION_HOST_SIGNAL (R45): A host-signal action completes by writing its completion entry. -/
  | actionHostSignal
  /-- ACTION_THROTTLE (R411): A throttle action applies its throttle descriptor's SW level to a range of logical units. -/
  | actionThrottle
  /-- PLEAT_END_TIME (R40): A timed pleat reaches its end time; if actions are still running it overruns, counting and flagging PLEAT_OVERRUN. -/
  | pleatEndTime
  /-- PLEAT_END (R39): A pleat ends once its actions have completed and their stores drained, and the next pleat or stitch completion follows. -/
  | pleatEnd
  /-- OPEN_PLEAT_WATCHDOG (R42): The watchdog of an open pleat expires with actions running and sets OPEN_PLEAT_WATCH without ending the pleat. -/
  | openPleatWatchdog
  /-- DEADLINE_SIGNAL (R41): The deadline lead point of a deadline action is reached and the deadline is signalled to its units. -/
  | deadlineSignal (action : Nat)
  /-- STITCH_COMPLETE (R36): The last pleat of a stitch ends; the scale unit updates and the package prepares its cinch arrival. -/
  | stitchComplete
  /-- ARRIVE_SEND (R51): Once the stitch is drained, not held and all children have arrived, the member sends ARRIVE to its parent. -/
  | arriveSend
  /-- CINCH_ARRIVE (R51): A received CINCH_ARRIVE is checked for stitch, profile and key and counted; at the root the last arrival sets the release time. -/
  | cinchArrive (m : ArriveMsg)
  /-- CINCH_RELEASE (R52): A received CINCH_RELEASE is checked, forwarded down the tree and scheduled for its release time. -/
  | cinchRelease (m : ReleaseMsg)
  /-- STITCH_BEGIN (R52): At release time T the member increments its stitch, drives STITCH_OUT, applies any armed bank switch and begins pleat 0. -/
  | stitchBegin
  /-- BANK_ARM (R48): Writing TIM_BANK_CTRL.ARM arms a switch to the target bank at the target stitch. -/
  | bankArm (v : BitVec 32)
  /-- CINCH_TIMEOUT (R54): Children missing TIM_CINCH_TIMEOUT after own completion set CINCH_TIMEOUT and the job stays paused. -/
  | cinchTimeout
  /-- STITCH_IN (R55): A STITCH_IN pulse at a running root with ADV 1 is latched as an awaited arrival, or dropped and counted as an overrun. -/
  | stitchIn
  /-- STITCH_OUT_END (R56): The STITCH_OUT pulse width elapses and the output returns low. -/
  | stitchOutEnd
  /-- TASK_MATMUL (R88): A MATMUL tile task runs its pre-pass and blocks with anchored accumulation, exact checking and output conversion. -/
  | taskMatmul (t : Fin 256) (faults : List ArrayFault)
  /-- TASK_SLICED (R99): A SLICED tile task forms binary64 products by slice-pair passes and the combining adder. -/
  | taskSliced (t : Fin 256) (faults : List ArrayFault)
  /-- TASK_EXPONENT (R95): An EXPONENT tile task computes and writes row and column anchor arrays only. -/
  | taskExponent (t : Fin 256)
  /-- TASK_COMBINE (R97): A COMBINE tile task sums anchored partial arrays exactly and converts or rewrites them. -/
  | taskCombine (t : Fin 256)
  /-- TASK_VPROG (R155): A VPROG tile task starts a Virulax program on the tile sequencer and vector engine. -/
  | taskVprog (t : Fin 256)
  /-- TASK_COMPLETE (R111): A tile task whose stores are performed completes, writes STATUS and increments its signal counter. -/
  | taskComplete (t : Fin 256)
  /-- TASK_MIGRATE (R237): With DLB set the hub moves an eligible queued tile task to an idle tile on the same die. -/
  | taskMigrate (src dst : Fin 256)
  /-- VADD (R128): Wrapping integer add of vector elements. -/
  | vadd (u : VUnit) (o : VFields)
  /-- VSUB (R128): Wrapping integer subtract of vector elements. -/
  | vsub (u : VUnit) (o : VFields)
  /-- VMUL (R128): Wrapping integer multiply of vector elements. -/
  | vmul (u : VUnit) (o : VFields)
  /-- VMULHI (R128): Signed high half of integer vector products. -/
  | vmulhi (u : VUnit) (o : VFields)
  /-- VMIN (R128): Signed element-wise integer minimum. -/
  | vmin (u : VUnit) (o : VFields)
  /-- VMAX (R128): Signed element-wise integer maximum. -/
  | vmax (u : VUnit) (o : VFields)
  /-- VMINU (R128): Unsigned element-wise integer minimum. -/
  | vminu (u : VUnit) (o : VFields)
  /-- VMAXU (R128): Unsigned element-wise integer maximum. -/
  | vmaxu (u : VUnit) (o : VFields)
  /-- VAND (R128): Bitwise AND of vector elements. -/
  | vand (u : VUnit) (o : VFields)
  /-- VOR (R128): Bitwise OR of vector elements. -/
  | vor (u : VUnit) (o : VFields)
  /-- VXOR (R128): Bitwise XOR of vector elements. -/
  | vxor (u : VUnit) (o : VFields)
  /-- VSHL (R128): Shift vector elements left by a count modulo EW. -/
  | vshl (u : VUnit) (o : VFields)
  /-- VSHR (R128): Logical right shift of vector elements. -/
  | vshr (u : VUnit) (o : VFields)
  /-- VSAR (R128): Arithmetic right shift of vector elements. -/
  | vsar (u : VUnit) (o : VFields)
  /-- VSADD (R128): Signed saturating add of vector elements. -/
  | vsadd (u : VUnit) (o : VFields)
  /-- VSSUB (R128): Signed saturating subtract of vector elements. -/
  | vssub (u : VUnit) (o : VFields)
  /-- VADD_W (R131): Widening integer add into a register pair. -/
  | vaddW (u : VUnit) (o : VFields)
  /-- VMUL_W (R131): Widening integer multiply into a register pair. -/
  | vmulW (u : VUnit) (o : VFields)
  /-- VDOT4 (R132): INT8 four-way dot product accumulated into 32-bit elements. -/
  | vdot4 (u : VUnit) (o : VFields)
  /-- VMOV (R158): Copy a vector or broadcast a scalar into vd. -/
  | vmov (u : VUnit) (o : VFields)
  /-- VCMP_EQ (R158): Integer equality compare into a mask. -/
  | vcmpEq (u : VUnit) (o : VFields)
  /-- VCMP_NE (R158): Integer inequality compare into a mask. -/
  | vcmpNe (u : VUnit) (o : VFields)
  /-- VCMP_LT (R158): Signed less-than compare into a mask. -/
  | vcmpLt (u : VUnit) (o : VFields)
  /-- VCMP_LTU (R158): Unsigned less-than compare into a mask. -/
  | vcmpLtu (u : VUnit) (o : VFields)
  /-- VCMP_LE (R158): Signed less-or-equal compare into a mask. -/
  | vcmpLe (u : VUnit) (o : VFields)
  /-- VCMP_LEU (R158): Unsigned less-or-equal compare into a mask. -/
  | vcmpLeu (u : VUnit) (o : VFields)
  /-- VFADD (R129): Floating-point add rounded once under VTYPE. -/
  | vfadd (u : VUnit) (o : VFields)
  /-- VFSUB (R129): Floating-point subtract rounded once. -/
  | vfsub (u : VUnit) (o : VFields)
  /-- VFMUL (R129): Floating-point multiply rounded once. -/
  | vfmul (u : VUnit) (o : VFields)
  /-- VFDIV (R129): Correctly rounded floating-point divide. -/
  | vfdiv (u : VUnit) (o : VFields)
  /-- VFMIN (R81): Floating-point minimum with NaN propagation. -/
  | vfmin (u : VUnit) (o : VFields)
  /-- VFMAX (R81): Floating-point maximum with NaN propagation. -/
  | vfmax (u : VUnit) (o : VFields)
  /-- VFMA (R129): Fused multiply-add into vd. -/
  | vfma (u : VUnit) (o : VFields)
  /-- VFNMA (R129): Fused negated multiply-add into vd. -/
  | vfnma (u : VUnit) (o : VFields)
  /-- VFCOPYS (R129): Copy the sign of vs1 onto vs2. -/
  | vfcopys (u : VUnit) (o : VFields)
  /-- VFCOPYSN (R129): Copy the inverted sign of vs1 onto vs2. -/
  | vfcopysn (u : VUnit) (o : VFields)
  /-- VFADD_W (R131): Widening floating-point add. -/
  | vfaddW (u : VUnit) (o : VFields)
  /-- VFMUL_W (R131): Widening floating-point multiply. -/
  | vfmulW (u : VUnit) (o : VFields)
  /-- VFMA_W (R131): Widening fused multiply-add. -/
  | vfmaW (u : VUnit) (o : VFields)
  /-- VFDOT4 (R132): Exact FP8 four-way dot product added to binary32 and rounded once. -/
  | vfdot4 (u : VUnit) (alt : Bool) (o : VFields)
  /-- VFDOT2 (R132): Exact 16-bit two-way dot product added to binary32 and rounded once. -/
  | vfdot2 (u : VUnit) (alt : Bool) (o : VFields)
  /-- VFMOV (R129): Copy vector bits, or round and broadcast a scalar. -/
  | vfmov (u : VUnit) (o : VFields)
  /-- VFCMP_EQ (R80): Floating-point equality compare into a mask. -/
  | vfcmpEq (u : VUnit) (o : VFields)
  /-- VFCMP_NE (R80): Floating-point not-equal compare into a mask. -/
  | vfcmpNe (u : VUnit) (o : VFields)
  /-- VFCMP_LT (R80): Floating-point less-than compare into a mask. -/
  | vfcmpLt (u : VUnit) (o : VFields)
  /-- VFCMP_LE (R80): Floating-point less-or-equal compare into a mask. -/
  | vfcmpLe (u : VUnit) (o : VFields)
  /-- VFCMP_UN (R80): Floating-point unordered compare into a mask. -/
  | vfcmpUn (u : VUnit) (o : VFields)
  /-- VFCVT (R135): Convert elements between VTYPE.FMT and another format, including MX blocks. -/
  | vfcvt (u : VUnit) (o : VFields)
  /-- VFUNARY (R144): Apply SQRT, RCP, RSQRT, EXP2, LOG2, TANH or SIGM, correctly rounded. -/
  | vfunary (u : VUnit) (o : VFields)
  /-- VFNEG (R129): Invert the sign bit of each element. -/
  | vfneg (u : VUnit) (o : VFields)
  /-- VFABS (R129): Clear the sign bit of each element. -/
  | vfabs (u : VUnit) (o : VFields)
  /-- VFUPD (R171): Fused weight update with bfloat16 remainder companion. -/
  | vfupd (u : VUnit) (o : VFields)
  /-- VLD (R137): Vector load by unit stride, stride, index or whole register. -/
  | vld (u : VUnit) (fn : BitVec 3) (o : VFields)
  /-- VST (R138): Vector store via the store buffer, committed in ascending order. -/
  | vst (u : VUnit) (fn : BitVec 3) (o : VFields)
  /-- VSTADD (R139): Indexed scatter-add with one read-modify-write per distinct address. -/
  | vstadd (u : VUnit) (wide : Bool) (o : VFields)
  /-- VKAND (R158): Mask AND. -/
  | vkand (u : VUnit) (o : VFields)
  /-- VKOR (R158): Mask OR. -/
  | vkor (u : VUnit) (o : VFields)
  /-- VKXOR (R158): Mask XOR. -/
  | vkxor (u : VUnit) (o : VFields)
  /-- VKANDN (R158): Mask AND-NOT. -/
  | vkandn (u : VUnit) (o : VFields)
  /-- VKNOT (R158): Mask NOT. -/
  | vknot (u : VUnit) (o : VFields)
  /-- VKCOUNT (R143): Count active set mask bits into xd. -/
  | vkcount (u : VUnit) (o : VFields)
  /-- VKLEAD (R143): Index of the lowest active set mask bit into xd. -/
  | vklead (u : VUnit) (o : VFields)
  /-- VSUMR (R133): Wrapping integer sum reduction. -/
  | vsumr (u : VUnit) (o : VFields)
  /-- VMAXR (R133): Signed integer maximum reduction. -/
  | vmaxr (u : VUnit) (o : VFields)
  /-- VMINR (R133): Signed integer minimum reduction. -/
  | vminr (u : VUnit) (o : VFields)
  /-- VMAXRU (R133): Unsigned integer maximum reduction. -/
  | vmaxru (u : VUnit) (o : VFields)
  /-- VMINRU (R133): Unsigned integer minimum reduction. -/
  | vminru (u : VUnit) (o : VFields)
  /-- VFSUMR_T (R133): Floating-point tree sum reduction over logical positions. -/
  | vfsumrT (u : VUnit) (o : VFields)
  /-- VFSUMR_X (R133): Exact floating-point sum reduction rounded once. -/
  | vfsumrX (u : VUnit) (o : VFields)
  /-- VFMAXR (R133): Floating-point maximum reduction. -/
  | vfmaxr (u : VUnit) (o : VFields)
  /-- VFMINR (R133): Floating-point minimum reduction. -/
  | vfminr (u : VUnit) (o : VFields)
  /-- VARGMAXR (R134): Index of the greatest active element into xd. -/
  | vargmaxr (u : VUnit) (o : VFields)
  /-- VARGMINR (R134): Index of the least active element into xd. -/
  | vargminr (u : VUnit) (o : VFields)
  /-- VSSCAN_ADD (R141): Segmented integer add scan. -/
  | vsscanAdd (u : VUnit) (o : VFields)
  /-- VSSCAN_MAX (R141): Segmented integer maximum scan. -/
  | vsscanMax (u : VUnit) (o : VFields)
  /-- VSSCAN_MIN (R141): Segmented integer minimum scan. -/
  | vsscanMin (u : VUnit) (o : VFields)
  /-- VFSSCAN_ADD (R141): Segmented sequential floating-point add scan. -/
  | vfsscanAdd (u : VUnit) (o : VFields)
  /-- VFSSCAN_MAX (R141): Segmented floating-point maximum scan. -/
  | vfsscanMax (u : VUnit) (o : VFields)
  /-- VFSSCAN_MIN (R141): Segmented floating-point minimum scan. -/
  | vfsscanMin (u : VUnit) (o : VFields)
  /-- VHIST (R142): Histogram of bin numbers into 256 counters. -/
  | vhist (u : VUnit) (o : VFields)
  /-- VPACK (R143): Pack active elements to the front of vd. -/
  | vpack (u : VUnit) (o : VFields)
  /-- VSPREAD (R143): Spread packed elements to active positions. -/
  | vspread (u : VUnit) (o : VFields)
  /-- VPICK (R143): Gather elements within a register by index. -/
  | vpick (u : VUnit) (o : VFields)
  /-- VINDEX (R143): Write each active element's logical index. -/
  | vindex (u : VUnit) (o : VFields)
  /-- VLSET (R122): Set VTYPE from xs2 and VL from the requested count. -/
  | vlset (u : VUnit) (o : VFields)
  /-- VLSETI (R122): Set VTYPE from an immediate and VL from the requested count. -/
  | vlseti (u : VUnit) (mon : Bool) (o : VFields)
  /-- VCRRD (R124): Read a vector control register into xd. -/
  | vcrrd (u : VUnit) (o : VFields)
  /-- VCRWR (R124): Write a vector control register. -/
  | vcrwr (u : VUnit) (o : VFields)
  /-- VACCR (R136): Read a row of the held accumulator block, converted or raw. -/
  | vaccr (u : VUnit) (o : VFields)
  /-- VSMAX (R145): Apply exactly defined softmax to every row of a register. -/
  | vsmax (u : VUnit) (o : VFields)
  /-- VCATD (R222): Draw one categorical index per row by the Gumbel-max rule. -/
  | vcatd (u : VUnit) (o : VFields)
  /-- VBERN (R220): Set mask bits by Bernoulli draws. -/
  | vbern (u : VUnit) (o : VFields)
  /-- VRAND (R149): Write raw bobbin words for active elements. -/
  | vrand (u : VUnit) (o : VFields)
  /-- VFENCE (R138): Wait until every committed store of the program is performed and acknowledged. -/
  | vfence (u : VUnit) (o : VFields)
  /-- VEND (R156): End the program with TT_OK once its stores are committed. -/
  | vend (u : VUnit) (o : VFields)
  /-- VTRAP (R151): End the program with VP_TRAP, saving a code in the context. -/
  | vtrap (u : VUnit) (o : VFields)
  /-- VE_INTERRUPT (R152): An interruption request abandons the current instruction within 16 tc, saves the context and reports the unit drained. -/
  | veInterrupt (u : VUnit)
  /-- CONTEXT_RESTORE (R152): On resumption the engine reads and checks the context and continues at the saved PC. -/
  | contextRestore (u : VUnit)
  /-- ADD (R178): Wrapping 64-bit integer add. -/
  | add (u : VUnit) (xd xs1 xs2 : Fin 32)
  /-- SUB (R178): Wrapping 64-bit integer subtract. -/
  | sub (u : VUnit) (xd xs1 xs2 : Fin 32)
  /-- MUL (R178): Wrapping 64-bit integer multiply. -/
  | mul (u : VUnit) (xd xs1 xs2 : Fin 32)
  /-- MULHI (R178): Signed high half of a 64-bit product. -/
  | mulhi (u : VUnit) (xd xs1 xs2 : Fin 32)
  /-- MULHIU (R178): Unsigned high half of a 64-bit product. -/
  | mulhiu (u : VUnit) (xd xs1 xs2 : Fin 32)
  /-- QUO (R178): Signed quotient, 0 on divide by zero. -/
  | quo (u : VUnit) (xd xs1 xs2 : Fin 32)
  /-- QUOU (R178): Unsigned quotient, 0 on divide by zero. -/
  | quou (u : VUnit) (xd xs1 xs2 : Fin 32)
  /-- MOD (R178): Signed remainder, the dividend on divide by zero. -/
  | mod (u : VUnit) (xd xs1 xs2 : Fin 32)
  /-- MODU (R178): Unsigned remainder, the dividend on divide by zero. -/
  | modu (u : VUnit) (xd xs1 xs2 : Fin 32)
  /-- AND (R177): Bitwise AND of scalar registers. -/
  | and (u : VUnit) (xd xs1 xs2 : Fin 32)
  /-- OR (R177): Bitwise OR of scalar registers. -/
  | or (u : VUnit) (xd xs1 xs2 : Fin 32)
  /-- XOR (R177): Bitwise XOR of scalar registers. -/
  | xor (u : VUnit) (xd xs1 xs2 : Fin 32)
  /-- SHL (R177): Scalar shift left. -/
  | shl (u : VUnit) (xd xs1 xs2 : Fin 32)
  /-- SHR (R177): Scalar logical shift right. -/
  | shr (u : VUnit) (xd xs1 xs2 : Fin 32)
  /-- SAR (R177): Scalar arithmetic shift right. -/
  | sar (u : VUnit) (xd xs1 xs2 : Fin 32)
  /-- CMPLT (R177): Signed scalar less-than compare. -/
  | cmplt (u : VUnit) (xd xs1 xs2 : Fin 32)
  /-- CMPLTU (R177): Unsigned scalar less-than compare. -/
  | cmpltu (u : VUnit) (xd xs1 xs2 : Fin 32)
  /-- MIN (R177): Scalar signed minimum. -/
  | min (u : VUnit) (xd xs1 xs2 : Fin 32)
  /-- MAX (R177): Scalar signed maximum. -/
  | max (u : VUnit) (xd xs1 xs2 : Fin 32)
  /-- LZC (R177): Leading-zero count of a scalar register. -/
  | lzc (u : VUnit) (xd xs1 xs2 : Fin 32)
  /-- BITCNT (R177): Population count of a scalar register. -/
  | bitcnt (u : VUnit) (xd xs1 xs2 : Fin 32)
  /-- ADD_I (R177): Add a sign-extended immediate. -/
  | addI (u : VUnit) (xd xs1 : Fin 32) (imm : BitVec 11)
  /-- AND_I (R177): AND with an immediate. -/
  | andI (u : VUnit) (xd xs1 : Fin 32) (imm : BitVec 11)
  /-- OR_I (R177): OR with an immediate. -/
  | orI (u : VUnit) (xd xs1 : Fin 32) (imm : BitVec 11)
  /-- XOR_I (R177): XOR with an immediate. -/
  | xorI (u : VUnit) (xd xs1 : Fin 32) (imm : BitVec 11)
  /-- SHL_I (R177): Shift left by an immediate. -/
  | shlI (u : VUnit) (xd xs1 : Fin 32) (imm : BitVec 11)
  /-- SHR_I (R177): Logical shift right by an immediate. -/
  | shrI (u : VUnit) (xd xs1 : Fin 32) (imm : BitVec 11)
  /-- SAR_I (R177): Arithmetic shift right by an immediate. -/
  | sarI (u : VUnit) (xd xs1 : Fin 32) (imm : BitVec 11)
  /-- CMPLT_I (R177): Signed compare against an immediate. -/
  | cmpltI (u : VUnit) (xd xs1 : Fin 32) (imm : BitVec 11)
  /-- MOVH16 (R177): Load an immediate shifted left by 16. -/
  | movh16 (u : VUnit) (xd : Fin 32) (imm : BitVec 16)
  /-- SHLOR16 (R177): Shift xd left 16 and OR a zero-extended immediate. -/
  | shlor16 (u : VUnit) (xd : Fin 32) (imm : BitVec 16)
  /-- LD_B (R178): Load a sign-extended byte. -/
  | ldB (u : VUnit) (xd xs1 : Fin 32) (imm : BitVec 11)
  /-- LD_H (R178): Load a sign-extended halfword. -/
  | ldH (u : VUnit) (xd xs1 : Fin 32) (imm : BitVec 11)
  /-- LD_W (R178): Load a sign-extended word. -/
  | ldW (u : VUnit) (xd xs1 : Fin 32) (imm : BitVec 11)
  /-- LD_D (R178): Load a doubleword. -/
  | ldD (u : VUnit) (xd xs1 : Fin 32) (imm : BitVec 11)
  /-- LD_BU (R178): Load a zero-extended byte. -/
  | ldBu (u : VUnit) (xd xs1 : Fin 32) (imm : BitVec 11)
  /-- LD_HU (R178): Load a zero-extended halfword. -/
  | ldHu (u : VUnit) (xd xs1 : Fin 32) (imm : BitVec 11)
  /-- LD_WU (R178): Load a zero-extended word. -/
  | ldWu (u : VUnit) (xd xs1 : Fin 32) (imm : BitVec 11)
  /-- LDF_S (R178): Load a binary32 into an f register. -/
  | ldfS (u : VUnit) (fd xs1 : Fin 32) (imm : BitVec 11)
  /-- LDF_D (R178): Load a binary64 into an f register. -/
  | ldfD (u : VUnit) (fd xs1 : Fin 32) (imm : BitVec 11)
  /-- ST_B (R178): Store a byte. -/
  | stB (u : VUnit) (xs1 xs2 : Fin 32) (imm : BitVec 11)
  /-- ST_H (R178): Store a halfword. -/
  | stH (u : VUnit) (xs1 xs2 : Fin 32) (imm : BitVec 11)
  /-- ST_W (R178): Store a word. -/
  | stW (u : VUnit) (xs1 xs2 : Fin 32) (imm : BitVec 11)
  /-- ST_D (R178): Store a doubleword. -/
  | stD (u : VUnit) (xs1 xs2 : Fin 32) (imm : BitVec 11)
  /-- STF_S (R178): Store a binary32 from an f register. -/
  | stfS (u : VUnit) (xs1 fs2 : Fin 32) (imm : BitVec 11)
  /-- STF_D (R178): Store a binary64 from an f register. -/
  | stfD (u : VUnit) (xs1 fs2 : Fin 32) (imm : BitVec 11)
  /-- BR_EQ (R177): Branch if equal. -/
  | brEq (u : VUnit) (xs1 xs2 : Fin 32) (imm : BitVec 11)
  /-- BR_NE (R177): Branch if not equal. -/
  | brNe (u : VUnit) (xs1 xs2 : Fin 32) (imm : BitVec 11)
  /-- BR_LT (R177): Branch if signed less. -/
  | brLt (u : VUnit) (xs1 xs2 : Fin 32) (imm : BitVec 11)
  /-- BR_GE (R177): Branch if signed greater or equal. -/
  | brGe (u : VUnit) (xs1 xs2 : Fin 32) (imm : BitVec 11)
  /-- BR_LTU (R177): Branch if unsigned less. -/
  | brLtu (u : VUnit) (xs1 xs2 : Fin 32) (imm : BitVec 11)
  /-- BR_GEU (R177): Branch if unsigned greater or equal. -/
  | brGeu (u : VUnit) (xs1 xs2 : Fin 32) (imm : BitVec 11)
  /-- JUMP (R177): PC-relative jump. -/
  | jump (u : VUnit) (imm : BitVec 21)
  /-- CALL (R177): PC-relative call with return address in x31. -/
  | call (u : VUnit) (imm : BitVec 21)
  /-- JUMPR (R177): Register-target jump. -/
  | jumpr (u : VUnit) (xs1 : Fin 32) (imm : BitVec 11)
  /-- CALLR (R177): Register-target call with return address in x31. -/
  | callr (u : VUnit) (xs1 : Fin 32) (imm : BitVec 11)
  /-- FADD (R178): Scalar floating-point add under RNE. -/
  | fadd (u : VUnit) (fd fs1 fs2 : Fin 32) (single : Bool)
  /-- FSUB (R178): Scalar floating-point subtract. -/
  | fsub (u : VUnit) (fd fs1 fs2 : Fin 32) (single : Bool)
  /-- FMUL (R178): Scalar floating-point multiply. -/
  | fmul (u : VUnit) (fd fs1 fs2 : Fin 32) (single : Bool)
  /-- FDIV (R178): Correctly rounded scalar divide. -/
  | fdiv (u : VUnit) (fd fs1 fs2 : Fin 32) (single : Bool)
  /-- FSQRT (R178): Correctly rounded scalar square root. -/
  | fsqrt (u : VUnit) (fd fs1 : Fin 32) (single : Bool)
  /-- FMIN (R178): Scalar floating-point minimum. -/
  | fmin (u : VUnit) (fd fs1 fs2 : Fin 32) (single : Bool)
  /-- FMAX (R178): Scalar floating-point maximum. -/
  | fmax (u : VUnit) (fd fs1 fs2 : Fin 32) (single : Bool)
  /-- FMA (R178): Scalar fused multiply-add into fd. -/
  | fma (u : VUnit) (fd fs1 fs2 : Fin 32) (single : Bool)
  /-- FNMA (R178): Scalar negated fused multiply-add into fd. -/
  | fnma (u : VUnit) (fd fs1 fs2 : Fin 32) (single : Bool)
  /-- FCOPYS (R177): Scalar copy-sign. -/
  | fcopys (u : VUnit) (fd fs1 fs2 : Fin 32) (single : Bool)
  /-- FCOPYSN (R177): Scalar copy-inverted-sign. -/
  | fcopysn (u : VUnit) (fd fs1 fs2 : Fin 32) (single : Bool)
  /-- FCMP_EQ (R177): Scalar floating equality compare into xd. -/
  | fcmpEq (u : VUnit) (xd fs1 fs2 : Fin 32) (single : Bool)
  /-- FCMP_LT (R177): Scalar floating less-than compare into xd. -/
  | fcmpLt (u : VUnit) (xd fs1 fs2 : Fin 32) (single : Bool)
  /-- FCMP_LE (R177): Scalar floating less-or-equal compare into xd. -/
  | fcmpLe (u : VUnit) (xd fs1 fs2 : Fin 32) (single : Bool)
  /-- FCONV_F_I (R177): Convert a signed integer to floating point. -/
  | fconvFI (u : VUnit) (fd xs1 : Fin 32) (single : Bool)
  /-- FCONV_I_F (R178): Convert floating point to a saturated signed integer by RTZ. -/
  | fconvIF (u : VUnit) (xd fs1 : Fin 32) (single : Bool)
  /-- FCONV_F_F (R178): Convert between binary64 and binary32, rounding once. -/
  | fconvFF (u : VUnit) (fd fs1 : Fin 32) (single : Bool)
  /-- FMOV_I_F (R177): Move f-register bits to an x register. -/
  | fmovIF (u : VUnit) (xd fs1 : Fin 32) (single : Bool)
  /-- FMOV_F_I (R177): Move x-register bits to an f register. -/
  | fmovFI (u : VUnit) (fd xs1 : Fin 32) (single : Bool)
  /-- ATM_ADD (R178): Atomic add on 8 bytes returning the old value. -/
  | atmAdd (u : VUnit) (xd xs1 xs2 : Fin 32)
  /-- ATM_SWAP (R178): Atomic swap on 8 bytes. -/
  | atmSwap (u : VUnit) (xd xs1 xs2 : Fin 32)
  /-- ATM_MAX (R178): Atomic maximum on 8 bytes. -/
  | atmMax (u : VUnit) (xd xs1 xs2 : Fin 32)
  /-- ATM_MIN (R178): Atomic minimum on 8 bytes. -/
  | atmMin (u : VUnit) (xd xs1 xs2 : Fin 32)
  /-- ATM_CAS (R178): Atomic compare-and-swap on 8 bytes. -/
  | atmCas (u : VUnit) (xd xs1 xs2 : Fin 32)
  /-- FENCE (R178): Wait until the program's stores are performed and acknowledged. -/
  | fence (u : VUnit)
  /-- FENCE_COMPLETE (R283): A waiting fence completes once outstanding request counts reach zero. -/
  | fenceComplete (u : VUnit)
  /-- WAITSC (R178): Wait until a sync counter reaches a value. -/
  | waitsc (u : VUnit) (xs1 xs2 : Fin 32)
  /-- SYNC_WAIT_SATISFIED (R111): A sync counter reaches a waiter's count and the waiting task, batch, program or instruction proceeds. -/
  | syncWaitSatisfied (w : Waiter)
  /-- SIGSC (R178): Increment a sync counter once earlier stores are visible. -/
  | sigsc (u : VUnit) (xs1 : Fin 32)
  /-- CRRD (R179): Read a core control register. -/
  | crrd (u : VUnit) (xd : Fin 32) (imm : BitVec 11)
  /-- CRWR (R179): Write a core control register. -/
  | crwr (u : VUnit) (xs1 : Fin 32) (imm : BitVec 11)
  /-- END (R181): End a core program with status 0 once stores commit. -/
  | endp (u : VUnit)
  /-- TRAP (R181): End a core program with VP_TRAP. -/
  | trap (u : VUnit) (imm : BitVec 11)
  /-- CORE_PROGRAM_START (R181): A core launch descriptor at its queue head with its counter met starts the program, or completes SB_INVALID. -/
  | coreProgramStart (c : Fin 256)
  /-- BATCH_LU (R190): An LU batch share starts on an engine. -/
  | batchLu (e : Fin 32)
  /-- BATCH_CHOL (R191): A Cholesky batch share starts on an engine. -/
  | batchChol (e : Fin 32)
  /-- BATCH_LDLT (R191): An LDLT batch share starts on an engine. -/
  | batchLdlt (e : Fin 32)
  /-- BATCH_QR (R192): A QR batch share starts on an engine. -/
  | batchQr (e : Fin 32)
  /-- BATCH_TRI (R193): A triangular-solve batch share starts on an engine. -/
  | batchTri (e : Fin 32)
  /-- BATCH_INV (R193): An inversion batch share starts on an engine. -/
  | batchInv (e : Fin 32)
  /-- BATCH_REFINE (R200): A REFINE batch share starts on an engine with tile residuals. -/
  | batchRefine (e : Fin 32)
  /-- BATCH_PCG (R198): A PCG batch share starts on a core in groups. -/
  | batchPcg (c : Fin 256)
  /-- BATCH_PGS (R199): A PGS batch share starts on a core in groups. -/
  | batchPgs (c : Fin 256)
  /-- SOLVER_ITEM_END (R207): A solver item ends and its outputs and 32-byte record are written. -/
  | solverItemEnd (u : SUnit) (iters : Nat) (checkFails : Nat)
  /-- BATCH_COMPLETE (R185): When every unit has finished its share the batch writes STATUS and signals once. -/
  | batchComplete (desc : Nat)
  /-- SEED_WRITE (R214): A write to BOB_SEED sets the seed, or is ignored with SEED_IGNORED while running or locked. -/
  | seedWrite (v : BitVec 64)
  /-- BOB_CTRL_LOCK (R214): Setting BOB_CTRL.LOCK locks BOB_SEED until package reset. -/
  | bobCtrlLock (v : BitVec 32)
  /-- FILL_GO (R225): Setting BOB_FILL_CTRL.GO samples the fill inputs and starts a fill, or sets FILL_ERROR. -/
  | fillGo (v : BitVec 32)
  /-- FILL_DONE (R225): The last fill store is performed and acknowledged; FILL_DONE is set and GO clears. -/
  | fillDone
  /-- GEN_GO (R226): Setting BOB_GEN_CTRL.GO samples the port inputs and starts one draw. -/
  | genGo (v : BitVec 32)
  /-- GEN_DONE (R226): Sixteen tc after GO the port writes BOB_GEN_OUT and clears GEN_BUSY and GO. -/
  | genDone
  /-- DET_CFG_WRITE (R241): A write to DET_CFG sets the determinism profile unless RUN is 1 or LOCK is set. -/
  | detCfgWrite (v : BitVec 32)
  /-- DET_CFG_LOCK (R241): Setting DET_CFG.LOCK locks the profile until package reset. -/
  | detCfgLock (v : BitVec 32)
  /-- TNS_CFG_LOCK (R117): Setting TNS_CFG.LOCK locks ABFT_FORCE until package reset. -/
  | tnsCfgLock (t : Fin 256) (v : BitVec 32)
  /-- MON_ARM (R165): Writing MON_CFG with ARMED 1 arms a monitor set and locks its configuration. -/
  | monArm (n : Fin 1024) (v : BitVec 32)
  /-- MON_DISARM (R165): Writing MON_CFG with ARMED 0 disarms a set, applying the fields carried and trimming history. -/
  | monDisarm (n : Fin 1024) (v : BitVec 32)
  /-- MON_CLEAR (R165): Writing MON_CTRL.CLEAR zeroes a set's counts and AMAX. -/
  | monClear (n : Fin 1024) (v : BitVec 32)
  /-- MEM_TRAIN (R247): Setting MEM_CTRL.TRAIN starts training of every channel. -/
  | memTrain (v : BitVec 32)
  /-- MEM_TRAIN_DONE (R247): Training ends, setting TRAINED or TRAIN_FAIL with the failing package. -/
  | memTrainDone (fail : Option (Fin 64))
  /-- MEM_INIT (R247): Setting MEM_CTRL.INIT after training starts the fill of every sector. -/
  | memInit (v : BitVec 32)
  /-- MEM_INIT_DONE (R247): The fill ends and INIT_BUSY clears. -/
  | memInitDone
  /-- MEM_OPEN (R247): Setting MEM_CTRL.OPEN after the fill opens working memory and the pocket records are read. -/
  | memOpen (v : BitVec 32)
  /-- MEM_FLUSH (R251): Setting MEM_CTRL.FLUSH writes back every dirty check sector. -/
  | memFlush (v : BitVec 32)
  /-- MEM_FLUSH_DONE (R251): The last controller finishes the flush and FLUSH clears. -/
  | memFlushDone
  /-- MEM_RETIRE_ADD (R260): Writing MEM_RETIRE_ADD retires the named page, mapping it before INIT or copying it after. -/
  | memRetireAdd (addr : BitVec 64)
  /-- MEM_READ (R251): A whole-sector read at its home controller, with check-cache lookup and granule decode. -/
  | memRead (addr : Nat) (req : Req) (err : List SymErr) (hops : List (List SymErr))
  /-- MEM_WRITE (R251): A whole-sector write at its home controller with check-byte update. -/
  | memWrite (addr : Nat) (data : BitVec 256) (poison : Bool) (req : Req) (hops : List (List SymErr))
  /-- MEM_PARTIAL_WRITE (R251): A partial-sector write performed as read, decode, merge and write. -/
  | memPartialWrite (addr : Nat) (mask : BitVec 32) (data : BitVec 256) (poison : Bool) (req : Req) (err : List SymErr) (hops : List (List SymErr))
  /-- MEM_ATOMIC (R251): An atomic or scatter-add performed as a partial-sector read-modify-write. -/
  | memAtomic (addr : Nat) (op : AtomOp) (req : Req) (err : PathErrs)
  /-- PAGE_RETIRE (R260): The home controller holds a page's requests, copies it to a spare slot and remaps it. -/
  | pageRetire (page : Nat)
  /-- PAGE_RETIRE_DONE (R260): The copy ends, the page is mapped to its slot and held requests are released. -/
  | pageRetireDone (copy : PageCopy)
  /-- REFRESH_DUE (R256): A per-bank refresh falls due at the rate MR4 requests and is issued. -/
  | refreshDue (n : Fin 64) (ch rank : Nat) (bank : Fin 16) (lostTc : Nat)
  /-- SCRUB_READ (R257): A patrol scrub reads one group in a refresh slot and handles each granule's decode. -/
  | scrubRead (n : Fin 64) (ch : Fin 4) (errs : List (List SymErr))
  /-- MR4_POLL (R258): Every 16 ms a controller reads MR4 for refresh rate and temperature and adjusts throttling. -/
  | mr4Poll (n : Fin 64) (temp : BitVec 8) (rate : BitVec 3) (heldTc : Nat)
  /-- LINK_FLIT_RECEIVE (R271): A flit received on a link is CRC-checked and sequenced, its ACK, NACK and credits taken, or it is dropped with a NACK. -/
  | linkFlitReceive (p : Fin 32) (f : Flit) (l : LinkPart)
  /-- LINK_NACK (R271): A received link NACK makes the transmitter resend every flit after the named LSEQ; eight failures take the port down. -/
  | linkNack (p : Fin 32) (lseq : BitVec 12)
  /-- RD_REQ (R280): A remote read request is performed in SEQ order and answered with RD_RSP. -/
  | rdReq (f : Flit)
  /-- RD_RSP (R270): A read response delivers its granules to the requester. -/
  | rdRsp (f : Flit)
  /-- WR_REQ (R280): A remote write request is performed in SEQ order and acknowledged. -/
  | wrReq (f : Flit)
  /-- WR_ACK (R283): A write acknowledgement decrements the outstanding count for its destination. -/
  | wrAck (f : Flit)
  /-- ATOM_REQ (R282): A remote atomic is performed exactly once via the reply cache, or answered BUSY or STALE. -/
  | atomReq (f : Flit)
  /-- ATOM_RSP (R270): An atomic response returns the old value to the issuer. -/
  | atomRsp (f : Flit)
  /-- NACK (R282): A NACK of STALE ends the issuing program; BUSY is treated as a lost response. -/
  | nack (f : Flit)
  /-- DMA_RD (R284): A DMA read request makes the node send the requested chunk as DMA_DATA. -/
  | dmaRd (f : Flit)
  /-- DMA_DATA (R284): DMA data flits fill a chunk buffer; the LAST flit's CRC decides write, resend or partial. -/
  | dmaData (f : Flit)
  /-- DMA_ACK (R284): A chunk acknowledgement reports OK, RESEND or PARTIAL failures to the source. -/
  | dmaAck (f : Flit)
  /-- COLL_DATA (R307): Collective data flits fill a chunk; the final receiver checks its CRC before adding or writing it. -/
  | collData (f : Flit)
  /-- COLL_HELLO (R297): A HELLO is compared with the receiver's signature for its tag or held until that collective starts. -/
  | collHello (f : Flit)
  /-- COLL_CREDIT (R298): A CREDIT grants buffer room for chunks of a group's step. -/
  | collCredit (f : Flit)
  /-- COLL_SUBST (R312): A SUBST makes a backup release its held chunks and become the sender for a slot. -/
  | collSubst (f : Flit)
  /-- COLL_ABORT (R294): An ABORT completes the collective with its status and poisons the destination. -/
  | collAbort (f : Flit)
  /-- COLL_TAKE (R312): A TAKE from a substituted primary makes its backup deliver the complete destination. -/
  | collTake (f : Flit)
  /-- DRAIN_MARK (R275): A drain mark is answered with DRAIN_ECHO once every earlier flit of the flow has arrived. -/
  | drainMark (f : Flit)
  /-- DRAIN_ECHO (R275): A returning drain echo lets the flow continue on its new path. -/
  | drainEcho (f : Flit)
  /-- POCKET_DATA (R355): Pocket chunks and summaries are received, folded into parity or recorded, and acknowledged. -/
  | pocketData (f : Flit)
  /-- POCKET_ACK (R354): A pocket acknowledgement marks a sent chunk acknowledged. -/
  | pocketAck (f : Flit)
  /-- QUENCH (R278): An accepted QUENCH of the own key stops the time base, abandons work, drops the key's traffic and acknowledges. -/
  | quench (f : Flit)
  /-- QUENCH_ACK (R278): A quench acknowledgement is counted, and QUENCH_DONE set when all have arrived. -/
  | quenchAck (f : Flit)
  /-- MGMT (R270): A fabric-manager message is received on VC0. -/
  | mgmt (f : Flit)
  /-- LINK_CTRL (R267): A link-local control flit, including the notice of a lane rotation, is received. -/
  | linkCtrl (p : Fin 32) (f : Flit)
  /-- LANE_EVENT (R266): An uncorrectable codeword, excess corrections in 1 ms or loss of lock records a lane event, making the lane lasting on the fourth in 24 h. -/
  | laneEvent (p : Fin 32) (rx : Bool) (lane : Fin 9) (cause : LaneCause)
  /-- LOSS_OF_SIGNAL (R266): Loss of signal lasting 10 µs makes the lane lasting at once. -/
  | lossOfSignal (p : Fin 32) (rx : Bool) (lane : Fin 9)
  /-- LANE_ROTATE (R267): At the agreed flit both ends move a logical lane onto the spare and LANE_ROTATED is set. -/
  | laneRotate (p : Fin 32) (rx : Bool)
  /-- LINK_TRAIN_DONE (R276): A port completes training, records FAR_NODE and sets RING_CHANGE if the partner changed. -/
  | linkTrainDone (p : Fin 32) (far : BitVec 16)
  /-- FLOW_REPATH (R275): A flow leaves its path because a port went down or its queue exceeds 512 flits, sending DRAIN_MARK. -/
  | flowRepath (dst : BitVec 16) (vc : Fin 8) (port : Fin 32) (portDown : Bool)
  /-- DRAIN_TIMEOUT (R275): No drain echo within FAB_DRAIN_TIMEOUT makes the source reissue unacknowledged requests on the new path. -/
  | drainTimeout (dst : BitVec 16) (vc : Fin 8)
  /-- FLOW_IDLE_RESTART (R280): A flow idle for 1 ms restarts at SEQ 0 with FLOW_START. -/
  | flowIdleRestart (dst : BitVec 16) (vc : Fin 8)
  /-- REQUEST_REISSUE (R281): A VC1 request without response for FAB_REISSUE is reissued with SEQ and TAG unchanged. -/
  | requestReissue (dst : BitVec 16) (seq : BitVec 12)
  /-- REQUEST_TIMEOUT (R281): A remote request without response for FAB_LOAD_TIMEOUT times out and sets REMOTE_TIMEOUT. -/
  | requestTimeout (dst : BitVec 16) (seq : BitVec 12)
  /-- CHUNK_TIMEOUT (R284): A chunk without DMA_ACK within FAB_LOAD_TIMEOUT reports all its pieces failed. -/
  | chunkTimeout (dst : BitVec 16) (tag : BitVec 16)
  /-- REPL_RELEASE (R286): Writing FAB_REPL_RELEASE performs the held stores in order and clears REPL_HOLD. -/
  | replRelease (v : BitVec 32)
  /-- QUENCH_GO (R278): Writing FAB_CTRL.QUENCH_GO on a manager package sends QUENCH to every listed node. -/
  | quenchGo (v : BitVec 32)
  /-- UNQUENCH (R278): Writing FAB_CTRL.UNQUENCH leaves the quenched state. -/
  | unquench (v : BitVec 32)
  /-- FAB_CFG_LOCK (R288): Setting FAB_CFG.LOCK locks FM_EN, FAB_NODE and FAB_FM_NODES. -/
  | fabCfgLock (v : BitVec 32)
  /-- RING_JOIN (R276): Setting or clearing FAB_RING_CTRL.JOIN opens or closes a ring's shunts. -/
  | ringJoin (v : BitVec 32)
  /-- GROUP_VALID_SET (R290): Setting COL_G_CFG.VALID reads the member and backup lists and accepts the group or sets CFG_ERROR. -/
  | groupValidSet (g : Fin 256) (v : BitVec 32)
  /-- GROUP_VALID_CLEAR (R290): Clearing VALID takes effect once no collective of the group is queued or running. -/
  | groupValidClear (g : Fin 256) (v : BitVec 32)
  /-- COL_CFG_LOCK (R317): Setting COL_CFG.LOCK locks SHADOW_FORCE. -/
  | colCfgLock (v : BitVec 32)
  /-- ALLREDUCE (R293): An all-reduce collective starts at the head of its channel. -/
  | allreduce (go : CollStart)
  /-- REDUCE_SCATTER (R293): A reduce-scatter collective starts. -/
  | reduceScatter (go : CollStart)
  /-- ALLGATHER (R293): An all-gather collective starts. -/
  | allgather (go : CollStart)
  /-- BROADCAST (R293): A broadcast collective starts. -/
  | broadcast (go : CollStart)
  /-- REDUCE (R293): A reduce-to-root collective starts. -/
  | reduce (go : CollStart)
  /-- ALLTOALL (R293): An all-to-all collective starts. -/
  | alltoall (go : CollStart)
  /-- COLL_ADDITION (R303): An adder tile performs and checks a chunk addition between VPROG instructions. -/
  | collAddition (ch : Fin 16) (add : CollAdd)
  /-- LAGGARD_TIMEOUT (R310): A waiting addition lacking one slot for COL_LAG_TIMEOUT sets LAGGARD and sends SUBST to the backup. -/
  | laggardTimeout (ch : Fin 16) (slot : BitVec 16)
  /-- COLL_WATCHDOG (R310): A collective waiting COL_WATCHDOG for a chunk sets STALL and keeps waiting. -/
  | collWatchdog (ch : Fin 16)
  /-- COLL_REPATH (R314): A congested level for 8 µs makes the engine relay chunks through another member. -/
  | collRepath (ch : Fin 16) (relay : BitVec 16) (level chunks : Nat)
  /-- COLLECTIVE_COMPLETE (R296): A collective whose destination is visible and chunks acknowledged writes STATUS and record and signals. -/
  | collectiveComplete (ch : Fin 16)
  /-- SQ_TAIL (R325): A submission doorbell write sets the ring's tail, or stops it with BAD_DOORBELL. -/
  | sqTail (i : Fin 1024) (v : BitVec 32)
  /-- CQ_HEAD (R327): A completion doorbell write frees consumed slots, or is ignored with BAD_HEAD. -/
  | cqHead (i : Fin 1024) (v : BitVec 32)
  /-- RING_FETCH (R326): A pending ring entry is fetched once its completion slot is free, and launched or held by WHEN. -/
  | ringFetch (i : Fin 1024) (hostErr : Bool)
  /-- RING_ENTRY_LAUNCH (R330): A held ring entry launches at its pleat, or completes SCHED_LATE or ACTION_INVALID. -/
  | ringEntryLaunch (i : Fin 1024)
  /-- DMA_START (R335): A DMA descriptor whose counter is met starts moving its pieces in chunks. -/
  | dmaStart (id : Nat) (hostErrs : List Nat)
  /-- DMA_COMPLETE (R336): A DMA whose pieces are written or failed signals, writes any report and reports OK or PARTIAL. -/
  | dmaComplete (id : Nat)
  /-- COMPLETION_WRITE (R328): A due completion entry is written to its ring, or waits in the pending store for room. -/
  | completionWrite (i : Fin 1024) (hostErr : Bool)
  /-- SQ_ENABLE (R339): Setting SQ_CFG.EN resets the ring's pointers or stops it with BAD_BASE or BAD_CQ. -/
  | sqEnable (i : Fin 1024) (v : BitVec 32)
  /-- SQ_DISABLE (R339): Clearing SQ_CFG.EN drops unfetched entries and aborts fetched unlaunched ones. -/
  | sqDisable (i : Fin 1024) (v : BitVec 32)
  /-- CQ_ENABLE (R339): Setting CQ_CFG.EN resets the completion ring or stops it with BAD_BASE. -/
  | cqEnable (i : Fin 1024) (v : BitVec 32)
  /-- CQ_DISABLE (R339): Clearing CQ_CFG.EN takes effect, or is refused with RING_ERR while bound or owed. -/
  | cqDisable (i : Fin 1024) (v : BitVec 32)
  /-- COAL_TIMEOUT (R341): COAL_TIME µs after the first unreported entry the completion ring raises its vector. -/
  | coalTimeout (i : Fin 1024)
  /-- EVLOG_RP_WRITE (R343): Writing HUB_EVLOG_RP records the host's consumed count, capped at WP. -/
  | evlogRpWrite (v : BitVec 64)
  /-- IDENTIFY (R342): The mailbox Identify command returns device identity. -/
  | identify
  /-- GET_EVENT_RECORDS (R342): The mailbox returns event records. -/
  | getEventRecords (log : BitVec 8)
  /-- CLEAR_EVENT_RECORDS (R342): The mailbox clears event records. -/
  | clearEventRecords (log : BitVec 8) (handles : List (BitVec 16))
  /-- GET_FW_INFO (R390): The mailbox reports the running image's version. -/
  | getFwInfo
  /-- TRANSFER_FW (R390): The mailbox writes image data into the staging buffer as a background operation. -/
  | transferFw (off : Nat) (data : List Byte)
  /-- ACTIVATE_FW (R392): The staged object is verified and written to flash, then fuses are blown as it requests. -/
  | activateFw (online readBack : Bool)
  /-- TIMESTAMP (R342): The mailbox Timestamp command gets or sets the timestamp. -/
  | timestamp (set : Option (BitVec 64))
  /-- GET_SUPPORTED_LOGS (R342): The mailbox lists supported logs. -/
  | getSupportedLogs
  /-- GET_LOG (R342): The mailbox returns a log. -/
  | getLog (off len : Nat)
  /-- MAILBOX_UNSUPPORTED (R342): Any other mailbox command completes with Unsupported. -/
  | mailboxUnsupported (opcode : BitVec 16)
  /-- HOST_MEM_READ (R321): A host CXL.mem read of working memory, returning CXL poison for poisoned lines. -/
  | hostMemRead (addr : Nat) (excl : Bool)
  /-- HOST_MEM_WRITE (R321): A host CXL.mem write to working memory, storing poison where carried. -/
  | hostMemWrite (addr : Nat) (bytes : List Byte) (poison : Bool)
  /-- HOST_SNOOP (R320): A host snoop finds a miss in the package. -/
  | hostSnoop (hpa : Nat)
  /-- BISNP_RESPONSE (R322): The host's answer to a back-invalidate releases the waiting access. -/
  | bisnpResponse (line : Nat)
  /-- HOST_ACCESS_COMPLETE (R320): A package CXL.cache read or write completes, with poison or HOST_ERR on error. -/
  | hostAccessComplete (hpa : Nat) (write : Bool) (err poison : Bool)
  /-- CXL_LINK_RESET (R416): A CXL hot reset or link-down resets the link and takes IDE streams insecure while work continues. -/
  | cxlLinkReset
  /-- CAPTURE_GATE_OPEN (R354): Once all members announce COMMITTED the capture opens its target slot and copies the shard. -/
  | captureGateOpen
  /-- CAPTURE_EXCHANGE (R354): After copying the engine forms the shard digest, sends its summary and marks the slot WRITTEN. -/
  | captureExchange
  /-- CAPTURE_COMMIT (R354): With all summaries agreeing and parity done the engine writes the COMMITTED record and announces it. -/
  | captureCommit
  /-- CKP_PEER_TIMEOUT (R356): A member not answering within CKP_PEER_TIMEOUT ends the capture or restore with CKP_TIMEOUT. -/
  | ckpPeerTimeout
  /-- RESTORE_GO (R357): Setting CKP_RST_CTRL.GO starts a restore, or completes CKP_STATE. -/
  | restoreGo (v : BitVec 32)
  /-- RESTORE_CHOOSE (R358): With all records exchanged each member chooses the usable stitch or fails with CKP_MISMATCH. -/
  | restoreChoose
  /-- SHARD_REBUILD (R359): The survivors' chunks rebuild the missing member's shard and parity. -/
  | shardRebuild
  /-- RESTORE_WRITE_BACK (R360): Verified shards are written back with seed, profile, monitor state and stitch, completing the restore. -/
  | restoreWriteBack
  /-- XFER_DRAIN (R361): Setting XFER GO with DIR 0 drains a committed slot as an image. -/
  | xferDrain (v : BitVec 32)
  /-- XFER_LOAD (R363): Setting XFER GO with DIR 1 loads an image into a slot and verifies it. -/
  | xferLoad (v : BitVec 32)
  /-- XFER_DONE (R361): A drain or load completes, setting RESULT and XFER_DONE. -/
  | xferDone
  /-- SEAM_INTERVAL (R373): Each 1 ms interval a seam's corrected-word count is compared with SEAM_LIMIT for a fault event. -/
  | seamInterval (seam : Fin 11)
  /-- REMAP (R374): A logical unit is drained, its SRAM copied, and moved to the lowest spare, or NO_SPARE. -/
  | remap (kind : UnitKind) (unit : Nat) (lasting : Bool)
  /-- REMAP_TILE (R374): REL_TEST_CTRL GO with KIND 4 remaps a logical tile. -/
  | remapTile (v : BitVec 32)
  /-- REMAP_CORE (R374): REL_TEST_CTRL GO with KIND 5 remaps a logical core. -/
  | remapCore (v : BitVec 32)
  /-- REMAP_ENGINE (R374): REL_TEST_CTRL GO with KIND 6 remaps a logical engine. -/
  | remapEngine (v : BitVec 32)
  /-- TEST_TILE_CLUSTER (R375): REL_TEST_CTRL GO with KIND 0 tests a tile cluster online. -/
  | testTileCluster (v : BitVec 32)
  /-- TEST_CORE_CLUSTER (R375): REL_TEST_CTRL GO with KIND 1 tests a core cluster online. -/
  | testCoreCluster (v : BitVec 32)
  /-- TEST_ENGINE_GROUP (R375): REL_TEST_CTRL GO with KIND 2 tests an engine group online. -/
  | testEngineGroup (v : BitVec 32)
  /-- TEST_OPTICAL_GROUP (R375): REL_TEST_CTRL GO with KIND 3 tests an optical group online. -/
  | testOpticalGroup (v : BitVec 32)
  /-- TEST_DONE (R375): An online test ends, returning or remapping units and setting TEST_DONE and results. -/
  | testDone (found : TestFound)
  /-- REL_UNIT_FAIL (R378): Writing REL_UNIT_FAIL marks a physical unit FAILED, remapping it first if in use. -/
  | relUnitFail (v : BitVec 32)
  /-- BOOT_START (R387): On release of the hub's reset the mask ROM runs self-test, fuses, record, image and identity stages. -/
  | bootStart (b : BootInputs)
  /-- CONTINUE (R387): Writing SEC_CTRL.CONTINUE during HOST_WAIT lets the firmware fill and open memory. -/
  | continueBoot (v : BitVec 32)
  /-- HOST_WAIT_TIMEOUT (R387): After 10 s in HOST_WAIT the firmware proceeds alone and sets HOST_LATE. -/
  | hostWaitTimeout
  /-- ZEROIZE (R400): Setting SEC_CTRL.ZEROIZE ends sessions, overwrites keys and DRBG state and sets ZEROIZED. -/
  | zeroize (v : BitVec 32)
  /-- DBG_GO (R396): Setting SEC_CTRL.DBG_GO judges the debug token at SEC_DBG_ADDR. -/
  | dbgGo (v : BitVec 32) (nonce : BitVec 128)
  /-- DBG_DISABLE (R396): Setting SEC_CTRL.DBG_DISABLE blocks debug unlock until reset of the hub. -/
  | dbgDisable (v : BitVec 32)
  /-- SELFTEST (R399): Setting SEC_CTRL.SELFTEST reruns the known-answer tests, entering ERROR on failure. -/
  | selftest (v : BitVec 32) (pass : Bool)
  /-- ENTROPY_HEALTH_FAIL (R399): A continuous health test failure of the entropy source puts the module in ERROR. -/
  | entropyHealthFail
  /-- DBG_TOKEN (R396): The JTAG DBG_TOKEN instruction presents a debug token for judgement. -/
  | dbgToken (token : List Byte) (nonce : BitVec 128)
  /-- EXTEST (R431): The JTAG EXTEST instruction. -/
  | extest
  /-- SAMPLE_PRELOAD (R431): The JTAG SAMPLE/PRELOAD instruction. -/
  | samplePreload
  /-- BYPASS (R431): The JTAG BYPASS instruction. -/
  | bypass
  /-- IDCODE (R431): The JTAG IDCODE instruction returns the identification code. -/
  | idcode
  /-- DEBUG_HALT (R397): A debug halt under level 2 interrupts a Virulax program. -/
  | debugHalt (u : VUnit)
  /-- GET_VERSION (R393): SPDM GET_VERSION request. -/
  | getVersion (q : SpdmReq)
  /-- GET_CAPABILITIES (R393): SPDM GET_CAPABILITIES request. -/
  | getCapabilities (q : SpdmReq)
  /-- NEGOTIATE_ALGORITHMS (R393): SPDM NEGOTIATE_ALGORITHMS request. -/
  | negotiateAlgorithms (q : SpdmReq)
  /-- GET_DIGESTS (R393): SPDM GET_DIGESTS request. -/
  | getDigests (q : SpdmReq)
  /-- GET_CERTIFICATE (R393): SPDM GET_CERTIFICATE request for slot 0. -/
  | getCertificate (q : SpdmReq) (slot : Nat)
  /-- CHALLENGE (R393): SPDM CHALLENGE request answered with a signature. -/
  | challenge (q : SpdmReq)
  /-- GET_MEASUREMENTS (R394): SPDM GET_MEASUREMENTS request returning signed measurement blocks. -/
  | getMeasurements (q : SpdmReq) (index : Nat) (signed : Bool)
  /-- KEY_EXCHANGE (R393): SPDM KEY_EXCHANGE opening a session, or Busy beyond four. -/
  | keyExchange (q : SpdmReq) (mutAuth : Bool)
  /-- FINISH (R393): SPDM FINISH completing a session handshake. -/
  | finish (q : SpdmReq) (ok : Bool)
  /-- HEARTBEAT (R393): SPDM HEARTBEAT in a session. -/
  | heartbeat (q : SpdmReq)
  /-- KEY_UPDATE (R393): SPDM KEY_UPDATE in a session. -/
  | keyUpdate (q : SpdmReq)
  /-- END_SESSION (R393): SPDM END_SESSION closing a session. -/
  | endSession (q : SpdmReq)
  /-- KEY_PROG (R395): IDE KEY_PROG programs an inactive key set, or is refused for the active set. -/
  | keyProg (k : IdeKey)
  /-- K_SET_GO (R395): IDE K_SET_GO switches a stream to its programmed key set. -/
  | kSetGo (k : IdeKey)
  /-- IDE_CHECK_FAIL (R395): An IDE integrity failure discards the flit, takes the stream insecure and sets IDE_FAIL. -/
  | ideCheckFail (cachemem : Bool)
  /-- POWER_UP (R407): PWR_GOOD with input above 44 V for 10 ms powers domains 77 and the hub and releases the hub's reset. -/
  | powerUp (mv : BitVec 16)
  /-- PWR_UP (R407): Writing PWR_CTRL.UP powers the fabric and compute dies in order and sets UP_DONE. -/
  | pwrUp (v : BitVec 32)
  /-- PWR_OFF (R408): Writing PWR_CTRL.OFF with KEY performs an orderly power-down with cause SOFTWARE. -/
  | pwrOff (v : BitVec 32)
  /-- PACKAGE_RESET (R416): PWR_CTRL.RESET with KIND 1 and KEY resets all logic except domain 77, optionally running BIST. -/
  | packageReset (v : BitVec 32) (bist : BitVec 29)
  /-- HUB_RESET (R417): PWR_CTRL.RESET with KIND 2 and KEY resets the hub, keeping memory in self refresh. -/
  | hubReset (v : BitVec 32)
  /-- PERST_ASSERT (R416): Assertion of PERST_N performs a HUB reset. -/
  | perstAssert
  /-- PWR_GOOD_DEASSERT (R408): Deassertion of PWR_GOOD triggers an orderly power-down. -/
  | pwrGoodDeassert
  /-- VIN_WARNING (R412): The input falling below 42.0 V sets BROWN on every tile cluster. -/
  | vinWarning (mv : BitVec 16)
  /-- VIN_RECOVERY_STEP (R412): The brownout recovery timer expiring raises BROWN by one, setting BROWNOUT_END at 8. -/
  | vinRecoveryStep
  /-- VIN_RESET (R412): The input falling to 38.0 V performs an orderly power-down as a COLD reset. -/
  | vinReset (mv : BitVec 16)
  /-- VIN_OVERVOLT (R403): An input above 62.0 V switches every stage off within 1 µs. -/
  | vinOvervolt
  /-- VIN_STANDBY_LOSS (R403): The input falling below 30 V leaves every domain off and no state held. -/
  | vinStandbyLoss
  /-- ISOLATOR_FAIL (R403): Three bad frames or a lost isolator link switch the stage off and power down with cause ISOLATOR. -/
  | isolatorFail (dom : Fin 80)
  /-- CLOCK_CHECK (R406): Every 10 µs the references are cross-checked; a bad one sets CLK_MISSING and may power down. -/
  | clockCheck (cxl fabric mgmt : Bool)
  /-- OFF_REQ (R409): Setting or clearing PWR_DOM[n].OFF_REQ switches an optical group off or on, or is refused. -/
  | offReq (n : Fin 80) (v : BitVec 32)
  /-- CAP_TICK (R413): Each ms the 1 ms average power lowers or raises CAP against PWR_CAP. -/
  | capTick (watts : BitVec 16) (energy : Nat)
  /-- THERM_SAMPLE (R414): A junction sample updates PWR_TEMP, THERM levels, THERM_ALERT or a thermal trip. -/
  | thermSample (die : Fin 8) (temp : BitVec 8) (msTick : Bool)
  /-- I3C_PRIVATE_WRITE (R430): An I3C private write sets the offset and optionally writes a reachable register. -/
  | i3cPrivateWrite (addr : BitVec 7) (off : BitVec 32) (data : Option (BitVec 32))
  /-- I3C_PRIVATE_READ (R430): An I3C private read returns the register at the last offset. -/
  | i3cPrivateRead (addr : BitVec 7)
  /-- SETDASA (R430): The I3C SETDASA command assigns a dynamic address from the static one. -/
  | setdasa (static dyn : BitVec 7)
  /-- ENTDAA (R430): The I3C ENTDAA command runs dynamic address assignment. -/
  | entdaa (dyn : BitVec 7)
  /-- CXL_LINK_UP (R319): The CXL link completes training at its negotiated width and rate, or without CXL, after which the mailbox and the HUB and SEC blocks can be reached. -/
  | cxlLinkUp (width rate : Nat) (cxl : Bool)
  /-- VIN_44V_CROSSING (R412): The input rising above 44.0 V starts the brownout recovery timer and sets RECOVERING, and a sample at or below 44.0 V sets the timer back to zero. -/
  | vin44vCrossing (rising : Bool) (mv : BitVec 16)
  deriving DecidableEq, Repr

end Sys2Proof
end

