-- ==== Sys2Proof/WellFormed.lean ====
section
/-! DEFINITION. Well-formed commands: the shapes of operands that the spec gives an access or a message. A command that
is not well-formed still has a meaning; no real part is sent one. -/
namespace Sys2Proof

/-- An access of `n` bytes at `off` that BAR0 accepts: 4 or 8 bytes, naturally aligned (R13), within its 128 MiB (R28). -/
def barAccess (off n : Nat) : Bool := (n == 4 || n == 8) && off % n == 0 && decide (off < 0x8000000)

/-- A flit holds at most six words (R269). -/
def Flit.wf (f : Flit) : Bool := decide (f.words.length ≤ 6)

/-- Is a command well-formed: its offset or address aligned as its access needs (R13, R14, R26, R250, R321), a flit of at
most six words (R269), a chunk of a mailbox transfer within the payload (R342), a width and rate of the link (R319)? -/
def Instr.wf : Instr → Bool
  | .registerWrite off wide _ => barAccess off (if wide then 8 else 4)
  | .pairLowWordRead rd => barAccess rd.off (if rd.wide then 8 else 4)
  | .pairLowWordWrite off _ => barAccess off 8
  | .pairHighWordWrite off _ => barAccess off 4 && off % 8 == 4
  | .badSizeAccess off bytes _ => decide (off < 0x8000000) && !barAccess off bytes
  | .syncInterval => true
  | .syncReq _ _ _ => true
  | .syncRsp _ _ _ _ => true
  | .syncHoldover => true
  | .runSet _ => true
  | .runClear _ => true
  | .holdSet _ => true
  | .holdClear _ => true
  | .pleatBegin => true
  | .actionDma => true
  | .actionTileTask => true
  | .actionSolverBatch => true
  | .actionCoreProgram => true
  | .actionCollectiveStart => true
  | .actionTelemetrySample => true
  | .actionCheckpoint => true
  | .actionHostSignal => true
  | .actionThrottle => true
  | .pleatEndTime => true
  | .pleatEnd => true
  | .openPleatWatchdog => true
  | .deadlineSignal _ => true
  | .stitchComplete => true
  | .arriveSend => true
  | .cinchArrive _ => true
  | .cinchRelease _ => true
  | .stitchBegin => true
  | .bankArm _ => true
  | .cinchTimeout => true
  | .stitchIn => true
  | .stitchOutEnd => true
  | .taskMatmul _ _ => true
  | .taskSliced _ _ => true
  | .taskExponent _ => true
  | .taskCombine _ => true
  | .taskVprog _ => true
  | .taskComplete _ => true
  | .taskMigrate _ _ => true
  | .vadd _ _ => true
  | .vsub _ _ => true
  | .vmul _ _ => true
  | .vmulhi _ _ => true
  | .vmin _ _ => true
  | .vmax _ _ => true
  | .vminu _ _ => true
  | .vmaxu _ _ => true
  | .vand _ _ => true
  | .vor _ _ => true
  | .vxor _ _ => true
  | .vshl _ _ => true
  | .vshr _ _ => true
  | .vsar _ _ => true
  | .vsadd _ _ => true
  | .vssub _ _ => true
  | .vaddW _ _ => true
  | .vmulW _ _ => true
  | .vdot4 _ _ => true
  | .vmov _ _ => true
  | .vcmpEq _ _ => true
  | .vcmpNe _ _ => true
  | .vcmpLt _ _ => true
  | .vcmpLtu _ _ => true
  | .vcmpLe _ _ => true
  | .vcmpLeu _ _ => true
  | .vfadd _ _ => true
  | .vfsub _ _ => true
  | .vfmul _ _ => true
  | .vfdiv _ _ => true
  | .vfmin _ _ => true
  | .vfmax _ _ => true
  | .vfma _ _ => true
  | .vfnma _ _ => true
  | .vfcopys _ _ => true
  | .vfcopysn _ _ => true
  | .vfaddW _ _ => true
  | .vfmulW _ _ => true
  | .vfmaW _ _ => true
  | .vfdot4 _ _ _ => true
  | .vfdot2 _ _ _ => true
  | .vfmov _ _ => true
  | .vfcmpEq _ _ => true
  | .vfcmpNe _ _ => true
  | .vfcmpLt _ _ => true
  | .vfcmpLe _ _ => true
  | .vfcmpUn _ _ => true
  | .vfcvt _ _ => true
  | .vfunary _ _ => true
  | .vfneg _ _ => true
  | .vfabs _ _ => true
  | .vfupd _ _ => true
  | .vld _ _ _ => true
  | .vst _ _ _ => true
  | .vstadd _ _ _ => true
  | .vkand _ _ => true
  | .vkor _ _ => true
  | .vkxor _ _ => true
  | .vkandn _ _ => true
  | .vknot _ _ => true
  | .vkcount _ _ => true
  | .vklead _ _ => true
  | .vsumr _ _ => true
  | .vmaxr _ _ => true
  | .vminr _ _ => true
  | .vmaxru _ _ => true
  | .vminru _ _ => true
  | .vfsumrT _ _ => true
  | .vfsumrX _ _ => true
  | .vfmaxr _ _ => true
  | .vfminr _ _ => true
  | .vargmaxr _ _ => true
  | .vargminr _ _ => true
  | .vsscanAdd _ _ => true
  | .vsscanMax _ _ => true
  | .vsscanMin _ _ => true
  | .vfsscanAdd _ _ => true
  | .vfsscanMax _ _ => true
  | .vfsscanMin _ _ => true
  | .vhist _ _ => true
  | .vpack _ _ => true
  | .vspread _ _ => true
  | .vpick _ _ => true
  | .vindex _ _ => true
  | .vlset _ _ => true
  | .vlseti _ _ _ => true
  | .vcrrd _ _ => true
  | .vcrwr _ _ => true
  | .vaccr _ _ => true
  | .vsmax _ _ => true
  | .vcatd _ _ => true
  | .vbern _ _ => true
  | .vrand _ _ => true
  | .vfence _ _ => true
  | .vend _ _ => true
  | .vtrap _ _ => true
  | .veInterrupt _ => true
  | .contextRestore _ => true
  | .add _ _ _ _ => true
  | .sub _ _ _ _ => true
  | .mul _ _ _ _ => true
  | .mulhi _ _ _ _ => true
  | .mulhiu _ _ _ _ => true
  | .quo _ _ _ _ => true
  | .quou _ _ _ _ => true
  | .mod _ _ _ _ => true
  | .modu _ _ _ _ => true
  | .and _ _ _ _ => true
  | .or _ _ _ _ => true
  | .xor _ _ _ _ => true
  | .shl _ _ _ _ => true
  | .shr _ _ _ _ => true
  | .sar _ _ _ _ => true
  | .cmplt _ _ _ _ => true
  | .cmpltu _ _ _ _ => true
  | .min _ _ _ _ => true
  | .max _ _ _ _ => true
  | .lzc _ _ _ _ => true
  | .bitcnt _ _ _ _ => true
  | .addI _ _ _ _ => true
  | .andI _ _ _ _ => true
  | .orI _ _ _ _ => true
  | .xorI _ _ _ _ => true
  | .shlI _ _ _ _ => true
  | .shrI _ _ _ _ => true
  | .sarI _ _ _ _ => true
  | .cmpltI _ _ _ _ => true
  | .movh16 _ _ _ => true
  | .shlor16 _ _ _ => true
  | .ldB _ _ _ _ => true
  | .ldH _ _ _ _ => true
  | .ldW _ _ _ _ => true
  | .ldD _ _ _ _ => true
  | .ldBu _ _ _ _ => true
  | .ldHu _ _ _ _ => true
  | .ldWu _ _ _ _ => true
  | .ldfS _ _ _ _ => true
  | .ldfD _ _ _ _ => true
  | .stB _ _ _ _ => true
  | .stH _ _ _ _ => true
  | .stW _ _ _ _ => true
  | .stD _ _ _ _ => true
  | .stfS _ _ _ _ => true
  | .stfD _ _ _ _ => true
  | .brEq _ _ _ _ => true
  | .brNe _ _ _ _ => true
  | .brLt _ _ _ _ => true
  | .brGe _ _ _ _ => true
  | .brLtu _ _ _ _ => true
  | .brGeu _ _ _ _ => true
  | .jump _ _ => true
  | .call _ _ => true
  | .jumpr _ _ _ => true
  | .callr _ _ _ => true
  | .fadd _ _ _ _ _ => true
  | .fsub _ _ _ _ _ => true
  | .fmul _ _ _ _ _ => true
  | .fdiv _ _ _ _ _ => true
  | .fsqrt _ _ _ _ => true
  | .fmin _ _ _ _ _ => true
  | .fmax _ _ _ _ _ => true
  | .fma _ _ _ _ _ => true
  | .fnma _ _ _ _ _ => true
  | .fcopys _ _ _ _ _ => true
  | .fcopysn _ _ _ _ _ => true
  | .fcmpEq _ _ _ _ _ => true
  | .fcmpLt _ _ _ _ _ => true
  | .fcmpLe _ _ _ _ _ => true
  | .fconvFI _ _ _ _ => true
  | .fconvIF _ _ _ _ => true
  | .fconvFF _ _ _ _ => true
  | .fmovIF _ _ _ _ => true
  | .fmovFI _ _ _ _ => true
  | .atmAdd _ _ _ _ => true
  | .atmSwap _ _ _ _ => true
  | .atmMax _ _ _ _ => true
  | .atmMin _ _ _ _ => true
  | .atmCas _ _ _ _ => true
  | .fence _ => true
  | .fenceComplete _ => true
  | .waitsc _ _ _ => true
  | .syncWaitSatisfied _ => true
  | .sigsc _ _ => true
  | .crrd _ _ _ => true
  | .crwr _ _ _ => true
  | .endp _ => true
  | .trap _ _ => true
  | .coreProgramStart _ => true
  | .batchLu _ => true
  | .batchChol _ => true
  | .batchLdlt _ => true
  | .batchQr _ => true
  | .batchTri _ => true
  | .batchInv _ => true
  | .batchRefine _ => true
  | .batchPcg _ => true
  | .batchPgs _ => true
  | .solverItemEnd _ _ _ => true
  | .batchComplete _ => true
  | .seedWrite _ => true
  | .bobCtrlLock _ => true
  | .fillGo _ => true
  | .fillDone => true
  | .genGo _ => true
  | .genDone => true
  | .detCfgWrite _ => true
  | .detCfgLock _ => true
  | .tnsCfgLock _ _ => true
  | .monArm _ _ => true
  | .monDisarm _ _ => true
  | .monClear _ _ => true
  | .memTrain _ => true
  | .memTrainDone _ => true
  | .memInit _ => true
  | .memInitDone => true
  | .memOpen _ => true
  | .memFlush _ => true
  | .memFlushDone => true
  | .memRetireAdd _ => true
  | .memRead addr _ _ _ => addr % 32 == 0
  | .memWrite addr _ _ _ _ => addr % 32 == 0
  | .memPartialWrite addr _ _ _ _ _ _ => addr % 32 == 0
  | .memAtomic addr op _ _ => addr % 32 == 0 && op.off.val % 2 ^ op.size.val == 0
  | .pageRetire _ => true
  | .pageRetireDone _ => true
  | .refreshDue _ ch rank _ _ => decide (ch < 4) && decide (rank < 2)
  | .scrubRead _ _ _ => true
  | .mr4Poll _ _ _ _ => true
  | .linkFlitReceive _ f _ => f.wf
  | .linkNack _ _ => true
  | .rdReq f => f.wf
  | .rdRsp f => f.wf
  | .wrReq f => f.wf
  | .wrAck f => f.wf
  | .atomReq f => f.wf
  | .atomRsp f => f.wf
  | .nack f => f.wf
  | .dmaRd f => f.wf
  | .dmaData f => f.wf
  | .dmaAck f => f.wf
  | .collData f => f.wf
  | .collHello f => f.wf
  | .collCredit f => f.wf
  | .collSubst f => f.wf
  | .collAbort f => f.wf
  | .collTake f => f.wf
  | .drainMark f => f.wf
  | .drainEcho f => f.wf
  | .pocketData f => f.wf
  | .pocketAck f => f.wf
  | .quench f => f.wf
  | .quenchAck f => f.wf
  | .mgmt f => f.wf
  | .linkCtrl _ f => f.wf
  | .laneEvent _ _ _ _ => true
  | .lossOfSignal _ _ _ => true
  | .laneRotate _ _ => true
  | .linkTrainDone _ _ => true
  | .flowRepath _ _ _ _ => true
  | .drainTimeout _ _ => true
  | .flowIdleRestart _ _ => true
  | .requestReissue _ _ => true
  | .requestTimeout _ _ => true
  | .chunkTimeout _ _ => true
  | .replRelease _ => true
  | .quenchGo _ => true
  | .unquench _ => true
  | .fabCfgLock _ => true
  | .ringJoin _ => true
  | .groupValidSet _ _ => true
  | .groupValidClear _ _ => true
  | .colCfgLock _ => true
  | .allreduce _ => true
  | .reduceScatter _ => true
  | .allgather _ => true
  | .broadcast _ => true
  | .reduce _ => true
  | .alltoall _ => true
  | .collAddition _ _ => true
  | .laggardTimeout _ _ => true
  | .collWatchdog _ => true
  | .collRepath _ _ _ _ => true
  | .collectiveComplete _ => true
  | .sqTail _ _ => true
  | .cqHead _ _ => true
  | .ringFetch _ _ => true
  | .ringEntryLaunch _ => true
  | .dmaStart _ _ => true
  | .dmaComplete _ => true
  | .completionWrite _ _ => true
  | .sqEnable _ _ => true
  | .sqDisable _ _ => true
  | .cqEnable _ _ => true
  | .cqDisable _ _ => true
  | .coalTimeout _ => true
  | .evlogRpWrite _ => true
  | .identify => true
  | .getEventRecords _ => true
  | .clearEventRecords _ _ => true
  | .getFwInfo => true
  | .transferFw _ data => decide (data.length ≤ 4096)
  | .activateFw _ _ => true
  | .timestamp _ => true
  | .getSupportedLogs => true
  | .getLog _ _ => true
  | .mailboxUnsupported _ => true
  | .hostMemRead addr _ => addr % 64 == 0
  | .hostMemWrite addr bytes _ => bytes != [] && decide (addr % 64 + bytes.length ≤ 64)
  | .hostSnoop _ => true
  | .bisnpResponse _ => true
  | .hostAccessComplete _ _ _ _ => true
  | .cxlLinkReset => true
  | .captureGateOpen => true
  | .captureExchange => true
  | .captureCommit => true
  | .ckpPeerTimeout => true
  | .restoreGo _ => true
  | .restoreChoose => true
  | .shardRebuild => true
  | .restoreWriteBack => true
  | .xferDrain _ => true
  | .xferLoad _ => true
  | .xferDone => true
  | .seamInterval _ => true
  | .remap _ _ _ => true
  | .remapTile _ => true
  | .remapCore _ => true
  | .remapEngine _ => true
  | .testTileCluster _ => true
  | .testCoreCluster _ => true
  | .testEngineGroup _ => true
  | .testOpticalGroup _ => true
  | .testDone _ => true
  | .relUnitFail _ => true
  | .bootStart _ => true
  | .continueBoot _ => true
  | .hostWaitTimeout => true
  | .zeroize _ => true
  | .dbgGo _ _ => true
  | .dbgDisable _ => true
  | .selftest _ _ => true
  | .entropyHealthFail => true
  | .dbgToken _ _ => true
  | .extest => true
  | .samplePreload => true
  | .bypass => true
  | .idcode => true
  | .debugHalt _ => true
  | .getVersion _ => true
  | .getCapabilities _ => true
  | .negotiateAlgorithms _ => true
  | .getDigests _ => true
  | .getCertificate _ _ => true
  | .challenge _ => true
  | .getMeasurements _ _ _ => true
  | .keyExchange _ _ => true
  | .finish _ _ => true
  | .heartbeat _ => true
  | .keyUpdate _ => true
  | .endSession _ => true
  | .keyProg _ => true
  | .kSetGo _ => true
  | .ideCheckFail _ => true
  | .powerUp _ => true
  | .pwrUp _ => true
  | .pwrOff _ => true
  | .packageReset _ _ => true
  | .hubReset _ => true
  | .perstAssert => true
  | .pwrGoodDeassert => true
  | .vinWarning _ => true
  | .vinRecoveryStep => true
  | .vinReset _ => true
  | .vinOvervolt => true
  | .vinStandbyLoss => true
  | .isolatorFail _ => true
  | .clockCheck _ _ _ => true
  | .offReq _ _ => true
  | .capTick _ _ => true
  | .thermSample _ _ _ => true
  | .i3cPrivateWrite _ _ _ => true
  | .i3cPrivateRead _ => true
  | .setdasa _ _ => true
  | .entdaa _ => true
  | .cxlLinkUp width rate _ => [16, 8, 4].contains width && [64, 32, 16, 8].contains rate
  | .vin44vCrossing _ _ => true

end Sys2Proof
end

