-- ==== Sys2Proof/Decode.lean ====
section
/-! DEFINITION. The decoder of commands. The table of operations gives no row any bits: its commands are events and
accesses of many kinds, and no word spells one. -/
namespace Sys2Proof

/-- The command that a word of `nbits` bits spells: none, since no row of the table has bits. -/
def decodeTableWord (_nbits _w : Nat) : Option Instr := none

end Sys2Proof
end

