-- ==== Sys2Proof/Machine/Tbl.lean ====
section
/-! DEFINITION. Sparse tables: lists of (key, value) pairs in one canonical form, keys strictly rising and no entry
equal to what an unlisted key reads as. Memory, the register file and every numbered set of like things use them. -/
namespace Sys2Proof.Machine

/-- A sparse table: what a key that is not listed reads as is the `d` given to `Tbl.get` and `Tbl.set`. -/
abbrev Tbl (α : Type) := List (Nat × α)

/-- What key `k` reads as, `d` where it is not listed. -/
def Tbl.get {α : Type} (d : α) : Tbl α → Nat → α
  | [], _ => d
  | (j, v) :: t, k => if k = j then v else Tbl.get d t k

/-- Put `v` at `k`, keeping the keys rising (the value may be the default: `Tbl.set` decides). -/
def Tbl.insert {α : Type} : Tbl α → Nat → α → Tbl α
  | [], k, v => [(k, v)]
  | (j, w) :: t, k, v =>
    if k < j then (k, v) :: (j, w) :: t
    else if k = j then (k, v) :: t
    else (j, w) :: Tbl.insert t k v

/-- Take every entry of `k` out of the list. -/
def Tbl.erase {α : Type} : Tbl α → Nat → Tbl α
  | [], _ => []
  | (j, w) :: t, k => if k = j then Tbl.erase t k else (j, w) :: Tbl.erase t k

/-- Write `v` at `k`: writing the default removes the entry, so that equal tables are equal lists. -/
def Tbl.set {α : Type} [DecidableEq α] (d : α) (t : Tbl α) (k : Nat) (v : α) : Tbl α :=
  if v = d then Tbl.erase t k else Tbl.insert t k v

/-- Every key of `t` is greater than `k`. -/
def Tbl.above {α : Type} (k : Nat) : Tbl α → Bool
  | [] => true
  | (j, _) :: _ => decide (k < j)

/-- The canonical form: keys strictly rising, no entry equal to the default of its key. -/
def Tbl.wf {α : Type} [DecidableEq α] (d : Nat → α) : Tbl α → Bool
  | [] => true
  | (j, v) :: t => decide (v ≠ d j) && Tbl.above j t && Tbl.wf d t

end Sys2Proof.Machine
end

