-- ==== Sys2Proof/Machine/Bits.lean ====
section
/-! DEFINITION. Bit fields, byte order and small arithmetic helpers: fields are written [msb:lsb] with bit 0 least
significant, and every multi-byte structure is little-endian (spec 00, R9). -/
namespace Sys2Proof.Machine

/-- The field of `len` bits of `v` whose least significant bit is `lo`, as a number. -/
def fld {w : Nat} (v : BitVec w) (lo len : Nat) : Nat := v.toNat / 2 ^ lo % 2 ^ len

/-- Bit `i` of `v`. -/
def bit {w : Nat} (v : BitVec w) (i : Nat) : Bool := v.getLsbD i

/-- `v` with the field of `len` bits at `lo` replaced by `x` modulo `2 ^ len`. -/
def setFld {w : Nat} (v : BitVec w) (lo len x : Nat) : BitVec w :=
  (v &&& ~~~ (BitVec.ofNat w ((2 ^ len - 1) * 2 ^ lo))) ||| BitVec.ofNat w (x % 2 ^ len * 2 ^ lo)

/-- `v` with bit `i` set to `b`. -/
def setBit {w : Nat} (v : BitVec w) (i : Nat) (b : Bool) : BitVec w := setFld v i 1 (if b then 1 else 0)

/-- 1 for true, 0 for false. -/
def bnat (b : Bool) : Nat := if b then 1 else 0

/-- The `n` low bytes of `v`, least significant first. -/
def natBytes : Nat → Nat → List Byte
  | 0, _ => []
  | n + 1, v => BitVec.ofNat 8 v :: natBytes n (v / 256)

/-- The number whose bytes, least significant first, are `bs`. -/
def bytesNat : List Byte → Nat
  | [] => 0
  | b :: bs => b.toNat + 256 * bytesNat bs

/-- The bytes of a bit vector of `8 n` bits, least significant first. -/
def bvBytes (n : Nat) (v : BitVec (8 * n)) : List Byte := natBytes n v.toNat

/-- A number of `n` bits read as two's complement. -/
def signed (n v : Nat) : Int := if v % 2 ^ n < 2 ^ (n - 1) then (v % 2 ^ n : Int) else (v % 2 ^ n : Int) - 2 ^ n

/-- An integer as a number of `n` bits, two's complement, modulo `2 ^ n`. -/
def unsigned (n : Nat) (v : Int) : Nat := (v % (2 ^ n : Int)).toNat

/-- `a` divided by `b`, rounded up. -/
def ceilDiv (a b : Nat) : Nat := (a + b - 1) / b

/-- One saturating step of a counter of `n` bits. -/
def satAdd (n v k : Nat) : Nat := min (v + k) (2 ^ n - 1)

/-- The integers from `lo` on, `n` of them. -/
def upFrom : Nat → Nat → List Nat
  | _, 0 => []
  | lo, n + 1 => lo :: upFrom (lo + 1) n

/-- Left fold over the numbers 0 to `n - 1` in rising order. -/
def foldN {α : Type} (n : Nat) (a : α) (f : α → Nat → α) : α := (List.range n).foldl f a

/-- The base-2 logarithm of `v` rounded down, 0 at 0. -/
def log2 (v : Nat) : Nat := Nat.log2 v

/-- A two's-complement absolute value as a number. -/
def iabs (v : Int) : Nat := v.natAbs

end Sys2Proof.Machine
end

