-- ==== Sys2Proof/Machine/Fp.lean ====
section
/-! DEFINITION. Number formats and conversion (chapter 03): decoding to the internal form, the one rounding rule and
the encodings, and exact arithmetic on decoded values. -/
namespace Sys2Proof.Machine

/-- The element formats (Table 3-1, without the MX, E8M0 and anchored-partial codes). -/
inductive Fmt where
  | b64 | b32 | b16 | bf16 | e4m3 | e5m2 | e2m3 | e3m2 | e2m1 | i8 | i4 | i32
  deriving DecidableEq, Repr

/-- What a 5-bit format code names (R58). -/
inductive FmtCode where
  | plain (f : Fmt)
  | mx (f : Fmt)
  | e8m0
  | anchored
  deriving DecidableEq, Repr

/-- The format of a code, none where it is reserved (Table 3-1). -/
def fmtOfCode : Nat → Option FmtCode
  | 0x00 => some (.plain .b64)
  | 0x01 => some (.plain .b32)
  | 0x02 => some (.plain .b16)
  | 0x03 => some (.plain .bf16)
  | 0x04 => some (.plain .e4m3)
  | 0x05 => some (.plain .e5m2)
  | 0x06 => some (.plain .e2m3)
  | 0x07 => some (.plain .e3m2)
  | 0x08 => some (.plain .e2m1)
  | 0x09 => some (.plain .i8)
  | 0x0A => some (.plain .i4)
  | 0x0B => some (.plain .i32)
  | 0x10 => some (.mx .e4m3)
  | 0x11 => some (.mx .e5m2)
  | 0x12 => some (.mx .e2m3)
  | 0x13 => some (.mx .e3m2)
  | 0x14 => some (.mx .e2m1)
  | 0x18 => some .e8m0
  | 0x1F => some .anchored
  | _ => none

/-- The width of an element in bits. -/
def Fmt.width : Fmt → Nat
  | .b64 => 64 | .b32 => 32 | .b16 => 16 | .bf16 => 16 | .e4m3 => 8 | .e5m2 => 8 | .e2m3 => 6 | .e3m2 => 6
  | .e2m1 => 4 | .i8 => 8 | .i4 => 4 | .i32 => 32

/-- Is the format an integer format (R62)? -/
def Fmt.isInt : Fmt → Bool
  | .i8 | .i4 | .i32 => true
  | _ => false

/-- Fraction bits t of Table 3-2. -/
def Fmt.t : Fmt → Nat
  | .b64 => 52 | .b32 => 23 | .b16 => 10 | .bf16 => 7 | .e4m3 => 3 | .e5m2 => 2 | .e2m3 => 3 | .e3m2 => 2
  | .e2m1 => 1 | _ => 0

/-- The exponent bias of Table 3-2. -/
def Fmt.bias : Fmt → Int
  | .b64 => 1023 | .b32 => 127 | .b16 => 15 | .bf16 => 127 | .e4m3 => 7 | .e5m2 => 15 | .e2m3 => 1 | .e3m2 => 3
  | .e2m1 => 1 | _ => 0

/-- emax of Table 3-2. -/
def Fmt.emax : Fmt → Int
  | .b64 => 1023 | .b32 => 127 | .b16 => 15 | .bf16 => 127 | .e4m3 => 8 | .e5m2 => 15 | .e2m3 => 2 | .e3m2 => 4
  | .e2m1 => 2 | _ => 0

/-- emin of Table 3-2: 1 less the bias. -/
def Fmt.emin (f : Fmt) : Int := 1 - f.bias

/-- The largest finite magnitude as significand and exponent, scaled so that the significand has t + 1 bits. E4M3's
all-ones significand of its top binade is its NaN (R60). -/
def Fmt.maxSig : Fmt → Nat
  | .e4m3 => 14
  | f => 2 ^ (f.t + 1) - 1

/-- Does the format encode infinities (Table 3-3)? -/
def Fmt.hasInf : Fmt → Bool
  | .b64 | .b32 | .b16 | .bf16 | .e5m2 => true
  | _ => false

/-- The range of an integer format (R62). -/
def Fmt.intMax (f : Fmt) : Int := 2 ^ (f.width - 1) - 1
def Fmt.intMin (f : Fmt) : Int := -(2 ^ (f.width - 1))

/-- A decoded value: NAN, INF with its sign, or the finite value m × 2^e (ZERO is m = 0). -/
inductive Num where
  | nan
  | inf (neg : Bool)
  | fin (m : Int) (e : Int)
  deriving DecidableEq, Repr

/-- Zero, without sign (R68, R76). -/
abbrev Num.zero : Num := .fin 0 0

/-- Decode the element `x` of format `f` (R65). -/
def decodeNum (f : Fmt) (x : Nat) : Num :=
  if f.isInt then .fin (signed f.width x) 0 else
  let x := x % 2 ^ f.width
  let neg := decide (2 ^ (f.width - 1) ≤ x)
  let ex := x / 2 ^ f.t % 2 ^ (f.width - 1 - f.t)
  let fr := x % 2 ^ f.t
  let top := decide (ex = 2 ^ (f.width - 1 - f.t) - 1)
  let sgn : Int := if neg then -1 else 1
  if (f.hasInf && top && decide (fr ≠ 0)) || (decide (f = .e4m3) && top && decide (fr = 7)) then .nan
  else if f.hasInf && top then .inf neg
  else if ex = 0 ∧ fr = 0 then .zero
  else if ex = 0 then .fin (sgn * fr) (1 - f.bias - f.t)
  else .fin (sgn * (fr + 2 ^ f.t : Nat)) (ex - f.bias - f.t)

/-- The value times 2^k. -/
def Num.scale : Num → Int → Num
  | .fin m e, k => if m = 0 then .zero else .fin m (e + k)
  | v, _ => v

/-- Decode an element of an MX block with scale byte `x` (R63, R66). -/
def decodeMx (f : Fmt) (x sc : Nat) : Num := if sc = 0xFF then .nan else (decodeNum f x).scale ((sc : Int) - 127)

/-- The exact value of an E8M0 scale, NAN for 0xFF (R63). -/
def decodeE8m0 (x : Nat) : Num := if x = 0xFF then .nan else .fin 1 ((x : Int) - 127)

def Num.neg : Num → Num
  | .nan => .nan
  | .inf s => .inf !s
  | .fin m e => .fin (-m) e

def Num.abs : Num → Num
  | .nan => .nan
  | .inf _ => .inf false
  | .fin m e => .fin m.natAbs e

def Num.isZero : Num → Bool
  | .fin m _ => m == 0
  | _ => false

def Num.isNan : Num → Bool
  | .nan => true
  | _ => false

def Num.isFin : Num → Bool
  | .fin _ _ => true
  | _ => false

/-- Is the value negative (−INF or a negative finite value)? -/
def Num.isNeg : Num → Bool
  | .nan => false
  | .inf s => s
  | .fin m _ => decide (m < 0)

/-- `m` at exponent `e` restated at the exponent `e'` at or below it. -/
def alignTo (m e e' : Int) : Int := m * 2 ^ (e - e').toNat

/-- The exact sum (R68, R71). -/
def Num.add : Num → Num → Num
  | .nan, _ => .nan
  | _, .nan => .nan
  | .inf a, .inf b => if a = b then .inf a else .nan
  | .inf a, _ => .inf a
  | _, .inf b => .inf b
  | .fin m e, .fin n f =>
    if m = 0 then (if n = 0 then .zero else .fin n f) else if n = 0 then .fin m e else
    let l := min e f
    let r := alignTo m e l + alignTo n f l
    if r = 0 then .zero else .fin r l

/-- The exact product (R67). -/
def Num.mul : Num → Num → Num
  | .nan, _ => .nan
  | _, .nan => .nan
  | .inf a, .inf b => .inf (a != b)
  | .inf a, .fin n _ => if n = 0 then .nan else .inf (a != decide (n < 0))
  | .fin m _, .inf b => if m = 0 then .nan else .inf (decide (m < 0) != b)
  | .fin m e, .fin n f => if m * n = 0 then .zero else .fin (m * n) (e + f)

def Num.sub (a b : Num) : Num := a.add b.neg

/-- a × b + c, exact. -/
def Num.fma (a b c : Num) : Num := (a.mul b).add c

/-- How many quotient and root bits are kept: beyond every destination's precision, with a last sticky bit, so that the
one rounding of R72 sees the exact value's place. -/
def guardBits : Nat := 320

/-- The quotient under the IEEE 754 rules, to `guardBits` bits and a sticky bit. -/
def Num.div : Num → Num → Num
  | .nan, _ => .nan
  | _, .nan => .nan
  | .inf _, .inf _ => .nan
  | .inf a, .fin n _ => .inf (a != decide (n < 0))
  | .fin _ _, .inf _ => .zero
  | .fin m e, .fin n f =>
    if n = 0 then (if m = 0 then .nan else .inf (decide (m < 0))) else if m = 0 then .zero else
    let neg := decide (m < 0) != decide (n < 0)
    let k := guardBits + log2 n.natAbs
    let q := m.natAbs * 2 ^ k / n.natAbs
    let st := if m.natAbs * 2 ^ k % n.natAbs = 0 then 0 else 1
    .fin ((if neg then -1 else 1) * (2 * q + st : Nat)) (e - f - k - 1)

/-- The integer square root by bits, from bit `i - 1` down: the largest r ≥ `r` of the remaining bits with r² ≤ v. -/
def isqrtBits (v : Nat) : Nat → Nat → Nat
  | 0, r => r
  | i + 1, r => if (r + 2 ^ i) * (r + 2 ^ i) ≤ v then isqrtBits v i (r + 2 ^ i) else isqrtBits v i r

/-- The integer square root, rounded down. -/
def isqrt (v : Nat) : Nat := isqrtBits v (log2 v / 2 + 1) 0

/-- The square root under the IEEE 754 rules, to `guardBits` bits and a sticky bit; the root of −0 is +0 (R76). -/
def Num.sqrt : Num → Num
  | .nan => .nan
  | .inf s => if s then .nan else .inf false
  | .fin m e =>
    if m = 0 then .zero else if m < 0 then .nan else
    let k := 2 * guardBits + (if e % 2 = 0 then 0 else 1)
    let v := m.natAbs * 2 ^ k
    let r := isqrt v
    let st := if r * r = v then 0 else 1
    .fin (2 * r + st : Nat) ((e - k) / 2 - 1)

/-- The order of decoded values (R80): less, equal, greater; none when unordered. -/
def Num.cmp : Num → Num → Option Ordering
  | .nan, _ => none
  | _, .nan => none
  | .inf a, .inf b => some (if a = b then .eq else if a then .lt else .gt)
  | .inf a, .fin _ _ => some (if a then .lt else .gt)
  | .fin _ _, .inf b => some (if b then .gt else .lt)
  | .fin m e, .fin n f =>
    let l := min e f
    let x := alignTo m e l
    let y := alignTo n f l
    some (if x < y then .lt else if x = y then .eq else .gt)

def Num.lt (a b : Num) : Bool := a.cmp b == some .lt
def Num.le (a b : Num) : Bool := a.cmp b == some .lt || a.cmp b == some .eq
def Num.eq (a b : Num) : Bool := a.cmp b == some .eq

/-- Maximum and minimum (R81): NaN if either is. -/
def Num.max (a b : Num) : Num := if a.isNan || b.isNan then .nan else if a.lt b then b else a
def Num.min (a b : Num) : Num := if a.isNan || b.isNan then .nan else if b.lt a then b else a

/-! ## Rounding and encoding (R72 to R76) -/

/-- Rounding modes (R69). -/
inductive Rnd where
  | rne | rtz | sr
  deriving DecidableEq, Repr

/-- What an element counts as in the monitors (R77). -/
inductive Ev where
  | nonfinite | sat | zero | none
  deriving DecidableEq, Repr

/-- The exponent of the last place: L of R72. -/
def Fmt.lsb (f : Fmt) (m : Nat) (e : Int) : Int :=
  if f.isInt then 0 else Max.max ((log2 m : Int) + e) f.emin - f.t

/-- The rounded integer significand n of R72, before the carry; `r` is the draw R of R73. -/
def roundSig (rnd : Rnd) (r m : Nat) (d : Int) : Nat :=
  if d ≤ 0 then m * 2 ^ (-d).toNat else
  let k := d.toNat
  let n := m / 2 ^ k
  let frac := m % 2 ^ k
  let up := match rnd with
    | .rne => decide (2 ^ (k - 1) < frac) || (decide (frac = 2 ^ (k - 1)) && n % 2 == 1)
    | .rtz => false
    | .sr => decide (frac ≠ 0) && decide (r < frac * 2 ^ 24 / 2 ^ k)
  n + bnat up

/-- Does rounding to `f` discard nonzero bits (the condition of a draw, R73)? -/
def inexactIn (f : Fmt) : Num → Bool
  | .fin m e =>
    if m = 0 then false else
    let d := f.lsb m.natAbs e - e
    decide (0 < d) && decide (m.natAbs % 2 ^ d.toNat ≠ 0)
  | _ => false

/-- The sign bit of a format. -/
def Fmt.signBit (f : Fmt) (neg : Bool) : Nat := if neg then 2 ^ (f.width - 1) else 0

/-- The encoding of the largest finite value of a sign. -/
def Fmt.encMax (f : Fmt) (neg : Bool) : Nat :=
  if f.isInt then unsigned f.width (if neg then f.intMin else f.intMax) else
  let ex := (f.emax + f.bias).toNat
  f.signBit neg + ex * 2 ^ f.t + (f.maxSig - 2 ^ f.t)

/-- The encoding of an infinity, or what stands for one (Table 3-5). -/
def Fmt.encInf (f : Fmt) (neg : Bool) : Nat :=
  if f.hasInf then f.signBit neg + (2 ^ (f.width - 1 - f.t) - 1) * 2 ^ f.t else f.encMax neg

/-- The canonical NaN, or what stands for one (Tables 3-3 and 3-5). -/
def Fmt.encNan : Fmt → Nat
  | .b64 => 0x7FF8000000000000
  | .b32 => 0x7FC00000
  | .b16 => 0x7E00
  | .bf16 => 0x7FC0
  | .e4m3 => 0x7F
  | .e5m2 => 0x7E
  | f => f.encMax false

/-- Round a value to format `f` once and encode it (R72 to R77); the event it counts as comes with it. -/
def roundTo (f : Fmt) (rnd : Rnd) (satinf : Bool) (r : Nat) (v : Num) : Nat × Ev :=
  match v with
  | .nan => (f.encNan, .nonfinite)
  | .inf s => (f.encInf s, .nonfinite)
  | .fin m e =>
    if m = 0 then (0, .zero) else
    let neg := decide (m < 0)
    let l0 := f.lsb m.natAbs e
    let n0 := roundSig rnd r m.natAbs (l0 - e)
    if f.isInt then
      let x : Int := if neg then -(n0 : Int) else n0
      if x < f.intMin ∨ f.intMax < x then (f.encMax neg, .sat)
      else (unsigned f.width x, if n0 = 0 then .zero else .none)
    else
      let n := if n0 = 2 ^ (f.t + 1) then 2 ^ f.t else n0
      let l := if n0 = 2 ^ (f.t + 1) then l0 + 1 else l0
      if n = 0 then (0, .zero)
      else if f.emax - f.t < l ∨ (l = f.emax - f.t ∧ f.maxSig < n) then
        (if f.hasInf && !satinf && rnd != .rtz then f.encInf neg else f.encMax neg, .sat)
      else if 2 ^ f.t ≤ n then
        (f.signBit neg + (l + f.t + f.bias).toNat * 2 ^ f.t + (n - 2 ^ f.t), .none)
      else (f.signBit neg + n, .none)

/-- Round to nearest, ties to even, and encode: the arithmetic of the vector engine, the cores and the engines. -/
def encRne (f : Fmt) (v : Num) : Nat := (roundTo f .rne false 0 v).1

/-- The same where VTYPE.SATINF says what an overflow writes (R74, R121). -/
def encSat (f : Fmt) (satinf : Bool) (v : Num) : Nat := (roundTo f .rne satinf 0 v).1

/-- The value that `v` rounds to in format `f` under RNE, decoded again. -/
def roundRne (f : Fmt) (v : Num) : Num := decodeNum f (encRne f v)

/-! ## MX blocks (R78) -/

/-- The floor of log2 of a magnitude, none for zero and non-finite values. -/
def Num.msb : Num → Option Int
  | .fin m e => if m = 0 then Option.none else some ((log2 m.natAbs : Int) + e)
  | _ => Option.none

/-- The largest msb-exponent of the values of a block. -/
def blockMsb (vs : List Num) : Option Int :=
  vs.foldl (fun acc v => match acc, v.msb with
    | Option.none, x => x
    | some a, some b => some (Max.max a b)
    | a, Option.none => a) Option.none

/-- The scale byte of a block and whether it was limited to 254 from above (R78, step 2). -/
def blockScale (f : Fmt) (vs : List Num) : Nat × Bool :=
  match blockMsb vs with
  | Option.none => (0x7F, false)
  | some x =>
    let sc := x - f.emax + 127
    if sc < 0 then (0, false) else if 254 < sc then (254, true) else (sc.toNat, false)

/-- Encode one block of values in an MX format: the scale byte, and each element with its event (R78). -/
def encodeBlock (f : Fmt) (rnd : Rnd) (satinf : Bool) (draw : Nat → Nat) (vs : List Num) : Nat × List (Nat × Ev) :=
  if vs.any fun v => !v.isFin then
    (0xFF, vs.map fun v => (0, if v.isFin then Ev.none else Ev.nonfinite))
  else
    let sc := blockScale f vs
    (sc.1, vs.zipIdx.map fun p =>
      let z := p.1.scale (127 - (sc.1 : Int))
      let r := roundTo f rnd satinf (draw p.2) z
      if r.2 = Ev.sat ∧ !sc.2 then (f.encMax p.1.isNeg, Ev.none) else r)

/-! ## Storage of elements (R64) -/

/-- Element `k` of width `w` bits in a little-endian byte string: bits [w k + w − 1 : w k]. -/
def elemOf (w : Nat) (bs : List Byte) (k : Nat) : Nat := bytesNat bs / 2 ^ (w * k) % 2 ^ w

/-- The bytes that elements of `w` bits make, in order, padded with zero bits to whole bytes. -/
def packElems (w : Nat) (xs : List Nat) : List Byte :=
  natBytes ((w * xs.length + 7) / 8) (xs.foldr (fun x acc => x % 2 ^ w + 2 ^ w * acc) 0)

end Sys2Proof.Machine
end

