-- ==== Sys2Proof/Config.lean ====
section
/-! DEFINITION. What the spec leaves open: the free values, constants without a body, so that no proof can see what
they are. `freeWord n` is the n-th value the package supplies where the spec states that there is a value and not
which (the state's counter `freeCtr` is n). -/
namespace Sys2Proof.Config

/-- The n-th free value of 64 bits (log entry 3). -/
opaque freeWord : Nat → BitVec 64

/-- The n-th free value of 256 bits: data the environment returns (log entry 3). -/
opaque freeGranule : Nat → BitVec 256

/-- Bytes 20–23 and 24–31 of the n-th record of the event log, where the chapter of its block names no unit, or no
address or detail, for the event (R343; log entry 34). -/
opaque recordUnit : Nat → BitVec 32
opaque recordDetail : Nat → BitVec 64

/-- Byte 18 of the n-th record of the event log, where it records something that has no event bit of its block (R156, R373; log
entry 8). -/
opaque recordBit : Nat → BitVec 8

/-- How far from nominal an exchange with a given offset sets the rate word (R32; log entry 7). -/
opaque rateStep : Int → Nat

/-- By how many cycles a busy counter advances for one piece of work, by the counter's offset and its value (log entry 9). -/
opaque cycles : Nat → Nat → Nat

/-- A lane beyond the end of a register that an instruction names, by the register's contents and the lane's number (R135, R137,
R149; log entry 12). -/
opaque beyond : BitVec 8192 → Nat → BitVec 64

/-- The E8M0 byte, and in bits 9 and 8 the event, of the value m × 2^e where it is no power of two that E8M0 holds (R79, R135; log
entry 12). -/
opaque e8m0 : Int → Int → BitVec 16

/-- The operand of a scatter-add for another node whose exact sum m × 2^e the format of the given code does not hold (R139; log
entry 12). -/
opaque unheld : Nat → Int → Int → BitVec 64

/-- The result of a scalar shift by a count of 64 or more, by the instruction's MAJ ‖ FN[5:4] and its operands (R178; log entry
12). -/
opaque wideShift : Nat → BitVec 64 → BitVec 64 → BitVec 64

/-- The sync counter that a register value above 255 names in WAITSC and SIGSC (R178; log entry 12). -/
opaque counterOf : BitVec 64 → BitVec 8

/-- What a program on a tile reads as its core number, by the tile (R179; log entry 12). -/
opaque tileCore : Nat → BitVec 64

/-- The core clocks between two fabric times (R179; log entry 9). -/
opaque clocks : Nat → Nat → BitVec 64

/-- RESID of a record whose item returns no iterate, by the record's address and the item's TAG (R207; log entry 12). -/
opaque noResid : Nat → Nat → BitVec 64

/-- The new value of an atomic addition whose format code is no floating-point format of its size, by the code and log2 of the
size, the old value and the operand (R139; log entry 12). -/
opaque atomicSum : Nat → BitVec 64 → BitVec 64 → BitVec 64

/-- The offset in its first sector at which a chunk begins that a flit of a type, from a node, with a tag names by the sector
alone (R284; log entry 20). -/
opaque chunkOffset : Nat → Nat → Nat → BitVec 5

/-- The LINK_CTRL flits that give notice of a lane rotation, by their trailers, and the logical lane and the LSEQ that they name
(R267; log entry 87). -/
opaque rotateNotice : BitVec 64 → Option (BitVec 3 × BitVec 12)

/-- The LSEQ at which the receiver of a port lets a lane rotate, by the port and the LSEQ it expects next (R267; log entry 87). -/
opaque rotateAt : Nat → Nat → BitVec 12

/-- The lanes of a port that carried the errors for which it goes down, by the port and the LSEQ that failed (R271; log entry
87). -/
opaque failedLanes : Nat → Nat → BitVec 9

/-- Whether an element of a collective, by group, sequence number and element, whose sum other members formed and which reached
this one as an infinity or a NaN, overflowed there (R296; log entry 22). -/
opaque collOverflow : Nat → Nat → Nat → Bool

/-- How many contributions of a substituted primary were truncated, by group and sequence number, where it did not form their
folds itself (R296, R312; log entry 22). -/
opaque takenInexact : Nat → Nat → BitVec 64

/-- The anchor field of an element whose anchors differ, by group, sequence number and element (R302; log entry 22). -/
opaque mixedAnchor : Nat → Nat → Nat → BitVec 16

/-- Whether a collective chunk, by its source, tag and header bytes 10 to 15, has come to be relayed, and to which node (R314; log
entry 22). -/
opaque relayTo : Nat → Nat → Nat → Option (BitVec 16)

/-- The unit number that an address event of the host's own records, by the address (R23; log entry 12). -/
opaque hostUnit : Nat → BitVec 16

/-- The fuse SERIAL, the serial number of the package (R382). -/
opaque serial : BitVec 64

/-- The stepping of the package (R344, HUB_ID; R431, IDCODE). -/
opaque stepping : BitVec 4

/-- The index of a check sector in its check cache: which of the 128 sets holds it (R251; log entry 18). -/
opaque checkSet : Nat → Nat

/-- The fuses KEY_HASH[0–3]: the SHA-256 of each signing key, as a little-endian number (R382). -/
opaque keyHash : Nat → BitVec 256

/-- The digest of the mask ROM's contents, fixed per stepping (R394, measurement 1). -/
opaque romDigest : BitVec 256

/-- The digest of a measurement whose encoding the spec does not give, from the bytes of what it names, by its index
(R394, measurements 4 to 8; log entry 25). -/
opaque measDigest : Nat → List (BitVec 8) → BitVec 256


end Sys2Proof.Config
end

