-- ==== Sys2Proof/Machine/RegMap.lean ====
section
/-! DEFINITION. The register map of BAR0: one row per register (or array of registers) of the register tables of the
spec (R57, R117, R160, R174, R211, R227, R241, R261, R288, R317, R344, R364, R380, R401, R420), with its width, reset
value and the masks of its field types (R10), and the offsets by name. -/
namespace Sys2Proof.Machine

/-- Which resets return a register to its reset value (R416): every reset of the hub; a package reset (PACKAGE or
COLD) only; a COLD reset only. -/
inductive RegClass where
  | hub | pkg | cold
  deriving DecidableEq, Repr

/-- One row of the register map. `n1` registers stand `s1` bytes apart, and `n2` such groups `s2` bytes apart. The masks
say which bits are RW, W1C, W1S and RWL (R10); every other bit is RO, WO or reserved, and a write ignores it. -/
structure RegRow where
  base : Nat
  n1 : Nat
  s1 : Nat
  n2 : Nat
  s2 : Nat
  wide : Bool
  cls : RegClass
  reset : Nat
  rw : Nat
  w1c : Nat
  w1s : Nat
  rwl : Nat
  deriving DecidableEq, Repr

/-- The rows of HUB registers (BAR0 block index 0). -/
def regRowsHub : List RegRow := [
  ⟨0x300000, 1, 4, 1024, 0x80, false, .pkg, 0x20400, 0x3FFFF, 0, 0, 0⟩,  -- MON_CFG
  ⟨0x300004, 1, 4, 1024, 0x80, false, .pkg, 0, 0, 0, 0, 0⟩,  -- MON_CTRL
  ⟨0x300008, 1, 4, 1024, 0x80, false, .pkg, 0, 0xFF, 0, 0, 0⟩,  -- MON_SCALE
  ⟨0x30000C, 1, 4, 1024, 0x80, false, .pkg, 0, 0, 0, 0, 0⟩,  -- MON_AMAX
  ⟨0x300010, 1, 8, 1024, 0x80, true, .pkg, 0, 0xFFFFFFFFFFFFFFFF, 0, 0, 0⟩,  -- MON_BASE
  ⟨0x300018, 1, 8, 1024, 0x80, true, .pkg, 0, 0xFFFFFFFFFFFFFFFF, 0, 0, 0⟩,  -- MON_LIMIT
  ⟨0x300020, 1, 8, 1024, 0x80, true, .pkg, 0, 0xFFFFFFFFFFFFFFFC, 0, 0, 0⟩,  -- MON_QADDR
  ⟨0x300028, 1, 8, 1024, 0x80, true, .pkg, 0, 0xFFFFFFFFFFFFFFFC, 0, 0, 0⟩,  -- MON_DADDR
  ⟨0x300030, 1, 4, 1024, 0x80, false, .pkg, 0, 0xFFFFFFFF, 0, 0, 0⟩,  -- MON_FILL
  ⟨0x300034, 1, 4, 1024, 0x80, false, .pkg, 0x80000000, 0, 0, 0, 0⟩,  -- MON_HSTAT
  ⟨0x300040, 1, 8, 1024, 0x80, true, .pkg, 0, 0, 0, 0, 0⟩,  -- MON_CNT_ELEMS
  ⟨0x300048, 1, 8, 1024, 0x80, true, .pkg, 0, 0, 0, 0, 0⟩,  -- MON_CNT_ZERO
  ⟨0x300050, 1, 8, 1024, 0x80, true, .pkg, 0, 0, 0, 0, 0⟩,  -- MON_CNT_SAT
  ⟨0x300058, 1, 8, 1024, 0x80, true, .pkg, 0, 0, 0, 0, 0⟩,  -- MON_CNT_NONFINITE
  ⟨0x300060, 1, 8, 1024, 0x80, true, .pkg, 0, 0, 0, 0, 0⟩,  -- MON_CNT_EMPTY_ROW
  ⟨0x300070, 2, 8, 1024, 0x80, true, .pkg, 0x8000800080008000, 0xFFFFFFFFFFFFFFFF, 0, 0, 0⟩,  -- MON_HIST
  ⟨0x320000, 1, 8, 1, 0, true, .pkg, 0, 0, 0, 0, 0⟩,  -- MON_LOST
  ⟨0x340000, 1, 4, 1, 0, false, .pkg, 0, 0, 0, 0x80000000, 7⟩,  -- DET_CFG
  ⟨0x340008, 1, 8, 1, 0, true, .pkg, 0, 0, 0, 0, 0⟩,  -- DET_CNT_MIGRATE
  ⟨0, 1, 4, 1, 0, false, .hub, 0, 0, 0, 0, 0⟩,  -- HUB_ID
  ⟨8, 1, 8, 1, 0, true, .hub, 0, 0, 0, 0, 0⟩,  -- HUB_SERIAL
  ⟨0x10, 1, 4, 1, 0, false, .hub, 0, 0, 0, 0, 0⟩,  -- HUB_UNITS
  ⟨0x14, 1, 4, 1, 0, false, .hub, 0, 0, 0, 0, 0⟩,  -- HUB_UNITMAP_GEN
  ⟨0x20, 1, 4, 1, 0, false, .hub, 0, 0, 0x7F, 0, 0⟩,  -- HUB_EVENT
  ⟨0x24, 1, 4, 1, 0, false, .hub, 0, 0x7F, 0, 0, 0⟩,  -- HUB_EVENT_EN
  ⟨0x28, 1, 4, 1, 0, false, .hub, 0, 0, 0, 0, 0⟩,  -- HUB_REG_ERR
  ⟨0x30, 1, 8, 1, 0, true, .hub, 0, 0, 0, 0, 0⟩,  -- HUB_ADDR_ERR
  ⟨0x38, 1, 4, 1, 0, false, .hub, 0, 0, 0, 0, 0⟩,  -- HUB_ADDR_UNIT
  ⟨0x40, 1, 8, 1, 0, true, .hub, 0, 0xFFFFFFFFFFFFFFFF, 0, 0, 0⟩,  -- HUB_EVLOG_BASE
  ⟨0x48, 1, 4, 1, 0, false, .hub, 0xC, 0x3F, 0, 0, 0⟩,  -- HUB_EVLOG_CFG
  ⟨0x50, 1, 8, 1, 0, true, .hub, 0, 0, 0, 0, 0⟩,  -- HUB_EVLOG_WP
  ⟨0x58, 1, 8, 1, 0, true, .hub, 0, 0xFFFFFFFFFFFFFFFF, 0, 0, 0⟩,  -- HUB_EVLOG_RP
  ⟨0x60, 1, 8, 1, 0, true, .hub, 0, 0, 0, 0, 0⟩,  -- HUB_EVLOG_LOST
  ⟨0x100, 6, 8, 1, 0, true, .pkg, 0, 0, 0, 0, 0⟩,  -- HUB_CNT
  ⟨0x400, 32, 4, 1, 0, false, .hub, 0, 0x7FF, 0, 0, 0⟩,  -- HUB_EV_VEC
  ⟨0x100000, 1, 8, 1024, 0x40, true, .hub, 0, 0xFFFFFFFFFFFFFFFF, 0, 0, 0⟩,  -- SQ_BASE
  ⟨0x100008, 1, 4, 1024, 0x40, false, .hub, 0, 0xFFFF, 0, 0, 0⟩,  -- SQ_CFG
  ⟨0x10000C, 1, 4, 1024, 0x40, false, .hub, 0, 0, 0, 0, 0⟩,  -- SQ_STATUS
  ⟨0x100010, 1, 8, 1024, 0x40, true, .hub, 0, 0xFFFFFFFFFFFFFFFF, 0, 0, 0⟩,  -- CQ_BASE
  ⟨0x100018, 1, 4, 1024, 0x40, false, .hub, 0, 0x3FFFF, 0, 0, 0⟩,  -- CQ_CFG
  ⟨0x10001C, 1, 4, 1024, 0x40, false, .hub, 1, 0xFFFFFFFF, 0, 0, 0⟩,  -- CQ_COAL
  ⟨0x100020, 1, 4, 1024, 0x40, false, .hub, 0, 0, 0x40000, 0, 0⟩,  -- CQ_STATUS
  ⟨0x360000, 1, 4, 1, 0, false, .hub, 0x4001, 0xFF01, 0, 0, 0⟩,  -- REL_CFG
  ⟨0x360004, 1, 4, 1, 0, false, .hub, 0, 0, 0, 0, 0⟩,  -- REL_STATUS
  ⟨0x360008, 1, 4, 1, 0, false, .hub, 0, 0, 0x3FF, 0, 0⟩,  -- REL_EVENT
  ⟨0x36000C, 1, 4, 1, 0, false, .hub, 0, 0x3FF, 0, 0, 0⟩,  -- REL_EVENT_EN
  ⟨0x360010, 1, 4, 1, 0, false, .hub, 0, 0xFF070F, 0, 0x10, 0⟩,  -- REL_TEST_CTRL
  ⟨0x360014, 1, 4, 1, 0, false, .hub, 0, 0, 0, 0, 0⟩,  -- REL_TEST_RESULT
  ⟨0x360018, 1, 4, 1, 0, false, .hub, 0, 0, 0, 0, 0⟩,  -- REL_UNIT_FAIL
  ⟨0x360020, 1, 8, 1, 0, true, .hub, 0, 0, 0, 0, 0⟩,  -- REL_LAST
  ⟨0x360100, 30, 8, 1, 0, true, .pkg, 0, 0, 0, 0, 0⟩,  -- REL_CNT
  ⟨0x10000, 2048, 0x10, 1, 0, false, .hub, 0, 0xFFFFFFFC, 0, 0, 0⟩,  -- MSIX_W0
  ⟨0x10004, 2048, 0x10, 1, 0, false, .hub, 0, 0xFFFFFFFF, 0, 0, 0⟩,  -- MSIX_W1
  ⟨0x10008, 2048, 0x10, 1, 0, false, .hub, 0, 0xFFFFFFFF, 0, 0, 0⟩,  -- MSIX_W2
  ⟨0x1000C, 2048, 0x10, 1, 0, false, .hub, 1, 1, 0, 0, 0⟩,  -- MSIX_W3
  ⟨0x18000, 32, 8, 1, 0, true, .hub, 0, 0, 0, 0, 0⟩]  -- MSIX_PBA

/-- The rows of TIM registers (BAR0 block index 1). -/
def regRowsTim : List RegRow := [
  ⟨0x400000, 1, 4, 1, 0, false, .hub, 0, 0x1F, 0, 0, 0⟩,  -- TIM_CTRL
  ⟨0x400004, 1, 4, 1, 0, false, .hub, 0, 0, 0, 0, 0⟩,  -- TIM_STATUS
  ⟨0x400008, 1, 8, 1, 0, true, .hub, 0, 0, 0, 0, 0⟩,  -- TIM_FT
  ⟨0x400010, 1, 4, 1, 0, false, .hub, 0x6666666, 0, 0, 0, 0⟩,  -- TIM_FT_RATE
  ⟨0x400014, 1, 4, 1, 0, false, .hub, 0, 0, 0, 0, 0⟩,  -- TIM_FT_OFFSET
  ⟨0x400018, 1, 4, 1, 0, false, .hub, 0x100000, 0xFFFF003F, 0, 0, 0⟩,  -- TIM_SYNC_CFG
  ⟨0x400020, 1, 8, 1, 0, true, .hub, 0, 0xFFFFFFFFFFFFFFFF, 0, 0, 0⟩,  -- TIM_STITCH
  ⟨0x400028, 1, 8, 1, 0, true, .hub, 0, 0, 0, 0, 0⟩,  -- TIM_STITCH_START
  ⟨0x400030, 1, 8, 1, 0, true, .hub, 0, 0, 0, 0, 0⟩,  -- TIM_PLEAT_START
  ⟨0x400038, 1, 4, 1, 0, false, .hub, 0, 0x3F, 0, 0, 0⟩,  -- TIM_NPLEAT
  ⟨0x40003C, 1, 4, 1, 0, false, .hub, 0x7D0, 0xFFFFFFFF, 0, 0, 0⟩,  -- TIM_DEADLINE_LEAD
  ⟨0x400040, 1, 8, 1, 0, true, .hub, 0, 0xFFFFFFFFFFFFFFFF, 0, 0, 0⟩,  -- TIM_BANK_SWITCH
  ⟨0x400048, 1, 4, 1, 0, false, .hub, 0, 2, 0, 1, 0⟩,  -- TIM_BANK_CTRL
  ⟨0x400050, 1, 4, 1, 0, false, .hub, 1, 0xFFFF003F, 0, 0, 0⟩,  -- TIM_CINCH_CFG
  ⟨0x400054, 1, 4, 1, 0, false, .hub, 0x320, 0xFFFFFFFF, 0, 0, 0⟩,  -- TIM_CINCH_MARGIN
  ⟨0x400058, 1, 4, 1, 0, false, .hub, 0xF4240, 0xFFFFFFFF, 0, 0, 0⟩,  -- TIM_CINCH_TIMEOUT
  ⟨0x40005C, 1, 4, 1, 0, false, .hub, 0, 0xFFFF, 0, 0, 0⟩,  -- TIM_CINCH_PKEY
  ⟨0x400060, 1, 8, 1, 0, true, .hub, 0, 0, 0, 0, 0⟩,  -- TIM_CINCH_RELEASE
  ⟨0x400068, 1, 4, 1, 0, false, .hub, 0x64, 0xFFFFFFFF, 0, 0, 0⟩,  -- TIM_STITCH_OUT_W
  ⟨0x400070, 1, 4, 1, 0, false, .hub, 0, 0, 0x1FF, 0, 0⟩,  -- TIM_EVENT
  ⟨0x400074, 1, 4, 1, 0, false, .hub, 0, 0x1FF, 0, 0, 0⟩,  -- TIM_EVENT_EN
  ⟨0x400080, 1, 4, 1, 0, false, .hub, 0, 0, 0, 0, 0⟩,  -- TIM_CNT_PLEAT_OVERRUN
  ⟨0x400084, 1, 4, 1, 0, false, .hub, 0, 0, 0, 0, 0⟩,  -- TIM_CNT_STITCH_OVERRUN
  ⟨0x400088, 1, 4, 1, 0, false, .hub, 0, 0, 0, 0, 0⟩,  -- TIM_CNT_CINCH_LATE
  ⟨0x40008C, 1, 4, 1, 0, false, .hub, 0, 0, 0, 0, 0⟩,  -- TIM_CNT_PKEY_DROP
  ⟨0x401000, 64, 8, 1, 0, true, .hub, 0, 0xFFFFFFFF00000001, 0, 0, 0⟩,  -- TIM_PLEAT
  ⟨0x402000, 64, 4, 16, 0x100, false, .hub, 0, 0xFFFFFFFF, 0, 0, 0⟩,  -- TIM_TSET
  ⟨0x403000, 16, 8, 1, 0, true, .hub, 0, 0xFFFFFFFFFFFFFFFF, 0, 0, 0⟩,  -- TIM_TSET_WP
  ⟨0x420000, 4096, 0x20, 2, 0x20000, false, .hub, 0, 0x7FFFF1, 0, 0, 0⟩,  -- ACT_W0
  ⟨0x420004, 4096, 0x20, 2, 0x20000, false, .hub, 0, 0xFFFFFFFF, 0, 0, 0⟩,  -- ACT_W1
  ⟨0x420008, 4096, 0x20, 2, 0x20000, true, .hub, 0, 0xFFFFFFFFFFFFFFFF, 0, 0, 0⟩,  -- ACT_W2
  ⟨0x420010, 4096, 0x20, 2, 0x20000, true, .hub, 0, 0xFFFFFFFFFFFFFFFF, 0, 0, 0⟩,  -- ACT_W3
  ⟨0x420018, 4096, 0x20, 2, 0x20000, false, .hub, 0, 0x83FFFFFF, 0, 0, 0⟩,  -- ACT_W4
  ⟨0x42001C, 4096, 0x20, 2, 0x20000, false, .hub, 0, 0xF, 0, 0, 0⟩]  -- ACT_W5

/-- The rows of SEC registers (BAR0 block index 2). -/
def regRowsSec : List RegRow := [
  ⟨0x800000, 1, 4, 1, 0, false, .hub, 0, 0, 0, 0, 0⟩,  -- SEC_STATUS
  ⟨0x800004, 1, 4, 1, 0, false, .hub, 0, 0, 0, 0x1F, 0⟩,  -- SEC_CTRL
  ⟨0x800008, 1, 4, 1, 0, false, .hub, 0, 0, 0xFF, 0, 0⟩,  -- SEC_EVENT
  ⟨0x80000C, 1, 4, 1, 0, false, .hub, 0, 0xFF, 0, 0, 0⟩,  -- SEC_EVENT_EN
  ⟨0x800010, 1, 4, 1, 0, false, .hub, 0, 0, 0, 0, 0⟩,  -- SEC_BOOT_ERR
  ⟨0x800018, 1, 8, 1, 0, true, .hub, 0, 0, 0, 0, 0⟩,  -- SEC_FW_VERSION
  ⟨0x800020, 1, 4, 1, 0, false, .hub, 0, 0, 0, 0, 0⟩,  -- SEC_SVN
  ⟨0x800028, 1, 8, 1, 0, true, .hub, 0, 0xFFFFFFFFFFFFFFFF, 0, 0, 0⟩,  -- SEC_DBG_ADDR
  ⟨0x800030, 4, 4, 1, 0, false, .hub, 0, 0, 0, 0, 0⟩,  -- SEC_DBG_NONCE
  ⟨0x800120, 9, 0x20, 1, 0, true, .hub, 0, 0, 0, 0, 0⟩,  -- SEC_MEAS0
  ⟨0x800128, 9, 0x20, 1, 0, true, .hub, 0, 0, 0, 0, 0⟩,  -- SEC_MEAS1
  ⟨0x800130, 9, 0x20, 1, 0, true, .hub, 0, 0, 0, 0, 0⟩,  -- SEC_MEAS2
  ⟨0x800138, 9, 0x20, 1, 0, true, .hub, 0, 0, 0, 0, 0⟩,  -- SEC_MEAS3
  ⟨0x800200, 4, 8, 1, 0, true, .pkg, 0, 0, 0, 0, 0⟩]  -- SEC_CNT

/-- The rows of PWR registers (BAR0 block index 3). -/
def regRowsPwr : List RegRow := [
  ⟨0xC00000, 1, 4, 1, 0, false, .hub, 0, 0x38, 0, 7, 0⟩,  -- PWR_CTRL
  ⟨0xC00004, 1, 4, 1, 0, false, .cold, 0, 0, 0, 0, 0⟩,  -- PWR_STATUS
  ⟨0xC00008, 1, 4, 1, 0, false, .cold, 0, 0, 0xFF, 0, 0⟩,  -- PWR_EVENT
  ⟨0xC0000C, 1, 4, 1, 0, false, .cold, 0, 0xFF, 0, 0, 0⟩,  -- PWR_EVENT_EN
  ⟨0xC00010, 1, 4, 1, 0, false, .cold, 0, 0, 0, 0, 0⟩,  -- PWR_VIN
  ⟨0xC00014, 1, 4, 1, 0, false, .cold, 0, 0, 0, 0, 0⟩,  -- PWR_POWER
  ⟨0xC00018, 1, 4, 1, 0, false, .cold, 0x960, 0xFFFF, 0, 0, 0⟩,  -- PWR_CAP
  ⟨0xC0001C, 1, 4, 1, 0, false, .cold, 0x640002, 0xFFFF000F, 0, 0, 0⟩,  -- PWR_BROWN_CFG
  ⟨0xC00020, 1, 4, 1, 0, false, .cold, 0x6E665F64, 0xFFFFFF, 0, 0, 0⟩,  -- PWR_THERM
  ⟨0xC00024, 1, 4, 1, 0, false, .cold, 0, 0, 0, 0, 0⟩,  -- PWR_LAST_RESET
  ⟨0xC00028, 1, 4, 1, 0, false, .cold, 0, 0, 0, 0, 0⟩,  -- PWR_BIST
  ⟨0xC00040, 8, 4, 1, 0, false, .cold, 0, 0, 0, 0, 0⟩,  -- PWR_TEMP
  ⟨0xC00100, 80, 4, 1, 0, false, .cold, 0x4440, 4, 0, 0, 0⟩,  -- PWR_DOM
  ⟨0xC00300, 100, 4, 1, 0, false, .cold, 0, 0, 0, 0, 0⟩,  -- PWR_CLK
  ⟨0xC01000, 6, 8, 1, 0, true, .cold, 0, 0, 0, 0, 0⟩,  -- PWR_CNT
  ⟨0xC00800, 544, 4, 1, 0, false, .cold, 8, 0, 0, 0, 0⟩]  -- PWR_SWLVL

/-- The rows of MEM registers (BAR0 block index 4). -/
def regRowsMem : List RegRow := [
  ⟨0x1000000, 1, 4, 1, 0, false, .pkg, 0x1C, 0x7F, 0, 0, 0⟩,  -- MEM_CFG
  ⟨0x1000004, 1, 4, 1, 0, false, .pkg, 0, 0, 0, 0xF, 0⟩,  -- MEM_CTRL
  ⟨0x1000008, 1, 4, 1, 0, false, .pkg, 0, 0, 0, 0, 0⟩,  -- MEM_STATUS
  ⟨0x100000C, 1, 4, 1, 0, false, .pkg, 0x695A5F, 0xFFFFFF, 0, 0, 0⟩,  -- MEM_THERM
  ⟨0x1000010, 1, 4, 1, 0, false, .pkg, 0, 0, 0x1FF, 0, 0⟩,  -- MEM_EVENT
  ⟨0x1000014, 1, 4, 1, 0, false, .pkg, 0, 0x1FF, 0, 0, 0⟩,  -- MEM_EVENT_EN
  ⟨0x1000018, 1, 4, 1, 0, false, .pkg, 0x18, 0xFF, 0, 0, 0⟩,  -- MEM_SCRUB_PERIOD
  ⟨0x1000020, 1, 8, 1, 0, true, .pkg, 0, 0, 0, 0, 0⟩,  -- MEM_RETIRE_ADD
  ⟨0x1000028, 1, 8, 1, 0, true, .pkg, 0, 0, 0, 0, 0⟩,  -- MEM_CNT_TRACK_EVICT
  ⟨0x1100000, 1, 4, 64, 0x10000, false, .pkg, 0, 0, 0, 0, 0⟩,  -- MEM_C_STATUS
  ⟨0x1100004, 1, 4, 64, 0x10000, false, .pkg, 0, 0, 0, 0, 0⟩,  -- MEM_C_TEMP
  ⟨0x1100008, 1, 8, 64, 0x10000, true, .pkg, 0, 0, 0, 0, 0⟩,  -- MEM_C_LAST_ERR
  ⟨0x1100010, 1, 8, 64, 0x10000, true, .pkg, 0, 0, 0, 0, 0⟩,  -- MEM_C_CNT_RD
  ⟨0x1100018, 1, 8, 64, 0x10000, true, .pkg, 0, 0, 0, 0, 0⟩,  -- MEM_C_CNT_WR
  ⟨0x1100020, 1, 8, 64, 0x10000, true, .pkg, 0, 0, 0, 0, 0⟩,  -- MEM_C_CNT_CE
  ⟨0x1100028, 1, 8, 64, 0x10000, true, .pkg, 0, 0, 0, 0, 0⟩,  -- MEM_C_CNT_UE
  ⟨0x1100030, 1, 8, 64, 0x10000, true, .pkg, 0, 0, 0, 0, 0⟩,  -- MEM_C_CNT_POISON_RD
  ⟨0x1100038, 1, 8, 64, 0x10000, true, .pkg, 0, 0, 0, 0, 0⟩,  -- MEM_C_CNT_CHK_HIT
  ⟨0x1100040, 1, 8, 64, 0x10000, true, .pkg, 0, 0, 0, 0, 0⟩,  -- MEM_C_CNT_CHK_MISS
  ⟨0x1100048, 1, 8, 64, 0x10000, true, .pkg, 0, 0, 0, 0, 0⟩,  -- MEM_C_CNT_REF_TC
  ⟨0x1100050, 1, 8, 64, 0x10000, true, .pkg, 0, 0, 0, 0, 0⟩,  -- MEM_C_CNT_SCRUB_PASS
  ⟨0x1100058, 1, 8, 64, 0x10000, true, .pkg, 0, 0, 0, 0, 0⟩,  -- MEM_C_CNT_THROTTLE_TC
  ⟨0x1100060, 1, 4, 64, 0x10000, false, .pkg, 0, 0, 0, 0, 0⟩,  -- MEM_C_RETIRED
  ⟨0x1100064, 1, 4, 64, 0x10000, false, .pkg, 0x400, 0, 0, 0, 0⟩,  -- MEM_C_SPARE_FREE
  ⟨0x1100068, 1, 8, 64, 0x10000, true, .pkg, 0, 0, 0, 0, 0⟩,  -- MEM_C_PIN_FAIL
  ⟨0x1108000, 1024, 8, 64, 0x10000, true, .pkg, 0, 0, 0, 0, 0⟩]  -- MEM_C_SPARE

/-- The rows of CKP registers (BAR0 block index 6). -/
def regRowsCkp : List RegRow := [
  ⟨0x1800000, 1, 4, 1, 0, false, .hub, 0, 0, 0, 0, 0⟩,  -- CKP_STATUS
  ⟨0x1800004, 1, 4, 1, 0, false, .hub, 0, 0, 0x7F, 0, 0⟩,  -- CKP_EVENT
  ⟨0x1800008, 1, 4, 1, 0, false, .hub, 0, 0x7F, 0, 0, 0⟩,  -- CKP_EVENT_EN
  ⟨0x1800010, 1, 4, 1, 0, false, .hub, 1, 0x1F3F, 0, 0, 0⟩,  -- CKP_GRP
  ⟨0x1800018, 1, 8, 1, 0, true, .hub, 0, 0xFFFFFFFFFFFFFFFF, 0, 0, 0⟩,  -- CKP_GRP_LIST
  ⟨0x1800020, 1, 4, 1, 0, false, .hub, 0xF4240, 0xFFFFFFFF, 0, 0, 0⟩,  -- CKP_PEER_TIMEOUT
  ⟨0x1800024, 1, 4, 1, 0, false, .hub, 0, 0xFFFFFFFF, 0, 0, 0⟩,  -- CKP_TIMER
  ⟨0x1800028, 1, 4, 1, 0, false, .hub, 0, 0x3F, 0, 0, 0⟩,  -- CKP_TPLEAT
  ⟨0x1800030, 1, 8, 1, 0, true, .hub, 0, 0xFFFFFFFFFFFFFFFF, 0, 0, 0⟩,  -- CKP_TDESC
  ⟨0x1800040, 2, 0x20, 1, 0, false, .hub, 0, 0, 0, 0, 0⟩,  -- CKP_SLOT_STATE
  ⟨0x1800048, 2, 0x20, 1, 0, true, .hub, 0, 0, 0, 0, 0⟩,  -- CKP_SLOT_STITCH
  ⟨0x1800050, 2, 0x20, 1, 0, true, .hub, 0, 0, 0, 0, 0⟩,  -- CKP_SLOT_GEN
  ⟨0x1800080, 1, 8, 1, 0, true, .hub, 0, 0xFFFFFFFFFFFFFFFF, 0, 0, 0⟩,  -- CKP_XFER_ADDR
  ⟨0x1800088, 1, 4, 1, 0, false, .hub, 0, 6, 0, 1, 0⟩,  -- CKP_XFER_CTRL
  ⟨0x180008C, 1, 4, 1, 0, false, .hub, 0, 0, 0, 0, 0⟩,  -- CKP_XFER_FAILED
  ⟨0x1800090, 1, 8, 1, 0, true, .hub, 0, 0, 0, 0, 0⟩,  -- CKP_XFER_LEN
  ⟨0x18000A0, 1, 8, 1, 0, true, .hub, 0, 0xFFFFFFFFFFFFFFFF, 0, 0, 0⟩,  -- CKP_RST_STITCH
  ⟨0x18000A8, 1, 4, 1, 0, false, .hub, 0, 2, 0, 1, 0⟩,  -- CKP_RST_CTRL
  ⟨0x18000AC, 1, 4, 1, 0, false, .hub, 0, 0, 0, 0, 0⟩,  -- CKP_RST_STATUS
  ⟨0x18000B0, 1, 8, 1, 0, true, .hub, 0, 0, 0, 0, 0⟩,  -- CKP_LAST_ERR
  ⟨0x1800100, 7, 8, 1, 0, true, .pkg, 0, 0, 0, 0, 0⟩]  -- CKP_CNT

/-- The rows of BOB registers (BAR0 block index 7). -/
def regRowsBob : List RegRow := [
  ⟨0x1C00000, 1, 4, 1, 0, false, .pkg, 0, 0, 0, 1, 0⟩,  -- BOB_CTRL
  ⟨0x1C00004, 1, 4, 1, 0, false, .pkg, 0, 0, 0, 0, 0⟩,  -- BOB_STATUS
  ⟨0x1C00008, 1, 8, 1, 0, true, .pkg, 0, 0, 0, 0, 0xFFFFFFFFFFFFFFFF⟩,  -- BOB_SEED
  ⟨0x1C00010, 1, 4, 1, 0, false, .pkg, 0, 0, 7, 0, 0⟩,  -- BOB_EVENT
  ⟨0x1C00014, 1, 4, 1, 0, false, .pkg, 0, 7, 0, 0, 0⟩,  -- BOB_EVENT_EN
  ⟨0x1C00100, 1, 8, 1, 0, true, .pkg, 0, 0xFFFFFFFFFFFFFFFF, 0, 0, 0⟩,  -- BOB_FILL_ADDR
  ⟨0x1C00108, 1, 8, 1, 0, true, .pkg, 0, 0xFFFFFFFFFFFFFFFF, 0, 0, 0⟩,  -- BOB_FILL_INDEX
  ⟨0x1C00110, 1, 4, 1, 0, false, .pkg, 0, 0xFFFFFFFF, 0, 0, 0⟩,  -- BOB_FILL_COUNT
  ⟨0x1C00114, 1, 4, 1, 0, false, .pkg, 0, 0xFFFFFFFF, 0, 0, 0⟩,  -- BOB_FILL_STREAM
  ⟨0x1C00118, 1, 4, 1, 0, false, .pkg, 0, 0xFFFFFF, 0, 0, 0⟩,  -- BOB_FILL_DRAW
  ⟨0x1C0011C, 1, 4, 1, 0, false, .pkg, 0, 0, 0, 1, 0⟩,  -- BOB_FILL_CTRL
  ⟨0x1C00200, 1, 8, 1, 0, true, .pkg, 0, 0xFFFFFFFFFFFFFFFF, 0, 0, 0⟩,  -- BOB_GEN_SEED
  ⟨0x1C00208, 1, 8, 1, 0, true, .pkg, 0, 0xFFFFFFFFFFFFFFFF, 0, 0, 0⟩,  -- BOB_GEN_INDEX
  ⟨0x1C00210, 1, 4, 1, 0, false, .pkg, 0, 0xFFFFFFFF, 0, 0, 0⟩,  -- BOB_GEN_STREAM
  ⟨0x1C00214, 1, 4, 1, 0, false, .pkg, 0, 0xFFFFFFFF, 0, 0, 0⟩,  -- BOB_GEN_STITCH
  ⟨0x1C00218, 1, 4, 1, 0, false, .pkg, 0, 0xFFFFFFFF, 0, 0, 0⟩,  -- BOB_GEN_X3
  ⟨0x1C0021C, 1, 4, 1, 0, false, .pkg, 0, 0, 0, 1, 0⟩,  -- BOB_GEN_CTRL
  ⟨0x1C00220, 4, 4, 1, 0, false, .pkg, 0, 0, 0, 0, 0⟩]  -- BOB_GEN_OUT

/-- The rows of FAB registers (BAR0 block index 8). -/
def regRowsFab : List RegRow := [
  ⟨0x2000000, 1, 4, 1, 0, false, .pkg, 0, 0, 0, 0x80000000, 1⟩,  -- FAB_CFG
  ⟨0x2000004, 1, 4, 1, 0, false, .hub, 0, 0, 0, 3, 0⟩,  -- FAB_CTRL
  ⟨0x2000008, 1, 4, 1, 0, false, .hub, 0, 0, 0, 0, 0⟩,  -- FAB_STATUS
  ⟨0x200000C, 1, 4, 1, 0, false, .pkg, 0xFFFF, 0, 0, 0, 0xFFFF⟩,  -- FAB_NODE
  ⟨0x2000010, 1, 4, 1, 0, false, .hub, 0xFFFF, 0xFFFF, 0, 0, 0⟩,  -- FAB_PKEY
  ⟨0x2000014, 1, 4, 1, 0, false, .pkg, 0xFFFFFFFF, 0, 0, 0, 0xFFFFFFFF⟩,  -- FAB_FM_NODES
  ⟨0x2000018, 1, 4, 1, 0, false, .hub, 0, 0, 0xFFF, 0, 0⟩,  -- FAB_EVENT
  ⟨0x200001C, 1, 4, 1, 0, false, .hub, 0, 0xFFF, 0, 0, 0⟩,  -- FAB_EVENT_EN
  ⟨0x2000020, 1, 4, 1, 0, false, .hub, 0x64, 0xFFFFFFFF, 0, 0, 0⟩,  -- FAB_LOAD_TIMEOUT
  ⟨0x2000024, 1, 4, 1, 0, false, .hub, 0xA, 0xFFFFFFFF, 0, 0, 0⟩,  -- FAB_REISSUE
  ⟨0x2000028, 1, 4, 1, 0, false, .hub, 0x14, 0xFFFFFFFF, 0, 0, 0⟩,  -- FAB_DRAIN_TIMEOUT
  ⟨0x200002C, 1, 4, 1, 0, false, .hub, 0x404, 0xFFFF, 0, 0, 0⟩,  -- FAB_VC_RSV
  ⟨0x2000030, 1, 4, 1, 0, false, .hub, 0x40404004, 0xFFFFFFFF, 0, 0, 0⟩,  -- FAB_VC_WEIGHT0
  ⟨0x2000034, 1, 4, 1, 0, false, .hub, 0x4201010, 0xFFFFFFFF, 0, 0, 0⟩,  -- FAB_VC_WEIGHT1
  ⟨0x2000038, 1, 4, 1, 0, false, .hub, 0, 0xFFFF, 0, 0, 0⟩,  -- FAB_QUENCH_KEY
  ⟨0x200003C, 1, 4, 1, 0, false, .hub, 0, 0xFFFFFFFF, 0, 0, 0⟩,  -- FAB_QUENCH_COUNT
  ⟨0x2000040, 1, 8, 1, 0, true, .hub, 0, 0xFFFFFFFFFFFFFFFF, 0, 0, 0⟩,  -- FAB_QUENCH_LIST
  ⟨0x2000048, 1, 4, 1, 0, false, .hub, 0, 0, 0, 0, 0⟩,  -- FAB_QUENCH_ACKED
  ⟨0x2000050, 1, 8, 1, 0, true, .hub, 0, 0, 0, 0, 0⟩,  -- FAB_LAST_ERR
  ⟨0x2000058, 1, 4, 1, 0, false, .hub, 0, 0, 0, 0, 0⟩,  -- FAB_REPL_RELEASE
  ⟨0x2000080, 15, 8, 1, 0, true, .pkg, 0, 0, 0, 0, 0⟩,  -- FAB_CNT
  ⟨0x2010000, 4096, 0x10, 1, 0, true, .hub, 0, 0xFFFFFFFFFFFFF003, 0, 0, 0⟩,  -- FAB_REPL_LO
  ⟨0x2010008, 4096, 0x10, 1, 0, true, .hub, 0, 0xFFFFFFFFFFFFF, 0, 0, 0⟩,  -- FAB_REPL_HI
  ⟨0x2020000, 1, 4, 1, 0, false, .hub, 0xC, 3, 0, 0, 0⟩,  -- FAB_RING_CTRL
  ⟨0x2020100, 64, 4, 2, 0x100, false, .hub, 0, 0x3FFFF, 0, 0, 0⟩,  -- FAB_RING_TBL
  ⟨0x2100000, 1, 4, 32, 0x1000, false, .hub, 0x8001, 0xFFFFFFFF, 0, 0, 0⟩,  -- FAB_P_CFG
  ⟨0x2100004, 1, 4, 32, 0x1000, false, .hub, 0, 0, 0, 0, 0⟩,  -- FAB_P_STATUS
  ⟨0x2100008, 1, 4, 32, 0x1000, false, .hub, 0x76543210, 0, 0, 0, 0⟩,  -- FAB_P_TXMAP
  ⟨0x210000C, 1, 4, 32, 0x1000, false, .hub, 0x76543210, 0, 0, 0, 0⟩,  -- FAB_P_RXMAP
  ⟨0x2100010, 1, 8, 32, 0x1000, true, .hub, 0, 0xFFFFFFFFFFFFFFFF, 0, 0, 0⟩,  -- FAB_P_PKEYS
  ⟨0x2100040, 7, 8, 32, 0x1000, true, .pkg, 0, 0, 0, 0, 0⟩]  -- FAB_P_CNT

/-- The rows of COL registers (BAR0 block index 10). -/
def regRowsCol : List RegRow := [
  ⟨0x2800000, 1, 4, 1, 0, false, .pkg, 0, 0, 0, 0x80000000, 1⟩,  -- COL_CFG
  ⟨0x2800004, 1, 4, 1, 0, false, .hub, 0, 0, 0, 0, 0⟩,  -- COL_STATUS
  ⟨0x2800008, 1, 4, 1, 0, false, .hub, 0, 0, 0x1FF, 0, 0⟩,  -- COL_EVENT
  ⟨0x280000C, 1, 4, 1, 0, false, .hub, 0, 0x1FF, 0, 0, 0⟩,  -- COL_EVENT_EN
  ⟨0x2800010, 1, 4, 1, 0, false, .hub, 0x32, 0xFFFFFFFF, 0, 0, 0⟩,  -- COL_LAG_TIMEOUT
  ⟨0x2800014, 1, 4, 1, 0, false, .hub, 0xF4240, 0xFFFFFFFF, 0, 0, 0⟩,  -- COL_WATCHDOG
  ⟨0x2800018, 1, 4, 1, 0, false, .hub, 0x200, 0xFFFFFFFF, 0, 0, 0⟩,  -- COL_REPATH_THRESH
  ⟨0x280001C, 1, 4, 1, 0, false, .hub, 0, 0, 0, 0, 0⟩,  -- COL_RSV_TOTAL
  ⟨0x2800020, 1, 8, 1, 0, true, .hub, 0, 0, 0, 0, 0⟩,  -- COL_LAST_ERR
  ⟨0x2800100, 12, 8, 1, 0, true, .pkg, 0, 0, 0, 0, 0⟩,  -- COL_CNT
  ⟨0x2810000, 1, 4, 256, 0x40, false, .hub, 0x400000, 0x1FFF003F, 0, 0, 0⟩,  -- COL_G_CFG
  ⟨0x2810004, 1, 4, 256, 0x40, false, .hub, 0, 0xFFFFFFFF, 0, 0, 0⟩,  -- COL_G_SIZE
  ⟨0x2810008, 1, 8, 256, 0x40, true, .hub, 0, 0xFFFFFFFFFFFFFFFF, 0, 0, 0⟩,  -- COL_G_LIST
  ⟨0x2810010, 1, 8, 256, 0x40, true, .hub, 0, 0xFFFFFFFFFFFFFFFF, 0, 0, 0⟩,  -- COL_G_BACKUP
  ⟨0x2810018, 1, 4, 256, 0x40, false, .hub, 0, 0xFFFF, 0, 0, 0⟩]  -- COL_G_SEQ

/-- The rows of TNS registers (BAR0 block index 12). -/
def regRowsTns : List RegRow := [
  ⟨0x3000000, 1, 4, 256, 0x10000, false, .pkg, 0, 2, 0, 0x80000000, 1⟩,  -- TNS_CFG
  ⟨0x3000004, 1, 4, 256, 0x10000, false, .hub, 0, 0, 0, 0, 0⟩,  -- TNS_STATUS
  ⟨0x3000008, 1, 4, 256, 0x10000, false, .hub, 0, 0, 0, 0, 0⟩,  -- TNS_PHYS
  ⟨0x3000010, 1, 4, 256, 0x10000, false, .hub, 0, 0, 0x3F, 0, 0⟩,  -- TNS_EVENT
  ⟨0x3000014, 1, 4, 256, 0x10000, false, .hub, 0, 0x3F, 0, 0, 0⟩,  -- TNS_EVENT_EN
  ⟨0x3000018, 1, 8, 256, 0x10000, true, .hub, 0, 0, 0, 0, 0⟩,  -- TNS_LAST_ERR
  ⟨0x3000020, 1, 8, 256, 0x10000, true, .pkg, 0, 0, 0, 0, 0⟩,  -- TNS_CNT_TASKS
  ⟨0x3000028, 1, 8, 256, 0x10000, true, .pkg, 0, 0, 0, 0, 0⟩,  -- TNS_CNT_PRODUCTS
  ⟨0x3000030, 1, 8, 256, 0x10000, true, .pkg, 0, 0, 0, 0, 0⟩,  -- TNS_CNT_BUSY
  ⟨0x3000038, 1, 8, 256, 0x10000, true, .pkg, 0, 0, 0, 0, 0⟩,  -- TNS_CNT_INEXACT
  ⟨0x3000040, 1, 4, 256, 0x10000, false, .pkg, 0, 0, 0, 0, 0⟩,  -- TNS_CNT_ABFT_RETRY
  ⟨0x3000044, 1, 4, 256, 0x10000, false, .pkg, 0, 0, 0, 0, 0⟩,  -- TNS_CNT_ABFT_FAIL
  ⟨0x3000048, 1, 4, 256, 0x10000, false, .pkg, 0, 0, 0, 0, 0⟩,  -- TNS_CNT_ANCHOR_LOW
  ⟨0x300004C, 1, 4, 256, 0x10000, false, .pkg, 0, 0, 0, 0, 0⟩,  -- TNS_CNT_POISON_IN
  ⟨0x3000100, 1, 8, 256, 0x10000, true, .hub, 0, 0, 0, 0, 0⟩,  -- TNS_VE_PC
  ⟨0x3000108, 1, 8, 256, 0x10000, true, .hub, 0, 0, 0, 0, 0⟩,  -- TNS_VE_FAULT_PC
  ⟨0x3000110, 1, 8, 256, 0x10000, true, .pkg, 0, 0, 0, 0, 0⟩,  -- TNS_VE_CNT_INSTR
  ⟨0x3000118, 1, 8, 256, 0x10000, true, .pkg, 0, 0, 0, 0, 0⟩,  -- TNS_VE_CNT_BUSY
  ⟨0x3000120, 1, 4, 256, 0x10000, false, .pkg, 0, 0, 0, 0, 0⟩,  -- TNS_VE_CNT_RESTART
  ⟨0x3000124, 1, 4, 256, 0x10000, false, .pkg, 0, 0, 0, 0, 0⟩,  -- TNS_VE_CNT_EMPTY_ROW
  ⟨0x3000128, 1, 4, 256, 0x10000, false, .pkg, 0, 0, 0, 0, 0⟩,  -- TNS_VE_CNT_FAULT
  ⟨0x300012C, 1, 4, 256, 0x10000, false, .hub, 0, 0, 0, 0, 0⟩]  -- TNS_VE_LAST_FAULT

/-- The rows of SLV registers (BAR0 block index 16). -/
def regRowsSlv : List RegRow := [
  ⟨0x4000000, 1, 4, 1, 0, false, .hub, 0, 1, 0, 0, 0⟩,  -- SLV_CFG
  ⟨0x4000004, 1, 4, 1, 0, false, .hub, 0, 0, 0, 0, 0⟩,  -- SLV_STATUS
  ⟨0x4000010, 1, 4, 1, 0, false, .hub, 0, 0, 0x7FF, 0, 0⟩,  -- SLV_EVENT
  ⟨0x4000014, 1, 4, 1, 0, false, .hub, 0, 0x7FF, 0, 0, 0⟩,  -- SLV_EVENT_EN
  ⟨0x4000020, 1, 8, 1, 0, true, .pkg, 0, 0, 0, 0, 0⟩,  -- SLV_CNT_BATCHES
  ⟨0x4000028, 1, 8, 1, 0, true, .pkg, 0, 0, 0, 0, 0⟩,  -- SLV_CNT_DEADLINE
  ⟨0x4000030, 1, 8, 1, 0, true, .pkg, 0, 0, 0, 0, 0⟩,  -- SLV_CNT_NOT_RUN
  ⟨0x4000038, 1, 8, 1, 0, true, .pkg, 0, 0, 0, 0, 0⟩,  -- SLV_CNT_WARM_IGNORED
  ⟨0x4100000, 1, 4, 32, 0x10000, false, .hub, 0, 0, 0, 0, 0⟩,  -- SLV_FE_STATUS
  ⟨0x4100004, 1, 4, 32, 0x10000, false, .hub, 0, 0, 0, 0, 0⟩,  -- SLV_FE_PHYS
  ⟨0x4100008, 1, 8, 32, 0x10000, true, .hub, 0, 0, 0, 0, 0⟩,  -- SLV_FE_LAST_ERR
  ⟨0x4100010, 1, 8, 32, 0x10000, true, .pkg, 0, 0, 0, 0, 0⟩,  -- SLV_FE_CNT_ITEMS
  ⟨0x4100018, 1, 8, 32, 0x10000, true, .pkg, 0, 0, 0, 0, 0⟩,  -- SLV_FE_CNT_FMA
  ⟨0x4100020, 1, 8, 32, 0x10000, true, .pkg, 0, 0, 0, 0, 0⟩,  -- SLV_FE_CNT_BUSY
  ⟨0x4100028, 1, 8, 32, 0x10000, true, .pkg, 0, 0, 0, 0, 0⟩,  -- SLV_FE_CNT_DIVSQRT
  ⟨0x4100030, 1, 4, 32, 0x10000, false, .pkg, 0, 0, 0, 0, 0⟩,  -- SLV_FE_CNT_CHECK_RETRY
  ⟨0x4100034, 1, 4, 32, 0x10000, false, .pkg, 0, 0, 0, 0, 0⟩,  -- SLV_FE_CNT_CHECK_FAIL
  ⟨0x4100038, 1, 4, 32, 0x10000, false, .pkg, 0, 0, 0, 0, 0⟩]  -- SLV_FE_CNT_NOTOK

/-- The rows of SLVCORE registers (BAR0 block index 18). -/
def regRowsSlvCore : List RegRow := [
  ⟨0x4800000, 1, 4, 256, 0x4000, false, .hub, 0, 0, 0, 0, 0⟩,  -- SLV_CORE_STATUS
  ⟨0x4800004, 1, 4, 256, 0x4000, false, .hub, 0, 0, 0, 0, 0⟩,  -- SLV_CORE_PHYS
  ⟨0x4800008, 1, 8, 256, 0x4000, true, .hub, 0, 0, 0, 0, 0⟩,  -- SLV_CORE_LAST_ERR
  ⟨0x4800010, 1, 8, 256, 0x4000, true, .pkg, 0, 0, 0, 0, 0⟩,  -- SLV_CORE_CNT_PROGS
  ⟨0x4800018, 1, 8, 256, 0x4000, true, .pkg, 0, 0, 0, 0, 0⟩,  -- SLV_CORE_CNT_ITEMS
  ⟨0x4800020, 1, 8, 256, 0x4000, true, .pkg, 0, 0, 0, 0, 0⟩,  -- SLV_CORE_CNT_ITER
  ⟨0x4800100, 1, 8, 256, 0x4000, true, .hub, 0, 0, 0, 0, 0⟩,  -- SLV_VE_PC
  ⟨0x4800108, 1, 8, 256, 0x4000, true, .hub, 0, 0, 0, 0, 0⟩,  -- SLV_VE_FAULT_PC
  ⟨0x4800110, 1, 8, 256, 0x4000, true, .pkg, 0, 0, 0, 0, 0⟩,  -- SLV_VE_CNT_INSTR
  ⟨0x4800118, 1, 8, 256, 0x4000, true, .pkg, 0, 0, 0, 0, 0⟩,  -- SLV_VE_CNT_BUSY
  ⟨0x4800120, 1, 4, 256, 0x4000, false, .pkg, 0, 0, 0, 0, 0⟩,  -- SLV_VE_CNT_RESTART
  ⟨0x4800124, 1, 4, 256, 0x4000, false, .pkg, 0, 0, 0, 0, 0⟩,  -- SLV_VE_CNT_EMPTY_ROW
  ⟨0x4800128, 1, 4, 256, 0x4000, false, .pkg, 0, 0, 0, 0, 0⟩,  -- SLV_VE_CNT_FAULT
  ⟨0x480012C, 1, 4, 256, 0x4000, false, .hub, 0, 0, 0, 0, 0⟩]  -- SLV_VE_LAST_FAULT

/-- The rows of the block that holds BAR0 offset `off` (Table 1-5; the block index of R49 is the offset divided by 4 MiB). -/
def regBlock (off : Nat) : List RegRow :=
  match off / 0x400000 with
  | 0 => regRowsHub
  | 1 => regRowsTim
  | 2 => regRowsSec
  | 3 => regRowsPwr
  | 4 => regRowsMem
  | 6 => regRowsCkp
  | 7 => regRowsBob
  | 8 => regRowsFab
  | 10 => regRowsCol
  | 12 => regRowsTns
  | 13 => regRowsTns
  | 14 => regRowsTns
  | 15 => regRowsTns
  | 16 => regRowsSlv
  | 17 => regRowsSlv
  | 18 => regRowsSlvCore
  | 19 => regRowsSlvCore
  | 5 => regRowsMem
  | _ => []

/-- The register of row `r` that the word at `off` belongs to. -/
def RegRow.hit (r : RegRow) (off : Nat) : Option Nat :=
  if off < r.base then none else
  let d := off - r.base
  let d1 := if r.n2 = 1 then d else d % r.s2
  if r.n2 ≠ 1 ∧ r.n2 ≤ d / r.s2 then none else
  if r.n1 ≤ d1 / r.s1 then none else
  if d1 % r.s1 < (if r.wide then 8 else 4) then some (off - d1 % r.s1) else none

/-- The row and the register offset that the word at `off` belongs to; none where no chapter defines a register there. -/
def findReg (off : Nat) : Option (RegRow × Nat) :=
  (regBlock off).findSome? fun r => (r.hit off).map fun o => (r, o)

/-- The reset value of the register at `off` (its own offset), 0 where there is none. -/
def regReset (off : Nat) : BitVec 64 :=
  match findReg off with
  | some (r, _) => BitVec.ofNat 64 r.reset
  | none => 0

namespace Reg

/-- TIM_CTRL (R57). -/
abbrev timCtrl : Nat := 0x400000
/-- TIM_STATUS (R57). -/
abbrev timStatus : Nat := 0x400004
/-- TIM_FT (R57). -/
abbrev timFt : Nat := 0x400008
/-- TIM_FT_RATE (R57). -/
abbrev timFtRate : Nat := 0x400010
/-- TIM_FT_OFFSET (R57). -/
abbrev timFtOffset : Nat := 0x400014
/-- TIM_SYNC_CFG (R57). -/
abbrev timSyncCfg : Nat := 0x400018
/-- TIM_STITCH (R57). -/
abbrev timStitch : Nat := 0x400020
/-- TIM_STITCH_START (R57). -/
abbrev timStitchStart : Nat := 0x400028
/-- TIM_PLEAT_START (R57). -/
abbrev timPleatStart : Nat := 0x400030
/-- TIM_NPLEAT (R57). -/
abbrev timNpleat : Nat := 0x400038
/-- TIM_DEADLINE_LEAD (R57). -/
abbrev timDeadlineLead : Nat := 0x40003C
/-- TIM_BANK_SWITCH (R57). -/
abbrev timBankSwitch : Nat := 0x400040
/-- TIM_BANK_CTRL (R57). -/
abbrev timBankCtrl : Nat := 0x400048
/-- TIM_CINCH_CFG (R57). -/
abbrev timCinchCfg : Nat := 0x400050
/-- TIM_CINCH_MARGIN (R57). -/
abbrev timCinchMargin : Nat := 0x400054
/-- TIM_CINCH_TIMEOUT (R57). -/
abbrev timCinchTimeout : Nat := 0x400058
/-- TIM_CINCH_PKEY (R57). -/
abbrev timCinchPkey : Nat := 0x40005C
/-- TIM_CINCH_RELEASE (R57). -/
abbrev timCinchRelease : Nat := 0x400060
/-- TIM_STITCH_OUT_W (R57). -/
abbrev timStitchOutW : Nat := 0x400068
/-- TIM_EVENT (R57). -/
abbrev timEvent : Nat := 0x400070
/-- TIM_EVENT_EN (R57). -/
abbrev timEventEn : Nat := 0x400074
/-- TIM_CNT_PLEAT_OVERRUN (R57). -/
abbrev timCntPleatOverrun : Nat := 0x400080
/-- TIM_CNT_STITCH_OVERRUN (R57). -/
abbrev timCntStitchOverrun : Nat := 0x400084
/-- TIM_CNT_CINCH_LATE (R57). -/
abbrev timCntCinchLate : Nat := 0x400088
/-- TIM_CNT_PKEY_DROP (R57). -/
abbrev timCntPkeyDrop : Nat := 0x40008C
/-- TIM_PLEAT (R57). -/
abbrev timPleat (p : Nat) : Nat := 0x401000 + 8 * p
/-- TIM_TSET (R57). -/
abbrev timTset (n i : Nat) : Nat := 0x402000 + 0x100 * n + 4 * i
/-- TIM_TSET_WP (R57). -/
abbrev timTsetWp (n : Nat) : Nat := 0x403000 + 8 * n
/-- action bank entry word 0 (R57). -/
abbrev act0 (bank i : Nat) : Nat := 0x420000 + 0x20000 * bank + 0x20 * i
/-- action bank entry word 1 (R57). -/
abbrev act1 (bank i : Nat) : Nat := 0x420004 + 0x20000 * bank + 0x20 * i
/-- action bank entry word 2 (R57). -/
abbrev act2 (bank i : Nat) : Nat := 0x420008 + 0x20000 * bank + 0x20 * i
/-- action bank entry word 3 (R57). -/
abbrev act3 (bank i : Nat) : Nat := 0x420010 + 0x20000 * bank + 0x20 * i
/-- action bank entry word 4 (R57). -/
abbrev act4 (bank i : Nat) : Nat := 0x420018 + 0x20000 * bank + 0x20 * i
/-- action bank entry word 5 (R57). -/
abbrev act5 (bank i : Nat) : Nat := 0x42001C + 0x20000 * bank + 0x20 * i
/-- TNS_CFG (R117). -/
abbrev tnsCfg (t : Nat) : Nat := 0x3000000 + 0x10000 * t
/-- TNS_STATUS (R117). -/
abbrev tnsStatus (t : Nat) : Nat := 0x3000004 + 0x10000 * t
/-- TNS_PHYS (R117). -/
abbrev tnsPhys (t : Nat) : Nat := 0x3000008 + 0x10000 * t
/-- TNS_EVENT (R117). -/
abbrev tnsEvent (t : Nat) : Nat := 0x3000010 + 0x10000 * t
/-- TNS_EVENT_EN (R117). -/
abbrev tnsEventEn (t : Nat) : Nat := 0x3000014 + 0x10000 * t
/-- TNS_LAST_ERR (R117). -/
abbrev tnsLastErr (t : Nat) : Nat := 0x3000018 + 0x10000 * t
/-- TNS_CNT_TASKS (R117). -/
abbrev tnsCntTasks (t : Nat) : Nat := 0x3000020 + 0x10000 * t
/-- TNS_CNT_PRODUCTS (R117). -/
abbrev tnsCntProducts (t : Nat) : Nat := 0x3000028 + 0x10000 * t
/-- TNS_CNT_BUSY (R117). -/
abbrev tnsCntBusy (t : Nat) : Nat := 0x3000030 + 0x10000 * t
/-- TNS_CNT_INEXACT (R117). -/
abbrev tnsCntInexact (t : Nat) : Nat := 0x3000038 + 0x10000 * t
/-- TNS_CNT_ABFT_RETRY (R117). -/
abbrev tnsCntAbftRetry (t : Nat) : Nat := 0x3000040 + 0x10000 * t
/-- TNS_CNT_ABFT_FAIL (R117). -/
abbrev tnsCntAbftFail (t : Nat) : Nat := 0x3000044 + 0x10000 * t
/-- TNS_CNT_ANCHOR_LOW (R117). -/
abbrev tnsCntAnchorLow (t : Nat) : Nat := 0x3000048 + 0x10000 * t
/-- TNS_CNT_POISON_IN (R117). -/
abbrev tnsCntPoisonIn (t : Nat) : Nat := 0x300004C + 0x10000 * t
/-- TNS_VE_PC (R160). -/
abbrev tnsVePc (t : Nat) : Nat := 0x3000100 + 0x10000 * t
/-- TNS_VE_FAULT_PC (R160). -/
abbrev tnsVeFaultPc (t : Nat) : Nat := 0x3000108 + 0x10000 * t
/-- TNS_VE_CNT_INSTR (R160). -/
abbrev tnsVeCntInstr (t : Nat) : Nat := 0x3000110 + 0x10000 * t
/-- TNS_VE_CNT_BUSY (R160). -/
abbrev tnsVeCntBusy (t : Nat) : Nat := 0x3000118 + 0x10000 * t
/-- TNS_VE_CNT_RESTART (R160). -/
abbrev tnsVeCntRestart (t : Nat) : Nat := 0x3000120 + 0x10000 * t
/-- TNS_VE_CNT_EMPTY_ROW (R160). -/
abbrev tnsVeCntEmptyRow (t : Nat) : Nat := 0x3000124 + 0x10000 * t
/-- TNS_VE_CNT_FAULT (R160). -/
abbrev tnsVeCntFault (t : Nat) : Nat := 0x3000128 + 0x10000 * t
/-- TNS_VE_LAST_FAULT (R160). -/
abbrev tnsVeLastFault (t : Nat) : Nat := 0x300012C + 0x10000 * t
/-- MON_CFG (R174). -/
abbrev monCfg (n : Nat) : Nat := 0x300000 + 0x80 * n
/-- MON_CTRL (R174). -/
abbrev monCtrl (n : Nat) : Nat := 0x300004 + 0x80 * n
/-- MON_SCALE (R174). -/
abbrev monScale (n : Nat) : Nat := 0x300008 + 0x80 * n
/-- MON_AMAX (R174). -/
abbrev monAmax (n : Nat) : Nat := 0x30000C + 0x80 * n
/-- MON_BASE (R174). -/
abbrev monBase (n : Nat) : Nat := 0x300010 + 0x80 * n
/-- MON_LIMIT (R174). -/
abbrev monLimit (n : Nat) : Nat := 0x300018 + 0x80 * n
/-- MON_QADDR (R174). -/
abbrev monQaddr (n : Nat) : Nat := 0x300020 + 0x80 * n
/-- MON_DADDR (R174). -/
abbrev monDaddr (n : Nat) : Nat := 0x300028 + 0x80 * n
/-- MON_FILL (R174). -/
abbrev monFill (n : Nat) : Nat := 0x300030 + 0x80 * n
/-- MON_HSTAT (R174). -/
abbrev monHstat (n : Nat) : Nat := 0x300034 + 0x80 * n
/-- MON_CNT_ELEMS (R174). -/
abbrev monCntElems (n : Nat) : Nat := 0x300040 + 0x80 * n
/-- MON_CNT_ZERO (R174). -/
abbrev monCntZero (n : Nat) : Nat := 0x300048 + 0x80 * n
/-- MON_CNT_SAT (R174). -/
abbrev monCntSat (n : Nat) : Nat := 0x300050 + 0x80 * n
/-- MON_CNT_NONFINITE (R174). -/
abbrev monCntNonfinite (n : Nat) : Nat := 0x300058 + 0x80 * n
/-- MON_CNT_EMPTY_ROW (R174). -/
abbrev monCntEmptyRow (n : Nat) : Nat := 0x300060 + 0x80 * n
/-- MON_HIST (R174). -/
abbrev monHist (n h : Nat) : Nat := 0x300070 + 0x80 * n + 8 * h
/-- MON_LOST (R174). -/
abbrev monLost : Nat := 0x320000
/-- SLV_CFG (R211). -/
abbrev slvCfg : Nat := 0x4000000
/-- SLV_STATUS (R211). -/
abbrev slvStatus : Nat := 0x4000004
/-- SLV_EVENT (R211). -/
abbrev slvEvent : Nat := 0x4000010
/-- SLV_EVENT_EN (R211). -/
abbrev slvEventEn : Nat := 0x4000014
/-- SLV_CNT_BATCHES (R211). -/
abbrev slvCntBatches : Nat := 0x4000020
/-- SLV_CNT_DEADLINE (R211). -/
abbrev slvCntDeadline : Nat := 0x4000028
/-- SLV_CNT_NOT_RUN (R211). -/
abbrev slvCntNotRun : Nat := 0x4000030
/-- SLV_CNT_WARM_IGNORED (R211). -/
abbrev slvCntWarmIgnored : Nat := 0x4000038
/-- SLV_FE_STATUS (R211). -/
abbrev slvFeStatus (e : Nat) : Nat := 0x4100000 + 0x10000 * e
/-- SLV_FE_PHYS (R211). -/
abbrev slvFePhys (e : Nat) : Nat := 0x4100004 + 0x10000 * e
/-- SLV_FE_LAST_ERR (R211). -/
abbrev slvFeLastErr (e : Nat) : Nat := 0x4100008 + 0x10000 * e
/-- SLV_FE_CNT_ITEMS (R211). -/
abbrev slvFeCntItems (e : Nat) : Nat := 0x4100010 + 0x10000 * e
/-- SLV_FE_CNT_FMA (R211). -/
abbrev slvFeCntFma (e : Nat) : Nat := 0x4100018 + 0x10000 * e
/-- SLV_FE_CNT_BUSY (R211). -/
abbrev slvFeCntBusy (e : Nat) : Nat := 0x4100020 + 0x10000 * e
/-- SLV_FE_CNT_DIVSQRT (R211). -/
abbrev slvFeCntDivsqrt (e : Nat) : Nat := 0x4100028 + 0x10000 * e
/-- SLV_FE_CNT_CHECK_RETRY (R211). -/
abbrev slvFeCntCheckRetry (e : Nat) : Nat := 0x4100030 + 0x10000 * e
/-- SLV_FE_CNT_CHECK_FAIL (R211). -/
abbrev slvFeCntCheckFail (e : Nat) : Nat := 0x4100034 + 0x10000 * e
/-- SLV_FE_CNT_NOTOK (R211). -/
abbrev slvFeCntNotok (e : Nat) : Nat := 0x4100038 + 0x10000 * e
/-- SLV_CORE_STATUS (R211). -/
abbrev slvCoreStatus (c : Nat) : Nat := 0x4800000 + 0x4000 * c
/-- SLV_CORE_PHYS (R211). -/
abbrev slvCorePhys (c : Nat) : Nat := 0x4800004 + 0x4000 * c
/-- SLV_CORE_LAST_ERR (R211). -/
abbrev slvCoreLastErr (c : Nat) : Nat := 0x4800008 + 0x4000 * c
/-- SLV_CORE_CNT_PROGS (R211). -/
abbrev slvCoreCntProgs (c : Nat) : Nat := 0x4800010 + 0x4000 * c
/-- SLV_CORE_CNT_ITEMS (R211). -/
abbrev slvCoreCntItems (c : Nat) : Nat := 0x4800018 + 0x4000 * c
/-- SLV_CORE_CNT_ITER (R211). -/
abbrev slvCoreCntIter (c : Nat) : Nat := 0x4800020 + 0x4000 * c
/-- BOB_CTRL (R227). -/
abbrev bobCtrl : Nat := 0x1C00000
/-- BOB_STATUS (R227). -/
abbrev bobStatus : Nat := 0x1C00004
/-- BOB_SEED (R227). -/
abbrev bobSeed : Nat := 0x1C00008
/-- BOB_EVENT (R227). -/
abbrev bobEvent : Nat := 0x1C00010
/-- BOB_EVENT_EN (R227). -/
abbrev bobEventEn : Nat := 0x1C00014
/-- BOB_FILL_ADDR (R227). -/
abbrev bobFillAddr : Nat := 0x1C00100
/-- BOB_FILL_INDEX (R227). -/
abbrev bobFillIndex : Nat := 0x1C00108
/-- BOB_FILL_COUNT (R227). -/
abbrev bobFillCount : Nat := 0x1C00110
/-- BOB_FILL_STREAM (R227). -/
abbrev bobFillStream : Nat := 0x1C00114
/-- BOB_FILL_DRAW (R227). -/
abbrev bobFillDraw : Nat := 0x1C00118
/-- BOB_FILL_CTRL (R227). -/
abbrev bobFillCtrl : Nat := 0x1C0011C
/-- BOB_GEN_SEED (R227). -/
abbrev bobGenSeed : Nat := 0x1C00200
/-- BOB_GEN_INDEX (R227). -/
abbrev bobGenIndex : Nat := 0x1C00208
/-- BOB_GEN_STREAM (R227). -/
abbrev bobGenStream : Nat := 0x1C00210
/-- BOB_GEN_STITCH (R227). -/
abbrev bobGenStitch : Nat := 0x1C00214
/-- BOB_GEN_X3 (R227). -/
abbrev bobGenX3 : Nat := 0x1C00218
/-- BOB_GEN_CTRL (R227). -/
abbrev bobGenCtrl : Nat := 0x1C0021C
/-- BOB_GEN_OUT (R227). -/
abbrev bobGenOut (w : Nat) : Nat := 0x1C00220 + 4 * w
/-- DET_CFG (R241). -/
abbrev detCfg : Nat := 0x340000
/-- DET_CNT_MIGRATE (R241). -/
abbrev detCntMigrate : Nat := 0x340008
/-- MEM_CFG (R261). -/
abbrev memCfg : Nat := 0x1000000
/-- MEM_CTRL (R261). -/
abbrev memCtrl : Nat := 0x1000004
/-- MEM_STATUS (R261). -/
abbrev memStatus : Nat := 0x1000008
/-- MEM_THERM (R261). -/
abbrev memTherm : Nat := 0x100000C
/-- MEM_EVENT (R261). -/
abbrev memEvent : Nat := 0x1000010
/-- MEM_EVENT_EN (R261). -/
abbrev memEventEn : Nat := 0x1000014
/-- MEM_SCRUB_PERIOD (R261). -/
abbrev memScrubPeriod : Nat := 0x1000018
/-- MEM_RETIRE_ADD (R261). -/
abbrev memRetireAdd : Nat := 0x1000020
/-- MEM_CNT_TRACK_EVICT (R261). -/
abbrev memCntTrackEvict : Nat := 0x1000028
/-- MEM_C_STATUS (R261). -/
abbrev memCStatus (n : Nat) : Nat := 0x1100000 + 0x10000 * n
/-- MEM_C_TEMP (R261). -/
abbrev memCTemp (n : Nat) : Nat := 0x1100004 + 0x10000 * n
/-- MEM_C_LAST_ERR (R261). -/
abbrev memCLastErr (n : Nat) : Nat := 0x1100008 + 0x10000 * n
/-- MEM_C_CNT_RD (R261). -/
abbrev memCCntRd (n : Nat) : Nat := 0x1100010 + 0x10000 * n
/-- MEM_C_CNT_WR (R261). -/
abbrev memCCntWr (n : Nat) : Nat := 0x1100018 + 0x10000 * n
/-- MEM_C_CNT_CE (R261). -/
abbrev memCCntCe (n : Nat) : Nat := 0x1100020 + 0x10000 * n
/-- MEM_C_CNT_UE (R261). -/
abbrev memCCntUe (n : Nat) : Nat := 0x1100028 + 0x10000 * n
/-- MEM_C_CNT_POISON_RD (R261). -/
abbrev memCCntPoisonRd (n : Nat) : Nat := 0x1100030 + 0x10000 * n
/-- MEM_C_CNT_CHK_HIT (R261). -/
abbrev memCCntChkHit (n : Nat) : Nat := 0x1100038 + 0x10000 * n
/-- MEM_C_CNT_CHK_MISS (R261). -/
abbrev memCCntChkMiss (n : Nat) : Nat := 0x1100040 + 0x10000 * n
/-- MEM_C_CNT_REF_TC (R261). -/
abbrev memCCntRefTc (n : Nat) : Nat := 0x1100048 + 0x10000 * n
/-- MEM_C_CNT_SCRUB_PASS (R261). -/
abbrev memCCntScrubPass (n : Nat) : Nat := 0x1100050 + 0x10000 * n
/-- MEM_C_CNT_THROTTLE_TC (R261). -/
abbrev memCCntThrottleTc (n : Nat) : Nat := 0x1100058 + 0x10000 * n
/-- MEM_C_RETIRED (R261). -/
abbrev memCRetired (n : Nat) : Nat := 0x1100060 + 0x10000 * n
/-- MEM_C_SPARE_FREE (R261). -/
abbrev memCSpareFree (n : Nat) : Nat := 0x1100064 + 0x10000 * n
/-- MEM_C_PIN_FAIL (R261). -/
abbrev memCPinFail (n : Nat) : Nat := 0x1100068 + 0x10000 * n
/-- MEM_C_SPARE (R261). -/
abbrev memCSpare (n s : Nat) : Nat := 0x1108000 + 0x10000 * n + 8 * s
/-- FAB_CFG (R288). -/
abbrev fabCfg : Nat := 0x2000000
/-- FAB_CTRL (R288). -/
abbrev fabCtrl : Nat := 0x2000004
/-- FAB_STATUS (R288). -/
abbrev fabStatus : Nat := 0x2000008
/-- FAB_NODE (R288). -/
abbrev fabNode : Nat := 0x200000C
/-- FAB_PKEY (R288). -/
abbrev fabPkey : Nat := 0x2000010
/-- FAB_FM_NODES (R288). -/
abbrev fabFmNodes : Nat := 0x2000014
/-- FAB_EVENT (R288). -/
abbrev fabEvent : Nat := 0x2000018
/-- FAB_EVENT_EN (R288). -/
abbrev fabEventEn : Nat := 0x200001C
/-- FAB_LOAD_TIMEOUT (R288). -/
abbrev fabLoadTimeout : Nat := 0x2000020
/-- FAB_REISSUE (R288). -/
abbrev fabReissue : Nat := 0x2000024
/-- FAB_DRAIN_TIMEOUT (R288). -/
abbrev fabDrainTimeout : Nat := 0x2000028
/-- FAB_VC_RSV (R288). -/
abbrev fabVcRsv : Nat := 0x200002C
/-- FAB_VC_WEIGHT0 (R288). -/
abbrev fabVcWeight0 : Nat := 0x2000030
/-- FAB_VC_WEIGHT1 (R288). -/
abbrev fabVcWeight1 : Nat := 0x2000034
/-- FAB_QUENCH_KEY (R288). -/
abbrev fabQuenchKey : Nat := 0x2000038
/-- FAB_QUENCH_COUNT (R288). -/
abbrev fabQuenchCount : Nat := 0x200003C
/-- FAB_QUENCH_LIST (R288). -/
abbrev fabQuenchList : Nat := 0x2000040
/-- FAB_QUENCH_ACKED (R288). -/
abbrev fabQuenchAcked : Nat := 0x2000048
/-- FAB_LAST_ERR (R288). -/
abbrev fabLastErr : Nat := 0x2000050
/-- FAB_REPL_RELEASE (R288). -/
abbrev fabReplRelease : Nat := 0x2000058
/-- FAB_CNT (R288). -/
abbrev fabCnt (k : Nat) : Nat := 0x2000080 + 8 * k
/-- FAB_REPL[i] bits [63:0] (R288). -/
abbrev fabReplLo (i : Nat) : Nat := 0x2010000 + 0x10 * i
/-- FAB_REPL[i] bits [127:64] (R288). -/
abbrev fabReplHi (i : Nat) : Nat := 0x2010008 + 0x10 * i
/-- FAB_RING_CTRL (R288). -/
abbrev fabRingCtrl : Nat := 0x2020000
/-- FAB_RING_TBL (R288). -/
abbrev fabRingTbl (r i : Nat) : Nat := 0x2020100 + 0x100 * r + 4 * i
/-- FAB_P_CFG (R288). -/
abbrev fabPCfg (p : Nat) : Nat := 0x2100000 + 0x1000 * p
/-- FAB_P_STATUS (R288). -/
abbrev fabPStatus (p : Nat) : Nat := 0x2100004 + 0x1000 * p
/-- FAB_P_TXMAP (R288). -/
abbrev fabPTxmap (p : Nat) : Nat := 0x2100008 + 0x1000 * p
/-- FAB_P_RXMAP (R288). -/
abbrev fabPRxmap (p : Nat) : Nat := 0x210000C + 0x1000 * p
/-- FAB_P_PKEYS (R288). -/
abbrev fabPPkeys (p : Nat) : Nat := 0x2100010 + 0x1000 * p
/-- FAB_P_CNT (R288). -/
abbrev fabPCnt (p k : Nat) : Nat := 0x2100040 + 0x1000 * p + 8 * k
/-- COL_CFG (R317). -/
abbrev colCfg : Nat := 0x2800000
/-- COL_STATUS (R317). -/
abbrev colStatus : Nat := 0x2800004
/-- COL_EVENT (R317). -/
abbrev colEvent : Nat := 0x2800008
/-- COL_EVENT_EN (R317). -/
abbrev colEventEn : Nat := 0x280000C
/-- COL_LAG_TIMEOUT (R317). -/
abbrev colLagTimeout : Nat := 0x2800010
/-- COL_WATCHDOG (R317). -/
abbrev colWatchdog : Nat := 0x2800014
/-- COL_REPATH_THRESH (R317). -/
abbrev colRepathThresh : Nat := 0x2800018
/-- COL_RSV_TOTAL (R317). -/
abbrev colRsvTotal : Nat := 0x280001C
/-- COL_LAST_ERR (R317). -/
abbrev colLastErr : Nat := 0x2800020
/-- COL_CNT (R317). -/
abbrev colCnt (k : Nat) : Nat := 0x2800100 + 8 * k
/-- COL_G_CFG (R317). -/
abbrev colGCfg (g : Nat) : Nat := 0x2810000 + 0x40 * g
/-- COL_G_SIZE (R317). -/
abbrev colGSize (g : Nat) : Nat := 0x2810004 + 0x40 * g
/-- COL_G_LIST (R317). -/
abbrev colGList (g : Nat) : Nat := 0x2810008 + 0x40 * g
/-- COL_G_BACKUP (R317). -/
abbrev colGBackup (g : Nat) : Nat := 0x2810010 + 0x40 * g
/-- COL_G_SEQ (R317). -/
abbrev colGSeq (g : Nat) : Nat := 0x2810018 + 0x40 * g
/-- HUB_ID (R344). -/
abbrev hubId : Nat := 0
/-- HUB_SERIAL (R344). -/
abbrev hubSerial : Nat := 8
/-- HUB_UNITS (R344). -/
abbrev hubUnits : Nat := 0x10
/-- HUB_UNITMAP_GEN (R344). -/
abbrev hubUnitmapGen : Nat := 0x14
/-- HUB_EVENT (R344). -/
abbrev hubEvent : Nat := 0x20
/-- HUB_EVENT_EN (R344). -/
abbrev hubEventEn : Nat := 0x24
/-- HUB_REG_ERR (R344). -/
abbrev hubRegErr : Nat := 0x28
/-- HUB_ADDR_ERR (R344). -/
abbrev hubAddrErr : Nat := 0x30
/-- HUB_ADDR_UNIT (R344). -/
abbrev hubAddrUnit : Nat := 0x38
/-- HUB_EVLOG_BASE (R344). -/
abbrev hubEvlogBase : Nat := 0x40
/-- HUB_EVLOG_CFG (R344). -/
abbrev hubEvlogCfg : Nat := 0x48
/-- HUB_EVLOG_WP (R344). -/
abbrev hubEvlogWp : Nat := 0x50
/-- HUB_EVLOG_RP (R344). -/
abbrev hubEvlogRp : Nat := 0x58
/-- HUB_EVLOG_LOST (R344). -/
abbrev hubEvlogLost : Nat := 0x60
/-- HUB_CNT (R344). -/
abbrev hubCnt (k : Nat) : Nat := 0x100 + 8 * k
/-- HUB_EV_VEC (R344). -/
abbrev hubEvVec (b : Nat) : Nat := 0x400 + 4 * b
/-- SQ_BASE (R344). -/
abbrev sqBase (i : Nat) : Nat := 0x100000 + 0x40 * i
/-- SQ_CFG (R344). -/
abbrev sqCfg (i : Nat) : Nat := 0x100008 + 0x40 * i
/-- SQ_STATUS (R344). -/
abbrev sqStatus (i : Nat) : Nat := 0x10000C + 0x40 * i
/-- CQ_BASE (R344). -/
abbrev cqBase (i : Nat) : Nat := 0x100010 + 0x40 * i
/-- CQ_CFG (R344). -/
abbrev cqCfg (i : Nat) : Nat := 0x100018 + 0x40 * i
/-- CQ_COAL (R344). -/
abbrev cqCoal (i : Nat) : Nat := 0x10001C + 0x40 * i
/-- CQ_STATUS (R344). -/
abbrev cqStatus (i : Nat) : Nat := 0x100020 + 0x40 * i
/-- CKP_STATUS (R364). -/
abbrev ckpStatus : Nat := 0x1800000
/-- CKP_EVENT (R364). -/
abbrev ckpEvent : Nat := 0x1800004
/-- CKP_EVENT_EN (R364). -/
abbrev ckpEventEn : Nat := 0x1800008
/-- CKP_GRP (R364). -/
abbrev ckpGrp : Nat := 0x1800010
/-- CKP_GRP_LIST (R364). -/
abbrev ckpGrpList : Nat := 0x1800018
/-- CKP_PEER_TIMEOUT (R364). -/
abbrev ckpPeerTimeout : Nat := 0x1800020
/-- CKP_TIMER (R364). -/
abbrev ckpTimer : Nat := 0x1800024
/-- CKP_TPLEAT (R364). -/
abbrev ckpTpleat : Nat := 0x1800028
/-- CKP_TDESC (R364). -/
abbrev ckpTdesc : Nat := 0x1800030
/-- CKP_SLOT_STATE (R364). -/
abbrev ckpSlotState (s : Nat) : Nat := 0x1800040 + 0x20 * s
/-- CKP_SLOT_STITCH (R364). -/
abbrev ckpSlotStitch (s : Nat) : Nat := 0x1800048 + 0x20 * s
/-- CKP_SLOT_GEN (R364). -/
abbrev ckpSlotGen (s : Nat) : Nat := 0x1800050 + 0x20 * s
/-- CKP_XFER_ADDR (R364). -/
abbrev ckpXferAddr : Nat := 0x1800080
/-- CKP_XFER_CTRL (R364). -/
abbrev ckpXferCtrl : Nat := 0x1800088
/-- CKP_XFER_FAILED (R364). -/
abbrev ckpXferFailed : Nat := 0x180008C
/-- CKP_XFER_LEN (R364). -/
abbrev ckpXferLen : Nat := 0x1800090
/-- CKP_RST_STITCH (R364). -/
abbrev ckpRstStitch : Nat := 0x18000A0
/-- CKP_RST_CTRL (R364). -/
abbrev ckpRstCtrl : Nat := 0x18000A8
/-- CKP_RST_STATUS (R364). -/
abbrev ckpRstStatus : Nat := 0x18000AC
/-- CKP_LAST_ERR (R364). -/
abbrev ckpLastErr : Nat := 0x18000B0
/-- CKP_CNT (R364). -/
abbrev ckpCnt (k : Nat) : Nat := 0x1800100 + 8 * k
/-- REL_CFG (R380). -/
abbrev relCfg : Nat := 0x360000
/-- REL_STATUS (R380). -/
abbrev relStatus : Nat := 0x360004
/-- REL_EVENT (R380). -/
abbrev relEvent : Nat := 0x360008
/-- REL_EVENT_EN (R380). -/
abbrev relEventEn : Nat := 0x36000C
/-- REL_TEST_CTRL (R380). -/
abbrev relTestCtrl : Nat := 0x360010
/-- REL_TEST_RESULT (R380). -/
abbrev relTestResult : Nat := 0x360014
/-- REL_UNIT_FAIL (R380). -/
abbrev relUnitFail : Nat := 0x360018
/-- REL_LAST (R380). -/
abbrev relLast : Nat := 0x360020
/-- REL_CNT (R380). -/
abbrev relCnt (k : Nat) : Nat := 0x360100 + 8 * k
/-- SEC_STATUS (R401). -/
abbrev secStatus : Nat := 0x800000
/-- SEC_CTRL (R401). -/
abbrev secCtrl : Nat := 0x800004
/-- SEC_EVENT (R401). -/
abbrev secEvent : Nat := 0x800008
/-- SEC_EVENT_EN (R401). -/
abbrev secEventEn : Nat := 0x80000C
/-- SEC_BOOT_ERR (R401). -/
abbrev secBootErr : Nat := 0x800010
/-- SEC_FW_VERSION (R401). -/
abbrev secFwVersion : Nat := 0x800018
/-- SEC_SVN (R401). -/
abbrev secSvn : Nat := 0x800020
/-- SEC_DBG_ADDR (R401). -/
abbrev secDbgAddr : Nat := 0x800028
/-- SEC_DBG_NONCE (R401). -/
abbrev secDbgNonce (w : Nat) : Nat := 0x800030 + 4 * w
/-- SEC_MEAS[i] 64-bit word w (R401). -/
abbrev secMeas (i w : Nat) : Nat := 0x800100 + 0x20 * i + 8 * w
/-- SEC_CNT (R401). -/
abbrev secCnt (k : Nat) : Nat := 0x800200 + 8 * k
/-- PWR_CTRL (R420). -/
abbrev pwrCtrl : Nat := 0xC00000
/-- PWR_STATUS (R420). -/
abbrev pwrStatus : Nat := 0xC00004
/-- PWR_EVENT (R420). -/
abbrev pwrEvent : Nat := 0xC00008
/-- PWR_EVENT_EN (R420). -/
abbrev pwrEventEn : Nat := 0xC0000C
/-- PWR_VIN (R420). -/
abbrev pwrVin : Nat := 0xC00010
/-- PWR_POWER (R420). -/
abbrev pwrPower : Nat := 0xC00014
/-- PWR_CAP (R420). -/
abbrev pwrCap : Nat := 0xC00018
/-- PWR_BROWN_CFG (R420). -/
abbrev pwrBrownCfg : Nat := 0xC0001C
/-- PWR_THERM (R420). -/
abbrev pwrTherm : Nat := 0xC00020
/-- PWR_LAST_RESET (R420). -/
abbrev pwrLastReset : Nat := 0xC00024
/-- PWR_BIST (R420). -/
abbrev pwrBist : Nat := 0xC00028
/-- PWR_TEMP (R420). -/
abbrev pwrTemp (d : Nat) : Nat := 0xC00040 + 4 * d
/-- PWR_DOM (R420). -/
abbrev pwrDom (n : Nat) : Nat := 0xC00100 + 4 * n
/-- PWR_CLK (R420). -/
abbrev pwrClk (m : Nat) : Nat := 0xC00300 + 4 * m
/-- PWR_SWLVL (R420). -/
abbrev pwrSwlvl (u : Nat) : Nat := 0xC00800 + 4 * u
/-- PWR_CNT (R420). -/
abbrev pwrCnt (k : Nat) : Nat := 0xC01000 + 8 * k
/-- SLV_VE_PC (R211). -/
abbrev slvVePc (c : Nat) : Nat := 0x4800100 + 0x4000 * c
/-- SLV_VE_FAULT_PC (R211). -/
abbrev slvVeFaultPc (c : Nat) : Nat := 0x4800108 + 0x4000 * c
/-- SLV_VE_CNT_INSTR (R211). -/
abbrev slvVeCntInstr (c : Nat) : Nat := 0x4800110 + 0x4000 * c
/-- SLV_VE_CNT_BUSY (R211). -/
abbrev slvVeCntBusy (c : Nat) : Nat := 0x4800118 + 0x4000 * c
/-- SLV_VE_CNT_RESTART (R211). -/
abbrev slvVeCntRestart (c : Nat) : Nat := 0x4800120 + 0x4000 * c
/-- SLV_VE_CNT_EMPTY_ROW (R211). -/
abbrev slvVeCntEmptyRow (c : Nat) : Nat := 0x4800124 + 0x4000 * c
/-- SLV_VE_CNT_FAULT (R211). -/
abbrev slvVeCntFault (c : Nat) : Nat := 0x4800128 + 0x4000 * c
/-- SLV_VE_LAST_FAULT (R211). -/
abbrev slvVeLastFault (c : Nat) : Nat := 0x480012C + 0x4000 * c
/-- MSI-X table entry v, word 0 (R344). -/
abbrev msix0 (v : Nat) : Nat := 0x10000 + 0x10 * v
/-- MSI-X table entry v, word 1 (R344). -/
abbrev msix1 (v : Nat) : Nat := 0x10004 + 0x10 * v
/-- MSI-X table entry v, word 2 (R344). -/
abbrev msix2 (v : Nat) : Nat := 0x10008 + 0x10 * v
/-- MSI-X table entry v, word 3 (R344). -/
abbrev msix3 (v : Nat) : Nat := 0x1000C + 0x10 * v
/-- MSI-X pending bits 64w to 64w + 63 (R344). -/
abbrev msixPba (w : Nat) : Nat := 0x18000 + 8 * w

end Reg

end Sys2Proof.Machine
end

