-- ==== Sys2Proof/Machine/State.lean ====
section
/-! DEFINITION. The state of the package: plain data, everything the spec names. The registers of BAR0 have one home,
the register file `regs`, keyed by their offset; what is here besides is the state the spec names or implies outside
the register tables. -/
namespace Sys2Proof.Machine

/-- A running or waiting fault of a step. No command of this model ends in one. -/
inductive Fault where
  /-- Raised by no command: the package has no condition that stops it (R23 and R372 answer every refused access).
  Safe. -/
  | none
  deriving DecidableEq, Repr

/-- A refusal. -/
inductive Refusal where
  /-- Raised by the dispatch for a command whose meaning is not written. Safe. -/
  | notModelled (mnemonic : String)
  deriving DecidableEq, Repr

/-! ## Actions, completions and rings (R41, R45, R109, R325 to R341) -/

/-- A completion entry that is due (Table 13-5), before its slot, PHASE and SQHD are known. -/
structure Compl where
  cring : Nat
  status : Nat
  action : Bool
  sring : Nat
  sidx : Nat
  stitch : W64
  pleat : Nat
  failed : Nat
  info : Nat
  /-- The pleat waits until the entry is written (a host signal, R45). -/
  hold : Bool
  deriving DecidableEq, Repr

/-- A launched action, of the action table or of a ring: how many of its descriptors are still to complete, the
lowest-indexed one that is not OK, and the completion it owes. -/
structure Act where
  typ : Nat
  left : Nat
  bad : Option (Nat × Nat × Nat)
  compl : Bool
  cring : Nat
  table : Bool
  sring : Nat
  sidx : Nat
  stitch : W64
  pleat : Nat
  inPleat : Bool
  deadline : Option Nat
  signalled : Bool
  deriving DecidableEq, Repr

/-- What an entry of the action table or of a ring launches: its type, first descriptor, count, deadline pleat,
telemetry set, and where its completion goes. A ring entry of OP 0x1 is itself its DMA descriptor, whose 64 bytes are
`body`. -/
structure Launch where
  typ : Nat
  desc : Nat
  count : Nat
  deadline : Option Nat
  tset : Nat
  compl : Bool
  cring : Nat
  table : Bool
  sring : Nat
  sidx : Nat
  period : Nat
  body : List Byte
  deriving DecidableEq, Repr

/-- A ring entry that was fetched and has not launched (R330). -/
structure Fetched where
  entry : List Byte
  sidx : Nat
  /-- WHEN in force: an OP other than DMA and host signal sent IMMEDIATE while RUN is 1 acts as NEXT_PLEAT (R330). -/
  whn : Nat
  /-- Pleats begun when it was fetched. -/
  begun : Nat
  /-- An entry that completes with a status of its own (malformed or late) once its turn comes. -/
  bad : Option Nat
  deriving DecidableEq, Repr

/-- What a submission ring holds besides its registers: the tail, the count of entries fetched since EN was set, the
entries fetched and not launched, and how many launched entries have not completed. -/
structure SqSt where
  tail : Nat
  fetched : Nat
  waiting : List Fetched
  live : Nat
  deriving DecidableEq, Repr

/-- What a completion ring holds besides its registers: the head (consumed slots), the slots written and not consumed,
the slots promised to fetched entries, the entries written since the last CQ_HEAD write, the fabric time of the first of
them, and whether the vector was raised since that write. -/
structure CqSt where
  head : Nat
  used : Nat
  promised : Nat
  since : Nat
  first : Nat
  fired : Bool
  deriving DecidableEq, Repr

abbrev SqSt.init : SqSt := ⟨0, 0, [], 0⟩
abbrev CqSt.init : CqSt := ⟨0, 0, 0, 0, 0, false⟩

/-! ## Time base (chapter 02) -/

/-- What the time base holds besides its registers. Times are fabric times in 1/64 ns. -/
structure TimeSt where
  /-- The 82-bit accumulator in units of 2^-24 ns; fabric time is its bits [81:18] (R31). -/
  acc : BitVec 82
  /-- Consecutive exchanges with offsets within 2 ns (R33). -/
  good : Nat
  /-- Sync intervals since the last completed exchange (R33). -/
  missed : Nat
  /-- Fabric time was stepped once since LOCKING began (R34). -/
  stepped : Bool
  /-- The link delay computed from the last exchange, in 1/64 ns (R32). -/
  linkDelay : Int
  /-- A pleat is in progress; its kind and length as read when it began, and its planned end (R39). -/
  inPleat : Bool
  isOpen : Bool
  length : Nat
  planned : Nat
  overrun : Bool
  watched : Bool
  /-- Fabric time at which the last action completed. -/
  lastDone : Nat
  /-- Entries that fired at the pleat's start and have not launched, in launch order (R44). -/
  launchQ : List Launch
  /-- Rings with an entry due at this pleat, in rising order (R331). -/
  dueRings : List Nat
  /-- The records of the ring entries due at this pleat that are telemetry samples, by ring and index, captured at its start
  (R49). -/
  samples : List (Nat × Nat × List Byte)
  /-- Pleats begun since reset (a NEXT_PLEAT entry launches at the first pleat that begins after it is fetched, R330). -/
  begun : Nat
  /-- The pleat that begins next (R39). -/
  due : Option Nat
  /-- The last pleat of the stitch has ended and the stitch is complete once drained (R36). -/
  lastEnded : Bool
  /-- At a cinch: it is the start cinch; the package's own arrival is due (R37, R51) and sent; a fault ended the cinch. -/
  atCinch : Bool
  startCinch : Bool
  sent : Bool
  faulted : Bool
  /-- The children that have arrived, with the release latency each reported plus its link latency (R52). -/
  arrived : List (Nat × Nat)
  /-- The stitch and the DET_CFG[2:0] that the recorded arrivals of a start cinch carried (R37, R241). -/
  profiles : List (W64 × Nat)
  /-- When the own arrival became due (for the cinch timeout, R54). -/
  dueAt : Nat
  /-- M of R52, in 1/64 ns. -/
  m : Nat
  /-- The fabric time at which the last awaited arrival was recorded. -/
  lastArrival : Nat
  /-- The release that is scheduled: the stitch to begin, and T. -/
  release : Option (W64 × Nat)
  /-- The last release performed or scheduled, to recognise a repeated RELEASE (R54). -/
  lastRelease : Option (W64 × Nat)
  /-- A pocket request of the capture timer travels with the scheduled release (R348). -/
  pocketReq : Bool
  /-- The present stitch carries a pocket request; and the fabric time the capture timer counts from (R348). -/
  pocketFire : Bool
  timerFrom : Nat
  /-- The STITCH_OUT land, and when its pulse ends (R56). -/
  stitchOut : Bool
  outEnd : Nat
  deriving DecidableEq, Repr

abbrev TimeSt.init : TimeSt where
  acc := 0
  good := 0
  missed := 0
  stepped := false
  linkDelay := 0
  inPleat := false
  isOpen := false
  length := 0
  planned := 0
  overrun := false
  watched := false
  lastDone := 0
  launchQ := []
  dueRings := []
  samples := []
  begun := 0
  due := none
  lastEnded := false
  atCinch := false
  startCinch := false
  sent := false
  faulted := false
  arrived := []
  profiles := []
  dueAt := 0
  m := 0
  lastArrival := 0
  release := none
  lastRelease := none
  pocketReq := false
  pocketFire := false
  timerFrom := 0
  stitchOut := false
  outEnd := 0

/-! ## Tiles (chapter 04) -/

/-- A task in a tile's queue: its action and index in it, the device address and bytes of its descriptor, and whether
its counter was reached (R110, R111). -/
structure TaskRef where
  act : Nat
  idx : Nat
  addr : Nat
  body : List Byte
  released : Bool
  deriving DecidableEq, Repr

/-- A task that was started: whether it is a VPROG whose program still runs, and its status (R109). -/
structure RunTask where
  ref : TaskRef
  prog : Bool
  status : Nat
  deriving DecidableEq, Repr

/-- One accumulator element (R82, R99): the integer, the class bits NAN, PINF, NINF, and whether it draws on poison. -/
structure AccEl where
  acc : Int
  cls : Nat
  ex : Int
  poison : Bool
  deriving DecidableEq, Repr

/-- A held accumulator block (R112): its columns, its slice count (0 for MATMUL), and its rows of elements. -/
structure HeldBlock where
  slices : Nat
  rows : List (List AccEl)
  deriving DecidableEq, Repr

/-! ## Programs (chapters 05 and 07) -/

/-- What a program waits for: the data of its instruction's accesses (R137, R281), with the MAJ ‖ FN[5:4] of the instruction; a
fence, the signal of SIGSC, a sync counter, or the release of a replicated page. -/
inductive PWait where
  | no
  | remote (mf : Nat)
  | fence
  | sigsc (id : Nat)
  | waitsc (id cnt : Nat)
  | held
  deriving DecidableEq, Repr

/-- A program on a tile or a core: the state of Table 5-1 and the base registers, the context and descriptor addresses,
the action and index it was launched by, its samples of the seed and the stitch (R214, R215), the fabric time it started
at, the nodes it wrote, and whether it waits, was interrupted, or has ended with a status. -/
structure Prog where
  pc : W64
  x : Tbl W64
  f : Tbl W64
  v : Tbl VWord
  m : Tbl MWord
  pois : Tbl Bool
  vl : Nat
  vtype : W32
  vstream : W32
  vdraw : BitVec 24
  vebase : W64
  vestep : W64
  vmonid : BitVec 16
  vsmbeta : W32
  vcatt : W32
  ctx : Nat
  desc : Nat
  act : Nat
  idx : Nat
  signal : Nat
  seed : W64
  stitch : W32
  start : Nat
  dests : List Nat
  wait : PWait
  saved : Bool
  ended : Option Nat
  deriving DecidableEq, Repr



/-! ## Solver (chapter 07) -/

/-- A program launch in a core's queue (R180, R182). -/
structure CoreLaunch where
  act : Nat
  idx : Nat
  addr : Nat
  body : List Byte
  deriving DecidableEq, Repr

/-- What a core's queue holds: a launch, or a share of batch `b`. -/
inductive CoreEnt where
  | launch (l : CoreLaunch) (released : Bool)
  | share (b : Nat) (released : Bool)
  deriving DecidableEq, Repr

/-- A share of a batch that its unit has started (R185): the items not yet begun in rising order, the items of a core's
group in progress (R202), and those of the group that have ended, with what the ending command gave. -/
structure Share where
  batch : Nat
  items : List Nat
  group : List Nat
  ended : List (Nat × Nat)
  deriving DecidableEq, Repr

/-- A batch: where its descriptor is, its bytes, its action and index in it, the units whose shares have not finished,
and whether any item was not OK (R185). -/
structure Batch where
  addr : Nat
  body : List Byte
  act : Nat
  idx : Nat
  left : List Nat
  notOk : Bool
  deriving DecidableEq, Repr

/-! ## Bobbin (chapter 08) -/

/-! ## Memory (chapter 10) -/

/-- A request at a home controller (R251), a unit's own store that must wait there, or a request of the host (R321). -/
inductive MemReq where
  | read (addr : Nat) (req : Req) (err : List SymErr) (hops : List (List SymErr))
  | write (addr : Nat) (data : Granule) (poison : Bool) (req : Req) (hops : List (List SymErr))
  | part (addr : Nat) (mask : W32) (data : Granule) (poison : Bool) (req : Req) (err : List SymErr)
    (hops : List (List SymErr))
  | atomic (addr : Nat) (op : AtomOp) (req : Req) (err : List SymErr) (hops : List (List SymErr))
  | own (addr : Nat) (data : List Byte) (poison : Bool) (req : Req)
  | hostRead (addr : Nat) (excl : Bool)
  | hostWrite (addr : Nat) (data : List Byte) (poison : Bool)
  deriving DecidableEq, Repr

/-- A correction that is kept (R259): its fabric time, its channel, and the pin it was attributed to. -/
structure CorrAt where
  time : Nat
  ch : Nat
  pin : Option Nat
  deriving DecidableEq, Repr

/-! ## Fabric (chapters 02 and 11) -/

/-- A message the package sent: a flit on a port with its LSEQ, ACK and credit return (R271, R272), the resending of a
flit, a link NACK, a cinch, time-sync or management message (R32, R51, R52, R372), or a flit for its own node, which is
delivered to itself (R274). -/
inductive OutMsg where
  | flit (port lseq ack cvc ccount : Nat) (f : Flit)
  | again (port lseq : Nat) (f : Flit)
  | linkNack (port lseq : Nat)
  | linkCtrl (port lane lseq : Nat)
  | syncReq (port : Nat) (t1 : W64)
  | syncRsp (dst : Nat) (t1 t2 t3 : W64)
  | arrive (dst : Nat) (m : ArriveMsg)
  | release (dst : Nat) (m : ReleaseMsg)
  | mgmtReport (dst : Nat)
  | looped (f : Flit)
  deriving DecidableEq, Repr

/-- The sending side of a flow (R275, R280): the next SEQ, whether it has sent since it started, whether a drain is in
progress, the path (0 the static path, p + 1 port p), the path it drains to, the fabric time at which its drain began, and
that at which it last had something outstanding. -/
structure FlowTx where
  next : Nat
  started : Bool
  drain : Bool
  path : Nat
  goal : Nat
  since : Nat
  busyAt : Nat
  deriving DecidableEq, Repr

/-- A request without its acknowledgement (R281): the flit, when it was first and last issued, who issued it, and whether
its time limit has passed. -/
structure OutReq where
  dst : Nat
  vc : Nat
  seq : Nat
  flit : Flit
  first : Nat
  last : Nat
  req : Req
  timedOut : Bool
  deriving DecidableEq, Repr

/-- A request that waits until its flow may have one more unacknowledged (R280). -/
structure ReqWait where
  req : Req
  dst : Nat
  typ : Nat
  vc : Nat
  replica : Bool
  addr : Nat
  words : List FWord
  trailer : Nat
  deriving DecidableEq, Repr

/-- What an access of a unit needs before its instruction, task or item can complete: a sector of another node (and whether
it is read from a replica), the old value of an atomic at another node, with its trailer, operand and compare value, or a
line of the package's own memory that must first come back from the host or from a copy (R252, R260, R322). -/
inductive AccKind where
  | read (replica : Bool)
  | atomic (trailer operand cmp : Nat)
  | own (write : Bool)
  deriving DecidableEq, Repr

/-- An access that a unit has issued or is about to issue: its global address, whether its request was sent, and the data
that came back with their poison. -/
structure Access where
  req : Req
  addr : Nat
  kind : AccKind
  sent : Bool
  data : Option (Granule × Bool)
  deriving DecidableEq, Repr

/-- How a port chooses the next flit (R273): the VCs of its last flits, newest first; the VC whose turn it is and how many
flits of it are left in its turn; and the partition key that each VC last sent. -/
structure Arb where
  recent : List Nat
  vc : Nat
  left : Nat
  keys : Tbl Nat
  deriving DecidableEq, Repr

abbrev Arb.init : Arb := ⟨[], 0, 0, []⟩

/-- The receiving side of a flow (R280): the next expected SEQ, the later requests held, and the fabric time at which
its last request arrived. -/
structure FlowRx where
  expected : Nat
  waiting : List Flit
  last : Nat
  deriving DecidableEq, Repr

/-- An entry of the reply cache (R282). -/
structure Reply where
  tag : Nat
  result : W64
  poison : Bool
  status : Nat
  time : Nat
  deriving DecidableEq, Repr

/-- A chunk being received (R284): from whom, its tag and type, the sector address of its first flit, the words so far,
and whether its first copy failed its CRC. -/
structure ChunkRx where
  src : Nat
  tag : Nat
  typ : Nat
  addr : Nat
  words : List FWord
  retried : Bool
  deriving DecidableEq, Repr

/-- A chunk that awaits its DMA_ACK, or its data where `read` (R284): the other node, its tag, the address it is
read from and the one it goes to, its length, the DMA it belongs to (none: it answers a DMA_RD), the pattern of a fill,
where it is one, the pieces of its page whose source failed, whether it moves a pocket image (R361, R363), whether it is read
from a replica (R286), and the SEQ and the fabric time with which it was sent last. -/
structure ChunkTx where
  dst : Nat
  tag : Nat
  read : Bool
  src : Nat
  addr : Nat
  len : Nat
  owner : Option Nat
  fill : Option W64
  bad : List Nat
  pocket : Bool
  replica : Bool
  seq : Nat
  since : Nat
  deriving DecidableEq, Repr

/-- A store held because its page is replicated (R286). -/
structure HeldStore where
  req : Req
  addr : Nat
  data : List Byte
  poison : Bool
  deriving DecidableEq, Repr

abbrev FlowTx.init : FlowTx := ⟨0, false, false, 0, 0, 0, 0⟩
abbrev FlowRx.init : FlowRx := ⟨0, [], 0⟩

/-! ## Collectives (chapter 12) -/

/-- What a step of a collective does: additions, copies, or one of the package's own: forming the exchange vector of a
binned sum, forming the result, and writing the destination. -/
inductive StepKind where
  | reduce | gather | folds | form | write
  deriving DecidableEq, Repr

/-- What a step exchanges with one rank: element ranges (first, count) in the order of their chunks. -/
structure Xfer where
  peer : Nat
  rngs : List (Nat × Nat)
  deriving DecidableEq, Repr

/-- A step: its number (4,096 and above in the exponent reduction, R299), kind, sends and receptions. -/
structure CollStep where
  no : Nat
  kind : StepKind
  sends : List Xfer
  recvs : List Xfer
  deriving DecidableEq, Repr

/-- A chunk being received or received and not used: from which node, its tag, its words as they came, and, once its
last flit passed, its data and the fabric time at which it was whole. -/
structure CollChunk where
  src : Nat
  group : Nat
  seq : Nat
  step : Nat
  chunk : Nat
  words : List FWord
  retried : Bool
  data : Option (List (Granule × Bool))
  came : Nat
  deriving DecidableEq, Repr

/-- A chunk to send: to which node, its tag, its words and bytes, whether it was sent, and through which relay it goes (R314). -/
structure CollTx where
  dst : Nat
  group : Nat
  seq : Nat
  step : Nat
  chunk : Nat
  words : List (Granule × Bool)
  len : Nat
  sent : Bool
  via : Option Nat
  deriving DecidableEq, Repr

/-- A relay slot (R314): the flits of a chunk on its way to a node, as they came. -/
structure RelaySlot where
  dst : Nat
  flits : List Flit
  deriving DecidableEq, Repr

/-- A collective in its channel's queue: its action and index in it, its address and bytes, whether its counter was
reached. -/
structure CollRef where
  act : Nat
  idx : Nat
  addr : Nat
  body : List Byte
  released : Bool
  deriving DecidableEq, Repr

/-- A collective that runs: its descriptor, tag, rank and role, lists, the algorithm and the choice of binning, the
steps still to do (the first is in progress) and those done, the fabric time at which the present one began, the exchange
vector by element, the source elements of a binned sum and the check outcomes of the member's own additions (R308), the
exponents by block, the partial sums by first element, the chunks copied in this step, the laggards found in it by rank and
element, what a backup holds back, the nodes it sends to with the step from which it does, the ranks replaced by their backups,
whether the package itself was replaced, whether its primary asked for the destination and has it, the slots granted (node, step,
chunk) and the chunks still to be granted, the elements that overflowed here, and what the record and the status will say. -/
structure CollRun where
  ref : CollRef
  group : Nat
  seq : Nat
  rank : Nat
  role : Bool
  members : List Nat
  backups : List Nat
  alg : Nat
  binned : Bool
  shadow : Bool
  todo : List CollStep
  past : List CollStep
  since : Nat
  acc : Tbl (Nat × Bool)
  raw : Tbl (Nat × Bool)
  sums : List CollAdd
  emax : Tbl (Nat × Bool)
  part : Tbl (Nat × List (Nat × Bool))
  doneAt : List Nat
  copied : List (Nat × Nat)
  late : List (Nat × Nat)
  held : List CollTx
  released : List (Nat × Nat)
  subst : List Nat
  gone : Bool
  take : Bool
  delivered : Bool
  slots : List (Nat × Nat × Nat)
  want : List (Nat × Nat × Nat × Nat)
  hot : List Nat
  inexact : Nat
  overflow : Nat
  poisoned : Nat
  sdc : Bool
  anchorBad : Bool
  failed : Option Nat
  deriving DecidableEq, Repr

/-- A credit a peer gave: its node, the tag and step, the first chunk and how many. -/
structure CollCredit where
  node : Nat
  group : Nat
  seq : Nat
  step : Nat
  first : Nat
  count : Nat
  deriving DecidableEq, Repr

/-! ## Host interface (chapter 13) -/

/-- A DMA (R333): the action and index it was launched by, the device address of its descriptor where an action
launched it, its 64 bytes, whether its counter was reached, whether it runs, the pieces that failed, and the chunks that
are still to be acknowledged. -/
structure Dma where
  act : Nat
  idx : Nat
  addr : Option Nat
  body : List Byte
  released : Bool
  running : Bool
  failed : List Nat
  chunks : Nat
  deriving DecidableEq, Repr

/-- What the mailbox returned last (R342). -/
inductive MboxOut where
  | none
  | identity (serial : W64)
  | records (l : List (W32 × List Byte))
  | fwInfo (version : W64)
  | time (t : W64)
  | logs (l : List W64)
  | bytes (l : List Byte)
  deriving DecidableEq, Repr

/-! ## Checkpoint pockets (chapter 14) -/

/-- A capture descriptor that waits (R349): the action and index that launched it, its address, its 64 bytes, and
whether its wait was ended by software. -/
structure CkpRef where
  act : Nat
  idx : Nat
  addr : Nat
  body : List Byte
  released : Bool
  deriving DecidableEq, Repr

/-- The capture that runs (R354): its descriptor, its step (0 at the gate, 1 copied, 2 exchanged), its slot, GEN, stitch
and pleat, C_max and C, the shard digest, the parity chunks it received, by member and parity index, and the fabric time since
which it has waited for the other members. -/
structure Capture where
  ref : CkpRef
  stage : Nat
  slot : Nat
  gen : Nat
  stitch : W64
  pleat : Nat
  cmax : Nat
  chunks : Nat
  digest : List Byte
  got : List (Nat × Nat)
  since : Option Nat
  deriving DecidableEq, Repr

/-- A message sent as POCKET_DATA and not yet acknowledged (R355): the node, its tag, its place, and its words. -/
structure PktTx where
  dst : Nat
  tag : Nat
  addr : Nat
  words : List (Granule × Bool)
  deriving DecidableEq, Repr

/-- A received message (R355, R358, R359): the node it came from, its kind, its number, and its words. -/
structure PktMsg where
  src : Nat
  kind : Nat
  num : Nat
  words : List (Granule × Bool)
  deriving DecidableEq, Repr

/-- A restore that runs (R357 to R360): whether a set was chosen, the chosen stitch and own slot, the member whose shard
is missing, whether the own shard is complete and every chunk for the missing one was sent, and the fabric time of GO. -/
structure Restore where
  chosen : Bool
  stitch : Nat
  slot : Nat
  missing : Option Nat
  ready : Bool
  since : Nat
  deriving DecidableEq, Repr

/-- A drain or load that runs (R361, R363): its slot and direction, the address of the image, the number of its data
chunks (0 while a load does not know it), the failed pieces, the chunks not yet moved, and the record of a loaded
image. -/
structure PktXfer where
  slot : Nat
  load : Bool
  addr : Nat
  chunks : Nat
  failed : Nat
  left : Nat
  record : List Byte
  deriving DecidableEq, Repr

/-! ## Reliability (chapter 15) -/

/-- An online test in progress (R375): its kind, die and target, the units it moved with the physical unit each came
from, the units it parked, and the JOIN bits it cleared. -/
structure TestSt where
  kind : Nat
  die : Nat
  target : Nat
  moved : List (Nat × Nat)
  parkedU : List Nat
  join : Nat
  deriving DecidableEq, Repr

/-! ## Security (chapter 16) -/

/-- An SPDM session (R393): its number, whether its handshake is finished, and whether it asked for mutual
authentication. -/
structure SpdmSession where
  id : Nat
  up : Bool
  mutAuth : Bool
  deriving DecidableEq, Repr

/-- What the SPDM responder answered last (R393, R394). A signed answer carries a signature. -/
inductive SpdmRsp where
  | none
  | error (busy : Bool)
  | version
  | capabilities
  | algorithms
  | digests
  | certificate
  | signed
  | measurements (l : List (Nat × Granule)) (signed : Bool)
  | session (id : Nat)
  | ok
  deriving DecidableEq, Repr

/-- One direction of an IDE stream (R395): the keys of its two sets, and the active set. -/
structure IdeDir where
  key0 : Option Granule
  key1 : Option Granule
  active : Option Bool
  deriving DecidableEq, Repr

abbrev IdeDir.init : IdeDir := ⟨none, none, none⟩

/-! ## Power (chapter 17) -/

/-! ## Signals (chapter 18) -/

/-- The instruction in the JTAG TAP (R397, R431). -/
inductive JtagInstr where
  | idcode
  | bypass
  | extest
  | samplePreload
  | dbgToken
  deriving DecidableEq, Repr

/-! ## The state -/

set_option maxRecDepth 4000 in
/-- The whole state of the package. -/
structure State where
  grade : Grade
  /-- The registers of BAR0 by offset; one that is not listed reads its reset value. -/
  regs : Tbl W64
  /-- The held low word of each 64-bit pair (R13), none when empty. -/
  held : Tbl (Option W32)
  /-- The latched high word of each 64-bit pair (R13). -/
  latched : Tbl (Option W32)
  /-- Memory: device physical addresses, working memory, SRAM windows and host memory; unlisted bytes read 0. -/
  mem : Tbl Byte
  /-- Poisoned granules by granule number (address ÷ 32). -/
  poison : Tbl Bool
  /-- The value the last read command returned (the model's own field), and whether it was poison. -/
  busOut : W64
  busPoison : Bool
  /-- MSI-X messages sent: address and data, newest last (the model's own field). -/
  msixOut : List (W64 × W32)
  /-- How many free values were supplied (the model's own field). -/
  freeCtr : Nat
  /-- The 256 sync counters (R111). -/
  sync : Tbl Nat
  /-- Launched actions by number, and the next number. -/
  acts : Tbl (Option Act)
  nextAct : Nat
  /-- Completions due and not yet written, oldest first (R326, R328). -/
  owed : List Compl
  sq : Tbl SqSt
  cq : Tbl CqSt
  time : TimeSt
  /-- Tiles: the queue of each, the task running on each, the held block of each, and whether the hold is from the task
  before the one at the head (R110, R112). -/
  tileQ : Tbl (List TaskRef)
  tileRun : Tbl (Option RunTask)
  tileHeld : Tbl (Option HeldBlock)
  /-- The programs: tile t at t, core c at 256 + c (R155, R181). -/
  progs : Tbl (Option Prog)
  /-- Monitor sets (chapter 06): history entries 8 to 15, as two words by 2 × set + word − 2; and the elements and SAT
  events each set counted since the last stitch completion (R167). -/
  monHi : Tbl W64
  monNow : Tbl (Nat × Nat)
  /-- Cores and engines: the queue of each, the share each runs (cores at 256 + c, engines at e), and the batches. -/
  coreQ : Tbl (List CoreEnt)
  engQ : Tbl (List (Nat × Bool))
  shares : Tbl (Option Share)
  batches : Tbl (Option Batch)
  nextBatch : Nat
  /-- The words that the generator port's running draw will write to BOB_GEN_OUT (R226). -/
  genWords : List W32
  /-- The check cache (R251), by controller × 128 + set: check sectors, most recently used first, with their dirty bits. -/
  chkCache : Tbl (List (Nat × Bool))
  /-- What each controller tracks (R259): up to 1,024 pages with their last three corrections; the times of the last
  three corrections of each pin, by controller × 64 + 16 × channel + pin; and the pin decoded as erasures, by controller
  × 4 + channel. -/
  pageTrack : Tbl (List (Nat × List CorrAt))
  pinTrack : Tbl (List Nat)
  erasedPin : Tbl (Option Nat)
  /-- Pages whose retirement is due, and those being copied with their slots (R260). -/
  retireDue : List Nat
  retiring : List (Nat × Nat)
  /-- Requests that wait for a retirement or for the host, in the order of acceptance (R252, R260, R322). -/
  memHeld : List MemReq
  /-- Groups scrubbed so far, by controller × 4 + channel (R257); the MR4 refresh rate of each controller (R256). -/
  scrubPos : Tbl Nat
  refRate : Tbl Nat
  /-- The bank that a refresh of a channel has freed last, as 16 × rank + bank, by controller × 4 + channel (R256, R257). -/
  refreshed : Tbl (Option Nat)
  /-- The lines the host holds, oldest grant first: line number, and whether it is held modified or exclusive; and the
  back-invalidates sent and not answered, with whether each asks for invalidation (R322; what was sent is the model's
  own field `bisnpOut`). -/
  hostLines : List (Nat × Bool)
  bisnps : List (Nat × Bool)
  bisnpOut : List (Nat × Bool)
  /-- Lines of host memory whose read by the package the host completes with an error (R320). -/
  hostErrs : List Nat
  /-- The bytes the last read of memory returned, and whether they were poison (the model's own fields). -/
  dataOut : List Byte
  dataPoison : Bool
  /-- The key whose arriving flits are dropped after a quench or a poison kill (R278, R372). -/
  dropKey : Option Nat
  /-- Messages the package has sent, oldest first (the model's own field). -/
  out : List OutMsg
  /-- Requests on VC1 and VC6 not yet acknowledged, per destination node (R283). -/
  outst : Tbl Nat
  /-- Flows by destination × 8 + VC, and requests without acknowledgement. -/
  flows : Tbl FlowTx
  reqs : List OutReq
  /-- Requests that wait for their flow's limits (R280), the nodes each issuer has written since its requests there were last
  all acknowledged (R283), and what units' accesses wait for. -/
  reqQ : List ReqWait
  wroteTo : List (Req × Nat)
  accesses : List Access
  /-- The next tag given to a destination (R282). -/
  nextTag : Tbl Nat
  /-- Received flows by source × 8 + VC, and the reply cache by source (R280, R282). -/
  rxFlows : Tbl FlowRx
  replies : Tbl (List Reply)
  chunksRx : List ChunkRx
  chunksTx : List ChunkTx
  /-- The chunks of `chunksTx` that wait until their flow may have one more unacknowledged (R280). -/
  chunkQ : List ChunkTx
  replHeld : List HeldStore
  /-- Times of the last three events of each lane, by port × 18 + direction × 9 + lane (R266); lasting lanes. -/
  laneEv : Tbl (List Nat)
  laneLast : Tbl Bool
  /-- The rotation that is due in a direction of a port, by port × 2 + direction: the logical lane and the LSEQ of the flit at
  which it takes place (R267). -/
  rotate : Tbl (Option (Nat × Nat))
  /-- Links by port: the next LSEQ to send, the next expected, the retry buffer, the LSEQ of the last NACK with its
  failed retries in a row, the flits sent on each VC whose buffers are not yet freed, by port × 8 + VC (R271, R272), and how
  each port chooses its next flit (R273). -/
  linkTx : Tbl Nat
  linkRx : Tbl Nat
  linkBuf : Tbl (List (Nat × Flit))
  linkFail : Tbl (Nat × Nat)
  unfreed : Tbl Nat
  arb : Tbl Arb
  /-- Flits that wait for a credit at each port, and those that wait for a drain by destination × 8 + VC; the buffers
  freed at a port since the last credit return, by port × 8 + VC (R272, R273, R275). -/
  portQ : Tbl (List Flit)
  drainQ : Tbl (List Flit)
  freed : Tbl Nat
  /-- The queue of each channel and the collective it runs (R291). -/
  colQ : Tbl (List CollRef)
  colRun : Tbl (Option CollRun)
  /-- The member and backup lists that each valid group was accepted with (R290), and the groups whose VALID is to be
  cleared. -/
  colLists : Tbl (List Nat × List Nat)
  colClear : List Nat
  colRx : List CollChunk
  colTx : List CollTx
  colCredits : List CollCredit
  /-- HELLOs (source, group, sequence number, signature) and ABORTs (group, sequence number, status) that came before
  their collective started, the tags that were substituted here, the tags whose TAKE came early, and the SUBSTs that came early
  to a backup (group, sequence number, node, step); and the relay slots (R314). -/
  hellos : List (Nat × Nat × Nat × W64)
  aborts : List (Nat × Nat × Nat)
  substGone : List (Nat × Nat)
  takes : List (Nat × Nat)
  substAsks : List (Nat × Nat × Nat × Nat)
  relays : List RelaySlot
  /-- DMAs by number, and the next number. -/
  dmas : Tbl (Option Dma)
  nextDma : Nat
  /-- The mailbox (R342): the return code and output of the last command, the event records of each CXL event log with
  their handles, and the timestamp with the fabric time at which it was set. -/
  mboxRet : Nat
  mboxOut : MboxOut
  mboxEvents : Tbl (List (Nat × List Byte))
  mboxTime : Option (W64 × Nat)
  /-- The CXL link (R319): trained, its width and rate, and whether it negotiated CXL. -/
  linkUp : Bool
  linkWidth : Nat
  linkRate : Nat
  linkCxl : Bool
  /-- The captures that wait, and the one that runs. -/
  ckpQ : List CkpRef
  ckpRun : Option Capture
  pktTx : List PktTx
  pktRx : List PktMsg
  /-- The last summary of each node, and the GEN it last announced COMMITTED, plus 1. -/
  summaries : Tbl (List Byte)
  announced : Tbl Nat
  /-- Slots that count as committed by all, and the slot last restored where it is the newest (R354, R360). -/
  ckpAll : List Nat
  ckpNewest : Option Nat
  restore : Option Restore
  xfer : Option PktXfer
  /-- The unit map (R373): the state of each physical unit (0 FAILED, 1 ENABLED, 2 SPARE), by `physKey`, and the physical
  index that carries each logical unit, by `unitKey`. -/
  unitMap : Tbl Nat
  physMap : Tbl Nat
  /-- The times of the last three fault events of each resource, and the resources that are lasting (R373). -/
  faultLog : Tbl (List Nat)
  lastingRes : Tbl Bool
  /-- Logical units parked by a test (R375), and the test in progress. -/
  parked : Tbl Bool
  test : Option TestSt
  /-- Corrected words of each seam in the present 1 ms interval (R373). -/
  seamNow : Tbl Nat
  /-- Fuses (R382): KEY_HASH[0–3], each the SHA-256 of a signing key as a little-endian number; SERIAL; KEY_REVOKE; the
  number of blown SVN and LIFECYCLE bits. Which keys and serial a package has, the configuration says. -/
  fuseKeyHash : List (BitVec 256)
  fuseSerial : W64
  fuseRevoke : BitVec 4
  fuseSvn : Nat
  fuseLifecycle : Nat
  /-- The flash (R385), erased where nothing is listed; and the staging buffer with how much of it was written (R390). -/
  flash : Tbl Byte
  staging : Tbl Byte
  /-- The boot found its record and its image valid: their lengths with header (R387). -/
  recordLen : Nat
  imageLen : Nat
  /-- The firmware runs: it was started at FW_TRAIN (R387). -/
  fwRuns : Bool
  /-- Debug tokens refused since the last reset of the hub (R396). -/
  dbgRefusals : Nat
  /-- SPDM sessions with the next number, and the last answer (the model's own field). -/
  sessions : List SpdmSession
  nextSession : Nat
  spdmOut : SpdmRsp
  /-- IDE streams by 2 × (CXL.cachemem) + direction, and whether the last key command was taken (the model's own field). -/
  ide : Tbl IdeDir
  ideOut : Bool
  /-- The streams, by whether each is that of CXL.cachemem, that were taken from secure to insecure and are not keyed again: what the
  package sends on them completes with an error (R395). -/
  ideBad : List Bool
  /-- The hub's reset has been released (R407). -/
  hubUp : Bool
  /-- A reference was found bad at the last check (R406). -/
  refBad : Bool
  /-- The package restarts only once PWR_GOOD has been deasserted, or the input removed (R408). -/
  powerHold : Bool
  /-- Domains wait to be switched on until the input has been above 44.0 V for 1 ms (R407). -/
  upWaits : Bool
  /-- The fixed resources that a reset test asked for will find failing, at stage FW_TRAIN (R418). -/
  bistDue : Option (BitVec 29)
  /-- Fabric time that passed before the last reset of the hub, which the controllers' tracking times count on from
  (R417). -/
  memEpoch : Nat
  /-- Physical units marked FAILED in the field, by `physKey` (R378, Table 17-5). -/
  failedMarks : List Nat
  /-- The SW level of each logical unit, by 256 × kind + unit; 8 where nothing is listed (R411, PWR_SWLVL). -/
  swLevel : Tbl Nat
  /-- The I3C port (R430): the straps I3C_ADDR[1:0], the dynamic address, and the last offset written; the in-band
  interrupts raised, each with its payload (what was raised is the model's own field). -/
  i3cStrap : BitVec 2
  i3cDyn : Option (BitVec 7)
  i3cOff : W32
  ibiOut : List (Byte × Option Byte)
  /-- The instruction in the TAP. -/
  jtag : JtagInstr
  /-- The commands waiting, first in, first out. -/
  pending : List Instr
  deriving DecidableEq, Repr

/-- The state right after reset. -/
def State.reset : State where
  grade := .lcv8
  regs := []
  held := []
  latched := []
  mem := []
  poison := []
  busOut := 0
  busPoison := false
  msixOut := []
  freeCtr := 0
  sync := []
  acts := []
  nextAct := 0
  owed := []
  sq := []
  cq := []
  time := TimeSt.init
  tileQ := []
  tileRun := []
  tileHeld := []
  progs := []
  monHi := []
  monNow := []
  coreQ := []
  engQ := []
  shares := []
  batches := []
  nextBatch := 0
  genWords := []
  chkCache := []
  pageTrack := []
  pinTrack := []
  erasedPin := []
  retireDue := []
  retiring := []
  memHeld := []
  scrubPos := []
  refRate := []
  refreshed := []
  hostLines := []
  bisnps := []
  bisnpOut := []
  hostErrs := []
  dataOut := []
  dataPoison := false
  dropKey := none
  out := []
  outst := []
  flows := []
  reqs := []
  reqQ := []
  wroteTo := []
  accesses := []
  nextTag := []
  rxFlows := []
  replies := []
  chunksRx := []
  chunksTx := []
  chunkQ := []
  replHeld := []
  laneEv := []
  laneLast := []
  rotate := []
  linkTx := []
  linkRx := []
  linkBuf := []
  linkFail := []
  unfreed := []
  arb := []
  portQ := []
  drainQ := []
  freed := []
  colQ := []
  colRun := []
  colLists := []
  colClear := []
  colRx := []
  colTx := []
  colCredits := []
  hellos := []
  aborts := []
  substGone := []
  takes := []
  substAsks := []
  relays := []
  dmas := []
  nextDma := 0
  mboxRet := 0
  mboxOut := .none
  mboxEvents := []
  mboxTime := none
  linkUp := false
  linkWidth := 0
  linkRate := 0
  linkCxl := false
  ckpQ := []
  ckpRun := none
  pktTx := []
  pktRx := []
  summaries := []
  announced := []
  ckpAll := []
  ckpNewest := none
  restore := none
  xfer := none
  seamNow := []
  unitMap := []
  physMap := []
  faultLog := []
  lastingRes := []
  parked := []
  test := none
  fuseKeyHash := (List.range 4).map Config.keyHash
  fuseSerial := Config.serial
  fuseRevoke := 0
  fuseSvn := 0
  fuseLifecycle := 1
  flash := []
  staging := []
  recordLen := 0
  imageLen := 0
  fwRuns := false
  dbgRefusals := 0
  sessions := []
  nextSession := 0
  spdmOut := .none
  ide := []
  ideOut := false
  ideBad := []
  hubUp := false
  refBad := false
  powerHold := false
  upWaits := false
  bistDue := none
  memEpoch := 0
  failedMarks := []
  swLevel := []
  i3cStrap := 0
  i3cDyn := none
  i3cOff := 0
  ibiOut := []
  jtag := .idcode
  pending := []

end Sys2Proof.Machine
end

