-- ==== Sys2Proof/Machine/Ops.lean ====
section
/-! DEFINITION. The named operations over registers, memory, events, completions and sync counters that every command
uses. -/
namespace Sys2Proof.Machine

/-! ## Registers -/

/-- The stored value of the register at `off`. -/
def State.reg (s : State) (off : Nat) : W64 := Tbl.get (regReset off) s.regs off

/-- Store `v` in the register at `off`. -/
def State.setReg (s : State) (off : Nat) (v : W64) : State :=
  { s with regs := Tbl.set (regReset off) s.regs off v }

/-- The field of `len` bits at `lo` of the register at `off`. -/
def State.regF (s : State) (off lo len : Nat) : Nat := fld (s.reg off) lo len

/-- Bit `i` of the register at `off`. -/
def State.regB (s : State) (off i : Nat) : Bool := s.regF off i 1 == 1

/-- Store `x` in the field of `len` bits at `lo` of the register at `off`. -/
def State.setRegF (s : State) (off lo len x : Nat) : State := s.setReg off (setFld (s.reg off) lo len x)

/-- Set bit `i` of the register at `off` to `b`. -/
def State.setRegB (s : State) (off i : Nat) (b : Bool) : State := s.setRegF off i 1 (bnat b)

/-- Add `k` to the saturating 64-bit counter at `off` (R344 and the other register chapters). -/
def State.count64 (s : State) (off k : Nat) : State :=
  s.setReg off (BitVec.ofNat 64 (satAdd 64 (s.reg off).toNat k))

/-- Add `k` to the saturating 32-bit counter at `off`. -/
def State.count32 (s : State) (off k : Nat) : State :=
  s.setReg off (BitVec.ofNat 64 (satAdd 32 (s.reg off).toNat k))

/-- Is the lock bit of the RWL fields of the register at `off` set (R10)? -/
def State.lockedReg (s : State) (off : Nat) : Bool :=
  if off = Reg.bobSeed then s.regB Reg.bobCtrl 0
  else if off = Reg.fabNode ∨ off = Reg.fabFmNodes then s.regB Reg.fabCfg 31
  else s.regB off 31

/-- What a write of `new` leaves in a register of row `r` that holds `old`: RW and unlocked RWL fields take the written
bits, a 1 clears a W1C bit and sets a W1S bit, and every other bit stays (R10, R11). -/
def RegRow.written (r : RegRow) (locked : Bool) (old new : W64) : W64 :=
  let rw : W64 := BitVec.ofNat 64 (r.rw ||| (if locked then 0 else r.rwl))
  (((old &&& ~~~rw) ||| (new &&& rw)) &&& ~~~(new &&& BitVec.ofNat 64 r.w1c)) ||| (new &&& BitVec.ofNat 64 r.w1s)

/-- A write to the register at `off`, its own offset, by the field types alone (R10). -/
def State.plainWrite (s : State) (off : Nat) (new : W64) : State :=
  match findReg off with
  | none => s
  | some (r, o) => s.setReg o (r.written (decide (r.rwl ≠ 0) && s.lockedReg o) (s.reg o) new)

/-! ## Reaching BAR0 (R13, R319, R391) -/

/-- The doorbell pages (R324). -/
abbrev dblBase : Nat := 0x5000000

/-- Does a host access reach the block at `off`? In stage RECOVERY only the HUB and SEC blocks are reached (R391), and on
a link that trained without CXL only the HUB block (R319). -/
def State.reaches (s : State) (off : Nat) : Bool :=
  decide (off < 0x400000) || ((!s.linkUp || s.linkCxl) &&
    (decide (0x800000 ≤ off ∧ off < 0xC00000) || s.regF Reg.secStatus 0 4 != 14))

/-- A host write to the block at `off`, ignored where it does not reach it. -/
def State.bar (s : State) (off : Nat) (f : State → State) : State := if s.reaches off then f s else s

/-- The held low word of the pair at `off` (R13). -/
def State.heldAt (s : State) (off : Nat) : Option W32 := Tbl.get none s.held off
def State.holdWord (s : State) (off : Nat) (w : Option W32) : State := { s with held := Tbl.set none s.held off w }

/-- A 64-bit host write to the pair at `off`, which also empties its held low word (R13). -/
def State.bar64 (s : State) (off : Nat) (f : State → State) : State := s.bar off fun s => (f s).holdWord off none

/-! ## Free values -/

/-- The state after one free value was supplied; the value is `Config.freeWord s.freeCtr`. -/
def State.takeFree (s : State) : State := { s with freeCtr := s.freeCtr + 1 }

/-! ## Time and place -/

/-- Fabric time, in 1/64 ns: the accumulator's bits [81:18] (R31). -/
def State.ft (s : State) : Nat := s.time.acc.toNat / 2 ^ 18

/-- The stitch counter (R35). -/
def State.stitch (s : State) : W64 := s.reg Reg.timStitch

/-- The pleat, 0xFF outside a pleat. -/
def State.pleatNow (s : State) : Nat := if s.time.inPleat then s.regF Reg.timStatus 4 6 else 0xFF

/-- The package's node number (R264). -/
def State.node (s : State) : Nat := s.regF Reg.fabNode 0 16

/-- A job is running: TIM_CTRL.RUN. -/
def State.running (s : State) : Bool := s.regB Reg.timCtrl 0

/-! ## The device address map (R22, R23, Table 1-4) -/

/-- U: the usable memory of the grade. -/
def usable : Grade → Nat
  | .lcv8 => 0x01C700000000
  | .lcv4 => 0x008E00000000

/-- Logical tiles, cores and engines, and memory packages, of the grade (R3, R20). -/
def numTiles : Grade → Nat
  | .lcv8 => 256
  | .lcv4 => 64
def numCores : Grade → Nat
  | .lcv8 => 256
  | .lcv4 => 128
def numEngines : Grade → Nat
  | .lcv8 => 32
  | .lcv4 => 16
def numPkgs : Grade → Nat
  | .lcv8 => 64
  | .lcv4 => 20

/-- P: the pocket reservation, MEM_CFG.POCKET in steps of 64 GiB, values above 8 acting as 8. -/
def State.pocketSize (s : State) : Nat := min 8 (s.regF Reg.memCfg 3 4) * 0x1000000000

/-- The first device address of the pocket region. -/
def State.pocketBase (s : State) : Nat := usable s.grade - s.pocketSize

/-- The regions of the device address map. -/
inductive Region where
  | working
  | pocket
  | cache (t : Nat)
  | coreStore (c : Nat)
  | engineStore (e : Nat)
  | collBuf
  | host
  | reserved
  deriving DecidableEq, Repr

/-- The region of device physical address `a`. Closed working memory is reserved (R247), and so is the SRAM window of a
unit the grade lacks (R23). -/
def State.region (s : State) (a : Nat) : Region :=
  if a < usable s.grade then
    if s.regB Reg.memStatus 3 = false then .reserved
    else if a < s.pocketBase then .working else .pocket
  else if a < 0x01F000000000 then .reserved
  else if a < 0x01F020000000 then
    let t := (a - 0x01F000000000) / 0x200000
    if t < numTiles s.grade then .cache t else .reserved
  else if a < 0x01F028000000 then
    let c := (a - 0x01F020000000) / 0x80000
    if c < numCores s.grade then .coreStore c else .reserved
  else if a < 0x01F028800000 then
    let e := (a - 0x01F028000000) / 0x40000
    if e < numEngines s.grade then .engineStore e else .reserved
  else if a < 0x01F030000000 then .reserved
  else if a < 0x01F034000000 then .collBuf
  else if a < 0x800000000000 then .reserved
  else if a < 0x1000000000000 then .host
  else .reserved

/-- May a unit other than the pocket engine load from and store to address `a` (R23)? -/
def State.accessible (s : State) (a : Nat) : Bool :=
  match s.region a with
  | .reserved => false
  | .pocket => false
  | _ => true

/-- May the pocket engine load from and store to address `a` (R23)? -/
def State.pocketAccessible (s : State) (a : Nat) : Bool :=
  match s.region a with
  | .reserved => false
  | _ => true

/-- The granule numbers that the `n` bytes at `a` touch. -/
def granules (a n : Nat) : List Nat := if n = 0 then [] else upFrom (a / 32) ((a + n - 1) / 32 - a / 32 + 1)

/-- The first address of the `n` bytes at `a`, counted by granules, that an access by `ok` is refused at. -/
def firstRefused (ok : Nat → Bool) (a n : Nat) : Option Nat :=
  ((granules a n).map fun g => max a (32 * g)).find? fun x => !ok x

/-! ## Memory -/

/-- The byte at device address `a`. -/
def State.byte (s : State) (a : Nat) : Byte := Tbl.get 0 s.mem a

/-- The `n` bytes from device address `a` on. -/
def State.bytes (s : State) (a n : Nat) : List Byte := (List.range n).map fun k => s.byte (a + k)

/-- The little-endian number of `n` bytes at device address `a` (R9). -/
def State.num (s : State) (a n : Nat) : Nat := bytesNat (s.bytes a n)

/-- Is granule `g` poisoned? -/
def State.poisoned (s : State) (g : Nat) : Bool := Tbl.get false s.poison g

/-- Do the `n` bytes at `a` touch a poisoned granule? -/
def State.poisonIn (s : State) (a n : Nat) : Bool := (granules a n).any s.poisoned

/-- Write bytes from address `a` on, but those `skip` names. -/
def writeBytes (skip : Nat → Bool) : Tbl Byte → Nat → List Byte → Tbl Byte
  | m, _, [] => m
  | m, a, b :: bs => writeBytes skip (if skip a then m else Tbl.set 0 m a b) (a + 1) bs

/-- Does a store of `n` bytes at `a` cover granule `g` only in part? -/
def partly (a n g : Nat) : Bool := !(decide (a ≤ 32 * g) && decide (32 * g + 32 ≤ a + n))

/-- Set the poison of every granule of a list. -/
def setPoison (v : Bool) : Tbl Bool → List Nat → Tbl Bool
  | p, [] => p
  | p, g :: gs => setPoison v (Tbl.set false p g v) gs

/-- Store clean bytes at `a` (R255, R368): a granule covered whole loses its poison; a poisoned granule covered in part
keeps its poison and the bytes written to it are lost. -/
def State.storeBytes (s : State) (a : Nat) (bs : List Byte) : State :=
  { s with
    mem := writeBytes (fun x => partly a bs.length (x / 32) && s.poisoned (x / 32)) s.mem a bs
    poison := setPoison false s.poison ((granules a bs.length).filter fun g => !partly a bs.length g) }

/-- Mark every granule that the `n` bytes at `a` touch as poison (R371). -/
def State.poisonBytes (s : State) (a n : Nat) : State := { s with poison := setPoison true s.poison (granules a n) }

/-- The granules of a store in part that meet poison, lowest first: the POISON_MERGE cases (R255, R368). -/
def State.merges (s : State) (a n : Nat) : List Nat :=
  (granules a n).filter fun g => partly a n g && s.poisoned g

/-- Store a number of `n` bytes, little-endian, at `a`. -/
def State.storeNum (s : State) (a n v : Nat) : State := s.storeBytes a (natBytes n v)

/-! ## MSI-X, events and the event log (R341, R343) -/

/-- Raise MSI-X vector `v`: a masked entry pends, another sends its message (R341; the PCIe MSI-X structure). -/
def State.raiseVector (s : State) (v : Nat) : State :=
  if s.regB (Reg.msix3 v) 0 then s.setRegB (Reg.msixPba (v / 64)) (v % 64) true
  else { s with msixOut := s.msixOut ++
    [(s.reg (Reg.msix0 v) + (s.reg (Reg.msix1 v) <<< 32), (s.reg (Reg.msix2 v)).truncate 32)] }

/-- The number of records of the event log, 2^E. -/
def State.evlogSize (s : State) : Nat :=
  let e := s.regF Reg.hubEvlogCfg 1 5
  2 ^ (if 6 ≤ e ∧ e ≤ 20 then e else 6)

/-- The 32 bytes of an event record (R343). The unit or detail of an event whose chapter names none is a free value
(log entry 34). -/
def State.record (s : State) (blk bit : Nat) (unit detail : Option Nat) : List Byte :=
  let n := (s.reg Reg.hubEvlogWp).toNat
  natBytes 8 s.ft ++ natBytes 8 s.stitch.toNat ++ natBytes 1 s.pleatNow ++ natBytes 1 blk ++ natBytes 1 bit ++
    natBytes 1 0 ++ natBytes 4 (unit.getD (Config.recordUnit n).toNat) ++
    natBytes 8 (detail.getD (Config.recordDetail n).toNat)

/-- The in-band interrupt of an enabled power event, with its payload PWR_EVENT[7:0] (R430). -/
def State.powerIbi (s : State) : State :=
  { s with ibiOut := s.ibiOut ++ [(0x10, some (BitVec.ofNat 8 (s.regF Reg.pwrEvent 0 8)))] }

/-- Set an event bit of an event register whose enable register follows it, and raise the block's vector where its bit
is enabled (R341); a power event that becomes set also raises an in-band interrupt of the I3C port (R430). -/
def State.setEvent (s : State) (blk evOff bit : Nat) : State :=
  let was := s.regB evOff bit
  let s := s.setRegB evOff bit true
  let s := if blk = 3 ∧ was = false ∧ s.regB Reg.pwrEventEn bit then s.powerIbi else s
  if s.regB (evOff + 4) bit then s.raiseVector (s.regF (Reg.hubEvVec blk) 0 11) else s

/-- Does what the package sends to the host for address `a` complete with an error, because the stream of CXL.cachemem has failed
and is not keyed again (R395)? -/
def State.streamFails (s : State) (a : Nat) : Bool := s.region a == .host && s.ideBad.contains true

/-- Does a read by the package of the `n` bytes at `a` of host memory complete with an error (R320)? -/
def State.readFails (s : State) (a n : Nat) : Bool :=
  s.streamFails a || (s.region a == .host && (granules a n).any fun g => s.hostErrs.contains (g / 2))

/-- Write one record at slot WP mod 2^E of the event log and advance WP (R343). A base the package may not store to
or a stream of CXL.cachemem that is not keyed again loses the record. -/
def State.putLogRecord (s : State) (blk bit : Nat) (unit detail : Option Nat) : State :=
  let wp := (s.reg Reg.hubEvlogWp).toNat
  let a := (s.reg Reg.hubEvlogBase).toNat / 32 * 32 + 32 * (wp % s.evlogSize)
  (if s.accessible a && !s.streamFails a then s.storeBytes a (s.record blk bit unit detail) else s).setReg Reg.hubEvlogWp
    (BitVec.ofNat 64 (wp + 1))

/-- The record of an event (R343). One that overwrites a record the host has not read is the event EVLOG_WRAP, whose own
record overwrites another in its turn: it counts, and EVLOG_WRAP is set already (log entry 35). -/
def State.logRecord (s : State) (blk bit : Nat) (unit detail : Option Nat) : State :=
  if s.regB Reg.hubEvlogCfg 0 = false then s
  else if s.evlogSize ≤ (s.reg Reg.hubEvlogWp).toNat - (s.reg Reg.hubEvlogRp).toNat then
    ((((s.putLogRecord blk bit unit detail).count64 Reg.hubEvlogLost 1).setEvent 0 Reg.hubEvent 5).putLogRecord 0 5 none
      none).count64 Reg.hubEvlogLost 1
  else s.putLogRecord blk bit unit detail

/-- A record of something that has no event bit of its own: its byte 18 is a free value (log entry 8). -/
def State.logPlain (s : State) (blk : Nat) (unit detail : Option Nat) : State :=
  s.logRecord blk (Config.recordBit (s.reg Reg.hubEvlogWp).toNat).toNat unit detail

/-- An event of a block: its bit is set, its vector raised where enabled, and a record written (R343). -/
def State.event (s : State) (blk evOff bit : Nat) (unit detail : Option Nat) : State :=
  (s.setEvent blk evOff bit).logRecord blk bit unit detail

/-- HOST_ERR of an access at `a` (R320). -/
def State.hostError (s : State) (a : Nat) : State := s.event 0 Reg.hubEvent 4 none a

/-- The issuer of what DMA number `id` does: the HUB block, whose DMAs the model tells apart by their numbers. -/
def dmaReq (id : Nat) : Req := ⟨256, id⟩

/-- The unit number of an issuer in HUB_ADDR_UNIT: 0 for a DMA of the hub. -/
def reqNumber (r : Req) : Nat := if r.blk < 256 then r.unit % 65536 else 0

/-- The address event of R23: the offending address and the issuing unit. -/
def State.addressEvent (s : State) (r : Req) (a : Nat) : State :=
  ((s.setReg Reg.hubAddrErr (BitVec.ofNat 64 a)).setReg Reg.hubAddrUnit
    (BitVec.ofNat 64 (reqNumber r + r.blk % 256 * 65536))).event 0 Reg.hubEvent 1 (some (reqNumber r)) a

/-- The home controller of device address `a` of working memory or the pocket region (R249). -/
def homePkg (g : Grade) (a : Nat) : Nat :=
  let p := numPkgs g
  let pg := a / 4096
  let q := pg / p
  let h := (q ^^^ (q / 2 ^ 7) ^^^ (q / 2 ^ 14) ^^^ (q / 2 ^ 21)) % 128
  (pg % p + h) % p

/-- POISON_MERGE at granule `g`: in MEM_EVENT with the address in MEM_C_LAST_ERR for memory, in REL_EVENT for SRAM
(R255, R368). Host memory keeps its poison to itself. -/
def State.mergeEvent (s : State) (g : Nat) : State :=
  match s.region (32 * g) with
  | .working | .pocket =>
    let n := homePkg s.grade (32 * g)
    (s.setReg (Reg.memCLastErr n) (BitVec.ofNat 64 (32 * g))).event 4 Reg.memEvent 1 n (some (32 * g))
  | .host => s
  | _ => s.event 0 Reg.relEvent 9 none (some (32 * g))

/-- Bytes read from (HUB counter 4) or written to (counter 5) host memory by the package (Table 13-7). -/
def State.hostBytes (s : State) (k a n : Nat) : State :=
  if s.region a = .host then s.count64 (Reg.hubCnt k) n else s

/-! ## Lines that are not the package's to use now (R252, R260, R322) -/

/-- The address of a request. -/
def MemReq.addr : MemReq → Nat
  | .read a _ _ _ => a
  | .write a _ _ _ _ => a
  | .part a _ _ _ _ _ _ => a
  | .atomic a _ _ _ _ => a
  | .own a _ _ _ => a
  | .hostRead a _ => a
  | .hostWrite a _ _ => a

/-- Must an access by a unit to the line of address `a` wait: the host holds the line (for a read: holds it modified or
exclusive), its page is being copied to a spare slot, or an earlier request to its group waits (R26, R252, R260, R322)? -/
def State.lineBusy (s : State) (a : Nat) (write : Bool) : Bool :=
  (s.hostLines.any fun e => e.1 == a / 64 && (write || e.2)) || (s.retiring.any fun e => e.1 == a / 4096) ||
    s.memHeld.any fun h => h.addr / 256 == a / 256

/-- Must an access by a unit to any of the `n` bytes at `a` wait? -/
def State.rangeBusy (s : State) (a n : Nat) (write : Bool) : Bool :=
  (granules a n).any fun g => s.lineBusy (32 * g) write

/-- Ask the host to give a line up (BISnpInv), or to keep it shared only (BISnpData), where it holds it so and was not asked
already (R322). -/
def State.askBack (s : State) (line : Nat) (inv : Bool) : State :=
  if (s.hostLines.any fun e => e.1 == line && (inv || e.2)) && !(s.bisnps.any fun e => e.1 == line) then
    { s with bisnps := s.bisnps ++ [(line, inv)], bisnpOut := s.bisnpOut ++ [(line, inv)] }.count64 (Reg.hubCnt 3) 1
  else s

/-- Ask the host for every line that an access by a unit to the `n` bytes at `a` must wait for. -/
def State.askRange (s : State) (a n : Nat) (write : Bool) : State :=
  (granules a n).foldl (fun s g => s.askBack (32 * g / 64) write) s

/-- A store by a unit of clean bytes, performed: each poisoned granule covered in part is a POISON_MERGE. -/
def State.storeNow (s : State) (a : Nat) (bs : List Byte) : State :=
  (s.merges a bs.length).foldl State.mergeEvent ((s.storeBytes a bs).hostBytes 5 a bs.length)

/-- The host sees poison by lines of 64 bytes (R320): the granules whose poison a store of poison to `a` sets. -/
def State.poisonSpan (s : State) (a n : Nat) : Nat × Nat :=
  if s.region a = .host then (a / 64 * 64, (a + n + 63) / 64 * 64 - a / 64 * 64) else (a, n)

/-- A store by a unit of poisoned data, performed: every granule it touches becomes poison (R371). -/
def State.poisonNow (s : State) (a n : Nat) : State :=
  (s.poisonBytes (s.poisonSpan a n).1 (s.poisonSpan a n).2).hostBytes 5 a n

/-- The part of the `n` bytes at `a` that lies in granule `g`: its address, its offset in the bytes, its length. -/
def partIn (a n g : Nat) : Nat × Nat × Nat :=
  (max a (32 * g), max a (32 * g) - a, min (a + n) (32 * g + 32) - max a (32 * g))

/-- A store of a unit in part: what meets a line that is not free waits for it, in order, and the host is asked; the rest
is performed. -/
def State.storeParts (s : State) (r : Req) (a : Nat) (bs : List Byte) (poison : Bool) : State :=
  (granules a bs.length).foldl (fun s g =>
    let p := partIn a bs.length g
    let d := (bs.drop p.2.1).take p.2.2
    if s.lineBusy (32 * g) true then
      { s with memHeld := s.memHeld ++ [MemReq.own p.1 d poison r] }.askBack (p.1 / 64) true
    else if poison then s.poisonNow p.1 p.2.2 else s.storeNow p.1 d) s

/-- A store by a unit of clean bytes at a device address: performed where the whole range is accessible, and otherwise
discarded with one address event (R23). -/
def State.store (s : State) (r : Req) (a : Nat) (bs : List Byte) : State :=
  match firstRefused s.accessible a bs.length with
  | some x => s.addressEvent r x
  | none =>
    if s.streamFails a then s.hostError a
    else if s.rangeBusy a bs.length true then s.storeParts r a bs false else s.storeNow a bs

/-- A store by a unit of poisoned data at a device address. -/
def State.storePoison (s : State) (r : Req) (a n : Nat) : State :=
  match firstRefused s.accessible a n with
  | some x => s.addressEvent r x
  | none =>
    if s.streamFails a then s.hostError a
    else if s.rangeBusy a n true then s.storeParts r a (List.replicate n 0) true else s.poisonNow a n

/-- The issuers of the stores that are held: at their controller, or because their page is replicated (R286). -/
def State.heldReqs (s : State) : List Req :=
  (s.memHeld.filterMap fun h => match h with
    | .own _ _ _ q => some q
    | _ => none) ++ s.replHeld.map fun h => h.req

/-- Is a store that unit `r` issued held? -/
def State.holdsFor (s : State) (r : Req) : Bool := s.heldReqs.contains r

/-- What a load by a unit from a device address returns: the bytes, and whether they are poison; a refused load returns
poison (R23). -/
def State.load (s : State) (a n : Nat) : List Byte × Bool :=
  match firstRefused s.accessible a n with
  | some _ => (List.replicate n 0, true)
  | none => (s.bytes a n, s.poisonIn a n || s.readFails a n)

/-- The address event of a load, where it is refused, and HOST_ERR of one on a stream that has failed; a line whose read the host
completed with an error is read anew by the next load. -/
def State.loadEvent (s : State) (r : Req) (a n : Nat) : State :=
  match firstRefused s.accessible a n with
  | some x => s.addressEvent r x
  | none =>
    let s1 := s.hostBytes 4 a n
    if s.readFails a n = false then s1
    else
      let s2 := { s1 with hostErrs := s1.hostErrs.filter fun l => !(granules a n).any fun g => g / 2 == l }
      if s.streamFails a then s2.hostError a else s2

/-! ## Global fabric addresses (R24) -/

/-- Does a global fabric address refer to the issuing package? -/
def State.isLocal (s : State) (ga : Nat) : Bool :=
  let n := ga / 2 ^ 48 % 65536
  n == 0xFFFF || n == s.node

/-- The device address of a global fabric address. -/
def devAddr (ga : Nat) : Nat := ga % 2 ^ 48

/-! ## Sync counters (R111) -/

/-- Sync counter `i`. -/
def State.syncCtr (s : State) (i : Nat) : Nat := Tbl.get 0 s.sync i

/-- Increment sync counter `i`, saturating at 65,535. -/
def State.bumpSync (s : State) (i : Nat) : State :=
  { s with sync := Tbl.set 0 s.sync i (satAdd 16 (s.syncCtr i) 1) }

/-- The signal of a descriptor's SIGNAL_ID: 0xFF means none. -/
def State.signal (s : State) (id : Nat) : State := if id = 0xFF then s else s.bumpSync id

/-- Has a descriptor's counter reached its count? A WAIT_COUNT of 0 is no wait. -/
def State.waitMet (s : State) (id cnt : Nat) : Bool := cnt == 0 || decide (cnt ≤ s.syncCtr id)

/-! ## Actions and their completion (R45, R109, R328, R337) -/

/-- The state of completion ring `i` besides its registers. -/
def State.cqOf (s : State) (i : Nat) : CqSt := Tbl.get CqSt.init s.cq i
def State.setCq (s : State) (i : Nat) (c : CqSt) : State := { s with cq := Tbl.set CqSt.init s.cq i c }

/-- The state of submission ring `i` besides its registers. -/
def State.sqOf (s : State) (i : Nat) : SqSt := Tbl.get SqSt.init s.sq i
def State.setSq (s : State) (i : Nat) (c : SqSt) : State := { s with sq := Tbl.set SqSt.init s.sq i c }

/-- Launched action number `n`. -/
def State.actOf (s : State) (n : Nat) : Option Act := Tbl.get none s.acts n

/-- Completions that wait in the pending store: those of actions (R328), and those of a completion ring that a write error has
stopped (R340). -/
def State.pendStore (s : State) : Nat :=
  (s.owed.filter fun c => c.action || s.regF (Reg.cqStatus c.cring) 24 8 != 0).length

/-- PEND_FULL where the pending store has filled since state `old` (R328). -/
def State.pendFull (s old : State) (cring : Nat) : State :=
  if old.pendStore < 4096 ∧ 4096 ≤ s.pendStore then s.event 0 Reg.hubEvent 3 cring none else s

/-- A completion entry falls due. -/
def State.owe (s : State) (c : Compl) : State := { s with owed := s.owed ++ [c] }.pendFull s c.cring

/-- The completion an action owes once every descriptor it launched has completed (R109, Table 13-5). -/
def Act.completion (a : Act) : Compl :=
  let b := a.bad.getD (0, 0, 0)
  { cring := a.cring, status := b.2.1, action := a.table, sring := a.sring, sidx := a.sidx, stitch := a.stitch,
    pleat := a.pleat, failed := b.2.2, info := b.1, hold := a.typ == 8 && a.inPleat }

/-- The lower-indexed of two descriptors that are not OK (R109). -/
def lowerBad (old : Option (Nat × Nat × Nat)) (idx status failed : Nat) : Option (Nat × Nat × Nat) :=
  if status = 0 then old else
  match old with
  | some b => if b.1 ≤ idx then some b else some (idx, status, failed)
  | none => some (idx, status, failed)

/-- An action ends: it leaves the list of launched actions, and owes its completion entry. -/
def State.endAct (s : State) (n : Nat) (a : Act) : State :=
  let s1 := { s with acts := Tbl.set none s.acts n none,
                     time := { s.time with lastDone := if a.inPleat then s.ft else s.time.lastDone } }
  let s2 := if a.table then s1 else
    let q := s1.sqOf a.sring
    s1.setSq a.sring { q with live := q.live - 1 }
  if a.compl then s2.owe a.completion else s2

/-- Descriptor `idx` of action `n` completes with a status. -/
def State.descDone (s : State) (n idx status failed : Nat) : State :=
  match s.actOf n with
  | none => s
  | some a =>
    let a1 := { a with left := a.left - 1, bad := lowerBad a.bad idx status failed }
    if a1.left = 0 then s.endAct n a1 else { s with acts := Tbl.set none s.acts n (some a1) }

/-- Is any action of the present pleat running (R39)? One whose completion finds the pending store full, and a host
signal whose entry is not written, are not complete (R45, R328). -/
def State.pleatBusy (s : State) : Bool :=
  (s.acts.any fun p => match p.2 with
    | some a => a.inPleat
    | none => false) || (s.owed.any fun c => c.hold) || decide (4096 < s.pendStore)

/-- Is every store and atomic of the package performed: none held, and none at another node unacknowledged (R51, R283)? -/
def State.drained (s : State) : Bool := s.wroteTo.isEmpty && s.heldReqs.isEmpty

/-- Is an issuer a DMA that belongs to no pleat: one sent IMMEDIATE while a job runs (R330)? -/
def State.offPleat (s : State) (r : Req) : Bool :=
  r.blk == 256 && (match Tbl.get none s.dmas r.unit with
    | some d => match s.actOf d.act with
      | some a => !a.inPleat
      | none => false
    | none => false)

/-- Are the stores of the pleat's actions performed (R27, R39)? -/
def State.pleatDrained (s : State) : Bool :=
  (s.wroteTo.all fun p => s.offPleat p.1) && s.heldReqs.all s.offPleat

/-- Send a message. -/
def State.send (s : State) (m : OutMsg) : State := { s with out := s.out ++ [m] }

/-- Send a message over the fabric: nothing while FAB_NODE reads 0xFFFF (R264). -/
def State.sendFab (s : State) (m : OutMsg) : State := if s.node = 0xFFFF then s else s.send m

/-- A new action with `count` descriptors; its number is `s.nextAct`. -/
def State.newAct (s : State) (l : Launch) (inPleat : Bool) : State :=
  { s with
    nextAct := s.nextAct + 1
    acts := Tbl.set none s.acts s.nextAct (some
      { typ := l.typ, left := l.count, bad := none, compl := l.compl, cring := l.cring, table := l.table,
        sring := l.sring, sidx := l.sidx, stitch := s.stitch, pleat := if inPleat then s.pleatNow else 0xFF, inPleat := inPleat,
        deadline := l.deadline, signalled := false }) }

end Sys2Proof.Machine
end

