-- ==== Sys2Proof/Machine/Selvedge.lean ====
section
/-! DEFINITION. The selvedge code (R366 to R370) and CRC-64 (R205). -/
namespace Sys2Proof.Machine

/-! ## The field GF(2^8) of R366 -/

/-- Multiply by α = 0x02 modulo 0x11D. -/
def gdouble (a : Nat) : Nat := if a < 128 then 2 * a else (2 * a) ^^^ 0x11D

/-- Multiplication of field elements: `n` bits of `b` are still to be taken. -/
def gmulBits : Nat → Nat → Nat → Nat
  | 0, _, _ => 0
  | n + 1, a, b => (if b % 2 = 1 then a else 0) ^^^ gmulBits n (gdouble a) (b / 2)

/-- Multiplication in the field of R366. -/
def gmul (a b : Nat) : Nat := gmulBits 8 a b

/-- α to the power `n`. -/
def gpow : Nat → Nat
  | 0 => 1
  | n + 1 => gdouble (gpow n)

/-- The power `n` of an element, by squaring along the bits of `n`. -/
def gpower (a : Nat) : Nat → Nat
  | 0 => 1
  | n + 1 => gmul a (gpower a n)

/-- The inverse of a nonzero element: its power 254. -/
def ginv (a : Nat) : Nat := gpower a 254

/-! ## Encoding (R367) -/

/-- One step of the encoder: the remainder (r0, r1, r2, r3) and the next data byte. -/
def selvedgeStep (r : Nat × Nat × Nat × Nat) (d : Nat) : Nat × Nat × Nat × Nat :=
  let f := d ^^^ r.1
  (r.2.1 ^^^ gmul f 0x0F, r.2.2.1 ^^^ gmul f 0x36, r.2.2.2 ^^^ gmul f 0x78, gmul f 0x40)

/-- The bytes of a granule in address order. -/
def granuleBytes (g : Granule) : List Byte := natBytes 32 g.toNat

/-- The check field of a granule: p0 | p1 << 8 | p2 << 16 | p3 << 24. -/
def selvedgeCheck (g : Granule) : BitVec 32 :=
  let r := ((granuleBytes g).map fun b => b.toNat).foldl selvedgeStep (0, 0, 0, 0)
  BitVec.ofNat 32 (r.1 + 256 * r.2.1 + 65536 * r.2.2.1 + 16777216 * r.2.2.2)

/-- The pattern a poisoned granule's check field is XOR-ed with (R367). -/
def poisonPattern : BitVec 32 := 0xA5C33C5A

/-- The check field written with a granule. -/
def writtenCheck (g : Granule) (poison : Bool) : BitVec 32 :=
  if poison then selvedgeCheck g ^^^ poisonPattern else selvedgeCheck g

/-! ## Decoding (R368) -/

/-- The 36 symbols of a word: the data bytes, then p0 to p3. -/
def symbols (g : Granule) (c : BitVec 32) : List Nat :=
  (granuleBytes g).map (fun b => b.toNat) ++ (natBytes 4 c.toNat).map fun b => b.toNat

/-- The locator of symbol `i`: α to the power 35 − i. -/
def locator (i : Nat) : Nat := gpow (35 - i)

/-- Evaluate the codeword polynomial at x by Horner's rule. -/
def polyAt (x : Nat) (syms : List Nat) : Nat := syms.foldl (fun acc d => gmul acc x ^^^ d) 0

/-- The syndromes c(α^i), i = 0 to 3. -/
def syndromes (syms : List Nat) : List Nat := [polyAt 1 syms, polyAt 2 syms, polyAt 4 syms, polyAt 8 syms]

/-- The error values at the symbols with the given locators that give the syndromes; none where there are none. -/
def solveErrors : List Nat → List Nat → Option (List Nat)
  | [], ss => if ss.all (· == 0) then some [] else none
  | x :: xs, ss =>
    match solveErrors xs (List.zipWith (fun a b => b ^^^ gmul x a) ss ss.tail) with
    | none => none
    | some vs =>
      let ws := List.zipWith (fun v y => gmul v (ginv (y ^^^ x))) vs xs
      some ((ss.headD 0 ^^^ ws.foldl (· ^^^ ·) 0) :: ws)

/-- The errors at a set of symbol positions that explain the syndromes. -/
def solveAt (ps : List Nat) (ss : List Nat) : Option (List (Nat × Nat)) :=
  (solveErrors (ps.map locator) ss).map fun vs => ps.zip vs

/-- The pairs of symbol positions i < j. -/
def symbolPairs : List (List Nat) :=
  (List.range 36).flatMap fun i => (upFrom (i + 1) (35 - i)).map fun j => [i, j]

/-- An error pattern of at most two symbols, beside the erased positions `er` of which at most one more symbol is in
error (R259, R368). -/
def correct (er : List Nat) (ss : List Nat) : Option (List (Nat × Nat)) :=
  if er = [] then
    ((List.range 36).map (fun i => [i]) ++ symbolPairs).findSome? fun ps => solveAt ps ss
  else
    (er :: ((List.range 36).filter fun i => !er.contains i).map fun i => i :: er).findSome? fun ps => solveAt ps ss

/-- A word with errors taken off. -/
def applyErrors (syms : List Nat) (es : List (Nat × Nat)) : List Nat :=
  syms.zipIdx.map fun p => es.foldl (fun v e => if e.1 = p.2 then v ^^^ e.2 else v) p.1

/-- The outcomes of Table 15-1. -/
inductive Decoded where
  | clean (data : Granule)
  | corrected (data : Granule) (at_ : List Nat)
  | poison
  | uncorrectable (ambiguous : Bool)
  deriving DecidableEq, Repr

/-- The granule a list of symbols holds. -/
def symsGranule (syms : List Nat) : Granule := BitVec.ofNat 256 (bytesNat ((syms.take 32).map fun v => BitVec.ofNat 8 v))

/-- Decode a received word, with the erased symbols of a lasting pin (none: an empty list) (R259, R368). -/
def decodeWord (er : List Nat) (g : Granule) (c : BitVec 32) : Decoded :=
  let s1 := syndromes (symbols g c)
  let s2 := syndromes (symbols g (c ^^^ poisonPattern))
  if s1.all (· == 0) then .clean g
  else if s2.all (· == 0) then .poison
  else
    match correct er s1, correct er s2 with
    | some es, none =>
      .corrected (symsGranule (applyErrors (symbols g c) es)) ((es.filter fun e => e.2 != 0).map fun e => e.1)
    | none, some _ => .poison
    | some _, some _ => .uncorrectable true
    | none, none => .uncorrectable false

/-! ## Pins (R369, R370) -/

/-- The symbols of data sector `k` of a group that lie on pin DQ`p`: two data symbols, and in two of the eight sectors
one check symbol. -/
def pinSymbols (k p : Nat) : List Nat := [p, p + 16] ++ (if k % 4 = p / 4 then [32 + p % 4] else [])

/-- The pin trial: each pin that is not lasting whose erasure solves the word, on r (`true`) or on r′. -/
def pinTrial (k : Nat) (healthy : List Nat) (g : Granule) (c : BitVec 32) : List (Nat × Bool × List (Nat × Nat)) :=
  let s1 := syndromes (symbols g c)
  let s2 := syndromes (symbols g (c ^^^ poisonPattern))
  healthy.flatMap fun p =>
    (match solveAt (pinSymbols k p) s1 with
      | some es => [(p, true, es)]
      | none => []) ++
    (match solveAt (pinSymbols k p) s2 with
      | some es => [(p, false, es)]
      | none => [])

/-- The symbol positions lie all on one pin of sector `k`: that pin. -/
def pinOf (k : Nat) (ps : List Nat) : Option Nat :=
  (List.range 16).find? fun p => !ps.isEmpty && ps.all fun i => (pinSymbols k p).contains i

/-! ## CRC-64 (R205) -/

/-- `n` steps of the division by the CRC polynomial of ECMA-182, most significant bit first. -/
def crcBits : Nat → Nat → Nat
  | 0, r => r
  | n + 1, r => crcBits n (if r < 2 ^ 63 then 2 * r else (2 * r) % 2 ^ 64 ^^^ 0x42F0E1EBA9EA3693)

/-- The CRC-64 of a byte string. -/
def crc64 (bs : List Byte) : Nat := bs.foldl (fun r b => crcBits 8 (r ^^^ (b.toNat * 2 ^ 56))) 0

end Sys2Proof.Machine
end

