-- ==== Sys2Proof/Machine/Access.lean ====
section
/-! DEFINITION. Loads and stores by global fabric address (R24): own memory, the replication table (R286), and requests
to other nodes (R280, R283). -/
namespace Sys2Proof.Machine

/-! ## Requests to other nodes -/

/-- The flow to a destination on a virtual channel. -/
def State.flow (s : State) (dst vc : Nat) : FlowTx := Tbl.get FlowTx.init s.flows (dst * 8 + vc)
def State.setFlow (s : State) (dst vc : Nat) (f : FlowTx) : State :=
  { s with flows := Tbl.set FlowTx.init s.flows (dst * 8 + vc) f }

/-- The count of unacknowledged requests to a destination (R283). -/
def State.outstTo (s : State) (dst : Nat) : Nat := Tbl.get 0 s.outst dst

/-- The word of a granule as it is put in a flit. -/
def fword (g : Granule) (poison : Bool) : FWord := ⟨g, writtenCheck g poison⟩

/-- A flit of the package's own partition key to a node. -/
def State.mkFlit (s : State) (dst typ vc : Nat) (last : Bool) (tag seq : Nat) (start replica : Bool) (addr : Nat)
    (words : List FWord) (trailer : Nat) : Flit :=
  { pkey := BitVec.ofNat 16 (s.regF Reg.fabPkey 0 16), dst := BitVec.ofNat 16 dst, src := BitVec.ofNat 16 s.node,
    typ := BitVec.ofNat 7 typ, start := start, vc := BitVec.ofNat 3 vc, last := last, replica := replica,
    tag := BitVec.ofNat 16 tag, seq := BitVec.ofNat 12 seq, addr := BitVec.ofNat 36 (addr / 32), words := words,
    trailer := BitVec.ofNat 64 trailer }

/-! ## Sending flits (R271 to R275) -/

/-- Is port `p` UP or DEGRADED? -/
def State.portReady (s : State) (p : Nat) : Bool := decide (2 ≤ s.regF (Reg.fabPStatus p) 0 3)

/-- The ring port that the ring table names for a node (R274, R276). -/
def State.ringPort (s : State) (dst : Nat) : Option Nat :=
  (s.regs.find? fun p => decide (Reg.fabRingTbl 0 0 ≤ p.1) && decide (p.1 < Reg.fabRingTbl 2 0) && bit p.2 16 &&
    fld p.2 0 16 == dst).map fun p => 28 + 2 * ((p.1 - Reg.fabRingTbl 0 0) / 0x100) + fld p.2 17 1

/-- The static path of a flow to a node: its first port (R274, R275). -/
def State.staticPort (s : State) (dst : Nat) : Option Nat :=
  if dst = s.node then none
  else if dst / 32 = s.node / 32 then some (dst % 32)
  else match s.ringPort dst with
    | some p => some p
    | none => some (24 + (s.node % 32 + dst / 32) % 4)

/-- The port that a flow uses now. -/
def State.portFor (s : State) (dst vc : Nat) : Option Nat :=
  match (s.flow dst vc).path with
  | 0 => s.staticPort dst
  | p + 1 => some p

/-- The port whose receiver hears the far end of port `p`'s transmitter: itself, and for a ring port the other port of the
ring, since one transmits to the successor and the other receives from it (Table 11-1; log entry 30). -/
def revPort (p : Nat) : Nat := if p < 28 then p else if p % 2 = 0 then p + 1 else p - 1

/-- The credit return of the next flit on a port: the lowest VC with freed buffers (log entry 19). -/
def State.creditReturn (s : State) (p : Nat) : Nat × Nat :=
  match (List.range 8).find? fun v => Tbl.get 0 s.freed (revPort p * 8 + v) != 0 with
  | some v => (v, min 4095 (Tbl.get 0 s.freed (revPort p * 8 + v)))
  | none => (0, 0)

/-- Flits sent on a VC of port `p` whose buffers the far end has not freed. -/
def State.unfreedOn (s : State) (p vc : Nat) : Nat := Tbl.get 0 s.unfreed (p * 8 + vc)

/-- The shared buffers of the far end of port `p` that are in use: of 4,096 buffers 64 are reserved for each VC and the
other 3,584 are shared (R272). -/
def State.sharedUse (s : State) (p : Nat) : Nat := (List.range 8).foldl (fun n v => n + (s.unfreedOn p v - 64)) 0

/-- Does port `p` hold a credit of a VC (R272)? -/
def State.hasCredit (s : State) (p vc : Nat) : Bool :=
  decide (s.unfreedOn p vc < 64) || decide (s.sharedUse p < 3584)

/-- May port `p` send a flit of a VC now: it is up, holds a credit, and its retry buffer has room (R271, R272)? -/
def State.canSend (s : State) (p vc : Nat) : Bool :=
  s.portReady p && s.hasCredit p vc && decide ((Tbl.get [] s.linkBuf p).length < 2048)

/-! ### Arbitration (R273) -/

/-- How port `p` stands in choosing its next flit. -/
def State.arbOf (s : State) (p : Nat) : Arb := Tbl.get Arb.init s.arb p

/-- Does VC4 or VC7 stay within its reserved share of the port's last 256 flits with one more? -/
def State.withinShare (s : State) (p vc : Nat) : Bool :=
  let rsv := if vc = 4 then s.regF Reg.fabVcRsv 0 8 else if vc = 7 then s.regF Reg.fabVcRsv 8 8 else 0
  decide (((s.arbOf p).recent.filter fun v => v == vc).length + 1 ≤ rsv)

/-- The weight of a VC; 0 acts as 1. -/
def State.vcWeight (s : State) (vc : Nat) : Nat :=
  max 1 (s.regF (if vc < 4 then Reg.fabVcWeight0 else Reg.fabVcWeight1) (8 * (vc % 4)) 8)

/-- How port `p` stands once it has sent a flit: the VCs of its last 255 flits; the round robin's turn, where the flit was not
sent on a reserved share; and the partition key of its VC. -/
def State.arbAfter (s : State) (p : Nat) (f : Flit) : Arb :=
  let a := s.arbOf p
  let v := f.vc.toNat
  let rsv := s.withinShare p v
  { recent := (v :: a.recent).take 255
    vc := if rsv then a.vc else v
    left := if rsv then a.left else if v = a.vc ∧ 0 < a.left then a.left - 1 else s.vcWeight v - 1
    keys := Tbl.set 0 a.keys v f.pkey.toNat }

/-- The VC that port `p` serves next, of those `vs` that wait and may send: VC4 and VC7 within their shares, then the VC whose
turn it is, then the next in turn (log entry 19). -/
def State.nextVc (s : State) (p : Nat) (vs : List Nat) : Option Nat :=
  let a := s.arbOf p
  if vs.contains 4 && s.withinShare p 4 then some 4
  else if vs.contains 7 && s.withinShare p 7 then some 7
  else if a.left ≠ 0 ∧ vs.contains a.vc then some a.vc
  else ((List.range 8).map fun i => (a.vc + 1 + i) % 8).find? fun v => vs.contains v

/-- Within a VC the partition keys take turns: the lowest key above the one sent last, else the lowest (log entry 19). -/
def nextKey (last : Nat) (ks : List Nat) : Nat :=
  match ks.filter fun k => decide (last < k) with
  | k :: t => t.foldl min k
  | [] => ks.foldl min 65535

/-- Send a flit on a port: it takes the next LSEQ, a credit and a place in the retry buffer. -/
def State.transmit (s : State) (p : Nat) (f : Flit) : State :=
  let n := Tbl.get 0 s.linkTx p
  let v := f.vc.toNat
  let cr := s.creditReturn p
  let s1 := s.count64 (Reg.fabPCnt p 0) 1
  { s1 with
    linkTx := Tbl.set 0 s1.linkTx p ((n + 1) % 4096)
    linkBuf := Tbl.set [] s1.linkBuf p (Tbl.get [] s1.linkBuf p ++ [(n, f)])
    unfreed := Tbl.set 0 s1.unfreed (p * 8 + v) (s1.unfreedOn p v + 1)
    arb := Tbl.set Arb.init s1.arb p (s.arbAfter p f)
    freed := Tbl.set 0 s1.freed (revPort p * 8 + cr.1) (Tbl.get 0 s1.freed (revPort p * 8 + cr.1) - cr.2)
    out := s1.out ++ [.flit p n ((Tbl.get 0 s1.linkRx (revPort p) + 4095) % 4096) cr.1 cr.2 f] }

/-- The flit of a port's queue that goes next: of the VC and the partition key whose turn it is, the oldest (R273). -/
def State.nextWaiting (s : State) (p : Nat) : Option Flit :=
  let q := (Tbl.get [] s.portQ p).filter fun f => s.canSend p f.vc.toNat
  match s.nextVc p (q.map fun f => f.vc.toNat) with
  | none => none
  | some v =>
    let l := q.filter fun f => f.vc.toNat == v
    let k := nextKey (Tbl.get 0 (s.arbOf p).keys v) (l.map fun f => f.pkey.toNat)
    l.find? fun f => f.pkey.toNat == k

/-- Send what waits at a port, as far as its credits go; `n` bounds the flits. -/
def pumpPort (p : Nat) : Nat → State → State
  | 0, s => s
  | n + 1, s => match s.nextWaiting p with
    | some f =>
      let q := (Tbl.get [] s.portQ p).erase f
      pumpPort p n ({ s with portQ := Tbl.set [] s.portQ p q }.transmit p f)
    | none => s

/-- Hand a flit to a port: sent at once where nothing waits and it may be sent, else it waits; a flit of a VC with credits
does not wait for one of a VC without. -/
def State.toPort (s : State) (p : Nat) (f : Flit) : State :=
  if s.canSend p f.vc.toNat && (Tbl.get [] s.portQ p).isEmpty then s.transmit p f
  else pumpPort p 1 { s with portQ := Tbl.set [] s.portQ p (Tbl.get [] s.portQ p ++ [f]) }

/-- Send a flit on its flow (R274, R275): while FAB_NODE reads 0xFFFF nothing is sent (R264); a flit for the package's own
node is delivered locally; and while the flow drains it waits. -/
def State.emit (s : State) (f : Flit) : State :=
  let dst := f.dst.toNat
  let vc := f.vc.toNat
  let k := dst * 8 + vc
  if s.node = 0xFFFF then s
  else if dst = s.node then s.send (.looped f)
  else if (s.flow dst vc).drain then { s with drainQ := Tbl.set [] s.drainQ k (Tbl.get [] s.drainQ k ++ [f]) }
  else match s.portFor dst vc with
    | some p => s.toPort p f
    | none => s

/-- May a flow of VC1 have one more request: fewer than 2,048 are unacknowledged on it, and fewer than 512 atomics to its
destination (R280)? -/
def State.mayIssue (s : State) (dst typ vc : Nat) : Bool :=
  decide ((s.reqs.filter fun q => q.dst == dst && q.vc == vc).length < 2048) &&
    (typ != 5 || decide ((s.reqs.filter fun q => q.dst == dst && q.flit.typ == 5).length < 512))

/-- Send a request on its flow: it takes the next SEQ and TAG and is kept until it is acknowledged (R281). -/
def State.issueReq (s : State) (r : Req) (dst typ vc : Nat) (replica : Bool) (addr : Nat) (words : List FWord)
    (trailer : Nat) : State :=
  let f := s.flow dst vc
  let tag := Tbl.get 0 s.nextTag dst
  let fl := s.mkFlit dst typ vc true tag f.next (!f.started) replica addr words trailer
  let s1 := s.setFlow dst vc { f with next := (f.next + 1) % 4096, started := true, busyAt := s.ft }
  let s2 : State := { s1 with
    nextTag := Tbl.set 0 s1.nextTag dst ((tag + 1) % 65536)
    reqs := s1.reqs ++ [⟨dst, vc, f.next, fl, s1.ft, s1.ft, r, false⟩] }
  s2.emit fl

/-- A unit has a request for a node that is not acknowledged: it counts until it is, and a write marks the node as written
by the unit (R283). -/
def State.owes (s : State) (r : Req) (dst typ : Nat) : State :=
  { s with
    outst := Tbl.set 0 s.outst dst (s.outstTo dst + 1)
    wroteTo := if typ = 1 ∨ s.wroteTo.contains (r, dst) then s.wroteTo else s.wroteTo ++ [(r, dst)] }

/-- Issue a request to a node on its flow, where it is outstanding at once (R283); beyond its flow's limits it waits in order
(R280). -/
def State.request (s : State) (r : Req) (dst typ vc : Nat) (replica : Bool) (addr : Nat) (words : List FWord)
    (trailer : Nat) : State :=
  let s1 := s.owes r dst typ
  if s1.mayIssue dst typ vc && !(s1.reqQ.any fun q => q.dst == dst) then s1.issueReq r dst typ vc replica addr words trailer
  else { s1 with reqQ := s1.reqQ ++ [⟨r, dst, typ, vc, replica, addr, words, trailer⟩] }

/-- The requests to a node that wait for the limits of their flow are issued as far as these allow; `n` bounds them. -/
def pumpReqs (dst : Nat) : Nat → State → State
  | 0, s => s
  | n + 1, s => match s.reqQ.find? fun q => q.dst == dst with
    | none => s
    | some q =>
      if s.mayIssue dst q.typ q.vc then
        pumpReqs dst n ({ s with reqQ := s.reqQ.erase q }.issueReq q.req dst q.typ q.vc q.replica q.addr q.words q.trailer)
      else s

/-- A request or chunk to a node is no longer outstanding; with none left, every unit's writes there are acknowledged. -/
def State.settled (s : State) (dst vc : Nat) : State :=
  let n := s.outstTo dst - 1
  let s1 := s.setFlow dst vc { s.flow dst vc with busyAt := s.ft }
  { s1 with
    outst := Tbl.set 0 s1.outst dst n
    wroteTo := if n = 0 then s1.wroteTo.filter fun p => p.2 != dst else s1.wroteTo }

/-- Has unit `r` a request that is not acknowledged, or a store that is held? -/
def State.awaits (s : State) (r : Req) : Bool :=
  (s.reqs.any fun q => q.req == r) || (s.reqQ.any fun q => q.req == r) || s.holdsFor r

/-- Does a unit's work wait for acknowledgements: the count of a node it wrote is not zero (R283), or a store of its own is
held? -/
def State.unitOwes (s : State) (r : Req) : Bool := (s.wroteTo.any fun p => p.1 == r) || s.holdsFor r

/-- The pieces of `n` bytes at `a` by sectors: address, offset in the data, length. -/
def sectors (a n : Nat) : List (Nat × Nat × Nat) :=
  (granules a n).map fun g =>
    let lo := max a (32 * g)
    let hi := min (a + n) (32 * g + 32)
    (lo, lo - a, hi - lo)

/-- A remote address whose bits [47:41] are not all zero cannot reach working memory (R269). -/
def remoteOk (ga : Nat) : Bool := devAddr ga < 2 ^ 41

/-- Store bytes to another node's working memory: one WR_REQ for each sector, with its byte mask. -/
def State.remoteStore (s : State) (r : Req) (ga : Nat) (bs : List Byte) (poison : Bool) : State :=
  if remoteOk ga = false then s.addressEvent r ga else
  (sectors (devAddr ga) bs.length).foldl (fun s p =>
    let off := p.1 % 32
    let data : Granule := BitVec.ofNat 256 (bytesNat ((bs.drop p.2.1).take p.2.2) * 2 ^ (8 * off))
    s.request r (ga / 2 ^ 48 % 65536) 0x03 1 false (p.1 / 32 * 32) [fword data poison]
      ((2 ^ p.2.2 - 1) * 2 ^ off)) s

/-! ## What units' accesses wait for (R137, R178, R270, R281) -/

/-- The entry of an access of unit `r` to the sector or atomic at global address `ga`. -/
def State.accessAt (s : State) (r : Req) (ga : Nat) (isAtomic : Bool) : Option Access :=
  s.accesses.find? fun e => e.req == r && e.addr == ga && (match e.kind with
    | .read _ => !isAtomic
    | .atomic _ _ _ => isAtomic
    | .own _ => false)

/-- A unit's access waits for something: one entry for each. -/
def State.needs (s : State) (e : Access) : State :=
  if s.accesses.any fun x => x.req == e.req && x.addr == e.addr && x.kind == e.kind then s
  else { s with accesses := s.accesses ++ [e] }

/-- Does unit `r` still wait for the data of one of its accesses, or for one of its lines? -/
def State.lacks (s : State) (r : Req) : Bool :=
  s.accesses.any fun e => e.req == r && (match e.kind with
    | .own w => s.lineBusy e.addr w
    | _ => e.data.isNone)

/-- Unit `r` has done what its accesses were for. -/
def State.dropAccesses (s : State) (r : Req) : State :=
  { s with accesses := s.accesses.filter fun e => e.req != r }

/-- Unit `r` abandons what it was doing: its reads are forgotten, with the answers that may still come to them; an atomic was
or will be performed, and its old value is kept for the instruction's next attempt (R151, R282). -/
def State.dropReads (s : State) (r : Req) : State :=
  let orphan (q : Req) (typ : Nat) : Req := if q = r ∧ typ = 1 then ⟨257, 0⟩ else q
  { s with
    accesses := s.accesses.filter fun e => e.req != r || (match e.kind with
      | .atomic _ _ _ => true
      | _ => false)
    reqs := s.reqs.map fun q => { q with req := orphan q.req q.flit.typ.toNat }
    reqQ := s.reqQ.map fun q => { q with req := orphan q.req q.typ } }

/-- Send what an access needs: RD_REQ or ATOM_REQ, or a back-invalidate for a line of the package's own. -/
def State.sendAccess (s : State) (e : Access) : State :=
  let dst := e.addr / 2 ^ 48 % 65536
  match e.kind with
  | .read rep => s.request e.req dst 0x01 1 rep (devAddr e.addr) [] 1
  | .atomic t a b => s.request e.req dst 0x05 1 false (devAddr e.addr / 32 * 32)
      [fword (BitVec.ofNat 256 (a + 2 ^ 64 * b)) false] t
  | .own w => s.askBack (e.addr / 64) w

/-- The accesses that unit `r` found itself to need in state `s1` are sent from state `s`; only what another node must answer
is kept until it is. -/
def State.issueAccesses (s s1 : State) (r : Req) : State :=
  s1.accesses.foldl (fun s e =>
    if e.req != r || e.sent then s
    else match e.kind with
      | .own _ => s.sendAccess e
      | _ => { s with accesses := s.accesses ++ [{ e with sent := true }] }.sendAccess e) s

/-- The data of a sector of another node that unit `r` has received; zeros while it has not. -/
def State.sectorData (s : State) (r : Req) (ga : Nat) : Granule × Bool :=
  match s.accessAt r ga false with
  | some e => e.data.getD (0, false)
  | none => (0, false)

/-- The global address of the sector of node `ga[63:48]` at device address `a`. -/
def sectorOf (ga a : Nat) : Nat := ga / 2 ^ 48 * 2 ^ 48 + a / 32 * 32

/-- The `n` bytes from another node that unit `r` has received, and whether a granule of them is poison. -/
def State.remoteData (s : State) (r : Req) (ga n : Nat) : List Byte × Bool :=
  let ps := (sectors (devAddr ga) n).map fun p =>
    let d := s.sectorData r (sectorOf ga p.1)
    (((granuleBytes d.1).drop (p.1 % 32)).take p.2.2, d.2)
  (ps.flatMap fun p => p.1, ps.any fun p => p.2)

/-- A load of `n` bytes from another node needs its sectors. -/
def State.remoteLoad (s : State) (r : Req) (ga n : Nat) (replica : Bool) : State :=
  if remoteOk ga = false then s.addressEvent r ga else
  (sectors (devAddr ga) n).foldl (fun s p => s.needs ⟨r, sectorOf ga p.1, .read replica, false, none⟩) s

/-- A load or read-modify-write of a unit's own package needs the lines that are not free now. -/
def State.needOwn (s : State) (r : Req) (a n : Nat) (write : Bool) : State :=
  (granules a n).foldl (fun s g =>
    if s.lineBusy (32 * g) write then s.needs ⟨r, 32 * g, .own write, false, none⟩ else s) s

/-! ## The replication table (R285 to R287) -/

/-- An entry in force: HOME, the home page (global address [63:12]), the replica's node and page. -/
structure ReplEntry where
  home : Bool
  page : Nat
  rnode : Nat
  raddr : Nat
  deriving DecidableEq, Repr

/-- The valid entries of the replication table, in rising order. -/
def State.replEntries (s : State) : List ReplEntry :=
  (s.regs.filter fun p => decide (0x02010000 ≤ p.1) && decide (p.1 < 0x02020000) && p.1 % 16 == 0 && bit p.2 0).map
    fun p =>
      let hi := s.reg (p.1 + 8)
      { home := bit p.2 1, page := fld p.2 12 52, rnode := fld hi 0 16, raddr := fld hi 16 36 }

/-- A global address with the package's own node number in place of 0xFFFF. -/
def State.canonAddr (s : State) (ga : Nat) : Nat :=
  if s.isLocal ga then s.node * 2 ^ 48 + devAddr ga else ga

/-- The entry that redirects a load of a global address. -/
def State.replLoad (s : State) (ga : Nat) : Option ReplEntry :=
  s.replEntries.find? fun e => !e.home && e.page == s.canonAddr ga / 4096

/-- Does a store name a replicated page, by its home or its replica address? -/
def State.replStore (s : State) (ga : Nat) : Bool :=
  s.replEntries.any fun e => e.page == s.canonAddr ga / 4096 ||
    (!e.home && (if e.rnode = 0xFFFF then s.isLocal ga else ga / 2 ^ 48 % 65536 == e.rnode) &&
      e.raddr == devAddr ga / 4096)

/-- Where a load of a global address is served from. -/
def State.loadTarget (s : State) (ga : Nat) : Nat × Bool :=
  match s.replLoad ga with
  | some e => (e.rnode * 2 ^ 48 + e.raddr * 4096 + ga % 4096, true)
  | none => (ga, false)

/-! ## Loads and stores -/

/-- The parts of the `n` bytes at `ga` by pages of 4 KiB, of which one is served from one place. -/
def pageParts (ga n : Nat) : List (Nat × Nat) :=
  if ga % 4096 + n ≤ 4096 then [(ga, n)]
  else (upFrom (ga / 4096) ((ga + n - 1) / 4096 - ga / 4096 + 1)).map fun p =>
    (max ga (4096 * p), min (ga + n) (4096 * p + 4096) - max ga (4096 * p))

/-- What a load of bytes of one page returns. -/
def State.loadPart (s : State) (r : Req) (p : Nat × Nat) : List Byte × Bool :=
  let t := s.loadTarget p.1
  if s.isLocal t.1 then s.load (devAddr t.1) p.2
  else if remoteOk t.1 then s.remoteData r t.1 p.2
  else (List.replicate p.2 0, true)

/-- What a load of `n` bytes by global address returns to unit `r`: the bytes, and whether they are poison. -/
def State.gload (s : State) (r : Req) (ga n : Nat) : List Byte × Bool :=
  match pageParts ga n with
  | [p] => s.loadPart r p
  | ps => (ps.flatMap fun p => (s.loadPart r p).1, ps.any fun p => (s.loadPart r p).2)

/-- The state after a load of bytes of one page: its address event, the replica count, and what the load waits for. -/
def State.loadPartSt (r : Req) (s : State) (p : Nat × Nat) : State :=
  let t := s.loadTarget p.1
  let s1 := if t.2 then s.count64 (Reg.fabCnt 10) 1 else s
  if s1.isLocal t.1 then (s1.loadEvent r (devAddr t.1) p.2).needOwn r (devAddr t.1) p.2 false
  else s1.remoteLoad r t.1 p.2 t.2

/-- The state after a load of `n` bytes by global address. -/
def State.gloadSt (s : State) (r : Req) (ga n : Nat) : State := (pageParts ga n).foldl (State.loadPartSt r) s

/-- What work of unit `r` leaves: its own state, where it lacked nothing; else what it lacks is asked for from the state before,
and it is done again later. -/
def State.whenDone (s s1 : State) (r : Req) : State :=
  if s1.lacks r then s.issueAccesses s1 r else s1.dropAccesses r

/-- A store held because a page is replicated, or behind an earlier held store of the same unit (R286). -/
def State.holdStore (s : State) (r : Req) (ga : Nat) (bs : List Byte) (poison : Bool) : State :=
  { s with replHeld := s.replHeld ++ [⟨r, ga, bs, poison⟩] }

/-- A store by global address, performed. -/
def State.gstoreNow (s : State) (r : Req) (ga : Nat) (bs : List Byte) (poison : Bool) : State :=
  if s.isLocal ga then
    (if poison then s.storePoison r (devAddr ga) bs.length else s.store r (devAddr ga) bs)
  else s.remoteStore r ga bs poison

/-- A store by global address: held under R286 where its page is replicated, and otherwise performed. -/
def State.gstore (s : State) (r : Req) (ga : Nat) (bs : List Byte) (poison : Bool) : State :=
  if bs.isEmpty then s
  else if s.replStore ga then
    ((((s.holdStore r ga bs poison).setRegB Reg.fabStatus 1 true).setReg Reg.fabLastErr (BitVec.ofNat 64 ga)).count64
      (Reg.fabCnt 11) 1).event 8 Reg.fabEvent 5 (some (reqNumber r)) ga
  else if s.replHeld.any fun h => h.req == r then s.holdStore r ga bs poison
  else s.gstoreNow r ga bs poison

/-- Store a number of `n` bytes by global address. -/
def State.gstoreNum (s : State) (r : Req) (ga n v : Nat) : State := s.gstore r ga (natBytes n v) false

end Sys2Proof.Machine
end

