-- ==== Sys2Proof/Machine/Mon.lean ====
section
/-! DEFINITION. Monitor sets and the scale unit (chapter 06, R162 to R169). -/
namespace Sys2Proof.Machine

/-- The requester that stands for the hub. -/
abbrev hubReq : Req := ⟨0, 0⟩

/-- The armed monitor sets, in rising order: a set whose MON_CFG was never written is not armed. -/
def State.armedSets (s : State) : List Nat :=
  (s.regs.filter fun p => decide (0x300000 ≤ p.1) && decide (p.1 < 0x320000) && p.1 % 0x80 == 0 && bit p.2 0).map
    fun p => (p.1 - 0x300000) / 0x80

/-- Is set `n` armed? -/
def State.monArmed (s : State) (n : Nat) : Bool := decide (n < 1024) && s.regB (Reg.monCfg n) 0

/-- The least binary32 value not less than a magnitude, as its bits, saturating at 0x7F7F_FFFF (R163). -/
def b32Ceil : Num → Nat
  | .fin m e =>
    if m = 0 then 0 else
    let l := Fmt.lsb .b32 m.natAbs e
    let d := l - e
    let n := if d ≤ 0 then m.natAbs * 2 ^ (-d).toNat else ceilDiv m.natAbs (2 ^ d.toNat)
    min 0x7F7FFFFF (if n < 2 ^ 23 then n else (l + 150).toNat * 2 ^ 23 + (n - 2 ^ 23))
  | _ => 0

/-- Does an element carry an event of R77? -/
def Ev.isEvent : Ev → Bool
  | .none => false
  | _ => true

/-- How many elements of a report carry a given event. -/
def evCount (e : Ev) (xs : List (Num × Ev)) : Nat := (xs.filter fun p => p.2 == e).length

/-- Report elements, each with its value after step 3 and its event, to a set (R162 to R164). -/
def State.monReport (s : State) (set : Option Nat) (xs : List (Num × Ev)) : State :=
  match set with
  | some n =>
    if s.monArmed n then
      let amax := xs.foldl (fun a p => max a (b32Ceil p.1)) (s.reg (Reg.monAmax n)).toNat
      let now := Tbl.get (0, 0) s.monNow n
      let s1 := (((((s.count64 (Reg.monCntElems n) xs.length).count64 (Reg.monCntZero n) (evCount .zero xs)).count64
        (Reg.monCntSat n) (evCount .sat xs)).count64 (Reg.monCntNonfinite n) (evCount .nonfinite xs)).setReg
        (Reg.monAmax n) (BitVec.ofNat 64 amax))
      { s1 with monNow := Tbl.set (0, 0) s1.monNow n (now.1 + xs.length, now.2 + evCount .sat xs) }
    else s.count64 Reg.monLost (xs.filter fun p => p.2.isEvent).length
  | none => s.count64 Reg.monLost (xs.filter fun p => p.2.isEvent).length

/-- Report empty rows to a set (R148, R162). -/
def State.monEmptyRows (s : State) (set : Nat) (rows : Nat) : State :=
  if s.monArmed set then s.count64 (Reg.monCntEmptyRow set) rows else s.count64 Reg.monLost rows

/-- The set a task looks up by its C_ADDR: the lowest-numbered armed set with ADDR_EN whose range holds it (R164). -/
def State.monLookup (s : State) (caddr : Nat) : Option Nat :=
  let c := if s.isLocal caddr then 0xFFFF * 2 ^ 48 + devAddr caddr else caddr
  s.armedSets.find? fun n => s.regB (Reg.monCfg n) 3 && decide ((s.reg (Reg.monBase n)).toNat ≤ c) &&
    decide (c ≤ (s.reg (Reg.monLimit n)).toNat)

/-! ## The history (R167) -/

/-- History word `w` (0 to 3) of set `n`: MON_HIST holds entries 0 to 7, the rest are not visible. -/
def State.monHistWord (s : State) (n w : Nat) : W64 :=
  if w < 2 then s.reg (Reg.monHist n w) else Tbl.get 0x8000800080008000 s.monHi (2 * n + w - 2)

/-- The 16 entries of the history of set `n`, newest first; 0x8000 is empty. -/
def State.monHistory (s : State) (n : Nat) : List (BitVec 16) :=
  (List.range 16).map fun j => ((s.monHistWord n (j / 4)) >>> (16 * (j % 4))).truncate 16

/-- Put a history of 16 entries in place. -/
def State.setMonHistory (s : State) (n : Nat) (h : List (BitVec 16)) : State :=
  let word (w : Nat) : W64 := BitVec.ofNat 64
    ((h.getD (4 * w) 0x8000).toNat + 2 ^ 16 * (h.getD (4 * w + 1) 0x8000).toNat +
      2 ^ 32 * (h.getD (4 * w + 2) 0x8000).toNat + 2 ^ 48 * (h.getD (4 * w + 3) 0x8000).toNat)
  let s1 := (s.setReg (Reg.monHist n 0) (word 0)).setReg (Reg.monHist n 1) (word 1)
  let t1 := Tbl.set 0x8000800080008000 s1.monHi (2 * n) (word 2)
  { s1 with monHi := Tbl.set 0x8000800080008000 t1 (2 * n + 1) (word 3) }

/-- The history length in force: 0 acts as 1, 17 to 31 as 16. -/
def State.monHistLen (s : State) (n : Nat) : Nat :=
  let h := s.regF (Reg.monCfg n) 13 5
  if h = 0 then 1 else min h 16

/-- Drop every entry at index `len` or above. -/
def trimHistory (len : Nat) (h : List (BitVec 16)) : List (BitVec 16) :=
  h.zipIdx.map fun p => if p.2 < len then p.1 else 0x8000

/-- The non-empty entries, as integers. -/
def historyVals (h : List (BitVec 16)) : List Int := (h.filter fun x => x != 0x8000).map fun x => x.toInt

/-- The largest of a list of integers. -/
def maxInt? : List Int → Option Int
  | [] => none
  | x :: xs => some (xs.foldl max x)

/-- MON_HSTAT: ENTRIES and XEST come from the history, LAST_SAT is stored. -/
def State.monHstat (s : State) (n : Nat) : W64 :=
  let vs := historyVals (s.monHistory n)
  BitVec.ofNat 64 (vs.length + (if s.regB (Reg.monHstat n) 15 then 2 ^ 15 else 0) +
    2 ^ 16 * (match maxInt? vs with
      | some x => unsigned 16 x
      | none => 0x8000))

/-- xexp of R86 for a binary32 magnitude given by its bits. -/
def xexpB32 (bits : Nat) : Int :=
  match decodeNum .b32 bits with
  | .fin m e => (log2 m.natAbs : Int) + e + 1
  | _ => 0

/-- The exponent in force: MON_SCALE.K as i8, values below −126 acting as −126. -/
def State.monK (s : State) (n : Nat) : Int := max (-126) (signed 8 (s.regF (Reg.monScale n) 0 8))

/-- The new exponent of R167 from the history, the format and headroom, the exponent in force, and whether elements
saturated; and whether the correction after saturation applied. -/
def scaleNew (emax headroom kUsed : Int) (h : List Int) (sat : Bool) : Int × Bool :=
  let k1 := match maxInt? h with
    | none => kUsed
    | some x => min (emax + 1 - headroom - x) (kUsed + 1)
  let corr := sat && decide (kUsed - 1 < k1)
  let k2 := if corr then kUsed - 1 else k1
  (max (-126) (min 127 k2), corr)

/-- Store `n` words of a binary32 power of two from a global address on (R168). -/
def State.fillWords (s : State) (ga n : Nat) (k : Int) : State :=
  foldN (min n 4096) s fun s i => s.gstoreNum hubReq (ga + 4 * i) 4 (encRne .b32 (.fin 1 k))

/-- The update of one set (R167, R168). -/
def State.scaleUpdate (s : State) (n : Nat) : State :=
  match fmtOfCode (s.regF (Reg.monCfg n) 4 5) with
  | some (.plain f) =>
    let now := Tbl.get (0, 0) s.monNow n
    let code := s.regF (Reg.monCfg n) 4 5
    if s.regF (Reg.monCfg n) 1 2 ≠ 1 ∨ now.1 = 0 ∨ code < 2 ∨ 8 < code then s else
    let kUsed := s.monK n
    let amax := (s.reg (Reg.monAmax n)).toNat
    let h0 := s.monHistory n
    let h := if amax = 0 then h0 else
      trimHistory (s.monHistLen n) (BitVec.ofInt 16 (xexpB32 amax - kUsed) :: h0.take 15)
    let r := scaleNew f.emax (s.regF (Reg.monCfg n) 9 4) kUsed (historyVals h) (decide (0 < now.2))
    let s1 := ((s.setMonHistory n h).setReg (Reg.monScale n) (BitVec.ofNat 64 (unsigned 8 r.1))).setRegB
      (Reg.monHstat n) 15 r.2
    (s1.fillWords (s1.reg (Reg.monQaddr n)).toNat (s1.regF (Reg.monFill n) 0 16) r.1).fillWords
      (s1.reg (Reg.monDaddr n)).toNat (s1.regF (Reg.monFill n) 16 16) (-r.1)
  | _ => s

/-- The scale unit at stitch completion: every armed MODE 1 set is updated, then AMAX of every armed set is 0 (R167). -/
def State.scaleUnit (s : State) : State :=
  let s1 := s.armedSets.foldl State.scaleUpdate s
  let s2 := s1.armedSets.foldl (fun s n => s.setReg (Reg.monAmax n) 0) s1
  { s2 with monNow := [] }

/-! ## Configuration (R165) -/

/-- A write to MON_CFG: ignored while the set is armed unless it clears ARMED; a changed HIST drops entries at once. -/
def State.monCfgWrite (s : State) (n : Nat) (v : W64) : State :=
  if s.regB (Reg.monCfg n) 0 && bit v 0 then s else
  let s1 := s.plainWrite (Reg.monCfg n) v
  if s1.regF (Reg.monCfg n) 13 5 = s.regF (Reg.monCfg n) 13 5 then s1
  else s1.setMonHistory n (trimHistory (s1.monHistLen n) (s1.monHistory n))

/-- A write to MON_CTRL: CLEAR sets the five counts and AMAX to 0. -/
def State.monCtrlWrite (s : State) (n : Nat) (v : W64) : State :=
  if bit v 0 = false then s else
  (((((s.setReg (Reg.monCntElems n) 0).setReg (Reg.monCntZero n) 0).setReg (Reg.monCntSat n) 0).setReg
    (Reg.monCntNonfinite n) 0).setReg (Reg.monCntEmptyRow n) 0).setReg (Reg.monAmax n) 0

/-- A write to the other registers of a set: ignored while it is armed. -/
def State.monRegWrite (s : State) (n off : Nat) (v : W64) : State :=
  if s.regB (Reg.monCfg n) 0 then s else s.plainWrite off v

/-- MON_ARM: a write of MON_CFG with ARMED 1 arms the set and locks its configuration (R165). -/
def execMonArm (n : Fin 1024) (v : BitVec 32) (s : State) : Host.Outcome State Fault Refusal :=
  .next (s.monCfgWrite n (v.zeroExtend 64))

/-- MON_DISARM: a write of MON_CFG with ARMED 0 disarms the set and applies the fields it carries (R165). -/
def execMonDisarm (n : Fin 1024) (v : BitVec 32) (s : State) : Host.Outcome State Fault Refusal :=
  .next (s.monCfgWrite n (v.zeroExtend 64))

/-- MON_CLEAR: a write of MON_CTRL.CLEAR (R165). -/
def execMonClear (n : Fin 1024) (v : BitVec 32) (s : State) : Host.Outcome State Fault Refusal :=
  .next (s.monCtrlWrite n (v.zeroExtend 64))

end Sys2Proof.Machine
end

