-- ==== Sys2Proof/Machine/Time.lean ====
section
/-! DEFINITION. The time base (chapter 02): fabric time, synchronisation, the stitch counter, pleats, the action table
and the cinch. A time-driven command does nothing before the fabric time the spec gives its moment (log entry 6). -/
namespace Sys2Proof.Machine

/-! ## Fabric time and synchronisation (R31 to R34) -/

/-- An event of the TIM block. -/
def State.timEv (s : State) (b : Nat) : State := s.event 1 Reg.timEvent b none none

/-- Power domain `n` is on. -/
def State.domOn (s : State) (n : Nat) : Bool := s.regF (Reg.pwrDom n) 0 2 == 1

/-- Fabric time runs: the hub's reset is released and domain 72 is on (R31). -/
def State.ftRuns (s : State) : Bool := s.hubUp && s.domOn 72

/-- One cycle of the fabric reference clock (R31). -/
def State.tickFt (s : State) : State :=
  if s.ftRuns then
    { s with time := { s.time with acc := s.time.acc + BitVec.ofNat 82 (s.reg Reg.timFtRate).toNat } }
  else s

/-- TIM_SYNC_CFG.MASTER. -/
def State.isMaster (s : State) : Bool := s.regB Reg.timSyncCfg 0

/-- The synchronisation state. -/
def State.syncState (s : State) : Nat := s.regF Reg.timStatus 0 2

/-- SYNC_INTERVAL (R32). -/
def execSyncInterval (s : State) : Host.Outcome State Fault Refusal :=
  if s.isMaster then .next s else
  .next { s.sendFab (.syncReq (s.regF Reg.timSyncCfg 1 5) (BitVec.ofNat 64 s.ft)) with
    time := { s.time with missed := s.time.missed + 1 } }

/-- SYNC_REQ: answered with the three timestamps (R32). -/
def execSyncReq (src : BitVec 16) (tSend tRecv : BitVec 64) (s : State) : Host.Outcome State Fault Refusal :=
  .next (s.sendFab (.syncRsp src.toNat tSend tRecv (BitVec.ofNat 64 s.ft)))

/-- The package's offset from its parent in 1/64 ns, from the four timestamps of an exchange (R32): sent, received by the
parent, answered, received. -/
def syncOffset (t1 t2 t3 t4 : W64) : Int := ((t1 - t2) + (t4 - t3)).toInt / 2

/-- The link delay in 1/64 ns, from the four timestamps (R32). -/
def syncDelay (t1 t2 t3 t4 : W64) : Int := ((t4 - t1) - (t3 - t2)).toInt / 2

/-- The nominal rate word and the bound of ±200 ppm around it (R31). -/
def rateNominal : Nat := 0x6666666
def rateSlew : Nat := 21474

/-- The rate word that an offset sets (R31, R32): below nominal where the package is ahead of its parent and above it where it
is behind, by a free amount of at most 200 ppm (log entry 7). -/
def slewedRate (off : Int) : W64 :=
  let d := 1 + Config.rateStep off % rateSlew
  BitVec.ofNat 64 (if off = 0 then rateNominal else if 0 < off then rateNominal - d else rateNominal + d)

/-- The synchronisation state after a completed exchange, and its count of good ones (R33). -/
def syncNext (st good : Nat) (ok : Bool) : Nat × Nat :=
  if st = 0 then (1, bnat ok)
  else if st = 1 then
    let g := if ok then good + 1 else 0
    if g = 16 then (2, 0) else (1, g)
  else if st = 3 then
    let g := if ok then good + 1 else good
    if g = 4 then (2, 0) else (3, g)
  else (st, 0)

/-- Step fabric time to the parent's value, once, while LOCKING with RUN 0 (R34). -/
def State.syncStep (s : State) (off : Int) : State :=
  if s.syncState = 1 ∧ s.running = false ∧ s.time.stepped = false then
    { s with time := { s.time with stepped := true, acc := s.time.acc - BitVec.ofInt 82 (off * 2 ^ 18) } }
  else s

/-- SYNC_RSP (R32 to R34): the link delay and the offset are computed, the rate word set to drive the offset towards zero, and
the synchronisation state moves. An offset of more than 32 signed bits is recorded modulo 2^32 (log entry 7). -/
def execSyncRsp (t1 t2 t3 t4 : BitVec 64) (s : State) : Host.Outcome State Fault Refusal :=
  if s.isMaster ∨ s.node = 0xFFFF then .next s else
  let off := syncOffset t1 t2 t3 t4
  let ok := decide (off.natAbs ≤ 128)
  let n := syncNext s.syncState s.time.good ok
  let s1 := ((s.setReg Reg.timFtOffset (BitVec.ofNat 64 (unsigned 32 off))).setReg Reg.timFtRate
    (slewedRate off)).setRegF Reg.timStatus 0 2 n.1
  let s2 := { s1 with time := { s1.time with good := n.2, missed := 0, linkDelay := syncDelay t1 t2 t3 t4,
                                             stepped := s1.time.stepped && decide (s.syncState ≠ 0) } }
  .next (s2.syncStep off)

/-- A write to TIM_SYNC_CFG: the rate word of a time master stays at nominal (R31). -/
def State.syncCfgWrite (s : State) (v : W64) : State :=
  let s1 := s.plainWrite Reg.timSyncCfg v
  if s1.isMaster then s1.setReg Reg.timFtRate (BitVec.ofNat 64 rateNominal) else s1

/-- SYNC_HOLDOVER (R33). -/
def execSyncHoldover (s : State) : Host.Outcome State Fault Refusal :=
  if s.syncState = 2 ∧ 8 ≤ s.time.missed then
    .next (({ s with time := { s.time with good := 0 } }.setRegF Reg.timStatus 0 2 3).timEv 8)
  else .next s

/-! ## The cinch (R36 to R38, R51 to R55) -/

/-- TIM_STATUS bits. -/
def State.held? (s : State) : Bool := s.regB Reg.timStatus 3
def State.inPending (s : State) : Bool := s.regB Reg.timStatus 11
def State.stopped (s : State) : Bool := s.regB Reg.timStatus 13

/-- TIM_CTRL.ADV is 1; 2 and 3 act as 0. -/
def State.advPulse (s : State) : Bool := s.regF Reg.timCtrl 1 2 == 1

/-- TIM_CINCH_CFG fields: ROOT, NCHILD (28 to 31 act as 27), PARENT. -/
def State.isRoot (s : State) : Bool := s.regB Reg.timCinchCfg 0
def State.nChild (s : State) : Nat := min 27 (s.regF Reg.timCinchCfg 1 5)

/-- Every child has arrived. -/
def State.allChildren (s : State) : Bool := decide (s.nChild ≤ s.time.arrived.length)

/-- The greatest path latency over the children (R52). -/
def maxLat (xs : List (Nat × Nat)) : Nat := xs.foldl (fun a p => max a p.2) 0

/-- The stitch the cinch's release begins: the own stitch at the start cinch, else the next one. -/
def State.releaseStitch (s : State) : W64 := if s.time.startCinch then s.stitch else s.stitch + 1

/-- CKP_TIMER asks for a pocket request in the next release (R348). -/
def State.timerDue (s : State) : Bool :=
  let n := (s.reg Reg.ckpTimer).toNat
  n != 0 && decide (s.time.timerFrom + n * 64000000000 ≤ s.ft)

/-- Send the release down the tree. -/
def State.sendRelease (s : State) (m : ReleaseMsg) : State :=
  s.time.arrived.foldl (fun s c => s.sendFab (.release c.1 m)) s

/-- Schedule a release. -/
def State.scheduleRelease (s : State) (m : ReleaseMsg) : State :=
  let s1 := s.sendRelease m
  { s1 with time := { s1.time with release := some (m.stitch, m.t.toNat), lastRelease := some (m.stitch, m.t.toNat),
                                   pocketReq := m.pocket } }

/-- The root sets the release time once its last awaited arrival, the STITCH_IN pulse of advance mode 1 included, has
come (R52, R55). -/
def State.rootRelease (s : State) : State :=
  let pulse := s.advPulse && !s.time.startCinch
  if s.isRoot && s.time.sent && s.time.release.isNone && !s.time.faulted && !s.stopped && (!pulse || s.inPending) then
    let t := BitVec.ofNat 64 (s.ft + max ((s.reg Reg.timCinchMargin).toNat * 64) s.time.m)
    let pocket := s.timerDue
    let s1 := if pulse then s.setRegB Reg.timStatus 11 false else s
    let s2 := if pocket then { s1 with time := { s1.time with timerFrom := t.toNat } } else s1
    s2.scheduleRelease ⟨s.releaseStitch, t, pocket⟩
  else s

/-- Arrive where every condition of R51 holds; where HOLD withholds the arrival, HELD shows it (R38). HELD is set from the
moment the package is at the cinch with HOLD 1, whatever else is missing (log entry 82). -/
def State.tryArrive (s : State) : State :=
  if s.running && s.time.atCinch && !s.time.sent && !s.stopped then
    if s.regB Reg.timCtrl 3 then s.setRegB Reg.timStatus 3 true
    else
      let s0 := s.setRegB Reg.timStatus 3 false
      if s0.allChildren && s0.drained && !s0.time.faulted then
        let lat := maxLat s0.time.arrived
        let m := if s0.time.startCinch then (if s0.nChild = 0 then 0 else lat + 6400) else s0.time.m
        let s1 := ({ s0 with time := { s0.time with sent := true, m := m } }).setRegB Reg.timStatus 10 true
        if s1.isRoot then s1.rootRelease
        else s1.sendFab (.arrive (s1.regF Reg.timCinchCfg 16 16)
          { src := BitVec.ofNat 16 s1.node, stitch := s1.stitch, det := BitVec.ofNat 3 (s1.regF Reg.detCfg 0 3),
            pkey := BitVec.ofNat 16 (s1.regF Reg.timCinchPkey 0 16), sent := BitVec.ofNat 64 s1.ft,
            lat := BitVec.ofNat 64 lat, start := s1.time.startCinch })
      else s0
  else s

/-- Leave the cinch, as clearing RUN does (R38): HELD, CINCH_WAIT, IN_PENDING and STOPPED clear. The arrivals recorded from the
children are dropped too (log entry 82). -/
def State.leaveCinch (s : State) : State :=
  let s1 := (((s.setRegB Reg.timStatus 3 false).setRegB Reg.timStatus 10 false).setRegB Reg.timStatus 11
    false).setRegB Reg.timStatus 13 false
  { s1 with time := { s1.time with atCinch := false, sent := false, faulted := false, arrived := [], profiles := [],
                                   release := none, pocketReq := false } }

/-- A fault that ends the cinch: nothing more is forwarded for it (R54). -/
def State.cinchFault (s : State) (b : Nat) : State :=
  { s with time := { s.time with faulted := s.time.faulted || s.time.release.isNone } }.timEv b

/-- The stitch and the determinism profile that an arrival at a start cinch must carry (R37, R241). -/
def State.profile (s : State) : W64 × Nat := (s.stitch, s.regF Reg.detCfg 0 3)

/-- Join the start cinch (R37). Arrivals that came before RUN was set and carried another stitch or profile than the package's
own now mismatch (R54). -/
def State.joinStart (s : State) : State :=
  let s1 := { s with time := { s.time with atCinch := true, startCinch := true, sent := false, dueAt := s.ft } }
  (if s.time.profiles.any fun p => p != s.profile then s1.cinchFault 6 else s1).tryArrive

/-- A write to TIM_CTRL (R37, R38). One with RUN 0 while RUN is 0 also clears STOPPED (log entry 82). -/
def State.timCtrlWrite (s : State) (v : W64) : State :=
  let was := s.running
  let run := bit v 0 || (was && !(s.held? || s.stopped))
  let s1 := s.setReg Reg.timCtrl (setBit (v &&& 0x1F) 0 run)
  if run = false then (if was then s1.leaveCinch else s1.setRegB Reg.timStatus 13 false)
  else if was = false then s1.joinStart
  else s1.tryArrive.rootRelease

/-- RUN_SET (R37). -/
def execRunSet (v : BitVec 32) (s : State) : Host.Outcome State Fault Refusal :=
  .next (s.bar Reg.timCtrl fun s => s.timCtrlWrite (v.zeroExtend 64))
/-- RUN_CLEAR (R38). -/
def execRunClear (v : BitVec 32) (s : State) : Host.Outcome State Fault Refusal :=
  .next (s.bar Reg.timCtrl fun s => s.timCtrlWrite (v.zeroExtend 64))
/-- HOLD_SET (R38). -/
def execHoldSet (v : BitVec 32) (s : State) : Host.Outcome State Fault Refusal :=
  .next (s.bar Reg.timCtrl fun s => s.timCtrlWrite (v.zeroExtend 64))
/-- HOLD_CLEAR (R38). -/
def execHoldClear (v : BitVec 32) (s : State) : Host.Outcome State Fault Refusal :=
  .next (s.bar Reg.timCtrl fun s => s.timCtrlWrite (v.zeroExtend 64))

/-- A write to TIM_STITCH: ignored while RUN is 1 (R35). -/
def State.timStitchWrite (s : State) (v : W64) : State := if s.running then s else s.setReg Reg.timStitch v

/-- ARRIVE_SEND (R51). -/
def execArriveSend (s : State) : Host.Outcome State Fault Refusal := .next s.tryArrive

/-- CINCH_ARRIVE (R51, R52, R54). -/
def execCinchArrive (m : ArriveMsg) (s : State) : Host.Outcome State Fault Refusal :=
  if s.node = 0xFFFF then .next s
  else if m.pkey.toNat ≠ s.regF Reg.timCinchPkey 0 16 then .next (s.count32 Reg.timCntPkeyDrop 1)
  else if m.stitch ≠ s.stitch then .next (s.cinchFault 6)
  else if s.time.arrived.any (fun c => c.1 == m.src.toNat) then .next s
  else if m.start ∧ m.det.toNat ≠ s.regF Reg.detCfg 0 3 then .next (s.cinchFault 6)
  else
    let lat := m.lat.toNat + (BitVec.ofNat 64 s.ft - m.sent).toNat
    let s1 := { s with time := { s.time with
      arrived := s.time.arrived ++ [(m.src.toNat, lat)], lastArrival := s.ft,
      profiles := s.time.profiles ++ (if m.start then [(m.stitch, m.det.toNat)] else []) } }
    .next (if s1.isRoot then s1.tryArrive else s1)

/-- The fabric time at which the children must have arrived: TIM_CINCH_TIMEOUT µs after the package's own completion, or after
RUN was set (R54). -/
def State.cinchLimit (s : State) : Nat := s.time.dueAt + 64000 * (s.reg Reg.timCinchTimeout).toNat

/-- CINCH_TIMEOUT (R54). -/
def execCinchTimeout (s : State) : Host.Outcome State Fault Refusal :=
  if s.running && s.time.atCinch && !s.time.sent && !s.time.faulted && !s.allChildren && decide (s.cinchLimit ≤ s.ft) then
    .next (s.cinchFault 7)
  else .next s

/-- STITCH_IN (R55). -/
def execStitchIn (s : State) : Host.Outcome State Fault Refusal :=
  if !(s.isRoot && s.advPulse && s.running) then .next s
  else if s.inPending then .next ((s.count32 Reg.timCntStitchOverrun 1).timEv 4)
  else .next (s.setRegB Reg.timStatus 11 true).rootRelease

/-! ## Pleats and the action table (R39 to R48) -/

/-- LENGTH of a timed pleat in ns (R39). -/
def timedLength (len : Nat) : Nat := max 1000 len

/-- TIM_PLEAT[p]: KIND and LENGTH. -/
def State.pleatOpen (s : State) (p : Nat) : Bool := s.regB (Reg.timPleat p) 0
def State.pleatLength (s : State) (p : Nat) : Nat := s.regF (Reg.timPleat p) 32 32

/-- TIM_NPLEAT.LAST. -/
def State.lastPleat (s : State) : Nat := s.regF Reg.timNpleat 0 6

/-- Is `d` a permitted deadline pleat of pleat `p` (R41)? -/
def State.deadlineOk (s : State) (p d : Nat) : Bool :=
  decide (p ≤ d) && decide (d ≤ s.lastPleat) && !s.pleatOpen d

/-- The deadline of an action of pleat `p` with deadline pleat `d` (R41). -/
def State.deadlineAt (s : State) (p d : Nat) : Nat :=
  (s.reg Reg.timPleatStart).toNat +
    64 * ((upFrom p (d + 1 - p)).foldl (fun a q => a + if s.pleatOpen q then 0 else timedLength (s.pleatLength q)) 0)

/-- One entry of the action table as the time base reads it (Table 2-1). -/
structure Entry where
  idx : Nat
  typ : Nat
  pleat : Nat
  cond : Nat
  dlEn : Bool
  dlPleat : Nat
  period : Nat
  stitchA : W64
  desc : Nat
  count : Nat
  cring : Nat
  compl : Bool
  tset : Nat
  deriving DecidableEq, Repr

/-- Entry `i` of a bank. -/
def State.entry (s : State) (bank i : Nat) : Entry :=
  let w0 := s.reg (Reg.act0 bank i)
  let w4 := s.reg (Reg.act4 bank i)
  { idx := i, typ := fld w0 4 4, pleat := fld w0 8 6, cond := fld w0 14 2, dlEn := bit w0 16, dlPleat := fld w0 17 6,
    period := (s.reg (Reg.act1 bank i)).toNat, stitchA := s.reg (Reg.act2 bank i),
    desc := (s.reg (Reg.act3 bank i)).toNat, count := fld w4 0 16, cring := fld w4 16 10, compl := bit w4 31,
    tset := fld (s.reg (Reg.act5 bank i)) 0 4 }

/-- The active bank. -/
def State.bank (s : State) : Nat := s.regF Reg.timStatus 12 1

/-- The valid entries of the active bank whose pleat is `p`, in rising index (R43); TYPE 0 is inert. -/
def State.entriesOf (s : State) (p : Nat) : List Entry :=
  let base := 0x420000 + 0x20000 * s.bank
  ((s.regs.filter fun q => decide (base ≤ q.1) && decide (q.1 < base + 0x20000) && (q.1 - base) % 32 == 0 &&
    bit q.2 0).map fun q => s.entry s.bank ((q.1 - base) / 32)).filter fun e => e.pleat == p && e.typ != 0

/-- Can the condition not be judged (R43)? -/
def Entry.unjudged (e : Entry) : Bool := e.cond == 3 || (e.cond == 1 && e.period == 0)

/-- Does the entry's condition hold on stitch `st` (R43)? -/
def Entry.fires (e : Entry) (st : W64) : Bool :=
  if e.cond = 0 then st == e.stitchA
  else if e.cond = 1 then decide (e.stitchA.toNat ≤ st.toNat) && (st.toNat - e.stitchA.toNat) % e.period == 0
  else e.cond == 2

/-- The launch rules of R46 that table entries and ring entries share: TYPE, deadline pleat, alignment and COUNT. -/
def State.launchBad (s : State) (typ p : Nat) (dlEn : Bool) (d desc count : Nat) : Bool :=
  decide (10 ≤ typ) || (dlEn && !s.deadlineOk p d) || (typ != 8 && (desc % 64 != 0 || count == 0))

/-- Is a firing entry malformed (R46)? -/
def State.malformed (s : State) (e : Entry) : Bool :=
  e.unjudged || s.launchBad e.typ e.pleat e.dlEn e.dlPleat e.desc e.count || (e.typ == 8 && !e.compl)

/-- The status codes of Table 13-6. -/
abbrev stPartial : Nat := 0x60
abbrev stAbsent : Nat := 0x61
abbrev stActionInvalid : Nat := 0x62
abbrev stSchedLate : Nat := 0x63
abbrev stAborted : Nat := 0x64

/-- A rejected entry: its completion entry, if asked for, and ACTION_ERROR (R46). -/
def State.reject (s : State) (e : Entry) : State :=
  let s1 := s.timEv 2
  if e.compl then
    s1.owe { cring := e.cring, status := stActionInvalid, action := true, sring := e.idx, sidx := 0,
             stitch := s1.stitch, pleat := s1.pleatNow, failed := 0, info := 0, hold := false }
  else s1

/-- What a firing entry launches. -/
def Entry.launch (e : Entry) : Launch :=
  { typ := e.typ, desc := e.desc, count := if e.typ = 8 ∨ e.typ = 6 then 1 else e.count,
    deadline := if e.dlEn then some e.dlPleat else none, tset := e.tset, compl := e.compl, cring := e.cring,
    table := true, sring := e.idx, sidx := 0, period := e.count, body := [] }

/-- Examine one entry at the start of its pleat (R43, R46): reject it, queue its launch, or pass it by. -/
def State.examine (s : State) (e : Entry) : State :=
  if e.unjudged then s.reject e
  else if e.fires s.stitch = false then s
  else if s.malformed e then s.reject e
  else { s with time := { s.time with launchQ := s.time.launchQ ++ [e.launch] } }

/-- The capture of the timer, fired as a table entry with COND ONCE would fire it (R348). -/
def State.timerFire (s : State) (p : Nat) : State :=
  let desc := (s.reg Reg.ckpTdesc).toNat
  if s.time.pocketFire && p == s.regF Reg.ckpTpleat 0 6 && s.reg Reg.ckpTimer != 0 && desc != 0 then
    s.examine { idx := 0, typ := 7, pleat := p, cond := 0, dlEn := false, dlPleat := 0, period := 0,
                stitchA := s.stitch, desc := desc, count := 1, cring := 0, compl := false, tset := 0 }
  else s

/-- A held ring entry: its stitch and pleat (Table 13-3). -/
def Fetched.stitch (f : Fetched) : Nat := bytesNat ((f.entry.drop 8).take 8)
def Fetched.pleat (f : Fetched) : Nat := ((f.entry.getD 2 0).toNat) % 64

/-- Is a held ring entry due at the pleat in progress (R330)? -/
def State.heldDue (s : State) (f : Fetched) : Bool :=
  s.time.inPleat && ((f.whn == 1 && decide (f.begun < s.time.begun)) ||
    (f.whn == 2 && f.stitch == s.stitch.toNat && f.pleat == s.pleatNow))

/-- The rings whose first held entry is due at the pleat in progress, in rising order (R331). -/
def State.ringsDue (s : State) : List Nat :=
  (s.sq.filter fun p => match p.2.waiting with
    | f :: _ => s.heldDue f
    | [] => false).map fun p => p.1

/-! ### Telemetry records (R49, R50) -/

/-- The register a counter identifier names, none where it names no counter of the grade (R118, R161, R212, R242, R262,
R289, R318, R344, R365, R381, R402, R421, Table 6-1). -/
def teleReg (g : Grade) (id : Nat) : Option Nat :=
  let lo := id % 2 ^ 24
  let n := lo / 256
  let k := lo % 256
  match id / 2 ^ 24 with
  | 0x00 =>
    if 0x800000 ≤ lo ∧ lo < 0x802000 then
      let m := (lo - 0x800000) / 8
      match (lo - 0x800000) % 8 with
      | 0 => some (Reg.monCntElems m)
      | 1 => some (Reg.monCntZero m)
      | 2 => some (Reg.monCntSat m)
      | 3 => some (Reg.monCntNonfinite m)
      | 4 => some (Reg.monCntEmptyRow m)
      | 5 => some (Reg.monAmax m)
      | _ => none
    else if lo = 0x900000 then some Reg.detCntMigrate
    else if 0xA00000 ≤ lo ∧ lo < 0xA00006 then some (Reg.hubCnt (lo - 0xA00000))
    else if 0xB00000 ≤ lo ∧ lo < 0xB0001E then some (Reg.relCnt (lo - 0xB00000))
    else none
  | 0x02 => if lo < 4 then some (Reg.secCnt lo) else none
  | 0x03 =>
    if lo < 6 then some (Reg.pwrCnt lo)
    else if 0x100 ≤ lo ∧ lo < 0x108 then some (Reg.pwrTemp (lo - 0x100)) else none
  | 0x04 =>
    if lo = 0xFF0000 then some Reg.memCntTrackEvict
    else if numPkgs g ≤ n then none
    else ([Reg.memCCntRd n, Reg.memCCntWr n, Reg.memCCntCe n, Reg.memCCntUe n, Reg.memCCntPoisonRd n,
      Reg.memCCntChkHit n, Reg.memCCntChkMiss n, Reg.memCCntRefTc n, Reg.memCCntScrubPass n, Reg.memCCntThrottleTc n,
      Reg.memCRetired n, Reg.memCTemp n])[k]?
  | 0x06 => if lo < 7 then some (Reg.ckpCnt lo) else none
  | 0x08 =>
    if 0x800000 ≤ lo ∧ lo < 0x80000C then some (Reg.colCnt (lo - 0x800000))
    else if 0xFF0000 ≤ lo ∧ lo < 0xFF000F then some (Reg.fabCnt (lo - 0xFF0000))
    else if n < 32 ∧ k < 7 then some (Reg.fabPCnt n k) else none
  | 0x0C =>
    if numTiles g ≤ n then none
    else ([Reg.tnsCntTasks n, Reg.tnsCntProducts n, Reg.tnsCntBusy n, Reg.tnsCntInexact n, Reg.tnsCntAbftRetry n,
      Reg.tnsCntAbftFail n, Reg.tnsCntAnchorLow n, Reg.tnsCntPoisonIn n, Reg.tnsVeCntInstr n, Reg.tnsVeCntBusy n,
      Reg.tnsVeCntRestart n, Reg.tnsVeCntEmptyRow n, Reg.tnsVeCntFault n])[k]?
  | 0x10 =>
    if 0xFF0000 ≤ lo then
      ([Reg.slvCntBatches, Reg.slvCntDeadline, Reg.slvCntNotRun, Reg.slvCntWarmIgnored])[lo - 0xFF0000]?
    else if 0x10000 ≤ lo then
      let c := (lo - 0x10000) / 256
      if numCores g ≤ c then none
      else ([some (Reg.slvCoreCntProgs c), some (Reg.slvCoreCntItems c), some (Reg.slvCoreCntIter c), none, none, none,
        none, none, some (Reg.slvVeCntInstr c), some (Reg.slvVeCntBusy c), some (Reg.slvVeCntRestart c),
        some (Reg.slvVeCntEmptyRow c), some (Reg.slvVeCntFault c)])[k]?.getD none
    else if numEngines g ≤ n then none
    else ([Reg.slvFeCntItems n, Reg.slvFeCntFma n, Reg.slvFeCntBusy n, Reg.slvFeCntDivsqrt n, Reg.slvFeCntCheckRetry n,
      Reg.slvFeCntCheckFail n, Reg.slvFeCntNotok n])[k]?
  | _ => none

/-- The value of a counter identifier: 0 where it names no counter (R49). -/
def State.teleValue (s : State) (id : Nat) : Nat :=
  match teleReg s.grade id with
  | some off => (s.reg off).toNat
  | none => 0

/-- The identifiers of telemetry set `n`, up to identifier 0. -/
def State.tsetIds (s : State) (n : Nat) : List Nat :=
  ((List.range 64).map fun i => (s.reg (Reg.timTset n i)).toNat).takeWhile fun x => x != 0

/-- The 544 bytes of a telemetry record (Table 2-3). -/
def State.teleRecord (s : State) (n : Nat) (inPleat : Bool) : List Byte :=
  let ids := s.tsetIds n
  natBytes 8 s.stitch.toNat ++ natBytes 8 (if inPleat then (s.reg Reg.timPleatStart).toNat else s.ft) ++
    natBytes 1 (if inPleat then s.pleatNow else 0xFF) ++ natBytes 1 n ++ natBytes 2 ids.length ++ natBytes 12 0 ++
    (ids.map fun i => natBytes 8 (s.teleValue i)).flatten ++ natBytes (512 - 8 * ids.length) 0

/-- The record of a ring entry that is a telemetry sample (Table 13-3: TSET in byte 27). -/
def State.ringRecord (s : State) (f : Fetched) : List Byte := s.teleRecord ((f.entry.getD 27 0).toNat % 16) true

/-- The records of the ring entries due at the pleat that begins that are telemetry samples, captured at its boundary (R49). -/
def State.ringSamples (s : State) : List (Nat × Nat × List Byte) :=
  s.sq.flatMap fun p => (p.2.waiting.filter fun f => s.heldDue f && f.bad.isNone && f.entry.getD 0 0 == 6).map fun f =>
    (p.1, f.sidx, s.ringRecord f)

/-- A pleat begins (R39, R43, R111): its kind and length are read, the sync counters are 0, the active bank is examined,
and telemetry samples come before every other launch (R49). -/
def State.beginPleat (s : State) (p : Nat) : State :=
  let ft := s.ft
  let len := s.pleatLength p
  let s1 := ((s.setRegF Reg.timStatus 4 6 p).setRegB Reg.timStatus 2 true).setReg Reg.timPleatStart (BitVec.ofNat 64 ft)
  let s2 := { s1 with
    sync := []
    time := { s1.time with inPleat := true, isOpen := s.pleatOpen p, length := len,
                           planned := ft + 64 * timedLength len, overrun := false, watched := false, lastDone := ft,
                           launchQ := [], begun := s1.time.begun + 1, due := none } }
  let s3 := ((s2.entriesOf p).foldl State.examine s2).timerFire p
  let q := s3.time.launchQ
  { s3 with time := { s3.time with
      launchQ := q.filter (fun l => l.typ == 6) ++ q.filter (fun l => l.typ != 6), dueRings := s3.ringsDue,
      samples := s3.ringSamples } }

/-- PLEAT_BEGIN (R39, R43). -/
def execPleatBegin (s : State) : Host.Outcome State Fault Refusal :=
  match s.time.due with
  | some p => if s.stopped then .next s else .next (s.beginPleat p)
  | none => .next s

/-- Every action of the pleat has launched and completed (R39). -/
def State.pleatDone (s : State) : Bool := s.time.launchQ.isEmpty && s.time.dueRings.isEmpty && !s.pleatBusy

/-- Every action of the pleat has launched and completed, and its stores have drained (R27, R39). -/
def State.pleatClear (s : State) : Bool := s.pleatDone && s.pleatDrained

/-- A timed pleat has reached its planned end (R39). -/
def State.endReached (s : State) : Bool := !s.time.isOpen && decide (s.time.planned ≤ s.ft)

/-- A timed pleat overruns (R40). -/
def State.overrun (s : State) : State :=
  ({ s with time := { s.time with overrun := true } }.count32 Reg.timCntPleatOverrun 1).timEv 0

/-- PLEAT_END_TIME (R40): an action still runs at the end time. -/
def execPleatEndTime (s : State) : Host.Outcome State Fault Refusal :=
  if s.time.inPleat && s.endReached && !s.time.overrun && !s.pleatDone then .next s.overrun else .next s

/-- PLEAT_END (R39): the pleat ends, a timed one not before its planned end; TIM_NPLEAT.LAST says whether it was the last. -/
def execPleatEnd (s : State) : Host.Outcome State Fault Refusal :=
  if s.time.inPleat && s.pleatClear && !s.stopped && (s.time.isOpen || s.endReached) then
    let p := s.regF Reg.timStatus 4 6
    let late := !s.time.isOpen && !s.time.overrun && decide (s.time.planned < s.time.lastDone)
    let s1 := if late then s.overrun else s
    let last := decide (s1.lastPleat ≤ p)
    .next { s1 with time := { s1.time with inPleat := false, lastEnded := last,
                                           due := if last then none else some (p + 1) } }
  else .next s

/-- OPEN_PLEAT_WATCHDOG (R42). -/
def execOpenPleatWatchdog (s : State) : Host.Outcome State Fault Refusal :=
  if s.time.inPleat && s.time.isOpen && s.time.length != 0 && !s.time.watched && !s.pleatDone &&
      decide ((s.reg Reg.timPleatStart).toNat + 64000 * s.time.length ≤ s.ft) then
    .next ({ s with time := { s.time with watched := true } }.timEv 1)
  else .next s

/-- STITCH_COMPLETE (R36, R167): the scale unit runs, and the package is at the cinch of its stitch. -/
def execStitchComplete (s : State) : Host.Outcome State Fault Refusal :=
  if s.time.lastEnded then
    let s1 := s.scaleUnit.setRegB Reg.timStatus 2 false
    let s2 := { s1 with time := { s1.time with lastEnded := false, atCinch := true, startCinch := false, sent := false,
                                               dueAt := s1.ft } }
    .next (if s2.regB Reg.timCtrl 3 then s2.tryArrive else s2)
  else .next s

/-- The armed bank switch at the start of a stitch (R48). -/
def State.bankSwitch (s : State) : State :=
  let target := s.reg Reg.timBankSwitch
  if s.regB Reg.timBankCtrl 0 && decide (target.toNat ≤ s.stitch.toNat) then
    let s1 := (s.setRegF Reg.timStatus 12 1 (s.regF Reg.timBankCtrl 1 1)).setRegB Reg.timBankCtrl 0 false
    if s.stitch = target then s1 else s1.timEv 3
  else s

/-- A release is performed (R52, R56): the stitch, STITCH_OUT, the bank switch and pleat 0. What the monitor sets count from now
on belongs to this stitch (R167). -/
def State.beginStitch (s : State) (st : W64) (t : Nat) : State :=
  let s1 := (((s.setReg Reg.timStitch st).setReg Reg.timStitchStart (BitVec.ofNat 64 t)).setReg Reg.timCinchRelease
    (BitVec.ofNat 64 t)).setRegB Reg.timStatus 10 false
  let out := s1.regB Reg.timCtrl 4
  let width := max 20 (s1.reg Reg.timStitchOutW).toNat
  let s2 := { s1 with time := { s1.time with
    atCinch := false, startCinch := false, sent := false, faulted := false, arrived := [], profiles := [], release := none,
    pocketReq := false, pocketFire := s1.time.pocketReq,
    stitchOut := s1.time.stitchOut || out, outEnd := if out then t + 64 * width else s1.time.outEnd } }
  { s2.bankSwitch.beginPleat 0 with monNow := [] }

/-- STITCH_BEGIN (R52): not before T. -/
def execStitchBegin (s : State) : Host.Outcome State Fault Refusal :=
  match s.time.release with
  | some (st, t) => if s.stopped ∨ s.ft < t then .next s else .next (s.beginStitch st t)
  | none => .next s

/-- STITCH_OUT_END (R56): not before the pulse's width has passed. -/
def execStitchOutEnd (s : State) : Host.Outcome State Fault Refusal :=
  if s.ft < s.time.outEnd then .next s else .next { s with time := { s.time with stitchOut := false } }

/-- CINCH_RELEASE (R52 to R54): an identical release is ignored, an unexpected one faults, a late one begins at once. One for
the right stitch with another T while one is scheduled is ignored (log entry 82). -/
def execCinchRelease (m : ReleaseMsg) (s : State) : Host.Outcome State Fault Refusal :=
  if s.node = 0xFFFF ∨ s.time.lastRelease = some (m.stitch, m.t.toNat) then .next s
  else if s.isRoot || !s.time.sent || m.stitch != s.releaseStitch then .next (s.cinchFault 6)
  else if s.time.faulted || s.time.release.isSome || s.stopped then .next s
  else
    let s1 := s.scheduleRelease m
    if m.t.toNat < s.ft then
      .next (((s1.count32 Reg.timCntCinchLate 1).timEv 5).beginStitch m.stitch m.t.toNat)
    else .next s1

/-- BANK_ARM (R48). -/
def execBankArm (v : BitVec 32) (s : State) : Host.Outcome State Fault Refusal :=
  .next (s.bar Reg.timBankCtrl fun s => s.plainWrite Reg.timBankCtrl (v.zeroExtend 64))

/-! ## Launching (R41, R44) -/

/-- Has the signal point of a deadline passed (R41)? -/
def State.deadlinePassed (s : State) (t : Nat) : Bool :=
  decide (t ≤ s.ft + 64 * (s.reg Reg.timDeadlineLead).toNat)

/-- Start the action of a launch: its number is `s.nextAct`. A launch by the table or at a pleat belongs to the pleat,
and its deadline is fixed now (R41). -/
def State.startAct (s : State) (l : Launch) (inPleat : Bool) : State :=
  let dl := if inPleat then l.deadline.map (fun d => s.deadlineAt s.pleatNow d) else none
  let s1 := s.newAct l inPleat
  match s1.actOf s.nextAct with
  | some a => { s1 with acts := Tbl.set none s1.acts s.nextAct (some { a with
      deadline := dl, signalled := match dl with
        | some t => s.deadlinePassed t
        | none => false }) }
  | none => s1

/-- The launch at the head of the queue, where it is of the given type, and the state without it. -/
def State.takeLaunch (s : State) (typ : Nat) : Option (Launch × State) :=
  match s.time.launchQ with
  | l :: q => if l.typ = typ ∧ s.stopped = false then some (l, { s with time := { s.time with launchQ := q } }) else none
  | [] => none

/-- The deadline of an action is signalled to its units (R41). -/
def State.signalDeadline (s : State) (action : Nat) : State :=
  match s.actOf action with
  | some a =>
    if a.deadline.any s.deadlinePassed then { s with acts := Tbl.set none s.acts action (some { a with signalled := true }) } else s
  | none => s

/-- A host signal is complete once its completion entry is written: its one descriptor completes at launch (R45). -/
def State.launchHostSignal (s : State) (l : Launch) (inPleat : Bool) : State :=
  (s.startAct l inPleat).descDone s.nextAct 0 0 0

/-- ACTION_HOST_SIGNAL (R45). -/
def execActionHostSignal (s : State) : Host.Outcome State Fault Refusal :=
  match s.takeLaunch 8 with
  | some (l, s1) => .next (s1.launchHostSignal l true)
  | none => .next s

/-! ## Telemetry (R49, R50) -/

/-- A telemetry sample: one record in slot WP mod COUNT (R50); that of a ring entry due at the pleat was captured as the pleat
began. -/
def State.launchTelemetry (s : State) (l : Launch) (inPleat : Bool) : State :=
  let rec0 := match s.time.samples.find? fun x => !l.table && inPleat && x.1 == l.sring && x.2.1 == l.sidx with
    | some x => x.2.2
    | none => s.teleRecord l.tset inPleat
  let wp := (s.reg (Reg.timTsetWp l.tset)).toNat
  let s1 := (s.startAct l inPleat).store hubReq (l.desc % 2 ^ 48 + 544 * (wp % max 1 l.period)) rec0
  (s1.setReg (Reg.timTsetWp l.tset) (BitVec.ofNat 64 (wp + 1))).descDone s.nextAct 0 0 0

/-- ACTION_TELEMETRY_SAMPLE (R49). -/
def execActionTelemetrySample (s : State) : Host.Outcome State Fault Refusal :=
  match s.takeLaunch 6 with
  | some (l, s1) => .next (s1.launchTelemetry l true)
  | none => .next s

end Sys2Proof.Machine
end

