-- ==== Sys2Proof/Machine/Kill.lean ====
section
/-! DEFINITION. What a quench, the consumption of poison and a power-down stop (R278, R372, R408), and the ports whose
links they close. -/
namespace Sys2Proof.Machine

/-! ## Ports -/

/-- STATE of port `p`: 0 DOWN, 1 TRAINING, 2 UP, 3 DEGRADED. -/
def State.portState (s : State) (p : Nat) : Nat := s.regF (Reg.fabPStatus p) 0 3

/-- How many ports are UP or DEGRADED. -/
def State.portsUp (s : State) : Nat := ((List.range 32).filter fun p => decide (2 ≤ s.portState p)).length

/-- An event of the FAB block: unit the port or node, detail the address. -/
def State.fabEv (s : State) (b : Nat) (unit detail : Option Nat) : State := s.event 8 Reg.fabEvent b unit detail

/-- Put port `p` in a state; FAB_STATUS.PORTS_UP follows, and a port that goes down sets PORT_DOWN. -/
def State.setPort (s : State) (p st : Nat) : State :=
  let was := s.portState p
  let s1 := s.setRegF (Reg.fabPStatus p) 0 3 st
  let s2 := s1.setRegF Reg.fabStatus 8 6 s1.portsUp
  if 2 ≤ was ∧ st = 0 then s2.fabEv 9 p none else s2

/-- Set JOIN of both rings; a shunt is closed exactly while JOIN is 0 (R276). -/
def State.setJoin (s : State) (j : Nat) : State :=
  s.setReg Reg.fabRingCtrl (BitVec.ofNat 64 (j % 4 + (3 - j % 4) * 4))

/-! ## Stopping -/

/-- The buffers reserved for a group (R290). -/
def State.grpRsv (s : State) (g : Nat) : Nat := max 4 (s.regF (Reg.colGCfg g) 16 13)

/-- VALID of a group is cleared: its reservation returns. -/
def State.grpClear (s : State) (g : Nat) : State :=
  let t := (s.reg Reg.colRsvTotal).toNat - s.grpRsv g
  ({ s with colClear := s.colClear.filter fun x => x != g }.setReg Reg.colRsvTotal (BitVec.ofNat 64 t)).setRegB
    (Reg.colGCfg g) 0 false

/-- The groups whose VALID was to be cleared once their collectives had ended are cleared, now that they have (R290). -/
def State.clearGroups (s : State) : State := s.colClear.foldl State.grpClear s

/-- The chunks still outstanding to each node, of a list of chunks. -/
def chunkCounts (l : List ChunkTx) : Tbl Nat := l.foldl (fun t c => Tbl.set 0 t c.dst (Tbl.get 0 t c.dst + 1)) []

/-- Step 1 of R278: the time base stops, no further pleat begins and no arrival is sent (R38). -/
def State.stopTime (s : State) : State :=
  let s1 := (s.setRegB Reg.timStatus 13 true).setRegB Reg.timStatus 2 false
  { s1 with time := { s1.time with
      inPleat := false, launchQ := [], dueRings := [], due := none, lastEnded := false, atCinch := false,
      release := none } }

/-- Every submission ring stops with QUENCHED and its fetched, uncompleted entries are discarded (R340). -/
def State.stopRings (s : State) : State :=
  { s with sq := s.sq.filterMap fun p =>
      let q : SqSt := { p.2 with waiting := [], live := 0 }
      if q = SqSt.init then none else some (p.1, q) }

/-- SQ_STATUS of every enabled ring shows STOPPED with ERR 5. -/
def State.ringsQuenched (s : State) : State :=
  foldN 1024 s fun s i =>
    if s.regB (Reg.sqCfg i) 0 then
      ((s.setRegB (Reg.sqStatus i) 16 true).setRegB (Reg.sqStatus i) 17 false).setRegF (Reg.sqStatus i) 24 8 5
    else s

/-- Step 2 of R278: every action, task, item and program is abandoned and the launch queues are discarded. A drain of a
pocket is no action (R361) and goes on. -/
def State.abandon (s : State) : State :=
  let s1 := (s.stopRings.ringsQuenched.clearGroups.setReg Reg.colStatus 0).setRegB Reg.ckpRstCtrl 0 false
  { s1 with
    acts := []
    tileQ := []
    tileRun := []
    tileHeld := []
    progs := []
    coreQ := []
    engQ := []
    shares := []
    batches := []
    reqs := []
    reqQ := []
    wroteTo := []
    accesses := []
    outst := chunkCounts (s1.chunksTx.filter fun c => c.pocket)
    chunksTx := s1.chunksTx.filter fun c => c.pocket
    chunkQ := s1.chunkQ.filter fun c => c.pocket
    replHeld := []
    dmas := []
    colQ := []
    colRun := []
    colRx := []
    colTx := []
    colCredits := []
    hellos := []
    aborts := []
    substGone := []
    takes := []
    substAsks := []
    relays := []
    ckpQ := []
    ckpRun := none
    pktTx := []
    pktRx := []
    summaries := []
    restore := none }

/-- Step 3 of R278: queued egress flits of the key are discarded, and its arriving flits are dropped from now on. -/
def State.dropTraffic (s : State) (key : Nat) : State :=
  let keep (t : Tbl (List Flit)) : Tbl (List Flit) := t.filterMap fun p =>
    let l := p.2.filter fun f => f.pkey.toNat != key
    if l.isEmpty then none else some (p.1, l)
  { s with dropKey := some key, portQ := keep s.portQ, drainQ := keep s.drainQ }

/-- Steps 1 to 3 of R278 for the package's own key. -/
def State.stopPartition (s : State) : State :=
  (s.stopTime.abandon).dropTraffic (s.regF Reg.fabPkey 0 16)

/-- A MGMT report to each node of a list; 0xFFFF is no node (R24). -/
def State.reportTo (s : State) (ns : List Nat) : State :=
  ns.foldl (fun s n => if n = 0xFFFF then s else s.sendFab (.mgmtReport n)) s

/-- The consumption of poison (R372): the consuming work has ended by itself; POISON_KILL is set and counted, and where
the package has a key of a job it stops itself and reports to the fabric managers. -/
def State.poisonKill (s : State) (unit : Nat) (addr : Nat) : State :=
  let s1 := (s.count64 (Reg.relCnt 6) 1).event 0 Reg.relEvent 7 unit addr
  if s1.regF Reg.fabPkey 0 16 = 0xFFFF then s1
  else s1.stopPartition.reportTo [s1.regF Reg.fabFmNodes 0 16, s1.regF Reg.fabFmNodes 16 16]

end Sys2Proof.Machine
end

