-- ==== Sys2Proof/Machine/Reliab.lean ====
section
/-! DEFINITION. The unit map and fault classification (chapter 15, R373, R374). Remapping and online test stand in Machine/Remap.lean. -/
namespace Sys2Proof.Machine

/-! ## The unit map (R19, R20, R373) -/

/-- The number of kind `k`: 0 tile, 1 core, 2 engine. -/
def kindNo : UnitKind → Nat
  | .tile => 0
  | .core => 1
  | .engine => 2

/-- Physical units of a kind on one die, and logical units of a kind on one die (R16, Table 1-3). -/
def physPerDie : Nat → Nat
  | 0 => 72
  | 1 => 136
  | _ => 17
def logPerDie : Nat → Nat
  | 0 => 64
  | 1 => 128
  | _ => 16

/-- How many logical units of a kind the grade has. -/
def unitsOf (g : Grade) : Nat → Nat
  | 0 => numTiles g
  | 1 => numCores g
  | _ => numEngines g

/-- The key of a logical unit, and of a physical unit of a die. -/
def unitKey (kind u : Nat) : Nat := kind * 1000 + u
def physKey (kind die p : Nat) : Nat := kind * 1000 + die * physPerDie kind + p

/-- The map before any record was read: the lowest physical units are ENABLED and the rest SPARE (log entry 7). -/
def mapDefault (kind p : Nat) : Nat := if p < logPerDie kind then 1 else 2

/-- The state of a physical unit: 0 FAILED, 1 ENABLED, 2 SPARE. -/
def State.physState (s : State) (kind die p : Nat) : Nat :=
  Tbl.get (mapDefault kind p) s.unitMap (physKey kind die p)
def State.setPhysState (s : State) (kind die p st : Nat) : State :=
  let marks := s.failedMarks.filter fun k => k != physKey kind die p
  let key := physKey kind die p
  { s with
    unitMap := Tbl.set (mapDefault kind p) s.unitMap key st
    failedMarks := if st = 0 then marks ++ [key] else s.failedMarks }

/-- The die of a logical unit, and the physical index that carries it. -/
def dieOf (kind u : Nat) : Nat := u / logPerDie kind
def State.physOf (s : State) (kind u : Nat) : Nat := Tbl.get (u % logPerDie kind) s.physMap (unitKey kind u)
def State.setPhysOf (s : State) (kind u p : Nat) : State :=
  { s with physMap := Tbl.set (u % logPerDie kind) s.physMap (unitKey kind u) p }

/-- The logical unit that a physical unit carries. -/
def State.logicalOf (s : State) (kind die p : Nat) : Option Nat :=
  (upFrom (die * logPerDie kind) (logPerDie kind)).find? fun u =>
    decide (u < unitsOf s.grade kind) && s.physOf kind u == p && s.physState kind die p == 1

/-- Is a logical unit parked (R375)? -/
def State.isParked (s : State) (kind u : Nat) : Bool := Tbl.get false s.parked (unitKey kind u)

/-- An event of the REL registers. -/
def State.relEv (s : State) (b unit detail : Nat) : State := s.event 0 Reg.relEvent b unit detail

/-! ## Fault classification (R373) -/

/-- 24 hours in 1/64 ns. -/
def day : Nat := 86400 * 64000000000

/-- Resource kinds of REL_LAST: 0 to 2 units, 3 seam, 4 fixed SRAM; the key of a resource's record. -/
def resKey (kind die p : Nat) : Nat := if kind ≤ 2 then physKey kind die p else kind * 1000 + die * 100 + p

/-- Bytes 24 to 31 of a fault's log record, and REL_LAST. -/
def resWord (kind die p : Nat) : Nat := kind + die * 16 + p * 65536

/-- A resource becomes lasting: it is classified, counted and logged. -/
def State.classify (s : State) (kind die p : Nat) : State :=
  let s1 := { s with lastingRes := Tbl.set false s.lastingRes (resKey kind die p) true }
  ((s1.setReg Reg.relLast (BitVec.ofNat 64 (resWord kind die p))).count64 (Reg.relCnt 3) 1).relEv
    (if kind = 3 then 1 else 0) kind (resWord kind die p)

/-- One event of a resource: logged; the fourth within 24 hours of the oldest of the last three, or an event that counts
at once, makes it lasting. Events at one fabric time count once. The event bit of the record of a mere event is a free
value (log entry 8). -/
def State.fault (s : State) (kind die p : Nat) (atOnce : Bool) : State :=
  let k := resKey kind die p
  let times := Tbl.get [] s.faultLog k
  let s0 := s.logPlain 0 kind (some (resWord kind die p))
  if atOnce then s0.classify kind die p
  else if times.getLast? = some s.ft then s0
  else if times.length = 3 ∧ s.ft - times.headD 0 ≤ day then
    ({ s0 with faultLog := Tbl.set [] s0.faultLog k ((times ++ [s.ft]).drop 1) }).classify kind die p
  else
    let t := times ++ [s.ft]
    { s0 with faultLog := Tbl.set [] s0.faultLog k (if t.length = 4 then t.drop 1 else t) }

/-- An event of the physical unit that carries a logical unit. -/
def State.unitFault (s : State) (kind u : Nat) (atOnce : Bool) : State :=
  s.fault kind (dieOf kind u) (s.physOf kind u) atOnce

/-! ## Remapping (R374) -/

/-- The lowest SPARE physical unit of a die that is outside a range of physical indices. -/
def State.spare (s : State) (kind die lo n : Nat) : Option Nat :=
  (List.range (physPerDie kind)).find? fun p => s.physState kind die p == 2 && !(decide (lo ≤ p) && decide (p < lo + n))

/-- The unit map changed: HUB_UNITMAP_GEN, REMAPPED, the REMAP event of the hub and the counter. -/
def State.mapChanged (s : State) (kind u : Nat) : State :=
  (((s.count32 Reg.hubUnitmapGen 1).count64 (Reg.relCnt 4) 1).relEv 2 kind u).event 0 Reg.hubEvent 6 kind u

/-! ## The groups of an online test (R375) -/

/-- The physical units of a group: the first and how many. -/
def groupUnits (kind target : Nat) : Nat × Nat :=
  match kind with
  | 0 => (8 * target, 8)
  | 1 => (17 * target, 17)
  | _ => if target = 0 then (0, 9) else (9, 8)

/-- The power domain of a group (Table 17-1). -/
def groupDomain (kind die target : Nat) : Nat :=
  match kind with
  | 0 => 11 * die + target
  | 1 => 44 + 12 * die + target
  | 2 => 44 + 12 * die + 8 + target
  | _ => 68 + target

/-- The state of a power domain: 0 OFF, 1 ON, 2 RETENTION. -/
def State.setDom (s : State) (n st : Nat) : State := s.setRegF (Reg.pwrDom n) 0 2 st

/-! ## Seams (R18, R373) -/

/-- SEAM_INTERVAL: the corrected words of the interval against SEAM_LIMIT; then a new interval. -/
def execSeamInterval (sm : Fin 11) (s : State) : Host.Outcome State Fault Refusal :=
  let n := Tbl.get 0 s.seamNow sm
  let s1 := { s with seamNow := Tbl.set 0 s.seamNow sm 0 }
  .next (if s.regF Reg.relCfg 8 8 < n then s1.fault 3 0 sm false else s1)

end Sys2Proof.Machine
end

