-- ==== Sys2Proof/Machine/Rng.lean ====
section
/-! DEFINITION. The bobbin generator (R213, R216): a draw as a pure function of its six inputs. -/
namespace Sys2Proof.Machine

/-- What a task, program or fill samples once when it starts, and its stream and draw number (R213 to R215). -/
structure DrawKey where
  seed : W64
  stream : W32
  stitch : W32
  purpose : Nat
  draw : Nat
  deriving DecidableEq, Repr

/-- The counter and key words of a round: x0 to x3, k0, k1. -/
structure RoundWords where
  x0 : W32
  x1 : W32
  x2 : W32
  x3 : W32
  k0 : W32
  k1 : W32
  deriving DecidableEq, Repr

/-- One round of the generator (R216). -/
def bobbinRound (r : RoundWords) : RoundWords :=
  let p0 := 0xCA5E1D3B * r.x0.toNat
  let p1 := 0xE1F39A57 * r.x2.toNat
  { x0 := BitVec.ofNat 32 (p1 / 2 ^ 32) ^^^ r.x1 ^^^ r.k0
    x1 := BitVec.ofNat 32 p1
    x2 := BitVec.ofNat 32 (p0 / 2 ^ 32) ^^^ r.x3 ^^^ r.k1
    x3 := BitVec.ofNat 32 p0
    k0 := r.k0 + 0x8F1BBCDD
    k1 := r.k1 + 0xD3A2646F }

/-- `n` rounds. -/
def bobbinRounds : Nat → RoundWords → RoundWords
  | 0, r => r
  | n + 1, r => bobbinRounds n (bobbinRound r)

/-- The four output words y0 to y3 of a draw (R213, R216). -/
def bobbin (k : DrawKey) (index : Nat) : List W32 :=
  let r := bobbinRounds 10
    { x0 := BitVec.ofNat 32 index, x1 := BitVec.ofNat 32 (index / 2 ^ 32), x2 := k.stitch,
      x3 := BitVec.ofNat 32 (k.purpose % 256 * 2 ^ 24 + k.draw % 2 ^ 24),
      k0 := k.seed.truncate 32 ^^^ k.stream, k1 := (k.seed >>> 32).truncate 32 }
  [r.x0, r.x1, r.x2, r.x3]

/-- Output word `w` of a draw as a number. -/
def bobbinWord (k : DrawKey) (index w : Nat) : Nat := ((bobbin k index).getD w 0).toNat

/-- The rounding draw R of an element: y0[23:0] with purpose 0x01 (R73). -/
def roundDraw (k : DrawKey) (index : Nat) : Nat := bobbinWord { k with purpose := 1 } index 0 % 2 ^ 24

/-- The uniform value of a 32-bit word: (2 y[31:9] + 1) × 2^−24 (R221). -/
def uniformNum (y : Nat) : Num := .fin (2 * (y / 2 ^ 9) + 1 : Nat) (-24)

end Sys2Proof.Machine
end

