-- ==== Sys2Proof/Machine/TileMath.lean ====
section
/-! DEFINITION. The arithmetic of the tensor tiles (chapter 04): operands, anchors, anchored accumulation, slicing and
the output converter. -/
namespace Sys2Proof.Machine

/-- The little-endian field of `n` bytes at `off` of a byte string. -/
def lef (bs : List Byte) (off n : Nat) : Nat := bytesNat ((bs.drop off).take n)

/-- Bits [lo + len − 1 : lo] of a number. -/
def nf (v lo len : Nat) : Nat := v / 2 ^ lo % 2 ^ len

/-- Run a state-changing step for `n` indices from `i` on, in rising order, and collect what each gives. -/
def mapN {α : Type} (f : State → Nat → State × α) : Nat → Nat → State → State × List α
  | 0, _, s => (s, [])
  | n + 1, i, s =>
    let r := f s i
    let q := mapN f n (i + 1) r.1
    (q.1, r.2 :: q.2)

/-! ## The descriptor (Table 4-6) -/

/-- A tile task descriptor. -/
structure TDesc where
  ctrl : Nat
  tile : Nat
  afmt : Nat
  bfmt : Nat
  m : Nat
  n : Nat
  k : Nat
  ocw : Nat
  waitId : Nat
  signalId : Nat
  waitCount : Nat
  aAddr : Nat
  bAddr : Nat
  cAddr : Nat
  aPitch : Nat
  bPitch : Nat
  cPitch : Nat
  stream : Nat
  aScale : Nat
  bScale : Nat
  cScale : Nat
  epi : Nat
  anch : Nat
  clipLo : Nat
  clipHi : Nat
  elemBase : Nat
  draw : Nat
  elemLd : Nat
  deriving DecidableEq, Repr

/-- Read a descriptor from its 128 bytes. -/
def tdescOf (b : List Byte) : TDesc :=
  { ctrl := lef b 0 4, tile := lef b 4 2, afmt := lef b 6 1, bfmt := lef b 7 1, m := lef b 8 2, n := lef b 10 2,
    k := lef b 12 4, ocw := lef b 16 4, waitId := lef b 20 1, signalId := lef b 21 1, waitCount := lef b 22 2,
    aAddr := lef b 24 8, bAddr := lef b 32 8, cAddr := lef b 40 8, aPitch := lef b 48 4, bPitch := lef b 52 4,
    cPitch := lef b 56 4, stream := lef b 60 4, aScale := lef b 64 8, bScale := lef b 72 8, cScale := lef b 80 8,
    epi := lef b 88 8, anch := lef b 96 8, clipLo := lef b 104 4, clipHi := lef b 108 4, elemBase := lef b 112 8,
    draw := lef b 120 4, elemLd := lef b 124 4 }

/-- CTRL fields (Table 4-7). -/
def TDesc.kind (d : TDesc) : Nat := nf d.ctrl 0 4
def TDesc.anchExt (d : TDesc) : Bool := nf d.ctrl 4 1 == 1
def TDesc.abftOff (d : TDesc) : Bool := nf d.ctrl 5 1 == 1
def TDesc.colMajor (d : TDesc) : Bool := nf d.ctrl 6 1 == 1
def TDesc.accHold (d : TDesc) : Bool := nf d.ctrl 7 1 == 1
def TDesc.slices (d : TDesc) : Nat := nf d.ctrl 8 4

/-- OCW fields (Table 3-4). -/
def TDesc.ofmt (d : TDesc) : Nat := nf d.ocw 0 5
def TDesc.ornd (d : TDesc) : Nat := nf d.ocw 5 2
def TDesc.satinf (d : TDesc) : Bool := nf d.ocw 7 1 == 1
def TDesc.rscale (d : TDesc) : Bool := nf d.ocw 8 1 == 1
def TDesc.cscale (d : TDesc) : Bool := nf d.ocw 9 1 == 1
def TDesc.obias (d : TDesc) : Nat := nf d.ocw 10 2
def TDesc.hasLo (d : TDesc) : Bool := nf d.ocw 12 1 == 1
def TDesc.hasHi (d : TDesc) : Bool := nf d.ocw 13 1 == 1
def TDesc.omon (d : TDesc) : Bool := nf d.ocw 14 1 == 1

/-- The rounding mode of a two-bit code (R69). -/
def rndOf : Nat → Rnd
  | 1 => .rtz
  | 2 => .sr
  | _ => .rne

/-! ## Judging a descriptor (R58, R69, R97, R100, R101, R108, R112) -/

/-- The element format and whether scales go with it, of a format code that names elements. -/
def elemFmt (code : Nat) : Option (Fmt × Bool) :=
  match fmtOfCode code with
  | some (.plain f) => some (f, false)
  | some (.mx f) => some (f, true)
  | _ => none

/-- The bytes of `n` elements of a format code; partials are `psize` bytes. -/
def lineBytes (code psize n : Nat) : Option Nat :=
  if code = 0x1F then some (psize * n) else (elemFmt code).map fun p => (p.1.width * n + 7) / 8

/-- The size of a partial: 16 bytes, and 32 bytes of a sliced product (Table 4-4). -/
def TDesc.psize (d : TDesc) : Nat := if d.kind = 2 ∨ (d.kind = 4 ∧ d.bfmt = 0) then 32 else 16

/-- Reserved bits and fields of the descriptor are 0. -/
def TDesc.reservedOk (d : TDesc) : Bool :=
  nf d.ctrl 12 12 == 0 && d.afmt / 32 == 0 && d.bfmt / 32 == 0 && d.ocw / 2 ^ 15 == 0 && d.draw / 2 ^ 24 == 0

/-- The fields that the kind does not use are 0 (R108, R154). -/
def TDesc.unusedOk (d : TDesc) : Bool :=
  match d.kind with
  | 3 => !d.colMajor && !d.accHold && !d.anchExt && d.slices == 0 && [d.ocw, d.cAddr, d.cPitch, d.cScale, d.epi,
      d.clipLo, d.clipHi, d.stream, d.elemBase, d.draw, d.elemLd].all fun x => x == 0
  | 4 => !d.accHold && !d.anchExt && d.slices == 0 &&
      [d.bPitch, d.aScale, d.bScale, d.anch].all fun x => x == 0
  | 5 => d.slices == 0 && [d.afmt, d.bfmt, d.ocw, d.aPitch, d.bPitch, d.cPitch, d.aScale, d.bScale, d.cScale, d.epi,
      d.anch, d.clipLo, d.clipHi, d.elemLd].all fun x => x == 0
  | _ => true

/-- A byte range of global fabric addresses, with the package's own node number in place of 0xFFFF. -/
def State.gspan (s : State) (ga n : Nat) : Nat × Nat := (s.canonAddr ga, s.canonAddr ga + n)

/-- Do two byte ranges overlap? -/
def spansMeet (a b : Nat × Nat) : Bool := decide (a.1 < b.2) && decide (b.1 < a.2)

/-- The extent of `lines` lines of `len` bytes at a pitch. -/
def extent (lines pitch len : Nat) : Nat := (lines - 1) * pitch + len

/-- Does the range of C overlap a range that the task reads (R108)? -/
def State.tdescOverlap (s : State) (d : TDesc) : Bool :=
  if d.kind = 3 then false else
  if d.kind = 5 then
    let c := s.gspan d.cAddr 296960
    spansMeet c (s.gspan d.aAddr 1) || spansMeet c (s.gspan d.bAddr 1)
  else
  let lines := if d.colMajor then d.n else d.m
  let len := if d.colMajor then d.m else d.n
  match lineBytes d.ofmt d.psize len with
  | none => false
  | some cb =>
    let c := s.gspan d.cAddr (extent lines d.cPitch cb)
    let operand (code ga pitch n sga : Nat) : List (Nat × Nat) :=
      match elemFmt code with
      | some (f, mx) => [s.gspan ga (extent n pitch ((f.width * d.k + 7) / 8))] ++
          (if mx then [s.gspan sga (n * ceilDiv d.k 32)] else [])
      | none => []
    let ops := if d.kind = 4 then
        (List.range d.k).map fun i => s.gspan (d.aAddr + i * d.bAddr) (extent d.m d.aPitch (d.psize * d.n))
      else operand d.afmt d.aAddr d.aPitch d.m d.aScale ++ operand d.bfmt d.bAddr d.bPitch d.n d.bScale ++
        (if d.anchExt then [s.gspan d.anch (2 * (d.m + d.n))] else [])
    let epis := (if d.rscale then [s.gspan d.epi (4 * d.m)] else []) ++
      (if d.cscale then [s.gspan (d.epi + 4 * d.m) (4 * d.n)] else []) ++
      (if d.obias = 1 then [s.gspan (d.epi + 4 * d.m + 4 * d.n) (4 * d.n)] else []) ++
      (if d.obias = 2 then [s.gspan (d.epi + 4 * d.m + 4 * d.n) (4 * d.m)] else [])
    (ops ++ epis).any (spansMeet c)

/-- Is a pitch too small for the row or column it holds? -/
def TDesc.pitchOk (d : TDesc) : Bool :=
  let fits (code psize n pitch : Nat) : Bool := match lineBytes code psize n with
    | some b => decide (b ≤ pitch)
    | none => true
  match d.kind with
  | 3 => fits d.afmt 16 d.k d.aPitch && fits d.bfmt 16 d.k d.bPitch
  | 4 => decide (d.psize * d.n ≤ d.aPitch) && fits d.ofmt d.psize (if d.colMajor then d.m else d.n) d.cPitch
  | 5 => true
  | _ => fits d.afmt 16 d.k d.aPitch && fits d.bfmt 16 d.k d.bPitch &&
      fits d.ofmt d.psize (if d.colMajor then d.m else d.n) d.cPitch

/-- May a format code be a matrix operand (Table 3-1)? -/
def matrixCode (c : Nat) : Bool := (decide (1 ≤ c) && decide (c ≤ 0x0A)) || (decide (0x10 ≤ c) && decide (c ≤ 0x14))

/-- May a format code be the converter's output (Table 3-1)? -/
def outputCode (c : Nat) : Bool := decide (c ≤ 0x0B) || (decide (0x10 ≤ c) && decide (c ≤ 0x14)) || c == 0x1F

/-- Is a clip bound a NaN? -/
def nanB32 (x : Nat) : Bool := (decodeNum .b32 x).isNan

/-- The formats and the OCW are accepted. -/
def TDesc.formatOk (d : TDesc) : Bool :=
  let ocw := outputCode d.ofmt && d.ornd != 3 && d.obias != 3 && !(d.hasLo && nanB32 d.clipLo) &&
    !(d.hasHi && nanB32 d.clipHi)
  match d.kind with
  | 1 => matrixCode d.afmt && matrixCode d.bfmt && ocw
  | 2 => d.afmt == 0 && d.bfmt == 0 && ocw && (d.ofmt == 0 || d.ofmt == 1 || d.ofmt == 0x1F)
  | 3 => (matrixCode d.afmt || d.afmt == 0) && (matrixCode d.bfmt || d.bfmt == 0)
  | 4 => d.afmt == 0x1F && (d.bfmt == 0x1F || d.bfmt == 0) && ocw
  | _ => true

/-- Is the descriptor malformed by R108, TILE aside? -/
def State.tdescMalformed (s : State) (d : TDesc) : Bool :=
  !(decide (1 ≤ d.kind) && decide (d.kind ≤ 5)) || d.m == 0 || d.n == 0 || d.k == 0 ||
    decide ((if d.kind = 4 then 65535 else 2 ^ 24) < d.k) ||
    (if d.kind = 2 then !(decide (5 ≤ d.slices) && decide (d.slices ≤ 8)) else d.slices != 0) ||
    [d.aAddr, d.bAddr, d.cAddr, d.aPitch, d.bPitch, d.cPitch].any (fun x => x % 64 != 0) || !d.pitchOk ||
    (d.accHold && (!(d.kind == 1 || d.kind == 2) || decide (128 < d.m) || decide (64 < d.n))) ||
    !d.reservedOk || !d.unusedOk || s.tdescOverlap d

/-- The status of Table 4-9 that refuses a descriptor, 0 where it is accepted. -/
def State.tdescJudge (s : State) (d : TDesc) : Nat :=
  if s.tdescMalformed d || decide (255 < d.tile) then 0x20 else if !d.formatOk then 0x21 else 0

/-! ## Operands (R84, R86, R87) -/

/-- A row of A or a column of B: its decoded elements without block scales, the scale bytes of its blocks, and whether a
granule it draws on is poison. -/
structure OpVec where
  elems : List Num
  scales : List Nat
  mx : Bool
  poison : Bool
  deriving DecidableEq, Repr

/-- Read an operand line of `k` elements. -/
def State.readLine (s : State) (r : Req) (code ga k sga : Nat) : State × OpVec :=
  match elemFmt code with
  | none => (s, ⟨[], [], false, false⟩)
  | some (f, mx) =>
    let n := (f.width * k + 7) / 8
    let d := s.gload r ga n
    let s1 := s.gloadSt r ga n
    let els := (List.range k).map fun i => decodeNum f (elemOf f.width d.1 i)
    if mx then
      let q := s1.gload r sga (ceilDiv k 32)
      (s1.gloadSt r sga (ceilDiv k 32), ⟨els, q.1.map (fun b => b.toNat), true, d.2 || q.2⟩)
    else (s1, ⟨els, [], false, d.2⟩)

/-- Element `k` with its block scale applied: NAN in a block of scale 0xFF (R66). -/
def OpVec.scaled (v : OpVec) (k : Nat) : Num :=
  let x := v.elems.getD k .zero
  if v.mx then
    let sc := v.scales.getD (k / 32) 0
    if sc = 0xFF then .nan else x.scale ((sc : Int) - 127)
  else x

/-- xexp of a FIN element (R86). -/
def Num.xexp : Num → Option Int
  | .fin m e => if m = 0 then none else some ((log2 m.natAbs : Int) + e + 1)
  | _ => none

/-- The sentinel anchor of a line with no FIN element (R87). -/
abbrev noAnchor : Int := -32768

/-- The anchor of a line (R87). -/
def OpVec.anchor (v : OpVec) : Int :=
  (List.range v.elems.length).foldl (fun a k => match (v.scaled k).xexp with
    | some x => max a x
    | none => a) noAnchor

/-- An anchor as it counts in a sum (R87). -/
def anchorTerm (a : Int) : Int := if a = noAnchor then 0 else a

/-! ## Anchored accumulation (R87 to R89) -/

/-- The class bits of Table 4-4. -/
abbrev clsNan : Nat := 1
abbrev clsPinf : Nat := 2
abbrev clsNinf : Nat := 4

/-- The class bit of a term. -/
def Num.clsBit : Num → Nat
  | .nan => clsNan
  | .inf false => clsPinf
  | .inf true => clsNinf
  | .fin _ _ => 0

/-- A term in window units, truncated toward zero (R88), and whether it lost bits. -/
def truncTerm (w : Int) : Num → Int × Bool
  | .fin m e =>
    let d := e - w
    if 0 ≤ d then (m * 2 ^ d.toNat, false)
    else
      let q := m.natAbs / 2 ^ (-d).toNat
      (if m < 0 then -(q : Int) else q, decide (m.natAbs % 2 ^ (-d).toNat ≠ 0))
  | _ => (0, false)

/-- What accumulates: the integer, the class bits and the count of inexact terms. -/
structure AccSum where
  acc : Int
  cls : Nat
  inexact : Nat
  deriving DecidableEq, Repr

/-- Add one term (R88, R89). -/
def AccSum.add (w : Int) (a : AccSum) (t : Num) : AccSum :=
  let r := truncTerm w t
  { acc := a.acc + r.1, cls := a.cls ||| t.clsBit, inexact := a.inexact + bnat r.2 }

/-- The terms of an element: one for each k, or one for each MX block of k (R66, R88). -/
def termsOf (a b : OpVec) (k : Nat) : List Num :=
  if a.mx || b.mx then
    (List.range (ceilDiv k 32)).map fun blk =>
      let ks := upFrom (32 * blk) (min 32 (k - 32 * blk))
      let part := ks.foldl (fun acc i => acc.add ((a.elems.getD i .zero).mul (b.elems.getD i .zero))) Num.zero
      let sc (v : OpVec) : Num := if v.mx then decodeE8m0 (v.scales.getD blk 0) else .fin 1 0
      if (sc a).isNan || (sc b).isNan then .nan else part.mul ((sc a).mul (sc b))
  else (List.range k).map fun i => (a.elems.getD i .zero).mul (b.elems.getD i .zero)

/-- One element of a matrix product with anchors `ra`, `cb` (R87 to R89). -/
def matElem (a b : OpVec) (k : Nat) (ra cb : Int) : AccEl × Nat :=
  let e := anchorTerm ra + anchorTerm cb + 24
  let r := (termsOf a b k).foldl (AccSum.add (e - 94)) ⟨0, 0, 0⟩
  (⟨r.acc, r.cls, e, a.poison || b.poison⟩, r.inexact)

/-- The value an accumulator delivers to the converter (R89, R100); `unit` is the exponent of its lowest bit. -/
def AccEl.value (x : AccEl) (unit : Int) : Num :=
  let nan := x.cls % 2 == 1
  let p := x.cls / 2 % 2 == 1
  let n := x.cls / 4 % 2 == 1
  if nan || (p && n) then .nan else if p then .inf false else if n then .inf true
  else if x.acc = 0 then .zero else .fin x.acc unit

/-- The unit exponent of a held or combined element: of E_ij less 94, or of F_ij (R87, R99). -/
def unitOf (slices : Nat) (x : AccEl) : Int := if slices = 0 then x.ex - 94 else x.ex

/-! ## Slicing (R98 to R101) -/

/-- An integer rounded from m × 2^e, ties to even. -/
def rneInt (m e : Int) : Int :=
  let n := roundSig .rne 0 m.natAbs (-e)
  if m < 0 then -(n : Int) else n

/-- The slices from the least significant up: the loop of R98. -/
def sliceLoop : Nat → Int → List Int
  | 0, _ => []
  | 1, x => [x]
  | n + 2, x =>
    let b := x % 256
    let d := if 128 ≤ b then b - 256 else b
    d :: sliceLoop (n + 1) ((x - d) / 256)

/-- d[1] to d[s] of an element, all 0 where it is not FIN. -/
def slicesOf (n : Nat) (ra : Int) : Num → List Int
  | .fin m e => (sliceLoop n (rneInt m (e + (8 * n - 2 - ra)))).reverse
  | _ => List.replicate n 0

/-- The sum of products of slice p of one line with slice q of the other. -/
def sliceDot (p q : Nat) (as bs : List (List Int)) : Int :=
  (as.zip bs).foldl (fun acc t => acc + t.1.getD p 0 * t.2.getD q 0) 0

/-- One element of a sliced product (R99). -/
def slicedElem (a b : OpVec) (n : Nat) (ra cb : Int) : AccEl :=
  let as := a.elems.map (slicesOf n (anchorTerm ra))
  let bs := b.elems.map (slicesOf n (anchorTerm cb))
  let pairs := (upFrom 2 n).flatMap fun t => (upFrom 1 (t - 1)).map fun p => (p, t - p)
  let sum := pairs.foldl (fun acc pq =>
    acc + sliceDot (pq.1 - 1) (pq.2 - 1) as bs * 2 ^ (8 * (2 * n - (pq.1 + pq.2)))) 0
  let cls := (a.elems.zip b.elems).foldl (fun c p => c ||| (p.1.mul p.2).clsBit) 0
  ⟨sum, cls, anchorTerm ra + anchorTerm cb - 16 * n + 4, a.poison || b.poison⟩

/-! ## Exact checking (R102, R103)

Only an evaluation with a hardware error in it is checked here: without one, both sides of every comparison are equal. -/

/-- The modulus of the residues. -/
abbrev resP : Nat := 2147483647

/-- The residue of an operand against its anchor (R102): 0 where it is not FIN. Multiplying by 2^x is a rotation by x mod 31. -/
def residueOf (anchor : Int) : Num → Int
  | .fin m e => m * 2 ^ ((e - anchorTerm anchor + 35) % 31).toNat % resP
  | _ => 0

/-- A sum of integers. -/
def sumInt (l : List Int) : Int := l.foldl (fun a x => a + x) 0

/-- The residues of rows and columns against the accumulators' (R102): for each row Σ_k α_k × (Σ_j β_kj) with Σ_j acc_j, and for
each column Σ_k (Σ_i α_ik) × β_k with Σ_i acc_i. -/
def residuesMatch (as bs accs : List (List Int)) : Bool :=
  let at_ (k : Nat) (ls : List (List Int)) : Int := sumInt (ls.map fun l => l.getD k 0)
  let dot (l : List Int) (other : List (List Int)) : Int := sumInt (l.zipIdx.map fun x => x.1 * at_ x.2 other)
  ((as.zip accs).all fun p => (dot p.1 bs - sumInt p.2) % resP == 0) &&
    bs.zipIdx.all fun p => (dot p.1 as - at_ p.2 accs) % resP == 0

/-- The errors that strike what `term` names of an element of a block. -/
def errAt (fs : List ArrayFault) (row col : Nat) (term : Option Nat) : Int :=
  sumInt ((fs.filter fun f => f.row == row && f.col == col && f.term == term).map fun f => f.err)

/-- The terms of an element with the errors of the multipliers. -/
def faultTerms (fs : List ArrayFault) (row col : Nat) (ts : List Num) : List Num :=
  ts.zipIdx.map fun t => match t.1 with
    | .fin m e => .fin (m + errAt fs row col (some t.2)) e
    | x => x

/-- One element of a matrix product with the errors that strike it: the sum of its truncated terms before the accumulator's
error, the element, and its inexact terms. -/
def faultyMat (fs : List ArrayFault) (row col : Nat) (a b : OpVec) (k : Nat) (ra cb : Int) : Int × AccEl × Nat :=
  let e := anchorTerm ra + anchorTerm cb + 24
  let r := (faultTerms fs row col (termsOf a b k)).foldl (AccSum.add (e - 94)) ⟨0, 0, 0⟩
  (r.acc, ⟨r.acc + errAt fs row col none, r.cls, e, a.poison || b.poison⟩, r.inexact)

/-- The slice pairs of a sliced product in the order of its passes (R99). -/
def slicePairs (n : Nat) : List (Nat × Nat) := (upFrom 2 n).flatMap fun t => (upFrom 1 (t - 1)).map fun p => (p, t - p)

/-- The sum of pass number `i` of an element of a sliced product with the errors that strike it. -/
def faultyPass (fs : List ArrayFault) (row col i : Nat) (pq : Nat × Nat) (as bs : List (List Int)) : Int :=
  sliceDot (pq.1 - 1) (pq.2 - 1) as bs + errAt fs row col (some i)

/-- The slices of a line. -/
def OpVec.slices (v : OpVec) (n : Nat) (anchor : Int) : List (List Int) := v.elems.map (slicesOf n (anchorTerm anchor))

/-- One element of a sliced product with the errors that strike it. -/
def faultySliced (fs : List ArrayFault) (row col : Nat) (a b : OpVec) (n : Nat) (ra cb : Int) : AccEl :=
  let x := slicedElem a b n ra cb
  let extra := sumInt ((slicePairs n).zipIdx.map fun p =>
    errAt fs row col (some p.2) * 2 ^ (8 * (2 * n - (p.1.1 + p.1.2))))
  { x with acc := x.acc + extra + errAt fs row col none }

/-! ## The output converter (R70, R71, R77, R78, R107) -/

/-- A binary32 read for the converter, with whether its granule is poison. -/
abbrev EpiVal := Num × Bool

/-- Read `n` binary32 values, each for itself. -/
def State.readEpi (s : State) (r : Req) (ga n : Nat) : State × List EpiVal :=
  mapN (fun s i =>
    let q := s.gload r (ga + 4 * i) 4
    (s.gloadSt r (ga + 4 * i) 4, (decodeNum .b32 (bytesNat q.1), q.2))) n 0 s

/-- The scale and bias vectors of a task. -/
structure Epi where
  rows : List EpiVal
  cols : List EpiVal
  bias : List EpiVal
  deriving DecidableEq, Repr

/-- Read the scale and bias vectors that the OCW uses (Table 4-6). -/
def State.readEpis (s : State) (r : Req) (d : TDesc) : State × Epi :=
  let a := if d.rscale then s.readEpi r d.epi d.m else (s, [])
  let b := if d.cscale then a.1.readEpi r (d.epi + 4 * d.m) d.n else (a.1, [])
  let c := if d.obias = 0 then (b.1, [])
    else b.1.readEpi r (d.epi + 4 * d.m + 4 * d.n) (if d.obias = 1 then d.n else d.m)
  (c.1, ⟨a.2, b.2, c.2⟩)

/-- Steps 1 to 3 of R70 for element (i, j): the value and whether a vector element it draws on is poison. -/
def convSteps (d : TDesc) (e : Epi) (i j : Nat) (v : Num) : Num × Bool :=
  let one : EpiVal := (.fin 1 0, false)
  let r := if d.rscale then e.rows.getD i one else one
  let c := if d.cscale then e.cols.getD j one else one
  let b := if d.obias = 0 then (Num.zero, false) else e.bias.getD (if d.obias = 1 then j else i) (.zero, false)
  let z := ((v.mul r.1).mul c.1).add b.1
  let z1 := if d.hasLo then z.max (decodeNum .b32 d.clipLo) else z
  let z2 := if d.hasHi then z1.min (decodeNum .b32 d.clipHi) else z1
  (z2, r.2 || c.2 || b.2)

/-- The draw of an element under SR (R73, R107). -/
def tileDraw (k : DrawKey) (d : TDesc) (i j : Nat) : Nat :=
  roundDraw k ((d.elemBase + (if d.colMajor then j * d.elemLd + i else i * d.elemLd + j)) % 2 ^ 64)

/-- An element on its way out: position, accumulator, converted value and whether it is written as poison. -/
structure OutEl where
  i : Nat
  j : Nat
  acc : AccEl
  z : Num
  poison : Bool
  deriving DecidableEq, Repr

/-- The encodings and events of the elements of one line, in plain formats. -/
def encodePlain (k : DrawKey) (d : TDesc) (f : Fmt) (xs : List OutEl) : List (Nat × Ev) :=
  xs.map fun x =>
    let r := if rndOf d.ornd = .sr ∧ inexactIn f x.z then tileDraw k d x.i x.j else 0
    roundTo f (rndOf d.ornd) d.satinf r x.z

/-- The encodings and events of the elements of one MX block: its scale byte first (R78). Poisoned elements count as
zeros. -/
def encodeMx (k : DrawKey) (d : TDesc) (f : Fmt) (xs : List OutEl) : Nat × List (Nat × Ev) :=
  encodeBlock f (rndOf d.ornd) d.satinf
    (fun p => match xs[p]? with
      | some x => if rndOf d.ornd = .sr then tileDraw k d x.i x.j else 0
      | none => 0)
    (xs.map fun x => if x.poison then Num.zero else x.z)

/-- Split a list into chunks of `n`, given fuel. -/
def chunks {α : Type} (n : Nat) : Nat → List α → List (List α)
  | 0, _ => []
  | _, [] => []
  | fuel + 1, x :: xs => ((x :: xs).take n) :: chunks n fuel ((x :: xs).drop n)

/-- Store packed elements of `w` bits from a global address on: sector by sector, a sector that holds any bit of a
poisoned element as poison (R371). Bits of the last byte beyond the last element keep what memory holds. -/
def State.storeElems (s : State) (r : Req) (ga w : Nat) (xs : List (Nat × Bool)) : State :=
  let bits := w * xs.length
  let n := (bits + 7) / 8
  let packed := packElems w (xs.map Prod.fst)
  let bytes := if bits % 8 = 0 then packed else
    let old := bytesNat (s.gload r (ga + n - 1) 1).1
    packed.take (n - 1) ++ natBytes 1 (bytesNat (packed.drop (n - 1)) % 2 ^ (bits % 8) +
      old / 2 ^ (bits % 8) * 2 ^ (bits % 8))
  let s := if bits % 8 = 0 then s else s.gloadSt r (ga + n - 1) 1
  (sectors ga n).foldl (fun s p =>
    let lo := 8 * p.2.1 / w
    let hi := min xs.length ((8 * (p.2.1 + p.2.2) + w - 1) / w)
    let poison := ((xs.drop lo).take (hi - lo)).any Prod.snd
    s.gstore r p.1 ((bytes.drop p.2.1).take p.2.2) poison) s

/-- The bytes of an anchored partial as a number (Table 4-4). An E or F outside i16, which large supplied anchors can give, is
written modulo 2^16 (log entry 83). -/
def partialNum (psize slices : Nat) (x : AccEl) : Nat :=
  if psize = 16 then unsigned 96 x.acc + unsigned 16 x.ex * 2 ^ 96 + x.cls % 8 * 2 ^ 112
  else unsigned 192 x.acc + unsigned 16 x.ex * 2 ^ 192 + x.cls % 8 * 2 ^ 208 + slices * 2 ^ 216

/-- What a task uses throughout: requester, draw key, monitor set, vectors. -/
structure TaskCtx where
  r : Req
  key : DrawKey
  set : Option Nat
  epi : Epi
  deriving DecidableEq, Repr

/-- Report the elements of a line to the monitors where OCW.MON is set; elements written as poison are not reported. -/
def State.reportLine (s : State) (c : TaskCtx) (d : TDesc) (xs : List (OutEl × Ev)) : State :=
  if d.omon then s.monReport c.set ((xs.filter fun p => !p.1.poison).map fun p => (p.1.z, p.2)) else s

/-- Convert and store the elements of one line of C, from position `k0` of the line on (R70, R78, R84, R96). Partials are not
reported to a monitor set (log entry 83). -/
def State.emitLine (s : State) (c : TaskCtx) (d : TDesc) (slices line k0 : Nat) (xs : List OutEl) : State :=
  let base := d.cAddr + line * d.cPitch
  if d.ofmt = 0x1F then
    s.storeElems c.r (base + d.psize * k0) (8 * d.psize) (xs.map fun x => (partialNum d.psize slices x.acc, x.poison))
  else match elemFmt d.ofmt with
    | none => s
    | some (f, false) =>
      let es := encodePlain c.key d f xs
      (s.storeElems c.r (base + f.width * k0 / 8) f.width ((es.zip xs).map fun p => (p.1.1, p.2.poison))).reportLine
        c d (xs.zip (es.map Prod.snd))
    | some (f, true) =>
      let len := if d.colMajor then d.m else d.n
      let bs := (chunks 32 (xs.length + 1) xs).map fun b => (b, encodeMx c.key d f b)
      let es := bs.flatMap fun b => b.2.2
      let s1 := s.storeElems c.r (base + f.width * k0 / 8) f.width ((es.zip xs).map fun p => (p.1.1, p.2.poison))
      let s2 := s1.gstore c.r (d.cScale + line * ceilDiv len 32 + k0 / 32)
        (bs.map fun b => BitVec.ofNat 8 b.2.1) false
      s2.reportLine c d (xs.zip (es.map Prod.snd))

end Sys2Proof.Machine
end

