-- ==== Sys2Proof/Machine/CollMath.lean ====
section
/-! DEFINITION. What a collective computes (chapter 12): the plan of exchanges of each algorithm (R300), and the
additions of its elements (R302, R305, R306). -/
namespace Sys2Proof.Machine

/-! ## Descriptors (R292) -/

/-- A number of `n` bytes at an offset of a descriptor. -/
def cfld (b : List Byte) (off n : Nat) : Nat := bytesNat ((b.drop off).take n)

def colOp (b : List Byte) : Nat := cfld b 0 1 % 16
def colRed (b : List Byte) : Nat := cfld b 0 1 / 16 % 4
def colAlgField (b : List Byte) : Nat := cfld b 0 2 / 64 % 8
def colBinned (b : List Byte) : Bool := cfld b 1 1 / 2 % 2 == 1
def colShadow (b : List Byte) : Bool := cfld b 1 1 / 4 % 2 == 1
def colSeqExpl (b : List Byte) : Bool := cfld b 1 1 / 8 % 2 == 1
def colGroup (b : List Byte) : Nat := cfld b 4 1
def colDtype (b : List Byte) : Nat := cfld b 5 1
def colSeqField (b : List Byte) : Nat := cfld b 6 2
def colCount (b : List Byte) : Nat := cfld b 12 4
def colSrc (b : List Byte) : Nat := cfld b 16 8
def colDst (b : List Byte) : Nat := cfld b 24 8
def colStride (b : List Byte) : Nat := cfld b 32 8
def colNsrc (b : List Byte) : Nat := cfld b 40 2
def colRoot (b : List Byte) : Nat := cfld b 42 2
def colTile0 (b : List Byte) : Nat := cfld b 44 2
def colTiles (b : List Byte) : Nat := cfld b 46 2
def colRec (b : List Byte) : Nat := cfld b 48 8

/-- Is it a reduction? -/
def colReduces (b : List Byte) : Bool := colOp b == 1 || colOp b == 2 || colOp b == 5

/-- The element width in bytes of a data type of Table 12-3. -/
def colWidth : Nat → Nat
  | 0x00 => 8
  | 0x01 | 0x0B => 4
  | 0x02 | 0x03 => 2
  | 0x1F => 16
  | _ => 1

/-- The floating-point format of a data type. -/
def colFmt : Nat → Option Fmt
  | 0x00 => some .b64
  | 0x01 => some .b32
  | 0x02 => some .b16
  | 0x03 => some .bf16
  | _ => none

/-! ## Plans (R300) -/

/-- The range of segment `s` of `k` of a range of elements. -/
def segOf (rng : Nat × Nat) (k s : Nat) : Nat × Nat :=
  (rng.1 + s * rng.2 / k, (s + 1) * rng.2 / k - s * rng.2 / k)

/-- What one member does in a step: sends and receptions. -/
abbrev Exch := List Xfer × List Xfer

/-- The steps of two exchanges that run side by side. -/
def mergeSteps : List Exch → List Exch → List Exch
  | [], b => b
  | a, [] => a
  | x :: a, y :: b => (x.1 ++ y.1, x.2 ++ y.2) :: mergeSteps a b

/-- RING over the participants `ps`, of which this member is number `i`: the steps of the reduce-scatter, and those of
the all-gather. -/
def planRing (ps : List Nat) (i : Nat) (rng : Nat × Nat) : List Exch × List Exch :=
  let n := ps.length
  let next := ps.getD ((i + 1) % n) 0
  let prev := ps.getD ((i + n - 1) % n) 0
  ((List.range (n - 1)).map fun t =>
      ([⟨next, [segOf rng n ((i + 2 * n - 1 - t) % n)]⟩], [⟨prev, [segOf rng n ((i + 2 * n - 2 - t) % n)]⟩]),
   (List.range (n - 1)).map fun u =>
      ([⟨next, [segOf rng n ((i + 2 * n - u) % n)]⟩], [⟨prev, [segOf rng n ((i + 2 * n - 1 - u) % n)]⟩]))

/-- HD over a power of two of participants: halving at distances 1, 2, 4, …, where number `i` keeps the segments that
agree with it in the bits so far, then doubling. -/
def planHd (ps : List Nat) (i : Nat) (rng : Nat × Nat) : List Exch × List Exch :=
  let n := ps.length
  let m := Nat.log2 n
  let segs (k r : Nat) : List (Nat × Nat) := ((List.range n).filter fun s => s % 2 ^ k == r % 2 ^ k).map (segOf rng n)
  let mate (t : Nat) : Nat := if i / 2 ^ t % 2 = 0 then i + 2 ^ t else i - 2 ^ t
  ((List.range m).map fun t =>
      ([⟨ps.getD (mate t) 0, segs (t + 1) (mate t)⟩], [⟨ps.getD (mate t) 0, segs (t + 1) i⟩]),
   (List.range m).reverse.map fun t =>
      ([⟨ps.getD (mate t) 0, segs (t + 1) i⟩], [⟨ps.getD (mate t) 0, segs (t + 1) (mate t)⟩]))

/-- DIRECT: every member sends segment s to rank s, and rank s its result to all. -/
def planDirect (n r : Nat) (rng : Nat × Nat) : List Exch × List Exch :=
  let others := (List.range n).filter fun j => j != r
  ([(others.map fun j => ⟨j, [segOf rng n j]⟩, others.map fun j => ⟨j, [segOf rng n r]⟩)],
   [(others.map fun j => ⟨j, [segOf rng n r]⟩, others.map fun j => ⟨j, [segOf rng n j]⟩)])

/-- Is `n` a power of two? -/
def isPow2 (n : Nat) : Bool := n == 2 ^ Nat.log2 n

/-- The ranks of each rack that holds members, racks rising, ranks in order. -/
def rackRanks (members : List Nat) : List (List Nat) :=
  let racks := (members.map fun x => x / 32).eraseDups.mergeSort (fun a b => decide (a ≤ b))
  racks.map fun k => (members.zipIdx.filter fun p => p.1 / 32 == k).map fun p => p.2

/-- HIER: DIRECT within each rack over 24 segments, the holders of a segment across racks by HD or RING, and out to the
rack. -/
def planHier (members : List Nat) (r : Nat) (rng : Nat × Nat) : List Exch × List Exch :=
  let racks := rackRanks members
  let mine := (racks.find? fun l => l.contains r).getD []
  let holder (l : List Nat) (j : Nat) : Nat := l.getD (j % l.length) 0
  let heldBy (x : Nat) : List (Nat × Nat) :=
    ((List.range 24).filter fun j => holder mine j == x).map (segOf rng 24)
  let others := mine.filter fun x => x != r
  let l1 : Exch := (others.map fun x => ⟨x, heldBy x⟩, others.map fun x => ⟨x, heldBy r⟩)
  let l3 : Exch := (others.map fun x => ⟨x, heldBy r⟩, others.map fun x => ⟨x, heldBy x⟩)
  let k0 := (racks.takeWhile fun l => !l.contains r).length
  let steps := if racks.length ≤ 1 then 0 else if isPow2 racks.length then Nat.log2 racks.length else racks.length - 1
  let none2 : List Exch := List.replicate steps ([], [])
  let l2 := ((List.range 24).filter fun j => holder mine j == r).foldl (fun (acc : List Exch × List Exch) j =>
    let ps := racks.map fun l => holder l j
    let p := if racks.length ≤ 1 then ([], []) else if isPow2 racks.length then planHd ps k0 (segOf rng 24 j)
      else planRing ps k0 (segOf rng 24 j)
    (mergeSteps acc.1 p.1, mergeSteps acc.2 p.2)) (none2, none2)
  (l1 :: l2.1, l2.2 ++ [l3])

/-- The exchange of an algorithm (Table 12-5) over a range of elements. -/
def planOf (alg : Nat) (members : List Nat) (r : Nat) (rng : Nat × Nat) : List Exch × List Exch :=
  let n := members.length
  match alg with
  | 1 => planRing (List.range n) r rng
  | 2 => planHd (List.range n) r rng
  | 3 => planDirect n r rng
  | _ => planHier members r rng

/-- The exchanges with one peer in a step are one exchange, whose chunks are numbered through (R299); what has no ranges is left
out. -/
def joinPeers (l : List Xfer) : List Xfer :=
  (l.map fun x => x.peer).eraseDups.filterMap fun p =>
    let rs := (l.filter fun x => x.peer == p).flatMap fun x => x.rngs
    if rs.all fun g => g.2 == 0 then none else some ⟨p, rs⟩

/-- Leave out empty ranges and exchanges of nothing. -/
def trimXfers (l : List Xfer) : List Xfer :=
  (joinPeers l).map fun x => { x with rngs := x.rngs.filter fun g => g.2 != 0 }

/-- The steps of an exchange, numbered from `base`. -/
def numbered (base : Nat) (kind : StepKind) (l : List Exch) : List CollStep :=
  l.zipIdx.map fun p => ⟨base + p.2, kind, trimXfers p.1.1, trimXfers p.1.2⟩

/-- A step of the package's own. -/
def ownStep (k : StepKind) : CollStep := ⟨0, k, [], []⟩

/-- Elements per block of a binned exponent (R304). -/
def binBlock : Nat := 256

/-- All the steps of a reduction: the exponents and the folds of a binned one, the additions, the result, its spreading,
and the destination. -/
def reduceSteps (alg : Nat) (members : List Nat) (r count : Nat) (binned : Bool) : List CollStep :=
  let p := planOf alg members r (0, count)
  let e := planOf alg members r (0, ceilDiv count binBlock)
  (if binned then numbered 4096 .reduce e.1 ++ numbered (4096 + e.1.length) .gather e.2 ++ [ownStep .folds] else []) ++
    numbered 0 .reduce p.1 ++ [ownStep .form] ++ numbered p.1.length .gather p.2 ++ [ownStep .write]

/-- The steps of a movement: one exchange (log entry 22). -/
def moveSteps (op n r count root : Nat) : List CollStep :=
  let others := (List.range n).filter fun j => j != r
  let e : Exch := match op with
    | 3 => (others.map fun j => ⟨j, [(r * count, count)]⟩, others.map fun j => ⟨j, [(j * count, count)]⟩)
    | 4 => if r = root then (others.map fun j => ⟨j, [(0, count)]⟩, []) else ([], [⟨root, [(0, count)]⟩])
    | _ => (others.map fun j => ⟨j, [(n * count + j * count, count)]⟩, others.map fun j => ⟨j, [(j * count, count)]⟩)
  numbered 0 .gather [e] ++ [ownStep .write]

/-- The chunks of a list of ranges whose elements have `wb` bytes on the wire: whole elements, at most 4 KiB (log entry
22). -/
def rangeChunks (wb : Nat) (rngs : List (Nat × Nat)) : List (Nat × Nat) :=
  let k := 4096 / wb
  rngs.flatMap fun g => (List.range (ceilDiv g.2 k)).map fun i => (g.1 + k * i, min k (g.2 - k * i))

/-! ## Elements (R302, R304 to R306) -/

/-- Folds of a binned element: how many (R305). -/
def foldCount (dtype : Nat) : Nat := if dtype = 0 then 3 else 2

/-- The exponent of a binned value (R304): −32,768 where the element is not finite or is zero. -/
def binExp (f : Fmt) (x : Nat) : Int := ((decodeNum f x).xexp).getD (-32768)

/-- A class mark of a top fold (R305). -/
def foldMark (top : Nat) : Option Nat := if top / 8 = 2 ^ 59 ∧ top % 8 ≠ 0 then some (top % 8) else none

/-- The folds of a value as one number of F words of 64 bits, and whether bits were lost (R305). -/
def foldsOf (f : Fmt) (nf : Nat) (emax : Int) (x : Nat) : Nat × Bool :=
  let top (c : Nat) : Nat := (2 ^ 62 + c) * 2 ^ (64 * (nf - 1))
  match decodeNum f x with
  | .nan => (top 1, false)
  | .inf neg => (top (if neg then 4 else 2), false)
  | .fin m e =>
    let sh := e + 40 * nf - emax
    let mag := if 0 ≤ sh then m.natAbs * 2 ^ sh.toNat else m.natAbs / 2 ^ (-sh).toNat
    let lost := decide (sh < 0) && decide (m.natAbs % 2 ^ (-sh).toNat ≠ 0)
    let v : Int := if m < 0 then -(mag : Int) else mag
    let low := (List.range (nf - 1)).foldl (fun a k => a + (v / 2 ^ (40 * k) % 2 ^ 40).toNat * 2 ^ (64 * k)) 0
    (low + unsigned 64 (v / 2 ^ (40 * (nf - 1))) * 2 ^ (64 * (nf - 1)), lost)

/-- Word `k` of a number. -/
def wordOf (x k : Nat) : Nat := x / 2 ^ (64 * k) % 2 ^ 64

/-- The sum of two lists of folds; a marked top fold is ORed (R306). -/
def addFolds (nf x y : Nat) : Nat :=
  (List.range nf).foldl (fun a k =>
    let p := wordOf x k
    let q := wordOf y k
    let s := if k + 1 = nf then
        match foldMark p, foldMark q with
        | some _, some _ => p ||| q
        | some _, none => p
        | none, some _ => q
        | none, none => (p + q) % 2 ^ 64
      else (p + q) % 2 ^ 64
    a + s * 2 ^ (64 * k)) 0

/-- The result of the folds of an element (R306): its encoding and whether it overflowed. `d` is what a mean divides
by. -/
def formFolds (f : Fmt) (nf : Nat) (emax : Int) (d x : Nat) : Nat × Bool :=
  match foldMark (wordOf x (nf - 1)) with
  | some c =>
    let v : Num := if c % 2 = 1 ∨ 6 ≤ c then .nan else .inf (c == 4)
    (encRne f v, false)
  | none =>
    if emax = -32768 then (0, false)
    else
      let s : Int := (List.range nf).foldl (fun a k => a + signed 64 (wordOf x k) * 2 ^ (40 * k)) 0
      let r := roundTo f .rne false 0 ((Num.fin s (emax - 40 * nf)).div (.fin d 0))
      (r.1, r.2 == .sat)

/-- An anchored partial of 16 bytes as it is summed, in 20 (R302; log entry 22): an integer of 128 bits, the anchor in bits 143 to
128, the class bits from 144, and in bit 147 whether anchors differed. -/
def widePartial (x : Nat) : Nat :=
  unsigned 128 (signed 96 x) + x / 2 ^ 96 % 2 ^ 16 * 2 ^ 128 + x / 2 ^ 112 % 8 * 2 ^ 144

/-- The sum of two such partials: exact in 128 bits, the class bits ORed (R302). -/
def addAnchored (x y : Nat) : Nat :=
  let e := x / 2 ^ 128 % 2 ^ 16
  let cls := (x / 2 ^ 144 % 16) ||| (y / 2 ^ 144 % 16) ||| (if e = y / 2 ^ 128 % 2 ^ 16 then 0 else 8)
  unsigned 128 (signed 128 x + signed 128 y) + e * 2 ^ 128 + cls * 2 ^ 144

/-- A sum as it is written in 16 bytes, and whether its anchors differ or it leaves 96 bits: then its only class is NAN, its
integer 0 as R97 has it, and its anchor, where anchors differ, `e`. -/
def narrowPartial (e x : Nat) : Nat × Bool :=
  let v := signed 128 x
  let a := x / 2 ^ 128 % 2 ^ 16
  if 8 ≤ x / 2 ^ 144 then (e * 2 ^ 96 + 2 ^ 112, true)
  else if v < -(2 ^ 95) ∨ 2 ^ 95 ≤ v then (a * 2 ^ 96 + 2 ^ 112, true)
  else (unsigned 96 v + a * 2 ^ 96 + x / 2 ^ 144 % 8 * 2 ^ 112, false)

/-- One addition of a reduction that is not binned: the result, and whether it overflowed. -/
def combineEl (dtype red x y : Nat) : Nat × Bool :=
  match colFmt dtype with
  | some f =>
    let a := decodeNum f x
    let b := decodeNum f y
    if red = 2 then (encRne f (a.max b), false)
    else if red = 3 then (encRne f (a.min b), false)
    else
      let r := roundTo f .rne false 0 (a.add b)
      (r.1, r.2 == .sat)
  | none =>
    if dtype = 0x1F then (addAnchored x y, false)
    else if red = 2 then (if signed 32 x < signed 32 y then y else x, false)
    else if red = 3 then (if signed 32 y < signed 32 x then y else x, false)
    else ((x + y) % 2 ^ 32, false)

/-- The mean of a sum in its data type: the encoding and whether it overflowed (R302). -/
def meanEl (dtype d x : Nat) : Nat × Bool :=
  match colFmt dtype with
  | some f =>
    let r := roundTo f .rne false 0 ((decodeNum f x).div (.fin d 0))
    (r.1, r.2 == .sat)
  | none => (x, false)

/-- The signature of a collective (R297). -/
def colSignature (b : List Byte) (alg : Nat) (binned : Bool) (n : Nat) : W64 :=
  let ctrl := colOp b + colRed b * 16 + alg * 64 + bnat binned * 512
  BitVec.ofNat 64 (crc64 (natBytes 2 ctrl ++ natBytes 1 (colDtype b) ++ natBytes 1 0 ++ natBytes 4 (colCount b) ++
    natBytes 2 (colNsrc b) ++ natBytes 2 (colRoot b) ++ natBytes 4 n))

end Sys2Proof.Machine
end

