-- ==== Sys2Proof/Machine/Special.lean ====
section
/-! DEFINITION. The special functions of Table 5-5 (R144): each value to `fixBits` fraction bits with a last sticky bit,
so that one rounding to binary32, binary16 or bfloat16 is the correct rounding. The exact cases (2^k of an integer, the
logarithm of a power of 2, 1 ÷ (1 + 1)) come out exact; every other value of these functions is irrational, and none of
a source of at most 24 significant bits lies nearer to a rounding boundary than the kept bits. -/
namespace Sys2Proof.Machine

/-- Fraction bits of the fixed-point values below. -/
def fixBits : Nat := 320

/-- One in fixed point. -/
def fixOne : Nat := 2 ^ fixBits

/-- The sum w + w³/3 + w⁵/5 + … in fixed point, `n` terms from the odd exponent `d` on; `t` is w to the power `d`. -/
def atanhTerms (w2 : Nat) : Nat → Nat → Nat → Nat
  | 0, _, _ => 0
  | n + 1, d, t => t / d + atanhTerms w2 n (d + 2) (t * w2 / fixOne)

/-- The natural logarithm of a ÷ b in fixed point, for 1 ≤ a ÷ b ≤ 2: twice the inverse hyperbolic tangent of
(a − b) ÷ (a + b). -/
def lnRatio (a b : Nat) : Nat :=
  let w := (a - b) * fixOne / (a + b)
  2 * atanhTerms (w * w / fixOne) 110 1 w

/-- ln 2 in fixed point. -/
def ln2Fix : Nat := lnRatio 2 1

/-- The exponential series in fixed point: `n` terms from the term `t` of index `k` on. -/
def expTerms (y : Nat) : Nat → Nat → Nat → Nat
  | 0, _, _ => 0
  | n + 1, k, t => t + expTerms y n (k + 1) (t * y / fixOne / (k + 1))

/-- 2 to a fraction `r` of fixed point below 1. -/
def exp2Fix (r : Nat) : Nat := expTerms (r * ln2Fix / fixOne) 80 0 fixOne

/-- The floor of m × 2^e in fixed point. -/
def toFix (m : Int) (e : Int) : Int :=
  let k := e + fixBits
  if 0 ≤ k then m * 2 ^ k.toNat else m / 2 ^ (-k).toNat

/-- A positive fixed-point value with its sticky bit set, times 2^k. -/
def fixNum (x : Nat) (k : Int) : Num := .fin (2 * x + 1 : Nat) (k - fixBits - 1)

/-- 2^v. -/
def Num.exp2 : Num → Num
  | .nan => .nan
  | .inf s => if s then .zero else .inf false
  | .fin m e =>
    if m = 0 then .fin 1 0
    else if (Num.fin 4096 0).lt (.fin m e) then .inf false
    else if (Num.fin m e).lt (.fin (-4096) 0) then .fin 1 (-4096)
    else
      let x := toFix m e
      let k := x / fixOne
      let r := (x % fixOne).toNat
      if r = 0 then .fin 1 k else fixNum (exp2Fix r) k

/-- log2 v. -/
def Num.log2 : Num → Num
  | .nan => .nan
  | .inf s => if s then .nan else .inf false
  | .fin m e =>
    if m = 0 then .inf true else if m < 0 then .nan else
    let a := m.natAbs
    let k := Nat.log2 a
    let l : Int := (lnRatio a (2 ^ k) * fixOne / ln2Fix : Nat) + ((k : Int) + e) * fixOne
    if a = 2 ^ k then (if (k : Int) + e = 0 then .zero else .fin ((k : Int) + e) 0)
    else if l < 0 then .fin (2 * l + 1) (-(fixBits : Int) - 1) else fixNum l.toNat 0

/-- e to a magnitude m × 2^e, as a decoded value: 2^(v ÷ ln 2). -/
def expMag (m : Nat) (e : Int) : Num :=
  let q := ((toFix m e).toNat * fixOne) / ln2Fix
  if q = 0 then .fin 1 0 else .fin (exp2Fix (q % fixOne) : Nat) ((q / fixOne : Nat) - (fixBits : Int))

/-- A value just below m × 2^e: less by 2^−200 of its last place. -/
def justBelow (m : Nat) (e : Int) : Num := .fin (m * 2 ^ 200 - 1 : Nat) (e - 200)

/-- The hyperbolic tangent: x − x³/3 rounds as a value just below x where |x| < 2^−40, and as one just below 1 where
|x| > 200. -/
def Num.tanh : Num → Num
  | .nan => .nan
  | .inf s => .fin (if s then -1 else 1) 0
  | .fin m e =>
    if m = 0 then .zero else
    let a : Num := .fin m.natAbs e
    let r :=
      if a.lt (.fin 1 (-40)) then justBelow m.natAbs e
      else if (Num.fin 200 0).lt a then justBelow 1 0
      else
        let t := expMag m.natAbs (e + 1)
        (t.sub (.fin 1 0)).div (t.add (.fin 1 0))
    if m < 0 then r.neg else r

/-- 1 ÷ (1 + e^−x). -/
def Num.sigm : Num → Num
  | .nan => .nan
  | .inf s => if s then .zero else .fin 1 0
  | .fin m e =>
    let one : Num := .fin 1 0
    if m = 0 then .fin 1 (-1)
    else if (Num.fin 300 0).lt (.fin m e) then justBelow 1 0
    else if (Num.fin m e).lt (.fin (-1100) 0) then .fin 1 (-1500)
    else
      let t := expMag m.natAbs e
      if 0 < m then t.div (t.add one) else one.div (t.add one)

/-- 1 ÷ v: the reciprocal of either zero is +∞ (Table 5-5). -/
def Num.rcp (v : Num) : Num := if v.isZero then .inf false else (Num.fin 1 0).div v

/-- 1 ÷ √v. -/
def Num.rsqrt (v : Num) : Num := if v.isZero then .inf false else (Num.fin 1 0).div v.sqrt

end Sys2Proof.Machine
end

