-- ==== Sys2Proof/Machine/Tiles.lean ====
section
/-! DEFINITION. Tile tasks (chapter 04): launching, the queues, the four matrix kinds, and completion (R83 to R113). -/
namespace Sys2Proof.Machine

/-- Tile `t` as a requester. -/
abbrev tileReq (t : Nat) : Req := ⟨0x0C, t⟩

/-- The queue of a tile, the task running on it, and its held block. The first 512 entries are the tile's own queue; what
follows them waits in the hub's launch engine, in the same order (R110). -/
def State.queueOf (s : State) (t : Nat) : List TaskRef := Tbl.get [] s.tileQ t
def State.setQueue (s : State) (t : Nat) (q : List TaskRef) : State := { s with tileQ := Tbl.set [] s.tileQ t q }
def State.runOf (s : State) (t : Nat) : Option RunTask := Tbl.get none s.tileRun t
def State.setRun (s : State) (t : Nat) (r : Option RunTask) : State :=
  { s with tileRun := Tbl.set none s.tileRun t r }
def State.heldOf (s : State) (t : Nat) : Option HeldBlock := Tbl.get none s.tileHeld t
def State.setHeld (s : State) (t : Nat) (h : Option HeldBlock) : State :=
  { s with tileHeld := Tbl.set none s.tileHeld t h }

/-- A tile event: unit the tile, detail the descriptor's address. -/
def State.tnsEv (s : State) (t b detail : Nat) : State := s.event 0x0C (Reg.tnsEvent t) b t detail

/-- A cycle count advances by a free value: the model has no cycles of the units (log entry 9). -/
def State.countFree (s : State) (off : Nat) : State := s.count64 off (Config.cycles off (s.reg off).toNat)

/-! ## Completion (R109, R111) -/

/-- Write a STATUS byte of a descriptor (R441). -/
def State.writeStatus (s : State) (r : Req) (a st : Nat) : State := s.store r a (natBytes 1 st)

/-- A tile task descriptor completes: STATUS, the signal, and its action. -/
def State.taskDone (s : State) (r : Req) (ref : TaskRef) (st : Nat) : State :=
  ((s.writeStatus r (ref.addr + 3) st).signal (tdescOf ref.body).signalId).descDone ref.act ref.idx st 0

/-- The counters and events of a task that completes on tile `t`. -/
def State.taskCount (s : State) (t addr st : Nat) : State :=
  let s1 := s.count64 (Reg.tnsCntTasks t) 1
  if st = 0 then s1 else
  let s2 := s1.setReg (Reg.tnsLastErr t) (BitVec.ofNat 64 addr)
  if st = 0x20 ∨ st = 0x21 then s2.tnsEv t 4 addr
  else if st = 0x22 then (s2.count32 (Reg.tnsCntAnchorLow t) 1).tnsEv t 2 addr
  else if st = 0x23 ∨ st = 0x24 then s2.tnsEv t 5 addr
  else if st = 0x26 then s2.count32 (Reg.tnsCntPoisonIn t) 1
  else s2

/-- The running task of tile `t` completes: a hold from the task before it ends (R112), and its own begins where it formed a
block. -/
def State.finishTask (s : State) (t : Nat) (rt : RunTask) : State :=
  let hold := (tdescOf rt.ref.body).accHold && rt.status != 0x20 && rt.status != 0x21 && rt.status != 0x22
  let s1 := (s.setRun t none).taskCount t rt.ref.addr rt.status
  (if hold then s1 else s1.setHeld t none).taskDone (tileReq t) rt.ref rt.status

/-- TASK_COMPLETE (R109, R111, R283): once its stores are performed and every node it wrote has acknowledged. -/
def execTaskComplete (t : Fin 256) (s : State) : Host.Outcome State Fault Refusal :=
  match s.runOf t with
  | some rt =>
    if rt.prog || s.unitOwes (tileReq t) then .next s else .next (s.finishTask t rt)
  | none => .next s

/-! ## Launching (R21, R106, R110) -/

/-- A launched tile task: refused at once where no tile of the grade can hold it, else put in its tile's queue, a malformed
one too. -/
def State.enqueueTask (s : State) (act idx addr : Nat) (body : List Byte) : State :=
  let d := tdescOf body
  let ref : TaskRef := ⟨act, idx, addr, body, false⟩
  if 255 < d.tile then s.taskDone hubReq ref 0x20
  else if numTiles s.grade ≤ d.tile then
    let j := s.tdescJudge d
    s.taskDone hubReq ref (if j = 0 then stAbsent else j)
  else s.setQueue d.tile (s.queueOf d.tile ++ [ref])

/-- Launch the descriptors of an action from index `i` on: each is read whole and enqueued. One that reads as poison
ends the action with the chapter's invalid status and is a consumption of poison (R372). -/
def launchDescs (size bad : Nat) (enq : State → Nat → Nat → Nat → List Byte → State) (act base : Nat) :
    Nat → Nat → State → State
  | 0, _, s => s
  | n + 1, i, s =>
    let a := (base + size * i) % 2 ^ 48
    let d := s.load a size
    let s1 := s.loadEvent hubReq a size
    if d.2 then ((upFrom i (n + 1)).foldl (fun s k => s.descDone act k bad 0) s1).poisonKill i a
    else launchDescs size bad enq act base n (i + 1) (enq s1 act i a d.1)

/-- Launch the tile tasks of an action. -/
def State.launchTiles (s : State) (l : Launch) (inPleat : Bool) : State :=
  launchDescs 128 0x20 State.enqueueTask s.nextAct l.desc l.count 0 (s.startAct l inPleat)

/-- ACTION_TILE_TASK (R110). -/
def execActionTileTask (s : State) : Host.Outcome State Fault Refusal :=
  match s.takeLaunch 2 with
  | some (l, s1) => .next (s1.launchTiles l true)
  | none => .next s

/-! ## Starting a task -/

/-- The head of a tile's queue that may start: of the kind, or of a reserved kind; no task runs, the tile is not parked, its
counter is reached. -/
def State.readyTask (s : State) (t kind : Nat) : Option TaskRef :=
  match s.queueOf t with
  | ref :: _ =>
    let d := tdescOf ref.body
    if (d.kind = kind ∨ ¬ (1 ≤ d.kind ∧ d.kind ≤ 5)) ∧ s.runOf t = none ∧ s.isParked 0 t = false ∧
      (ref.released = true ∨ s.waitMet d.waitId d.waitCount = true) then some ref else none
  | [] => none

/-- Take the head off a tile's queue and make it the running task. -/
def State.popTask (s : State) (t : Nat) (ref : TaskRef) : State :=
  (s.setQueue t (s.queueOf t).tail).setRun t (some ⟨ref, false, 0⟩)

/-- The running task's stores are issued and its status is known. -/
def State.taskStatus (s : State) (t : Nat) (ref : TaskRef) (st : Nat) : State :=
  (s.setRun t (some ⟨ref, false, st⟩)).countFree (Reg.tnsCntBusy t)

/-- The lowest nonzero of the codes that apply (R109). -/
def lowestStatus (xs : List Nat) : Nat :=
  (xs.filter fun x => x != 0).foldl (fun a x => if a = 0 then x else min a x) 0

/-- What a task samples when its pre-pass starts (R164, R214, R215). -/
def State.taskCtx (s : State) (t : Nat) (d : TDesc) : State × TaskCtx :=
  let e := s.readEpis (tileReq t) d
  (e.1, { r := tileReq t,
          key := { seed := s.reg Reg.bobSeed, stream := BitVec.ofNat 32 d.stream, stitch := s.stitch.truncate 32,
                   purpose := 1, draw := d.draw },
          set := if d.omon then s.monLookup d.cAddr else none, epi := e.2 })

/-! ## Blocks (R83, R94, R104, R112, R113) -/

/-- Rows or columns of C: operand lines and anchors, with whether the anchor's granule is poison. -/
structure Side where
  lines : List OpVec
  anchors : List (Int × Bool)
  deriving DecidableEq, Repr

def Side.line (x : Side) (i : Nat) : OpVec := x.lines.getD i ⟨[], [], false, false⟩
def Side.anchor (x : Side) (i : Nat) : Int := (x.anchors.getD i (noAnchor, false)).1

/-- Does line `i` draw on poison? -/
def Side.poisoned (x : Side) (i : Nat) : Bool := (x.line i).poison || (x.anchors.getD i (noAnchor, false)).2

/-- Does a FIN element of line `i` exceed its supplied anchor (R94)? -/
def Side.low (x : Side) (i : Nat) : Bool := !x.poisoned i && decide (x.anchor i < (x.line i).anchor)

/-- Read `n` anchors of i16 from `ga` on (R94). -/
def State.readAnchors (s : State) (r : Req) (ga n : Nat) : State × List (Int × Bool) :=
  mapN (fun s i =>
    let q := s.gload r (ga + 2 * i) 2
    (s.gloadSt r (ga + 2 * i) 2, (signed 16 (bytesNat q.1), q.2))) n 0 s

/-- Read both operands and their anchors (R84, R87, R94). -/
def State.readSides (s : State) (r : Req) (d : TDesc) : State × Side × Side :=
  let a := mapN (fun s i => s.readLine r d.afmt (d.aAddr + i * d.aPitch) d.k (d.aScale + i * ceilDiv d.k 32)) d.m 0 s
  let b := mapN (fun s j => s.readLine r d.bfmt (d.bAddr + j * d.bPitch) d.k (d.bScale + j * ceilDiv d.k 32)) d.n 0 a.1
  if d.anchExt then
    let ra := b.1.readAnchors r d.anch d.m
    let cb := ra.1.readAnchors r (d.anch + 2 * d.m) d.n
    (cb.1, ⟨a.2, ra.2⟩, ⟨b.2, cb.2⟩)
  else
    (b.1, ⟨a.2, a.2.map fun v => (v.anchor, false)⟩, ⟨b.2, b.2.map fun v => (v.anchor, false)⟩)

/-- A block of C: first row, rows, first column, columns. -/
structure Blk where
  r0 : Nat
  nr : Nat
  c0 : Nat
  nc : Nat
  deriving DecidableEq, Repr

/-- The blocks of an M × N product in the order of R83. -/
def blocksOf (m n : Nat) : List Blk :=
  (List.range (ceilDiv m 128)).flatMap fun a => (List.range (ceilDiv n 64)).map fun b =>
    ⟨128 * a, min 128 (m - 128 * a), 64 * b, min 64 (n - 64 * b)⟩

/-- The elements of a block, by rows, and the inexact terms it counted. -/
def blockEls (d : TDesc) (a b : Side) (k : Blk) : List (List (AccEl × Nat)) :=
  (upFrom k.r0 k.nr).map fun i => (upFrom k.c0 k.nc).map fun j =>
    let p := a.poisoned i || b.poisoned j
    if d.kind = 2 then
      let x := slicedElem (a.line i) (b.line j) d.slices (a.anchor i) (b.anchor j)
      ({ x with poison := p }, 0)
    else
      let x := matElem (a.line i) (b.line j) d.k (a.anchor i) (b.anchor j)
      ({ x.1 with poison := p }, if p then 0 else x.2)

/-- Convert the elements of a block and store them, line by line (R70, R84). -/
def State.emitBlock (s : State) (c : TaskCtx) (d : TDesc) (slices : Nat) (k : Blk) (rows : List (List AccEl)) : State :=
  let out (i j : Nat) : OutEl :=
    let x := (rows.getD (i - k.r0) []).getD (j - k.c0) ⟨0, 0, 0, true⟩
    let z := convSteps d c.epi i j (x.value (unitOf slices x))
    ⟨i, j, x, z.1, x.poison || z.2⟩
  if d.colMajor then
    (upFrom k.c0 k.nc).foldl (fun s j => s.emitLine c d slices j k.r0 ((upFrom k.r0 k.nr).map fun i => out i j)) s
  else
    (upFrom k.r0 k.nr).foldl (fun s i => s.emitLine c d slices i k.c0 ((upFrom k.c0 k.nc).map fun j => out i j)) s

/-- Does the exact check run for a task (R105)? -/
def State.checked (s : State) (t : Nat) (d : TDesc) : Bool := !d.abftOff || s.regB (Reg.tnsCfg t) 0

/-- The errors that strike block `n`, in its first evaluation or in its recomputation. -/
def blockFaults (fs : List ArrayFault) (n : Nat) (again : Bool) : List ArrayFault :=
  fs.filter fun f => f.block == n && f.again == again

/-- The elements of a block as the hardware forms them, with the errors that strike it. -/
def faultyEls (d : TDesc) (a b : Side) (k : Blk) (fs : List ArrayFault) : List (List (AccEl × Nat)) :=
  if fs.isEmpty then blockEls d a b k
  else (upFrom k.r0 k.nr).map fun i => (upFrom k.c0 k.nc).map fun j =>
    let p := a.poisoned i || b.poisoned j
    if d.kind = 2 then
      ({ faultySliced fs (i - k.r0) (j - k.c0) (a.line i) (b.line j) d.slices (a.anchor i) (b.anchor j) with poison := p }, 0)
    else
      let x := (faultyMat fs (i - k.r0) (j - k.c0) (a.line i) (b.line j) d.k (a.anchor i) (b.anchor j)).2
      ({ x.1 with poison := p }, if p then 0 else x.2)

/-- The rows and the columns of a block that draw on no poison: the elements of the others are not checked (R113). -/
def cleanRows (a : Side) (k : Blk) : List Nat := (upFrom k.r0 k.nr).filter fun i => !a.poisoned i
def cleanCols (b : Side) (k : Blk) : List Nat := (upFrom k.c0 k.nc).filter fun j => !b.poisoned j

/-- The check of a matrix product's block: by the operands' residues where every term is exact (R102), and otherwise by the
residues of the truncated terms, with each product modulo 3 (R103). -/
def matChecks (d : TDesc) (a b : Side) (k : Blk) (fs : List ArrayFault) : Bool :=
  let is_ := cleanRows a k
  let js := cleanCols b k
  let els := is_.map fun i => js.map fun j =>
    faultyMat fs (i - k.r0) (j - k.c0) (a.line i) (b.line j) d.k (a.anchor i) (b.anchor j)
  let accs := els.map fun row => row.map fun x => x.2.1.acc
  if els.all fun row => row.all fun x => x.2.2 == 0 then
    let res (v : OpVec) (anchor : Int) : List Int := (List.range d.k).map fun i => residueOf anchor (v.scaled i)
    residuesMatch (is_.map fun i => res (a.line i) (a.anchor i)) (js.map fun j => res (b.line j) (b.anchor j)) accs
  else
    let diff := els.map fun row => row.map fun x => x.2.1.acc - x.1
    residuesMatch [] (js.map fun _ => []) diff && (diff.all fun row => sumInt row % resP == 0) &&
      fs.all fun f => f.term.isNone || f.err % 3 == 0

/-- The check of a sliced product's block: the residues of every pass (R102). -/
def slicedChecks (d : TDesc) (a b : Side) (k : Blk) (fs : List ArrayFault) : Bool :=
  let is_ := cleanRows a k
  let js := cleanCols b k
  let sa := is_.map fun i => (a.line i).slices d.slices (a.anchor i)
  let sb := js.map fun j => (b.line j).slices d.slices (b.anchor j)
  (slicePairs d.slices).zipIdx.all fun p =>
    residuesMatch (sa.map fun l => l.map fun x => x.getD (p.1.1 - 1) 0) (sb.map fun l => l.map fun x => x.getD (p.1.2 - 1) 0)
      ((is_.zip sa).map fun i => (js.zip sb).map fun j => faultyPass fs (i.1 - k.r0) (j.1 - k.c0) p.2 p.1 i.2 j.2)

/-- Does an evaluation of a block pass its check? One that no error strikes does. -/
def blockChecks (d : TDesc) (a b : Side) (k : Blk) (fs : List ArrayFault) : Bool :=
  fs.isEmpty || (if d.kind = 2 then slicedChecks d a b k fs else matChecks d a b k fs)

/-- One block that mismatched its check (R104): counted and classified (R373). -/
def State.abftFault (s : State) (t times addr : Nat) : State :=
  let s1 := ((s.count32 (Reg.tnsCntAbftRetry t) 1).tnsEv t 0 addr).unitFault 0 t false
  if times = 1 then s1 else ((s1.count32 (Reg.tnsCntAbftFail t) 1).tnsEv t 1 addr).unitFault 0 t true

/-- The progress of a task over its blocks: the state, the codes that apply, whether it stopped, and the block number. -/
structure Prog1 where
  s : State
  codes : List Nat
  stop : Bool
  n : Nat

/-- One block of a MATMUL or SLICED task. -/
def blockStep (t addr : Nat) (d : TDesc) (c : TaskCtx) (a b : Side) (fs : List ArrayFault) (p : Prog1) (k : Blk) :
    Prog1 :=
  if p.stop then p
  else if d.anchExt && ((upFrom k.r0 k.nr).any a.low || (upFrom k.c0 k.nc).any b.low) then
    { p with codes := p.codes ++ [0x22], stop := true }
  else
    let f0 := blockFaults fs p.n false
    let f1 := blockFaults fs p.n true
    let times := if !p.s.checked t d || blockChecks d a b k f0 then 0 else if blockChecks d a b k f1 then 1 else 2
    let els := faultyEls d a b k (if times = 0 then f0 else f1)
    let s1 := if times = 0 then p.s else p.s.abftFault t times addr
    let rows := els.map fun row => row.map fun x => if times ≤ 1 then x.1 else { x.1 with poison := true }
    let inex := els.foldl (fun x row => x + row.foldl (fun y e => y + e.2) 0) 0
    let passes := if d.kind = 2 then d.slices * (d.slices + 1) / 2 else 1
    let mxk := if (elemFmt d.afmt).any Prod.snd || (elemFmt d.bfmt).any Prod.snd then 32 * ceilDiv d.k 32 else d.k
    let s2 := (s1.count64 (Reg.tnsCntProducts t) (passes * mxk * k.nr * k.nc)).count64 (Reg.tnsCntInexact t) inex
    let slices := if d.kind = 2 then d.slices else 0
    { s := if d.accHold then s2.setHeld t (some ⟨slices, rows⟩) else s2.emitBlock c d slices k rows
      codes := if 2 ≤ times then p.codes ++ [0x25] else p.codes
      stop := false
      n := p.n + 1 }

/-- A task read poison (R113). -/
def sidesPoison (d : TDesc) (a b : Side) (e : Epi) : Bool :=
  (List.range d.m).any a.poisoned || (List.range d.n).any b.poisoned ||
    (e.rows ++ e.cols ++ e.bias).any fun x => x.2

/-- Run a MATMUL or SLICED task: pre-pass, blocks, status. -/
def State.runProduct (s : State) (t : Nat) (ref : TaskRef) (d : TDesc) (fs : List ArrayFault) : State :=
  let s0 := s.popTask t ref
  let c := s0.taskCtx t d
  let x := c.1.readSides (tileReq t) d
  let poison := sidesPoison d x.2.1 x.2.2 c.2.epi
  let p := (blocksOf d.m d.n).foldl (blockStep t ref.addr d c.2 x.2.1 x.2.2 fs) ⟨x.1, [], false, 0⟩
  let s1 := if poison then p.s.tnsEv t 3 ref.addr else p.s
  s1.taskStatus t ref (lowestStatus (p.codes ++ if poison then [0x26] else []))

/-- A malformed task executes nothing and completes (R108). -/
def State.refuseTask (s : State) (t : Nat) (ref : TaskRef) (st : Nat) : State :=
  (s.popTask t ref).finishTask t ⟨ref, false, st⟩

/-- Start the task at the head of a tile's queue where it is of the kind and ready: refused where malformed. One that reads
another node's memory, or lines that are not free, runs once it has the data (R85); until then its command may come again. -/
def State.startTask (s : State) (t kind : Nat) (run : State → TaskRef → TDesc → State) : State :=
  match s.readyTask t kind with
  | none => s
  | some ref =>
    let d := tdescOf ref.body
    let j := s.tdescJudge d
    if j ≠ 0 then s.refuseTask t ref j else s.whenDone (run s ref d) (tileReq t)

/-- TASK_MATMUL (R83 to R94, R104, R112, R113). -/
def execTaskMatmul (t : Fin 256) (faults : List ArrayFault) (s : State) : Host.Outcome State Fault Refusal :=
  .next (s.startTask t 1 fun s ref d => s.runProduct t ref d faults)

/-- TASK_SLICED (R98 to R101). -/
def execTaskSliced (t : Fin 256) (faults : List ArrayFault) (s : State) : Host.Outcome State Fault Refusal :=
  .next (s.startTask t 2 fun s ref d => s.runProduct t ref d faults)

/-! ## EXPONENT (R95) -/

/-- Store anchors of i16 from `ga` on, those of lines that draw on poison as poison. -/
def State.storeAnchors (s : State) (r : Req) (ga : Nat) (xs : List OpVec) : State :=
  s.storeElems r ga 16 (xs.map fun v => (unsigned 16 v.anchor, v.poison))

/-- Run an EXPONENT task: the anchor arrays and nothing else. -/
def State.runExponent (s : State) (t : Nat) (ref : TaskRef) (d : TDesc) : State :=
  let s0 := s.popTask t ref
  let r := tileReq t
  let x := s0.readSides r d
  let s1 := (x.1.storeAnchors r d.anch x.2.1.lines).storeAnchors r (d.anch + 2 * d.m) x.2.2.lines
  let poison := (x.2.1.lines ++ x.2.2.lines).any fun v => v.poison
  let s2 := if poison then s1.tnsEv t 3 ref.addr else s1
  s2.taskStatus t ref (if poison then 0x26 else 0)

/-- TASK_EXPONENT (R95). -/
def execTaskExponent (t : Fin 256) (s : State) : Host.Outcome State Fault Refusal :=
  .next (s.startTask t 3 fun s ref d => s.runExponent t ref d)

/-! ## COMBINE (R97) -/

/-- A partial as it is read: the integer, the class bits, E or F, the s byte and whether it is poison. -/
structure Part where
  acc : Int
  cls : Nat
  ex : Int
  sl : Nat
  poison : Bool
  deriving DecidableEq, Repr

/-- Read one partial (Table 4-4). -/
def State.readPart (s : State) (r : Req) (ga psize : Nat) : State × Part :=
  let q := s.gload r ga psize
  let v := bytesNat q.1
  let bits := if psize = 16 then 96 else 192
  (s.gloadSt r ga psize,
    ⟨signed bits v, nf v (bits + 16) 3, signed 16 (nf v bits 16), if psize = 16 then 0 else nf v 216 8, q.2⟩)

/-- Combine the partials of one element: the element, and the code that applies (R97). -/
def combineParts (psize : Nat) (ps : List Part) : AccEl × Nat × Nat :=
  match ps with
  | [] => (⟨0, 0, 0, false⟩, 0, 0)
  | p0 :: _ =>
    let poison := ps.any fun p => p.poison
    let bad := (ps.any fun p => p.ex != p0.ex || p.sl != p0.sl) ||
      (psize == 32 && !(decide (5 ≤ p0.sl) && decide (p0.sl ≤ 8)))
    let sum := ps.foldl (fun a p => a + p.acc) 0
    let lim : Int := 2 ^ (if psize = 16 then 95 else 191)
    if bad then (⟨0, clsNan, p0.ex, poison⟩, p0.sl, 0x23)
    else if sum < -lim ∨ lim ≤ sum then (⟨0, clsNan, p0.ex, poison⟩, p0.sl, 0x24)
    else (⟨sum, ps.foldl (fun a p => a ||| p.cls) 0, p0.ex, poison⟩, p0.sl, 0)

/-- Read and combine every element of row `i`. -/
def State.combineRow (s : State) (r : Req) (d : TDesc) (i : Nat) : State × List (AccEl × Nat × Nat) :=
  mapN (fun s j =>
    let q := mapN (fun s n => s.readPart r (d.aAddr + n * d.bAddr + i * d.aPitch + d.psize * j) d.psize) d.k 0 s
    (q.1, combineParts d.psize q.2)) d.n 0 s

/-- The elements of a block that combined partials give, to be written out. -/
def combineOut (c : TaskCtx) (d : TDesc) (rows : List (List (AccEl × Nat × Nat))) (i j : Nat) : OutEl × Nat :=
  let x := (rows.getD i []).getD j (⟨0, 0, 0, true⟩, 0, 0)
  let z := convSteps d c.epi i j (x.1.value (if d.psize = 16 then x.1.ex - 94 else x.1.ex))
  (⟨i, j, x.1, z.1, x.1.poison || z.2⟩, x.2.1)

/-- Store one line of a COMBINE block. The s byte of a partial is its element's. -/
def State.combineLine (s : State) (c : TaskCtx) (d : TDesc) (line k0 : Nat) (xs : List (OutEl × Nat)) : State :=
  if d.ofmt = 0x1F then
    s.storeElems c.r (d.cAddr + line * d.cPitch + d.psize * k0) (8 * d.psize)
      (xs.map fun x => (partialNum d.psize x.2 x.1.acc, x.1.poison))
  else s.emitLine c d 0 line k0 (xs.map Prod.fst)

/-- Store one block of a COMBINE task. -/
def State.combineBlock (c : TaskCtx) (d : TDesc) (rows : List (List (AccEl × Nat × Nat))) (s : State) (k : Blk) :
    State :=
  if d.colMajor then
    (upFrom k.c0 k.nc).foldl (fun s j => s.combineLine c d j k.r0
      ((upFrom k.r0 k.nr).map fun i => combineOut c d rows i j)) s
  else
    (upFrom k.r0 k.nr).foldl (fun s i => s.combineLine c d i k.c0
      ((upFrom k.c0 k.nc).map fun j => combineOut c d rows i j)) s

/-- Run a COMBINE task. -/
def State.runCombine (s : State) (t : Nat) (ref : TaskRef) (d : TDesc) : State :=
  let s0 := s.popTask t ref
  let c := s0.taskCtx t d
  let x := mapN (fun s i => s.combineRow (tileReq t) d i) d.m 0 c.1
  let s1 := (blocksOf d.m d.n).foldl (State.combineBlock c.2 d x.2) x.1
  let codes := x.2.flatMap fun row => row.map fun e => e.2.2
  let poison := (x.2.any fun row => row.any fun e => e.1.poison) ||
    (c.2.epi.rows ++ c.2.epi.cols ++ c.2.epi.bias).any fun e => e.2
  let s2 := if poison then s1.tnsEv t 3 ref.addr else s1
  s2.taskStatus t ref (lowestStatus (codes ++ if poison then [0x26] else []))

/-- TASK_COMBINE (R97). -/
def execTaskCombine (t : Fin 256) (s : State) : Host.Outcome State Fault Refusal :=
  .next (s.startTask t 4 fun s ref d => s.runCombine t ref d)

/-! ## Registers (R117) -/

/-- A write to TNS_CFG: LOCK locks ABFT_FORCE (R10, R117); a tile the grade lacks ignores it (R29). -/
def State.tnsCfgWrite (s : State) (t : Nat) (v : W64) : State :=
  if numTiles s.grade ≤ t then s else s.plainWrite (Reg.tnsCfg t) v

/-- TNS_CFG_LOCK (R117). -/
def execTnsCfgLock (t : Fin 256) (v : BitVec 32) (s : State) : Host.Outcome State Fault Refusal :=
  .next (s.bar (Reg.tnsCfg t) fun s => s.tnsCfgWrite t (v.zeroExtend 64))

end Sys2Proof.Machine
end

