-- ==== Sys2Proof/Machine/Prog.lean ====
section
/-! DEFINITION. Virulax programs (chapters 05 and 07): their state, the context area, terminating faults, interruption,
and how one instruction completes (R119 to R127, R150 to R156, R176 to R181). -/
namespace Sys2Proof.Machine

/-! ## Units and registers -/

/-- The key of a unit's program in the state. -/
def progKey : VUnit → Nat
  | .tile t => t
  | .core c => 256 + c

/-- A unit that runs programs, as a requester. -/
def progReq : VUnit → Req
  | .tile t => tileReq t
  | .core c => ⟨0x10, c⟩

def State.progOf (s : State) (u : VUnit) : Option Prog := Tbl.get none s.progs (progKey u)
def State.setProg (s : State) (u : VUnit) (p : Option Prog) : State :=
  { s with progs := Tbl.set none s.progs (progKey u) p }

/-- Is the unit parked (R375)? -/
def State.unitParked (s : State) : VUnit → Bool
  | .tile t => s.isParked 0 t
  | .core c => s.isParked 1 c

/-- The vector engine registers of a unit (R160, R211). -/
def vePc : VUnit → Nat
  | .tile t => Reg.tnsVePc t
  | .core c => Reg.slvVePc c
def veFaultPc : VUnit → Nat
  | .tile t => Reg.tnsVeFaultPc t
  | .core c => Reg.slvVeFaultPc c
def veInstr : VUnit → Nat
  | .tile t => Reg.tnsVeCntInstr t
  | .core c => Reg.slvVeCntInstr c
def veBusy : VUnit → Nat
  | .tile t => Reg.tnsVeCntBusy t
  | .core c => Reg.slvVeCntBusy c
def veRestart : VUnit → Nat
  | .tile t => Reg.tnsVeCntRestart t
  | .core c => Reg.slvVeCntRestart c
def veEmptyRow : VUnit → Nat
  | .tile t => Reg.tnsVeCntEmptyRow t
  | .core c => Reg.slvVeCntEmptyRow c
def veFault : VUnit → Nat
  | .tile t => Reg.tnsVeCntFault t
  | .core c => Reg.slvVeCntFault c
def veLastFault : VUnit → Nat
  | .tile t => Reg.tnsVeLastFault t
  | .core c => Reg.slvVeLastFault c

/-- Register x`i`: x0 reads 0 (R176). -/
def Prog.xr (p : Prog) (i : Nat) : W64 := if i = 0 then 0 else Tbl.get 0 p.x i
/-- Write register x`i`: a write to x0 is ignored (R176). -/
def Prog.setX (p : Prog) (i : Nat) (v : W64) : Prog := if i = 0 then p else { p with x := Tbl.set 0 p.x i v }
def Prog.fr (p : Prog) (i : Nat) : W64 := Tbl.get 0 p.f i
def Prog.setF (p : Prog) (i : Nat) (v : W64) : Prog := { p with f := Tbl.set 0 p.f i v }
def Prog.vr (p : Prog) (i : Nat) : VWord := Tbl.get 0 p.v i
def Prog.setV (p : Prog) (i : Nat) (v : VWord) : Prog := { p with v := Tbl.set 0 p.v i v }
def Prog.mr (p : Prog) (i : Nat) : MWord := Tbl.get 0 p.m i
def Prog.setM (p : Prog) (i : Nat) (v : MWord) : Prog := { p with m := Tbl.set 0 p.m i v }

/-- Is granule `g` of v`i` poisoned (R140)? -/
def Prog.granPois (p : Prog) (i g : Nat) : Bool := Tbl.get false p.pois (32 * i + g)

/-! ## The program's state at entry (R155, R181) -/

/-- The state a program starts in, from its entry and what it is passed in x1 to x7. -/
def Prog.entry (pc x1 x2 x3 arg stream elem draw : Nat) : Prog :=
  let p : Prog :=
    { pc := BitVec.ofNat 64 pc, x := [], f := [], v := [], m := [], pois := [], vl := 0, vtype := 0x80000000,
      vstream := BitVec.ofNat 32 stream, vdraw := BitVec.ofNat 24 draw, vebase := BitVec.ofNat 64 elem, vestep := 1,
      vmonid := 0, vsmbeta := 0x3F800000, vcatt := 0x3F800000, ctx := 0, desc := 0, act := 0, idx := 0, signal := 0xFF,
      seed := 0, stitch := 0, start := 0, dests := [], wait := .no, saved := false, ended := none }
  ((((((p.setX 1 (BitVec.ofNat 64 x1)).setX 2 (BitVec.ofNat 64 x2)).setX 3 (BitVec.ofNat 64 x3)).setX 4
    (BitVec.ofNat 64 arg)).setX 5 (BitVec.ofNat 64 stream)).setX 6 (BitVec.ofNat 64 elem)).setX 7 (BitVec.ofNat 64 draw)

/-- The samples a program takes when it starts (R214, R215). -/
def State.sampled (s : State) (p : Prog) : Prog :=
  { p with seed := s.reg Reg.bobSeed, stitch := s.stitch.truncate 32, start := s.ft }

/-! ## Stores and fences (R138, R283) -/

/-- Is a fence of a program complete: no held store, and nothing outstanding to any node it wrote (R283)? -/
def State.fenceMet (s : State) (r : Req) (p : Prog) : Bool :=
  !s.holdsFor r && p.dests.all fun d => s.outstTo d == 0

/-- A program wrote a global address: a node other than its own is remembered for its fences. -/
def State.wrote (s : State) (ga : Nat) (p : Prog) : Prog :=
  let n := ga / 2 ^ 48 % 65536
  if s.isLocal ga ∨ n ∈ p.dests then p else { p with dests := p.dests ++ [n] }

/-! ## The context area (R153) -/

/-- The size of the context area. -/
def ctxSize : Nat := 296960

/-- The number that registers `i` to `i + n − 1` of `w` bits make, the first lowest. -/
def joinRegs (w : Nat) (get : Nat → Nat) : Nat → Nat → Nat
  | _, 0 => 0
  | i, n + 1 => get i % 2 ^ w + 2 ^ w * joinRegs w get (i + 1) n

/-- Element (i, j) of a held block: ZERO with anchor −32,768 beyond its rows and columns (R136). -/
def HeldBlock.el (h : HeldBlock) (i j : Nat) : AccEl := ((h.rows.getD i []).getD j ⟨0, 0, noAnchor, false⟩)

/-- The 32 bytes of a held element in the context area (R153, Table 4-4). -/
def heldBytes (h : HeldBlock) (k : Nat) : List Byte :=
  let x := h.el (k / 64) (k % 64)
  if h.slices = 0 then natBytes 32 (partialNum 16 0 x) else natBytes 32 (partialNum 32 h.slices x)

/-- The context from offset 0x40 on (Table 5-7). -/
def Prog.ctxBody (p : Prog) (h : Option HeldBlock) : List Byte :=
  natBytes 256 (joinRegs 64 (fun i => (p.xr i).toNat) 0 32) ++ natBytes 256 (joinRegs 64 (fun i => (p.fr i).toNat) 0 32) ++
  natBytes 128 (joinRegs 1 (fun i => bnat (Tbl.get false p.pois i)) 0 1024) ++
  natBytes 8 p.vstream.toNat ++ natBytes 8 p.vdraw.toNat ++ natBytes 8 p.vebase.toNat ++ natBytes 8 p.vestep.toNat ++
  natBytes 8 p.vmonid.toNat ++ natBytes 8 p.vsmbeta.toNat ++ natBytes 8 p.vcatt.toNat ++ natBytes 8 0 ++
  natBytes 256 0 ++ (List.range 8).flatMap (fun i => natBytes 128 (p.mr i).toNat) ++
  (List.range 32).flatMap (fun i => natBytes 1024 (p.vr i).toNat) ++
  match h with
  | some b => (List.range 8192).flatMap (heldBytes b)
  | none => List.replicate 262144 0

/-- The whole context, with FLAGS.FAULT and the status bytes of a terminating fault. -/
def Prog.ctxBytes (p : Prog) (stitch : W64) (h : Option HeldBlock) (fault : Bool) (st : List Byte) : List Byte :=
  let body := p.ctxBody h
  let sliced := match h with
    | some b => b.slices != 0
    | none => false
  natBytes 4 1 ++ natBytes 4 p.vl ++ natBytes 4 p.vtype.toNat ++
    natBytes 4 (bnat h.isSome + 2 * bnat fault + 4 * bnat sliced) ++ natBytes 8 p.pc.toNat ++
    natBytes 8 stitch.toNat ++ natBytes 8 (crc64 body) ++ (st ++ List.replicate 24 0).take 24 ++ body

/-- The block held on a unit: only tiles hold one. -/
def State.heldBy (s : State) : VUnit → Option HeldBlock
  | .tile t => s.heldOf t
  | .core _ => none

/-- Write the context area of a program; held elements that draw on poison are written as poison. -/
def State.saveCtx (s : State) (u : VUnit) (p : Prog) (fault : Bool) (st : List Byte) : State :=
  let h := s.heldBy u
  let r := progReq u
  let s1 := s.gstore r p.ctx (p.ctxBytes s.stitch h fault st) false
  match h with
  | none => s1
  | some b => (List.range 8192).foldl (fun s k =>
      if (b.el (k / 64) (k % 64)).poison then s.gstore r (p.ctx + 0x8800 + 32 * k) (heldBytes b k) true else s) s1

/-! ## The end of a program (R151, R156, R181) -/

/-- A core program completes: STATUS, the signal, its action, and the core's registers. -/
def State.coreDone (s : State) (c : Nat) (p : Prog) (st : Nat) : State :=
  let s1 := (s.setProg (.core (Fin.ofNat 256 c)) none).count64 (Reg.slvCoreCntProgs c) 1
  let s2 := if st = 0 then s1 else
    (s1.setReg (Reg.slvCoreLastErr c) (BitVec.ofNat 64 p.desc)).event 0x10 Reg.slvEvent 10 c p.desc
  ((s2.writeStatus ⟨0x10, c⟩ (p.desc + 3) st).signal p.signal).descDone p.act p.idx st 0

/-- A program ends with a status: on a tile its task waits for TASK_COMPLETE, on a core it completes once its stores
are performed and acknowledged. -/
def State.endProg (s0 : State) (u : VUnit) (p : Prog) (st : Nat) : State :=
  let s := s0.dropAccesses (progReq u)
  match u with
  | .tile t =>
    let s1 := s.setProg u none
    match s1.runOf t with
    | some rt => s1.setRun t (some { rt with prog := false, status := st })
    | none => s1
  | .core c =>
    if !s.unitOwes (progReq u) then s.coreDone c p st else s.setProg u (some { p with ended := some st, wait := .no })

/-- Ended core programs whose stores have since been acknowledged complete. -/
def State.settleCores (s : State) : State :=
  s.progs.foldl (fun s e => match e.2 with
    | some p => match p.ended with
      | some st => if 256 ≤ e.1 && !s.unitOwes ⟨0x10, e.1 - 256⟩ then s.coreDone (e.1 - 256) p st else s
      | none => s
    | none => s) s

/-- The consumption of poison ends the work at once, and stops the partition (R372). -/
def State.poisonEnd (s : State) (u : VUnit) (p : Prog) : State :=
  let s1 := match u with
    | .tile t => match s.runOf t with
      | some rt => s.finishTask t rt
      | none => s
    | .core c => match s.progOf u with
      | some q => if q.ended.isSome then s.coreDone c q 0x33 else s
      | none => s
  s1.poisonKill (progReq u).unit p.pc.toNat

/-- A terminating fault (R151, R156): the context is saved with FLAGS.FAULT, the unit's fault registers are set, an event
is logged, and the program ends with the status. `mf` is MAJ ‖ FN[5:4]. -/
def State.progFault (s : State) (u : VUnit) (p : Prog) (st mf : Nat) (code : List Byte) : State :=
  let s1 := s.saveCtx u p true (natBytes 1 st ++ code)
  let s2 := (((s1.setReg (vePc u) p.pc).setReg (veFaultPc u) p.pc).setReg (veLastFault u)
    (BitVec.ofNat 64 (st + mf % 256 * 256))).count32 (veFault u) 1
  let s3 := match u with
    | .tile t => s2.logPlain 0x0C t p.desc
    | .core _ => s2
  let s4 := s3.endProg u p st
  if st = 0x33 then s4.poisonEnd u p else s4

/-! ## One instruction -/

/-- What an instruction does: it completes and the PC advances, it completes with another PC, the program ends with a
status, it stops at a terminating fault, or it is held and completes later. -/
inductive IRes where
  | done (s : State) (p : Prog)
  | jump (s : State) (p : Prog) (pc : W64)
  | ends (s : State) (p : Prog) (st : Nat)
  | fault (s : State) (st : Nat) (code : List Byte)
  | hold (s : State) (p : Prog)

/-- The state that what an instruction does leaves. -/
def IRes.st : IRes → State
  | .done s _ => s
  | .jump s _ _ => s
  | .ends s _ _ => s
  | .fault s _ _ => s
  | .hold s _ => s

/-- May the program of a unit execute an instruction? One that waits for the data of its accesses tries its instruction
again. -/
def State.progReady (s : State) (u : VUnit) (p : Prog) : Bool :=
  p.ended.isNone && !p.saved && !s.unitParked u && (match p.wait with
    | .no => true
    | .remote _ => true
    | _ => false)

/-- The counters of an instruction that completes. -/
def State.instrDone (s : State) (u : VUnit) (pc : W64) : State :=
  ((s.setReg (vePc u) pc).count64 (veInstr u) 1).countFree (veBusy u)

/-- An instruction whose accesses lack data waits for them: it has no other effect yet (R137, R150). -/
def State.stall (s s1 : State) (u : VUnit) (p : Prog) (mf : Nat) : State :=
  ((s.issueAccesses s1 (progReq u)).setProg u (some { p with wait := .remote mf })).setReg (vePc u) p.pc

/-- What an instruction does takes effect. -/
def State.commit (u : VUnit) (p : Prog) (mf : Nat) : IRes → State
  | .done s1 p1 => (s1.setProg u (some { p1 with pc := p.pc + 4 })).instrDone u p.pc
  | .jump s1 p1 pc => (s1.setProg u (some { p1 with pc := pc })).instrDone u p.pc
  | .ends s1 p1 st => (s1.instrDone u p.pc).endProg u p1 st
  | .fault s1 st code => s1.progFault u p st mf code
  | .hold s1 p1 => (s1.setProg u (some p1)).setReg (vePc u) p.pc

/-- Execute one instruction of the program of a unit (R150, R159); without a program that is ready, nothing happens. -/
def State.instr (s : State) (u : VUnit) (mf : Nat) (body : State → Prog → IRes) : State :=
  match s.progOf u with
  | none => s
  | some p =>
    if s.progReady u p = false then s else
    let r := body s { p with wait := .no }
    if r.st.lacks (progReq u) then s.stall r.st u p mf else (State.commit u p mf r).dropAccesses (progReq u)

/-- A waiting instruction completes. -/
def State.resume (s : State) (u : VUnit) (p : Prog) : State :=
  (s.setProg u (some { p with wait := .no, pc := p.pc + 4 })).instrDone u p.pc

/-! ## Interruption and resumption (R151, R152) -/

/-- An interruption: the instruction is abandoned, the context saved and the unit drained. -/
def State.interrupt (s : State) (u : VUnit) : State :=
  match s.progOf u with
  | none => s
  | some p =>
    if p.saved || p.ended.isSome then s else
    (((s.saveCtx u p false []).setProg u (some { p with saved := true, wait := .no })).count32 (veRestart u) 1).dropReads (progReq u)

/-- VE_INTERRUPT (R152). -/
def execVeInterrupt (u : VUnit) (s : State) : Host.Outcome State Fault Refusal := .next (s.interrupt u)

/-- The registers that a context holds, over the program that is resumed. -/
def Prog.restore (p : Prog) (b : List Byte) : Prog :=
  { p with
    pc := BitVec.ofNat 64 (lef b 0x10 8)
    vl := lef b 4 4
    vtype := BitVec.ofNat 32 (lef b 8 4)
    x := (upFrom 1 31).foldl (fun t i => Tbl.set 0 t i (BitVec.ofNat 64 (lef b (0x40 + 8 * i) 8))) []
    f := (List.range 32).foldl (fun t i => Tbl.set 0 t i (BitVec.ofNat 64 (lef b (0x140 + 8 * i) 8))) []
    pois := (List.range 1024).foldl (fun t i => Tbl.set false t i (nf (lef b (0x240 + i / 8) 1) (i % 8) 1 == 1)) []
    vstream := BitVec.ofNat 32 (lef b 0x2C0 4)
    vdraw := BitVec.ofNat 24 (lef b 0x2C8 3)
    vebase := BitVec.ofNat 64 (lef b 0x2D0 8)
    vestep := BitVec.ofNat 64 (lef b 0x2D8 8)
    vmonid := BitVec.ofNat 16 (lef b 0x2E0 2)
    vsmbeta := BitVec.ofNat 32 (lef b 0x2E8 4)
    vcatt := BitVec.ofNat 32 (lef b 0x2F0 4)
    m := (List.range 8).foldl (fun t i => Tbl.set 0 t i (BitVec.ofNat 1024 (lef b (0x400 + 128 * i) 128))) []
    v := (List.range 32).foldl (fun t i => Tbl.set 0 t i (BitVec.ofNat 8192 (lef b (0x800 + 1024 * i) 1024))) []
    saved := false
    wait := .no }

/-- A held element as a context holds it. -/
def heldOfBytes (sliced : Bool) (b : List Byte) (pois : Bool) : AccEl :=
  let v := bytesNat b
  let bits := if sliced then 192 else 96
  ⟨signed bits v, nf v (bits + 16) 3, signed 16 (nf v bits 16), pois⟩

/-- The held block that a context holds. -/
def State.heldOfCtx (s : State) (r : Req) (ctx : Nat) (b : List Byte) : Option HeldBlock :=
  let fl := lef b 0x0C 4
  if nf fl 0 1 = 0 then none else
  let sliced := nf fl 2 1 == 1
  some ⟨if sliced then nf (lef b 0x8800 32) 216 8 else 0,
    (List.range 128).map fun i => (List.range 64).map fun j =>
      let off := 0x8800 + 32 * (64 * i + j)
      heldOfBytes sliced ((b.drop off).take 32) (s.gload r (ctx + off) 32).2⟩

/-- The engine reads the context of an interrupted program back and continues at the saved PC. A context whose registers
read as poison would carry poison to scalar registers (R140); one that fails its check ends the program (R153). -/
def State.resumeProg (s : State) (u : VUnit) (p : Prog) : State :=
  let r := progReq u
  let q := s.gload r p.ctx ctxSize
  let s1 := s.gloadSt r p.ctx ctxSize
  if (s.gload r p.ctx 0x8800).2 then (s1.setProg u (some { p with saved := false })).progFault u p 0x33 0 []
  else if lef q.1 0 4 ≠ 1 ∨ crc64 (q.1.drop 0x40) ≠ lef q.1 0x20 8 then
    (s1.setProg u (some { p with saved := false })).progFault u p 0x35 0 []
  else
    let s2 := match u with
      | .tile t => s1.setHeld t (s.heldOfCtx r p.ctx q.1)
      | .core _ => s1
    s2.setProg u (some (p.restore q.1))

/-- The context is read back once all of it is there: a context area of another node is asked for first. -/
def State.restoreCtx (s : State) (u : VUnit) (p : Prog) : State :=
  let s1 := s.resumeProg u p
  if s1.lacks (progReq u) then s.issueAccesses s1 (progReq u) else s1.dropReads (progReq u)

/-- CONTEXT_RESTORE (R152, R153). -/
def execContextRestore (u : VUnit) (s : State) : Host.Outcome State Fault Refusal :=
  match s.progOf u with
  | some p => if p.saved && !s.unitParked u then .next (s.restoreCtx u p) else .next s
  | none => .next s

/-! ## VPROG (R154 to R156) -/

/-- Start the program of a VPROG task. -/
def State.runVprog (s : State) (t : Nat) (ref : TaskRef) (d : TDesc) : State :=
  let s1 := (s.popTask t ref).setRun t (some ⟨ref, true, 0⟩)
  let p := Prog.entry d.aAddr d.m d.n d.k d.bAddr d.stream d.elemBase d.draw
  s1.setProg (.tile (Fin.ofNat 256 t)) (some (s1.sampled
    { p with ctx := d.cAddr, desc := ref.addr, act := ref.act, idx := ref.idx, signal := d.signalId }))

/-- TASK_VPROG (R155). -/
def execTaskVprog (t : Fin 256) (s : State) : Host.Outcome State Fault Refusal :=
  .next (s.startTask t 5 fun s ref d => s.runVprog t ref d)

end Sys2Proof.Machine
end

