-- ==== Sys2Proof/Machine/Encoding.lean ====
section
/-! DEFINITION. The encodings of Virulax: what command of the unit each instruction word spells, from Tables 5-8 to 5-10 for
Virulax V and Tables 7-2 and 7-3 for the scalar base; and what a unit does with the word that it fetches at its PC (R151,
R157, R158, R176, R177). -/
namespace Sys2Proof.Machine

/-! ## Fields -/

/-- The field of `n` bits at `lo` of a word. -/
def wf (w : W32) (lo n : Nat) : Nat := w.toNat / 2 ^ lo % 2 ^ n

/-- The register field at `lo` of a word. -/
def wreg (w : W32) (lo : Nat) : Fin 32 := Fin.ofNat 32 (wf w lo 5)

/-- The immediates of the forms RI, SI, WI and JI (Table 7-2). -/
def immRI (w : W32) : BitVec 11 := BitVec.ofNat 11 (wf w 15 11)
def immSI (w : W32) : BitVec 11 := BitVec.ofNat 11 (wf w 20 6 * 32 + wf w 5 5)
def immWI (w : W32) : BitVec 16 := BitVec.ofNat 16 (wf w 10 16)
def immJI (w : W32) : BitVec 21 := BitVec.ofNat 21 (wf w 5 21)

/-- The operand fields of a Virulax V word (Table 5-8); a scalar form is one of MAJ 0x31 and 0x33. -/
def vfields (w : W32) : VFields where
  sc := wf w 26 6 == 0x31 || wf w 26 6 == 0x33
  b := wreg w 15
  a := wreg w 10
  d := wreg w 5
  msk := Fin.ofNat 8 (wf w 2 3)
  m1 := wf w 1 1 == 1
  z := wf w 0 1 == 1

/-! ## Virulax V (Table 5-10) -/

/-- The functions of MAJ 0x30 and 0x31 that both have. -/
def vIntFns : List (Nat × (VUnit → VFields → Instr)) :=
  [(0x00, .vadd), (0x01, .vsub), (0x02, .vmul), (0x03, .vmulhi), (0x04, .vmin), (0x05, .vmax), (0x06, .vminu), (0x07, .vmaxu),
   (0x08, .vand), (0x09, .vor), (0x0A, .vxor), (0x0B, .vshl), (0x0C, .vshr), (0x0D, .vsar), (0x0E, .vsadd), (0x0F, .vssub),
   (0x10, .vaddW), (0x11, .vmulW), (0x13, .vmov), (0x18, .vcmpEq), (0x19, .vcmpNe), (0x1A, .vcmpLt), (0x1B, .vcmpLtu),
   (0x1C, .vcmpLe), (0x1D, .vcmpLeu)]

/-- The functions of MAJ 0x32 and 0x33 that both have. -/
def vFpFns : List (Nat × (VUnit → VFields → Instr)) :=
  [(0x00, .vfadd), (0x01, .vfsub), (0x02, .vfmul), (0x03, .vfdiv), (0x04, .vfmin), (0x05, .vfmax), (0x06, .vfma), (0x07, .vfnma),
   (0x08, .vfcopys), (0x09, .vfcopysn), (0x10, .vfaddW), (0x11, .vfmulW), (0x12, .vfmaW), (0x15, .vfmov), (0x18, .vfcmpEq),
   (0x19, .vfcmpNe), (0x1A, .vfcmpLt), (0x1B, .vfcmpLe), (0x1C, .vfcmpUn)]

/-- The functions of MAJ 0x32 alone; functions 7 and 8 of VFUNARY are VFNEG and VFABS (Table 5-5). -/
def vFpOnlyFns (a : Fin 32) : List (Nat × (VUnit → VFields → Instr)) :=
  [(0x13, fun u => .vfdot4 u false), (0x14, fun u => .vfdot4 u true), (0x16, fun u => .vfdot2 u false),
   (0x17, fun u => .vfdot2 u true), (0x20, .vfcvt), (0x21, if a = 7 then .vfneg else if a = 8 then .vfabs else .vfunary),
   (0x22, .vfupd)]

/-- The functions of MAJ 0x36. -/
def vPermFns : List (Nat × (VUnit → VFields → Instr)) :=
  [(0x00, .vkand), (0x01, .vkor), (0x02, .vkxor), (0x03, .vkandn), (0x04, .vknot), (0x05, .vkcount), (0x06, .vklead),
   (0x08, .vsumr), (0x09, .vmaxr), (0x0A, .vminr), (0x0B, .vmaxru), (0x0C, .vminru), (0x0D, .vfsumrT), (0x0E, .vfsumrX),
   (0x0F, .vfmaxr), (0x10, .vfminr), (0x11, .vargmaxr), (0x12, .vargminr), (0x18, .vsscanAdd), (0x19, .vsscanMax),
   (0x1A, .vsscanMin), (0x1B, .vfsscanAdd), (0x1C, .vfsscanMax), (0x1D, .vfsscanMin), (0x20, .vhist), (0x21, .vpack),
   (0x22, .vspread), (0x23, .vpick), (0x24, .vindex)]

/-- The functions of MAJ 0x37. -/
def vSysFns : List (Nat × (VUnit → VFields → Instr)) :=
  [(0x00, .vlset), (0x02, fun u => .vlseti u false), (0x03, fun u => .vlseti u true), (0x04, .vcrrd), (0x05, .vcrwr),
   (0x08, .vaccr), (0x0C, .vsmax), (0x0D, .vcatd), (0x0E, .vbern), (0x0F, .vrand), (0x10, .vfence), (0x11, .vend),
   (0x12, .vtrap)]

/-- The functions of a major opcode of Virulax V. -/
def vFns (w : W32) : List (Nat × (VUnit → VFields → Instr)) :=
  match wf w 26 6 with
  | 0x30 => (0x12, .vdot4) :: vIntFns
  | 0x31 => vIntFns
  | 0x32 => vFpFns ++ vFpOnlyFns (wreg w 10)
  | 0x33 => vFpFns
  | 0x34 => (List.range 8).map fun k => (k, fun u => .vld u (BitVec.ofNat 3 k))
  | 0x35 => (0x12, fun u => .vstadd u false) :: (0x16, fun u => .vstadd u true) ::
      (List.range 8).map fun k => (k, fun u => .vst u (BitVec.ofNat 3 k))
  | 0x36 => vPermFns
  | 0x37 => vSysFns
  | _ => []

/-! ## The scalar base (Table 7-3) -/

/-- The functions of MAJ 0x00, in their order. -/
def aluFns : List (VUnit → Fin 32 → Fin 32 → Fin 32 → Instr) :=
  [.add, .sub, .mul, .mulhi, .mulhiu, .quo, .quou, .mod, .modu, .and, .or, .xor, .shl, .shr, .sar, .cmplt, .cmpltu, .min, .max,
   .lzc, .bitcnt]

/-- The instructions of MAJ 0x01, 0x03, 0x04 and 0x05, by SUB. -/
def aluIFns : List (VUnit → Fin 32 → Fin 32 → BitVec 11 → Instr) :=
  [.addI, .andI, .orI, .xorI, .shlI, .shrI, .sarI, .cmpltI]
def loadFns : List (VUnit → Fin 32 → Fin 32 → BitVec 11 → Instr) :=
  [.ldB, .ldH, .ldW, .ldD, .ldBu, .ldHu, .ldWu, .ldfS, .ldfD]
def storeFns : List (VUnit → Fin 32 → Fin 32 → BitVec 11 → Instr) := [.stB, .stH, .stW, .stD, .stfS, .stfD]
def branchFns : List (VUnit → Fin 32 → Fin 32 → BitVec 11 → Instr) := [.brEq, .brNe, .brLt, .brGe, .brLtu, .brGeu]

/-- The functions of MAJ 0x07, in their order: destination, sources B and A, and SUB[0]. -/
def fpFns : List (VUnit → Fin 32 → Fin 32 → Fin 32 → Bool → Instr) :=
  [.fadd, .fsub, .fmul, .fdiv, fun u d a _ => .fsqrt u d a, .fmin, .fmax, .fma, .fnma, .fcopys, .fcopysn, .fcmpEq, .fcmpLt,
   .fcmpLe, fun u d a _ => .fconvFI u d a, fun u d a _ => .fconvIF u d a, fun u d a _ => .fconvFF u d a,
   fun u d a _ => .fmovIF u d a, fun u d a _ => .fmovFI u d a]

/-- The functions of MAJ 0x08, in their order. -/
def atomFns : List (VUnit → Fin 32 → Fin 32 → Fin 32 → Instr) :=
  [.atmAdd, .atmSwap, .atmMax, .atmMin, .atmCas, fun u _ _ _ => .fence u, fun u _ a b => .waitsc u a b,
   fun u _ a _ => .sigsc u a]

/-- The instruction of a word of the scalar base. A register field that its instruction does not use is ignored (log entry
85). -/
def decodeBase (u : VUnit) (w : W32) : Option Instr :=
  let b := wreg w 15
  let a := wreg w 10
  let d := wreg w 5
  let fn := wf w 20 6
  let sub := wf w 0 5
  match wf w 26 6 with
  | 0x00 => if sub = 0 then aluFns[fn]?.map fun f => f u d a b else none
  | 0x01 => aluIFns[sub]?.map fun f => f u d a (immRI w)
  | 0x02 => match sub with
    | 0 => some (.movh16 u d (immWI w))
    | 1 => some (.shlor16 u d (immWI w))
    | _ => none
  | 0x03 => loadFns[sub]?.map fun f => f u d a (immRI w)
  | 0x04 => storeFns[sub]?.map fun f => f u a b (immSI w)
  | 0x05 => branchFns[sub]?.map fun f => f u a b (immSI w)
  | 0x06 => match sub with
    | 0 => some (.jump u (immJI w))
    | 1 => some (.call u (immJI w))
    | 2 => some (.jumpr u a (immRI w))
    | 3 => some (.callr u a (immRI w))
    | _ => none
  | 0x07 => if sub < 2 then fpFns[fn]?.map fun f => f u d a b (sub == 1) else none
  | 0x08 => if sub = 0 then atomFns[fn]?.map fun f => f u d a b else none
  | 0x09 => match sub with
    | 0 => some (.crrd u d (immRI w))
    | 1 => some (.crwr u a (immRI w))
    | 2 => some (.endp u)
    | 3 => some (.trap u (immRI w))
    | _ => none
  | _ => none

/-- The command that a program's instruction word spells on unit `u`; none for an encoding that no table lists. A nonzero field
that a listed instruction of Virulax V does not use is that instruction's own check (R158). -/
def decodeVirulax (u : VUnit) (w : W32) : Option Instr :=
  if wf w 26 6 < 0x30 then decodeBase u w
  else ((vFns w).find? fun e => e.1 == wf w 20 6).map fun e => e.2 u (vfields w)

/-! ## Fetching -/

/-- The word that a unit's program is at, where the package's own memory holds it clean and free for reading; what another node,
poison or a refused address gives as an instruction is not judged (log entry 85). -/
def State.fetchWord (s : State) (u : VUnit) : Option W32 :=
  match s.progOf u with
  | none => none
  | some p =>
    let a := devAddr p.pc.toNat
    if s.progReady u p && s.isLocal p.pc.toNat && (firstRefused s.accessible a 4).isNone && !s.poisonIn a 4 &&
        !s.readFails a 4 && !s.rangeBusy a 4 false then
      some (BitVec.ofNat 32 (s.num a 4))
    else none

/-- A unit executes command `i`, which does `f`, where it is what the word at its PC spells; where the word spells another, that
other command is the program's next and this one does nothing; an unlisted encoding ends the program with VP_ILLEGAL. -/
def State.issue (s : State) (u : VUnit) (i : Instr) (f : State → State) : State :=
  match s.fetchWord u with
  | none => f s
  | some w => match decodeVirulax u w with
    | some j => if j = i then f s else s
    | none => s.instr u (wf w 24 8) fun s _ => .fault s 0x30 []

end Sys2Proof.Machine
end

