-- ==== Sys2Proof/Machine/Lanes.lean ====
section
/-! DEFINITION. The lanes of Virulax V: element access, masks, destinations, poison, formats and rounding, and how a
vector instruction is checked (R121 to R131, R140, R157, R158). -/
namespace Sys2Proof.Machine

/-! ## Configuration (R121, R122) -/

/-- EW in bits. -/
def Prog.ew (p : Prog) : Nat := 8 * 2 ^ fld p.vtype 0 2
/-- The elements of width `w` that a register holds. -/
def capOf (w : Nat) : Nat := 8192 / w
/-- VBAD: no valid configuration is in force. -/
def Prog.vbad (p : Prog) : Bool := bit p.vtype 31
/-- FMT, RND, SATINF and MON. -/
def Prog.fmtCode (p : Prog) : Nat := fld p.vtype 2 5
def Prog.rnd (p : Prog) : Rnd := rndOf (fld p.vtype 7 2)
def Prog.satinf (p : Prog) : Bool := bit p.vtype 9
def Prog.mon (p : Prog) : Bool := bit p.vtype 10

/-- The format of a floating-point instruction: one with "Yes" in Table 3-1 whose width is EW (R121). -/
def Prog.fpFmt (p : Prog) : Option Fmt :=
  match fmtOfCode p.fmtCode with
  | some (.plain f) => if f.t != 0 && decide (p.fmtCode ≤ 5) && f.width == p.ew then some f else none
  | _ => none

/-! ## Elements, masks and poison (R123, R125, R140) -/

/-- Lane `k` of width `w` of a register. -/
def lane (w : Nat) (v : VWord) (k : Nat) : Nat := v.toNat / 2 ^ (w * k) % 2 ^ w

/-- Is element `k` active under mask register `msk`? -/
def Prog.active (p : Prog) (msk k : Nat) : Bool := decide (k < p.vl) && (msk == 0 || bit (p.mr msk) k)

/-- Does lane `k` of width `w` of v`i` lie in a poisoned granule? -/
def Prog.lanePois (p : Prog) (i w k : Nat) : Bool := p.granPois i (w * k / 256)

/-- The indices of the active elements, in rising order. -/
def Prog.actives (p : Prog) (msk : Nat) : List Nat := (List.range p.vl).filter fun k => p.active msk k

/-- What a destination lane takes: a new value with its poison, or nothing. -/
abbrev LaneOut := Option (Nat × Bool)

/-- The destination rule (R126): an active element is written, an inactive one below VL is zeroed under Z, and any other
is left. -/
def Prog.dest (p : Prog) (o : VFields) (k : Nat) (x : Nat × Bool) : LaneOut :=
  if p.active o.msk k then some x else if o.z && decide (k < p.vl) then some (0, false) else none

/-- The number that lanes 0 to `n − 1` of width `w` make over an old content, from lane `k` on. -/
def joinLanes (w : Nat) (old : Nat → Nat) (new : Nat → LaneOut) : Nat → Nat → Nat
  | _, 0 => 0
  | k, n + 1 =>
    (match new k with
      | some x => x.1 % 2 ^ w
      | none => old k) + 2 ^ w * joinLanes w old new (k + 1) n

/-- The poison of granule `g` of a destination after lanes 0 to `n − 1` of width `w` were written over one whose poison
was `was`: any poisoned element it holds, written or left. -/
def granAfter (w n : Nat) (new : Nat → LaneOut) (was : Bool) (g : Nat) : Bool :=
  let lo := 256 * g / w
  (upFrom lo ((256 * g + 255) / w + 1 - lo)).any fun k =>
    match (if k < n then new k else none) with
    | some x => x.2
    | none => was

/-- Write lanes 0 to `n − 1` of width `w` of v`d`, and of the next register where they go beyond it (R123, R131). -/
def Prog.writeLanes (p : Prog) (d w n : Nat) (new : Nat → LaneOut) : Prog :=
  let two := decide (8192 < w * n)
  let old := (p.vr d).toNat + (if two then (p.vr (d + 1)).toNat * 2 ^ 8192 else 0)
  let v := joinLanes w (fun k => old / 2 ^ (w * k) % 2 ^ w) new 0 n + old / 2 ^ (w * n) * 2 ^ (w * n)
  let p1 := p.setV d (BitVec.ofNat 8192 v)
  let p2 := if two then p1.setV (d + 1) (BitVec.ofNat 8192 (v / 2 ^ 8192)) else p1
  let gs := (List.range (if two then 64 else 32)).filter fun g => decide (256 * g < w * n)
  { p2 with pois := gs.foldl (fun t g =>
      let i := 32 * d + g
      Tbl.set false t i (granAfter w n new (Tbl.get false p.pois i) g)) p2.pois }

/-- Write mask bits 0 to VL − 1 of m`d` under R126. -/
def Prog.writeMask (p : Prog) (d : Nat) (o : VFields) (f : Nat → Bool) : Prog :=
  let old := p.mr d
  let b (k : Nat) : Nat := bnat (if p.active o.msk k then f k else if o.z then false else bit old k)
  p.setM d (BitVec.ofNat 1024
    ((List.range p.vl).foldr (fun k a => b k + 2 * a) 0 + old.toNat / 2 ^ p.vl * 2 ^ p.vl))

/-! ## Sources -/

/-- Lane `k` of the second source: vs1, or xs1 broadcast. -/
def Prog.src1 (p : Prog) (o : VFields) (w k : Nat) : Nat :=
  if o.sc then (p.xr o.a).toNat % 2 ^ w else lane w (p.vr o.a) k
def Prog.src1Pois (p : Prog) (o : VFields) (w k : Nat) : Bool := !o.sc && p.lanePois o.a w k

/-- fs1 rounded to `f` under RNE and SATINF, as broadcast: f registers are read as binary64 (log entry 11). -/
def Prog.fscalar (p : Prog) (f : Fmt) (i : Nat) : Nat := encSat f p.satinf (decodeNum .b64 (p.fr i).toNat)

/-- The bits of lane `k` of the second source of a floating-point instruction. -/
def Prog.fsrc1 (p : Prog) (o : VFields) (f : Fmt) (k : Nat) : Nat :=
  if o.sc then p.fscalar f o.a else lane f.width (p.vr o.a) k

/-! ## Rounding (R129, R130) -/

/-- The draw key of a program. -/
def Prog.key (p : Prog) (purpose : Nat) : DrawKey :=
  { seed := p.seed, stream := p.vstream, stitch := p.stitch, purpose := purpose, draw := p.vdraw.toNat }

/-- The element index of element or row `k`: VEBASE + k × VESTEP. -/
def Prog.elemIndex (p : Prog) (k : Nat) : Nat := (p.vebase.toNat + k * p.vestep.toNat) % 2 ^ 64

/-- Round the value of element `k` to a format under VTYPE. -/
def Prog.roundEl (p : Prog) (f : Fmt) (k : Nat) (v : Num) : Nat × Ev :=
  roundTo f p.rnd p.satinf (if p.rnd = .sr then roundDraw (p.key 1) (p.elemIndex k) else 0) v

/-! ## Checking and executing (R121, R127, R150, R158) -/

/-- MAJ ‖ FN[5:4], as TNS_VE_LAST_FAULT shows it. -/
def majFn (maj fn : Nat) : Nat := maj * 4 + fn / 16

/-- VP_ILLEGAL. -/
abbrev illegal (s : State) : IRes := .fault s 0x30 []

/-- A vector instruction: VBAD and a nonzero unused field end the program before anything else; with VL = 0 it does
nothing but what `empty` says (R127). -/
def State.vinstr (s : State) (u : VUnit) (maj fn : Nat) (fieldsOk : Bool) (empty : Prog → Prog)
    (body : State → Prog → IRes) : State :=
  s.instr u (majFn maj fn) fun s p =>
    if p.vbad || !fieldsOk then illegal s
    else if p.vl = 0 then .done s (empty p)
    else body s p

/-- A Boolean condition of the chapter that ends the program with VP_ILLEGAL where it fails. -/
def need (s : State) (c : Bool) (r : IRes) : IRes := if c then r else illegal s

/-- The event of consumed poison (R140). -/
def consume (s : State) (c : Bool) (r : IRes) : IRes := if c then .fault s 0x33 [] else r

/-- An element-wise result of width `w` to vd under R126: `f k` gives element k and whether its sources are poisoned. -/
def Prog.elementwise (p : Prog) (o : VFields) (w : Nat) (f : Nat → Nat × Bool) : Prog :=
  p.writeLanes o.d w p.vl fun k => p.dest o k (f k)

/-- The two-source integer instructions of MAJ 0x30 and 0x31: `f w x y` combines lanes of vs2 and vs1. -/
def State.vint (s : State) (u : VUnit) (fn : Nat) (o : VFields) (f : Nat → Nat → Nat → Nat) : State :=
  s.vinstr u (0x30 + bnat o.sc) fn (!o.m1) id fun s p =>
    let w := p.ew
    .done s (p.elementwise o w fun k =>
      (f w (lane w (p.vr o.b) k) (p.src1 o w k), p.lanePois o.b w k || p.src1Pois o w k))

/-- A floating-point instruction: its format is valid (R121), or VP_ILLEGAL. -/
def State.vfp (s : State) (u : VUnit) (maj fn : Nat) (fieldsOk : Bool) (body : State → Prog → Fmt → IRes) : State :=
  s.vinstr u maj fn fieldsOk id fun s p =>
    match p.fpFmt with
    | some f => body s p f
    | none => illegal s

/-- The two-source floating-point arithmetic of MAJ 0x32 and 0x33: the exact result of vs2, vs1 and vd, rounded once. -/
def State.vfloat (s : State) (u : VUnit) (fn : Nat) (o : VFields) (usesD : Bool) (f : Num → Num → Num → Num) : State :=
  s.vfp u (0x32 + bnat o.sc) fn (!o.m1) fun s p fm =>
    let w := fm.width
    .done s (p.elementwise o w fun k =>
      let d := decodeNum fm (lane w (p.vr o.d) k)
      ((p.roundEl fm k (f (decodeNum fm (lane w (p.vr o.b) k)) (decodeNum fm (p.fsrc1 o fm k)) d)).1,
        p.lanePois o.b w k || p.src1Pois o w k || (usesD && p.lanePois o.d w k)))

/-- A compare to a mask: every active element draws on its sources (R140), D[4:3] must be 0. -/
def Prog.compare (s : State) (p : Prog) (o : VFields) (w : Nat) (f : Nat → Bool) : IRes :=
  consume s ((p.actives o.msk).any fun k => p.lanePois o.b w k || p.src1Pois o w k) (.done s (p.writeMask o.d o f))

/-- The integer compares. -/
def State.vicmp (s : State) (u : VUnit) (fn : Nat) (o : VFields) (f : Nat → Nat → Nat → Bool) : State :=
  s.vinstr u (0x30 + bnat o.sc) fn (!o.m1 && decide (o.d.val < 8)) id fun s p =>
    let w := p.ew
    p.compare s o w fun k => f w (lane w (p.vr o.b) k) (p.src1 o w k)

/-- The floating-point compares. -/
def State.vfcmp (s : State) (u : VUnit) (fn : Nat) (o : VFields) (f : Num → Num → Bool) : State :=
  s.vfp u (0x32 + bnat o.sc) fn (!o.m1 && decide (o.d.val < 8)) fun s p fm =>
    p.compare s o fm.width fun k => f (decodeNum fm (lane fm.width (p.vr o.b) k)) (decodeNum fm (p.fsrc1 o fm k))

/-- The widened format of Table 5-4. -/
def widened : Fmt → Option Fmt
  | .e4m3 => some .bf16
  | .e5m2 => some .bf16
  | .b16 => some .b32
  | .bf16 => some .b32
  | .b32 => some .b64
  | _ => none

/-- The widening integer instructions (R131). -/
def State.vintW (s : State) (u : VUnit) (fn : Nat) (o : VFields) (f : Int → Int → Int) : State :=
  s.vinstr u (0x30 + bnat o.sc) fn (!o.m1) id fun s p =>
    let w := p.ew
    need s (w != 64 && o.d.val % 2 == 0) (.done s (p.elementwise o (2 * w) fun k =>
      (unsigned (2 * w) (f (signed w (lane w (p.vr o.b) k)) (signed w (p.src1 o w k))),
        p.lanePois o.b w k || p.src1Pois o w k)))

/-- The widening floating-point instructions (R131); `usesD` where vd, in the widened format, is a source. -/
def State.vfloatW (s : State) (u : VUnit) (fn : Nat) (o : VFields) (usesD : Bool) (f : Num → Num → Num → Num) : State :=
  s.vfp u (0x32 + bnat o.sc) fn (!o.m1) fun s p fm =>
    match widened fm with
    | none => illegal s
    | some g =>
      let w := fm.width
      let wide := (p.vr o.d).toNat + (p.vr (o.d + 1)).toNat * 2 ^ 8192
      need s (o.d.val % 2 == 0) (.done s (p.elementwise o g.width fun k =>
        let d := decodeNum g (wide / 2 ^ (g.width * k) % 2 ^ g.width)
        ((p.roundEl g k (f (decodeNum fm (lane w (p.vr o.b) k)) (decodeNum fm (p.fsrc1 o fm k)) d)).1,
          p.lanePois o.b w k || p.src1Pois o w k ||
            (usesD && Tbl.get false p.pois (32 * o.d + g.width * k / 256)))))

end Sys2Proof.Machine
end

