-- ==== Sys2Proof/Machine/Vector.lean ====
section
/-! DEFINITION. Virulax V: arithmetic, compares, conversion, masks, reductions, scans and permutations (R128 to R135,
R141 to R144, R158, R171). -/
namespace Sys2Proof.Machine

/-! ## Integer arithmetic (R128) -/

/-- The high half of a signed product. -/
def mulHigh (w x y : Nat) : Nat := unsigned w (signed w x * signed w y / 2 ^ w)
/-- The lesser and the greater of two lanes, signed or unsigned. -/
def sMin (w x y : Nat) : Nat := if signed w y < signed w x then y else x
def sMax (w x y : Nat) : Nat := if signed w x < signed w y then y else x
/-- A value held to the signed range of `w` bits. -/
def sSat (w : Nat) (v : Int) : Nat := unsigned w (max (-(2 ^ (w - 1))) (min (2 ^ (w - 1) - 1) v))

/-- VADD. -/
def execVadd (u : VUnit) (o : VFields) (s : State) : Host.Outcome State Fault Refusal :=
  .next (s.issue u (.vadd u o) fun s =>
    s.vint u 0x00 o fun _ x y => x + y)
/-- VSUB: vs2 less vs1. -/
def execVsub (u : VUnit) (o : VFields) (s : State) : Host.Outcome State Fault Refusal :=
  .next (s.issue u (.vsub u o) fun s =>
    s.vint u 0x01 o fun w x y => x + 2 ^ w - y)
/-- VMUL. -/
def execVmul (u : VUnit) (o : VFields) (s : State) : Host.Outcome State Fault Refusal :=
  .next (s.issue u (.vmul u o) fun s =>
    s.vint u 0x02 o fun _ x y => x * y)
/-- VMULHI. -/
def execVmulhi (u : VUnit) (o : VFields) (s : State) : Host.Outcome State Fault Refusal :=
  .next (s.issue u (.vmulhi u o) fun s =>
    s.vint u 0x03 o mulHigh)
/-- VMIN. -/
def execVmin (u : VUnit) (o : VFields) (s : State) : Host.Outcome State Fault Refusal :=
  .next (s.issue u (.vmin u o) fun s =>
    s.vint u 0x04 o sMin)
/-- VMAX. -/
def execVmax (u : VUnit) (o : VFields) (s : State) : Host.Outcome State Fault Refusal :=
  .next (s.issue u (.vmax u o) fun s =>
    s.vint u 0x05 o sMax)
/-- VMINU. -/
def execVminu (u : VUnit) (o : VFields) (s : State) : Host.Outcome State Fault Refusal :=
  .next (s.issue u (.vminu u o) fun s =>
    s.vint u 0x06 o fun _ x y => min x y)
/-- VMAXU. -/
def execVmaxu (u : VUnit) (o : VFields) (s : State) : Host.Outcome State Fault Refusal :=
  .next (s.issue u (.vmaxu u o) fun s =>
    s.vint u 0x07 o fun _ x y => max x y)
/-- VAND. -/
def execVand (u : VUnit) (o : VFields) (s : State) : Host.Outcome State Fault Refusal :=
  .next (s.issue u (.vand u o) fun s =>
    s.vint u 0x08 o fun _ x y => x &&& y)
/-- VOR. -/
def execVor (u : VUnit) (o : VFields) (s : State) : Host.Outcome State Fault Refusal :=
  .next (s.issue u (.vor u o) fun s =>
    s.vint u 0x09 o fun _ x y => x ||| y)
/-- VXOR. -/
def execVxor (u : VUnit) (o : VFields) (s : State) : Host.Outcome State Fault Refusal :=
  .next (s.issue u (.vxor u o) fun s =>
    s.vint u 0x0A o fun _ x y => x ^^^ y)
/-- VSHL: the count modulo EW. -/
def execVshl (u : VUnit) (o : VFields) (s : State) : Host.Outcome State Fault Refusal :=
  .next (s.issue u (.vshl u o) fun s =>
    s.vint u 0x0B o fun w x y => x * 2 ^ (y % w))
/-- VSHR. -/
def execVshr (u : VUnit) (o : VFields) (s : State) : Host.Outcome State Fault Refusal :=
  .next (s.issue u (.vshr u o) fun s =>
    s.vint u 0x0C o fun w x y => x / 2 ^ (y % w))
/-- VSAR. -/
def execVsar (u : VUnit) (o : VFields) (s : State) : Host.Outcome State Fault Refusal :=
  .next (s.issue u (.vsar u o) fun s =>
    s.vint u 0x0D o fun w x y => unsigned w (signed w x / 2 ^ (y % w)))
/-- VSADD. -/
def execVsadd (u : VUnit) (o : VFields) (s : State) : Host.Outcome State Fault Refusal :=
  .next (s.issue u (.vsadd u o) fun s =>
    s.vint u 0x0E o fun w x y => sSat w (signed w x + signed w y))
/-- VSSUB. -/
def execVssub (u : VUnit) (o : VFields) (s : State) : Host.Outcome State Fault Refusal :=
  .next (s.issue u (.vssub u o) fun s =>
    s.vint u 0x0F o fun w x y => sSat w (signed w x - signed w y))

/-- VADD.W (R131). -/
def execVaddW (u : VUnit) (o : VFields) (s : State) : Host.Outcome State Fault Refusal :=
  .next (s.issue u (.vaddW u o) fun s =>
    s.vintW u 0x10 o fun x y => x + y)
/-- VMUL.W (R131). -/
def execVmulW (u : VUnit) (o : VFields) (s : State) : Host.Outcome State Fault Refusal :=
  .next (s.issue u (.vmulW u o) fun s =>
    s.vintW u 0x11 o fun x y => x * y)

/-- VMOV: vd takes vs1 or xs1. -/
def execVmov (u : VUnit) (o : VFields) (s : State) : Host.Outcome State Fault Refusal :=
  .next (s.issue u (.vmov u o) fun s =>
    s.vinstr u (0x30 + bnat o.sc) 0x13 (!o.m1 && o.b == 0) id fun s p =>
    .done s (p.elementwise o p.ew fun k => (p.src1 o p.ew k, p.src1Pois o p.ew k)))

/-- VDOT4 (R132). -/
def execVdot4 (u : VUnit) (o : VFields) (s : State) : Host.Outcome State Fault Refusal :=
  .next (s.issue u (.vdot4 u o) fun s =>
    s.vinstr u (0x30 + bnat o.sc) 0x12 (!o.sc && !o.m1) id fun s p =>
    need s (p.ew == 32) (.done s (p.elementwise o 32 fun k =>
      let sum := (upFrom (4 * k) 4).foldl (fun (a : Int) i =>
        a + signed 8 (lane 8 (p.vr o.b) i) * signed 8 (lane 8 (p.vr o.a) i)) (lane 32 (p.vr o.d) k)
      (unsigned 32 sum, p.lanePois o.b 32 k || p.lanePois o.a 32 k || p.lanePois o.d 32 k))))

/-! ## Integer compares -/

/-- VCMP.EQ. -/
def execVcmpEq (u : VUnit) (o : VFields) (s : State) : Host.Outcome State Fault Refusal :=
  .next (s.issue u (.vcmpEq u o) fun s =>
    s.vicmp u 0x18 o fun _ x y => x == y)
/-- VCMP.NE. -/
def execVcmpNe (u : VUnit) (o : VFields) (s : State) : Host.Outcome State Fault Refusal :=
  .next (s.issue u (.vcmpNe u o) fun s =>
    s.vicmp u 0x19 o fun _ x y => x != y)
/-- VCMP.LT. -/
def execVcmpLt (u : VUnit) (o : VFields) (s : State) : Host.Outcome State Fault Refusal :=
  .next (s.issue u (.vcmpLt u o) fun s =>
    s.vicmp u 0x1A o fun w x y => decide (signed w x < signed w y))
/-- VCMP.LTU. -/
def execVcmpLtu (u : VUnit) (o : VFields) (s : State) : Host.Outcome State Fault Refusal :=
  .next (s.issue u (.vcmpLtu u o) fun s =>
    s.vicmp u 0x1B o fun _ x y => decide (x < y))
/-- VCMP.LE. -/
def execVcmpLe (u : VUnit) (o : VFields) (s : State) : Host.Outcome State Fault Refusal :=
  .next (s.issue u (.vcmpLe u o) fun s =>
    s.vicmp u 0x1C o fun w x y => decide (signed w x ≤ signed w y))
/-- VCMP.LEU. -/
def execVcmpLeu (u : VUnit) (o : VFields) (s : State) : Host.Outcome State Fault Refusal :=
  .next (s.issue u (.vcmpLeu u o) fun s =>
    s.vicmp u 0x1D o fun _ x y => decide (x ≤ y))

/-! ## Floating-point arithmetic (R81, R129) -/

/-- VFADD. -/
def execVfadd (u : VUnit) (o : VFields) (s : State) : Host.Outcome State Fault Refusal :=
  .next (s.issue u (.vfadd u o) fun s =>
    s.vfloat u 0x00 o false fun x y _ => x.add y)
/-- VFSUB: vs2 less vs1. -/
def execVfsub (u : VUnit) (o : VFields) (s : State) : Host.Outcome State Fault Refusal :=
  .next (s.issue u (.vfsub u o) fun s =>
    s.vfloat u 0x01 o false fun x y _ => x.sub y)
/-- VFMUL. -/
def execVfmul (u : VUnit) (o : VFields) (s : State) : Host.Outcome State Fault Refusal :=
  .next (s.issue u (.vfmul u o) fun s =>
    s.vfloat u 0x02 o false fun x y _ => x.mul y)
/-- VFDIV: vs2 by vs1. -/
def execVfdiv (u : VUnit) (o : VFields) (s : State) : Host.Outcome State Fault Refusal :=
  .next (s.issue u (.vfdiv u o) fun s =>
    s.vfloat u 0x03 o false fun x y _ => x.div y)
/-- VFMIN. -/
def execVfmin (u : VUnit) (o : VFields) (s : State) : Host.Outcome State Fault Refusal :=
  .next (s.issue u (.vfmin u o) fun s =>
    s.vfloat u 0x04 o false fun x y _ => x.min y)
/-- VFMAX. -/
def execVfmax (u : VUnit) (o : VFields) (s : State) : Host.Outcome State Fault Refusal :=
  .next (s.issue u (.vfmax u o) fun s =>
    s.vfloat u 0x05 o false fun x y _ => x.max y)
/-- VFMA. -/
def execVfma (u : VUnit) (o : VFields) (s : State) : Host.Outcome State Fault Refusal :=
  .next (s.issue u (.vfma u o) fun s =>
    s.vfloat u 0x06 o true fun x y d => x.fma y d)
/-- VFNMA. -/
def execVfnma (u : VUnit) (o : VFields) (s : State) : Host.Outcome State Fault Refusal :=
  .next (s.issue u (.vfnma u o) fun s =>
    s.vfloat u 0x07 o true fun x y d => (x.mul y).neg.add d)
/-- VFADD.W. -/
def execVfaddW (u : VUnit) (o : VFields) (s : State) : Host.Outcome State Fault Refusal :=
  .next (s.issue u (.vfaddW u o) fun s =>
    s.vfloatW u 0x10 o false fun x y _ => x.add y)
/-- VFMUL.W. -/
def execVfmulW (u : VUnit) (o : VFields) (s : State) : Host.Outcome State Fault Refusal :=
  .next (s.issue u (.vfmulW u o) fun s =>
    s.vfloatW u 0x11 o false fun x y _ => x.mul y)
/-- VFMA.W. -/
def execVfmaW (u : VUnit) (o : VFields) (s : State) : Host.Outcome State Fault Refusal :=
  .next (s.issue u (.vfmaW u o) fun s =>
    s.vfloatW u 0x12 o true fun x y d => x.fma y d)

/-- A sign or bit-manipulation instruction: bits in, bits out (R129). -/
def State.vbits (s : State) (u : VUnit) (maj fn : Nat) (o : VFields) (ok : Bool)
    (f : Fmt → Prog → Nat → Nat × Bool) : State :=
  s.vfp u maj fn ok fun s p fm => .done s (p.elementwise o fm.width (f fm p))

/-- VFCOPYS: the sign of vs1 onto vs2. -/
def execVfcopys (u : VUnit) (o : VFields) (s : State) : Host.Outcome State Fault Refusal :=
  .next (s.issue u (.vfcopys u o) fun s =>
    s.vbits u (0x32 + bnat o.sc) 0x08 o (!o.m1) fun fm p k =>
    let h := 2 ^ (fm.width - 1)
    (lane fm.width (p.vr o.b) k % h + p.fsrc1 o fm k / h * h, p.lanePois o.b fm.width k || p.src1Pois o fm.width k))
/-- VFCOPYSN: the inverse of the sign of vs1 onto vs2. -/
def execVfcopysn (u : VUnit) (o : VFields) (s : State) : Host.Outcome State Fault Refusal :=
  .next (s.issue u (.vfcopysn u o) fun s =>
    s.vbits u (0x32 + bnat o.sc) 0x09 o (!o.m1) fun fm p k =>
    let h := 2 ^ (fm.width - 1)
    (lane fm.width (p.vr o.b) k % h + (1 - p.fsrc1 o fm k / h) * h,
      p.lanePois o.b fm.width k || p.src1Pois o fm.width k))
/-- VFMOV: the bits of vs1, or fs1 rounded and broadcast. -/
def execVfmov (u : VUnit) (o : VFields) (s : State) : Host.Outcome State Fault Refusal :=
  .next (s.issue u (.vfmov u o) fun s =>
    s.vbits u (0x32 + bnat o.sc) 0x15 o (!o.m1 && o.b == 0) fun fm p k =>
    (p.fsrc1 o fm k, p.src1Pois o fm.width k))

/-- The sign bit of each element of vs2 inverted, or cleared. -/
def State.vsign (s : State) (u : VUnit) (o : VFields) (clear : Bool) : State :=
  s.vbits u 0x32 0x21 o (!o.sc && !o.m1) fun fm p k =>
    let h := 2 ^ (fm.width - 1)
    let x := lane fm.width (p.vr o.b) k
    (x % h + (if clear then 0 else (1 - x / h) * h), p.lanePois o.b fm.width k)
/-- VFNEG: VFUNARY function 7. -/
def execVfneg (u : VUnit) (o : VFields) (s : State) : Host.Outcome State Fault Refusal := .next (s.issue u (.vfneg u o) fun s =>
    s.vsign u o false)
/-- VFABS: VFUNARY function 8. -/
def execVfabs (u : VUnit) (o : VFields) (s : State) : Host.Outcome State Fault Refusal := .next (s.issue u (.vfabs u o) fun s =>
    s.vsign u o true)

/-- The function of VFUNARY for a code below 7 (Table 5-5). -/
def unaryFn : Nat → Num → Num
  | 0 => Num.sqrt
  | 1 => Num.rcp
  | 2 => Num.rsqrt
  | 3 => Num.exp2
  | 4 => Num.log2
  | 5 => Num.tanh
  | _ => Num.sigm

/-- VFUNARY (R144). SATINF says what an overflow writes (R74), but for EXP2, whose overflow gives +∞ (Table 5-5; log entry 11). -/
def execVfunary (u : VUnit) (o : VFields) (s : State) : Host.Outcome State Fault Refusal :=
  if o.a = 7 then .next (s.issue u (.vfunary u o) fun s =>
    s.vsign u o false) else if o.a = 8 then .next (s.issue u (.vfunary u o) fun s =>
    s.vsign u o true) else
  .next (s.issue u (.vfunary u o) fun s =>
    s.vfp u 0x32 0x21 (!o.sc && !o.m1 && decide (o.a.val < 7)) fun s p fm =>
    need s (decide (o.a.val < 3) || fm == .b32 || fm == .b16 || fm == .bf16)
      (.done s (p.elementwise o fm.width fun k =>
        (encSat fm (p.satinf && o.a != 3) (unaryFn o.a (decodeNum fm (lane fm.width (p.vr o.b) k))), p.lanePois o.b fm.width k))))

/-- The dot products of narrow floats (R132): `n` products of formats `g` and `h` to each binary32 element. -/
def State.vfdot (s : State) (u : VUnit) (fn : Nat) (o : VFields) (n : Nat) (g h : Fmt) : State :=
  s.vfp u 0x32 fn (!o.sc) fun s p fm =>
    need s (fm == .b32) (.done s (p.elementwise o 32 fun k =>
      let sum := (upFrom (n * k) n).foldl (fun (a : Num) i =>
        a.add ((decodeNum g (lane g.width (p.vr o.b) i)).mul (decodeNum h (lane h.width (p.vr o.a) i))))
        (decodeNum .b32 (lane 32 (p.vr o.d) k))
      ((p.roundEl .b32 k sum).1, p.lanePois o.b 32 k || p.lanePois o.a 32 k || p.lanePois o.d 32 k)))

/-- VFDOT4: FN 0x13 takes E4M3, FN 0x14 E5M2; M1 puts vs1 in the other. -/
def execVfdot4 (u : VUnit) (alt : Bool) (o : VFields) (s : State) : Host.Outcome State Fault Refusal :=
  let f (b : Bool) : Fmt := if b then .e5m2 else .e4m3
  .next (s.issue u (.vfdot4 u alt o) fun s =>
    s.vfdot u (0x13 + bnat alt) o 4 (f alt) (f (alt != o.m1)))
/-- VFDOT2: FN 0x16 takes bfloat16, FN 0x17 binary16; M1 puts vs1 in the other. -/
def execVfdot2 (u : VUnit) (alt : Bool) (o : VFields) (s : State) : Host.Outcome State Fault Refusal :=
  let f (b : Bool) : Fmt := if b then .b16 else .bf16
  .next (s.issue u (.vfdot2 u alt o) fun s =>
    s.vfdot u (0x16 + bnat alt) o 2 (f alt) (f (alt != o.m1)))

/-! ## Floating-point compares (R80) -/

/-- VFCMP.EQ. -/
def execVfcmpEq (u : VUnit) (o : VFields) (s : State) : Host.Outcome State Fault Refusal :=
  .next (s.issue u (.vfcmpEq u o) fun s =>
    s.vfcmp u 0x18 o fun x y => x.eq y)
/-- VFCMP.NE. -/
def execVfcmpNe (u : VUnit) (o : VFields) (s : State) : Host.Outcome State Fault Refusal :=
  .next (s.issue u (.vfcmpNe u o) fun s =>
    s.vfcmp u 0x19 o fun x y => !x.eq y)
/-- VFCMP.LT. -/
def execVfcmpLt (u : VUnit) (o : VFields) (s : State) : Host.Outcome State Fault Refusal :=
  .next (s.issue u (.vfcmpLt u o) fun s =>
    s.vfcmp u 0x1A o fun x y => x.lt y)
/-- VFCMP.LE. -/
def execVfcmpLe (u : VUnit) (o : VFields) (s : State) : Host.Outcome State Fault Refusal :=
  .next (s.issue u (.vfcmpLe u o) fun s =>
    s.vfcmp u 0x1B o fun x y => x.le y)
/-- VFCMP.UN. -/
def execVfcmpUn (u : VUnit) (o : VFields) (s : State) : Host.Outcome State Fault Refusal :=
  .next (s.issue u (.vfcmpUn u o) fun s =>
    s.vfcmp u 0x1C o fun x y => x.isNan || y.isNan)

/-! ## The update with remainder (R171, R172) -/

/-- The weight, the remainder and the event of one element of VFUPD, with its exact sum. -/
def Prog.updEl (p : Prog) (o : VFields) (fm : Fmt) (k : Nat) : Num × Nat × Nat × Ev :=
  let x := ((decodeNum fm (lane fm.width (p.vr o.d) k)).add (decodeNum fm (lane fm.width (p.vr o.b) k))).add
    (decodeNum .bf16 (lane 16 (p.vr o.a) k))
  let w := p.roundEl fm k x
  let rem := if x.isFin && w.2 != .sat then encRne .bf16 (x.sub (decodeNum fm w.1)) else 0
  (x, w.1, rem, w.2)

/-- VFUPD. -/
def execVfupd (u : VUnit) (o : VFields) (s : State) : Host.Outcome State Fault Refusal :=
  .next (s.issue u (.vfupd u o) fun s =>
    s.vfp u 0x32 0x22 (!o.sc && !o.m1) fun s p fm =>
    need s ((fm == .b32 || fm == .b16 || fm == .bf16) && !o.z && o.a != o.d && o.a != o.b) (
      let pois (k : Nat) : Bool := p.lanePois o.d fm.width k || p.lanePois o.b fm.width k || p.lanePois o.a 16 k
      let put (g : Num × Nat × Nat × Ev → Nat) (k : Nat) : LaneOut :=
        if p.active o.msk k then some (g (p.updEl o fm k), pois k) else none
      let p1 := (p.writeLanes o.d fm.width p.vl (put fun x => x.2.1)).writeLanes o.a 16 p.vl (put fun x => x.2.2.1)
      let seen := ((p.actives o.msk).filter fun k => !pois k).map fun k => ((p.updEl o fm k).1, (p.updEl o fm k).2.2.2)
      .done (if p.mon then s.monReport (some p.vmonid.toNat) seen else s) p1))

/-! ## Conversion (R79, R135) -/

/-- A format of VFCVT: any with a non-"No" entry in the vector-element column. -/
inductive CvtFmt where
  | plain (f : Fmt)
  | mx (f : Fmt)
  | e8m0
  deriving DecidableEq, Repr

/-- The format of a code of VFCVT. -/
def cvtFmt (c : Nat) : Option CvtFmt :=
  match fmtOfCode c with
  | some (.plain f) => some (.plain f)
  | some (.mx f) => some (.mx f)
  | some .e8m0 => some .e8m0
  | _ => none

def CvtFmt.width : CvtFmt → Nat
  | .plain f => f.width
  | .mx f => f.width
  | .e8m0 => 8
def CvtFmt.isMx : CvtFmt → Bool
  | .mx _ => true
  | _ => false

/-- Source element `k` of VFCVT and its poison; an element beyond vs2 is a free value (log entry 12). -/
def Prog.cvtSrc (p : Prog) (b : Nat) (f : CvtFmt) (k : Nat) : Num × Bool :=
  let w := f.width
  let x := if w * k + w ≤ 8192 then lane w (p.vr b) k else (Config.beyond (p.vr b) k).toNat % 2 ^ w
  let pois := w * k + w ≤ 8192 && (p.granPois b (w * k / 256) || p.granPois b ((w * k + w - 1) / 256))
  match f with
  | .plain g => (decodeNum g x, pois)
  | .mx g => (decodeMx g x (lane 8 (p.vr (b + 1)) (k / 32)), pois || p.lanePois (b + 1) 8 (k / 32))
  | .e8m0 => (decodeE8m0 x, pois)

/-- A value as an E8M0 byte, with its event (R77): a power of two in range and NaN have one; the spec states no rounding to
E8M0, so any other value gives a free value (log entry 12). What is not finite counts NONFINITE, a zero ZERO, and what is at
least 2^128 in magnitude SAT, however it is encoded. -/
def encE8m0 (v : Num) : Nat × Ev :=
  match v with
  | .nan => (0xFF, .nonfinite)
  | .inf s => ((Config.e8m0 (if s then -1 else 1) 1024).toNat % 256, .nonfinite)
  | .fin m e =>
    let k := Nat.log2 m.natAbs
    let x := (k : Int) + e + 127
    let free := (Config.e8m0 m e).toNat
    if 0 < m ∧ m.natAbs = 2 ^ k ∧ 0 ≤ x ∧ x ≤ 254 then (x.toNat, .none)
    else (free % 256, if m = 0 then .zero else if 255 ≤ x then .sat else match free / 256 % 4 with
      | 1 => .sat
      | 2 => .zero
      | _ => .none)

/-- Block `j` of an MX result: its scale byte, and its elements with their numbers and events, from its active elements; a
poisoned element counts as zero (R78). Inactive elements take no part in the scale (log entry 84). -/
def Prog.cvtBlock (p : Prog) (o : VFields) (g : Fmt) (src : Nat → Num × Bool) (j : Nat) : Nat × List (Nat × Nat × Ev) :=
  let ks := (upFrom (32 * j) 32).filter fun k => p.active o.msk k
  let r := encodeBlock g p.rnd p.satinf (fun i => if p.rnd = .sr then roundDraw (p.key 1) (p.elemIndex (ks.getD i 0)) else 0)
    (ks.map fun k => if (src k).2 then Num.zero else (src k).1)
  (r.1, ks.zip r.2)

/-- VFCVT to an MX format: packed elements in vd, block scales in vd + 1. The scales are clean, a poisoned source makes its own
element poison, and the scale byte of a block without an active element stays (R78; log entry 84). -/
def Prog.cvtToMx (p : Prog) (o : VFields) (g : Fmt) (src : Nat → Num × Bool) : Prog × List (Num × Ev) :=
  let nb := ceilDiv p.vl 32
  let blocks := (List.range nb).map fun j => p.cvtBlock o g src j
  let blk (j : Nat) := blocks.getD j (0, [])
  let el (k : Nat) : Nat := (((blk (k / 32)).2.find? fun e => e.1 == k).map fun e => e.2.1).getD 0
  let p1 := p.writeLanes o.d g.width p.vl fun k => p.dest o k (el k, (src k).2)
  let p2 := p1.writeLanes (o.d + 1) 8 nb fun j =>
    if (blk j).2.isEmpty then none else some ((blk j).1, false)
  (p2, (List.range nb).flatMap fun j => ((blk j).2.filter fun e => !(src e.1).2).map fun e => ((src e.1).1, e.2.2))

/-- VFCVT to a plain format or E8M0. -/
def Prog.cvtToPlain (p : Prog) (o : VFields) (f : CvtFmt) (src : Nat → Num × Bool) : Prog × List (Num × Ev) :=
  let conv (k : Nat) : Nat × Ev :=
    match f with
    | .plain g => p.roundEl g k (src k).1
    | _ => encE8m0 (src k).1
  (p.writeLanes o.d f.width (min p.vl (16384 / f.width)) fun k => p.dest o k ((conv k).1, (src k).2),
    ((p.actives o.msk).filter fun k => !(src k).2).map fun k => ((src k).1, (conv k).2))

/-- VFCVT (R135). -/
def execVfcvt (u : VUnit) (o : VFields) (s : State) : Host.Outcome State Fault Refusal :=
  .next (s.issue u (.vfcvt u o) fun s =>
    s.vinstr u 0x32 0x20 (!o.sc) id fun s p =>
    let fa := cvtFmt o.a
    let fv := cvtFmt p.fmtCode
    match (if o.m1 then fa else fv), (if o.m1 then fv else fa) with
    | some f, some g =>
      need s (!(f.isMx && o.b == 31) && !(g.isMx && o.d == 31) &&
          !(decide (8192 < g.width * p.vl) && o.d.val % 2 == 1)) (
        let src := p.cvtSrc o.b f
        let r := match g with
          | .mx h => p.cvtToMx o h src
          | g => p.cvtToPlain o g src
        let s1 := if p.mon then s.monReport (some p.vmonid.toNat) r.2 else s
        .done s1 r.1)
    | _, _ => illegal s)

/-! ## Masks (R143, R158) -/

/-- A mask instruction: D takes A op B, bit by bit. -/
def State.vmask (s : State) (u : VUnit) (fn : Nat) (o : VFields) (ok : Bool) (f : Bool → Bool → Bool) : State :=
  s.vinstr u 0x36 fn (!o.m1 && decide (o.d.val < 8) && decide (o.a.val < 8) && decide (o.b.val < 8) && ok) id fun s p =>
    .done s (p.writeMask o.d o fun k => f (bit (p.mr o.a) k) (bit (p.mr o.b) k))

/-- VKAND. -/
def execVkand (u : VUnit) (o : VFields) (s : State) : Host.Outcome State Fault Refusal :=
  .next (s.issue u (.vkand u o) fun s =>
    s.vmask u 0x00 o true fun a b => a && b)
/-- VKOR. -/
def execVkor (u : VUnit) (o : VFields) (s : State) : Host.Outcome State Fault Refusal :=
  .next (s.issue u (.vkor u o) fun s =>
    s.vmask u 0x01 o true fun a b => a || b)
/-- VKXOR. -/
def execVkxor (u : VUnit) (o : VFields) (s : State) : Host.Outcome State Fault Refusal :=
  .next (s.issue u (.vkxor u o) fun s =>
    s.vmask u 0x02 o true fun a b => a != b)
/-- VKANDN: A and not B. -/
def execVkandn (u : VUnit) (o : VFields) (s : State) : Host.Outcome State Fault Refusal :=
  .next (s.issue u (.vkandn u o) fun s =>
    s.vmask u 0x03 o true fun a b => a && !b)
/-- VKNOT. -/
def execVknot (u : VUnit) (o : VFields) (s : State) : Host.Outcome State Fault Refusal :=
  .next (s.issue u (.vknot u o) fun s =>
    s.vmask u 0x04 o (o.b == 0) fun a _ => !a)

/-- The indices of the set bits of mA that are active and below VL. -/
def Prog.setBits (p : Prog) (o : VFields) : List Nat := (p.actives o.msk).filter fun k => bit (p.mr o.a) k

/-- All ones: the index that says there is none. -/
def noIndex : W64 := 0xFFFFFFFFFFFFFFFF

/-- VKCOUNT. -/
def execVkcount (u : VUnit) (o : VFields) (s : State) : Host.Outcome State Fault Refusal :=
  .next (s.issue u (.vkcount u o) fun s =>
    s.vinstr u 0x36 0x05 (!o.m1 && !o.z && o.b == 0 && decide (o.a.val < 8)) (fun p => p.setX o.d 0) fun s p =>
    .done s (p.setX o.d (BitVec.ofNat 64 (p.setBits o).length)))
/-- VKLEAD. -/
def execVklead (u : VUnit) (o : VFields) (s : State) : Host.Outcome State Fault Refusal :=
  .next (s.issue u (.vklead u o) fun s =>
    s.vinstr u 0x36 0x06 (!o.m1 && !o.z && o.b == 0 && decide (o.a.val < 8)) (fun p => p.setX o.d noIndex) fun s p =>
    .done s (p.setX o.d (match (p.setBits o).head? with
      | some k => BitVec.ofNat 64 k
      | none => noIndex)))

/-! ## Reductions (R133, R134) -/

/-- A reduction to element 0 of vd: `f` takes the elements that are active, with their positions, and vs1[0]. -/
def State.vreduce (s : State) (u : VUnit) (fn : Nat) (o : VFields) (width : Prog → Option Nat)
    (f : Prog → List (Nat × Nat) → Nat → Nat) : State :=
  s.vinstr u 0x36 fn (!o.m1 && !o.z) id fun s p =>
    match width p with
    | none => illegal s
    | some w =>
      let ks := p.actives o.msk
      let v := f p (ks.map fun k => (k, lane w (p.vr o.b) k)) (lane w (p.vr o.a) 0)
      .done s (p.writeLanes o.d w 1 fun _ => some (v, p.lanePois o.a w 0 || ks.any fun k => p.lanePois o.b w k))

/-- The integer reductions: a fold over the active elements from vs1[0]. -/
def State.vireduce (s : State) (u : VUnit) (fn : Nat) (o : VFields) (f : Nat → Nat → Nat → Nat) : State :=
  s.vreduce u fn o (fun p => some p.ew) fun p xs a => xs.foldl (fun r x => f p.ew r x.2) a

/-- VSUMR. -/
def execVsumr (u : VUnit) (o : VFields) (s : State) : Host.Outcome State Fault Refusal :=
  .next (s.issue u (.vsumr u o) fun s =>
    s.vireduce u 0x08 o fun _ a x => a + x)
/-- VMAXR. -/
def execVmaxr (u : VUnit) (o : VFields) (s : State) : Host.Outcome State Fault Refusal := .next (s.issue u (.vmaxr u o) fun s =>
    s.vireduce u 0x09 o sMax)
/-- VMINR. -/
def execVminr (u : VUnit) (o : VFields) (s : State) : Host.Outcome State Fault Refusal := .next (s.issue u (.vminr u o) fun s =>
    s.vireduce u 0x0A o sMin)
/-- VMAXRU. -/
def execVmaxru (u : VUnit) (o : VFields) (s : State) : Host.Outcome State Fault Refusal :=
  .next (s.issue u (.vmaxru u o) fun s =>
    s.vireduce u 0x0B o fun _ a x => max a x)
/-- VMINRU. -/
def execVminru (u : VUnit) (o : VFields) (s : State) : Host.Outcome State Fault Refusal :=
  .next (s.issue u (.vminru u o) fun s =>
    s.vireduce u 0x0C o fun _ a x => min a x)

/-- One level of the sum tree: pairs are added with one rounding. -/
def treeLevel (f : Fmt) (satinf : Bool) : List Num → List Num
  | a :: b :: t => decodeNum f (encSat f satinf (a.add b)) :: treeLevel f satinf t
  | t => t

/-- `n` levels of the tree. -/
def treeSum (f : Fmt) (satinf : Bool) : Nat → List Num → List Num
  | 0, l => l
  | n + 1, l => treeSum f satinf n (treeLevel f satinf l)

/-- The levels of a tree over `n` positions: ⌈log2 n⌉. -/
def treeDepth (n : Nat) : Nat := if n ≤ 1 then 0 else log2 (n - 1) + 1

/-- The tree sum over logical positions 0 to `n − 1`, the positions that are not listed +0. -/
def treeOver (f : Fmt) (satinf : Bool) (n : Nat) (xs : List (Nat × Num)) : Num :=
  (treeSum f satinf (treeDepth n) ((List.range (2 ^ treeDepth n)).map fun k => Tbl.get .zero xs k)).headD .zero

/-- A floating-point reduction. -/
def State.vfreduce (s : State) (u : VUnit) (fn : Nat) (o : VFields)
    (f : Fmt → Bool → Nat → List (Nat × Num) → Num → Num) : State :=
  s.vreduce u fn o (fun p => p.fpFmt.map Fmt.width) fun p xs a =>
    let fm := p.fpFmt.getD .b32
    encSat fm p.satinf (f fm p.satinf p.vl (xs.map fun x => (x.1, decodeNum fm x.2)) (decodeNum fm a))

/-- VFSUMR.T. -/
def execVfsumrT (u : VUnit) (o : VFields) (s : State) : Host.Outcome State Fault Refusal :=
  .next (s.issue u (.vfsumrT u o) fun s =>
    s.vfreduce u 0x0D o fun fm sat n xs a => (treeOver fm sat n xs).add a)
/-- VFSUMR.X. -/
def execVfsumrX (u : VUnit) (o : VFields) (s : State) : Host.Outcome State Fault Refusal :=
  .next (s.issue u (.vfsumrX u o) fun s =>
    s.vfreduce u 0x0E o fun _ _ _ xs a => xs.foldl (fun r x => r.add x.2) a)
/-- VFMAXR. -/
def execVfmaxr (u : VUnit) (o : VFields) (s : State) : Host.Outcome State Fault Refusal :=
  .next (s.issue u (.vfmaxr u o) fun s =>
    s.vfreduce u 0x0F o fun _ _ _ xs a => xs.foldl (fun r x => r.max x.2) a)
/-- VFMINR. -/
def execVfminr (u : VUnit) (o : VFields) (s : State) : Host.Outcome State Fault Refusal :=
  .next (s.issue u (.vfminr u o) fun s =>
    s.vfreduce u 0x10 o fun _ _ _ xs a => xs.foldl (fun r x => r.min x.2) a)

/-- The first of a list of candidates that no later one beats. -/
def pickBest {α : Type} (beats : α → α → Bool) : List (Nat × α) → Option (Nat × α)
  | [] => none
  | x :: t => some (t.foldl (fun b y => if beats y.2 b.2 then y else b) x)

/-- VARGMAXR and VARGMINR: to xd; M1 compares as floating point. -/
def State.vargr (s : State) (u : VUnit) (fn : Nat) (o : VFields) (great : Bool) : State :=
  s.vinstr u 0x36 fn (!o.z && o.a == 0) (fun p => p.setX o.d noIndex) fun s p =>
    let w := p.ew
    let ks := p.actives o.msk
    let out (r : Option Nat) : IRes := .done s (p.setX o.d (match r with
      | some k => BitVec.ofNat 64 k
      | none => noIndex))
    consume s (ks.any fun k => p.lanePois o.b w k) (
      if o.m1 then
        match p.fpFmt with
        | none => illegal s
        | some fm =>
          let xs := ks.map fun k => (k, decodeNum fm (lane w (p.vr o.b) k))
          match xs.find? fun x => x.2.isNan with
          | some x => out (some x.1)
          | none => out ((pickBest (fun a b => if great then b.lt a else a.lt b) xs).map Prod.fst)
      else
        let xs := ks.map fun k => (k, signed w (lane w (p.vr o.b) k))
        out ((pickBest (fun a b => if great then decide (b < a) else decide (a < b)) xs).map Prod.fst))

/-- VARGMAXR. -/
def execVargmaxr (u : VUnit) (o : VFields) (s : State) : Host.Outcome State Fault Refusal := .next (s.issue u (.vargmaxr u o) fun s =>
    s.vargr u 0x11 o true)
/-- VARGMINR. -/
def execVargminr (u : VUnit) (o : VFields) (s : State) : Host.Outcome State Fault Refusal := .next (s.issue u (.vargminr u o) fun s =>
    s.vargr u 0x12 o false)

/-! ## Scans (R141) -/

/-- A scan from element `k` on, `n` elements to go: `run` is the running value of the segment and whether it drew on
poison; each element's result is listed. -/
def scanFrom {α : Type} (ident : α) (head active : Nat → Bool) (comb : α → α → α) (excl : Bool) (el : Nat → α × Bool) :
    Nat → Nat → α × Bool → List (α × Bool)
  | 0, _, _ => []
  | n + 1, k, run =>
    let r0 := if k = 0 ∨ head k then (ident, false) else run
    let r1 := if active k then (comb r0.1 (el k).1, r0.2 || (el k).2) else r0
    (if excl then r0 else r1) :: scanFrom ident head active comb excl el n (k + 1) r1

/-- The results of a scan over a program's elements. -/
def Prog.scan {α : Type} (p : Prog) (o : VFields) (ident : α) (comb : α → α → α) (el : Nat → α × Bool) :
    List (α × Bool) :=
  scanFrom ident (fun k => bit (p.mr o.a) k) (fun k => p.active o.msk k) comb o.m1 el p.vl 0 (ident, false)

/-- The integer scans. -/
def State.vscan (s : State) (u : VUnit) (fn : Nat) (o : VFields) (ident : Nat → Nat) (f : Nat → Nat → Nat → Nat) :
    State :=
  s.vinstr u 0x36 fn (decide (o.a.val < 8)) id fun s p =>
    let w := p.ew
    let r := p.scan o (ident w) (f w) fun k => (lane w (p.vr o.b) k, p.lanePois o.b w k)
    .done s (p.elementwise o w fun k => r.getD k (0, false))

/-- The floating-point scans. -/
def State.vfscan (s : State) (u : VUnit) (fn : Nat) (o : VFields) (ident : Num)
    (f : Fmt → Bool → Num → Num → Num) : State :=
  s.vfp u 0x36 fn (decide (o.a.val < 8)) fun s p fm =>
    let w := fm.width
    let r := p.scan o ident (f fm p.satinf) fun k => (decodeNum fm (lane w (p.vr o.b) k), p.lanePois o.b w k)
    .done s (p.elementwise o w fun k =>
      let x := r.getD k (.zero, false)
      (encSat fm p.satinf x.1, x.2))

/-- VSSCAN.ADD. -/
def execVsscanAdd (u : VUnit) (o : VFields) (s : State) : Host.Outcome State Fault Refusal :=
  .next (s.issue u (.vsscanAdd u o) fun s =>
    s.vscan u 0x18 o (fun _ => 0) fun w a x => (a + x) % 2 ^ w)
/-- VSSCAN.MAX. -/
def execVsscanMax (u : VUnit) (o : VFields) (s : State) : Host.Outcome State Fault Refusal :=
  .next (s.issue u (.vsscanMax u o) fun s =>
    s.vscan u 0x19 o (fun w => 2 ^ (w - 1)) sMax)
/-- VSSCAN.MIN. -/
def execVsscanMin (u : VUnit) (o : VFields) (s : State) : Host.Outcome State Fault Refusal :=
  .next (s.issue u (.vsscanMin u o) fun s =>
    s.vscan u 0x1A o (fun w => 2 ^ (w - 1) - 1) sMin)
/-- VFSSCAN.ADD. -/
def execVfsscanAdd (u : VUnit) (o : VFields) (s : State) : Host.Outcome State Fault Refusal :=
  .next (s.issue u (.vfsscanAdd u o) fun s =>
    s.vfscan u 0x1B o .zero fun fm sat a x => decodeNum fm (encSat fm sat (a.add x)))
/-- VFSSCAN.MAX. -/
def execVfsscanMax (u : VUnit) (o : VFields) (s : State) : Host.Outcome State Fault Refusal :=
  .next (s.issue u (.vfsscanMax u o) fun s =>
    s.vfscan u 0x1C o (.inf true) fun _ _ a x => a.max x)
/-- VFSSCAN.MIN. -/
def execVfsscanMin (u : VUnit) (o : VFields) (s : State) : Host.Outcome State Fault Refusal :=
  .next (s.issue u (.vfsscanMin u o) fun s =>
    s.vfscan u 0x1D o (.inf false) fun _ _ a x => a.min x)

/-! ## Histograms and permutations (R142, R143) -/

/-- VHIST: 256 counters of 32 bits in vd, whatever VTYPE says. -/
def execVhist (u : VUnit) (o : VFields) (s : State) : Host.Outcome State Fault Refusal :=
  .next (s.issue u (.vhist u o) fun s =>
    s.vinstr u 0x36 0x20 (!o.m1 && o.a == 0) id fun s p =>
    let w := p.ew
    let ks := p.actives o.msk
    consume s (ks.any fun k => p.lanePois o.b w k) (
      let bins := ks.map fun k => lane w (p.vr o.b) k
      .done s (p.writeLanes o.d 32 256 fun b =>
        let c := (bins.filter fun x => x == b).length
        if c = 0 then none else some (lane 32 (p.vr o.d) b + c, p.lanePois o.d 32 b))))

/-- VPACK. -/
def execVpack (u : VUnit) (o : VFields) (s : State) : Host.Outcome State Fault Refusal :=
  .next (s.issue u (.vpack u o) fun s =>
    s.vinstr u 0x36 0x21 (!o.m1 && o.a == 0) id fun s p =>
    let w := p.ew
    let ks := p.actives o.msk
    .done s (p.writeLanes o.d w p.vl fun k =>
      match ks[k]? with
      | some j => some (lane w (p.vr o.b) j, p.lanePois o.b w j)
      | none => if o.z then some (0, false) else none))

/-- VSPREAD. -/
def execVspread (u : VUnit) (o : VFields) (s : State) : Host.Outcome State Fault Refusal :=
  .next (s.issue u (.vspread u o) fun s =>
    s.vinstr u 0x36 0x22 (!o.m1 && o.a == 0) id fun s p =>
    let w := p.ew
    let ks := p.actives o.msk
    .done s (p.elementwise o w fun k =>
      let j := (ks.filter fun i => decide (i < k)).length
      (lane w (p.vr o.b) j, p.lanePois o.b w j)))

/-- VPICK: an index of VLCAP or more gives +0. -/
def execVpick (u : VUnit) (o : VFields) (s : State) : Host.Outcome State Fault Refusal :=
  .next (s.issue u (.vpick u o) fun s =>
    s.vinstr u 0x36 0x23 (!o.m1) id fun s p =>
    let w := p.ew
    consume s ((p.actives o.msk).any fun k => p.lanePois o.a w k) (.done s (p.elementwise o w fun k =>
      let j := lane w (p.vr o.a) k
      if j < capOf w then (lane w (p.vr o.b) j, p.lanePois o.b w j) else (0, false))))

/-- VINDEX. -/
def execVindex (u : VUnit) (o : VFields) (s : State) : Host.Outcome State Fault Refusal :=
  .next (s.issue u (.vindex u o) fun s =>
    s.vinstr u 0x36 0x24 (!o.m1 && o.a == 0 && o.b == 0) id fun s p =>
    .done s (p.elementwise o p.ew fun k => (k, false)))

end Sys2Proof.Machine
end

