-- ==== Sys2Proof/Machine/Memory.lean ====
section
/-! DEFINITION. Working memory at its home controllers (chapter 10): the address map, the check cache, decoding and
correction counting, retirement, refresh and scrub; the seams (R17, R18) and the lines the host holds (R322). -/
namespace Sys2Proof.Machine

/-! ## Placement (R249, R250) -/

/-- q: the local page of an address within its memory package. -/
def localPage (g : Grade) (a : Nat) : Nat := a / 4096 / numPkgs g

/-- The channel of an address. -/
def chanOf (g : Grade) (a : Nat) : Nat := (a / 512 % 8 + localPage g a) % 4

/-- D: the data sector of an address in its channel. -/
def dataSector (g : Grade) (a : Nat) : Nat := (localPage g a * 1024 + a / 512 % 8 / 4 * 512 + a % 512) / 32

/-- The first data sector of the spare slots (R260). -/
def spareBase : Nat := 238551040

/-- The data sector of an address in its channel, through the spare slot of a retired page. -/
def placed (g : Grade) (slot : Option Nat) (a : Nat) : Nat :=
  match slot with
  | some k => spareBase + 32 * k + dataSector g a % 32
  | none => dataSector g a

/-- S: the DRAM sector of data sector `d` of a channel, and the check sector of its group. A group of eight data sectors takes
nine DRAM sectors, the last its check sector (R249, R250). -/
def dramSector (d : Nat) : Nat := 9 * (d / 8) + d % 8
def checkSector (d : Nat) : Nat := 9 * (d / 8) + 8

/-- The bytes of the check sector that hold the check symbols of data sector `d`: four from here on (R250). -/
def checkByte (d : Nat) : Nat := 4 * (d % 8)

/-- The column, bank, row and rank of a DRAM sector (R249). -/
def dramCol (x : Nat) : Nat := x % 64
def dramBank (x : Nat) : Nat := (x / 64 ^^^ x / 1024) % 16
def dramRow (x : Nat) : Nat := x / 1024 % 131072
def dramRank (x : Nat) : Nat := x / 2 ^ 27 % 2

/-- The bank of a channel that a DRAM sector lies in, its rank counted in. -/
def bankOf (x : Nat) : Nat := 16 * dramRank x + dramBank x

/-- The first address of data sector `d` of channel `ch` of package `n`: the inverse of R249. -/
def unplace (g : Grade) (n ch d : Nat) : Nat :=
  let p := numPkgs g
  let q := d / 32
  let h := (q ^^^ (q / 2 ^ 7) ^^^ (q / 2 ^ 14) ^^^ (q / 2 ^ 21)) % 128
  let r := (n + 2 * 128 * p - h) % p
  let c := 4 * (d % 32 / 16) + (ch + 4 - q % 4) % 4
  (q * p + r) * 4096 + c * 512 + d % 16 * 32

/-- The entries of the spare map of package `n` in force: slot and page (Table 10-4, MEM_C_SPARE). -/
def State.spares (s : State) (n : Nat) : List (Nat × Nat) :=
  (s.regs.filter fun p => decide (Reg.memCSpare n 0 ≤ p.1) && decide (p.1 < Reg.memCSpare n 1024) && bit p.2 0).map
    fun p => ((p.1 - Reg.memCSpare n 0) / 8, fld p.2 12 52)

/-- The slot a retired page is mapped to. -/
def State.slotOf (s : State) (n page : Nat) : Option Nat := ((s.spares n).find? fun e => e.2 == page).map fun e => e.1

/-- An event of the MEM block: the controller and the address. -/
def State.memEv (s : State) (b n : Nat) (addr : Option Nat) : State := s.event 4 Reg.memEvent b n addr

/-! ## The check cache (R251) -/

/-- A request looks a check sector up: a hit or a miss is counted, the sector becomes the most recently used of its set,
and a set of 16 ways drops its least recently used sector, which is written back where it is dirty. -/
def State.chkTouch (s : State) (n sector : Nat) (dirty : Bool) : State :=
  let k := n * 128 + Config.checkSet sector % 128
  let l := Tbl.get [] s.chkCache k
  match l.find? fun e => e.1 == sector with
  | some e =>
    let s1 := s.count64 (Reg.memCCntChkHit n) 1
    { s1 with chkCache := Tbl.set [] s1.chkCache k ((sector, e.2 || dirty) :: l.filter fun x => x.1 != sector) }
  | none =>
    let s1 := s.count64 (Reg.memCCntChkMiss n) 1
    { s1 with chkCache := Tbl.set [] s1.chkCache k (((sector, dirty) :: l).take 16) }

/-- Every dirty check sector is written back: none is dirty any more (R251). -/
def State.cleanChecks (s : State) : State :=
  { s with chkCache := s.chkCache.map fun p => (p.1, p.2.map fun e => (e.1, false)) }

/-- The number of a check sector in its controller: its channel and its DRAM sector there. -/
def State.checkKey (s : State) (n a : Nat) : Nat :=
  chanOf s.grade a * 2 ^ 28 + checkSector (placed s.grade (s.slotOf n (a / 4096)) a)

/-! ## Retirement (R260) -/

/-- The lowest spare slot of package `n` that is neither mapped nor being filled. -/
def State.freeSlot (s : State) (n : Nat) : Option Nat :=
  let taken := (s.spares n).map (fun e => e.1) ++
    (s.retiring.filter fun e => homePkg s.grade (4096 * e.1) == n).map fun e => e.2
  (List.range 1024).find? fun k => !taken.contains k

/-- A page is to be retired at once: not one that is retired already; with no free slot it stays in use. -/
def State.dueRetire (s : State) (page : Nat) : State :=
  let n := homePkg s.grade (4096 * page)
  if (s.slotOf n page).isSome || s.retireDue.contains page || s.retiring.any fun e => e.1 == page then s
  else if (s.freeSlot n).isNone then s.memEv 3 n (some (4096 * page))
  else { s with retireDue := s.retireDue ++ [page] }

/-- A spare slot of package `n` is free no longer. -/
def State.takeSlot (s : State) (n : Nat) : State := s.setReg (Reg.memCSpareFree n) (s.reg (Reg.memCSpareFree n) - 1)

/-- Map a page to a slot: the spare map, the count and the event of R260. -/
def State.mapPage (s : State) (page slot : Nat) (poisonCopied : Bool) : State :=
  let n := homePkg s.grade (4096 * page)
  let s1 := s.setReg (Reg.memCSpare n slot) (BitVec.ofNat 64 (1 + 2 * bnat poisonCopied + 4096 * page))
  (s1.setReg (Reg.memCRetired n) (s1.reg (Reg.memCRetired n) + 1)).memEv 2 n (some (4096 * page))

/-- A write to MEM_RETIRE_ADD (R247, R260): before INIT the page is mapped and nothing copied. -/
def State.retireAdd (s : State) (a : Nat) : State :=
  let page := a / 4096
  let n := homePkg s.grade a
  if usable s.grade ≤ a then s
  else if s.regB Reg.memCtrl 1 then s.dueRetire page
  else if (s.slotOf n page).isSome then s
  else match s.freeSlot n with
    | none => s.memEv 3 n (some (4096 * page))
    | some k => (s.takeSlot n).mapPage page k false

/-- MEM_RETIRE_ADD (R247, R260). -/
def execMemRetireAdd (addr : BitVec 64) (s : State) : Host.Outcome State Fault Refusal := 
  .next (s.bar64 Reg.memRetireAdd fun s => s.retireAdd addr.toNat)

/-- PAGE_RETIRE (R260): the controller takes the lowest free slot and holds new requests to the page. -/
def execPageRetire (page : Nat) (s : State) : Host.Outcome State Fault Refusal :=
  let n := homePkg s.grade (4096 * page)
  if s.retireDue.contains page = false then .next s
  else
    let s1 := { s with retireDue := s.retireDue.filter fun p => p != page }
    match s1.freeSlot n with
    | none => .next (s1.memEv 3 n (some (4096 * page)))
    | some k => .next (({ s1 with retiring := s1.retiring ++ [(page, k)] }.takeSlot n).setRegB (Reg.memCStatus n) 6 true)

/-! ## Corrections (R259) -/

/-- The last three of a list of times or corrections. -/
def lastThree {α : Type} (l : List α) : List α := l.drop (l.length - 3)

/-- Is a new correction at time `now` the fourth within 24 hours of the oldest of the three kept? -/
def fourth (times : List Nat) (now : Nat) : Bool := times.length == 3 && decide (now - times.headD 0 ≤ day)

/-- The time the controllers' tracking entries count in: fabric time, going on across a reset of the hub (R417). -/
def State.memTime (s : State) : Nat := s.memEpoch + s.ft

/-- Take the corrections attributed to pin `p` of channel `ch` out of the page entries of controller `n`. -/
def State.forgetPin (s : State) (n ch p : Nat) : State :=
  let l := (Tbl.get [] s.pageTrack n).map fun e => (e.1, e.2.filter fun c => !(c.ch == ch && c.pin == some p))
  { s with pageTrack := Tbl.set [] s.pageTrack n (l.filter fun e => !e.2.isEmpty) }

/-- A correction attributed to pin `p` of channel `ch`: the pin may become lasting, and a second one of its channel is
CHANNEL_FAIL. -/
def State.pinCorrection (s : State) (n ch addr p : Nat) : State :=
  let k := n * 64 + ch * 16 + p
  let times := Tbl.get [] s.pinTrack k
  if s.regB (Reg.memCPinFail n) (16 * ch + p) then s
  else if fourth times s.memTime then
    let s1 := s.setRegB (Reg.memCPinFail n) (16 * ch + p) true
    match Tbl.get none s.erasedPin (n * 4 + ch) with
    | none =>
      let s2 := { s1 with erasedPin := Tbl.set none s1.erasedPin (n * 4 + ch) (some p) }
      (s2.forgetPin n ch p).memEv 4 n addr
    | some _ => (s1.setRegB (Reg.memCStatus n) (7 + ch) true).memEv 5 n addr
  else { s with pinTrack := Tbl.set [] s.pinTrack k (lastThree (times ++ [s.memTime])) }

/-- The entry whose newest correction is oldest leaves a full table. -/
def dropOldest (l : List (Nat × List CorrAt)) : List (Nat × List CorrAt) :=
  let newest (e : Nat × List CorrAt) : Nat := (e.2.getLast?.map fun c => c.time).getD 0
  match l with
  | [] => []
  | e :: t =>
    let o := t.foldl (fun b x => if newest x < newest b then x else b) e
    l.filter fun x => x.1 != o.1

/-- A correction on a page: the fourth within 24 hours retires it. -/
def State.pageCorrection (s : State) (n ch page : Nat) (pin : Option Nat) : State :=
  let l := Tbl.get [] s.pageTrack n
  let c : CorrAt := ⟨s.memTime, ch, pin⟩
  match l.find? fun e => e.1 == page with
  | some e =>
    let l1 := l.map fun x => if x.1 = page then (page, lastThree (e.2 ++ [c])) else x
    let s1 := { s with pageTrack := Tbl.set [] s.pageTrack n l1 }
    if fourth (e.2.map fun x => x.time) s.memTime then s1.dueRetire page else s1
  | none =>
    if 1024 ≤ l.length then
      ({ s with pageTrack := Tbl.set [] s.pageTrack n (dropOldest l ++ [(page, [c])]) }.count64 Reg.memCntTrackEvict
        1).memEv 8 n (some (4096 * page))
    else { s with pageTrack := Tbl.set [] s.pageTrack n (l ++ [(page, [c])]) }

/-- Count the corrections of one request: `pins` names, for each corrected granule that counts, the pin it lies on. The
pin rule comes first; a correction on the pin that the channel now decodes as erasures counts towards no page. -/
def State.countCorrections (s : State) (n ch addr : Nat) (pins : List (Option Nat)) : State :=
  let s1 := (pins.filterMap id).eraseDups.foldl (fun s p => s.pinCorrection n ch addr p) s
  let e := Tbl.get none s1.erasedPin (n * 4 + ch)
  let left := pins.filter fun p => p.isNone || p != e
  match left with
  | [] => s1
  | p :: _ => s1.pageCorrection n ch (addr / 4096) (if left.all (· == p) then p else none)

/-! ## Decoding (R254, R368, R370) -/

/-- The granule stored at `a`. -/
def State.granule (s : State) (a : Nat) : Granule := BitVec.ofNat 256 (s.num (a / 32 * 32) 32)

/-- A word with symbol errors: the received data and check field. -/
def received (g : Granule) (poison : Bool) (err : List SymErr) : Granule × W32 :=
  let y := applyErrors (symbols g (writtenCheck g poison)) (err.map fun e => (e.pos.val, e.val.toNat))
  (symsGranule y, BitVec.ofNat 32 (bytesNat ((y.drop 32).map fun v => BitVec.ofNat 8 v)))

/-- Decode a received word; one without errors is what was written. -/
def decodeErr (er : List Nat) (g : Granule) (poison : Bool) (err : List SymErr) : Decoded :=
  if err.isEmpty then (if poison then .poison else .clean g)
  else
    let w := received g poison err
    decodeWord er w.1 w.2

/-- The decode of a granule of memory, with the two data symbols of the channel's lasting pin as erasures (R259, R370) and its
pin trial, and whether the trial corrected it. -/
def State.memDecode (s : State) (n ch k : Nat) (g : Granule) (poison : Bool) (err : List SymErr) : Decoded × Bool :=
  let er := match Tbl.get none s.erasedPin (n * 4 + ch) with
    | some p => [p, p + 16]
    | none => []
  match decodeErr er g poison err with
  | .uncorrectable false =>
    let w := received g poison err
    let healthy := (List.range 16).filter fun p => !s.regB (Reg.memCPinFail n) (16 * ch + p)
    match pinTrial k healthy w.1 w.2 with
    | [(_, true, es)] =>
      (.corrected (symsGranule (applyErrors (symbols w.1 w.2) es)) ((es.filter fun e => e.2 != 0).map fun e => e.1), true)
    | [(_, false, _)] => (.poison, false)
    | _ => (.uncorrectable false, false)
  | d => (d, false)

/-- What a decode left: the state, the data, whether it is poison, and the correction that counts under R259. -/
structure GranRes where
  st : State
  data : Granule
  poison : Bool
  corr : List (Option Nat)
  deriving DecidableEq, Repr

/-- Read the granule at `a` (R254), for a request or for the scrub. -/
def State.readGranule (s : State) (a : Nat) (err : List SymErr) (demand : Bool) : GranRes :=
  let n := homePkg s.grade a
  let ch := chanOf s.grade a
  let k := dataSector s.grade a % 8
  let g := s.granule a
  match s.memDecode n ch k g (s.poisoned (a / 32)) err with
  | (.clean d, _) => ⟨s, d, false, []⟩
  | (.corrected d at_, trial) =>
    let s1 := (s.storeBytes (a / 32 * 32) (granuleBytes d)).count64 (Reg.memCCntCe n) 1
    let s2 := if trial then s1.count64 (Reg.relCnt 2) 1 else s1
    let pin := pinOf k at_
    ⟨s2, d, false, if pin.isSome ∧ pin = Tbl.get none s.erasedPin (n * 4 + ch) then [] else [pin]⟩
  | (.poison, _) => ⟨if demand then s.count64 (Reg.memCCntPoisonRd n) 1 else s, g, true, []⟩
  | (.uncorrectable amb, _) =>
    let s1 := if amb then s.count64 (Reg.relCnt 7) 1 else s
    let s2 := (s1.poisonBytes (a / 32 * 32) 32).count64 (Reg.memCCntUe n) 1
    let s3 := (s2.setReg (Reg.memCLastErr n) (BitVec.ofNat 64 (a / 32 * 32))).memEv 0 n (some (a / 32 * 32))
    ⟨s3.dueRetire (a / 4096), g, true, []⟩

/-- Read the sector at `a` for a request: decoded, and its correction counted. -/
def State.readSector (s : State) (a : Nat) (err : List SymErr) : State × Granule × Bool :=
  let r := s.readGranule a err true
  (r.st.countCorrections (homePkg s.grade a) (chanOf s.grade a) a r.corr, r.data, r.poison)

/-- Read the granule at `a` of an SRAM window (R368): corrected and uncorrectable ones are fault events of the unit, or
of the fabric die for the collective buffer. -/
def State.readSram (s : State) (a : Nat) (err : List SymErr) : State × Granule × Bool :=
  let g := s.granule a
  let ev (s : State) : State := match s.region a with
    | .cache t => s.unitFault 0 t false
    | .coreStore c => s.unitFault 1 c false
    | .engineStore e => s.unitFault 2 e false
    | _ => s.fault 4 6 0 false
  match decodeErr [] g (s.poisoned (a / 32)) err with
  | .clean d => (s, d, false)
  | .corrected d _ => (ev ((s.storeBytes (a / 32 * 32) (granuleBytes d)).count64 (Reg.relCnt 0) 1), d, false)
  | .poison => (s, g, true)
  | .uncorrectable amb =>
    let s1 := if amb then s.count64 (Reg.relCnt 7) 1 else s
    let s2 := (s1.poisonBytes (a / 32 * 32) 32).count64 (Reg.relCnt 1) 1
    (ev (s2.event 0 Reg.relEvent 8 none (some (a / 32 * 32))), g, true)

/-! ## Seams (R17, R18) -/

/-- The die of a package of memory (Table 10-2): TD0 to TD3 are 0 to 3, SD0 and SD1 4 and 5, FD 6, HD 7. -/
def pkgDie : Grade → Nat → Nat
  | .lcv8, n => if n < 48 then n / 12 else 4 + (n - 48) / 8
  | .lcv4, n => if n < 12 then 0 else 4

/-- The die of the unit that issues an access (Table 1-1). -/
def reqDie (r : Req) : Nat :=
  if r.blk = 0xC then r.unit / 64
  else if r.blk = 0x10 then (if r.unit < 65536 then 4 + r.unit / 128 else 4 + (r.unit - 65536) / 16)
  else if r.blk = 8 then 6 else 7

/-- The die that holds an address: its home controller's, its SRAM's, or the hub die for host memory. -/
def State.dieAt (s : State) (a : Nat) : Nat := match s.region a with
  | .working | .pocket => pkgDie s.grade (homePkg s.grade a)
  | .cache t => t / 64
  | .coreStore c => 4 + c / 128
  | .engineStore e => 4 + e / 16
  | .collBuf => 6
  | _ => 7

/-- The star seam of a die. -/
def starSeam (d : Nat) : Nat := if d = 7 then 6 else d

/-- The fixed route between two dies: the seams it crosses, in order (Table 1-2, numbered as R380 numbers them). -/
def route (a b : Nat) : List Nat :=
  if a = b then []
  else if (a = 0 ∧ b = 1) ∨ (a = 1 ∧ b = 0) then [7]
  else if (a = 2 ∧ b = 3) ∨ (a = 3 ∧ b = 2) then [8]
  else if (a = 0 ∧ b = 4) ∨ (a = 4 ∧ b = 0) then [9]
  else if (a = 3 ∧ b = 5) ∨ (a = 5 ∧ b = 3) then [10]
  else if a = 6 then [starSeam b]
  else if b = 6 then [starSeam a]
  else [starSeam a, starSeam b]

/-- One seam word received with errors (R18). -/
def seamWord (r : State × Granule × Bool) (h : Nat × List SymErr) : State × Granule × Bool :=
  match decodeErr [] r.2.1 r.2.2 h.2 with
  | .clean d => (r.1, d, false)
  | .corrected d _ =>
    let s1 := r.1.count64 (Reg.relCnt (8 + h.1)) 1
    ({ s1 with seamNow := Tbl.set 0 s1.seamNow h.1 (Tbl.get 0 s1.seamNow h.1 + 1) }, d, false)
  | .poison => (r.1, r.2.1, true)
  | .uncorrectable amb =>
    let s1 := if amb then r.1.count64 (Reg.relCnt 7) 1 else r.1
    ((s1.count64 (Reg.relCnt (19 + h.1)) 1).fault 3 0 h.1 false, r.2.1, true)

/-- A granule carried over the seams of a route, with the errors of each. -/
def State.carry (s : State) (seams : List Nat) (hops : List (List SymErr)) (g : Granule) (poison : Bool) :
    State × Granule × Bool := (seams.zip hops).foldl seamWord (s, g, poison)

/-- The seams between a requester and an address. -/
def State.seamsTo (s : State) (r : Req) (a : Nat) : List Nat := route (reqDie r) (s.dieAt a)
def State.seamsFrom (s : State) (r : Req) (a : Nat) : List Nat := route (s.dieAt a) (reqDie r)

/-! ## Requests (R251, R254, R255) -/

/-- May the requester reach the address (R23)? -/
def State.reachable (s : State) (r : Req) (a : Nat) : Bool := if r.blk = 6 then s.pocketAccessible a else s.accessible a

/-- Is it the address of a home controller? -/
def State.atHome (s : State) (a : Nat) : Bool := match s.region a with
  | .working | .pocket => true
  | _ => false

/-- The new value of an atomic operation on an old value of `n` bytes, none where the spec states none (a format code
that is not a floating-point format of that width; log entry 12). -/
def atomNew (o : AtomOp) (old : Nat) : Option Nat :=
  let n := 2 ^ o.size.val
  let w := 8 * n
  let a := o.a.toNat % 2 ^ w
  let b := o.b.toNat % 2 ^ w
  match o.op.val with
  | 0 => some ((old + a) % 2 ^ w)
  | 1 => match fmtOfCode o.ffmt.toNat with
    | some (.plain f) => if f.isInt ∨ f.width ≠ w then none else some (encRne f ((decodeNum f old).add (decodeNum f a)))
    | _ => none
  | 2 => some a
  | 3 => some (sMax w old a)
  | 4 => some (max old a)
  | 5 => some (sMin w old a)
  | 6 => some (min old a)
  | _ => some (if old = b then a else old)

/-- The result of an atomic, a free value where the spec states none. -/
def atomResult (o : AtomOp) (old : Nat) : Nat :=
  match atomNew o old with
  | some v => v
  | none => (Config.atomicSum (o.ffmt.toNat + 32 * o.size.val) (BitVec.ofNat 64 old) o.a).toNat % 2 ^ (8 * 2 ^ o.size.val)

/-- POISON_MERGE at a home controller (R255). -/
def State.merged (s : State) (a : Nat) : State :=
  let n := homePkg s.grade a
  ((s.poisonBytes (a / 32 * 32) 32).setReg (Reg.memCLastErr n) (BitVec.ofNat 64 (a / 32 * 32))).memEv 1 n (some (a / 32 * 32))

/-- The bytes the last read returned. -/
def State.answer (s : State) (bs : List Byte) (poison : Bool) : State := { s with dataOut := bs, dataPoison := poison }

/-- A granule with the bytes of a mask replaced. -/
def mergeMask (old new : Granule) (mask : W32) : Granule :=
  BitVec.ofNat 256 (bytesNat ((List.range 32).map fun i =>
    if bit mask i then BitVec.ofNat 8 (fld new (8 * i) 8) else BitVec.ofNat 8 (fld old (8 * i) 8)))

/-- One read of a whole sector at its controller: counted, its check sector looked up, decoded. -/
def State.homeRead (s : State) (a : Nat) (err : List SymErr) (write : Bool) : State × Granule × Bool :=
  let n := homePkg s.grade a
  let s1 := (s.count64 (Reg.memCCntRd n) 1).chkTouch n (s.checkKey n a) write
  (if write then s1.count64 (Reg.memCCntWr n) 1 else s1).readSector a err

/-- A whole-sector write at its controller. -/
def State.homeWrite (s : State) (a : Nat) (g : Granule) (poison : Bool) : State :=
  let n := homePkg s.grade a
  let s1 := (s.count64 (Reg.memCCntWr n) 1).chkTouch n (s.checkKey n a) true
  if poison then s1.poisonBytes (a / 32 * 32) 32 else s1.storeBytes (a / 32 * 32) (granuleBytes g)

/-- A partial-sector write at its controller: read, decode, merge, write. -/
def State.homePart (s : State) (a : Nat) (mask : W32) (g : Granule) (poison : Bool) (err : List SymErr) : State :=
  let r := s.homeRead a err true
  if r.2.2 then r.1.merged a
  else if poison then r.1.poisonBytes (a / 32 * 32) 32
  else r.1.storeBytes (a / 32 * 32) (granuleBytes (mergeMask r.2.1 g mask))

/-- A partial write of a sector outside working memory: in SRAM it reads, decodes, merges and writes, as R368 says; host memory
keeps its poison to itself. -/
def State.sramPart (s : State) (a : Nat) (mask : W32) (g : Granule) (poison : Bool) (err : List SymErr) : State :=
  let r := if s.region a = .host then (s, s.granule a, s.poisoned (a / 32)) else s.readSram a err
  if r.2.2 then r.1.mergeEvent (a / 32)
  else if poison then r.1.poisonNow (a / 32 * 32) 32
  else (r.1.storeBytes (a / 32 * 32) (granuleBytes (mergeMask r.2.1 g mask))).hostBytes 5 a 32

/-- A sector at its own die: read, written whole, and written in part. -/
def State.sectorRead (s : State) (a : Nat) (err : List SymErr) : State × Granule × Bool :=
  if s.atHome a then s.homeRead a err false
  else if s.region a = .host then (s.hostBytes 4 a 32, s.granule a, s.poisoned (a / 32))
  else s.readSram a err

def State.sectorWrite (s : State) (a : Nat) (g : Granule) (poison : Bool) : State :=
  if s.atHome a then s.homeWrite a g poison
  else if poison then s.poisonNow (a / 32 * 32) 32
  else s.storeNow (a / 32 * 32) (granuleBytes g)

def State.sectorPart (s : State) (a : Nat) (mask : W32) (g : Granule) (poison : Bool) (err : List SymErr) : State :=
  if s.atHome a then s.homePart a mask g poison err else s.sramPart a mask g poison err

/-- An atomic at the die of its sector (R139, R255): the old value, whether it is poison, and the state after; a poisoned sector
stays poisoned, and a poisoned operand poisons it. -/
def State.sectorAtomic (s : State) (a : Nat) (o : AtomOp) (poison : Bool) (err : List SymErr) : State × Nat × Bool :=
  let r := if s.atHome a then s.homeRead a err true
    else if s.region a = .host then (s.hostBytes 4 a 32, s.granule a, s.poisoned (a / 32)) else s.readSram a err
  let n := 2 ^ o.size.val
  let old := r.2.1.toNat / 2 ^ (8 * o.off.val) % 2 ^ (8 * n)
  if r.2.2 then (if s.atHome a then r.1.merged a else r.1.mergeEvent (a / 32), old, true)
  else if poison then (r.1.poisonNow (a / 32 * 32) 32, old, false)
  else ((r.1.storeBytes (a / 32 * 32 + o.off.val) (natBytes n (atomResult o old))).hostBytes 5 a n, old, false)

/-- The mask of the bytes of `n` at `a` that lie in granule `g`. -/
def maskIn (a n g : Nat) : W32 :=
  BitVec.ofNat 32 ((List.range 32).foldl (fun m i => if a ≤ 32 * g + i ∧ 32 * g + i < a + n then m + 2 ^ i else m) 0)

/-- The part of bytes at `a` that lies in granule `g`, at its place in the granule. -/
def granulePart (a : Nat) (bs : List Byte) (g : Nat) : Granule :=
  BitVec.ofNat 256 (bytesNat ((List.range 32).map fun i => if a ≤ 32 * g + i then bs.getD (32 * g + i - a) 0 else 0))

/-- A host write (R321): whole granules are written, parts merged. -/
def State.hostStore (s : State) (a : Nat) (bs : List Byte) (poison : Bool) : State :=
  (granules a bs.length).foldl (fun s g =>
    if partly a bs.length g then s.homePart (32 * g) (maskIn a bs.length g) (granulePart a bs g) poison []
    else s.homeWrite (32 * g) (granulePart a bs g) poison) s

/-- A host read of a line (R321): poison in either granule poisons the line. -/
def State.hostLoad (s : State) (line : Nat) : State :=
  let r := s.homeRead (64 * line) [] false
  let q := r.1.homeRead (64 * line + 32) [] false
  q.1.answer (granuleBytes r.2.1 ++ granuleBytes q.2.1) (r.2.2 || q.2.2)

/-- The host's access to an address the HDM range does not reach or that is closed (R23). -/
def State.hostRefused (s : State) (a : Nat) : State := s.addressEvent ⟨0, (Config.hostUnit a).toNat⟩ a

/-- The host is granted a line: it becomes the newest of the snoop filter. -/
def State.grantLine (s : State) (line : Nat) (excl : Bool) : State :=
  let was := s.hostLines.any fun e => e.1 == line && e.2
  { s with hostLines := (s.hostLines.filter fun e => e.1 != line) ++ [(line, excl || was)] }

/-- Perform an accepted request: its words cross the seams of the fixed route there, and those of its answer the route back. -/
def State.perform (s : State) : MemReq → State
  | .read a r err hops =>
    if s.reachable r a = false then (s.addressEvent r a).answer (List.replicate 32 0) true
    else
      let q := s.sectorRead a err
      let c := q.1.carry (s.seamsFrom r a) hops q.2.1 q.2.2
      c.1.answer (granuleBytes c.2.1) c.2.2
  | .write a g poison r hops =>
    if s.reachable r a = false then s.addressEvent r a
    else
      let c := s.carry (s.seamsTo r a) hops g poison
      c.1.sectorWrite a c.2.1 c.2.2
  | .part a mask g poison r err hops =>
    if s.reachable r a = false then s.addressEvent r a
    else
      let c := s.carry (s.seamsTo r a) hops g poison
      c.1.sectorPart a mask c.2.1 c.2.2 err
  | .atomic a o r err hops =>
    let n := 2 ^ o.size.val
    if s.reachable r a = false then (s.addressEvent r a).answer (List.replicate n 0) true
    else
      let seams := s.seamsTo r a
      let c := s.carry seams hops (BitVec.ofNat 256 (o.a.toNat + 2 ^ 64 * o.b.toNat)) false
      let q := c.1.sectorAtomic a { o with a := c.2.1.truncate 64, b := (c.2.1 >>> 64).truncate 64 } c.2.2 err
      let d := q.1.carry (s.seamsFrom r a) (hops.drop seams.length) (BitVec.ofNat 256 q.2.1) q.2.2
      d.1.answer (natBytes n d.2.1.toNat) d.2.2
  | .own a bs poison _ => if poison then s.poisonNow a bs.length else s.storeNow a bs
  | .hostRead a excl =>
    if s.region a = .working then (s.hostLoad (a / 64)).grantLine (a / 64) excl
    else (s.hostRefused a).answer (List.replicate 64 0) true
  | .hostWrite a bs poison => if s.region a = .working then s.hostStore a bs poison else s.hostRefused a

/-! ## Order and the host's lines (R252, R260, R322) -/

/-- Must a request wait: its page is being copied, or an earlier request to its group waits? A write by the host to a
line it was asked to give up waits for no request. -/
def State.memBlocked (s : State) (q : MemReq) : Bool :=
  (s.retiring.any fun e => e.1 == q.addr / 4096) ||
  (match q with
    | .hostWrite a _ _ => !(s.bisnps.any fun e => e.1 == a / 64)
    | _ => true) && s.memHeld.any fun h => h.addr / 256 == q.addr / 256

/-- The lines a snoop filter holds. -/
def filterSize : Nat := 524288

/-- The back-invalidate a request needs first (R322): the line, and whether it is BISnpInv. -/
def State.backInvalidate (s : State) (q : MemReq) : Option (Nat × Bool) :=
  let line := q.addr / 64
  match q with
  | .read _ _ _ _ => if s.hostLines.any fun e => e.1 == line && e.2 then some (line, false) else none
  | .hostWrite _ _ _ => none
  | .hostRead _ _ =>
    if (s.hostLines.any fun e => e.1 == line) = false ∧ filterSize ≤ s.hostLines.length then
      s.hostLines.head?.map fun e => (e.1, true)
    else none
  | _ => if s.hostLines.any fun e => e.1 == line then some (line, true) else none

/-- A request arrives at its controller: it waits, asks the host for a line and waits, or is performed. -/
def State.memRequest (s : State) (q : MemReq) : State :=
  if s.memBlocked q then { s with memHeld := s.memHeld ++ [q] }
  else match s.backInvalidate q with
    | none => s.perform q
    | some b => { s with memHeld := s.memHeld ++ [q] }.askBack b.1 b.2

/-- Requests that waited are taken again, in order. -/
def State.retryHeld (s : State) : State := s.memHeld.foldl State.memRequest { s with memHeld := [] }

/-- The host answers a back-invalidate (R322). -/
def State.bisnpAnswer (s : State) (line : Nat) : State :=
  match s.bisnps.find? fun e => e.1 == line with
  | none => s
  | some b =>
    let lines := if b.2 then s.hostLines.filter fun e => e.1 != line
      else s.hostLines.map fun e => if e.1 = line then (line, false) else e
    { s with bisnps := s.bisnps.filter fun e => e.1 != line, hostLines := lines }.retryHeld

/-- MEM_READ (R251). -/
def execMemRead (addr : Nat) (req : Req) (err : List SymErr) (hops : List (List SymErr)) (s : State) :
    Host.Outcome State Fault Refusal := .next (s.memRequest (.read addr req err hops))
/-- MEM_WRITE (R251, R255). -/
def execMemWrite (addr : Nat) (data : BitVec 256) (poison : Bool) (req : Req) (hops : List (List SymErr)) (s : State) :
    Host.Outcome State Fault Refusal := .next (s.memRequest (.write addr data poison req hops))
/-- MEM_PARTIAL_WRITE (R251, R255). -/
def execMemPartialWrite (addr : Nat) (mask : BitVec 32) (data : BitVec 256) (poison : Bool) (req : Req)
    (err : List SymErr) (hops : List (List SymErr)) (s : State) : Host.Outcome State Fault Refusal :=
  .next (s.memRequest (.part addr mask data poison req err hops))
/-- MEM_ATOMIC (R139, R251). -/
def execMemAtomic (addr : Nat) (op : AtomOp) (req : Req) (err : PathErrs) (s : State) : Host.Outcome State Fault Refusal :=
  .next (s.memRequest (.atomic addr op req err.own err.hops))

/-- The copy of a retired page reads its granules, each decoded with its errors (R254, R260); the corrections of a channel
count once. -/
def State.copyPage (s : State) (page : Nat) (errs : List (List SymErr)) : State :=
  let a := 4096 * page
  let r := (List.range 128).foldl (fun (r : State × List (Nat × Option Nat)) i =>
    let q := r.1.readGranule (a + 32 * i) (errs.getD i []) true
    (q.st, r.2 ++ q.corr.map fun c => (chanOf s.grade (a + 32 * i), c))) (s, [])
  (List.range 4).foldl (fun s ch => s.countCorrections (homePkg s.grade a) ch a
    ((r.2.filter fun c => c.1 == ch).map fun c => c.2)) r.1

/-- The page being copied is in its slot (R260): what was poison or uncorrectable is copied as poison, the page is mapped to its
slot, and held requests go on. -/
def State.pageCopied (s : State) (page slot : Nat) (errs : List (List SymErr)) : State :=
  let n := homePkg s.grade (4096 * page)
  let s0 := s.copyPage page errs
  let s1 := { s0 with retiring := s0.retiring.filter fun x => x.1 != page }
  let busy := s1.retiring.any fun x => homePkg s.grade (4096 * x.1) == n
  ((s1.setRegB (Reg.memCStatus n) 6 busy).mapPage page slot (s1.poisonIn (4096 * page) 4096)).retryHeld

/-! ## Training, the fill and temperature (R247, R256, R258) -/

/-- MEM_FLUSH_DONE (R251). -/
def execMemFlushDone (s : State) : Host.Outcome State Fault Refusal := .next (s.setRegB Reg.memCtrl 3 false)

/-- REFRESH_DUE (R256): the time that requests waited on it, and the bank it has freed. -/
def execRefreshDue (n : Fin 64) (ch rank : Nat) (bank : Fin 16) (lostTc : Nat) (s : State) :
    Host.Outcome State Fault Refusal :=
  if numPkgs s.grade ≤ n ∨ 4 ≤ ch ∨ 2 ≤ rank then .next s
  else
    let s1 := s.count64 (Reg.memCCntRefTc n) lostTc
    .next { s1 with refreshed := Tbl.set none s1.refreshed (n * 4 + ch) (some (16 * rank + bank)) }

/-- The throttle level after a sample (R258). -/
def throttleNext (old temp hi lo crit : Int) : Int :=
  if crit ≤ temp then 2 else if temp < lo then 0 else if hi ≤ temp then max old 1 else old

/-- MR4_POLL (R256, R258). -/
def execMr4Poll (n : Fin 64) (temp : BitVec 8) (rate : BitVec 3) (heldTc : Nat) (s : State) :
    Host.Outcome State Fault Refusal :=
  if numPkgs s.grade ≤ n then .next s else
  let old := s.regF (Reg.memCStatus n) 4 2
  let s1 := if old = 0 then s else s.count64 (Reg.memCCntThrottleTc n) heldTc
  let s2 := { s1 with refRate := Tbl.set 0 s1.refRate n rate.toNat }.setRegF (Reg.memCTemp n) 0 8 temp.toNat
  let new := (throttleNext old temp.toInt (s.regF Reg.memTherm 0 8) (s.regF Reg.memTherm 8 8)
    (s.regF Reg.memTherm 16 8)).toNat
  let s3 := s2.setRegF (Reg.memCStatus n) 4 2 new
  let s4 := if old = 0 ∧ 1 ≤ new then s3.memEv 6 n none else s3
  .next (if old < 2 ∧ new = 2 then s4.memEv 7 n none else s4)

/-! ## Scrub (R257) -/

/-- Groups of a channel: those of the local pages and those of the spare slots. -/
def groupsPerChannel : Nat := (spareBase + 32 * 1024) / 8

/-- The device address of group `i` of channel `ch` of package `n`, none where it holds no page. -/
def State.groupAddr (s : State) (n ch i : Nat) : Option Nat :=
  let d := 8 * i
  if spareBase ≤ d then
    ((s.spares n).find? fun e => e.1 == (d - spareBase) / 32).map fun e =>
      let q := e.2 / numPkgs s.grade
      4096 * e.2 + (4 * (d % 32 / 16) + (ch + 4 - q % 4) % 4) * 512 + d % 16 * 32
  else
    let a := unplace s.grade n ch d
    if a < usable s.grade ∧ (s.slotOf n (a / 4096)).isNone then some a else none

/-- The eight granules of a group are read, with the errors of each. -/
def State.scrubGroup (s : State) (a : Nat) (errs : List (List SymErr)) : State :=
  let r := (List.range 8).foldl (fun (r : State × List (Option Nat)) i =>
    let q := r.1.readGranule (a + 32 * i) (errs.getD i []) false
    (q.st, r.2 ++ q.corr)) (s, [])
  r.1.countCorrections (homePkg s.grade a) (chanOf s.grade a) a r.2

/-- SCRUB_READ (R257): the next group in ascending S, once a refresh has freed its bank, which takes the slot it opened. -/
def execScrubRead (n : Fin 64) (ch : Fin 4) (errs : List (List SymErr)) (s : State) : Host.Outcome State Fault Refusal :=
  let k := n.val * 4 + ch.val
  let pos := Tbl.get 0 s.scrubPos k
  let a := s.groupAddr n ch (pos % groupsPerChannel)
  let waits : Bool := Tbl.get none s.refreshed k != some (bankOf (dramSector (8 * (pos % groupsPerChannel)))) ||
    match a with
    | some x => (s.memHeld.any fun h => h.addr / 256 == x / 256)
    | none => false
  if numPkgs s.grade ≤ n ∨ s.regB Reg.memCfg 2 = false ∨ s.regB Reg.memCtrl 1 = false ∨ s.regB Reg.memStatus 2 ∨ waits then
    .next s
  else
    let passes (s : State) : Nat :=
      (List.range 4).foldl (fun m c => min m (Tbl.get 0 s.scrubPos (n.val * 4 + c) / groupsPerChannel)) (pos + 1)
    let s1 := match a with
      | some x => s.scrubGroup x errs
      | none => s
    let s2 := { s1 with scrubPos := Tbl.set 0 s1.scrubPos k (pos + 1), refreshed := Tbl.set none s1.refreshed k none }
    .next (if passes s < passes s2 then s2.count64 (Reg.memCCntScrubPass n) 1 else s2)

end Sys2Proof.Machine
end

