-- ==== Sys2Proof/Machine/VecMem.lean ====
section
/-! DEFINITION. Virulax V memory access: vector loads and stores, scatter-adds, and the scalar loads, stores and atomics
that share their rules (R137 to R140, R178). -/
namespace Sys2Proof.Machine

/-! ## Element addresses (R137) -/

/-- Index lane `k` of vs2, 32 or 64 bits wide; a lane beyond the register is a free value (log entry 12). -/
def Prog.indexLane (p : Prog) (b : Nat) (wide : Bool) (k : Nat) : Nat :=
  let w := if wide then 64 else 32
  if k < capOf w then lane w (p.vr b) k else (Config.beyond (p.vr b) k).toNat % 2 ^ w

/-- The address of element `k` in a mode: 0 unit stride, 1 strided, 2 indexed. -/
def Prog.elemAddr (p : Prog) (o : VFields) (mode : Nat) (wide : Bool) (k : Nat) : Nat :=
  let b := p.ew / 8
  let base := (p.xr o.a).toNat
  (match mode with
    | 0 => base + k * b
    | 1 => base + k * (p.xr o.b).toNat
    | _ => base + p.indexLane o.b wide k * b) % 2 ^ 64

/-- Does an active element's index lie in a poisoned granule (R140)? -/
def Prog.indexPois (p : Prog) (o : VFields) (mode : Nat) (wide : Bool) : Bool :=
  mode == 2 && (p.actives o.msk).any fun k =>
    let w := if wide then 64 else 32
    decide (k < capOf w) && p.lanePois o.b w k

/-- VP_MISALIGN. -/
abbrev misaligned (s : State) : IRes := .fault s 0x31 []

/-- The fields that a mode of VLD or VST uses. -/
def modeFields (mode : Nat) (o : VFields) : Bool := (mode == 1 || mode == 2) || o.b == 0

/-- An access by elements: poisoned indices are consumed, and every address is a multiple of the element's bytes. -/
def Prog.elemChecks (s : State) (p : Prog) (o : VFields) (mode : Nat) (wide : Bool) (r : IRes) : IRes :=
  consume s (p.indexPois o mode wide) (
    if (p.actives o.msk).any fun k => p.elemAddr o mode wide k % (p.ew / 8) != 0 then misaligned s else r)

/-! ## Loads -/

/-- Load element `k` where it is active. -/
def Prog.loadEl (p : Prog) (o : VFields) (r : Req) (mode : Nat) (wide : Bool) (s : State) (k : Nat) : State × LaneOut :=
  if p.active o.msk k then
    let a := p.elemAddr o mode wide k
    let q := s.gload r a (p.ew / 8)
    (s.gloadSt r a (p.ew / 8), some (bytesNat q.1, q.2))
  else (s, if o.z then some (0, false) else none)

/-- Load granule `g` of a whole register. -/
def loadGran (r : Req) (base : Nat) (s : State) (g : Nat) : State × (Nat × Bool) :=
  let a := (base + 32 * g) % 2 ^ 64
  let q := s.gload r a 32
  (s.gloadSt r a 32, (bytesNat q.1, q.2))

/-- VLD (R137): FN[1:0] is the mode, FN[2] the width of the index lanes. A whole register ignores VL, the mask and EW,
but with VL = 0 no access is made (R127). -/
def execVld (u : VUnit) (fn : BitVec 3) (o : VFields) (s : State) : Host.Outcome State Fault Refusal :=
  let mode := fld fn 0 2
  let wide := bit fn 2
  .next (s.issue u (.vld u fn o) fun s =>
    s.vinstr u 0x34 fn.toNat (!o.m1 && modeFields mode o) id fun s p =>
    if mode = 3 then
      let base := (p.xr o.a).toNat
      if base % 64 ≠ 0 then misaligned s else
      let q := mapN (loadGran (progReq u) base) 32 0 s
      .done q.1 (p.writeLanes o.d 256 32 fun g => q.2[g]?)
    else p.elemChecks s o mode wide (
      let q := mapN (p.loadEl o (progReq u) mode wide) p.vl 0 s
      .done q.1 (p.writeLanes o.d p.ew p.vl fun k => (q.2[k]?).getD none)))

/-! ## Stores -/

/-- Store lane `k` of vs3. -/
def Prog.storeEl (p : Prog) (o : VFields) (r : Req) (mode : Nat) (wide : Bool) (s : State) (k : Nat) : State :=
  s.gstore r (p.elemAddr o mode wide k) (natBytes (p.ew / 8) (lane p.ew (p.vr o.d) k)) (p.lanePois o.d p.ew k)

/-- Store granule `g` of vs3 as a whole register. -/
def Prog.storeGran (p : Prog) (o : VFields) (r : Req) (s : State) (g : Nat) : State :=
  s.gstore r (((p.xr o.a).toNat + 32 * g) % 2 ^ 64) (natBytes 32 (lane 256 (p.vr o.d) g)) (p.granPois o.d g)

/-- VST (R137, R138): elements leave in ascending order. -/
def execVst (u : VUnit) (fn : BitVec 3) (o : VFields) (s : State) : Host.Outcome State Fault Refusal :=
  let mode := fld fn 0 2
  let wide := bit fn 2
  let r := progReq u
  .next (s.issue u (.vst u fn o) fun s =>
    s.vinstr u 0x35 fn.toNat (!o.m1 && (!o.z || mode == 3) && modeFields mode o) id fun s p =>
    if mode = 3 then
      if (p.xr o.a).toNat % 64 ≠ 0 then misaligned s else
      .done ((List.range 32).foldl (p.storeGran o r) s) (s.wrote (p.xr o.a).toNat p)
    else p.elemChecks s o mode wide (
      let ks := p.actives o.msk
      .done (ks.foldl (p.storeEl o r mode wide) s)
        (ks.foldl (fun q k => s.wrote (p.elemAddr o mode wide k) q) p)))

/-! ## Atomics (R139, R178, R286) -/

/-- Is a read-modify-write of a unit held: its page is replicated, or an earlier store of the unit is held (R286)? -/
def State.rmwHeld (s : State) (r : Req) (ga : Nat) : Bool := s.replStore ga || s.replHeld.any fun h => h.req == r

/-- What the package does where a read-modify-write is held by a replicated page (R286). -/
def State.rmwHold (s : State) (r : Req) (ga : Nat) : State :=
  if s.replStore ga then
    (((s.setRegB Reg.fabStatus 1 true).setReg Reg.fabLastErr (BitVec.ofNat 64 ga)).count64 (Reg.fabCnt 11) 1).event 8
      Reg.fabEvent 5 (some (r.unit % 65536)) ga
  else s

/-- The trailer of an ATOM_REQ on the `n` bytes at a global address (Table 11-4): operation, size, offset and format. -/
def atomTrailer (ga n op ffmt : Nat) : Nat := op + log2 n * 8 + devAddr ga % 32 * 32 + ffmt * 1024

/-- Send a read-modify-write of `n` bytes to another node (Table 11-4), which awaits no old value: the operation, operand,
whether the operand is poison, and format. -/
def State.remoteAtomic (s : State) (r : Req) (ga n op operand : Nat) (pois : Bool) (ffmt : Nat) : State :=
  if remoteOk ga = false then s.addressEvent r ga else
  s.request r (ga / 2 ^ 48 % 65536) 0x05 1 false (devAddr ga / 32 * 32) [fword (BitVec.ofNat 256 (operand % 2 ^ 64)) pois]
    (atomTrailer ga n op ffmt)

/-- Does a format hold an exact sum, so that an ATOM_REQ can carry it: rounding neither discards bits nor overflows? -/
def holdsSum (f : Fmt) (v : Num) : Bool := !inexactIn f v && (roundTo f .rne false 0 v).2 != .sat

/-- The operand of a floating-point scatter-add for another node: the exact sum, or a free value where its format does not hold
it (log entry 12). -/
def sumOperand (f : Fmt) (code : Nat) : Num → Nat
  | .fin m e => if holdsSum f (.fin m e) then encRne f (.fin m e) else (Config.unheld code m e).toNat
  | v => encRne f v

/-- A read-modify-write of `n` bytes in the package: `f` gives the new value of the old; a refused address is an address
event, and a poisoned sector keeps its poison (R255). -/
def State.localRmw (s : State) (r : Req) (ga n : Nat) (pois : Bool) (f : Nat → Nat) : State :=
  let a := devAddr ga
  if pois then s.storePoison r a n else s.store r a (natBytes n (f (s.num a n)))

/-- A read-modify-write in the package needs its line (R322); one for another node needs nothing before it is sent. -/
def State.needRmw (s : State) (r : Req) (ga n : Nat) : State :=
  if s.isLocal ga then s.needOwn r (devAddr ga) n true else s

/-- The distinct addresses of the active elements, in order of their first element, with the elements of each. -/
def Prog.addrGroups (p : Prog) (o : VFields) (wide : Bool) : List (Nat × List Nat) :=
  (p.actives o.msk).foldl (fun gs k =>
    let a := p.elemAddr o 2 wide k
    if gs.any fun g => g.1 == a then gs.map fun g => if g.1 = a then (a, g.2 ++ [k]) else g else gs ++ [(a, [k])]) []

/-- The scatter-add of one address: integers unless FMT names a floating-point format of width EW (log entry 13). -/
def Prog.scatterGroup (p : Prog) (o : VFields) (r : Req) (s : State) (g : Nat × List Nat) : State :=
  let w := p.ew
  let n := w / 8
  let pois := g.2.any fun k => p.lanePois o.d w k
  match p.fpFmt with
  | some fm =>
    let sum := g.2.foldl (fun (a : Num) k => a.add (decodeNum fm (lane w (p.vr o.d) k))) .zero
    if s.isLocal g.1 then s.localRmw r g.1 n pois fun old => encRne fm (sum.add (decodeNum fm old))
    else s.remoteAtomic r g.1 n 1 (sumOperand fm p.fmtCode sum) pois p.fmtCode
  | none =>
    let sum := g.2.foldl (fun a k => a + lane w (p.vr o.d) k) 0
    if s.isLocal g.1 then s.localRmw r g.1 n pois fun old => old + sum
    else s.remoteAtomic r g.1 n 0 (sum % 2 ^ w) pois 0

/-- VSTADD (R139). -/
def execVstadd (u : VUnit) (wide : Bool) (o : VFields) (s : State) : Host.Outcome State Fault Refusal :=
  let r := progReq u
  .next (s.issue u (.vstadd u wide o) fun s =>
    s.vinstr u 0x35 (if wide then 0x16 else 0x12) (!o.m1 && !o.z) id fun s p =>
    p.elemChecks s o 2 wide (
      let gs := p.addrGroups o wide
      match gs.find? fun g => s.rmwHeld r g.1 with
      | some g => .hold (s.rmwHold r g.1) { p with wait := .held }
      | none => .done (gs.foldl (p.scatterGroup o r) (gs.foldl (fun s g => s.needRmw r g.1 (p.ew / 8)) s))
          (gs.foldl (fun q g => s.wrote g.1 q) p)))

/-! ## Scalar loads and stores (R178) -/

/-- A scalar load of `n` bytes at xs1 + IMM: misaligned and poisoned ones end the program. -/
def State.loadInstr (s : State) (u : VUnit) (xs1 : Fin 32) (imm : BitVec 11) (n : Nat) (put : Prog → Nat → Prog) : State :=
  s.instr u (majFn 0x03 (imm.toNat / 32)) fun s p =>
    let a := ((p.xr xs1).toNat + (imm.signExtend 64).toNat) % 2 ^ 64
    if a % n ≠ 0 then misaligned s else
    let q := s.gload (progReq u) a n
    let s1 := s.gloadSt (progReq u) a n
    consume s1 q.2 (.done s1 (put p (bytesNat q.1)))

/-- A scalar store of `n` bytes at xs1 + IMM. -/
def State.storeInstr (s : State) (u : VUnit) (xs1 : Fin 32) (imm : BitVec 11) (n : Nat) (get : Prog → Nat) : State :=
  s.instr u (majFn 0x04 (imm.toNat / 32)) fun s p =>
    let a := ((p.xr xs1).toNat + (imm.signExtend 64).toNat) % 2 ^ 64
    if a % n ≠ 0 then misaligned s else
    .done (s.gstore (progReq u) a (natBytes n (get p)) false) (s.wrote a p)

/-- The old value that an atomic of unit `r` on the 8 bytes at a global address of another node has brought back, with its poison
(Table 11-4: bytes 0 to 7 of its word). -/
def State.oldValue (s : State) (r : Req) (ga : Nat) : Option (Nat × Bool) :=
  match s.accessAt r (sectorOf ga (devAddr ga)) true with
  | some e => e.data.map fun d => (d.1.toNat % 2 ^ 64, d.2)
  | none => none

/-- An atomic on the 8 bytes at xs1: the old value goes to xd. One on another node completes with the old value its ATOM_RSP
brings (R139, R282). -/
def State.atomInstr (s : State) (u : VUnit) (fn op : Nat) (xd xs1 : Fin 32) (f : Prog → Nat → Nat)
    (operand cmp : Prog → Nat) : State :=
  let r := progReq u
  s.instr u (majFn 0x08 fn) fun s p =>
    let a := (p.xr xs1).toNat
    if a % 8 ≠ 0 then misaligned s
    else if s.rmwHeld r a then .hold (s.rmwHold r a) { p with wait := .held }
    else if s.isLocal a then
      let q := s.load (devAddr a) 8
      let s1 := (s.needRmw r a 8).loadEvent r (devAddr a) 8
      consume s1 q.2 (.done (s1.localRmw r a 8 false (f p)) (p.setX xd (BitVec.ofNat 64 (bytesNat q.1))))
    else if remoteOk a = false then .fault (s.addressEvent r a) 0x33 []
    else match s.oldValue r a with
      | some v => consume s v.2 (.done s (s.wrote a (p.setX xd (BitVec.ofNat 64 v.1))))
      | none => .done (s.needs ⟨r, sectorOf a (devAddr a), .atomic (atomTrailer a 8 op 0) (operand p) (cmp p), false, none⟩) p

end Sys2Proof.Machine
end

