-- ==== Sys2Proof/Machine/VecSys.lean ====
section
/-! DEFINITION. Virulax V: configuration, the held accumulator block, softmax, random draws, fences and the end of a
program (R122, R124, R136, R138, R145 to R149, R156, R220 to R223). -/
namespace Sys2Proof.Machine

/-! ## Configuration (R121, R122, R124) -/

/-- Put a configuration in force for RQ elements: RND of 3 or a reserved bit sets VBAD and VL = 0 (log entry 14). -/
def Prog.setVl (p : Prog) (xd : Fin 32) (rq vt : Nat) : Prog :=
  let bad := nf vt 7 2 == 3 || nf vt 11 20 != 0
  let cap := capOf (8 * 2 ^ nf vt 0 2)
  let n := if bad then 0 else min rq cap
  { p.setX xd (BitVec.ofNat 64 (rq - n)) with
    vl := n
    vtype := BitVec.ofNat 32 (vt % 2 ^ 11 + (if bad then 2 ^ 31 else 0)) }

/-- VLSET (R122). -/
def execVlset (u : VUnit) (o : VFields) (s : State) : Host.Outcome State Fault Refusal :=
  .next (s.issue u (.vlset u o) fun s =>
    s.instr u (majFn 0x37 0x00) fun s p =>
    need s (o.msk == 0 && !o.m1 && !o.z) (.done s (p.setVl o.d (p.xr o.a).toNat ((p.xr o.b).toNat % 2 ^ 31))))

/-- VLSETI (R122): VTYPE[9:0] is B ‖ MSK ‖ M1 ‖ Z and VTYPE[10] is FN[0]. -/
def execVlseti (u : VUnit) (mon : Bool) (o : VFields) (s : State) : Host.Outcome State Fault Refusal :=
  .next (s.issue u (.vlseti u mon o) fun s =>
    s.instr u (majFn 0x37 (0x02 + bnat mon)) fun s p =>
    .done s (p.setVl o.d (p.xr o.a).toNat
      (bnat o.z + 2 * bnat o.m1 + 4 * o.msk.val + 32 * o.b.val + 1024 * bnat mon)))

/-- A vector control register (Table 5-3). -/
def Prog.vcr (p : Prog) : Nat → W64
  | 0 => BitVec.ofNat 64 p.vl
  | 1 => p.vtype.zeroExtend 64
  | 2 => p.vstream.zeroExtend 64
  | 3 => p.vdraw.zeroExtend 64
  | 4 => p.vebase
  | 5 => p.vestep
  | 6 => p.vmonid.zeroExtend 64
  | 7 => p.vsmbeta.zeroExtend 64
  | 8 => p.vcatt.zeroExtend 64
  | _ => 0

/-- Write a vector control register: a read-only one or an unlisted index is ignored. -/
def Prog.setVcr (p : Prog) (i : Nat) (v : W64) : Prog :=
  match i with
  | 2 => { p with vstream := v.truncate 32 }
  | 3 => { p with vdraw := v.truncate 24 }
  | 4 => { p with vebase := v }
  | 5 => { p with vestep := v }
  | 6 => { p with vmonid := v.truncate 16 }
  | 7 => { p with vsmbeta := v.truncate 32 }
  | 8 => { p with vcatt := v.truncate 32 }
  | _ => p

/-- VCRRD (R124). -/
def execVcrrd (u : VUnit) (o : VFields) (s : State) : Host.Outcome State Fault Refusal :=
  .next (s.issue u (.vcrrd u o) fun s =>
    s.instr u (majFn 0x37 0x04) fun s p =>
    need s (o.b == 0 && o.msk == 0 && !o.m1 && !o.z) (.done s (p.setX o.d (p.vcr o.a))))
/-- VCRWR (R124). -/
def execVcrwr (u : VUnit) (o : VFields) (s : State) : Host.Outcome State Fault Refusal :=
  .next (s.issue u (.vcrwr u o) fun s =>
    s.instr u (majFn 0x37 0x05) fun s p =>
    need s (o.d == 0 && o.msk == 0 && !o.m1 && !o.z) (.done s (p.setVcr o.a (p.xr o.b))))

/-! ## The held block (R136) -/

/-- The high word of an element in raw mode. -/
def rawHigh (x : AccEl) : Nat :=
  nf (unsigned 96 x.acc) 64 32 + unsigned 16 x.ex * 2 ^ 32 + x.cls % 8 * 2 ^ 48

/-- VACCR (R136). -/
def execVaccr (u : VUnit) (o : VFields) (s : State) : Host.Outcome State Fault Refusal :=
  .next (s.issue u (.vaccr u o) fun s =>
    s.vinstr u 0x37 0x08 (o.b == 0) id fun s p =>
    match u with
    | .core _ => illegal s
    | .tile t =>
      match s.heldOf t with
      | none => .fault s 0x32 []
      | some h =>
        let i := (p.xr o.a).toNat
        let n := min p.vl 64
        if 127 < i then illegal s
        else if o.m1 then
          need s (p.ew == 64 && o.d.val % 2 == 0 && h.slices == 0) (.done s
            ((p.writeLanes o.d 64 n fun j => p.dest o j (unsigned 64 (h.el i j).acc, (h.el i j).poison)).writeLanes
              (o.d + 1) 64 n fun j => p.dest o j (rawHigh (h.el i j), (h.el i j).poison)))
        else match p.fpFmt with
          | none => illegal s
          | some fm =>
            need s (fm == .b32 || fm == .b64) (.done s (p.writeLanes o.d fm.width n fun j =>
              let x := h.el i j
              p.dest o j ((p.roundEl fm j (x.value (unitOf h.slices x))).1, x.poison))))

/-! ## Softmax (R145 to R148) -/

/-- The binary32 constant LOG2E. -/
def log2e : Num := decodeNum .b32 0x3FB8AA3B

/-- A row of scores: each element's index, whether it is active, and its value. -/
abbrev Row := List (Nat × Bool × Num)

/-- e of R147 for an active score, under the maximum and β. -/
def softExp (m beta x : Num) : Num :=
  match x with
  | .inf _ => .zero
  | x => roundRne .b32 (roundRne .b32 (((x.sub m).mul beta).mul log2e)).exp2

/-- What softmax writes in a row: each element's bits, and whether the row is empty (R146, R147). -/
def softRow (fm : Fmt) (beta : Num) (row : Row) : List (Nat × Nat) × Bool :=
  let act := (row.filter fun e => e.2.1).map fun e => e.2.2
  let infs := (act.filter fun v => v == .inf false).length
  let fins := act.filter Num.isFin
  let every (x : Nat) : List (Nat × Nat) := row.map fun e => (e.1, x)
  if act.any Num.isNan then (every fm.encNan, false)
  else if 0 < infs then
    (row.map fun e => (e.1, if e.2.1 && e.2.2 == .inf false then encRne fm ((Num.fin 1 0).div (.fin infs 0)) else 0), false)
  else match fins with
    | [] => (every 0, true)
    | f :: fs =>
      let m := fs.foldl Num.max f
      let sum := act.foldl (fun (a : Num) v => a.add (softExp m beta v)) .zero
      (row.map fun e => (e.1, if e.2.1 then encRne fm ((softExp m beta e.2.2).div sum) else 0), false)

/-- Rows of `rl` elements of vs2 below VL. -/
def Prog.rows (p : Prog) (o : VFields) (fm : Fmt) (rl : Nat) : List Row :=
  (List.range (ceilDiv p.vl rl)).map fun r => (upFrom (r * rl) (min rl (p.vl - r * rl))).map fun k =>
    (k, p.active o.msk k, decodeNum fm (lane fm.width (p.vr o.b) k))

/-- VSMAX (R145). -/
def execVsmax (u : VUnit) (o : VFields) (s : State) : Host.Outcome State Fault Refusal :=
  .next (s.issue u (.vsmax u o) fun s =>
    s.vfp u 0x37 0x0C (!o.m1) fun s p fm =>
    let rl := (p.xr o.a).toNat
    let beta := decodeNum .b32 p.vsmbeta.toNat
    need s ((fm == .b32 || fm == .b16 || fm == .bf16) && beta.isFin && (Num.zero).lt beta && rl != 0 &&
        decide (rl ≤ capOf p.ew)) (
      consume s ((p.actives o.msk).any fun k => p.lanePois o.b fm.width k) (
        let out := (p.rows o fm rl).map (softRow fm beta)
        let els := out.flatMap Prod.fst
        let empty := (out.filter Prod.snd).length
        let nans := (els.filter fun e => e.2 == fm.encNan).map fun _ => (Num.nan, Ev.nonfinite)
        let s1 := s.count32 (veEmptyRow u) empty
        let s2 := if p.mon then
            (if empty = 0 then s1 else s1.monEmptyRows p.vmonid.toNat empty).monReport (some p.vmonid.toNat) nans else s1
        .done s2 (p.writeLanes o.d fm.width p.vl fun k => (els[k]?).map fun e => (e.2, false)))))

/-! ## Random draws (R149, R220 to R223) -/

/-- The key of a score of VCATD: Gumbel noise added to the scaled score (R222). -/
def gumbelKey (y : Nat) (sq : Num) : Num :=
  let a := roundRne .b32 (uniformNum y).log2
  let gp := (roundRne .b32 a.neg.log2).neg
  roundRne .b32 (sq.add gp)

/-- The word of score `c` of row `r` (R222). -/
def Prog.catWord (p : Prog) (r c : Nat) : Nat :=
  bobbinWord { p.key 3 with draw := (p.vdraw.toNat + c / 4) % 2 ^ 24 } (p.elemIndex r) (c % 4)

/-- The outcome of a row of VCATD: the index, and whether an active score is NaN (R223). -/
def Prog.catRow (p : Prog) (r : Nat) (t : Num) (row : Row) : Nat × Bool :=
  let act := (row.zipIdx.filter fun e => e.1.2.1).map fun e => (e.2, e.1.2.2)
  let q := roundRne .b32 (log2e.div t)
  let pick (xs : List (Nat × Num)) : Nat := ((pickFirst xs).getD 0xFFFFFFFF)
  let infs := act.filter fun e => e.2 == .inf false
  let fins := act.filter fun e => e.2.isFin
  if act.any fun e => e.2.isNan then (0xFFFFFFFF, true)
  else if !infs.isEmpty then (pick (infs.map fun e => (e.1, gumbelKey (p.catWord r e.1) .zero)), false)
  else if t.isZero then (pick fins, false)
  else (pick (fins.map fun e => (e.1, gumbelKey (p.catWord r e.1) (e.2.mul q))), false)
where
  /-- The lowest index of the greatest key. -/
  pickFirst : List (Nat × Num) → Option Nat
    | [] => none
    | x :: t => some (t.foldl (fun b y => if b.2.lt y.2 then y else b) x).1

/-- VCATD (R149, R222). The index of a row beyond the 256 that vd holds is not written; rows of no scores leave free
values in vd (log entry 12). -/
def execVcatd (u : VUnit) (o : VFields) (s : State) : Host.Outcome State Fault Refusal :=
  .next (s.issue u (.vcatd u o) fun s =>
    s.vfp u 0x37 0x0D (!o.m1 && !o.z) fun s p fm =>
    let rl := (p.xr o.a).toNat
    let t := decodeNum .b32 p.vcatt.toNat
    need s ((fm == .b32 || fm == .b16 || fm == .bf16) && t.isFin && !t.isNeg) (
      if rl = 0 then
        .done s (p.writeLanes o.d 32 256 fun k => some ((Config.beyond (p.vr o.b) k).toNat, false))
      else
        consume s ((p.actives o.msk).any fun k => p.lanePois o.b fm.width k) (
          let out := (p.rows o fm rl).zipIdx.map fun e => p.catRow e.2 t e.1
          let nans := (out.filter Prod.snd).map fun _ => (Num.nan, Ev.nonfinite)
          .done (if p.mon then s.monReport (some p.vmonid.toNat) nans else s)
            (p.writeLanes o.d 32 (min out.length 256) fun r => (out[r]?).map fun e => (e.1, false)))))

/-- VBERN (R220). -/
def execVbern (u : VUnit) (o : VFields) (s : State) : Host.Outcome State Fault Refusal :=
  .next (s.issue u (.vbern u o) fun s =>
    s.vinstr u 0x37 0x0E (!o.m1 && o.b == 0 && decide (o.d.val < 8)) id fun s p =>
    let prob := (p.xr o.a).toNat % 65536
    .done s (p.writeMask o.d o fun k => prob != 0 && decide (bobbinWord (p.key 2) (p.elemIndex k) 0 % 65536 < prob)))

/-- VRAND (R149). -/
def execVrand (u : VUnit) (o : VFields) (s : State) : Host.Outcome State Fault Refusal :=
  .next (s.issue u (.vrand u o) fun s =>
    s.vinstr u 0x37 0x0F (!o.m1 && o.b == 0) id fun s p =>
    let purpose := (p.xr o.a).toNat % 256
    need s (decide (0x10 ≤ purpose) && p.ew == 32) (.done s (p.elementwise o 32 fun k =>
      (bobbinWord (p.key purpose) (p.elemIndex k) 0, false))))

/-! ## Fences and the end (R138, R151, R156, R283) -/

/-- A fence: it completes at once, or waits. -/
def fenceRes (r : Req) (s : State) (p : Prog) : IRes :=
  if s.fenceMet r p then .done s p else .hold s { p with wait := .fence }

/-- No field of the word is used. -/
def noFields (o : VFields) : Bool := o.b == 0 && o.a == 0 && o.d == 0 && o.msk == 0 && !o.m1 && !o.z

/-- VFENCE (R138). -/
def execVfence (u : VUnit) (o : VFields) (s : State) : Host.Outcome State Fault Refusal :=
  .next (s.issue u (.vfence u o) fun s =>
    s.instr u (majFn 0x37 0x10) fun s p => need s (!p.vbad && noFields o) (fenceRes (progReq u) s p))

/-- VEND (R156). -/
def execVend (u : VUnit) (o : VFields) (s : State) : Host.Outcome State Fault Refusal :=
  .next (s.issue u (.vend u o) fun s =>
    s.instr u (majFn 0x37 0x11) fun s p => need s (!p.vbad && noFields o) (.ends s p 0))

/-- VTRAP (R151): the code B ‖ A goes to the status bytes of the context (log entry 15). -/
def execVtrap (u : VUnit) (o : VFields) (s : State) : Host.Outcome State Fault Refusal :=
  .next (s.issue u (.vtrap u o) fun s =>
    s.instr u (majFn 0x37 0x12) fun s p =>
    need s (!p.vbad && o.d == 0 && o.msk == 0 && !o.m1 && !o.z)
      (.fault s 0x36 (natBytes 2 (o.b.val * 32 + o.a.val))))

end Sys2Proof.Machine
end

