-- ==== Sys2Proof/Machine/Scalar.lean ====
section
/-! DEFINITION. The Virulax scalar base (R176 to R179): integer and floating-point arithmetic, loads and stores,
branches, atomics, fences, sync counters, control registers and the end of a program. -/
namespace Sys2Proof.Machine

/-! ## Integer arithmetic (R177, R178) -/

/-- A 3R integer instruction: `f` of xs1 and xs2 to xd. -/
def State.alu (s : State) (u : VUnit) (fn : Nat) (xd xs1 xs2 : Fin 32) (f : W64 → W64 → W64) : State :=
  s.instr u (majFn 0x00 fn) fun s p => .done s (p.setX xd (f (p.xr xs1) (p.xr xs2)))

/-- An RI integer instruction: the immediate is sign-extended (R176). -/
def State.aluI (s : State) (u : VUnit) (xd xs1 : Fin 32) (imm : BitVec 11) (f : W64 → W64 → W64) : State :=
  s.instr u (majFn 0x01 (imm.toNat / 32)) fun s p => .done s (p.setX xd (f (p.xr xs1) (imm.signExtend 64)))

/-- A shift: the result of a count of 64 or more is not stated, a free value (log entry 12). -/
def shifted (mf : Nat) (f : W64 → Nat → W64) (x n : W64) : W64 :=
  if n.toNat < 64 then f x n.toNat else Config.wideShift mf x n

/-- A shift instruction. -/
def State.shift (s : State) (u : VUnit) (mf : Nat) (xd xs1 : Fin 32) (count : Prog → W64) (f : W64 → Nat → W64) : State :=
  s.instr u mf fun s p =>
    .done s (p.setX xd (shifted mf f (p.xr xs1) (count p)))

/-- 1 for true, 0 for false. -/
def b64 (b : Bool) : W64 := if b then 1 else 0

/-- The leading zeros of a word, from bit `n − 1` down. -/
def lzcFrom (x : W64) : Nat → Nat
  | 0 => 0
  | n + 1 => if bit x n then 0 else lzcFrom x n + 1

/-- The set bits of a word below bit `n`. -/
def popBelow (x : W64) : Nat → Nat
  | 0 => 0
  | n + 1 => bnat (bit x n) + popBelow x n

/-- ADD. -/
def execAdd (u : VUnit) (xd xs1 xs2 : Fin 32) (s : State) : Host.Outcome State Fault Refusal :=
  .next (s.issue u (.add u xd xs1 xs2) fun s =>
    s.alu u 0x00 xd xs1 xs2 fun a b => a + b)
/-- SUB: xs1 less xs2. -/
def execSub (u : VUnit) (xd xs1 xs2 : Fin 32) (s : State) : Host.Outcome State Fault Refusal :=
  .next (s.issue u (.sub u xd xs1 xs2) fun s =>
    s.alu u 0x01 xd xs1 xs2 fun a b => a - b)
/-- MUL. -/
def execMul (u : VUnit) (xd xs1 xs2 : Fin 32) (s : State) : Host.Outcome State Fault Refusal :=
  .next (s.issue u (.mul u xd xs1 xs2) fun s =>
    s.alu u 0x02 xd xs1 xs2 fun a b => a * b)
/-- MULHI. -/
def execMulhi (u : VUnit) (xd xs1 xs2 : Fin 32) (s : State) : Host.Outcome State Fault Refusal :=
  .next (s.issue u (.mulhi u xd xs1 xs2) fun s =>
    s.alu u 0x03 xd xs1 xs2 fun a b => BitVec.ofInt 64 (a.toInt * b.toInt / 2 ^ 64))
/-- MULHIU. -/
def execMulhiu (u : VUnit) (xd xs1 xs2 : Fin 32) (s : State) : Host.Outcome State Fault Refusal :=
  .next (s.issue u (.mulhiu u xd xs1 xs2) fun s =>
    s.alu u 0x04 xd xs1 xs2 fun a b => BitVec.ofNat 64 (a.toNat * b.toNat / 2 ^ 64))
/-- QUO: by 0 it gives 0, and −2^63 by −1 gives −2^63. -/
def execQuo (u : VUnit) (xd xs1 xs2 : Fin 32) (s : State) : Host.Outcome State Fault Refusal :=
  .next (s.issue u (.quo u xd xs1 xs2) fun s =>
    s.alu u 0x05 xd xs1 xs2 fun a b => BitVec.ofInt 64 (a.toInt.tdiv b.toInt))
/-- QUOU. -/
def execQuou (u : VUnit) (xd xs1 xs2 : Fin 32) (s : State) : Host.Outcome State Fault Refusal :=
  .next (s.issue u (.quou u xd xs1 xs2) fun s =>
    s.alu u 0x06 xd xs1 xs2 fun a b => BitVec.ofNat 64 (a.toNat / b.toNat))
/-- MOD: by 0 it gives the dividend. -/
def execMod (u : VUnit) (xd xs1 xs2 : Fin 32) (s : State) : Host.Outcome State Fault Refusal :=
  .next (s.issue u (.mod u xd xs1 xs2) fun s =>
    s.alu u 0x07 xd xs1 xs2 fun a b => BitVec.ofInt 64 (a.toInt.tmod b.toInt))
/-- MODU. -/
def execModu (u : VUnit) (xd xs1 xs2 : Fin 32) (s : State) : Host.Outcome State Fault Refusal :=
  .next (s.issue u (.modu u xd xs1 xs2) fun s =>
    s.alu u 0x08 xd xs1 xs2 fun a b => BitVec.ofNat 64 (a.toNat % b.toNat))
/-- AND. -/
def execAnd (u : VUnit) (xd xs1 xs2 : Fin 32) (s : State) : Host.Outcome State Fault Refusal :=
  .next (s.issue u (.and u xd xs1 xs2) fun s =>
    s.alu u 0x09 xd xs1 xs2 fun a b => a &&& b)
/-- OR. -/
def execOr (u : VUnit) (xd xs1 xs2 : Fin 32) (s : State) : Host.Outcome State Fault Refusal :=
  .next (s.issue u (.or u xd xs1 xs2) fun s =>
    s.alu u 0x0A xd xs1 xs2 fun a b => a ||| b)
/-- XOR. -/
def execXor (u : VUnit) (xd xs1 xs2 : Fin 32) (s : State) : Host.Outcome State Fault Refusal :=
  .next (s.issue u (.xor u xd xs1 xs2) fun s =>
    s.alu u 0x0B xd xs1 xs2 fun a b => a ^^^ b)
/-- SHL. -/
def execShl (u : VUnit) (xd xs1 xs2 : Fin 32) (s : State) : Host.Outcome State Fault Refusal :=
  .next (s.issue u (.shl u xd xs1 xs2) fun s =>
    s.shift u (majFn 0x00 0x0C) xd xs1 (fun p => p.xr xs2) fun x n => x <<< n)
/-- SHR. -/
def execShr (u : VUnit) (xd xs1 xs2 : Fin 32) (s : State) : Host.Outcome State Fault Refusal :=
  .next (s.issue u (.shr u xd xs1 xs2) fun s =>
    s.shift u (majFn 0x00 0x0D) xd xs1 (fun p => p.xr xs2) fun x n => x >>> n)
/-- SAR. -/
def execSar (u : VUnit) (xd xs1 xs2 : Fin 32) (s : State) : Host.Outcome State Fault Refusal :=
  .next (s.issue u (.sar u xd xs1 xs2) fun s =>
    s.shift u (majFn 0x00 0x0E) xd xs1 (fun p => p.xr xs2) fun x n => x.sshiftRight n)
/-- CMPLT. -/
def execCmplt (u : VUnit) (xd xs1 xs2 : Fin 32) (s : State) : Host.Outcome State Fault Refusal :=
  .next (s.issue u (.cmplt u xd xs1 xs2) fun s =>
    s.alu u 0x0F xd xs1 xs2 fun a b => b64 (a.slt b))
/-- CMPLTU. -/
def execCmpltu (u : VUnit) (xd xs1 xs2 : Fin 32) (s : State) : Host.Outcome State Fault Refusal :=
  .next (s.issue u (.cmpltu u xd xs1 xs2) fun s =>
    s.alu u 0x10 xd xs1 xs2 fun a b => b64 (a.ult b))
/-- MIN, signed. -/
def execMin (u : VUnit) (xd xs1 xs2 : Fin 32) (s : State) : Host.Outcome State Fault Refusal :=
  .next (s.issue u (.min u xd xs1 xs2) fun s =>
    s.alu u 0x11 xd xs1 xs2 fun a b => if b.slt a then b else a)
/-- MAX, signed. -/
def execMax (u : VUnit) (xd xs1 xs2 : Fin 32) (s : State) : Host.Outcome State Fault Refusal :=
  .next (s.issue u (.max u xd xs1 xs2) fun s =>
    s.alu u 0x12 xd xs1 xs2 fun a b => if a.slt b then b else a)
/-- LZC of xs1. -/
def execLzc (u : VUnit) (xd xs1 xs2 : Fin 32) (s : State) : Host.Outcome State Fault Refusal :=
  .next (s.issue u (.lzc u xd xs1 xs2) fun s =>
    s.alu u 0x13 xd xs1 xs2 fun a _ => BitVec.ofNat 64 (lzcFrom a 64))
/-- BITCNT of xs1. -/
def execBitcnt (u : VUnit) (xd xs1 xs2 : Fin 32) (s : State) : Host.Outcome State Fault Refusal :=
  .next (s.issue u (.bitcnt u xd xs1 xs2) fun s =>
    s.alu u 0x14 xd xs1 xs2 fun a _ => BitVec.ofNat 64 (popBelow a 64))
/-- ADD.I. -/
def execAddI (u : VUnit) (xd xs1 : Fin 32) (imm : BitVec 11) (s : State) : Host.Outcome State Fault Refusal :=
  .next (s.issue u (.addI u xd xs1 imm) fun s =>
    s.aluI u xd xs1 imm fun a b => a + b)
/-- AND.I. -/
def execAndI (u : VUnit) (xd xs1 : Fin 32) (imm : BitVec 11) (s : State) : Host.Outcome State Fault Refusal :=
  .next (s.issue u (.andI u xd xs1 imm) fun s =>
    s.aluI u xd xs1 imm fun a b => a &&& b)
/-- OR.I. -/
def execOrI (u : VUnit) (xd xs1 : Fin 32) (imm : BitVec 11) (s : State) : Host.Outcome State Fault Refusal :=
  .next (s.issue u (.orI u xd xs1 imm) fun s =>
    s.aluI u xd xs1 imm fun a b => a ||| b)
/-- XOR.I. -/
def execXorI (u : VUnit) (xd xs1 : Fin 32) (imm : BitVec 11) (s : State) : Host.Outcome State Fault Refusal :=
  .next (s.issue u (.xorI u xd xs1 imm) fun s =>
    s.aluI u xd xs1 imm fun a b => a ^^^ b)
/-- CMPLT.I. -/
def execCmpltI (u : VUnit) (xd xs1 : Fin 32) (imm : BitVec 11) (s : State) : Host.Outcome State Fault Refusal :=
  .next (s.issue u (.cmpltI u xd xs1 imm) fun s =>
    s.aluI u xd xs1 imm fun a b => b64 (a.slt b))
/-- SHL.I. -/
def execShlI (u : VUnit) (xd xs1 : Fin 32) (imm : BitVec 11) (s : State) : Host.Outcome State Fault Refusal :=
  .next (s.issue u (.shlI u xd xs1 imm) fun s =>
    s.shift u (majFn 0x01 (imm.toNat / 32)) xd xs1 (fun _ => imm.signExtend 64) fun x n => x <<< n)
/-- SHR.I. -/
def execShrI (u : VUnit) (xd xs1 : Fin 32) (imm : BitVec 11) (s : State) : Host.Outcome State Fault Refusal :=
  .next (s.issue u (.shrI u xd xs1 imm) fun s =>
    s.shift u (majFn 0x01 (imm.toNat / 32)) xd xs1 (fun _ => imm.signExtend 64) fun x n => x >>> n)
/-- SAR.I. -/
def execSarI (u : VUnit) (xd xs1 : Fin 32) (imm : BitVec 11) (s : State) : Host.Outcome State Fault Refusal :=
  .next (s.issue u (.sarI u xd xs1 imm) fun s =>
    s.shift u (majFn 0x01 (imm.toNat / 32)) xd xs1 (fun _ => imm.signExtend 64) fun x n => x.sshiftRight n)
/-- MOVH16: the sign-extended immediate shifted left by 16. -/
def execMovh16 (u : VUnit) (xd : Fin 32) (imm : BitVec 16) (s : State) : Host.Outcome State Fault Refusal :=
  .next (s.issue u (.movh16 u xd imm) fun s =>
    s.instr u (majFn 0x02 (imm.toNat / 1024)) fun s p => .done s (p.setX xd (imm.signExtend 64 <<< 16)))
/-- SHLOR16: the immediate is zero-extended. -/
def execShlor16 (u : VUnit) (xd : Fin 32) (imm : BitVec 16) (s : State) : Host.Outcome State Fault Refusal :=
  .next (s.issue u (.shlor16 u xd imm) fun s =>
    s.instr u (majFn 0x02 (imm.toNat / 1024)) fun s p =>
    .done s (p.setX xd ((p.xr xd <<< 16) ||| imm.zeroExtend 64)))

/-! ## Loads and stores (R178) -/

/-- LD.B. -/
def execLdB (u : VUnit) (xd xs1 : Fin 32) (imm : BitVec 11) (s : State) : Host.Outcome State Fault Refusal :=
  .next (s.issue u (.ldB u xd xs1 imm) fun s =>
    s.loadInstr u xs1 imm 1 fun p v => p.setX xd (BitVec.ofInt 64 (signed 8 v)))
/-- LD.H. -/
def execLdH (u : VUnit) (xd xs1 : Fin 32) (imm : BitVec 11) (s : State) : Host.Outcome State Fault Refusal :=
  .next (s.issue u (.ldH u xd xs1 imm) fun s =>
    s.loadInstr u xs1 imm 2 fun p v => p.setX xd (BitVec.ofInt 64 (signed 16 v)))
/-- LD.W. -/
def execLdW (u : VUnit) (xd xs1 : Fin 32) (imm : BitVec 11) (s : State) : Host.Outcome State Fault Refusal :=
  .next (s.issue u (.ldW u xd xs1 imm) fun s =>
    s.loadInstr u xs1 imm 4 fun p v => p.setX xd (BitVec.ofInt 64 (signed 32 v)))
/-- LD.D. -/
def execLdD (u : VUnit) (xd xs1 : Fin 32) (imm : BitVec 11) (s : State) : Host.Outcome State Fault Refusal :=
  .next (s.issue u (.ldD u xd xs1 imm) fun s =>
    s.loadInstr u xs1 imm 8 fun p v => p.setX xd (BitVec.ofNat 64 v))
/-- LD.BU. -/
def execLdBu (u : VUnit) (xd xs1 : Fin 32) (imm : BitVec 11) (s : State) : Host.Outcome State Fault Refusal :=
  .next (s.issue u (.ldBu u xd xs1 imm) fun s =>
    s.loadInstr u xs1 imm 1 fun p v => p.setX xd (BitVec.ofNat 64 v))
/-- LD.HU. -/
def execLdHu (u : VUnit) (xd xs1 : Fin 32) (imm : BitVec 11) (s : State) : Host.Outcome State Fault Refusal :=
  .next (s.issue u (.ldHu u xd xs1 imm) fun s =>
    s.loadInstr u xs1 imm 2 fun p v => p.setX xd (BitVec.ofNat 64 v))
/-- LD.WU. -/
def execLdWu (u : VUnit) (xd xs1 : Fin 32) (imm : BitVec 11) (s : State) : Host.Outcome State Fault Refusal :=
  .next (s.issue u (.ldWu u xd xs1 imm) fun s =>
    s.loadInstr u xs1 imm 4 fun p v => p.setX xd (BitVec.ofNat 64 v))
/-- LDF.S. -/
def execLdfS (u : VUnit) (fd xs1 : Fin 32) (imm : BitVec 11) (s : State) : Host.Outcome State Fault Refusal :=
  .next (s.issue u (.ldfS u fd xs1 imm) fun s =>
    s.loadInstr u xs1 imm 4 fun p v => p.setF fd (BitVec.ofNat 64 v))
/-- LDF.D. -/
def execLdfD (u : VUnit) (fd xs1 : Fin 32) (imm : BitVec 11) (s : State) : Host.Outcome State Fault Refusal :=
  .next (s.issue u (.ldfD u fd xs1 imm) fun s =>
    s.loadInstr u xs1 imm 8 fun p v => p.setF fd (BitVec.ofNat 64 v))
/-- ST.B. -/
def execStB (u : VUnit) (xs1 xs2 : Fin 32) (imm : BitVec 11) (s : State) : Host.Outcome State Fault Refusal :=
  .next (s.issue u (.stB u xs1 xs2 imm) fun s =>
    s.storeInstr u xs1 imm 1 fun p => (p.xr xs2).toNat)
/-- ST.H. -/
def execStH (u : VUnit) (xs1 xs2 : Fin 32) (imm : BitVec 11) (s : State) : Host.Outcome State Fault Refusal :=
  .next (s.issue u (.stH u xs1 xs2 imm) fun s =>
    s.storeInstr u xs1 imm 2 fun p => (p.xr xs2).toNat)
/-- ST.W. -/
def execStW (u : VUnit) (xs1 xs2 : Fin 32) (imm : BitVec 11) (s : State) : Host.Outcome State Fault Refusal :=
  .next (s.issue u (.stW u xs1 xs2 imm) fun s =>
    s.storeInstr u xs1 imm 4 fun p => (p.xr xs2).toNat)
/-- ST.D. -/
def execStD (u : VUnit) (xs1 xs2 : Fin 32) (imm : BitVec 11) (s : State) : Host.Outcome State Fault Refusal :=
  .next (s.issue u (.stD u xs1 xs2 imm) fun s =>
    s.storeInstr u xs1 imm 8 fun p => (p.xr xs2).toNat)
/-- STF.S. -/
def execStfS (u : VUnit) (xs1 fs2 : Fin 32) (imm : BitVec 11) (s : State) : Host.Outcome State Fault Refusal :=
  .next (s.issue u (.stfS u xs1 fs2 imm) fun s =>
    s.storeInstr u xs1 imm 4 fun p => (p.fr fs2).toNat)
/-- STF.D. -/
def execStfD (u : VUnit) (xs1 fs2 : Fin 32) (imm : BitVec 11) (s : State) : Host.Outcome State Fault Refusal :=
  .next (s.issue u (.stfD u xs1 fs2 imm) fun s =>
    s.storeInstr u xs1 imm 8 fun p => (p.fr fs2).toNat)

/-! ## Branches and jumps (R177) -/

/-- A branch: to PC + 4 × IMM where the comparison holds. -/
def State.branch (s : State) (u : VUnit) (xs1 xs2 : Fin 32) (imm : BitVec 11) (f : W64 → W64 → Bool) : State :=
  s.instr u (majFn 0x05 (imm.toNat / 32)) fun s p =>
    if f (p.xr xs1) (p.xr xs2) then .jump s p (p.pc + 4 * imm.signExtend 64) else .done s p

/-- A jump to a register target, which must be a multiple of 4; `link` writes x31. -/
def State.jumpReg (s : State) (u : VUnit) (xs1 : Fin 32) (imm : BitVec 11) (link : Bool) : State :=
  s.instr u (majFn 0x06 (imm.toNat / 32)) fun s p =>
    let t := p.xr xs1 + 4 * imm.signExtend 64
    if t.toNat % 4 ≠ 0 then misaligned s else .jump s (if link then p.setX 31 (p.pc + 4) else p) t

/-- BR.EQ. -/
def execBrEq (u : VUnit) (xs1 xs2 : Fin 32) (imm : BitVec 11) (s : State) : Host.Outcome State Fault Refusal :=
  .next (s.issue u (.brEq u xs1 xs2 imm) fun s =>
    s.branch u xs1 xs2 imm fun a b => a == b)
/-- BR.NE. -/
def execBrNe (u : VUnit) (xs1 xs2 : Fin 32) (imm : BitVec 11) (s : State) : Host.Outcome State Fault Refusal :=
  .next (s.issue u (.brNe u xs1 xs2 imm) fun s =>
    s.branch u xs1 xs2 imm fun a b => a != b)
/-- BR.LT. -/
def execBrLt (u : VUnit) (xs1 xs2 : Fin 32) (imm : BitVec 11) (s : State) : Host.Outcome State Fault Refusal :=
  .next (s.issue u (.brLt u xs1 xs2 imm) fun s =>
    s.branch u xs1 xs2 imm fun a b => a.slt b)
/-- BR.GE. -/
def execBrGe (u : VUnit) (xs1 xs2 : Fin 32) (imm : BitVec 11) (s : State) : Host.Outcome State Fault Refusal :=
  .next (s.issue u (.brGe u xs1 xs2 imm) fun s =>
    s.branch u xs1 xs2 imm fun a b => !a.slt b)
/-- BR.LTU. -/
def execBrLtu (u : VUnit) (xs1 xs2 : Fin 32) (imm : BitVec 11) (s : State) : Host.Outcome State Fault Refusal :=
  .next (s.issue u (.brLtu u xs1 xs2 imm) fun s =>
    s.branch u xs1 xs2 imm fun a b => a.ult b)
/-- BR.GEU. -/
def execBrGeu (u : VUnit) (xs1 xs2 : Fin 32) (imm : BitVec 11) (s : State) : Host.Outcome State Fault Refusal :=
  .next (s.issue u (.brGeu u xs1 xs2 imm) fun s =>
    s.branch u xs1 xs2 imm fun a b => !a.ult b)
/-- JUMP. -/
def execJump (u : VUnit) (imm : BitVec 21) (s : State) : Host.Outcome State Fault Refusal :=
  .next (s.issue u (.jump u imm) fun s =>
    s.instr u (majFn 0x06 (imm.toNat / 32768)) fun s p => .jump s p (p.pc + 4 * imm.signExtend 64))
/-- CALL: the return address goes to x31. -/
def execCall (u : VUnit) (imm : BitVec 21) (s : State) : Host.Outcome State Fault Refusal :=
  .next (s.issue u (.call u imm) fun s =>
    s.instr u (majFn 0x06 (imm.toNat / 32768)) fun s p =>
    .jump s (p.setX 31 (p.pc + 4)) (p.pc + 4 * imm.signExtend 64))
/-- JUMPR. -/
def execJumpr (u : VUnit) (xs1 : Fin 32) (imm : BitVec 11) (s : State) : Host.Outcome State Fault Refusal :=
  .next (s.issue u (.jumpr u xs1 imm) fun s =>
    s.jumpReg u xs1 imm false)
/-- CALLR: the return address goes to x31. -/
def execCallr (u : VUnit) (xs1 : Fin 32) (imm : BitVec 11) (s : State) : Host.Outcome State Fault Refusal :=
  .next (s.issue u (.callr u xs1 imm) fun s =>
    s.jumpReg u xs1 imm true)

/-! ## Floating point (R176 to R178, R76) -/

/-- The format that SUB selects: binary64, or binary32 in bits [31:0]. -/
def scalarFmt (single : Bool) : Fmt := if single then .b32 else .b64

/-- The bits of an f register that a format uses, and its value. -/
def Prog.fbits (p : Prog) (single : Bool) (i : Nat) : Nat := (p.fr i).toNat % 2 ^ (scalarFmt single).width
def Prog.fval (p : Prog) (single : Bool) (i : Nat) : Num := decodeNum (scalarFmt single) (p.fbits single i)

/-- A floating-point instruction: the exact result of fs1, fs2 and fd, rounded once under RNE to fd. -/
def State.fpu (s : State) (u : VUnit) (fn : Nat) (fd fs1 fs2 : Fin 32) (single : Bool) (f : Num → Num → Num → Num) :
    State :=
  s.instr u (majFn 0x07 fn) fun s p =>
    .done s (p.setF fd (BitVec.ofNat 64 (encRne (scalarFmt single)
      (f (p.fval single fs1) (p.fval single fs2) (p.fval single fd)))))

/-- A floating-point compare to xd. -/
def State.fcmp (s : State) (u : VUnit) (fn : Nat) (xd fs1 fs2 : Fin 32) (single : Bool) (f : Num → Num → Bool) : State :=
  s.instr u (majFn 0x07 fn) fun s p => .done s (p.setX xd (b64 (f (p.fval single fs1) (p.fval single fs2))))

/-- A sign-copying instruction: the bits of fs1 with the sign of fs2, or its inverse. -/
def State.fsign (s : State) (u : VUnit) (fn : Nat) (fd fs1 fs2 : Fin 32) (single inv : Bool) : State :=
  s.instr u (majFn 0x07 fn) fun s p =>
    let h := 2 ^ ((scalarFmt single).width - 1)
    let g := p.fbits single fs2 / h
    .done s (p.setF fd (BitVec.ofNat 64 (p.fbits single fs1 % h + (if inv then 1 - g else g) * h)))

/-- A value converted to a signed 64-bit integer by RTZ, saturating; NaN gives 2^63 − 1 (R178). -/
def toI64 : Num → Int
  | .nan => 2 ^ 63 - 1
  | .inf s => if s then -(2 ^ 63) else 2 ^ 63 - 1
  | .fin m e =>
    let v : Int := if 0 ≤ e then m * 2 ^ e.toNat else m.tdiv (2 ^ (-e).toNat)
    max (-(2 ^ 63)) (min (2 ^ 63 - 1) v)

/-- FADD. -/
def execFadd (u : VUnit) (fd fs1 fs2 : Fin 32) (single : Bool) (s : State) : Host.Outcome State Fault Refusal :=
  .next (s.issue u (.fadd u fd fs1 fs2 single) fun s =>
    s.fpu u 0x00 fd fs1 fs2 single fun x y _ => x.add y)
/-- FSUB: fs1 less fs2. -/
def execFsub (u : VUnit) (fd fs1 fs2 : Fin 32) (single : Bool) (s : State) : Host.Outcome State Fault Refusal :=
  .next (s.issue u (.fsub u fd fs1 fs2 single) fun s =>
    s.fpu u 0x01 fd fs1 fs2 single fun x y _ => x.sub y)
/-- FMUL. -/
def execFmul (u : VUnit) (fd fs1 fs2 : Fin 32) (single : Bool) (s : State) : Host.Outcome State Fault Refusal :=
  .next (s.issue u (.fmul u fd fs1 fs2 single) fun s =>
    s.fpu u 0x02 fd fs1 fs2 single fun x y _ => x.mul y)
/-- FDIV: fs1 by fs2. -/
def execFdiv (u : VUnit) (fd fs1 fs2 : Fin 32) (single : Bool) (s : State) : Host.Outcome State Fault Refusal :=
  .next (s.issue u (.fdiv u fd fs1 fs2 single) fun s =>
    s.fpu u 0x03 fd fs1 fs2 single fun x y _ => x.div y)
/-- FMIN (R81). -/
def execFmin (u : VUnit) (fd fs1 fs2 : Fin 32) (single : Bool) (s : State) : Host.Outcome State Fault Refusal :=
  .next (s.issue u (.fmin u fd fs1 fs2 single) fun s =>
    s.fpu u 0x05 fd fs1 fs2 single fun x y _ => x.min y)
/-- FMAX (R81). -/
def execFmax (u : VUnit) (fd fs1 fs2 : Fin 32) (single : Bool) (s : State) : Host.Outcome State Fault Refusal :=
  .next (s.issue u (.fmax u fd fs1 fs2 single) fun s =>
    s.fpu u 0x06 fd fs1 fs2 single fun x y _ => x.max y)
/-- FMA: fs1 × fs2 + fd. -/
def execFma (u : VUnit) (fd fs1 fs2 : Fin 32) (single : Bool) (s : State) : Host.Outcome State Fault Refusal :=
  .next (s.issue u (.fma u fd fs1 fs2 single) fun s =>
    s.fpu u 0x07 fd fs1 fs2 single fun x y d => x.fma y d)
/-- FNMA: −(fs1 × fs2) + fd. -/
def execFnma (u : VUnit) (fd fs1 fs2 : Fin 32) (single : Bool) (s : State) : Host.Outcome State Fault Refusal :=
  .next (s.issue u (.fnma u fd fs1 fs2 single) fun s =>
    s.fpu u 0x08 fd fs1 fs2 single fun x y d => (x.mul y).neg.add d)
/-- FSQRT. -/
def execFsqrt (u : VUnit) (fd fs1 : Fin 32) (single : Bool) (s : State) : Host.Outcome State Fault Refusal :=
  .next (s.issue u (.fsqrt u fd fs1 single) fun s =>
    s.fpu u 0x04 fd fs1 fs1 single fun x _ _ => x.sqrt)
/-- FCOPYS: the sign of fs2 onto fs1 (log entry 16). -/
def execFcopys (u : VUnit) (fd fs1 fs2 : Fin 32) (single : Bool) (s : State) : Host.Outcome State Fault Refusal :=
  .next (s.issue u (.fcopys u fd fs1 fs2 single) fun s =>
    s.fsign u 0x09 fd fs1 fs2 single false)
/-- FCOPYSN. -/
def execFcopysn (u : VUnit) (fd fs1 fs2 : Fin 32) (single : Bool) (s : State) : Host.Outcome State Fault Refusal :=
  .next (s.issue u (.fcopysn u fd fs1 fs2 single) fun s =>
    s.fsign u 0x0A fd fs1 fs2 single true)
/-- FCMP.EQ. -/
def execFcmpEq (u : VUnit) (xd fs1 fs2 : Fin 32) (single : Bool) (s : State) : Host.Outcome State Fault Refusal :=
  .next (s.issue u (.fcmpEq u xd fs1 fs2 single) fun s =>
    s.fcmp u 0x0B xd fs1 fs2 single fun x y => x.eq y)
/-- FCMP.LT. -/
def execFcmpLt (u : VUnit) (xd fs1 fs2 : Fin 32) (single : Bool) (s : State) : Host.Outcome State Fault Refusal :=
  .next (s.issue u (.fcmpLt u xd fs1 fs2 single) fun s =>
    s.fcmp u 0x0C xd fs1 fs2 single fun x y => x.lt y)
/-- FCMP.LE. -/
def execFcmpLe (u : VUnit) (xd fs1 fs2 : Fin 32) (single : Bool) (s : State) : Host.Outcome State Fault Refusal :=
  .next (s.issue u (.fcmpLe u xd fs1 fs2 single) fun s =>
    s.fcmp u 0x0D xd fs1 fs2 single fun x y => x.le y)
/-- FCONV.F.I: a signed integer to floating point. -/
def execFconvFI (u : VUnit) (fd xs1 : Fin 32) (single : Bool) (s : State) : Host.Outcome State Fault Refusal :=
  .next (s.issue u (.fconvFI u fd xs1 single) fun s =>
    s.instr u (majFn 0x07 0x0E) fun s p =>
    .done s (p.setF fd (BitVec.ofNat 64 (encRne (scalarFmt single) (.fin (p.xr xs1).toInt 0)))))
/-- FCONV.I.F. -/
def execFconvIF (u : VUnit) (xd fs1 : Fin 32) (single : Bool) (s : State) : Host.Outcome State Fault Refusal :=
  .next (s.issue u (.fconvIF u xd fs1 single) fun s =>
    s.instr u (majFn 0x07 0x0F) fun s p =>
    .done s (p.setX xd (BitVec.ofInt 64 (toI64 (p.fval single fs1)))))
/-- FCONV.F.F: SUB names the destination, the source is the other format (log entry 16). -/
def execFconvFF (u : VUnit) (fd fs1 : Fin 32) (single : Bool) (s : State) : Host.Outcome State Fault Refusal :=
  .next (s.issue u (.fconvFF u fd fs1 single) fun s =>
    s.instr u (majFn 0x07 0x10) fun s p =>
    .done s (p.setF fd (BitVec.ofNat 64 (encRne (scalarFmt single) (p.fval (!single) fs1)))))
/-- FMOV.I.F: the bits of the selected format. -/
def execFmovIF (u : VUnit) (xd fs1 : Fin 32) (single : Bool) (s : State) : Host.Outcome State Fault Refusal :=
  .next (s.issue u (.fmovIF u xd fs1 single) fun s =>
    s.instr u (majFn 0x07 0x11) fun s p => .done s (p.setX xd (BitVec.ofNat 64 (p.fbits single fs1))))
/-- FMOV.F.I. -/
def execFmovFI (u : VUnit) (fd xs1 : Fin 32) (single : Bool) (s : State) : Host.Outcome State Fault Refusal :=
  .next (s.issue u (.fmovFI u fd xs1 single) fun s =>
    s.instr u (majFn 0x07 0x12) fun s p =>
    .done s (p.setF fd (BitVec.ofNat 64 ((p.xr xs1).toNat % 2 ^ (scalarFmt single).width))))

/-! ## Atomics, fences and sync counters (R111, R139, R178, R283) -/

/-- ATM.ADD. -/
def execAtmAdd (u : VUnit) (xd xs1 xs2 : Fin 32) (s : State) : Host.Outcome State Fault Refusal :=
  .next (s.issue u (.atmAdd u xd xs1 xs2) fun s =>
    s.atomInstr u 0 0 xd xs1 (fun p old => old + (p.xr xs2).toNat) (fun p => (p.xr xs2).toNat) (fun _ => 0))
/-- ATM.SWAP. -/
def execAtmSwap (u : VUnit) (xd xs1 xs2 : Fin 32) (s : State) : Host.Outcome State Fault Refusal :=
  .next (s.issue u (.atmSwap u xd xs1 xs2) fun s =>
    s.atomInstr u 1 2 xd xs1 (fun p _ => (p.xr xs2).toNat) (fun p => (p.xr xs2).toNat) (fun _ => 0))
/-- ATM.MAX, signed. -/
def execAtmMax (u : VUnit) (xd xs1 xs2 : Fin 32) (s : State) : Host.Outcome State Fault Refusal :=
  .next (s.issue u (.atmMax u xd xs1 xs2) fun s =>
    s.atomInstr u 2 3 xd xs1 (fun p old => sMax 64 old (p.xr xs2).toNat) (fun p => (p.xr xs2).toNat) (fun _ => 0))
/-- ATM.MIN, signed. -/
def execAtmMin (u : VUnit) (xd xs1 xs2 : Fin 32) (s : State) : Host.Outcome State Fault Refusal :=
  .next (s.issue u (.atmMin u xd xs1 xs2) fun s =>
    s.atomInstr u 3 5 xd xs1 (fun p old => sMin 64 old (p.xr xs2).toNat) (fun p => (p.xr xs2).toNat) (fun _ => 0))
/-- ATM.CAS: compares the old value with xd and writes xs2 where they are equal. -/
def execAtmCas (u : VUnit) (xd xs1 xs2 : Fin 32) (s : State) : Host.Outcome State Fault Refusal :=
  .next (s.issue u (.atmCas u xd xs1 xs2) fun s =>
    s.atomInstr u 4 7 xd xs1 (fun p old => if old = (p.xr xd).toNat then (p.xr xs2).toNat else old)
    (fun p => (p.xr xs2).toNat) (fun p => (p.xr xd).toNat))
/-- FENCE (R178). -/
def execFence (u : VUnit) (s : State) : Host.Outcome State Fault Refusal :=
  .next (s.issue u (.fence u) fun s =>
    s.instr u (majFn 0x08 0x05) fun s p => fenceRes (progReq u) s p)

/-- The sync counter that a register names; a number beyond 255 names none that the spec states, a free one (log
entry 12). -/
def ctrOf (x : W64) : Nat := if x.toNat < 256 then x.toNat else (Config.counterOf x).toNat

/-- WAITSC (R178): waits until the counter reaches the count. A program on a tile never waits on a sync counter (R156). -/
def execWaitsc (u : VUnit) (xs1 xs2 : Fin 32) (s : State) : Host.Outcome State Fault Refusal :=
  .next (s.issue u (.waitsc u xs1 xs2) fun s =>
    s.instr u (majFn 0x08 0x06) fun s p =>
    let id := ctrOf (p.xr xs1)
    let n := (p.xr xs2).toNat
    match u with
    | .tile _ => .done s p
    | .core _ => if s.waitMet id n then .done s p else .hold s { p with wait := .waitsc id n })

/-- SIGSC (R178): the counter is incremented once every earlier store of the program is performed and acknowledged. -/
def execSigsc (u : VUnit) (xs1 : Fin 32) (s : State) : Host.Outcome State Fault Refusal :=
  .next (s.issue u (.sigsc u xs1) fun s =>
    s.instr u (majFn 0x08 0x07) fun s p =>
    let id := ctrOf (p.xr xs1)
    if s.fenceMet (progReq u) p then .done (s.bumpSync id) p else .hold s { p with wait := .sigsc id })

/-- FENCE_COMPLETE (R283): a waiting fence, or the signal of a SIGSC, completes once nothing is outstanding. -/
def execFenceComplete (u : VUnit) (s : State) : Host.Outcome State Fault Refusal :=
  match s.progOf u with
  | none => .next s
  | some p =>
    if p.saved || p.ended.isSome || !s.fenceMet (progReq u) p then .next s else
    match p.wait with
    | .fence => .next (s.resume u p)
    | .sigsc id => .next ((s.bumpSync id).resume u p)
    | _ => .next s

/-! ## Control registers and the end (R179, R181) -/

/-- Has the deadline of the action that launched a program been signalled (R41, R179)? -/
def State.dlineOf (s : State) (act : Nat) : Bool :=
  match s.actOf act with
  | some a => a.signalled
  | none => false

/-- A core control register (Table 7-4). CORE on a tile, and the cycles since the start, are free values (log entries 9,
12). -/
def State.ctrlReg (s : State) (u : VUnit) (p : Prog) (i : Nat) : W64 :=
  match i with
  | 0x000 => match u with
    | .core c => BitVec.ofNat 64 c
    | .tile t => Config.tileCore t
  | 0x001 => s.stitch
  | 0x002 => BitVec.ofNat 64 s.pleatNow
  | 0x003 => b64 (s.dlineOf p.act)
  | 0x010 => Config.clocks p.start s.ft
  | _ => 0

/-- CRRD (R179). -/
def execCrrd (u : VUnit) (xd : Fin 32) (imm : BitVec 11) (s : State) : Host.Outcome State Fault Refusal :=
  .next (s.issue u (.crrd u xd imm) fun s =>
    s.instr u (majFn 0x09 (imm.toNat / 32)) fun s p =>  .done s (p.setX xd (s.ctrlReg u p imm.toNat)))

/-- CRWR (R179): every listed control register is read-only, and any other number is ignored. -/
def execCrwr (u : VUnit) (xs1 : Fin 32) (imm : BitVec 11) (s : State) : Host.Outcome State Fault Refusal :=
  .next (s.issue u (.crwr u xs1 imm) fun s =>
    s.instr u (majFn 0x09 (imm.toNat / 32)) fun s p => .done s p)

/-- END (R181). -/
def execEndp (u : VUnit) (s : State) : Host.Outcome State Fault Refusal :=
  .next (s.issue u (.endp u) fun s =>
    s.instr u (majFn 0x09 0) fun s p => .ends s p 0)

/-- TRAP (R181): ends the program with VP_TRAP; the code goes to the status bytes of the context (log entry 15). -/
def execTrap (u : VUnit) (imm : BitVec 11) (s : State) : Host.Outcome State Fault Refusal :=
  .next (s.issue u (.trap u imm) fun s =>
    s.instr u (majFn 0x09 (imm.toNat / 32)) fun s _ => .fault s 0x36 (natBytes 2 imm.toNat))

end Sys2Proof.Machine
end

