-- ==== Sys2Proof/Machine/Fabric.lean ====
section
/-! DEFINITION. Requests and responses of the fabric (R269, R270, R275, R277 to R287): what the package does with a flit
that has reached it, chunked transfers, quench, and lanes. -/
namespace Sys2Proof.Machine

/-! ## Accepting a flit (R264, R270, R277, R278) -/

/-- The virtual channel of a flit type (Table 11-4); none for reserved types and DRAIN_MARK. -/
def vcOfType : Nat → Option Nat
  | 0x01 | 0x03 | 0x05 => some 1
  | 0x02 | 0x04 | 0x06 | 0x07 | 0x0A | 0x17 => some 2
  | 0x08 | 0x09 => some 6
  | 0x10 => some 3
  | 0x11 | 0x12 | 0x13 | 0x14 | 0x15 => some 4
  | 0x18 | 0x19 => some 5
  | 0x1C | 0x1D => some 7
  | 0x1E | 0x1F => some 0
  | _ => none

/-- Does a flit travel on the VC of its type (R270)? A drain mark travels on the VC of the drained flow. -/
def flitOk (f : Flit) : Bool :=
  if f.typ.toNat = 0x16 then f.vc.toNat == fld f.trailer 0 3 else vcOfType f.typ.toNat == some f.vc.toNat

/-- Does the package accept a flit addressed to it as one of type `typ`? A flit of a reserved type, on a wrong VC, of a
foreign key, or of a key that was stopped is counted and dropped. -/
def State.accept (s : State) (f : Flit) (typ : Nat) : State × Bool :=
  let key := f.pkey.toNat
  if s.node = 0xFFFF ∨ f.dst.toNat ≠ s.node then (s, false)
  else if flitOk f = false ∨ f.typ.toNat ≠ typ then (s.count64 (Reg.fabCnt 2) 1, false)
  else if key ≠ s.regF Reg.fabPkey 0 16 ∧ ¬ (key = 0 ∧ f.vc = 0) then
    ((s.count64 (Reg.fabCnt 3) 1).fabEv 2 (some f.src.toNat) none, false)
  else if s.dropKey = some key ∧ typ ≠ 0x1E ∧ typ ≠ 0x1C ∧ typ ≠ 0x1D then (s.count64 (Reg.fabCnt 4) 1, false)
  else (s, true)

/-- Decode one word at its destination (R269). -/
def State.takeWord (s : State) (w : FWord) : State × Granule × Bool :=
  if w.check = selvedgeCheck w.data then (s, w.data, false)
  else match decodeWord [] w.data w.check with
    | .clean d => (s, d, false)
    | .corrected d _ => (s.count64 (Reg.fabCnt 0) 1, d, false)
    | .poison => (s, w.data, true)
    | .uncorrectable amb =>
      ((if amb then s.count64 (Reg.relCnt 7) 1 else s).count64 (Reg.fabCnt 1) 1, w.data, true)

/-- Decode the words of a flit, in order. -/
def State.takeWords (s : State) (ws : List FWord) : State × List (Granule × Bool) :=
  ws.foldl (fun r w =>
    let q := r.1.takeWord w
    (q.1, r.2 ++ [q.2])) (s, [])

/-- The address in a flit (R269). -/
def flitAddr (f : Flit) : Nat := f.addr.toNat * 32

/-- Answer a request on VC2. -/
def State.respond (s : State) (f : Flit) (typ : Nat) (words : List FWord) (trailer : Nat) : State :=
  s.emit (s.mkFlit f.src.toNat typ 2 true f.tag.toNat f.seq.toNat false false (flitAddr f) words trailer)

/-- The issuer of an access that came from a node, which the model tells apart from the collective engine's channels. -/
def nodeReq (f : Flit) : Req := ⟨8, 65536 + f.src.toNat⟩

/-- A remote access may reach working memory only (R24). -/
def State.remoteTarget (s : State) (a n : Nat) : Option Nat :=
  firstRefused (fun x => s.region x == .working) a n

/-! ## Reads, writes and atomics for other nodes (R270, R280, R282) -/

/-- RD_REQ: the sectors it names, or poison with STATUS ADDR. -/
def State.serveRead (s : State) (f : Flit) : State :=
  let n := fld f.trailer 0 3
  let k := max 1 (min 6 n)
  let a := (flitAddr f)
  let bad := if n ≠ k ∨ 4096 < a % 4096 + 32 * n then some a else s.remoteTarget a (32 * n)
  match bad with
  | some x => (s.addressEvent (nodeReq f) x).respond f 0x02 (List.replicate k (fword 0 true)) 1
  | none => s.respond f 0x02 ((List.range n).map fun i =>
      fword (s.granule (a + 32 * i)) (s.poisoned (a / 32 + i))) 0

/-- A store of the bytes that a mask selects in a sector: one read, merge and write (R251, R255, R368). -/
def State.storeMask (s : State) (a : Nat) (mask : W32) (g : Granule) (poison : Bool) : State :=
  if mask = 0 then s
  else if s.poisoned (a / 32) then s.mergeEvent (a / 32)
  else if poison then s.poisonNow (a / 32 * 32) 32
  else s.storeBytes (a / 32 * 32) (granuleBytes (mergeMask (s.granule a) g mask))

/-- The stores of a WR_REQ: word `i` of one or more, with the byte mask of a single one. -/
def State.storeWords (s : State) (r : Req) (a : Nat) (mask : W32) (ws : List (Granule × Bool)) : State :=
  ws.zipIdx.foldl (fun s w =>
    if mask = BitVec.allOnes 32 then
      (if w.1.2 then s.storePoison r (a + 32 * w.2) 32 else s.store r (a + 32 * w.2) (granuleBytes w.1.1))
    else s.storeMask (a + 32 * w.2) mask w.1.1 w.1.2) s

/-- WR_REQ. -/
def State.serveWrite (s : State) (f : Flit) : State :=
  let q := s.takeWords f.words
  match q.1.remoteTarget (flitAddr f) (32 * f.words.length) with
  | some x => (q.1.addressEvent (nodeReq f) x).respond f 0x04 [] 1
  | none =>
    let mask : W32 := if f.words.length = 1 then f.trailer.truncate 32 else BitVec.allOnes 32
    (q.1.storeWords (nodeReq f) (flitAddr f) mask q.2).respond f 0x04 [] 0

/-- 1 ms in 1/64 ns. -/
def msec : Nat := 64000000

/-- The replies to a source that are no older than 1 ms, and no more than 1,024 (R282). -/
def State.freshReplies (s : State) (src : Nat) : List Reply :=
  let l := (Tbl.get [] s.replies src).filter fun r => decide (s.ft ≤ r.time + msec)
  l.drop (l.length - 1024)

/-- A place for the replies to a source: its own, a free one of the 64, or the one of a source whose replies are all
older than 1 ms and whose newest is oldest. None: BUSY. -/
def State.replyPlace (s : State) (src : Nat) : Option State :=
  if (s.replies.any fun p => p.1 == src) || decide (s.replies.length < 64) then some s
  else
    let newest (p : Nat × List Reply) : Nat := (p.2.getLast?.map fun r => r.time).getD 0
    match s.replies.filter fun p => p.2.all fun r => decide (r.time + msec < s.ft) with
    | [] => none
    | p :: t =>
      let o := t.foldl (fun b x => if newest x < newest b then x else b) p
      some { s with replies := Tbl.set [] s.replies o.1 [] }

/-- The operation of an ATOM_REQ. -/
def flitAtom (f : Flit) (w : Granule) : AtomOp :=
  { op := ⟨fld f.trailer 0 3, Nat.mod_lt _ (by decide)⟩, size := ⟨fld f.trailer 3 2, Nat.mod_lt _ (by decide)⟩,
    off := ⟨fld f.trailer 5 5, Nat.mod_lt _ (by decide)⟩, ffmt := BitVec.ofNat 5 (fld f.trailer 10 5),
    a := BitVec.ofNat 64 w.toNat, b := BitVec.ofNat 64 (w.toNat / 2 ^ 64) }

/-- The answer to an atomic. -/
def State.atomReply (s : State) (f : Flit) (r : Reply) : State :=
  s.respond f 0x06 [fword (BitVec.ofNat 256 r.result.toNat) r.poison] r.status

/-- ATOM_REQ in its turn: performed once and remembered, or refused with BUSY; and whether it was performed. -/
def State.serveAtomic (s : State) (f : Flit) : State × Bool :=
  let src := f.src.toNat
  match s.replyPlace src with
  | none => ((s.count64 (Reg.fabCnt 14) 1).respond f 0x07 [] 2, false)
  | some s1 =>
    let q := s1.takeWords (f.words.take 1)
    let w := q.2.headD (0, true)
    let o := flitAtom f w.1
    let n := 2 ^ o.size.val
    let a := (flitAddr f) + o.off.val
    let old := q.1.num a n
    let r : Reply := match q.1.remoteTarget a n with
      | some _ => { tag := f.tag.toNat, result := 0, poison := true, status := 1, time := s.ft }
      | none => { tag := f.tag.toNat, result := BitVec.ofNat 64 old, poison := q.1.poisonIn a n, status := 0, time := s.ft }
    let s2 := match q.1.remoteTarget a n with
      | some x => q.1.addressEvent (nodeReq f) x
      | none =>
        if w.2 then q.1.storePoison (nodeReq f) a n
        else q.1.store (nodeReq f) a (natBytes n (atomResult o old))
    let l := s2.freshReplies src ++ [r]
    ({ s2 with replies := Tbl.set [] s2.replies src (l.drop (l.length - 1024)) }.atomReply f r, true)

/-- A duplicate atomic: answered from the cache, or STALE (R282). -/
def State.dupAtomic (s : State) (f : Flit) : State :=
  match (s.freshReplies f.src.toNat).find? fun r => r.tag == f.tag.toNat with
  | some r => s.atomReply f r
  | none => (s.count64 (Reg.fabCnt 8) 1).respond f 0x07 [] 1

/-! ## Chunks (R284) -/

/-- Fabric time units of a microsecond. -/
def usec : Nat := 64000

/-- The pieces of 256 bytes of a page that `n` bytes at `a` touch, by number in the page. -/
def pagePieces (a n : Nat) : List Nat :=
  (List.range 16).filter fun k => decide (a % 4096 < 256 * k + 256) && decide (256 * k < a % 4096 + n)

/-- The FAIL bitmap of a list of pieces. -/
def failBits (ks : List Nat) : Nat := ks.foldl (fun m k => m + 2 ^ k) 0

/-- The issuer of the loads of chunks, which are all of the package's own memory. -/
def chunkReq : Req := ⟨8, 131072⟩

/-- The dense word `w` of a chunk as its source sends it: the data and whether it draws on poison. -/
def State.chunkWord (s : State) (c : ChunkTx) (w : Nat) : Granule × Bool :=
  let n := min 32 (c.len - 32 * w)
  match c.fill with
  | some p => (BitVec.ofNat 256 (bytesNat ((List.range n).map fun i =>
      BitVec.ofNat 8 (fld p (8 * ((c.addr + 32 * w + i) % 8)) 8))), false)
  | none =>
    let q := if c.pocket then (s.bytes (c.src + 32 * w) n, s.poisonIn (c.src + 32 * w) n)
      else s.gload chunkReq (c.src + 32 * w) n
    (BitVec.ofNat 256 (bytesNat q.1), q.2 || (pagePieces (c.addr + 32 * w) n).any fun k => c.bad.contains k)

/-- Send the flits of a chunk on a flow of VC `vc` as type `typ` with a SEQ: up to six words each, the CRC-64 of the data in the
last. All flits of a chunk carry the SEQ of their one request (log entry 20). -/
def State.chunkFlits (s : State) (c : ChunkTx) (typ vc seq : Nat) (start : Bool) : State :=
  let n := ceilDiv c.len 32
  let ws := (List.range n).map (s.chunkWord c)
  let data := (ws.flatMap fun w => granuleBytes w.1).take c.len
  let m := ceilDiv n 6
  foldN m s fun s i =>
    let last := i + 1 == m
    s.emit (s.mkFlit c.dst typ vc last c.tag seq start false (c.addr / 32 * 32 + 192 * i)
      (((ws.drop (6 * i)).take 6).map fun w => fword w.1 w.2) (if last then crc64 data else 0))

/-- Send a chunk as DMA_DATA, or the DMA_RD that asks for it, with a SEQ. -/
def State.sendAs (s : State) (c : ChunkTx) (seq : Nat) (start : Bool) : State :=
  if c.read then
    s.emit (s.mkFlit c.dst 0x08 6 true c.tag seq start c.replica (devAddr c.src) [] (c.len - 1 + c.addr * 65536))
  else s.chunkFlits c 0x09 6 seq start

/-- Are two chunks the same one? -/
def sameChunk (c x : ChunkTx) : Bool := x.dst == c.dst && x.tag == c.tag && x.read == c.read && x.seq == c.seq

/-- Send a chunk with the next SEQ of its flow; what is read is read afresh. -/
def State.sendChunk (s : State) (c : ChunkTx) : State :=
  let fl := s.flow c.dst 6
  let s1 := s.setFlow c.dst 6 { fl with next := (fl.next + 1) % 4096, started := true, busyAt := s.ft }
  let l := s1.chunksTx.map fun x => if sameChunk c x then { x with seq := fl.next, since := s.ft } else x
  { s1 with chunksTx := l }.sendAs c fl.next (!fl.started)

/-- The chunks to a node that were sent and not acknowledged. -/
def State.sentChunks (s : State) (dst : Nat) : List ChunkTx :=
  s.chunksTx.filter fun c => c.dst == dst && !s.chunkQ.contains c

/-- Must the source of a chunk wait for lines that are not free (R252, R260, R322)? -/
def State.chunkBusy (s : State) (c : ChunkTx) : Bool :=
  !c.read && c.fill.isNone && s.rangeBusy (devAddr c.src) c.len false

/-- Chunks to a node that wait are sent as far as the limit of their flow and their sources allow; `n` bounds them. -/
def pumpChunks (dst : Nat) : Nat → State → State
  | 0, s => s
  | n + 1, s => match s.chunkQ.find? fun c => c.dst == dst with
    | none => s
    | some c =>
      if 2048 < (s.sentChunks dst).length + 1 ∨ s.chunkBusy c then s.askRange (devAddr c.src) (if c.read then 0 else c.len) false
      else pumpChunks dst n ({ s with chunkQ := s.chunkQ.erase c }.sendChunk c)

/-- A new chunk is outstanding to its node (R283) and is sent once its flow's limit and its source allow (R280). -/
def State.openChunk (s : State) (r : Req) (c : ChunkTx) : State :=
  let s1 := if c.read || c.owner.isSome || c.pocket then s.owes r c.dst (if c.read then 1 else 3)
    else { s with outst := Tbl.set 0 s.outst c.dst (s.outstTo c.dst + 1) }
  pumpChunks c.dst (s1.chunkQ.length + 1) { s1 with chunksTx := s1.chunksTx ++ [c], chunkQ := s1.chunkQ ++ [c] }

/-- The next tag to a node. -/
def State.takeTag (s : State) (dst : Nat) : Nat × State :=
  let t := Tbl.get 0 s.nextTag dst
  (t, { s with nextTag := Tbl.set 0 s.nextTag dst ((t + 1) % 65536) })

/-- The device address that the pieces of a DMA count from: its DST rounded down to 256 bytes (R335). -/
def dmaBase (body : List Byte) : Nat := devAddr (bytesNat ((body.drop 24).take 8)) / 256 * 256

/-- What a chunk that is over leaves to the DMA or the drain it belongs to: its failed pieces. -/
def State.chunkOwner (s : State) (c : ChunkTx) (failed : List Nat) : State :=
  match c.owner with
  | none =>
    if c.pocket then { s with xfer := s.xfer.map fun x => { x with left := x.left - 1, failed := x.failed + failed.length } }
    else s
  | some id => match Tbl.get none s.dmas id with
    | none => s
    | some d =>
      let ks := failed.map fun k => (c.addr / 4096 * 4096 + 256 * k - dmaBase d.body) / 256
      let d1 := { d with failed := d.failed ++ ks.filter (fun k => !d.failed.contains k), chunks := d.chunks - 1 }
      { s with dmas := Tbl.set none s.dmas id (some d1) }

/-- A chunk is over: it is no longer outstanding, its failed pieces belong to its DMA, and one that waits may be sent. -/
def State.chunkOver (s : State) (c : ChunkTx) (failed : List Nat) : State :=
  let s1 := ({ s with chunksTx := s.chunksTx.filter fun x => !sameChunk c x }.settled c.dst 6).chunkOwner c failed
  pumpChunks c.dst s1.chunkQ.length s1

/-- The offset in its first sector, at `a`, at which a chunk begins that its flits name by the sector alone (log entry 20): of
`n` bytes in one page. -/
def chunkStart (f : Flit) (a n : Nat) : Nat :=
  min (Config.chunkOffset f.typ.toNat f.src.toNat f.tag.toNat).toNat (4096 - n - a % 4096)

/-- DMA_RD in its turn: the chunk is sent to the return address. -/
def State.serveDmaRd (s : State) (f : Flit) : State :=
  let n := fld f.trailer 0 12 + 1
  let a := flitAddr f + chunkStart f (flitAddr f) n
  let c : ChunkTx := { dst := f.src.toNat, tag := f.tag.toNat, read := false, src := s.node * 2 ^ 48 + a,
                       addr := fld f.trailer 16 48, len := n, owner := none, fill := none, bad := [],
                       pocket := false, replica := false, seq := 0, since := 0 }
  (s.loadEvent (nodeReq f) a n).openChunk (nodeReq f) c

/-- A duplicate DMA_RD: its chunk is sent again, where it is still outstanding. -/
def State.dupDmaRd (s : State) (f : Flit) : State :=
  match (s.sentChunks f.src.toNat).find? fun c => !c.read && c.owner.isNone && !c.pocket && c.tag == f.tag.toNat with
  | some c => s.sendAs c c.seq false
  | none => s

/-- A piece of a chunk that arrived: its words are stored where the destination accepts them. -/
def State.storeChunk (s : State) (r : Req) (pocket : Bool) (a len : Nat) (ws : List (Granule × Bool)) : State :=
  ws.zipIdx.foldl (fun s w =>
    let n := min 32 (len - 32 * w.2)
    if pocket then
      (if w.1.2 then s.poisonBytes (a + 32 * w.2) n else s.storeBytes (a + 32 * w.2) ((granuleBytes w.1.1).take n)) else
    let ga := 0xFFFF * 2 ^ 48 + a + 32 * w.2
    if n = 0 ∨ (firstRefused s.accessible (a + 32 * w.2) n).isSome then s
    else s.gstore r ga ((granuleBytes w.1.1).take n) w.1.2) s

/-- The address event of a chunk whose pieces are refused: one, with the first refused address (R23). -/
def State.chunkEvent (s : State) (r : Req) (ok : Nat → Bool) (a n : Nat) : State :=
  match firstRefused ok a n with
  | some x => s.addressEvent r x
  | none => s

/-- Answer a chunk with DMA_ACK. -/
def State.ackChunk (s : State) (f : Flit) (ack status : Nat) (failed : List Nat) : State :=
  s.respond f ack [] (failBits failed + status * 65536)

/-- The DMA_RD of the package that a chunk answers. -/
def State.ownRead (s : State) (src tag : Nat) : Option ChunkTx :=
  s.chunksTx.find? fun t => t.read && t.dst == src && t.tag == tag

/-- How many of the bytes of a pushed chunk its CRC covers: all but the end of its last word; none where it holds for none. -/
def chunkLen (data : List Byte) (crc : Nat) : Option Nat :=
  ((List.range 32).map fun k => data.length - k).find? fun n => crc64 (data.take n) == crc

/-- The LAST flit of a chunk has arrived: its CRC decides (R284). -/
def State.endChunk (s : State) (f : Flit) (c : ChunkRx) (ack : Nat) : State :=
  let own := s.ownRead c.src c.tag
  let q := { s with chunksRx := s.chunksRx.erase c }.takeWords c.words
  let data := q.2.flatMap fun w => granuleBytes w.1
  let len : Option Nat := match own with
    | some t => if crc64 (data.take t.len) = f.trailer.toNat then some t.len else none
    | none => chunkLen data f.trailer.toNat
  let n := match own with
    | some t => t.len
    | none => len.getD (32 * c.words.length)
  let a := match own with
    | some t => t.addr
    | none => c.addr + (if len.isSome then chunkStart f c.addr n else 0)
  let r : Req := match own with
    | some t => match t.owner with
      | some id => dmaReq id
      | none => ⟨0, 0⟩
    | none => nodeReq f
  let pocket := match own with
    | some t => t.pocket
    | none => false
  let settle (bad : List Nat) (s : State) : State := match own with
    | some t => s.chunkOver t bad
    | none => s
  if len.isSome then
    let ok (x : Nat) : Bool :=
      if pocket then s.pocketAccessible x else if own.isSome then s.accessible x else s.region x == .working
    let refused := (pagePieces a n).filter fun k =>
      let lo := max a (a / 4096 * 4096 + 256 * k)
      (firstRefused ok lo (min (a + n) (a / 4096 * 4096 + 256 * k + 256) - lo)).isSome
    let s1 := if own.isSome then q.1 else q.1.chunkEvent r ok a n
    settle refused ((s1.storeChunk r pocket a n q.2).ackChunk f ack (if refused = [] then 0 else 2) refused)
  else if c.retried then
    settle (pagePieces a n) (((q.1.storeChunk r pocket a n (q.2.map fun w => (w.1, true))).fabEv 10 c.src a).ackChunk f ack 2
      (pagePieces a n))
  else ({ q.1 with chunksRx := q.1.chunksRx ++ [{ c with words := [], retried := true }] }).ackChunk f ack 1 []

/-- One flit of a chunk joins what has arrived of it; the first flit of a chunk that is sent again begins it anew. -/
def State.collectFlit (s : State) (f : Flit) : State × ChunkRx :=
  let old := s.chunksRx.find? fun c => c.src == f.src.toNat && c.tag == f.tag.toNat && c.typ == f.typ.toNat
  let c : ChunkRx := match old with
    | some c => c
    | none => ⟨f.src.toNat, f.tag.toNat, f.typ.toNat, flitAddr f, [], false⟩
  let c1 := { c with words := if flitAddr f = c.addr then f.words else c.words ++ f.words }
  let rest := match old with
    | some c => s.chunksRx.erase c
    | none => s.chunksRx
  ({ s with chunksRx := rest ++ [c1] }, c1)

/-- Is there a chunk buffer for a flit's chunk: one it has already, or one of the 256 (R284)? -/
def State.chunkRoom (s : State) (f : Flit) : Bool :=
  (s.chunksRx.any fun c => c.src == f.src.toNat && c.tag == f.tag.toNat && c.typ == f.typ.toNat) ||
    decide (s.chunksRx.length < 256)

/-- One flit of a chunk (R284). -/
def State.chunkFlit (s : State) (f : Flit) (ack : Nat) : State :=
  let q := s.collectFlit f
  if f.last then q.1.endChunk f q.2 ack else q.1

/-! ## Order within a flow (R280) -/

/-- The memory of the package that a request touches when it is performed: its first address, its length, and whether it is
written. A chunk touches memory with its LAST flit. -/
def State.flitSpan (s : State) (f : Flit) : Nat × Nat × Bool :=
  match f.typ.toNat with
  | 0x01 => (flitAddr f, 32 * fld f.trailer 0 3, false)
  | 0x03 => (flitAddr f, 32 * f.words.length, true)
  | 0x05 => (flitAddr f, 32, true)
  | 0x08 => (flitAddr f, fld f.trailer 0 12 + 33, false)
  | _ =>
    if f.last = false then (flitAddr f, 0, false)
    else match s.ownRead f.src.toNat f.tag.toNat with
      | some t => (t.addr, t.len, true)
      | none => (flitAddr f / 4096 * 4096, min 4096 (flitAddr f % 4096 + 32 * f.words.length + 32), true)

/-- Must a request whose turn it is wait: for a line that is not free (R252, R260, R322), or for a chunk buffer (R284)? -/
def State.mustWait (s : State) (f : Flit) : Bool :=
  let p := s.flitSpan f
  s.rangeBusy p.1 p.2.1 p.2.2 || (f.typ == 0x09 && !s.chunkRoom f)

/-- Perform a request whose turn it is; and whether the flow goes on. -/
def State.serve (s : State) (f : Flit) : State × Bool :=
  match f.typ.toNat with
  | 0x01 => (s.serveRead f, true)
  | 0x03 => (s.serveWrite f, true)
  | 0x05 => s.serveAtomic f
  | 0x08 => (s.serveDmaRd f, true)
  | _ => (s.chunkFlit f 0x0A, f.last)

/-- A duplicate: not performed again. -/
def State.serveDup (s : State) (f : Flit) : State :=
  match f.typ.toNat with
  | 0x01 => s.serveRead f
  | 0x03 => s.respond f 0x04 [] 0
  | 0x05 => s.dupAtomic f
  | 0x08 => s.dupDmaRd f
  | _ => if f.last then s.ackChunk f 0x0A 0 [] else s

/-- The receiving side of a flow, by its key: source × 8 + VC. -/
def flowKey (f : Flit) : Nat := f.src.toNat * 8 + f.vc.toNat
def State.rxFlow (s : State) (k : Nat) : FlowRx := Tbl.get FlowRx.init s.rxFlows k

/-- The received flows with room for one more: 4,096 on a VC are kept, and the one that was quiet longest makes room (R280; log
entry 21). -/
def State.roomFlow (s : State) (k : Nat) : Tbl FlowRx :=
  match s.rxFlows.filter fun e => e.1 % 8 == k % 8 with
  | [] => s.rxFlows
  | e :: l =>
    if (s.rxFlows.any fun e => e.1 == k) || decide (l.length + 1 < 4096) then s.rxFlows
    else
      let o := l.foldl (fun b x => if x.2.last < b.2.last then x else b) e
      s.rxFlows.filter fun x => x.1 != o.1

def State.setRxFlow (s : State) (k : Nat) (r : FlowRx) : State :=
  { s with rxFlows := Tbl.set FlowRx.init (s.roomFlow k) k r }

/-- The flow goes past the request it has performed. -/
def State.passRx (s : State) (k : Nat) : State :=
  s.setRxFlow k { s.rxFlow k with expected := ((s.rxFlow k).expected + 1) % 4096 }

/-- Perform the requests of a flow whose turn has come, in order; one that must wait stays, and what is behind it; `n` bounds
them. -/
def serveWaiting (k : Nat) : Nat → State → State
  | 0, s => s
  | n + 1, s =>
    let r := s.rxFlow k
    match r.waiting.find? fun g => g.seq.toNat == r.expected with
    | none => s
    | some g =>
      if s.mustWait g then s.askRange (s.flitSpan g).1 (s.flitSpan g).2.1 (s.flitSpan g).2.2
      else
        let q := (s.setRxFlow k { r with waiting := r.waiting.erase g }).serve g
        serveWaiting k n (if q.2 then q.1.passRx k else q.1)

/-- What waited in the flows, and the chunks that waited to be sent, go on as far as they can. -/
def State.serveAll (s : State) : State :=
  let s1 := s.rxFlows.foldl (fun s e => serveWaiting e.1 e.2.waiting.length s) s
  (s1.chunkQ.map fun c => c.dst).eraseDups.foldl (fun s d => pumpChunks d s.chunkQ.length s) s1

/-- A request arrives on its flow: it is performed in its turn, held until then, or recognised as a duplicate. A FLOW_START starts
the flow again where none of its requests arrived for 1 ms (log entry 21). -/
def State.arriveRequest (s : State) (f : Flit) : State :=
  let k := flowKey f
  let r0 := s.rxFlow k
  let r := if f.start ∧ (r0.last = 0 ∨ r0.last + msec ≤ s.ft) then { expected := f.seq.toNat, waiting := [], last := s.ft }
    else { r0 with last := s.ft }
  let d := (f.seq.toNat + 4096 - r.expected) % 4096
  if d < 2048 then
    let l := if r.waiting.contains f then r.waiting else r.waiting ++ [f]
    serveWaiting k l.length (s.setRxFlow k { r with waiting := l })
  else ((s.setRxFlow k r).count64 (Reg.fabCnt 7) 1).serveDup f

/-- A request flit of a type, accepted and taken in its flow's order. -/
def State.requestFlit (s : State) (f : Flit) (typ : Nat) : State :=
  let q := s.accept f typ
  if q.2 then q.1.arriveRequest f else q.1

/-- RD_REQ (R280). -/
def execRdReq (f : Flit) (s : State) : Host.Outcome State Fault Refusal := .next (s.requestFlit f 0x01)
/-- WR_REQ (R280). -/
def execWrReq (f : Flit) (s : State) : Host.Outcome State Fault Refusal := .next (s.requestFlit f 0x03)
/-- ATOM_REQ (R282). -/
def execAtomReq (f : Flit) (s : State) : Host.Outcome State Fault Refusal := .next (s.requestFlit f 0x05)
/-- DMA_RD (R284). -/
def execDmaRd (f : Flit) (s : State) : Host.Outcome State Fault Refusal := .next (s.requestFlit f 0x08)
/-- DMA_DATA (R284): a chunk that ends frees its buffer for one that waits. -/
def execDmaData (f : Flit) (s : State) : Host.Outcome State Fault Refusal := .next (s.requestFlit f 0x09).serveAll

/-! ## Responses (R270, R281 to R284) -/

/-- The outstanding request that a response answers. -/
def State.answered (s : State) (f : Flit) (typ : Nat) : Option OutReq :=
  s.reqs.find? fun q => q.dst == f.src.toNat && q.flit.tag == f.tag && q.flit.typ.toNat == typ

/-- The global address a request names. -/
def OutReq.global (q : OutReq) : Nat := q.dst * 2 ^ 48 + flitAddr q.flit

/-- A request has its response: it is no longer outstanding, what waited for its flow's limits is issued, and what waited for it
may go on. -/
def State.retire (s : State) (q : OutReq) : State :=
  let s1 := { s with reqs := s.reqs.erase q }.settled q.dst q.vc
  (pumpReqs q.dst s1.reqQ.length s1).settleCores

/-- Does request `q` serve an access: a read of its sector, or an atomic that waits for its old value? Of the atomics of one unit
at one address with one operation the last issued is the one that is waited for. -/
def State.serves (s : State) (q : OutReq) (e : Access) : Bool :=
  e.req == q.req && e.sent && e.data.isNone && e.addr == q.global && (match e.kind with
    | .read _ => q.flit.typ == 0x01
    | .atomic t _ _ => q.flit.typ == 0x05 && q.flit.trailer.toNat == t &&
        ((s.reqs.filter fun x => x.req == q.req && x.flit.typ == 0x05 && x.global == q.global &&
          x.flit.trailer == q.flit.trailer).getLast?.map fun x => x.seq) == some q.seq
    | .own _ => false)

/-- What came back for a request reaches the accesses it serves (R137, R178, R270). -/
def State.fill (s : State) (q : OutReq) (g : Granule) (poison : Bool) : State :=
  { s with accesses := s.accesses.map fun e => if s.serves q e then { e with data := some (g, poison) } else e }

/-- A response to a request of type `typ`: its words are decoded and delivered; with STATUS ADDR the data is poison. -/
def State.response (s : State) (f : Flit) (rsp typ : Nat) : State :=
  let a := s.accept f rsp
  if a.2 = false then a.1
  else match a.1.answered f typ with
    | none => a.1
    | some q =>
      let w := a.1.takeWords f.words
      let d := w.2.headD (0, true)
      let bad := d.2 || fld f.trailer 0 8 != 0
      if typ = 3 then w.1.retire q else ((w.1.fill q d.1 bad).retire q).answer (granuleBytes d.1) bad

/-- RD_RSP (R270). -/
def execRdRsp (f : Flit) (s : State) : Host.Outcome State Fault Refusal := .next (s.response f 0x02 0x01)
/-- WR_ACK (R283). -/
def execWrAck (f : Flit) (s : State) : Host.Outcome State Fault Refusal := .next (s.response f 0x04 0x03)
/-- ATOM_RSP (R270). -/
def execAtomRsp (f : Flit) (s : State) : Host.Outcome State Fault Refusal := .next (s.response f 0x06 0x05)

/-- The unit of an issuer that runs programs. -/
def reqUnit (r : Req) : Option VUnit :=
  if h : r.blk = 0x0C ∧ r.unit < 256 then some (.tile ⟨r.unit, h.2⟩)
  else if h : r.blk = 0x10 ∧ r.unit < 256 then some (.core ⟨r.unit, h.2⟩)
  else none

/-- MAJ ‖ FN[5:4] of the instruction a program waits at; one that waits for nothing has gone on from a scatter-add (log entry
86). -/
def Prog.waitsAt (p : Prog) : Nat := match p.wait with
  | .remote mf => mf
  | _ => 0

/-- A tile's program has ended and its task waits for what it wrote: a status other than OK is now known. -/
def State.failTask (s : State) (u : VUnit) (st : Nat) : State :=
  match u with
  | .core _ => s
  | .tile t => match s.runOf t with
    | some rt =>
      if !rt.prog && rt.status == 0 && (tdescOf rt.ref.body).kind == 5 then s.setRun t (some { rt with status := st }) else s
    | none => s

/-- The program that issued a request ends with a status (R151, R281, R282): at the instruction that waits; one that has ended
and waits for what it wrote has that status instead of OK. -/
def State.failIssuer (s : State) (r : Req) (st : Nat) : State :=
  match reqUnit r with
  | none => s
  | some u => match s.progOf u with
    | none => s.failTask u st
    | some p => match p.ended with
      | none => s.progFault u p st p.waitsAt []
      | some x => if x = 0 then s.setProg u (some { p with ended := some st }) else s

/-- NACK (R282): STALE ends the issuing program; BUSY is as if the response were lost. -/
def execNack (f : Flit) (s : State) : Host.Outcome State Fault Refusal :=
  let a := s.accept f 0x07
  if a.2 = false ∨ fld f.trailer 0 8 ≠ 1 then .next a.1
  else match a.1.answered f 0x05 with
    | none => .next a.1
    | some q =>
      let s1 := (a.1.setReg Reg.fabLastErr (BitVec.ofNat 64 q.global)).fabEv 1 q.dst q.global
      .next ((s1.failIssuer q.req 0x34).retire q)

/-- DMA_ACK (R284): OK, RESEND or PARTIAL. -/
def State.dmaAck (s : State) (f : Flit) : State :=
  match (s.sentChunks f.src.toNat).find? fun c => !c.read && c.tag == f.tag.toNat && c.seq == f.seq.toNat with
  | none => s
  | some c =>
    if fld f.trailer 16 8 = 1 then (s.count64 (Reg.fabCnt 12) 1).sendChunk c
    else
      let bits := if fld f.trailer 16 8 = 2 then (List.range 16).filter fun k => bit f.trailer k else []
      (s.chunkOver c bits).settleCores

/-- The unacknowledged request of a flow with a SEQ; VC1 carries them (R281). -/
def State.openRequest (s : State) (dst seq : Nat) : Option OutReq :=
  s.reqs.find? fun q => q.dst == dst && q.vc == 1 && q.seq == seq

/-- REQUEST_REISSUE (R281): FAB_REISSUE after it was last issued, the same request, on the flow's path of now. -/
def execRequestReissue (dst : BitVec 16) (seq : BitVec 12) (s : State) : Host.Outcome State Fault Refusal :=
  match s.openRequest dst.toNat seq.toNat with
  | none => .next s
  | some q =>
    if s.ft < q.last + usec * s.regF Reg.fabReissue 0 16 then .next s
    else
      let s1 := { s with reqs := s.reqs.map fun x => if x = q then { x with last := s.ft } else x }
      .next ((s1.count64 (Reg.fabCnt 6) 1).emit q.flit)

/-- A remote request or chunk timed out: REMOTE_TIMEOUT with its address. -/
def State.remoteTimeout (s : State) (dst ga : Nat) : State :=
  ((s.count64 (Reg.fabCnt 9) 1).setReg Reg.fabLastErr (BitVec.ofNat 64 ga)).fabEv 0 dst ga

/-- FAB_LOAD_TIMEOUT in fabric time units. -/
def State.loadTimeout (s : State) : Nat := usec * s.regF Reg.fabLoadTimeout 0 16

/-- REQUEST_TIMEOUT (R281), FAB_LOAD_TIMEOUT after the request was first issued: the program that waits for a load or an atomic
ends; another reader takes poison; a write stays outstanding. -/
def execRequestTimeout (dst : BitVec 16) (seq : BitVec 12) (s : State) : Host.Outcome State Fault Refusal :=
  match s.openRequest dst.toNat seq.toNat with
  | none => .next s
  | some q =>
    if q.timedOut ∨ s.ft < q.first + s.loadTimeout then .next s
    else
      let s1 := s.remoteTimeout q.dst q.global
      if q.flit.typ.toNat = 0x03 then
        .next { s1 with reqs := s1.reqs.map fun x => if x = q then { x with timedOut := true } else x }
      else .next (((s1.fill q 0 true).failIssuer q.req 0x34).retire q)

/-- CHUNK_TIMEOUT (R284), FAB_LOAD_TIMEOUT after the chunk was sent: all its pieces failed. -/
def execChunkTimeout (dst tag : BitVec 16) (s : State) : Host.Outcome State Fault Refusal :=
  match (s.sentChunks dst.toNat).find? fun c => c.tag == tag.toNat with
  | none => .next s
  | some c =>
    if s.ft < c.since + s.loadTimeout then .next s
    else .next (((s.chunkOver c (pagePieces c.addr c.len)).remoteTimeout c.dst
      (if c.read then c.src else c.dst * 2 ^ 48 + c.addr)).settleCores)

/-! ## Paths (R275, R280) -/

/-- May a flow to a node use a port: its static path's, another member of the rack, or another plane? A ring has one path. -/
def State.pathOk (s : State) (dst p : Nat) : Bool :=
  s.staticPort dst == some p ||
    (if dst / 32 = s.node / 32 then decide (p < 24) && p != s.node % 32
     else (s.ringPort dst).isNone && decide (24 ≤ p) && decide (p < 28))

/-- The path that a port is: the static path, or another. -/
def State.pathOf (s : State) (dst p : Nat) : Nat := if s.staticPort dst = some p then 0 else p + 1

/-- A flow continues on its new path: the flits that waited are sent. -/
def State.flowOn (s : State) (dst vc : Nat) : State :=
  let f := s.flow dst vc
  let k := dst * 8 + vc
  let q := Tbl.get [] s.drainQ k
  let s1 := s.setFlow dst vc { f with drain := false, path := f.goal }
  q.foldl State.emit { s1 with drainQ := Tbl.set [] s1.drainQ k [] }

/-- The flits of a message between pocket engines (R355). -/
def State.putPkt (s : State) (t : PktTx) : State :=
  let m := max 1 (ceilDiv t.words.length 6)
  foldN m s fun s i =>
    let last := i + 1 == m
    s.emit (s.mkFlit t.dst 0x18 5 last t.tag 0 false false (t.addr + 192 * i)
      (((t.words.drop (6 * i)).take 6).map fun w => fword w.1 w.2)
      (if last then crc64 (t.words.flatMap fun w => granuleBytes w.1) else 0))

/-- Every request, chunk and pocket message of a flow that is not acknowledged is issued on the new path, with its SEQ and TAG unchanged, and the
flow continues; one that waited in the drain is issued for the first time. -/
def State.flowReissue (s : State) (dst vc : Nat) : State :=
  let f := s.flow dst vc
  let k := dst * 8 + vc
  let l := Tbl.get [] s.drainQ k
  let s1 := s.setFlow dst vc { f with drain := false, path := f.goal }
  let s2 := { s1 with drainQ := Tbl.set [] s1.drainQ k [] }
  if vc = 1 then
    (s2.reqs.filter fun q => q.dst == dst).foldl (fun s q =>
      (if l.contains q.flit then s else s.count64 (Reg.fabCnt 6) 1).emit q.flit) s2
  else if vc = 6 then
    (s2.sentChunks dst).foldl (fun s c =>
      (if l.any fun g => g.tag.toNat == c.tag then s else s.count64 (Reg.fabCnt 6) 1).sendAs c c.seq false) s2
  else if vc = 5 then
    (s2.pktTx.filter fun t => t.dst == dst).foldl (fun s t =>
      (if l.any fun g => g.tag.toNat == t.tag then s else s.count64 (Reg.fabCnt 6) 1).putPkt t) s2
  else l.foldl State.emit s2

/-- How many flits wait at a port. -/
def State.egress (s : State) (p : Nat) : Nat := (Tbl.get [] s.portQ p).length

/-- May a flow leave port `old`, which is up, for `port` (R238, R275)? With ADAPT_OFF set it only returns to its static path; else
where more than 512 flits wait at its port and fewer at the other. -/
def State.mayMove (s : State) (dst old port : Nat) : Bool :=
  s.portReady port &&
    (if s.regB Reg.detCfg 1 then s.staticPort dst == some port
     else decide (512 < s.egress old) && decide (s.egress port < s.egress old))

/-- FLOW_REPATH (R275): a flow whose port is down moves at once, one of a ring to the same port, whose partner changes; another
drains first. -/
def execFlowRepath (dst : BitVec 16) (vc : Fin 8) (port : Fin 32) (portDown : Bool) (s : State) :
    Host.Outcome State Fault Refusal :=
  let d := dst.toNat
  let f := s.flow d vc
  match s.portFor d vc with
  | none => .next s
  | some old =>
    if s.pathOk d port = false ∨ f.drain ∨ portDown = s.portReady old then .next s
    else if portDown then
      if old = port.val ∧ port.val < 28 then .next s
      else .next (((s.count64 (Reg.fabCnt 5) 1).setFlow d vc { f with goal := s.pathOf d port }).flowReissue d vc)
    else if old = port.val ∨ s.mayMove d old port = false then .next s
    else
      let s1 := s.count64 (Reg.fabCnt 5) 1
      let m := s1.mkFlit d 0x16 vc true 0 0 false false 0 [] vc
      .next ((s1.emit m).setFlow d vc { f with drain := true, goal := s.pathOf d port, since := s.ft })

/-- DRAIN_TIMEOUT (R275), FAB_DRAIN_TIMEOUT after the drain began. -/
def execDrainTimeout (dst : BitVec 16) (vc : Fin 8) (s : State) : Host.Outcome State Fault Refusal :=
  let f := s.flow dst.toNat vc
  if f.drain ∧ f.since + usec * s.regF Reg.fabDrainTimeout 0 16 ≤ s.ft then .next (s.flowReissue dst.toNat vc) else .next s

/-- DRAIN_MARK (R275): answered at once, since every earlier flit of the flow came before it on its path. -/
def execDrainMark (f : Flit) (s : State) : Host.Outcome State Fault Refusal :=
  let a := s.accept f 0x16
  .next (if a.2 then a.1.respond f 0x17 [] f.trailer.toNat else a.1)

/-- DRAIN_ECHO (R275). -/
def execDrainEcho (f : Flit) (s : State) : Host.Outcome State Fault Refusal :=
  let a := s.accept f 0x17
  let vc := fld f.trailer 0 3
  .next (if a.2 && (a.1.flow f.src.toNat vc).drain then a.1.flowOn f.src.toNat vc else a.1)

/-- Has a flow something outstanding? -/
def State.flowBusy (s : State) (dst vc : Nat) : Bool :=
  (s.reqs.any fun q => q.dst == dst && q.vc == vc) || (s.reqQ.any fun q => q.dst == dst && q.vc == vc) ||
    (vc == 6 && s.chunksTx.any fun c => c.dst == dst)

/-- FLOW_IDLE_RESTART (R280): after 1 ms with nothing outstanding the flow starts again at SEQ 0. -/
def execFlowIdleRestart (dst : BitVec 16) (vc : Fin 8) (s : State) : Host.Outcome State Fault Refusal :=
  let f := s.flow dst.toNat vc
  if s.flowBusy dst.toNat vc ∨ f.drain ∨ s.ft < f.busyAt + msec then .next s
  else .next (s.setFlow dst.toNat vc { f with next := 0, started := false })

/-! ## Replication (R286) -/

/-- A program that a replicated page held goes on with the instruction it was held at. -/
def State.unhold (s : State) : State :=
  { s with progs := s.progs.map fun p => (p.1, p.2.map fun q => if q.wait = .held then { q with wait := .no } else q) }

/-- FAB_REPL_RELEASE: the held stores are performed in their order (R286). -/
def State.replRelease (s : State) (v : W64) : State :=
  if bit v 0 = false then s
  else
    let q := s.replHeld
    let s1 := ({ s with replHeld := [] }.setRegB Reg.fabStatus 1 false)
    ((q.foldl (fun s h => s.gstore h.req h.addr h.data h.poison) s1).unhold).settleCores

/-- REPL_RELEASE (R286). -/
def execReplRelease (v : BitVec 32) (s : State) : Host.Outcome State Fault Refusal :=
  .next (s.bar Reg.fabReplRelease fun s => s.replRelease (v.zeroExtend 64))

/-! ## Quench (R278) -/

/-- The nodes of the quench list. -/
def State.quenchNodes (s : State) : List Nat :=
  let n := (s.reg Reg.fabQuenchCount).toNat % 65536
  let a := (s.reg Reg.fabQuenchList).toNat
  if (s.load a (2 * n)).2 then [] else (List.range n).map fun i => s.num (a + 2 * i) 2

/-- QUENCH to each listed node. -/
def State.sendQuench (s : State) : State :=
  let s1 := (s.loadEvent ⟨0, 0⟩ (s.reg Reg.fabQuenchList).toNat (2 * ((s.reg Reg.fabQuenchCount).toNat % 65536))).setReg
    Reg.fabQuenchAcked 0
  s.quenchNodes.foldl (fun s n =>
    if n = 0xFFFF then s
    else s.emit { s.mkFlit n 0x1C 7 true 0 0 false false 0 [] 0 with
      pkey := BitVec.ofNat 16 (s.regF Reg.fabQuenchKey 0 16) }) s1

/-- A write to FAB_CTRL (R278): QUENCH_GO is ignored unless FM_EN, and both bits clear at once here. -/
def State.fabCtrlWrite (s : State) (v : W64) : State :=
  let s1 := if bit v 0 ∧ s.regB Reg.fabCfg 0 then s.sendQuench else s
  if bit v 1 then { s1.setRegB Reg.fabStatus 0 false with dropKey := none } else s1

/-- QUENCH_GO (R278). -/
def execQuenchGo (v : BitVec 32) (s : State) : Host.Outcome State Fault Refusal :=
  .next (s.bar Reg.fabCtrl fun s => s.fabCtrlWrite (v.zeroExtend 64))
/-- UNQUENCH (R278). -/
def execUnquench (v : BitVec 32) (s : State) : Host.Outcome State Fault Refusal :=
  .next (s.bar Reg.fabCtrl fun s => s.fabCtrlWrite (v.zeroExtend 64))

/-- Is a node a fabric manager of this package? -/
def State.isFm (s : State) (n : Nat) : Bool :=
  n != 0xFFFF && (n == s.regF Reg.fabFmNodes 0 16 || n == s.regF Reg.fabFmNodes 16 16)

/-- QUENCH (R278): a package that has stopped itself already only acknowledges it (R372). -/
def execQuench (f : Flit) (s : State) : Host.Outcome State Fault Refusal :=
  let a := s.accept f 0x1C
  let key := f.pkey.toNat
  if a.2 = false ∨ a.1.isFm f.src.toNat = false ∨ key ≠ a.1.regF Reg.fabPkey 0 16 then .next a.1
  else
    let s1 := if a.1.dropKey = some key then a.1
      else ((a.1.stopPartition).setRegB Reg.fabStatus 0 true).fabEv 3 (some f.src.toNat) key
    .next (s1.emit (s1.mkFlit f.src.toNat 0x1D 7 true f.tag.toNat 0 false false 0 [] 0))

/-- QUENCH_ACK (R278). Its key is the quenched one, which need not be the manager's own. -/
def execQuenchAck (f : Flit) (s : State) : Host.Outcome State Fault Refusal :=
  if s.node = 0xFFFF ∨ f.dst.toNat ≠ s.node then .next s
  else if flitOk f = false ∨ f.typ.toNat ≠ 0x1D then .next (s.count64 (Reg.fabCnt 2) 1)
  else if f.pkey.toNat ≠ s.regF Reg.fabQuenchKey 0 16 ∧ f.pkey.toNat ≠ s.regF Reg.fabPkey 0 16 then
    .next ((s.count64 (Reg.fabCnt 3) 1).fabEv 2 (some f.src.toNat) none)
  else
    let n := (s.reg Reg.fabQuenchAcked).toNat + 1
    let s1 := s.setReg Reg.fabQuenchAcked (BitVec.ofNat 64 n)
    .next (if n = (s.reg Reg.fabQuenchCount).toNat % 65536 then s1.fabEv 4 (some f.src.toNat) none else s1)

/-- MGMT (R270): the message is taken off the fabric; what it asks is between managers. -/
def execMgmt (f : Flit) (s : State) : Host.Outcome State Fault Refusal :=
  let a := s.accept f 0x1E
  if a.2 = false then .next a.1
  else
    let w := a.1.takeWords f.words
    .next (w.1.answer (w.2.flatMap fun x => granuleBytes x.1) (w.2.any fun x => x.2))

/-! ## Locks and rings (R276, R288) -/

/-- FAB_CFG_LOCK (R288). -/
def execFabCfgLock (v : BitVec 32) (s : State) : Host.Outcome State Fault Refusal :=
  .next (s.bar Reg.fabCfg fun s => s.plainWrite Reg.fabCfg (v.zeroExtend 64))

/-- A write to FAB_RING_CTRL: JOIN opens the shunts; the ports of a ring that is left go down (R276). -/
def State.ringCtrlWrite (s : State) (v : W64) : State :=
  let s1 := s.setJoin (fld v 0 2)
  (List.range 4).foldl (fun s i => if bit v (i / 2) ∨ s.portReady (28 + i) = false then s else s.setPort (28 + i) 0) s1

/-- RING_JOIN (R276). -/
def execRingJoin (v : BitVec 32) (s : State) : Host.Outcome State Fault Refusal :=
  .next (s.bar Reg.fabRingCtrl fun s => s.ringCtrlWrite (v.zeroExtend 64))

/-! ## Lanes (R266 to R268) -/

/-- The key of a physical lane of a direction of a port. -/
def laneKey (p : Nat) (rx : Bool) (lane : Nat) : Nat := p * 18 + bnat rx * 9 + lane

/-- The lane map register of a direction. -/
def laneMap (p : Nat) (rx : Bool) : Nat := if rx then Reg.fabPRxmap p else Reg.fabPTxmap p

/-- Is a physical lane lasting? -/
def State.isLasting (s : State) (p : Nat) (rx : Bool) (lane : Nat) : Bool := Tbl.get false s.laneLast (laneKey p rx lane)

/-- The logical lane that a physical lane carries. -/
def State.logicalLane (s : State) (p : Nat) (rx : Bool) (lane : Nat) : Option Nat :=
  (List.range 8).find? fun i => s.regF (laneMap p rx) (4 * i) 4 == lane

/-- The healthy physical lanes of a direction, lowest first. -/
def State.healthyLanes (s : State) (p : Nat) (rx : Bool) : List Nat :=
  (List.range 9).filter fun l => !s.isLasting p rx l

/-- The port runs on four logical lanes, on the four lowest healthy physical lanes of each direction, or goes down. -/
def State.degrade (s : State) (p : Nat) : State :=
  let tx := s.healthyLanes p false
  let rx := s.healthyLanes p true
  if tx.length < 4 ∨ rx.length < 4 then s.setPort p 0
  else
    let put (r : Nat) (ls : List Nat) (s : State) : State :=
      (ls.take 4).zipIdx.foldl (fun s x => s.setRegF r (4 * x.2) 4 x.1) s
    let s1 := put (laneMap p true) rx (put (laneMap p false) tx s)
    if s.portState p = 3 then s1 else (s1.setPort p 3).fabEv 8 p none

/-- The rotation that is due in a direction of a port (R267). -/
def State.rotation (s : State) (p : Nat) (rx : Bool) : Option (Nat × Nat) := Tbl.get none s.rotate (2 * p + bnat rx)
def State.setRotation (s : State) (p : Nat) (rx : Bool) (r : Option (Nat × Nat)) : State :=
  { s with rotate := Tbl.set none s.rotate (2 * p + bnat rx) r }

/-- The spare of a direction: the physical lane that carries no logical lane. -/
def State.spareLane (s : State) (p : Nat) (rx : Bool) : Option Nat :=
  (List.range 9).find? fun l => (s.logicalLane p rx l).isNone

/-- Can a direction of an UP port rotate its one lasting lane onto its spare (R267, R268)? -/
def State.canRotate (s : State) (p : Nat) (rx : Bool) : Bool :=
  s.portState p == 2 && !s.regB (Reg.fabPCfg p) 1 &&
    decide (((List.range 9).filter fun l => s.isLasting p rx l).length ≤ 1)

/-- The receiver gives notice of a rotation: the logical lane, and the flit at which it takes place, which both ends hold to
(log entry 87). -/
def State.giveNotice (s : State) (p lane : Nat) : State :=
  let n := (Config.rotateAt p (Tbl.get 0 s.linkRx p)).toNat
  (s.setRotation p true (some (lane, n))).send (.linkCtrl (revPort p) lane n)

/-- A lane becomes lasting: its logical lane is to rotate, as the receiver gives notice; or the port degrades. -/
def State.laneLasting (s : State) (p : Nat) (rx : Bool) (lane : Nat) : State :=
  if s.isLasting p rx lane then s
  else
    let s1 := ({ s with laneLast := Tbl.set false s.laneLast (laneKey p rx lane) true }.setRegB (Reg.fabPStatus p)
      (5 + lane) true).fabEv 6 p lane
    if s1.portReady p = false then s1
    else match s1.logicalLane p rx lane with
      | none => if (s1.rotation p rx).isSome then s1.degrade p else s1
      | some i => if s1.canRotate p rx then (if rx then s1.giveNotice p i else s1) else s1.degrade p

/-- An event of a lane: counted, and the fourth within 24 hours makes it lasting. -/
def State.laneEvent (s : State) (p : Nat) (rx : Bool) (lane : Nat) : State :=
  let k := laneKey p rx lane
  let times := Tbl.get [] s.laneEv k
  let s1 := s.count64 (Reg.fabPCnt p 5) 1
  let s2 := { s1 with laneEv := Tbl.set [] s1.laneEv k (lastThree (times ++ [s.ft])) }
  if fourth times s.ft then s2.laneLasting p rx lane else s2

/-- LANE_EVENT (R266): corrections are counted, and are an event where they exceed the limit of the port. -/
def execLaneEvent (p : Fin 32) (rx : Bool) (lane : Fin 9) (cause : LaneCause) (s : State) :
    Host.Outcome State Fault Refusal :=
  match cause with
  | .uncorrectable => .next ((s.count64 (Reg.fabPCnt p 4) 1).laneEvent p rx lane)
  | .corrections n =>
    let s1 := s.count64 (Reg.fabPCnt p 3) n
    .next (if 4 * s.regF (Reg.fabPCfg p) 2 30 < n then s1.laneEvent p rx lane else s1)
  | .lockLoss => .next (s.laneEvent p rx lane)

/-- LOSS_OF_SIGNAL (R266). -/
def execLossOfSignal (p : Fin 32) (rx : Bool) (lane : Fin 9) (s : State) : Host.Outcome State Fault Refusal :=
  .next (s.laneLasting p rx lane)

/-- Has a port come to the flit of an LSEQ: is it the next it sends or expects, or behind it? -/
def State.lseqReached (s : State) (p : Nat) (rx : Bool) (n : Nat) : Bool :=
  decide ((Tbl.get 0 (if rx then s.linkRx else s.linkTx) p + 4096 - n) % 4096 < 2048)

/-- A logical lane of a port moves to a physical one. -/
def State.moveLane (s : State) (p : Nat) (rx : Bool) (i l : Nat) : State :=
  (s.setRegF (laneMap p rx) (4 * i) 4 l).setRegB (Reg.fabPStatus p) (if rx then 4 else 3) true

/-- LANE_ROTATE (R267): at the flit that the notice names, the logical lane moves to the spare. -/
def execLaneRotate (p : Fin 32) (rx : Bool) (s : State) : Host.Outcome State Fault Refusal :=
  match s.rotation p rx, s.spareLane p rx with
  | some (i, n), some l =>
    if s.portState p ≠ 2 ∨ s.lseqReached p rx n = false then .next s
    else .next ((((s.moveLane p rx i l).setRotation p rx none).count64 (Reg.fabPCnt p 6) 1).fabEv 7 p i)
  | _, _ => .next s

end Sys2Proof.Machine
end

