-- ==== Sys2Proof/Machine/SolverMath.lean ====
section
/-! DEFINITION. The arithmetic of the solver (chapter 07): factorisations, solves and the iterative methods, on binary64
values held as their bits (R187 to R201). -/
namespace Sys2Proof.Machine

/-! ## Binary64 operations (R187) -/

/-- The canonical NaN of binary64. -/
abbrev nan64 : Nat := 0x7FF8000000000000

/-- The value of 64 bits, and a value rounded once. -/
def d64 (x : Nat) : Num := decodeNum .b64 x
def r64 (v : Num) : Nat := encRne .b64 v

/-- fma(−a, b, c) and fma(a, b, c). -/
def fnma64 (a b c : Nat) : Nat := r64 (((d64 a).mul (d64 b)).neg.add (d64 c))
def fma64 (a b c : Nat) : Nat := r64 ((d64 a).fma (d64 b) (d64 c))
def mul64 (a b : Nat) : Nat := r64 ((d64 a).mul (d64 b))
def add64 (a b : Nat) : Nat := r64 ((d64 a).add (d64 b))
def sub64 (a b : Nat) : Nat := r64 ((d64 a).sub (d64 b))
def div64 (a b : Nat) : Nat := r64 ((d64 a).div (d64 b))
def rcp64 (a : Nat) : Nat := r64 (d64 a).rcp
def rsqrt64 (a : Nat) : Nat := r64 (d64 a).rsqrt
def sqrt64 (a : Nat) : Nat := r64 (d64 a).sqrt

/-- xsum: the exact sum of its terms, rounded once. -/
def xsum (ts : List Num) : Nat := r64 (ts.foldl Num.add .zero)

/-- The exact products of two vectors. -/
def dotTerms (a b : List Nat) : List Num := List.zipWith (fun x y => (d64 x).mul (d64 y)) a b

/-- NORM of a vector. -/
def norm64 (v : List Nat) : Nat := sqrt64 (xsum (dotTerms v v))

def isFin64 (x : Nat) : Bool := (d64 x).isFin
def isZero64 (x : Nat) : Bool := (d64 x).isZero
/-- Is the value greater than 0? -/
def pos64 (x : Nat) : Bool := (Num.zero).lt (d64 x)

/-! ## Matrices and vectors -/

/-- A matrix by rows. -/
abbrev Mat := List (List Nat)

def Mat.at (m : Mat) (i k : Nat) : Nat := (m.getD i []).getD k 0
/-- The matrix with the elements (i, k) that `which` names replaced. -/
def Mat.map2 (m : Mat) (which : Nat → Nat → Bool) (f : Nat → Nat → Nat → Nat) : Mat :=
  m.zipIdx.map fun r => r.1.zipIdx.map fun e => if which r.2 e.2 then f r.2 e.2 e.1 else e.1
/-- A vector with element `i` replaced. -/
def vset (v : List Nat) (i x : Nat) : List Nat := v.set i x
def vat (v : List Nat) (i : Nat) : Nat := v.getD i 0
def Mat.swap (m : Mat) (i j : Nat) : Mat := (m.set i (m.getD j [])).set j (m.getD i [])

/-! ## Factorisation (R189 to R192) -/

/-- A factorisation in progress: F, rp, the pivots or τ, the first event as status and INFO, whether it stopped, and the
divide and square-root operations and the FMAs issued. -/
structure Fac where
  f : Mat
  rp : List Nat
  aux : List Nat
  ev : Option (Nat × Nat)
  stop : Bool
  divs : Nat
  fmas : Nat
  deriving DecidableEq, Repr

/-- Record the event of status `st` at `i` unless there was one (R189). -/
def Fac.event (w : Fac) (st i : Nat) : Fac := if w.ev.isSome then w else { w with ev := some (st, i) }

/-- After pivot step `j`: the first non-finite value is an OVERFLOW at `j` (R189). Only what the operation computes counts:
`lower` says that it computes the lower triangle alone (R191). -/
def Fac.check (w : Fac) (lower : Bool) (j : Nat) : Fac :=
  if w.ev.isNone && ((w.f.zipIdx.any fun r => (if lower then r.1.take (r.2 + 1) else r.1).any fun x => !isFin64 x) ||
    (w.rp.any fun x => !isFin64 x) ||
    w.aux.any fun x => decide (2 ^ 32 ≤ x) && !isFin64 x) then w.event 2 j else w

/-- fail(code, j): F is NaN where `fill` says; the pivots of LU from `j` on are 0xFF. -/
def Fac.fail (w : Fac) (st j : Nat) (fill : Nat → Nat → Bool) (piv : Bool) : Fac :=
  { w.event st j with
    f := w.f.map2 fill fun _ _ _ => nan64
    aux := if piv then w.aux.zipIdx.map fun e => if j ≤ e.2 then 0xFF else e.1 else w.aux
    stop := true }

/-- The row of the pivot of column `j`: the greatest magnitude, ties to the lowest row. -/
def pivotRow (f : Mat) (n j : Nat) : Nat :=
  (upFrom (j + 1) (n - j - 1)).foldl (fun p i => if ((d64 (f.at p j)).abs).lt ((d64 (f.at i j)).abs) then i else p) j

/-- Pivot step `j` of LU (R190). -/
def luStep (n : Nat) (w : Fac) (j : Nat) : Fac :=
  if w.stop then w else
  let p := pivotRow w.f n j
  let f0 := w.f.swap j p
  let w0 := { w with f := f0, aux := w.aux ++ [p] }
  if isZero64 (f0.at j j) then
    { w0 with aux := w0.aux ++ List.replicate (n - j - 1) 0 }.fail 1 j (fun i k => decide (j ≤ i) && decide (j ≤ k)) true
  else
    let r := rcp64 (f0.at j j)
    let f1 := f0.map2 (fun i k => decide (j < i) && k == j) fun _ _ x => mul64 x r
    let f2 := f1.map2 (fun i k => decide (j < i) && decide (j < k)) fun i k x => fnma64 (f1.at i j) (f1.at j k) x
    { w0 with f := f2, rp := w.rp ++ [r], divs := w.divs + 1, fmas := w.fmas + (n - 1 - j) * (n - 1 - j) }.check false j

/-- Pivot step `j` of CHOL (R191). -/
def cholStep (n : Nat) (w : Fac) (j : Nat) : Fac :=
  if w.stop then w else
  let d := w.f.at j j
  if isFin64 d && !pos64 d then w.fail 3 j (fun i k => decide (j ≤ k) && decide (k ≤ i)) false
  else
    let r := rsqrt64 d
    let f1 := w.f.map2 (fun i k => k == j && decide (j ≤ i) && decide (i < n)) fun i _ x => if i = j then sqrt64 d else mul64 x r
    let f2 := f1.map2 (fun i k => decide (j < k) && decide (k ≤ i)) fun i k x => fnma64 (f1.at i j) (f1.at k j) x
    { w with f := f2, rp := w.rp ++ [r], divs := w.divs + 2, fmas := w.fmas + (n - 1 - j) * (n - j) / 2 }.check true j

/-- Pivot step `j` of LDLT (R191). -/
def ldltStep (n : Nat) (w : Fac) (j : Nat) : Fac :=
  if w.stop then w else
  let d := w.f.at j j
  if isZero64 d then w.fail 1 j (fun i k => decide (j ≤ k) && decide (k ≤ i)) false
  else
    let r := rcp64 d
    let f1 := w.f.map2 (fun i k => k == j && decide (j < i) && decide (i < n)) fun _ _ x => mul64 x r
    let f2 := f1.map2 (fun i k => decide (j < k) && decide (k ≤ i)) fun i k x => fnma64 (f1.at i j) (w.f.at k j) x
    { w with f := f2, rp := w.rp ++ [r], divs := w.divs + 1, fmas := w.fmas + (n - 1 - j) * (n - j) / 2 }.check true j

/-- Add σ to the diagonal (R191); the first non-finite sum is an OVERFLOW at its row. -/
def ldltShift (n sigma : Nat) (w : Fac) : Fac :=
  (List.range n).foldl (fun w j =>
    { w with f := w.f.map2 (fun i k => i == j && k == j) fun _ _ x => add64 x sigma }.check true j) w

/-- Column `j` of a matrix from row `i` to `m − 1`. -/
def Mat.col (f : Mat) (j i m : Nat) : List Nat := (upFrom i (m - i)).map fun r => f.at r j

/-- Step `j` of QR over `m` rows and `n` columns (R192). -/
def qrStep (m n : Nat) (w : Fac) (j : Nat) : Fac :=
  if (w.f.col j (j + 1) m).all isZero64 then { w with aux := w.aux ++ [0] } else
  let alpha := w.f.at j j
  let c0 := w.f.col j j m
  let mu := sqrt64 (xsum (dotTerms c0 c0))
  let beta := if Num.zero.le (d64 alpha) then r64 (d64 mu).neg else mu
  let rv := rcp64 (sub64 alpha beta)
  let f1 := w.f.map2 (fun i k => k == j && decide (j < i)) fun _ _ x => mul64 x rv
  let tau := div64 (sub64 beta alpha) beta
  let f2 := f1.map2 (fun i k => i == j && k == j) fun _ _ _ => beta
  let cs := (List.range n).map fun k => if k ≤ j then 0 else
    mul64 (xsum (d64 (f2.at j k) :: dotTerms (f2.col k (j + 1) m) (f2.col j (j + 1) m))) tau
  let f3 := f2.map2 (fun i k => decide (j ≤ i) && decide (j < k)) fun i k x =>
    if i = j then sub64 x (vat cs k) else fnma64 (f2.at i j) (vat cs k) x
  { w with f := f3, aux := w.aux ++ [tau], divs := w.divs + 3, fmas := w.fmas + (n - 1 - j) * (m - 1 - j) }.check false j

/-! ## Solving (R193) -/

/-- A solve in progress: the column, the first event, whether it met a zero diagonal, and the divisions and FMAs issued. -/
structure Slv where
  y : List Nat
  ev : Option (Nat × Nat)
  singular : Bool
  divs : Nat
  fmas : Nat
  deriving DecidableEq, Repr

/-- Row `i` takes the value `v`: the first non-finite one is an OVERFLOW of row `i`. -/
def Slv.put (w : Slv) (i v : Nat) : Slv :=
  { w with y := vset w.y i v, ev := if w.ev.isNone && !isFin64 v then some (2, i) else w.ev }

/-- Eliminate from row `i` the rows of a list, in order: y_i = fma(−coef i k, y_k, y_i). -/
def Slv.elim (w : Slv) (i : Nat) (ks : List Nat) (coef : Nat → Nat → Nat) : Slv :=
  ks.foldl (fun w k => { w with fmas := w.fmas + 1 }.put i (fnma64 (coef i k) (vat w.y k) (vat w.y i))) w

/-- Scale row `i`. -/
def Slv.scale (w : Slv) (i r : Nat) : Slv := w.put i (mul64 (vat w.y i) r)

/-- Scale row `i` by the reciprocal of a diagonal element, or SINGULAR where it is zero. -/
def Slv.divide (w : Slv) (i d : Nat) : Slv :=
  if isZero64 d then
    { w with singular := true, ev := if w.ev.isNone then some (1, i) else w.ev }
  else { w with divs := w.divs + 1 }.scale i (rcp64 d)

/-- Rows of a forward and of a backward sweep, with the rows each eliminates. -/
def forward (n : Nat) : List (Nat × List Nat) := (List.range n).map fun i => (i, List.range i)
def backward (n : Nat) : List (Nat × List Nat) := (List.range n).reverse.map fun i => (i, upFrom (i + 1) (n - i - 1))

/-- Solve one column by LU, with the pivots and rp. -/
def solveLu (n : Nat) (f : Mat) (piv rp : List Nat) (w : Slv) : Slv :=
  let y0 := (List.range n).foldl (fun y j =>
    let p := vat piv j
    vset (vset y j (vat y p)) p (vat y j)) w.y
  let w1 := (forward n).foldl (fun w r => w.elim r.1 r.2 f.at) { w with y := y0 }
  (backward n).foldl (fun w r => (w.elim r.1 r.2 f.at).scale r.1 (vat rp r.1)) w1

/-- Solve one column by CHOL. -/
def solveChol (n : Nat) (f : Mat) (rp : List Nat) (w : Slv) : Slv :=
  let w1 := (forward n).foldl (fun w r => (w.elim r.1 r.2 f.at).scale r.1 (vat rp r.1)) w
  (backward n).foldl (fun w r => (w.elim r.1 r.2 fun i k => f.at k i).scale r.1 (vat rp r.1)) w1

/-- Solve one column by LDLT. -/
def solveLdlt (n : Nat) (f : Mat) (rp : List Nat) (w : Slv) : Slv :=
  let w1 := (forward n).foldl (fun w r => w.elim r.1 r.2 f.at) w
  let w2 := (List.range n).foldl (fun w i => w.scale i (vat rp i)) w1
  (backward n).foldl (fun w r => w.elim r.1 r.2 fun i k => f.at k i) w2

/-- Apply the reflector of column `j` to a column. -/
def reflect (m : Nat) (f : Mat) (tau : List Nat) (w : Slv) (j : Nat) : Slv :=
  let v := f.col j (j + 1) m
  let ys := w.y.drop (j + 1)
  let c := mul64 (xsum (d64 (vat w.y j) :: dotTerms v ys)) (vat tau j)
  let w1 := w.put j (sub64 (vat w.y j) c)
  (upFrom (j + 1) (m - j - 1)).foldl (fun w i => { w with fmas := w.fmas + 1 }.put i (fnma64 (f.at i j) c (vat w.y i))) w1

/-- A sweep that divides by the diagonal of `f`, or by nothing where the diagonal is a unit. -/
def sweep (f : Mat) (unit : Bool) (rows : List (Nat × List Nat)) (w : Slv) : Slv :=
  rows.foldl (fun w r =>
    if w.singular then w else
    let w1 := w.elim r.1 r.2 f.at
    if unit then w1 else w1.divide r.1 (f.at r.1 r.1)) w

/-- Solve one column by QR. -/
def solveQr (m n : Nat) (f : Mat) (tau : List Nat) (w : Slv) : Slv :=
  sweep f false (backward n) ((List.range n).foldl (reflect m f tau) w)

/-- Columns that were solved: X, the first event of all, whether one met a zero diagonal, the divisions and the FMAs. -/
structure Cols where
  x : List (List Nat)
  ev : Option (Nat × Nat)
  singular : Bool
  divs : Nat
  fmas : Nat
  deriving DecidableEq, Repr

/-- Solve the columns of B one by one. -/
def solveCols (one : Slv → Slv) (c : Cols) (cols : List (List Nat)) : Cols :=
  cols.foldl (fun c y =>
    let r := one ⟨y, c.ev, false, c.divs, c.fmas⟩
    ⟨c.x ++ [r.y], r.ev, c.singular || r.singular, r.divs, r.fmas⟩) c

/-- What a direct item gives: F, its output AUX, X by columns, status, INFO and the divisions and FMAs issued. -/
structure DirOut where
  f : Mat
  aux : List Nat
  x : List (List Nat)
  status : Nat
  info : Nat
  divs : Nat
  fmas : Nat
  deriving DecidableEq, Repr

/-- A direct item (R190 to R193): operation, order, rows, columns of B, σ and the TRI bits. -/
def directItem (op n m : Nat) (sigma : Nat) (upper unit : Bool) (a : Mat) (b : List (List Nat)) : DirOut :=
  let w0 : Fac := ⟨a, [], [], none, false, 0, 0⟩
  let w := match op with
    | 1 => (List.range n).foldl (luStep n) w0
    | 2 => (List.range n).foldl (cholStep n) w0
    | 3 => (List.range n).foldl (ldltStep n) (ldltShift n sigma w0)
    | 4 => (List.range n).foldl (qrStep m n) w0
    | 6 => (List.range n).foldl (luStep n) w0
    | _ => w0
  let one : Slv → Slv := match op with
    | 1 => solveLu n w.f w.aux w.rp
    | 2 => solveChol n w.f w.rp
    | 3 => solveLdlt n w.f w.rp
    | 4 => solveQr m n w.f w.aux
    | 6 => solveLu n w.f w.aux w.rp
    | _ => sweep w.f unit (if upper then backward n else forward n)
  let r : Cols := if w.stop then ⟨b, w.ev, true, w.divs, w.fmas⟩ else solveCols one ⟨[], w.ev, false, w.divs, w.fmas⟩ b
  let e := r.ev.getD (0, 0)
  { f := w.f, aux := w.aux, status := e.1, info := e.2, divs := r.divs, fmas := r.fmas,
    x := if r.singular then r.x.map fun _ => List.replicate n nan64 else r.x.map fun y => y.take n }

/-! ## Iterative methods (R197 to R201) -/

/-- An iterative item in progress: the iterate, the vectors of PCG, ρ, the iterations performed, the best iterate with
its ρ and number, and the status it ended with. -/
structure Iter where
  x : List Nat
  r : List Nat
  z : List Nat
  p : List Nat
  rz : Nat
  rho : Nat
  it : Nat
  bx : List Nat
  brho : Nat
  bit : Nat
  st : Option Nat
  deriving DecidableEq, Repr

/-- The element (i, k) of a symmetric matrix held in its lower triangle. -/
def symAt (a : Mat) (i k : Nat) : Nat := if k ≤ i then a.at i k else a.at k i
def symRow (a : Mat) (n i : Nat) : List Nat := (List.range n).map fun k => symAt a i k

/-- min(max(x, lo), hi). -/
def clamp64 (x lo hi : Nat) : Nat := r64 (((d64 x).max (d64 lo)).min (d64 hi))

/-- The clamped vector. -/
def clampVec (x lo hi : List Nat) : List Nat := x.zipIdx.map fun e => clamp64 e.1 (vat lo e.2) (vat hi e.2)

/-- Test an evaluated iterate (R197): the best is kept, and TOL and MAXIT end the item unless it is a replay. -/
def Iter.test (w : Iter) (tol : Nat) (maxit : Nat) (replay : Bool) : Iter :=
  let w1 := if w.it = 0 ∨ (d64 w.rho).lt (d64 w.brho) then { w with bx := w.x, brho := w.rho, bit := w.it } else w
  if replay then w1
  else if (d64 w.rho).le (d64 tol) then { w1 with st := some 0 }
  else if maxit ≤ w.it then { w1 with st := some 5 }
  else w1

/-- The start of PCG from x0: iteration 0 (R198). -/
def pcgStart (n : Nat) (a : Mat) (b x0 : List Nat) : Iter :=
  let dinv := (List.range n).map fun i => rcp64 (a.at i i)
  let r := (List.range n).map fun i => xsum (d64 (vat b i) :: (dotTerms (symRow a n i) x0).map Num.neg)
  let z := List.zipWith mul64 dinv r
  ⟨x0, r, z, z, xsum (dotTerms r z), norm64 r, 0, x0, norm64 r, 0, none⟩

/-- One iteration of PCG. -/
def pcgStep (n : Nat) (a : Mat) (w : Iter) : Iter :=
  let dinv := (List.range n).map fun i => rcp64 (a.at i i)
  let q := (List.range n).map fun i => xsum (dotTerms (symRow a n i) w.p)
  let pq := xsum (dotTerms w.p q)
  if !pos64 pq || !isFin64 pq then { w with st := some 7 } else
  let al := div64 w.rz pq
  let x := List.zipWith (fun p x => fma64 al p x) w.p w.x
  let r := List.zipWith (fun q r => fnma64 al q r) q w.r
  let z := List.zipWith mul64 dinv r
  let rz2 := xsum (dotTerms r z)
  let be := div64 rz2 w.rz
  { w with x := x, r := r, z := z, p := List.zipWith (fun p z => fma64 be p z) w.p z, rz := rz2, rho := norm64 r,
           it := w.it + 1 }

/-- ρ of a PGS iterate. -/
def pgsRho (n : Nat) (a : Mat) (b lo hi x : List Nat) : Nat :=
  norm64 ((List.range n).map fun i =>
    let u := xsum (dotTerms (symRow a n i) x ++ [(d64 (vat b i)).neg])
    sub64 (vat x i) (clamp64 (sub64 (vat x i) u) (vat lo i) (vat hi i)))

/-- One sweep of PGS, in place. -/
def pgsSweep (n : Nat) (a : Mat) (b lo hi x : List Nat) : List Nat :=
  (List.range n).foldl (fun x i =>
    let ks := (List.range n).filter fun k => k != i
    let g := xsum (d64 (vat b i) :: ks.map fun k => ((d64 (symAt a i k)).mul (d64 (vat x k))).neg)
    vset x i (clamp64 (mul64 g (rcp64 (a.at i i))) (vat lo i) (vat hi i))) x

/-- The start of PGS, and one iteration (R199). -/
def pgsStart (n : Nat) (a : Mat) (b lo hi x0 : List Nat) : Iter :=
  let x := clampVec x0 lo hi
  let rho := pgsRho n a b lo hi x
  ⟨x, [], [], [], 0, rho, 0, x, rho, 0, none⟩
def pgsStep (n : Nat) (a : Mat) (b lo hi : List Nat) (w : Iter) : Iter :=
  let x := pgsSweep n a b lo hi w.x
  { w with x := x, rho := pgsRho n a b lo hi x, it := w.it + 1 }

/-- The residual of REFINE: rows of [A | b] by [x; −1] in sliced arithmetic, each rounded once (R100, R200). -/
def refineResidual (sl : Nat) (ab : Mat) (x : List Nat) : List Nat :=
  let v : OpVec := ⟨(x ++ [0xBFF0000000000000]).map d64, [], false, false⟩
  ab.map fun row =>
    let u : OpVec := ⟨row.map d64, [], false, false⟩
    let e := slicedElem u v sl u.anchor v.anchor
    r64 (e.value (unitOf sl e))

/-- The solution of a factor by R193; rp is the reciprocal of the diagonal of F (log entry 17). -/
def factorSolve (kind n : Nat) (f : Mat) (piv y : List Nat) : List Nat :=
  let rp := (List.range n).map fun i => rcp64 (f.at i i)
  let w : Slv := ⟨y, none, false, 0, 0⟩
  (match kind with
    | 0 => solveLu n f piv rp w
    | 1 => solveChol n f rp w
    | _ => solveLdlt n f rp w).y

/-- The start of REFINE, and one iteration. -/
def refineStart (sl : Nat) (ab : Mat) (x0 : List Nat) : Iter :=
  let r := refineResidual sl ab x0
  ⟨x0, r, [], [], 0, norm64 r, 0, x0, norm64 r, 0, none⟩
def refineStep (sl kind n : Nat) (ab f : Mat) (piv : List Nat) (w : Iter) : Iter :=
  let d := factorSolve kind n f piv w.r
  let x := List.zipWith sub64 w.x d
  let r := refineResidual sl ab x
  { w with x := x, r := r, rho := norm64 r, it := w.it + 1 }

/-- Iterate until the item ends or `fuel` iterations were performed. -/
def iterate (step : Iter → Iter) (tol maxit : Nat) (replay : Bool) : Nat → Iter → Iter
  | 0, w => w
  | n + 1, w =>
    if w.st.isSome then w else
    let w1 := step w
    iterate step tol maxit replay n (if w1.st.isSome then w1 else w1.test tol maxit replay)

end Sys2Proof.Machine
end

