-- ==== Sys2Proof/Machine/Solver.lean ====
section
/-! DEFINITION. The solver dies (chapter 07): core launches, batches, items, deadlines and records (R180 to R210). -/
namespace Sys2Proof.Machine

/-! ## Queues (R182, R185)

The first 64 entries of the list are the unit's queue; those beyond wait in the hub's launch engine, in order (R110, R182). -/

/-- An engine as a requester; its number is kept apart from the cores' (HUB_ADDR_UNIT shows the low 16 bits). -/
abbrev engReq (e : Nat) : Req := ⟨0x10, 65536 + e⟩
abbrev coreReq (c : Nat) : Req := ⟨0x10, c⟩

def State.coreQueue (s : State) (c : Nat) : List CoreEnt := Tbl.get [] s.coreQ c
def State.setCoreQueue (s : State) (c : Nat) (q : List CoreEnt) : State := { s with coreQ := Tbl.set [] s.coreQ c q }
def State.engQueue (s : State) (e : Nat) : List (Nat × Bool) := Tbl.get [] s.engQ e
def State.setEngQueue (s : State) (e : Nat) (q : List (Nat × Bool)) : State := { s with engQ := Tbl.set [] s.engQ e q }
/-- The share that a unit runs: engine e at e, core c at 256 + c. -/
def State.shareOf (s : State) (k : Nat) : Option Share := Tbl.get none s.shares k
def State.setShare (s : State) (k : Nat) (v : Option Share) : State := { s with shares := Tbl.set none s.shares k v }
def State.batchOf (s : State) (b : Nat) : Option Batch := Tbl.get none s.batches b
def State.setBatch (s : State) (b : Nat) (v : Option Batch) : State := { s with batches := Tbl.set none s.batches b v }

/-- Is a core running a program or a group? -/
def State.coreBusy (s : State) (c : Nat) : Bool :=
  (s.progOf (.core (Fin.ofNat 256 c))).isSome || (s.shareOf (256 + c)).isSome

/-! ## Core launches (R180, R181) -/

/-- The fields of a core launch descriptor (Table 7-5). -/
structure LDesc where
  ctrl : Nat
  core : Nat
  waitId : Nat
  signalId : Nat
  waitCount : Nat
  rsv : Nat
  draw : Nat
  entry : Nat
  arg : Nat
  ctx : Nat
  elem : Nat
  stream : Nat
  p1 : Nat
  p2 : Nat
  p3 : Nat
  deriving DecidableEq, Repr

/-- Read a launch descriptor from its 64 bytes. -/
def ldescOf (b : List Byte) : LDesc :=
  { ctrl := lef b 0 4, core := lef b 4 2, waitId := lef b 6 1, signalId := lef b 7 1, waitCount := lef b 8 2,
    rsv := lef b 10 2, draw := lef b 12 4, entry := lef b 16 8, arg := lef b 24 8, ctx := lef b 32 8,
    elem := lef b 40 8, stream := lef b 48 4, p1 := lef b 52 4, p2 := lef b 56 4, p3 := lef b 60 4 }

/-- Is a launch descriptor malformed (R181)? -/
def LDesc.bad (d : LDesc) : Bool :=
  d.entry % 4 != 0 || d.ctx % 64 != 0 || decide (255 < d.core) || nf d.ctrl 0 24 != 0 || d.rsv != 0 ||
    nf d.draw 24 8 != 0

/-- A launch descriptor completes without running. -/
def State.launchDone (s : State) (r : Req) (act idx addr : Nat) (d : LDesc) (st : Nat) : State :=
  ((s.writeStatus r (addr + 3) st).signal d.signalId).descDone act idx st 0

/-- A core's descriptor completes SB_INVALID: its registers and events. -/
def State.coreInvalid (s : State) (act idx addr : Nat) (d : LDesc) : State :=
  let s1 := if d.core < numCores s.grade then s.setReg (Reg.slvCoreLastErr d.core) (BitVec.ofNat 64 addr) else s
  (s1.event 0x10 Reg.slvEvent 9 d.core addr).launchDone (coreReq d.core) act idx addr d 0x41

/-- A launched core program: refused at once where no core can hold it, else put in its core's queue. -/
def State.enqueueCore (s : State) (act idx addr : Nat) (body : List Byte) : State :=
  let d := ldescOf body
  if numCores s.grade ≤ d.core then
    (if d.bad then s.coreInvalid act idx addr d else s.launchDone hubReq act idx addr d stAbsent)
  else s.setCoreQueue d.core (s.coreQueue d.core ++ [.launch ⟨act, idx, addr, body⟩ false])

/-- Launch the core programs of an action. -/
def State.launchCores (s : State) (l : Launch) (inPleat : Bool) : State :=
  launchDescs 64 0x41 State.enqueueCore s.nextAct l.desc l.count 0 (s.startAct l inPleat)

/-- ACTION_CORE_PROGRAM (R180). -/
def execActionCoreProgram (s : State) : Host.Outcome State Fault Refusal :=
  match s.takeLaunch 4 with
  | some (l, s1) => .next (s1.launchCores l true)
  | none => .next s

/-- Start the launch at the head of a core's queue. -/
def State.startLaunch (s : State) (c : Nat) (l : CoreLaunch) : State :=
  let d := ldescOf l.body
  let s1 := s.setCoreQueue c (s.coreQueue c).tail
  if d.bad then s1.coreInvalid l.act l.idx l.addr d
  else
    let p := Prog.entry d.entry d.p1 d.p2 d.p3 d.arg d.stream d.elem d.draw
    s1.setProg (.core (Fin.ofNat 256 c)) (some (s1.sampled
      { p with ctx := d.ctx, desc := l.addr, act := l.act, idx := l.idx, signal := d.signalId }))

/-- CORE_PROGRAM_START (R181, R182). -/
def execCoreProgramStart (c : Fin 256) (s : State) : Host.Outcome State Fault Refusal :=
  match s.coreQueue c with
  | .launch l rel :: _ =>
    let d := ldescOf l.body
    if s.coreBusy c || s.isParked 1 c || !(rel || s.waitMet d.waitId d.waitCount) then .next s
    else .next (s.startLaunch c l)
  | _ => .next s

/-! ## The batch descriptor (R184 to R186) -/

/-- A batch descriptor (Tables 7-7 and 7-8). -/
structure BDesc where
  ctrl : Nat
  unit0 : Nat
  nunits : Nat
  items : Nat
  n : Nat
  nrhs : Nat
  waitId : Nat
  signalId : Nat
  waitCount : Nat
  mrows : Nat
  a : Nat
  f : Nat
  b : Nat
  x : Nat
  aux : Nat
  stat : Nat
  lda : Nat
  ldb : Nat
  itemA : Nat
  itemB : Nat
  itemAux : Nat
  tiles : Nat
  shift : Nat
  tol : Nat
  rsv : Nat
  deriving DecidableEq, Repr

/-- Read a batch descriptor from its 128 bytes. -/
def bdescOf (b : List Byte) : BDesc :=
  { ctrl := lef b 0 4, unit0 := lef b 4 2, nunits := lef b 6 2, items := lef b 8 4, n := lef b 12 2, nrhs := lef b 14 2,
    waitId := lef b 16 1, signalId := lef b 17 1, waitCount := lef b 18 2, mrows := lef b 20 4, a := lef b 24 8,
    f := lef b 32 8, b := lef b 40 8, x := lef b 48 8, aux := lef b 56 8, stat := lef b 64 8, lda := lef b 72 4,
    ldb := lef b 76 4, itemA := lef b 80 4, itemB := lef b 84 4, itemAux := lef b 88 4, tiles := lef b 92 4,
    shift := lef b 96 8, tol := lef b 104 8, rsv := lef b 112 16 }

def BDesc.op (d : BDesc) : Nat := nf d.ctrl 0 5
def BDesc.warm (d : BDesc) : Bool := nf d.ctrl 5 1 == 1
def BDesc.iterRec (d : BDesc) : Bool := nf d.ctrl 6 1 == 1
def BDesc.upper (d : BDesc) : Bool := nf d.ctrl 7 1 == 1
def BDesc.unitDiag (d : BDesc) : Bool := nf d.ctrl 8 1 == 1
def BDesc.slices (d : BDesc) : Nat := nf d.ctrl 9 4
def BDesc.fkind (d : BDesc) : Nat := nf d.ctrl 13 2
/-- The operation is iterative; it runs on cores; it has an F; it has right-hand sides; it has an AUX block. -/
def BDesc.iterative (d : BDesc) : Bool := d.op == 8 || d.op == 9 || d.op == 10
def BDesc.onCores (d : BDesc) : Bool := d.op == 9 || d.op == 10
def BDesc.hasF (d : BDesc) : Bool := d.op == 1 || d.op == 2 || d.op == 3 || d.op == 4 || d.op == 6 || d.op == 8
def BDesc.hasAux (d : BDesc) : Bool := d.op == 1 || d.op == 4 || d.op == 6 || d.iterative
def BDesc.hasX (d : BDesc) : Bool := d.nrhs != 0
def BDesc.hasB (d : BDesc) : Bool := d.hasX && d.op != 6 && d.op != 8
def BDesc.opOk (d : BDesc) : Bool := decide (1 ≤ d.op) && decide (d.op ≤ 10) && d.op != 7
/-- Rows of A and F. -/
def BDesc.rows (d : BDesc) : Nat := if d.op = 4 then d.mrows else d.n
/-- Columns of A: REFINE's rows end with b. -/
def BDesc.cols (d : BDesc) : Nat := if d.op = 8 then d.n + 1 else d.n
/-- Rows of X: REFINE's X has one more element. -/
def BDesc.xrows (d : BDesc) : Nat := if d.op = 8 then d.n + 1 else d.n
/-- The bytes of an item's AUX block. -/
def BDesc.auxBytes (d : BDesc) : Nat :=
  match d.op with
  | 4 => 8 * d.n
  | 8 => 64 + d.n
  | 9 => 8
  | 10 => 64 + 16 * d.n
  | _ => d.n

/-- Fields that the operation does not use, and reserved fields, are 0 (R184). -/
def BDesc.unusedOk (d : BDesc) : Bool :=
  let z (used : Bool) (v : Nat) : Bool := used || v == 0
  z d.iterative (nf d.ctrl 5 2) && z (d.op == 5) (nf d.ctrl 7 2) && z (d.op == 8) (nf d.ctrl 9 6) &&
    nf d.ctrl 15 9 == 0 && nf d.items 24 8 == 0 && z d.hasF d.f && z d.hasB d.b && z d.hasX d.x && z d.hasAux d.aux &&
    z d.hasX d.ldb && z d.hasX d.itemB && z d.hasAux d.itemAux && z (d.op == 8) d.tiles && z (d.op == 3) d.shift &&
    z d.iterative d.tol && d.rsv == 0

/-- The byte range of an operand over all items. -/
def State.opSpan (s : State) (d : BDesc) (addr pitch len : Nat) : Nat × Nat :=
  s.gspan addr ((nf d.items 0 24 - 1) * pitch + len)

/-- Does F overlap A in part, or X or the records overlap another operand (R186)? -/
def State.batchOverlap (s : State) (d : BDesc) : Bool :=
  let mat (n cols : Nat) : Nat := (n - 1) * d.lda + 8 * cols
  let a := s.opSpan d d.a d.itemA (mat d.rows d.cols)
  let f := if d.hasF then [s.opSpan d d.f d.itemA (mat d.rows d.n)] else []
  let b := if d.hasB then [s.opSpan d d.b d.itemB ((d.rows - 1) * d.ldb + 8 * d.nrhs)] else []
  let x := if d.hasX then [s.opSpan d d.x d.itemB ((d.xrows - 1) * d.ldb + 8 * d.nrhs)] else []
  let aux := if d.hasAux then [s.opSpan d d.aux d.itemAux d.auxBytes] else []
  let st := s.opSpan d d.stat 32 32
  let rest := a :: f ++ b ++ aux
  (f.any fun y => d.f != d.a && spansMeet a y) || (x.any fun y => (st :: rest).any (spansMeet y)) ||
    rest.any (spansMeet st)

/-- Is a batch malformed (R186)? -/
def State.batchBad (s : State) (d : BDesc) : Bool :=
  let cnt := nf d.items 0 24
  let top := d.unit0 + d.nunits - 1
  let tc := d.tiles / 65536
  !d.opOk || !d.unusedOk || cnt == 0 || d.n == 0 || d.nunits == 0 || decide ((if d.onCores then 255 else 31) < top) ||
    (if d.op = 6 then d.nrhs != d.n else if d.op = 5 then d.nrhs == 0 else d.iterative && d.nrhs != 1) ||
    (if d.op = 4 then decide (d.mrows < d.n) else if d.iterative then d.mrows == 0 else d.mrows != 0) ||
    [d.a, d.f, d.b, d.x, d.aux, d.stat, d.itemA, d.itemB, d.itemAux].any (fun v => v % 64 != 0) ||
    d.lda % 8 != 0 || d.ldb % 8 != 0 || decide (d.lda < 8 * d.cols) || (d.hasX && decide (d.ldb < 8 * d.nrhs)) ||
    (d.op == 8 && (!(decide (5 ≤ d.slices) && decide (d.slices ≤ 8)) || d.fkind == 3 || tc == 0 ||
      decide (255 < d.tiles % 65536 + tc - 1))) ||
    s.batchOverlap d

/-- The footprint of an item and its limit (Table 7-6). -/
def BDesc.footprint (d : BDesc) : Nat :=
  if d.op = 8 then 8 * (d.n * d.n + 6 * d.n)
  else if d.onCores then 8 * (d.n * (d.n + 1) / 2 + 6 * d.n) + 64
  else 8 * (d.rows * d.n + 2 * d.rows * d.nrhs + 2 * d.n)
def BDesc.limit (d : BDesc) : Nat := if d.onCores then 524288 else 131072

/-- The status that refuses a batch, 0 where it runs. -/
def State.batchJudge (s : State) (d : BDesc) : Nat :=
  if s.batchBad d then 0x41 else if d.limit < d.footprint then 0x42 else 0

/-- The units of a batch, as keys of shares. -/
def BDesc.unitKeys (d : BDesc) : List Nat :=
  (upFrom d.unit0 d.nunits).map fun u => if d.onCores then 256 + u else u

/-! ## Batches -/

/-- A batch completes: STATUS, the signal once, its action, the registers and events. -/
def State.batchEnd (s : State) (b : Batch) (st : Nat) : State :=
  let d := bdescOf b.body
  let s1 := s.count64 Reg.slvCntBatches 1
  let s2 := if st = 0 then s1 else (upFrom d.unit0 (min d.nunits 256)).foldl (fun s u =>
    if d.onCores then (if u < numCores s.grade then s.setReg (Reg.slvCoreLastErr u) (BitVec.ofNat 64 b.addr) else s)
    else if u < numEngines s.grade then s.setReg (Reg.slvFeLastErr u) (BitVec.ofNat 64 b.addr) else s) s1
  let s3 := if st = 0x41 ∨ st = 0x42 then s2.event 0x10 Reg.slvEvent 9 (some (d.unit0 % 256)) b.addr else s2
  ((s3.writeStatus hubReq (b.addr + 3) st).signal d.signalId).descDone b.act b.idx st 0

/-- Put a share of batch `n` at the end of the queue of each unit. -/
def State.pushShares (s : State) (n : Nat) (keys : List Nat) : State :=
  keys.foldl (fun s k =>
    if 256 ≤ k then s.setCoreQueue (k - 256) (s.coreQueue (k - 256) ++ [.share n false])
    else s.setEngQueue k (s.engQueue k ++ [(n, false)])) s

/-- Take every share of batch `n` out of the queues. -/
def State.dropShares (s : State) (n : Nat) (keys : List Nat) : State :=
  keys.foldl (fun s k =>
    if 256 ≤ k then s.setCoreQueue (k - 256) ((s.coreQueue (k - 256)).filter fun e => match e with
      | .share m _ => m != n
      | .launch _ _ => true)
    else s.setEngQueue k ((s.engQueue k).filter fun e => e.1 != n)) s

/-- Does the grade have every unit, and tile, that a batch names? -/
def State.batchPresent (s : State) (d : BDesc) : Bool :=
  decide (d.unit0 + d.nunits ≤ (if d.onCores then numCores s.grade else numEngines s.grade)) &&
    (d.op != 8 || decide (d.tiles % 65536 + d.tiles / 65536 ≤ numTiles s.grade))

/-- A launched batch: refused at once where its units cannot hold it, else a share goes to each unit. -/
def State.enqueueBatch (s : State) (act idx addr : Nat) (body : List Byte) : State :=
  let d := bdescOf body
  let b : Batch := ⟨addr, body, act, idx, d.unitKeys, false⟩
  if !s.batchPresent d || !d.opOk || d.nunits == 0 then
    s.batchEnd b (if s.batchBad d then 0x41 else stAbsent)
  else
    let s1 := { s.setBatch s.nextBatch (some b) with nextBatch := s.nextBatch + 1 }
    s1.pushShares s.nextBatch d.unitKeys

/-- A started batch that is refused: no item runs. -/
def State.refuseBatch (s : State) (n : Nat) (b : Batch) (st : Nat) : State :=
  ((s.dropShares n b.left).setBatch n none).batchEnd b st

/-! ## Records (R205, R207) -/

/-- The 32 bytes of an item record. -/
def recordBytes (st flags iter info resid sig best stitch : Nat) : List Byte :=
  natBytes 1 st ++ natBytes 1 flags ++ natBytes 2 (min iter 65535) ++ natBytes 4 info ++ natBytes 8 resid ++
    natBytes 8 sig ++ natBytes 2 best ++ natBytes 2 0 ++ natBytes 4 stitch

/-- The signature of an item. -/
def BDesc.sig (d : BDesc) (tag : Nat) : Nat :=
  crc64 (natBytes 2 d.n ++ natBytes 2 d.nrhs ++ natBytes 4 (if d.op = 4 then d.mrows else 0) ++ natBytes 8 tag)

/-- The bit of SLV_EVENT of an item's status. -/
def itemEvent : Nat → Option Nat
  | 1 => some 0
  | 2 => some 1
  | 3 => some 2
  | 4 => some 3
  | 6 => some 4
  | 7 => some 5
  | 8 => some 5
  | 9 => some 6
  | 0xA => some 8
  | _ => none

/-- What an item gives besides what it stored: status, FLAGS, ITER, INFO, RESID, BEST. -/
structure ItemEnd where
  st : Nat
  flags : Nat
  iter : Nat
  info : Nat
  resid : Nat
  best : Nat
  deriving DecidableEq, Repr

/-- A unit's number, its requester, and whether it is a core. -/
def keyReq (k : Nat) : Req := if 256 ≤ k then coreReq (k - 256) else engReq k

/-- An item ends: its record, the counters and the event. -/
def State.itemEnd (s : State) (k : Nat) (b : Batch) (d : BDesc) (t tag : Nat) (e : ItemEnd) : State :=
  let s1 := s.gstore (keyReq k) (d.stat + 32 * t)
    (recordBytes e.st e.flags e.iter e.info e.resid (d.sig tag) e.best (s.stitch.toNat % 2 ^ 32)) false
  let s2 := if 256 ≤ k then
      (s1.count64 (Reg.slvCoreCntItems (k - 256)) 1).count64 (Reg.slvCoreCntIter (k - 256)) e.iter
    else
      let s3 := (s1.count64 (Reg.slvFeCntItems k) 1).countFree (Reg.slvFeCntBusy k)
      if e.st = 0 then s3 else s3.count32 (Reg.slvFeCntNotok k) 1
  let s4 := if e.st = 4 then s2.count64 Reg.slvCntDeadline 1 else if e.st = 6 then s2.count64 Reg.slvCntNotRun 1 else s2
  match itemEvent e.st with
  | some i => s4.event 0x10 Reg.slvEvent i (some (k % 256)) b.addr
  | none => s4

/-! ## Reading and storing operands -/

/-- Read of each of `rows` rows at a pitch the words that `span` names by first column and count, the others 0, with whether any
granule read is poison. -/
def State.readMat (s : State) (r : Req) (ga pitch rows cols : Nat) (span : Nat → Nat × Nat) : State × Mat × Bool :=
  let q := mapN (fun s i =>
    let c := span i
    let at_ := ga + i * pitch + 8 * c.1
    let d := s.gload r at_ (8 * c.2)
    (s.gloadSt r at_ (8 * c.2), ((List.range cols).map fun k =>
      if c.1 ≤ k ∧ k < c.1 + c.2 then lef d.1 (8 * (k - c.1)) 8 else 0), d.2)) rows 0 s
  (q.1, q.2.map Prod.fst, q.2.any Prod.snd)

/-- Store the rows of a matrix at a pitch. -/
def State.storeMat (s : State) (r : Req) (ga pitch : Nat) (m : Mat) (poison : Bool) : State :=
  m.zipIdx.foldl (fun s row => s.gstore r (ga + row.2 * pitch) (row.1.flatMap fun x => natBytes 8 x) poison) s

/-- Columns of a matrix as lists, and the matrix of a list of columns. -/
def Mat.columns (m : Mat) (n : Nat) : List (List Nat) := (List.range n).map fun k => m.map fun r => r.getD k 0
def ofColumns (rows : Nat) (cs : List (List Nat)) : Mat := (List.range rows).map fun i => cs.map fun c => c.getD i 0

/-- The addresses of an item's operands. -/
def BDesc.aAt (d : BDesc) (t : Nat) : Nat := d.a + t * d.itemA
def BDesc.fAt (d : BDesc) (t : Nat) : Nat := d.f + t * d.itemA
def BDesc.bAt (d : BDesc) (t : Nat) : Nat := d.b + t * d.itemB
def BDesc.xAt (d : BDesc) (t : Nat) : Nat := d.x + t * d.itemB
def BDesc.auxAt (d : BDesc) (t : Nat) : Nat := d.aux + t * d.itemAux

/-! ## Direct items (R188 to R193, R208, R209) -/

/-- Does the operation compute with element (i, k) of A (R188)? -/
def BDesc.reads (d : BDesc) (i k : Nat) : Bool :=
  match d.op with
  | 2 => decide (k ≤ i)
  | 3 => decide (k ≤ i)
  | 5 => (if d.upper then decide (i < k) else decide (k < i)) || (i == k && !d.unitDiag)
  | 9 => decide (k ≤ i)
  | 10 => decide (k ≤ i)
  | _ => true

/-- The columns of row `i` of A that the operation reads, by the first and their count: CHOL and LDLT read the upper triangle
too, which they copy to F (R191, R193, R197). -/
def BDesc.rowSpan (d : BDesc) (i : Nat) : Nat × Nat :=
  match d.op with
  | 5 => if d.upper then (i + bnat d.unitDiag, d.n - (i + bnat d.unitDiag)) else (0, i + 1 - bnat d.unitDiag)
  | 9 => (0, i + 1)
  | 10 => (0, i + 1)
  | _ => (0, d.cols)

/-- The columns of row `i` of a factor that REFINE reads: the lower triangle of a CHOL or LDLT factor. -/
def BDesc.factorSpan (d : BDesc) (i : Nat) : Nat × Nat := (0, if d.fkind = 0 then d.n else i + 1)

/-- Is an element that the operation reads NaN or infinite (R188)? -/
def BDesc.badInput (d : BDesc) (a : Mat) (b : List (List Nat)) : Bool :=
  (a.zipIdx.any fun r => r.1.zipIdx.any fun e => d.reads r.2 e.2 && !isFin64 e.1) || b.any fun c => c.any fun x => !isFin64 x

/-- Store what a direct item gives: F, X and the output AUX, all as poison where it must be. -/
def State.storeDirect (s : State) (r : Req) (d : BDesc) (t : Nat) (f : Mat) (x : List (List Nat)) (aux : List Nat)
    (poison : Bool) : State :=
  let s1 := if d.hasF then s.storeMat r (d.fAt t) d.lda f poison else s
  let s2 := if d.hasX then s1.storeMat r (d.xAt t) d.ldb (ofColumns d.n x) poison else s1
  if d.hasAux then s2.gstore r (d.auxAt t) (aux.flatMap fun v => natBytes (if d.op = 4 then 8 else 1) v) poison else s2

/-- The columns B of a direct item: the identity for INV. -/
def identityCols (n : Nat) : List (List Nat) :=
  (List.range n).map fun i => (List.range n).map fun k => if i = k then 0x3FF0000000000000 else 0

/-- A column of canonical NaN for every right-hand side, and a matrix of them. -/
def nanMat (rows cols : Nat) : Mat := List.replicate rows (List.replicate cols nan64)

/-- The engine's check mismatched `fails` times (R209): counted, classified and marked. -/
def State.engineCheck (s : State) (e fails addr : Nat) : State :=
  if fails = 0 then s else
  let s1 := ((s.count32 (Reg.slvFeCntCheckRetry e) 1).event 0x10 Reg.slvEvent 7 e addr).unitFault 2 e false
  if fails = 1 then s1 else (s1.count32 (Reg.slvFeCntCheckFail e) 1).unitFault 2 e true

/-- Run direct item `t` on engine `e`. -/
def State.runDirect (s : State) (e : Nat) (b : Batch) (d : BDesc) (t fails : Nat) : State × Nat :=
  let r := engReq e
  let ra := s.readMat r (d.aAt t) d.lda d.rows d.n d.rowSpan
  let rb := if d.hasB then ra.1.readMat r (d.bAt t) d.ldb d.rows d.nrhs fun _ => (0, d.nrhs) else (ra.1, [], false)
  let a := ra.2.1
  let bc := if d.op = 6 then identityCols d.n else rb.2.1.columns d.nrhs
  let auxNan := List.replicate d.n (if d.op = 4 then nan64 else 0xFF)
  let xNan := List.replicate d.nrhs (List.replicate d.n nan64)
  let fin (s : State) (st flags info : Nat) : State × Nat := (s.itemEnd e b d t 0 ⟨st, flags, 0, info, 0, 0⟩, st)
  if ra.2.2 || rb.2.2 then
    fin (rb.1.storeDirect r d t (nanMat d.rows d.n) xNan auxNan true) 9 0 0
  else if d.badInput a (if d.op = 6 then [] else bc) then
    fin (rb.1.storeDirect r d t (nanMat d.rows d.n) xNan auxNan false) 8 0 0
  else
    let o := directItem d.op d.n d.rows d.shift d.upper d.unitDiag a bc
    let s1 := (rb.1.engineCheck e fails b.addr).count64 (Reg.slvFeCntDivsqrt e) (o.divs * (1 + min fails 1))
    let s2 := s1.count64 (Reg.slvFeCntFma e) (o.fmas * (1 + min fails 1))
    let s3 := s2.storeDirect r d t o.f o.x o.aux (decide (2 ≤ fails))
    if 2 ≤ fails then fin s3 0xA 4 0 else fin s3 o.status (4 * min fails 1) o.info

/-! ## Iterative items (R197 to R206) -/

/-- How an iterative item starts and how far it goes: replay, x0 from X, FLAGS, the most iterations it may perform, and
a status it takes whatever it computes (R201, R204, R206). -/
structure IterPlan where
  notRun : Bool
  replay : Bool
  warm : Bool
  flags : Nat
  fuel : Nat
  status : Option Nat
  deriving DecidableEq, Repr

/-- The plan of item `t`: `given` is none where no deadline was signalled, and otherwise 0 for an item not evaluated at
iteration 0 and n + 1 for one that had performed n iterations. -/
def State.iterPlan (s : State) (k : Nat) (d : BDesc) (t tag : Nat) (given : Option Nat) : IterPlan :=
  let q := s.gload (keyReq k) (d.stat + 32 * t) 32
  let st := lef q.1 0 1
  let fl := lef q.1 1 1
  if d.iterRec then
    { notRun := st == 6, replay := true, warm := nf fl 0 1 == 1, flags := fl % 4 + 8, fuel := lef q.1 2 2,
      status := some st }
  else
    let match0 := !q.2 && lef q.1 16 8 == d.sig tag && (st == 0 || st == 5 || st == 4)
    let w := d.warm && match0
    { notRun := given == some 0, replay := false, warm := w,
      flags := if !d.warm then 0 else if match0 then 1 else 2,
      fuel := match given with
        | some n => min d.mrows (n - 1)
        | none => d.mrows
      status := none }

/-- The first row whose diagonal element is not positive. -/
def badDiag (n : Nat) (a : Mat) : Option Nat := (List.range n).find? fun i => !pos64 (a.at i i)

/-- Bounds that are NaN or crossed (R188). -/
def badBounds (lo hi : List Nat) : Bool := (List.zipWith (fun a b => !(d64 a).le (d64 b)) lo hi).any id

/-- The status of an item that went as far as it may. -/
def Iter.status (w : Iter) (p : IterPlan) : Nat := p.status.getD (w.st.getD 4)

/-- What an iterative item loaded: its TAG, plan, A (with b for REFINE), b, the warm iterate, the bounds, the factor with its
pivots, and whether a granule of them is poison. -/
structure IterIn where
  tag : Nat
  plan : IterPlan
  a : Mat
  b : List Nat
  x : List Nat
  lo : List Nat
  hi : List Nat
  f : Mat
  piv : List Nat
  poison : Bool
  deriving DecidableEq, Repr

/-- Load iterative item `t` (R201, R202, R206, R208). With ITER_REC its record is an input; under WARM a poisoned one is a
mismatch. -/
def State.loadIter (s : State) (k : Nat) (d : BDesc) (t : Nat) (given : Option Nat) : State × IterIn :=
  let r := keyReq k
  let n := d.n
  let qt := s.gload r (d.auxAt t) 8
  let st := if d.warm || d.iterRec then (s.gloadSt r (d.auxAt t) 8).gloadSt r (d.stat + 32 * t) 32 else s.gloadSt r (d.auxAt t) 8
  let tag := bytesNat qt.1
  let p := s.iterPlan k d t tag given
  let rec_ := d.iterRec && (s.gload r (d.stat + 32 * t) 32).2
  if p.notRun && !rec_ then (st, ⟨tag, p, [], [], [], [], [], [], [], false⟩) else
  let s1 := if p.flags / 2 % 2 = 1 ∧ !p.replay then st.count64 Reg.slvCntWarmIgnored 1 else st
  let ra := s1.readMat r (d.aAt t) d.lda d.rows d.cols d.rowSpan
  let rb := if d.hasB then ra.1.readMat r (d.bAt t) d.ldb n 1 fun _ => (0, 1) else (ra.1, [], false)
  let rx := if p.warm then rb.1.readMat r (d.xAt t) d.ldb n 1 fun _ => (0, 1) else (rb.1, List.replicate n [0], false)
  let rf := if d.hasF then rx.1.readMat r (d.fAt t) d.lda n n d.factorSpan else (rx.1, [], false)
  let more := if d.op = 9 ∨ (d.op = 8 ∧ d.fkind ≠ 0) then 0 else d.auxBytes - 64
  let qa := rf.1.gload r (d.auxAt t + 64) more
  (rf.1.gloadSt r (d.auxAt t + 64) more,
    { tag := tag, plan := p, a := ra.2.1, b := rb.2.1.map fun row => row.getD 0 0, x := rx.2.1.map fun row => row.getD 0 0,
      lo := (List.range n).map fun i => lef qa.1 (8 * i) 8, hi := (List.range n).map fun i => lef qa.1 (8 * n + 8 * i) 8,
      f := rf.2.1, piv := (List.range n).map fun i => lef qa.1 i 1,
      poison := qt.2 || rec_ || ra.2.2 || rb.2.2 || rx.2.2 || rf.2.2 || qa.2 })

/-- Iteration 0 of an item, and one iteration of it (R198 to R200). -/
def IterIn.start (i : IterIn) (d : BDesc) : Iter :=
  match d.op with
  | 8 => refineStart d.slices i.a (if i.plan.warm then i.x else factorSolve d.fkind d.n i.f i.piv (i.a.map fun row => row.getD d.n 0))
  | 9 => pcgStart d.n i.a i.b i.x
  | _ => pgsStart d.n i.a i.b i.lo i.hi i.x
def IterIn.step (i : IterIn) (d : BDesc) : Iter → Iter :=
  match d.op with
  | 8 => refineStep d.slices d.fkind d.n i.a i.f i.piv
  | 9 => pcgStep d.n i.a
  | _ => pgsStep d.n i.a i.b i.lo i.hi

/-- Is an element that the item reads not finite, or a pair of bounds bad (R188)? -/
def IterIn.bad (i : IterIn) (d : BDesc) : Bool :=
  d.badInput i.a ((if d.hasB then [i.b] else []) ++ if i.plan.warm then [i.x] else []) || (d.op == 10 && badBounds i.lo i.hi)

/-- The item as far as it goes. -/
def IterIn.result (i : IterIn) (d : BDesc) : Iter :=
  iterate (i.step d) d.tol d.mrows i.plan.replay i.plan.fuel ((i.start d).test d.tol d.mrows i.plan.replay)

/-- The tile tasks of a REFINE item, one for each evaluation (R200): the tile's counters, its held block where nothing else is
before them, and the mismatches of its check: one block recomputed where `fails` is 4, and one failed twice where it is 3
(log entry 17). -/
def State.refineTasks (s : State) (tile n sl times fails addr : Nat) : State :=
  let s1 := ((s.count64 (Reg.tnsCntTasks tile) times).count64 (Reg.tnsCntProducts tile)
    (times * (sl * (sl + 1) / 2) * ((n + 1) * n))).countFree (Reg.tnsCntBusy tile)
  let s2 := if (s1.runOf tile).isNone && (s1.queueOf tile).isEmpty then s1.setHeld tile none else s1
  if fails = 4 then s2.abftFault tile 1 addr
  else if fails = 3 then (s2.abftFault tile 2 addr).setReg (Reg.tnsLastErr tile) (BitVec.ofNat 64 addr)
  else s2

/-- What REFINE issues on its engine: an item with `solves` solutions of its factor and `evals` residual norms. -/
def State.refineCounts (s : State) (k n solves evals again : Nat) : State :=
  (s.count64 (Reg.slvFeCntFma k) (solves * (n * (n - 1)) * again)).count64 (Reg.slvFeCntDivsqrt k)
    (((if solves = 0 then 0 else n) + evals) * again)

/-- Store what loaded item `t` gives: X and its record (R197, R207). -/
def State.storeIter (s : State) (k : Nat) (b : Batch) (d : BDesc) (t fails : Nat) (i : IterIn) : State × Nat :=
  let r := keyReq k
  let n := d.n
  let p := i.plan
  let resid := (Config.noResid (d.stat + 32 * t) i.tag).toNat
  let bare (s : State) (st flags info : Nat) : State × Nat :=
    (s.itemEnd k b d t i.tag ⟨st, flags, 0, info, resid, 0⟩, st)
  let putX (s : State) (v : List Nat) (poison : Bool) : State := s.storeMat r (d.xAt t) d.ldb (v.map fun x => [x]) poison
  let full (v : List Nat) : List Nat := if d.op = 8 then v ++ [0xBFF0000000000000] else v
  let nanX := List.replicate d.xrows nan64
  if i.poison then bare (putX s nanX true) 9 p.flags 0
  else if p.notRun then bare s 6 (if p.replay then p.flags else 0) 0
  else if i.bad d then
    bare (putX (if d.op = 8 then s.storeMat r (d.fAt t) d.lda (nanMat n n) false else s) nanX false) 8 p.flags 0
  else match (if d.op = 8 then none else badDiag n i.a) with
    | some row => bare (putX s nanX false) 3 p.flags row
    | none =>
      let w := i.result d
      let s1 := if d.op = 8 then
          ((s.refineTasks (d.tiles % 65536 + t % (d.tiles / 65536)) n d.slices (w.it + 1) fails b.addr).refineCounts k n
            (w.it + bnat !p.warm) (w.it + 1) (1 + bnat (fails == 1 || fails == 2))).engineCheck k (if fails < 3 then fails else 0) b.addr
        else s
      if d.op = 8 ∧ fails = 3 then bare (putX s1 nanX true) 9 p.flags 0
      else if d.op = 8 ∧ fails = 2 then bare (putX s1 (full w.bx) true) 0xA (p.flags + 4) 0
      else
        let st := w.status p
        ((putX s1 (full w.bx) false).itemEnd k b d t i.tag
          ⟨st, p.flags + (if d.op = 8 ∧ fails = 1 then 4 else 0), w.it, 0, w.brho, w.bit⟩, st)

/-! ## Starting a share -/

/-- The items of a unit's share. -/
def BDesc.shareItems (d : BDesc) (k : Nat) : List Nat :=
  let u := (if 256 ≤ k then k - 256 else k) - d.unit0
  (List.range (nf d.items 0 24)).filter fun t => t % d.nunits == u

/-- Note how a batch's item ended. -/
def State.noteItem (s : State) (n st : Nat) : State :=
  match s.batchOf n with
  | some b => if st = 0 then s else s.setBatch n (some { b with notOk := true })
  | none => s

/-- A unit has finished its share. -/
def State.shareDone (s : State) (k n : Nat) : State :=
  match s.batchOf n with
  | some b => (s.setShare k none).setBatch n (some { b with left := b.left.filter fun j => j != k })
  | none => s.setShare k none

/-- Start the share of batch `n` on the unit of key `k`, taken from its queue. -/
def State.startShare (s : State) (k n : Nat) : State :=
  match s.batchOf n with
  | none => s
  | some b =>
    let d := bdescOf b.body
    let j := s.batchJudge d
    if j ≠ 0 then s.refuseBatch n b j
    else
      let items := d.shareItems k
      if items.isEmpty then s.shareDone k n else s.setShare k (some ⟨n, items, [], []⟩)

/-- The batch at the head of engine `e`'s queue, where it is of an operation and may start. -/
def State.engHead (s : State) (e op : Nat) : Option Nat :=
  match s.engQueue e with
  | (n, rel) :: _ =>
    match s.batchOf n with
    | some b =>
      let d := bdescOf b.body
      if d.op = op ∧ s.shareOf e = none ∧ s.isParked 2 e = false ∧ (rel || s.waitMet d.waitId d.waitCount) = true then some n
      else none
    | none => none
  | [] => none

/-- Start a share of a direct batch or of REFINE on an engine. -/
def State.batchOnEngine (s : State) (e op : Nat) : State :=
  match s.engHead e op with
  | some n => (s.setEngQueue e (s.engQueue e).tail).startShare e n
  | none => s

/-- Start a share of an iterative batch on a core. -/
def State.batchOnCore (s : State) (c op : Nat) : State :=
  match s.coreQueue c with
  | .share n rel :: q =>
    match s.batchOf n with
    | some b =>
      let d := bdescOf b.body
      if d.op = op ∧ s.coreBusy c = false ∧ s.isParked 1 c = false ∧ (rel || s.waitMet d.waitId d.waitCount) = true then
        (s.setCoreQueue c q).startShare (256 + c) n
      else s
    | none => s
  | _ => s

/-- BATCH_LU (R190). -/
def execBatchLu (e : Fin 32) (s : State) : Host.Outcome State Fault Refusal := .next (s.batchOnEngine e 1)
/-- BATCH_CHOL (R191). -/
def execBatchChol (e : Fin 32) (s : State) : Host.Outcome State Fault Refusal := .next (s.batchOnEngine e 2)
/-- BATCH_LDLT (R191). -/
def execBatchLdlt (e : Fin 32) (s : State) : Host.Outcome State Fault Refusal := .next (s.batchOnEngine e 3)
/-- BATCH_QR (R192). -/
def execBatchQr (e : Fin 32) (s : State) : Host.Outcome State Fault Refusal := .next (s.batchOnEngine e 4)
/-- BATCH_TRI (R193). -/
def execBatchTri (e : Fin 32) (s : State) : Host.Outcome State Fault Refusal := .next (s.batchOnEngine e 5)
/-- BATCH_INV (R193). -/
def execBatchInv (e : Fin 32) (s : State) : Host.Outcome State Fault Refusal := .next (s.batchOnEngine e 6)
/-- BATCH_REFINE (R200). -/
def execBatchRefine (e : Fin 32) (s : State) : Host.Outcome State Fault Refusal := .next (s.batchOnEngine e 8)
/-- BATCH_PCG (R198). -/
def execBatchPcg (c : Fin 256) (s : State) : Host.Outcome State Fault Refusal := .next (s.batchOnCore c 9)
/-- BATCH_PGS (R199). -/
def execBatchPgs (c : Fin 256) (s : State) : Host.Outcome State Fault Refusal := .next (s.batchOnCore c 10)

/-! ## The end of an item (R202, R204, R207) -/

/-- An item not run before the deadline: its operands are untouched and its record is written (R204). -/
def State.itemNotRun (s : State) (k : Nat) (b : Batch) (d : BDesc) (t : Nat) : State :=
  let q := if d.iterative then s.gload (keyReq k) (d.auxAt t) 8 else ([], false)
  let s1 := if d.iterative then s.gloadSt (keyReq k) (d.auxAt t) 8 else s
  s1.itemEnd k b d t (bytesNat q.1)
    ⟨6, 0, 0, 0, if d.iterative then (Config.noResid (d.stat + 32 * t) (bytesNat q.1)).toNat else 0, 0⟩

/-- Has the deadline of a batch's action been signalled, and does it bind its items: one that replays records goes on (R201,
R204)? -/
def State.deadlined (s : State) (b : Batch) : Bool :=
  s.dlineOf b.act && !((bdescOf b.body).iterative && (bdescOf b.body).iterRec)

/-- Item `t` of a share on an engine ends. With a deadline signalled, `iters` of 0 says that the item had not started (a direct
item) or was not evaluated at iteration 0, and n + 1 that it had performed n iterations. -/
def State.runItem (s : State) (k : Nat) (b : Batch) (n t iters fails : Nat) : State :=
  let d := bdescOf b.body
  if d.iterative then
    let l := s.loadIter k d t (if s.deadlined b then some iters else none)
    let r := l.1.storeIter k b d t fails l.2
    r.1.noteItem n r.2
  else if s.deadlined b && iters == 0 then (s.itemNotRun k b d t).noteItem n 6
  else
    let r := s.runDirect k b d t fails
    r.1.noteItem n r.2

/-- How many items make a core's group (R202). -/
def BDesc.groupSize (d : BDesc) : Nat := max 1 (524288 / d.footprint)

/-- How far the rounds of a group went for each of its items when a deadline stopped them: as far as for the first item, and for
none of the items after one that was a round behind (R202). `top` is the first item's count, `last` the one before. -/
def roundsOf (top : Nat) : Nat → List (Nat × Nat) → List (Nat × Nat)
  | _, [] => []
  | last, e :: es =>
    let n := max (top - 1) (min last e.2)
    (e.1, n) :: roundsOf top n es

/-- The items of a group with the rounds of each. -/
def groupRounds : List (Nat × Nat) → List (Nat × Nat)
  | [] => []
  | e :: es => roundsOf e.2 e.2 (e :: es)

/-- Run a group (R202): every item is loaded, then all run, and their results are stored in order once every one has ended. -/
def State.runGroup (s : State) (k : Nat) (b : Batch) (n : Nat) (ended : List (Nat × Nat)) : State :=
  let d := bdescOf b.body
  let es := groupRounds ended
  let l := mapN (fun s j =>
    let e := es.getD j (0, 0)
    s.loadIter k d e.1 (if s.deadlined b then some e.2 else none)) es.length 0 s
  (es.zip l.2).foldl (fun s e =>
    let r := s.storeIter k b d e.1.1 0 e.2
    r.1.noteItem n r.2) l.1

/-- An item of a core's group ends; the whole group is stored when its last item has ended (R202). -/
def State.groupItem (s : State) (k : Nat) (sh : Share) (b : Batch) (iters : Nat) : State :=
  let d := bdescOf b.body
  let fresh := sh.group.isEmpty
  let grp := if fresh then sh.items.take d.groupSize else sh.group
  let rest := if fresh then sh.items.drop d.groupSize else sh.items
  match grp with
  | [] => s.shareDone k sh.batch
  | t :: g =>
    let ended := sh.ended ++ [(t, iters)]
    if g.isEmpty then
      let s1 := s.runGroup k b sh.batch ended
      if rest.isEmpty then s1.shareDone k sh.batch else s1.setShare k (some ⟨sh.batch, rest, [], []⟩)
    else s.setShare k (some ⟨sh.batch, rest, g, ended⟩)

/-- SOLVER_ITEM_END (R207): the next item of the unit's share ends, once the operands it has at other nodes are there. -/
def execSolverItemEnd (u : SUnit) (iters : Nat) (checkFails : Nat) (s : State) : Host.Outcome State Fault Refusal :=
  let k := match u with
    | .core c => 256 + c.val
    | .engine e => e.val
  match s.shareOf k with
  | none => .next s
  | some sh =>
    match s.batchOf sh.batch with
    | none => .next s
    | some b =>
      if s.isParked (if 256 ≤ k then 1 else 2) (k % 256) then .next s
      else if 256 ≤ k then .next (s.whenDone (s.groupItem k sh b iters) (keyReq k))
      else match sh.items with
        | [] => .next (s.shareDone k sh.batch)
        | t :: rest =>
          let s1 := s.runItem k b sh.batch t iters checkFails
          .next (s.whenDone (if rest.isEmpty then s1.shareDone k sh.batch else s1.setShare k (some { sh with items := rest }))
            (keyReq k))

/-- BATCH_COMPLETE (R185): every share has finished and every store is performed and acknowledged. -/
def execBatchComplete (desc : Nat) (s : State) : Host.Outcome State Fault Refusal :=
  match s.batchOf desc with
  | some b =>
    if b.left.isEmpty && ((bdescOf b.body).unitKeys.all fun k => !s.unitOwes (keyReq k)) then
      .next ((s.setBatch desc none).batchEnd b (if b.notOk then 0x40 else 0))
    else .next s
  | none => .next s

/-! ## Deadlines (R41, R204) -/

/-- Every item of a queued share of a batch ends NOT_RUN; one whose TAGs another node holds ends so as it is started, once its unit
has them. -/
def State.flushShare (s : State) (k n : Nat) (b : Batch) : State :=
  let d := bdescOf b.body
  let s1 := (d.shareItems k).foldl (fun s t => (s.itemNotRun k b d t).noteItem n 6) (s.dropShares n [k])
  if s1.lacks (keyReq k) then s else
  match s1.batchOf n with
  | some b1 => s1.setBatch n (some { b1 with left := b1.left.filter fun j => j != k })
  | none => s1

/-- Has the unit of key `k` a share of batch `n` in its queue? -/
def State.queuedShare (s : State) (k n : Nat) : Bool :=
  if 256 ≤ k then (s.coreQueue (k - 256)).any fun e => match e with
    | .share m _ => m == n
    | .launch _ _ => false
  else (s.engQueue k).any fun e => e.1 == n

/-- A deadline reaches the queued shares of the batches of an action: they do not run. A batch that is refused, or whose
recorded iterations are replayed, is left (R186, R201). -/
def State.flushBatches (s : State) (act : Nat) : State :=
  s.batches.foldl (fun s e => match e.2 with
    | none => s
    | some b =>
      let d := bdescOf b.body
      if b.act ≠ act ∨ s.batchJudge d ≠ 0 ∨ (d.iterative && d.iterRec) = true then s
      else b.left.foldl (fun s k => if s.queuedShare k e.1 then s.flushShare k e.1 b else s) s) s

/-- DEADLINE_SIGNAL (R41, R204): once fabric time has reached the deadline less TIM_DEADLINE_LEAD, the deadline of an action is
signalled to its units. -/
def execDeadlineSignal (action : Nat) (s : State) : Host.Outcome State Fault Refusal :=
  let s1 := s.signalDeadline action
  .next (if s1.dlineOf action then s1.flushBatches action else s1)

/-- Launch the batches of an action; a deadline already signalled reaches them at once. -/
def State.launchBatches (s : State) (l : Launch) (inPleat : Bool) : State :=
  let s1 := launchDescs 128 0x41 State.enqueueBatch s.nextAct l.desc l.count 0 (s.startAct l inPleat)
  if s1.dlineOf s.nextAct then s1.flushBatches s.nextAct else s1

/-- ACTION_SOLVER_BATCH (R184). -/
def execActionSolverBatch (s : State) : Host.Outcome State Fault Refusal :=
  match s.takeLaunch 3 with
  | some (l, s1) => .next (s1.launchBatches l true)
  | none => .next s

end Sys2Proof.Machine
end

