-- ==== Sys2Proof/Machine/Dma.lean ====
section
/-! DEFINITION. DMA (R333 to R336). -/
namespace Sys2Proof.Machine

/-- A number of `n` bytes at an offset of a descriptor. -/
def at_ (b : List Byte) (off n : Nat) : Nat := bytesNat ((b.drop off).take n)

/-- The fields of a DMA body (Table 13-4). -/
def dmaSrc (b : List Byte) : Nat := at_ b 16 8
def dmaDst (b : List Byte) : Nat := at_ b 24 8
def dmaLen (b : List Byte) : Nat := at_ b 32 4
def dmaFill (b : List Byte) : Bool := at_ b 36 1 == 1
def dmaReport (b : List Byte) : Nat := at_ b 48 8
def dmaPattern (b : List Byte) : W64 := BitVec.ofNat 64 (at_ b 56 8)

/-- Do the source and destination ranges overlap (R334)? -/
def State.dmaOverlap (s : State) (b : List Byte) : Bool :=
  let x := s.canonAddr (dmaSrc b)
  let y := s.canonAddr (dmaDst b)
  x / 2 ^ 48 == y / 2 ^ 48 && decide (x < y + dmaLen b) && decide (y < x + dmaLen b)

/-- Does a DMA body break R334 or a reserved field? -/
def State.dmaMalformed (s : State) (b : List Byte) : Bool :=
  decide (1 < at_ b 36 1) || at_ b 4 4 != 0 || at_ b 39 1 != 0 || at_ b 42 6 != 0 || dmaLen b == 0 ||
    dmaReport b % 8 != 0 ||
    (if dmaFill b then dmaSrc b != 0
     else (!s.isLocal (dmaSrc b) && !s.isLocal (dmaDst b)) || s.dmaOverlap b)

/-- A new DMA waits for its counter. -/
def State.addDma (s : State) (act idx : Nat) (addr : Option Nat) (body : List Byte) : State :=
  { s with
    nextDma := s.nextDma + 1
    dmas := Tbl.set none s.dmas s.nextDma (some ⟨act, idx, addr, body, false, false, [], 0⟩) }

/-- A DMA descriptor of an action: malformed, its status is written; else it is launched (R333). -/
def State.enqueueDma (s : State) (act idx addr : Nat) (body : List Byte) : State :=
  if at_ body 0 3 ≠ 1 ∨ at_ body 8 8 ≠ 0 ∨ s.dmaMalformed body then
    (s.writeStatus hubReq (addr + 3) stActionInvalid).descDone act idx stActionInvalid 0
  else s.addDma act idx (some addr) body

/-- Launch the DMA descriptors of an action. -/
def State.launchDmas (s : State) (l : Launch) (inPleat : Bool) : State :=
  launchDescs 64 stActionInvalid State.enqueueDma s.nextAct l.desc l.count 0 (s.startAct l inPleat)

/-- Launch the DMA that a ring entry is. -/
def State.launchRingDma (s : State) (l : Launch) (inPleat : Bool) : State :=
  (s.startAct l inPleat).addDma s.nextAct 0 none l.body

/-- ACTION_DMA (R45). -/
def execActionDma (s : State) : Host.Outcome State Fault Refusal :=
  match s.takeLaunch 1 with
  | some (l, s1) => .next (s1.launchDmas l true)
  | none => .next s

/-! ## Running (R335, R336) -/

/-- The number of pieces of a DMA. -/
def dmaPieces (b : List Byte) : Nat := ceilDiv (devAddr (dmaDst b) + dmaLen b - dmaBase b) 256

/-- Piece `k`: its first destination address, and its length. -/
def dmaPiece (b : List Byte) (k : Nat) : Nat × Nat :=
  let d := devAddr (dmaDst b)
  let lo := max d (dmaBase b + 256 * k)
  (lo, min (d + dmaLen b) (dmaBase b + 256 * k + 256) - lo)

/-- The global source address of a destination address. -/
def dmaFrom (b : List Byte) (a : Nat) : Nat := dmaSrc b + (a - devAddr (dmaDst b))

/-- The first refused address of a piece's source in the package, none where it is remote or a fill. -/
def State.dmaSrcBad (s : State) (b : List Byte) (k : Nat) : Option Nat :=
  let p := dmaPiece b k
  let t := (s.loadTarget (dmaFrom b p.1)).1
  if dmaFill b then none
  else if s.isLocal t then firstRefused s.accessible (devAddr t) p.2
  else if remoteOk t then none else some (devAddr t)

/-- The first refused address of a piece's destination. -/
def State.dmaDstBad (s : State) (b : List Byte) (k : Nat) : Option Nat :=
  let p := dmaPiece b k
  if s.isLocal (dmaDst b) then firstRefused s.accessible p.1 p.2
  else if remoteOk (dmaDst b) then none else some p.1

/-- The bytes of a destination range: of the fill, or loaded from the source. -/
def State.dmaBytes (s : State) (r : Req) (b : List Byte) (a n : Nat) : State × List Byte × Bool :=
  if dmaFill b then (s, (List.range n).map fun i => BitVec.ofNat 8 (fld (dmaPattern b) (8 * ((a + i) % 8)) 8), false)
  else (s.gloadSt r (dmaFrom b a) n, s.gload r (dmaFrom b a) n)

/-- Move a piece to a local destination, or to one whose store is held (R286): failed pieces are written as poison where the
destination accepts stores. -/
def State.movePiece (s : State) (r : Req) (b : List Byte) (hostErrs : List Nat) (k : Nat) : State :=
  let p := dmaPiece b k
  let ga (a : Nat) : Nat := dmaDst b / 2 ^ 48 * 2 ^ 48 + a
  if (s.dmaDstBad b k).isSome then s
  else if (s.dmaSrcBad b k).isSome || hostErrs.contains k then s.gstore r (ga p.1) (List.replicate p.2 0) true
  else (sectors p.1 p.2).foldl (fun s x =>
    let q := s.dmaBytes r b x.1 x.2.2
    q.1.gstore r (ga x.1) q.2.1 q.2.2) s

/-- The pieces of a DMA that fail at its start. -/
def State.dmaFailed (s : State) (b : List Byte) (hostErrs : List Nat) : List Nat :=
  (List.range (dmaPieces b)).filter fun k => (s.dmaSrcBad b k).isSome || (s.dmaDstBad b k).isSome || hostErrs.contains k

/-- The first refused address of a DMA that R23 refuses. -/
def State.dmaRefused (s : State) (b : List Byte) : Option Nat :=
  (List.range (dmaPieces b)).findSome? fun k => match s.dmaSrcBad b k with
    | some x => some x
    | none => s.dmaDstBad b k

/-- One address event for a DMA that R23 refuses, with its first refused address. -/
def State.dmaEvent (s : State) (b : List Byte) : State :=
  match s.dmaRefused b with
  | some x => s.addressEvent ⟨0, 0⟩ x
  | none => s

/-- The chunks of a DMA: the parts of its destination in one page, as address and length. -/
def dmaChunks (b : List Byte) : List (Nat × Nat) :=
  let d := devAddr (dmaDst b)
  let n := dmaLen b
  (List.range ((d + n - 1) / 4096 - d / 4096 + 1)).map fun i =>
    let lo := max d ((d / 4096 + i) * 4096)
    (lo, min (d + n) ((d / 4096 + i) * 4096 + 4096) - lo)

/-- The failed pieces of a DMA that lie in a page, by number in the page. -/
def failedIn (b : List Byte) (failed : List Nat) (a n : Nat) : List Nat :=
  (pagePieces a n).filter fun k => failed.contains ((a / 4096 * 4096 + 256 * k - dmaBase b) / 256)

/-- A chunk of a DMA to be sent to another node. -/
def dmaPush (id : Nat) (b : List Byte) (failed : List Nat) (tag : Nat) (p : Nat × Nat) : ChunkTx :=
  { dst := dmaDst b / 2 ^ 48 % 65536, tag := tag, read := false, src := dmaFrom b p.1, addr := p.1, len := p.2,
    owner := some id, fill := if dmaFill b then some (dmaPattern b) else none, bad := failedIn b failed p.1 p.2,
    pocket := false, replica := false, seq := 0, since := 0 }

/-- The chunks that a DMA waits for are one more. -/
def State.dmaChunk (s : State) (id : Nat) : State :=
  match Tbl.get none s.dmas id with
  | none => s
  | some d => { s with dmas := Tbl.set none s.dmas id (some { d with chunks := d.chunks + 1 }) }

/-- Is a DMA's store to a chunk of its destination held: its page is replicated, or an earlier store of it is held (R286)? -/
def State.dmaHeld (s : State) (id : Nat) (b : List Byte) (p : Nat × Nat) : Bool :=
  s.replStore (dmaDst b / 2 ^ 48 * 2 ^ 48 + p.1) || s.replHeld.any fun h => h.req == dmaReq id

/-- Send one chunk of a DMA to another node; where its stores are held, piece by piece. -/
def State.dmaSend (id : Nat) (b : List Byte) (failed : List Nat) (s : State) (p : Nat × Nat) : State :=
  if s.dmaHeld id b p then
    (pagePieces p.1 p.2).foldl (fun s k =>
      s.movePiece (dmaReq id) b failed ((p.1 / 4096 * 4096 + 256 * k - dmaBase b) / 256)) s
  else
    let t := s.takeTag (dmaDst b / 2 ^ 48 % 65536)
    (t.2.dmaChunk id).openChunk (dmaReq id) (dmaPush id b failed t.1 p)

/-- Ask another node for one chunk of a DMA. -/
def State.dmaAsk (id : Nat) (b : List Byte) (s : State) (p : Nat × Nat) : State :=
  let t := s.loadTarget (dmaFrom b p.1)
  let dst := t.1 / 2 ^ 48 % 65536
  let g := s.takeTag dst
  let s1 := if t.2 then g.2.count64 (Reg.fabCnt 10) 1 else g.2
  (s1.dmaChunk id).openChunk (dmaReq id)
    { dst := dst, tag := g.1, read := true, src := t.1, addr := p.1, len := p.2, owner := some id, fill := none, bad := [],
      pocket := false, replica := t.2, seq := 0, since := 0 }

/-- Run a DMA: within the package its pieces are moved, to or from another node its chunks are sent or asked for. -/
def State.runDma (s : State) (id : Nat) (d : Dma) (hostErrs : List Nat) : State :=
  let b := d.body
  let failed := s.dmaFailed b hostErrs
  let ask := !dmaFill b && !s.isLocal (s.loadTarget (dmaSrc b)).1 && remoteOk (s.loadTarget (dmaSrc b)).1
  let away := !s.isLocal (dmaDst b)
  let s1 := s.dmaEvent b
  let s2 := { s1 with dmas := Tbl.set none s1.dmas id (some { d with running := true, failed := failed }) }
  if away then (if remoteOk (dmaDst b) then (dmaChunks b).foldl (State.dmaSend id b failed) s2 else s2)
  else if ask then (dmaChunks b).foldl (State.dmaAsk id b) s2
  else (List.range (dmaPieces b)).foldl (fun s k => s.movePiece (dmaReq id) b hostErrs k) s2

/-- DMA_START (R335): `hostErrs` are the pieces that a host access failed with an error (R320). One whose source has lines that
are not free waits for them (R252, R260, R322). -/
def execDmaStart (id : Nat) (hostErrs : List Nat) (s : State) : Host.Outcome State Fault Refusal :=
  match Tbl.get none s.dmas id with
  | none => .next s
  | some d =>
    if d.running ∨ (d.released = false ∧ s.waitMet (at_ d.body 37 1) (at_ d.body 40 2) = false) then .next s
    else
      let errs := hostErrs.filter fun k => decide (k < dmaPieces d.body)
      let s1 := s.runDma id d errs
      .next (s.whenDone (if errs = [] then s1 else s1.event 0 Reg.hubEvent 4 none none) (dmaReq id))

/-- The failure bitmap of a DMA, in whole words of u64 (R336). -/
def dmaBitmap (b : List Byte) (failed : List Nat) : List Byte :=
  natBytes (8 * ceilDiv (dmaPieces b) 64) (failed.foldl (fun m k => m + 2 ^ k) 0)

/-- The least of a list of numbers. -/
def least (l : List Nat) : Nat := match l with
  | [] => 0
  | x :: xs => xs.foldl min x

/-- Write the report of a DMA. One that R23 refuses is lost, with its address event where the descriptor has logged none:
a descriptor logs one (R336; log entry 58). -/
def State.writeReport (s : State) (id : Nat) (b : List Byte) (bits : List Byte) : State :=
  let ga := dmaReport b
  let refused := if s.isLocal ga then (firstRefused s.accessible (devAddr ga) bits.length).isSome else !remoteOk ga
  if refused && (s.dmaRefused b).isSome then s else s.gstore (dmaReq id) ga bits false

/-- A DMA is over (R335, R336): its report, its signal, then its status. -/
def State.endDma (s : State) (id : Nat) (d : Dma) : State :=
  let b := d.body
  let n := d.failed.length
  let st := if n = 0 then 0 else stPartial
  let lost := (d.failed.map fun k => (dmaPiece b k).2).foldl (· + ·) 0
  let s0 := { s with dmas := Tbl.set none s.dmas id none }
  let s1 := s0.count64 (Reg.hubCnt 1) (dmaLen b - lost)
  let s2 := if n = 0 then s1 else s1.count64 (Reg.hubCnt 2) 1
  let s3 := if n = 0 ∨ dmaReport b = 0 then s2 else s2.writeReport id b (dmaBitmap b d.failed)
  let s4 := s3.signal (at_ b 38 1)
  match d.addr with
  | some a => (s4.writeStatus hubReq (a + 3) st).descDone d.act d.idx st n
  | none => s4.descDone d.act (if n = 0 then 0 else 256 * least d.failed) st n

/-- DMA_COMPLETE (R336): once every piece is written or failed and its stores are performed and acknowledged. -/
def execDmaComplete (id : Nat) (s : State) : Host.Outcome State Fault Refusal :=
  match Tbl.get none s.dmas id with
  | none => .next s
  | some d => if d.running = false ∨ d.chunks ≠ 0 ∨ s.unitOwes (dmaReq id) then .next s else .next (s.endDma id d)

end Sys2Proof.Machine
end

