-- ==== Sys2Proof/Machine/Collective.lean ====
section
/-! DEFINITION. The collective engine (chapter 12). -/
namespace Sys2Proof.Machine

/-! ## Groups (R290) -/

/-- An event of the collective engine: the group and the sequence number. -/
def State.colEv (s : State) (b group : Nat) (seq : Option Nat) : State := s.event 8 Reg.colEvent b group seq

def State.grpSize (s : State) (g : Nat) : Nat := s.regF (Reg.colGSize g) 0 16
def State.grpRank (s : State) (g : Nat) : Nat := s.regF (Reg.colGSize g) 16 16
def State.grpValid (s : State) (g : Nat) : Bool := s.regB (Reg.colGCfg g) 0
def State.grpChan (s : State) (g : Nat) : Nat := s.regF (Reg.colGCfg g) 1 4

/-- The running collectives. -/
def State.colRuns (s : State) : List CollRun := s.colRun.filterMap fun p => p.2

/-- Is a collective of the group queued or running? -/
def State.grpBusy (s : State) (g : Nat) : Bool :=
  (s.colRuns.any fun r => r.group == g) || s.colQ.any fun p => p.2.any fun r => colGroup r.body == g

/-- A list of u16 node numbers in memory. -/
def State.nodeList (s : State) (a n : Nat) : List Nat := (List.range n).map fun i => s.num (a + 2 * i) 2

/-- Is a group refused (R290)? -/
def State.grpRefused (s : State) (g : Nat) (role : Bool) (members backups : List Nat) : Bool :=
  let n := members.length
  let own := if role then backups.getD (s.grpRank g) 0xFFFF else members.getD (s.grpRank g) 0xFFFF
  decide (n = 0) || decide (49152 < n) || decide (members.eraseDups.length ≠ n) || members.contains 0xFFFF ||
    (backups.any fun x => x != 0xFFFF && members.contains x) || decide (n ≤ s.grpRank g) || own != s.node ||
    decide (11264 < (s.reg Reg.colRsvTotal).toNat + s.grpRsv g)

/-- A write to COL_G_CFG (R290). -/
def State.grpCfgWrite (s : State) (g : Nat) (v : W64) : State :=
  if s.grpValid g then
    (if bit v 0 then s else if s.grpBusy g then { s with colClear := s.colClear ++ [g] } else s.grpClear g)
  else
    let s1 := s.plainWrite (Reg.colGCfg g) (setBit v 0 false)
    if bit v 0 = false then s1
    else
      let n := s1.grpSize g
      let la := (s1.reg (Reg.colGList g)).toNat
      let ba := (s1.reg (Reg.colGBackup g)).toNat
      let members := s1.nodeList la n
      let backups := if ba = 0 then [] else s1.nodeList ba n
      let s2 := if ba = 0 then s1.loadEvent ⟨8, g⟩ la (2 * n) else (s1.loadEvent ⟨8, g⟩ la (2 * n)).loadEvent ⟨8, g⟩ ba (2 * n)
      let poison := (s1.load la (2 * n)).2 || (ba != 0 && (s1.load ba (2 * n)).2)
      if poison then (s2.colEv 8 g none).poisonKill g la
      else if s1.grpRefused g (bit v 5) members backups then s2.colEv 8 g none
      else
        let t := (s2.reg Reg.colRsvTotal).toNat + s2.grpRsv g
        (({ s2 with colLists := Tbl.set ([], []) s2.colLists g (members, backups) }.setReg Reg.colRsvTotal
          (BitVec.ofNat 64 t)).setRegB (Reg.colGSeq g) 16 false).setRegB (Reg.colGCfg g) 0 true

/-- GROUP_VALID_SET (R290). -/
def execGroupValidSet (g : Fin 256) (v : BitVec 32) (s : State) : Host.Outcome State Fault Refusal :=
  .next (s.bar (Reg.colGCfg g) fun s => s.grpCfgWrite g (v.zeroExtend 64))
/-- GROUP_VALID_CLEAR (R290). -/
def execGroupValidClear (g : Fin 256) (v : BitVec 32) (s : State) : Host.Outcome State Fault Refusal :=
  .next (s.bar (Reg.colGCfg g) fun s => s.grpCfgWrite g (v.zeroExtend 64))
/-- COL_CFG_LOCK (R317). -/
def execColCfgLock (v : BitVec 32) (s : State) : Host.Outcome State Fault Refusal :=
  .next (s.bar Reg.colCfg fun s => s.plainWrite Reg.colCfg (v.zeroExtend 64))

/-! ## Launching (R291) -/

/-- A launched collective joins the queue of its group's channel. The first 256 are the channel's own; the others wait in order in
the launch engine (R291). -/
def State.enqueueColl (s : State) (act idx addr : Nat) (body : List Byte) : State :=
  let ch := s.grpChan (colGroup body)
  { s with colQ := Tbl.set [] s.colQ ch (Tbl.get [] s.colQ ch ++ [⟨act, idx, addr, body, false⟩]) }

/-- Launch the collectives of an action. -/
def State.launchColls (s : State) (l : Launch) (inPleat : Bool) : State :=
  launchDescs 64 0x50 State.enqueueColl s.nextAct l.desc l.count 0 (s.startAct l inPleat)

/-- ACTION_COLLECTIVE_START (R291). -/
def execActionCollectiveStart (s : State) : Host.Outcome State Fault Refusal :=
  match s.takeLaunch 5 with
  | some (l, s1) => .next (s1.launchColls l true)
  | none => .next s

/-! ## Nodes and messages (R299) -/

/-- Header bytes 10 to 15 of a collective flit: group, step and chunk. -/
def colHead (group step chunk : Nat) : Nat := group + step * 2 ^ 8 + chunk * 2 ^ 21

/-- The head of a received flit. -/
def flitHead (f : Flit) : Nat := f.seq.toNat + f.addr.toNat * 4096

/-- Send a collective flit. -/
def State.colSend (s : State) (dst typ vc : Nat) (last : Bool) (seq head : Nat) (words : List FWord) (trailer : Nat) :
    State := s.emit (s.mkFlit dst typ vc last seq (head % 4096) false false (32 * (head / 4096)) words trailer)

/-- Send COLL_CTRL. -/
def State.colCtrl (s : State) (dst group seq step chunk : Nat) (words : List FWord) (trailer : Nat) : State :=
  s.colSend dst 0x11 4 true seq (colHead group step chunk) words trailer

/-- The backup of a rank. -/
def CollRun.backupOf (r : CollRun) (rank : Nat) : Option Nat :=
  match r.backups[rank]? with
  | some x => if x = 0xFFFF then none else some x
  | none => none

/-- The primary node of a rank. -/
def CollRun.primary (r : CollRun) (rank : Nat) : Nat := r.members.getD rank 0xFFFF

/-- The number of the step in which a substituted primary takes its destination (R312; log entry 22). -/
def takeNo : Nat := 0xFFF

/-- The nodes that chunks of a step from a rank are expected of: the primary while it is not replaced, and its backup where it
sends: with shadow compare, or once it was asked to (R311 to R313). -/
def CollRun.sourcesOf (r : CollRun) (step rank : Nat) : List Nat :=
  if step = takeNo then (r.backupOf rank).toList
  else (if r.subst.contains rank then [] else [r.primary rank]) ++
    (if r.shadow || r.subst.contains rank then (r.backupOf rank).toList else [])

/-- The place of a step in the order of steps: the exponent reduction goes first (R304). -/
def stepPlace (no : Nat) : Nat := if 4096 ≤ no then no - 4096 else no + 4096

/-- The nodes that a chunk for a rank goes to (R311, R312). -/
def CollRun.nodesOf (r : CollRun) (rank : Nat) : List Nat :=
  (if r.subst.contains rank then [] else [r.primary rank]) ++ (r.backupOf rank).toList

/-- The rank a node sends for, and whether it is a backup. -/
def CollRun.rankOf (r : CollRun) (node : Nat) : Option (Nat × Bool) :=
  match r.members.findIdx? fun x => x == node with
  | some i => some (i, false)
  | none => (r.backups.findIdx? fun x => x == node).map fun i => (i, true)

/-- ABORT to every other node of the group (R294, R297). -/
def State.abortGroup (s : State) (g seq status : Nat) : State :=
  let l := Tbl.get ([], []) s.colLists g
  ((l.1 ++ l.2).filter fun x => x != 0xFFFF && x != s.node).foldl
    (fun s n => s.colCtrl n g seq 0 0 [] (3 + status * 256)) s

/-- The bytes of an element on the wire in a step. -/
def CollRun.wire (r : CollRun) (st : CollStep) : Nat :=
  if 4096 ≤ st.no then 2
  else if st.kind = .reduce ∧ r.binned then 8 * foldCount (colDtype r.ref.body)
  else if colReduces r.ref.body ∧ colDtype r.ref.body = 0x1F then 20
  else colWidth (colDtype r.ref.body)

/-- The chunks of an exchange in a step. -/
def CollRun.chunksOf (r : CollRun) (st : CollStep) (x : Xfer) : List (Nat × Nat) := rangeChunks (r.wire st) x.rngs

/-! ## Slots and credits (R298) -/

/-- Slots of the collective buffer that a group's receptions hold. -/
def State.grpSlots (s : State) (g : Nat) : Nat := ((s.colRuns.filter fun r => r.group == g).map fun r => r.slots.length).foldl (· + ·) 0

/-- Slots that a group may still be given: of its reservation, then of the pool. -/
def State.slotsFree (s : State) (g : Nat) : Nat :=
  let used := s.grpSlots g
  let excess := ((s.colRuns.map fun r => r.group).eraseDups.map fun k => s.grpSlots k - s.grpRsv k).foldl (· + ·) 0
  (s.grpRsv g - used) + (16384 - 1024 - (s.reg Reg.colRsvTotal).toNat - excess)

def State.runOn (s : State) (ch : Nat) : Option CollRun := Tbl.get none s.colRun ch
def State.setRunOn (s : State) (ch : Nat) (r : Option CollRun) : State := { s with colRun := Tbl.set none s.colRun ch r }

/-- Grant the chunks that the present step of a collective expects, as far as slots are free; `n` bounds the grants. Each slot is
held for its chunk (node, step, chunk). -/
def grantWant (ch : Nat) : Nat → State → State
  | 0, s => s
  | n + 1, s => match s.runOn ch with
    | none => s
    | some r => match r.want with
      | [] => s
      | w :: ws =>
        let k := min w.2.2.2 (s.slotsFree r.group)
        if k = 0 then s
        else
          let rest := if k = w.2.2.2 then ws else (w.1, w.2.1, w.2.2.1 + k, w.2.2.2 - k) :: ws
          grantWant ch n ((s.colCtrl w.1 r.group r.seq w.2.1 w.2.2.1 [] (1 + k * 256)).setRunOn ch
            (some { r with slots := r.slots ++ (upFrom w.2.2.1 k).map (fun c => (w.1, w.2.1, c)), want := rest }))

/-- May a chunk be sent: its peer granted it? -/
def State.credited (s : State) (c : CollTx) : Bool :=
  s.colCredits.any fun k => k.node == c.dst && k.group == c.group && k.seq == c.seq && k.step == c.step &&
    decide (k.first ≤ c.chunk) && decide (c.chunk < k.first + k.count)

/-- The flits of a chunk (R307), to its receiver or to the relay it goes through (R314). -/
def State.putChunk (s : State) (c : CollTx) : State :=
  let m := max 1 (ceilDiv c.words.length 6)
  let data := (c.words.flatMap fun w => granuleBytes w.1).take c.len
  let s1 := foldN m s fun s i =>
    let last := i + 1 == m
    s.colSend (c.via.getD c.dst) 0x10 3 last c.seq (colHead c.group c.step c.chunk)
      (((c.words.drop (6 * i)).take 6).map fun w => fword w.1 w.2) (if last then crc64 data else 0)
  let s2 := if c.via.isSome then s1.count64 (Reg.colCnt 11) 1 else s1
  s2.count64 (Reg.colCnt 1) c.len

/-- Send the chunks that have a credit and were not sent. -/
def State.pumpColl (s : State) : State :=
  s.colTx.foldl (fun s c =>
    if c.sent = false ∧ s.credited c then
      let l := s.colTx.map fun x => if x = c then { x with sent := true } else x
      { s with colTx := l }.putChunk c
    else s) s

/-! ## Chunks of a collective -/

/-- The words of elements of `wb` bytes. -/
def packWords (wb : Nat) (els : List (Nat × Bool)) : List (Granule × Bool) :=
  let v := els.foldr (fun e a => e.1 % 2 ^ (8 * wb) + 2 ^ (8 * wb) * a) 0
  (List.range (ceilDiv (wb * els.length) 32)).map fun w =>
    (BitVec.ofNat 256 (v / 2 ^ (256 * w)), (els.zipIdx.any fun e => e.1.2 && decide (wb * e.2 < 32 * w + 32) &&
      decide (32 * w < wb * e.2 + wb)))

/-- The elements that words hold. -/
def unpackWords (wb n : Nat) (ws : List (Granule × Bool)) : List (Nat × Bool) :=
  let v := ws.foldr (fun w a => w.1.toNat + 2 ^ 256 * a) 0
  (List.range n).map fun i =>
    (v / 2 ^ (8 * wb * i) % 2 ^ (8 * wb), ((ws.drop (wb * i / 32)).take ((wb * i + wb - 1) / 32 - wb * i / 32 + 1)).any fun w => w.2)

/-- Elements of the exchange vector. -/
def CollRun.els (r : CollRun) (lo n : Nat) : List (Nat × Bool) := (upFrom lo n).map fun i => Tbl.get (0, false) r.acc i

/-- Put elements in the exchange vector. -/
def CollRun.putEls (r : CollRun) (lo : Nat) (es : List (Nat × Bool)) : CollRun :=
  { r with acc := (es.zipIdx).foldl (fun t e => Tbl.set (0, false) t (lo + e.2) e.1) r.acc }

/-- The chunks that a step sends to a rank, for each of its nodes. -/
def CollRun.outgoing (r : CollRun) (st : CollStep) (x : Xfer) : List CollTx :=
  let wb := r.wire st
  (r.nodesOf x.peer).flatMap fun node =>
    (r.chunksOf st x).zipIdx.map fun c =>
      { dst := node, group := r.group, seq := r.seq, step := st.no, chunk := c.2,
        words := packWords wb (r.els c.1.1 c.1.2), len := wb * c.1.2, sent := false, via := none }

/-- A step begins: its chunks are sent or, by a backup that was not asked, held; and its receptions are granted. -/
def State.enterStep (s : State) (ch : Nat) (r : CollRun) (st : CollStep) : State :=
  let out := if r.gone then [] else st.sends.flatMap (r.outgoing st)
  let hold (c : CollTx) : Bool := r.role && !r.shadow &&
    !(r.released.any fun a => a.1 == c.dst && decide (stepPlace a.2 ≤ stepPlace c.step))
  let want := st.recvs.flatMap fun x =>
    let n := (r.chunksOf st x).length
    (r.sourcesOf st.no x.peer).map fun node => (node, st.no, 0, n)
  let r1 := { r with held := r.held ++ out.filter hold, want := r.want ++ want, doneAt := [], copied := [], late := [],
                     part := [], since := s.ft }
  let s1 := { s with colTx := s.colTx ++ out.filter fun c => !hold c }.setRunOn ch (some r1)
  (grantWant ch (want.length + r.want.length + 1) s1).pumpColl

/-- A received chunk of a step from a rank: the primary's where it is present, else the backup's (R312). -/
def State.chunkFrom (s : State) (r : CollRun) (step rank chunk : Nat) : Option CollChunk :=
  let at_ (node : Nat) : Option CollChunk := s.colRx.find? fun c =>
    c.src == node && c.group == r.group && c.seq == r.seq && c.step == step && c.chunk == chunk && c.data.isSome
  match at_ (r.primary rank) with
  | some c => some c
  | none => match r.backupOf rank with
    | some b => at_ b
    | none => none

/-- Slots return, of chunks that were used or came too late to be, and what waits for slots is granted (R298). -/
def State.freeSlots (s : State) (ch : Nat) (l : List (Nat × Nat × Nat)) : State :=
  match s.runOn ch with
  | none => s
  | some r => grantWant ch (r.want.length + 1)
      (s.setRunOn ch (some { r with slots := r.slots.filter fun k => !l.contains k }))

/-- The slots of a used chunk of a rank: of the copies that have arrived. -/
def State.slotsOf (s : State) (r : CollRun) (step rank chunk : Nat) : List (Nat × Nat × Nat) :=
  ((r.primary rank :: (r.backupOf rank).toList).filter fun node => s.colRx.any fun c =>
    c.src == node && c.group == r.group && c.seq == r.seq && c.step == step && c.chunk == chunk && c.data.isSome).map
      fun node => (node, step, chunk)

/-- Copy the chunks of a gather step that have arrived. -/
def State.copyChunks (s : State) (ch : Nat) (st : CollStep) : State :=
  st.recvs.foldl (fun s x =>
    match s.runOn ch with
    | none => s
    | some r => (r.chunksOf st x).zipIdx.foldl (fun s c =>
        match s.runOn ch with
        | none => s
        | some r =>
          if r.copied.contains (x.peer, c.2) then s
          else match s.chunkFrom r st.no x.peer c.2 with
            | none => s
            | some k =>
              let r1 := (r.putEls c.1.1 (unpackWords (r.wire st) c.1.2 (k.data.getD []))).copied
              let r2 := { r.putEls c.1.1 (unpackWords (r.wire st) c.1.2 (k.data.getD [])) with copied := r1 ++ [(x.peer, c.2)] }
              (s.setRunOn ch (some r2)).freeSlots ch (s.slotsOf r st.no x.peer c.2)) s) s

/-- Is a step finished? -/
def CollRun.stepDone (r : CollRun) (st : CollStep) : Bool :=
  match st.kind with
  | .reduce => st.recvs.all fun x => (r.chunksOf st x).all fun c => r.doneAt.contains c.1
  | .gather => st.recvs.all fun x => (r.chunksOf st x).zipIdx.all fun c => r.copied.contains (x.peer, c.2)
  | _ => true

/-! ## The package's own steps -/

/-- The issuer of a collective's accesses. -/
def colReq (ch : Nat) : Req := ⟨8, ch⟩

/-- Source element `e` of buffer `b`: its encoding and whether it is poison. -/
def State.srcEl (s : State) (ch : Nat) (body : List Byte) (b e : Nat) : Nat × Bool :=
  let w := colWidth (colDtype body)
  let q := s.gload (colReq ch) (colSrc body + b * colStride body + e * w) w
  (bytesNat q.1, q.2)

/-- How many source buffers a member reads, and the elements of each (Table 12-3). -/
def srcShape (body : List Byte) (n rank : Nat) : Nat × Nat :=
  match colOp body with
  | 4 => (if rank = colRoot body then 1 else 0, colCount body)
  | 6 => (1, n * colCount body)
  | 3 => (1, colCount body)
  | _ => (colNsrc body, colCount body)

/-- The state after the source buffers are read, whole, as the collective starts (log entry 22): an address event for a buffer that
is refused (R23), and what the reads wait for. -/
def State.readSources (s : State) (ch : Nat) (body : List Byte) (n rank : Nat) : State :=
  let p := srcShape body n rank
  (List.range p.1).foldl (fun s b =>
    s.gloadSt (colReq ch) (colSrc body + b * colStride body) (colWidth (colDtype body) * p.2)) s

/-- The check outcome of the member's own additions of the chunk of `k` elements that holds element `e` (R308). -/
def CollRun.ownMism (r : CollRun) (k e : Nat) : Nat :=
  if colNsrc r.ref.body ≤ 1 then 0
  else ((r.sums.find? fun c => c.elem / k == e / k).map fun c => c.mism).getD 0

/-- Elements of `wb` bytes in a chunk. -/
def chunkEls (wb : Nat) : Nat := 4096 / wb

/-- The member's contribution to element `e`: the left fold of its buffers (R302), and whether it overflowed; poison where its
addition failed its check twice (R308). -/
def State.contribution (s : State) (ch : Nat) (r : CollRun) (e : Nat) : (Nat × Bool) × Bool :=
  let body := r.ref.body
  let el (b : Nat) : Nat × Bool :=
    let x := s.srcEl ch body b e
    (if colDtype body = 0x1F then widePartial x.1 else x.1, x.2)
  let bad := decide (2 ≤ r.ownMism (chunkEls (colWidth (colDtype body))) e)
  (upFrom 1 (colNsrc body - 1)).foldl (fun a b =>
    let y := el b
    let c := combineEl (colDtype body) (colRed body) a.1.1 y.1
    ((c.1, a.1.2 || y.2), a.2 || c.2)) (((el 0).1, (el 0).2 || bad), false)

/-- The elements of block `k` of a binned collective. -/
def binEls (count k : Nat) : List Nat := upFrom (binBlock * k) (min binBlock (count - binBlock * k))

/-- Source element `e` of buffer `b` of a binned sum, as it was read. -/
def CollRun.rawEl (r : CollRun) (b e : Nat) : Nat × Bool := Tbl.get (0, false) r.raw (b * colCount r.ref.body + e)

/-- The source elements of a binned sum. -/
def State.rawSources (s : State) (ch : Nat) (body : List Byte) : Tbl (Nat × Bool) :=
  (List.range (colNsrc body)).foldl (fun t b => (List.range (colCount body)).foldl (fun t e =>
    Tbl.set (0, false) t (b * colCount body + e) (s.srcEl ch body b e)) t) []

/-- The exponent of block `k` over the member's buffers, and its poison (R304). -/
def CollRun.blockExp (r : CollRun) (f : Fmt) (k : Nat) : Nat × Bool :=
  let q := (binEls (colCount r.ref.body) k).foldl (fun (a : Int × Bool) e =>
    (List.range (colNsrc r.ref.body)).foldl (fun a b =>
      let y := r.rawEl b e
      (max a.1 (binExp f y.1), a.2 || y.2)) a) (-32768, false)
  (unsigned 16 q.1, q.2)

/-- What a collective exchanges first: its contributions, its block exponents where it is binned, or its own data. -/
def State.firstVector (s : State) (ch : Nat) (r : CollRun) : CollRun :=
  let b := r.ref.body
  let n := r.members.length
  let c := colCount b
  if r.binned then match colFmt (colDtype b) with
    | some f =>
      let r1 := { r with raw := s.rawSources ch b }
      r1.putEls 0 ((List.range (ceilDiv c binBlock)).map (r1.blockExp f))
    | none => r
  else if colReduces b then
    let xs := (List.range c).map (s.contribution ch r)
    { r.putEls 0 (xs.map fun x => x.1) with hot := (xs.zipIdx.filter fun x => x.1.2).map fun x => x.2 }
  else match colOp b with
    | 3 => r.putEls (r.rank * c) ((List.range c).map (s.srcEl ch b 0))
    | 4 => if r.rank = colRoot b then r.putEls 0 ((List.range c).map (s.srcEl ch b 0)) else r
    | _ => (r.putEls (n * c) ((List.range (n * c)).map (s.srcEl ch b 0))).putEls (r.rank * c)
        ((upFrom (r.rank * c) c).map (s.srcEl ch b 0))

/-- The exponents are known: the exchange vector becomes the folds of the contributions (R305); poison where their additions
failed their check twice (R308). -/
def CollRun.makeFolds (r : CollRun) : CollRun :=
  let b := r.ref.body
  let nf := foldCount (colDtype b)
  match colFmt (colDtype b) with
  | none => r
  | some f =>
    let one (e : Nat) : (Nat × Bool) × Nat :=
      let x := Tbl.get (0, false) r.acc (e / binBlock)
      let em := signed 16 x.1
      (List.range (colNsrc b)).foldl (fun a k =>
        let y := r.rawEl k e
        let q := foldsOf f nf em y.1
        ((addFolds nf a.1.1 q.1, a.1.2 || y.2), a.2 + bnat q.2)) ((0, x.2 || decide (2 ≤ r.ownMism (chunkEls (8 * nf)) e)), 0)
    let xs := (List.range (colCount b)).map one
    let r1 := { r with emax := r.acc, acc := [], inexact := r.inexact + (xs.map Prod.snd).foldl (· + ·) 0 }
    r1.putEls 0 (xs.map Prod.fst)

/-- The addition of chunk `k` failed its check `mism` times (R308): a second time its result is poison. -/
def State.addFailed (s : State) (r : CollRun) (k mism : Nat) : State :=
  let tile := (colTile0 r.ref.body + k % max 1 (colTiles r.ref.body)) % 256
  let s1 := if mism = 0 then s else (s.count64 (Reg.colCnt 6) 1).unitFault 0 tile false
  if 2 ≤ mism then ((s1.count64 (Reg.colCnt 7) 1).colEv 4 r.group r.seq).unitFault 0 tile true else s1

/-- The check outcomes of the member's own additions, in chunks of `k` elements (R308). -/
def State.ownFailed (s : State) (r : CollRun) (k : Nat) : State :=
  (List.range (ceilDiv (colCount r.ref.body) k)).foldl (fun s i => s.addFailed r i (r.ownMism k (k * i))) s

/-- The elements whose additions end at this member: those its last addition step received, or all where it has none. -/
def CollRun.ownResult (r : CollRun) (steps : List CollStep) : List Nat :=
  match (steps.filter fun st => st.kind == .reduce && decide (st.no < 4096)).getLast? with
  | none => List.range (colCount r.ref.body)
  | some st => ((st.recvs.flatMap fun x => x.rngs).eraseDups).flatMap fun g => upFrom g.1 g.2

/-- The results are formed from the sums: folds are rounded once (R306), a mean is divided once (R302). -/
def CollRun.formResult (r : CollRun) : CollRun :=
  let b := r.ref.body
  let d := r.members.length * colNsrc b
  let one (e : Nat) : (Nat × Bool) × Bool :=
    let x := Tbl.get (0, false) r.acc e
    match r.binned, colFmt (colDtype b) with
    | true, some f =>
      let em := Tbl.get (0, false) r.emax (e / binBlock)
      let q := formFolds f (foldCount (colDtype b)) (signed 16 em.1) (if colRed b = 1 then d else 1) x.1
      ((q.1, x.2 || em.2), q.2)
    | _, _ =>
      if colRed b = 1 then
        let q := meanEl (colDtype b) d x.1
        ((q.1, x.2), q.2)
      else (x, false)
  let es := r.ownResult (reduceSteps r.alg r.members r.rank (colCount b) r.binned)
  es.foldl (fun r1 e =>
    let q := one e
    { r1 with acc := Tbl.set (0, false) r1.acc e q.1, hot := if q.2 then e :: r1.hot else r1.hot }) r

/-- The elements of the destination of member `rank` of `n`: the first in the result, and how many (Table 12-3). -/
def destShape (b : List Byte) (n rank : Nat) : Nat × Nat :=
  let c := colCount b
  match colOp b with
  | 2 => segOf (0, c) n rank
  | 5 => if rank = colRoot b then (0, c) else (0, 0)
  | 3 | 6 => (0, n * c)
  | _ => (0, c)

/-- The elements of the result that this member writes. -/
def CollRun.dest (r : CollRun) : Nat × Nat := destShape r.ref.body r.members.length r.rank

/-- The granules of the destination that hold a poisoned element. -/
def poisonGranules (a w : Nat) (es : List (Nat × Bool)) : Nat :=
  ((es.zipIdx.filter fun e => e.1.2).flatMap fun e => granules (a + w * e.2) w).eraseDups.length

/-- Did an element of the destination overflow (R296): here, or, where others formed its sum and it reached this member as an
infinity or a NaN, there? -/
def CollRun.overflowed (r : CollRun) (e x : Nat) : Bool :=
  r.hot.contains e ||
    (match colFmt (colDtype r.ref.body) with
     | some f => colReduces r.ref.body && decide (colRed r.ref.body ≤ 1) && decide (1 < r.members.length) &&
        (match decodeNum f x with
         | .fin _ _ => false
         | _ => Config.collOverflow r.group r.seq e)
     | none => false)

/-- Element `e` of the result as it is written, and whether its anchors failed (R302). -/
def CollRun.destEl (r : CollRun) (e : Nat) (x : Nat × Bool) : (Nat × Bool) × Bool :=
  if colReduces r.ref.body ∧ colDtype r.ref.body = 0x1F then
    let q := narrowPartial (Config.mixedAnchor r.group r.seq e).toNat x.1
    ((q.1, x.2), q.2)
  else (x, false)

/-- Write the destination; the record counts what overflowed and what is poison (R296, R309). -/
def State.writeDest (s : State) (ch : Nat) (r : CollRun) : State :=
  let b := r.ref.body
  let w := colWidth (colDtype b)
  let d := r.dest
  let ws := (r.els d.1 d.2).zipIdx.map fun x => r.destEl (d.1 + x.2) x.1
  let es := ws.map fun x => x.1
  let s1 := if d.2 = 0 then s else s.storeElems (colReq ch) (colDst b) (8 * w) es
  s1.setRunOn ch (some { r with
    overflow := (es.zipIdx.filter fun x => r.overflowed (d.1 + x.2) x.1.1).length
    poisoned := poisonGranules (devAddr (colDst b)) w es
    anchorBad := ws.any fun x => x.2
    since := s.ft })

/-- Write the destination as poison (R294, R297). -/
def State.poisonDest (s : State) (ch : Nat) (r : CollRun) (code : Nat) : State :=
  let b := r.ref.body
  let n := colWidth (colDtype b) * r.dest.2
  let s1 := if n = 0 then s else s.gstore (colReq ch) (colDst b) (List.replicate n 0) true
  { s1 with colTx := s1.colTx.filter fun c => !(c.group == r.group && c.seq == r.seq) }.setRunOn ch
    (some { r with todo := [], held := [], want := [], slots := [], poisoned := (granules (devAddr (colDst b)) n).length,
                   failed := some code })

/-! ## Going on -/

/-- Go on through finished steps; `n` bounds them. -/
def collAdvance (ch : Nat) : Nat → State → State
  | 0, s => s
  | n + 1, s => match s.runOn ch with
    | none => s
    | some r => match r.todo with
      | [] => s
      | st :: rest =>
        let next (s : State) (r : CollRun) : State :=
          let r1 := { r with todo := rest, past := r.past ++ [st] }
          let s1 := s.setRunOn ch (some r1)
          match rest with
          | [] => s1
          | t :: _ => if t.kind = .reduce ∨ t.kind = .gather then s1.enterStep ch r1 t else s1
        match st.kind with
        | .folds => collAdvance ch n (next (s.ownFailed r (chunkEls (8 * foldCount (colDtype r.ref.body)))) r.makeFolds)
        | .form => collAdvance ch n (next s r.formResult)
        | .write =>
          let s1 := s.writeDest ch r
          match s1.runOn ch with
          | none => s1
          | some r1 => s1.setRunOn ch (some { r1 with todo := [] })
        | .gather =>
          let s1 := s.copyChunks ch st
          match s1.runOn ch with
          | none => s1
          | some r1 => if r1.stepDone st then collAdvance ch n (next s1 r1) else s1
        | .reduce => if r.stepDone st then collAdvance ch n (next s r) else s

/-- Go on with the collective of a channel. -/
def State.collGo (s : State) (ch : Nat) : State :=
  match s.runOn ch with
  | none => s
  | some r => collAdvance ch (r.todo.length + 1) s

/-- Begin the steps of a collective. -/
def State.collBegin (s : State) (ch : Nat) (r : CollRun) : State :=
  match r.todo with
  | [] => s.setRunOn ch (some r)
  | st :: _ => (if st.kind = .reduce ∨ st.kind = .gather then s.enterStep ch r st else s.setRunOn ch (some r)).collGo ch

/-- The ranks a collective exchanges data with. -/
def CollRun.peers (r : CollRun) : List Nat :=
  (r.todo.flatMap fun st => (st.sends ++ st.recvs).map fun x => x.peer).eraseDups

/-! ## Starting (R294, R297, R301) -/

/-- The valid nodes of ring table `k`, in table order. -/
def State.ringNodes (s : State) (k : Nat) : List Nat :=
  (s.regs.filter fun p => decide (Reg.fabRingTbl k 0 ≤ p.1) && decide (p.1 < Reg.fabRingTbl (k + 1) 0) && bit p.2 16).map
    fun p => fld p.2 0 16

/-- Does a list, taken from some place onward and wrapping, equal another? -/
def rotates (a b : List Nat) : Bool := (List.range a.length).any fun k => a.drop k ++ a.take k == b

/-- Do all members lie in one rack? -/
def oneRack (members : List Nat) : Bool := members.all fun x => x / 32 == members.headD 0 / 32

/-- The algorithm that AUTO stands for (R301). -/
def State.autoAlg (s : State) (members : List Nat) : Nat :=
  if members ≠ [] ∧ (rotates members (s.ringNodes 0) ∨ rotates members (s.ringNodes 1)) then 1
  else if oneRack members then 3 else 4

/-- Does a group meet the condition of an algorithm (Table 12-5)? -/
def algOk (alg : Nat) (members : List Nat) : Bool :=
  match alg with
  | 1 => decide (members.length ≤ 1024)
  | 2 => isPow2 members.length
  | 3 => oneRack members
  | 4 => true
  | _ => false

/-- Does a binned sum run (R295)? -/
def State.colBins (s : State) (b : List Byte) : Bool :=
  colReduces b && decide (colRed b ≤ 1) && (colFmt (colDtype b)).isSome && (colBinned b || s.regB Reg.detCfg 2)

/-- Is a data type allowed (Table 12-3)? -/
def colTypeOk (b : List Byte) : Bool :=
  let t := colDtype b
  if colReduces b then (t == 0 || t == 1 || t == 2 || t == 3 || t == 0x0B || (t == 0x1F && colRed b == 0))
  else decide (t ≤ 5) || t == 9 || t == 0x0B || t == 0x1F

/-- Do two ranges of a package's addresses overlap? -/
def colSpansMeet (a m b n : Nat) : Bool := decide (a < b + n) && decide (b < a + m)

/-- May the destination of a member lie where it does (R293, R294): what it writes overlaps nothing that it reads, but for a
sum in place? -/
def colPlaceOk (b : List Byte) (n rank : Nat) : Bool :=
  let w := colWidth (colDtype b)
  let src := devAddr (colSrc b)
  let dst := devAddr (colDst b)
  let p := srcShape b n rank
  let dn := (destShape b n rank).2 * w
  (colOp b == 1 && p.1 == 1 && dst == src) || dn == 0 ||
    (List.range p.1).all fun k => !colSpansMeet dst dn (src + k * colStride b) (p.2 * w)

/-- Is a descriptor malformed (R294)? -/
def State.colMalformed (s : State) (b : List Byte) : Bool :=
  let g := colGroup b
  let n := (Tbl.get ([], []) s.colLists g).1.length
  let alg := colAlgField b
  decide (colOp b = 0) || decide (6 < colOp b) || decide (4 < alg) || !colTypeOk b || cfld b 1 2 / 16 % 4096 != 0 ||
    cfld b 56 8 != 0 || (colRed b == 1 && (colDtype b == 0x0B || colDtype b == 0x1F) && colReduces b) ||
    !s.grpValid g || decide (n ≤ colRoot b) || (colRoot b != 0 && colOp b != 4 && colOp b != 5) ||
    colCount b == 0 || colNsrc b == 0 || colTiles b == 0 || decide (256 < colTiles b) ||
    decide (numTiles s.grade < colTile0 b + colTiles b) ||
    colSrc b % 64 != 0 || colDst b % 64 != 0 || colStride b % 64 != 0 || colRec b % 32 != 0 ||
    (colNsrc b == 1 && colStride b != 0) || !s.isLocal (colSrc b) || !s.isLocal (colDst b) ||
    decide (2 ^ 32 < colCount b * colWidth (colDtype b)) ||
    (s.colBins b && decide (8388608 < n * colNsrc b)) || (alg != 0 && !algOk alg (Tbl.get ([], []) s.colLists g).1) ||
    (colRec b != 0 && !s.isLocal (colRec b)) || !colPlaceOk b n (s.grpRank g)

/-- Do the fields of a malformed descriptor give this member a destination, which is written as poison (R294; log entry 22)? -/
def State.colHasDest (s : State) (b : List Byte) : Bool :=
  s.grpValid (colGroup b) && decide (1 ≤ colOp b) && decide (colOp b ≤ 6) && colTypeOk b && colDst b % 64 == 0 &&
    s.isLocal (colDst b) && decide (colCount b * colWidth (colDtype b) ≤ 2 ^ 32)

/-- A COLLECTIVE_ORDER fault (R297). -/
def State.orderFault (s : State) (ch : Nat) (r : CollRun) : State :=
  let s1 := ((s.poisonDest ch r 0x51).abortGroup r.group r.seq 0x51).colEv 0 r.group r.seq
  (s1.setReg Reg.colLastErr (BitVec.ofNat 64 (r.group + r.seq * 65536 + s.node * 2 ^ 32))).setRegB (Reg.colGSeq r.group) 16 true

/-- HELLO to the members it exchanges data with. -/
def State.sayHello (s : State) (r : CollRun) (sig : W64) : State :=
  (r.peers.map r.primary).foldl (fun s n =>
    s.colCtrl n r.group r.seq 0 0 [fword (sig.zeroExtend 256) false] 0) s

/-- The step that takes the destination from the backup (R312). -/
def takeStep (r : CollRun) : CollStep := ⟨takeNo, .gather, [], [⟨r.rank, [r.dest]⟩]⟩

/-- A substituted primary asks its backup for the destination. How many of its contributions were truncated it knows only where it
formed their folds. -/
def State.askTake (s : State) (ch : Nat) (r : CollRun) : State :=
  let r1 := { r with gone := true, todo := [takeStep r, ownStep .write], held := [], want := [],
                     inexact := if r.binned && r.emax.isEmpty then (Config.takenInexact r.group r.seq).toNat else r.inexact }
  let s1 := match r.backupOf r.rank with
    | some b => s.colCtrl b r.group r.seq 0 0 [] 4
    | none => s
  s1.collBegin ch r1

/-- A collective that runs begins: its sources are read, its first vector is formed, and its steps go on. -/
def State.collOpen (s : State) (ch : Nat) (r : CollRun) (sig : W64) : State :=
  let b := r.ref.body
  let s1 := (s.readSources ch b r.members.length r.rank).sayHello r sig
  let s2 := if colReduces b && !r.binned then s1.ownFailed r (chunkEls (colWidth (colDtype b))) else s1
  s2.collBegin ch (s2.firstVector ch r)

/-- Start the collective at the head of a channel whose operation is `op` (R291, R294, R297); `sums` are the check outcomes of its
own additions (R308). Where the group is halted it waits for no counter. -/
def State.startHead (s : State) (ch op : Nat) (sums : List CollAdd) : State :=
  match Tbl.get [] s.colQ ch with
  | [] => s
  | ref :: q =>
    let b := ref.body
    let g := colGroup b
    let fits := colOp b == op || colOp b == 0 || decide (6 < colOp b)
    if fits = false ∨ (s.runOn ch).isSome ∨ (ref.released = false ∧ s.waitMet (cfld b 8 1) (cfld b 10 2) = false ∧
        s.regB (Reg.colGSeq g) 16 = false) then s
    else
      let s0 := ({ s with colQ := Tbl.set [] s.colQ ch q }.setRegB Reg.colStatus ch true)
      let seq := s.regF (Reg.colGSeq g) 0 16
      let l := Tbl.get ([], []) s.colLists g
      let role := s.regB (Reg.colGCfg g) 5
      let rank := s.grpRank g
      let alg := if colAlgField b = 0 then s.autoAlg l.1 else colAlgField b
      let bins := s.colBins b
      let shadow := colShadow b || s.regB Reg.colCfg 0
      let todo := if colReduces b then reduceSteps alg l.1 rank (colCount b) bins
        else moveSteps (colOp b) l.1.length rank (colCount b) (colRoot b)
      let r : CollRun :=
        { ref := ref, group := g, seq := seq, rank := rank, role := role, members := l.1, backups := l.2, alg := alg,
          binned := bins, shadow := shadow, todo := todo, past := [], since := s.ft, acc := [], raw := [], sums := sums,
          emax := [], part := [], doneAt := [], copied := [], late := [], held := [],
          released := (s.substAsks.filter fun a => a.1 == g && a.2.1 == seq).map fun a => a.2.2, subst := [],
          gone := false, take := s.takes.contains (g, seq), delivered := false, slots := [], want := [], hot := [],
          inexact := 0, overflow := 0, poisoned := 0, sdc := false, anchorBad := false, failed := none }
      if s.colMalformed b then
        let s1 := if s.grpValid g then
            (s0.setRegF (Reg.colGSeq g) 0 16 ((seq + 1) % 65536)).abortGroup g seq 0x50 else s0
        if s.colHasDest b then s1.poisonDest ch r 0x50 else s1.setRunOn ch (some { r with todo := [], failed := some 0x50 })
      else
        let s1 := s0.setRegF (Reg.colGSeq g) 0 16 ((seq + 1) % 65536)
        if s.regB (Reg.colGSeq g) 16 then s1.poisonDest ch r 0x51
        else if colSeqExpl b && colSeqField b != seq then s1.orderFault ch r
        else
        let sig := colSignature b alg bins l.1.length
        match s.aborts.find? fun a => a.1 == g && a.2.1 == seq with
        | some a => ({ s1 with aborts := s1.aborts.filter fun a => !(a.1 == g && a.2.1 == seq) }).poisonDest ch r a.2.2
        | none =>
          let mine := s.hellos.filter fun h => h.2.1 == g && h.2.2.1 == seq
          let s2 := { s1 with hellos := s1.hellos.filter fun h => !(h.2.1 == g && h.2.2.1 == seq) }
          if mine.any fun h => h.2.2.2 != sig then s2.orderFault ch r
          else if s.substGone.contains (g, seq) ∧ role = false then
            ({ s2 with substGone := s2.substGone.erase (g, seq) }).askTake ch r
          else s2.collOpen ch r sig

/-- Start the collective at the head of a channel, once what its sources wait for has come. -/
def State.startColl (s : State) (ch op : Nat) (sums : List CollAdd) : State :=
  s.whenDone (s.startHead ch op sums) (colReq ch)

/-- ALLREDUCE (R293). -/
def execAllreduce (go : CollStart) (s : State) : Host.Outcome State Fault Refusal :=
  .next (s.startColl go.ch 1 go.sums)
/-- REDUCE_SCATTER (R293). -/
def execReduceScatter (go : CollStart) (s : State) : Host.Outcome State Fault Refusal :=
  .next (s.startColl go.ch 2 go.sums)
/-- ALLGATHER (R293). -/
def execAllgather (go : CollStart) (s : State) : Host.Outcome State Fault Refusal :=
  .next (s.startColl go.ch 3 go.sums)
/-- BROADCAST (R293). -/
def execBroadcast (go : CollStart) (s : State) : Host.Outcome State Fault Refusal :=
  .next (s.startColl go.ch 4 go.sums)
/-- REDUCE (R293). -/
def execReduce (go : CollStart) (s : State) : Host.Outcome State Fault Refusal :=
  .next (s.startColl go.ch 5 go.sums)
/-- ALLTOALL (R293). -/
def execAlltoall (go : CollStart) (s : State) : Host.Outcome State Fault Refusal :=
  .next (s.startColl go.ch 6 go.sums)

/-! ## Additions (R302, R303, R308) -/

/-- The ranks whose data an addition step folds over the chunk at `lo`, in rank order, the member's own among them, each
with its chunk number there. -/
def CollRun.slotsAt (r : CollRun) (st : CollStep) (lo : Nat) : List (Nat × Option Nat) :=
  let others := st.recvs.filterMap fun x =>
    ((r.chunksOf st x).findIdx? fun c => c.1 == lo).map fun i => (x.peer, some i)
  (others ++ [(r.rank, none)]).mergeSort fun a b => decide (a.1 ≤ b.1)

/-- The data of a slot of an addition: the member's own, or a chunk that arrived. -/
def State.slotData (s : State) (r : CollRun) (st : CollStep) (lo n : Nat) (x : Nat × Option Nat) : Option (List (Nat × Bool)) :=
  match x.2 with
  | none => some (r.els lo n)
  | some c => (s.chunkFrom r st.no x.1 c).map fun k => unpackWords (r.wire st) n (k.data.getD [])

/-- Add two elements in a step: exponents by MAX, folds by their words, others by R302. -/
def CollRun.addEl (r : CollRun) (st : CollStep) (x y : Nat) : Nat × Bool :=
  let t := colDtype r.ref.body
  if 4096 ≤ st.no then (if signed 16 x < signed 16 y then y else x, false)
  else if r.binned then (addFolds (foldCount t) x y, false)
  else combineEl t (colRed r.ref.body) x y

/-- COLL_ADDITION (R303): the next addition of the chunk that begins at an element, where its data are present. -/
def execCollAddition (ch : Fin 16) (add : CollAdd) (s : State) : Host.Outcome State Fault Refusal :=
  match s.runOn ch with
  | none => .next s
  | some r => match r.todo with
    | [] => .next s
    | st :: _ =>
      let cs := st.recvs.flatMap (r.chunksOf st)
      match cs.find? fun c => c.1 == add.elem with
      | none => .next s
      | some c =>
        let slots := r.slotsAt st c.1
        let old := Tbl.get (0, []) r.part c.1
        let i := if old.1 = 0 then 1 else old.1
        let a := if old.1 = 0 then (slots[0]?).bind (s.slotData r st c.1 c.2) else some old.2
        let b := (slots[i]?).bind (s.slotData r st c.1 c.2)
        if st.kind ≠ .reduce ∨ r.doneAt.contains c.1 then .next s
        else match a, b with
          | some xs, some ys =>
            let zs : List (((Nat × Bool) × (Nat × Bool)) × Nat × Bool) := (xs.zip ys).map fun p => (p, r.addEl st p.1.1 p.2.1)
            let bad := decide (2 ≤ add.mism)
            let res := zs.map fun z => (z.2.1, z.1.1.2 || z.1.2.2 || bad)
            let chunk := ((slots.filterMap fun x => x.2).headD 0)
            let last := i + 1 == slots.length
            let sat : List Bool := zs.map fun z => z.2.2
            let hot : List Nat := (sat.zipIdx.filter fun z => z.1).map fun z => c.1 + z.2
            let r1 := { r with hot := hot ++ r.hot }
            let r2 := if last then { r1.putEls c.1 res with doneAt := r1.doneAt ++ [c.1] }
              else { r1 with part := Tbl.set (0, []) r1.part c.1 (i + 1, res) }
            let s1 := ((s.setRunOn ch (some r2)).count64 (Reg.colCnt 3) 1).addFailed r chunk add.mism
            let used := slots.flatMap fun x => match x.2 with
              | none => []
              | some k => s.slotsOf r st.no x.1 k
            .next (if last then (s1.freeSlots ch used).collGo ch else s1)
          | _, _ => .next s

/-! ## Messages (R297 to R299, R307, R312, R313) -/

/-- The channel on which a collective with a tag runs. -/
def State.chanOfTag (s : State) (g seq : Nat) : Option Nat :=
  (s.colRun.find? fun p => match p.2 with
    | some r => r.group == g && r.seq == seq
    | none => false).map fun p => p.1

/-- Has the group passed a tag: does its next sequence number lie beyond it (R297)? -/
def State.tagPassed (s : State) (g seq : Nat) : Bool :=
  let d := (s.regF (Reg.colGSeq g) 0 16 + 65536 - seq) % 65536
  s.grpValid g && decide (1 ≤ d) && decide (d ≤ 32768) && (s.chanOfTag g seq).isNone

/-- Accept a COLL_CTRL of a kind. -/
def State.acceptCtrl (s : State) (f : Flit) (kind : Nat) : State × Bool :=
  let a := s.accept f 0x11
  (a.1, a.2 && fld f.trailer 0 4 == kind)

/-- The group and tag of a collective flit. -/
def flitGroup (f : Flit) : Nat := flitHead f % 256
def flitStep (f : Flit) : Nat := flitHead f / 2 ^ 8 % 2 ^ 13
def flitChunk (f : Flit) : Nat := flitHead f / 2 ^ 21 % 2 ^ 24

/-- COLL_HELLO (R297). -/
def execCollHello (f : Flit) (s : State) : Host.Outcome State Fault Refusal :=
  let a := s.acceptCtrl f 0
  if a.2 = false then .next a.1
  else
    let w := a.1.takeWords (f.words.take 1)
    let sig : W64 := ((w.2.headD (0, true)).1).truncate 64
    let g := flitGroup f
    let seq := f.tag.toNat
    match w.1.chanOfTag g seq with
    | none => .next (if w.1.tagPassed g seq then w.1 else { w.1 with hellos := w.1.hellos ++ [(f.src.toNat, g, seq, sig)] })
    | some ch => match w.1.runOn ch with
      | none => .next w.1
      | some r =>
        if r.failed.isSome ∨ sig = colSignature r.ref.body r.alg r.binned r.members.length then .next w.1
        else .next (w.1.orderFault ch r)

/-- COLL_CREDIT (R298). -/
def execCollCredit (f : Flit) (s : State) : Host.Outcome State Fault Refusal :=
  let a := s.acceptCtrl f 1
  if a.2 = false then .next a.1
  else
    let k : CollCredit := ⟨f.src.toNat, flitGroup f, f.tag.toNat, flitStep f, flitChunk f, fld f.trailer 8 24⟩
    .next ({ a.1 with colCredits := a.1.colCredits ++ [k] }.pumpColl)

/-- COLL_ABORT (R294). -/
def execCollAbort (f : Flit) (s : State) : Host.Outcome State Fault Refusal :=
  let a := s.acceptCtrl f 3
  if a.2 = false then .next a.1
  else
    let g := flitGroup f
    let seq := f.tag.toNat
    match a.1.chanOfTag g seq with
    | none => .next (if a.1.tagPassed g seq then a.1 else { a.1 with aborts := a.1.aborts ++ [(g, seq, fld f.trailer 8 8)] })
    | some ch => match a.1.runOn ch with
      | none => .next a.1
      | some r => if r.failed.isSome then .next a.1 else .next (a.1.poisonDest ch r (fld f.trailer 8 8))

/-- Deliver the destination to the primary once it is complete (R312). -/
def State.deliverTake (s : State) (ch : Nat) : State :=
  match s.runOn ch with
  | none => s
  | some r =>
    if r.take = false ∨ r.delivered ∨ r.todo ≠ [] ∨ r.role = false then s
    else
      let st := takeStep r
      let wb := r.wire st
      let out := (rangeChunks wb [r.dest]).zipIdx.map fun c =>
        ({ dst := r.primary r.rank, group := r.group, seq := r.seq, step := st.no, chunk := c.2,
           words := packWords wb (r.els c.1.1 c.1.2), len := wb * c.1.2, sent := false, via := none } : CollTx)
      ({ s with colTx := s.colTx ++ out }.setRunOn ch (some { r with delivered := true })).pumpColl

/-- COLL_SUBST (R312): at a backup, release to the receiver what is held for it and tell the primary; at a primary whose
backup tells it, send nothing more and take the destination from the backup. -/
def execCollSubst (f : Flit) (s : State) : Host.Outcome State Fault Refusal :=
  let a := s.acceptCtrl f 2
  let g := flitGroup f
  let seq := f.tag.toNat
  let src := f.src.toNat
  let role := a.1.regB (Reg.colGCfg g) 5
  if a.2 = false ∨ fld f.trailer 16 16 ≠ a.1.grpRank g then .next a.1
  else if role then
    let l := Tbl.get ([], []) a.1.colLists g
    let s1 := a.1.colCtrl (l.1.getD (a.1.grpRank g) 0xFFFF) g seq 0 0 [] (2 + a.1.grpRank g * 65536)
    let step := flitStep f
    match s1.chanOfTag g seq with
    | none => .next (if s1.tagPassed g seq then s1 else { s1 with substAsks := s1.substAsks ++ [(g, seq, src, step)] })
    | some ch => match s1.runOn ch with
      | none => .next s1
      | some r =>
        let due (c : CollTx) : Bool := c.dst == src && decide (stepPlace step ≤ stepPlace c.step)
        let mine := r.held.filter due
        let r1 := { r with held := r.held.filter (fun c => !due c), released := r.released ++ [(src, step)] }
        .next (({ s1 with colTx := s1.colTx ++ mine }.setRunOn ch (some r1)).pumpColl)
  else match a.1.chanOfTag g seq with
    | none => .next (if a.1.tagPassed g seq then a.1 else { a.1 with substGone := a.1.substGone ++ [(g, seq)] })
    | some ch => match a.1.runOn ch with
      | none => .next a.1
      | some r =>
        if r.gone then .next a.1
        else if r.todo = [] then
          .next { a.1 with colTx := a.1.colTx.filter fun c => !(c.group == g && c.seq == seq && !c.sent) }
        else .next ({ a.1 with colTx := a.1.colTx.filter fun c => !(c.group == g && c.seq == seq) }.askTake ch r)

/-- COLL_TAKE (R312). -/
def execCollTake (f : Flit) (s : State) : Host.Outcome State Fault Refusal :=
  let a := s.acceptCtrl f 4
  let g := flitGroup f
  let seq := f.tag.toNat
  if a.2 = false then .next a.1
  else match a.1.chanOfTag g seq with
    | none => .next (if a.1.tagPassed g seq then a.1 else { a.1 with takes := a.1.takes ++ [(g, seq)] })
    | some ch => match a.1.runOn ch with
      | none => .next a.1
      | some r => .next ((a.1.setRunOn ch (some { r with take := true })).deliverTake ch)

/-- The bytes that a collective expects of a chunk of a step from a rank; of a step that is done, for the other copy (R313). -/
def CollRun.expects (r : CollRun) (step rank chunk : Nat) : Option Nat :=
  ((r.past ++ r.todo).filter fun st => st.no == step && (st.kind == .reduce || st.kind == .gather)).findSome? fun st =>
    (st.recvs.find? fun x => x.peer == rank).bind fun x => ((r.chunksOf st x)[chunk]?).map fun c => r.wire st * c.2

/-- Shadow compare (R313): a chunk against the other copy, bit for bit, once both are present. -/
def State.shadowCompare (s : State) (ch : Nat) (r : CollRun) (rank : Nat) (c : CollChunk) : State :=
  let other := s.colRx.find? fun x => x.src != c.src && x.group == c.group && x.seq == c.seq && x.step == c.step &&
    x.chunk == c.chunk && x.data.isSome && (r.rankOf x.src).map (fun p => p.1) == some rank
  match other with
  | none => s
  | some o =>
    if r.shadow = false ∨ o.data = c.data then s
    else
      let tag : Nat := c.group + c.seq * 65536
      let d : Nat := rank + c.step * 2 ^ 16 + c.chunk * 2 ^ 32
      ((s.count64 (Reg.colCnt 10) 1).event 8 Reg.colEvent 3 tag d).setRunOn ch (some { r with sdc := true })

/-- Has a chunk of a step from a rank been used already? -/
def CollRun.used (r : CollRun) (step rank chunk : Nat) : Bool :=
  (r.past.any fun st => st.no == step) ||
    (match r.todo with
     | st :: _ => st.no == step && (r.copied.contains (rank, chunk) || st.recvs.any fun x => x.peer == rank &&
        (((r.chunksOf st x)[chunk]?).map fun c => r.doneAt.contains c.1).getD false)
     | [] => false)

/-- A chunk has arrived whole: its CRC decides (R307). -/
def State.endColl (s : State) (f : Flit) (ch : Nat) (r : CollRun) (rank len : Nat) (c : CollChunk) : State :=
  let s0 := { s with colRx := s.colRx.erase c }
  let q := s0.takeWords c.words
  let data := (q.2.flatMap fun w => granuleBytes w.1).take len
  let ok := decide (crc64 data = f.trailer.toNat)
  if ok = false ∧ c.retried = false then
    { q.1 with colRx := q.1.colRx ++ [{ c with words := [], retried := true }] }.respond f 0x0A [] 65536
  else
    let ws := if ok then q.2 else q.2.map fun w => (w.1, true)
    let c1 := { c with words := [], data := some ws, came := s.ft }
    let s1 := ({ q.1 with colRx := q.1.colRx ++ [c1] }.count64 (Reg.colCnt 2) len).respond f 0x0A [] 0
    let s2 := s1.shadowCompare ch r rank c1
    (if r.used c.step rank c.chunk then s2.freeSlots ch [(c.src, c.step, c.chunk)] else s2).collGo ch

/-! ## Relays (R314) -/

/-- One flit of a chunk on its way to node `dst`: the relay holds the chunk in one of its 1,024 slots and sends it on unchanged once
it is whole; with no slot free each flit goes on as it comes (log entry 22). -/
def State.relayFlit (s : State) (f : Flit) (dst : Nat) : State :=
  let same (k : RelaySlot) : Bool := k.dst == dst && k.flits.any fun x =>
    x.src == f.src && x.tag == f.tag && flitHead x == flitHead f
  let on (s : State) (l : List Flit) : State := l.foldl (fun s x => s.emit { x with dst := BitVec.ofNat 16 dst }) s
  match s.relays.find? same with
  | some k =>
    let l := k.flits ++ [f]
    if f.last then on { s with relays := s.relays.filter fun x => !same x } l
    else { s with relays := s.relays.map fun x => if same x then { x with flits := l } else x }
  | none =>
    if f.last ∨ 1024 ≤ s.relays.length then on s [f]
    else { s with relays := s.relays ++ [⟨dst, [f]⟩] }

/-- The node to which a chunk that the package does not expect is relayed: another node of a group in force here. -/
def State.relayDst (s : State) (f : Flit) : Option Nat :=
  let l := Tbl.get ([], []) s.colLists (flitGroup f)
  match Config.relayTo f.src.toNat f.tag.toNat (flitHead f) with
  | some d =>
    if s.grpValid (flitGroup f) && (l.1 ++ l.2).contains d.toNat && d.toNat != s.node && d != f.src then some d.toNat else none
  | none => none

/-- A flit of a chunk that is not expected: of a chunk to be relayed; of a tag that is passed, whose chunk is acknowledged and not
used; or of nothing, and dropped. -/
def State.strayChunk (s : State) (f : Flit) : State :=
  match s.relayDst f with
  | some d => s.relayFlit f d
  | none => if f.last && s.tagPassed (flitGroup f) f.tag.toNat then s.respond f 0x0A [] 0 else s

/-- The running collective that expects the chunk of a flit: its channel, the run, the rank and the bytes. -/
def State.expecting (s : State) (f : Flit) : Option (Nat × CollRun × Nat × Nat) :=
  match s.chanOfTag (flitGroup f) f.tag.toNat with
  | none => none
  | some ch => match s.runOn ch with
    | none => none
    | some r => match r.rankOf f.src.toNat with
      | none => none
      | some rk => (r.expects (flitStep f) rk.1 (flitChunk f)).map fun len => (ch, r, rk.1, len)

/-- COLL_DATA (R307): a chunk that a running collective expects, or one to be relayed (R314). -/
def execCollData (f : Flit) (s : State) : Host.Outcome State Fault Refusal :=
  let a := s.accept f 0x10
  let g := flitGroup f
  let seq := f.tag.toNat
  if a.2 = false then .next a.1
  else match a.1.expecting f with
    | none => .next (a.1.strayChunk f)
    | some (ch, r, rank, len) =>
      let old := a.1.colRx.find? fun c => c.src == f.src.toNat && c.group == g && c.seq == seq &&
        c.step == flitStep f && c.chunk == flitChunk f
      let c0 : CollChunk := match old with
        | some c => c
        | none => ⟨f.src.toNat, g, seq, flitStep f, flitChunk f, [], false, none, 0⟩
      if c0.data.isSome then .next (if f.last then a.1.respond f 0x0A [] 0 else a.1)
      else
        let c1 := { c0 with words := c0.words ++ f.words }
        let rest := match old with
          | some c => a.1.colRx.erase c
          | none => a.1.colRx
        let s1 := { a.1 with colRx := rest ++ [c1] }
        .next (if f.last then s1.endColl f ch r rank len c1 else s1)

/-- The acknowledgement of a collective chunk (log entry 22): RESEND sends it again from its source, by the direct path. -/
def State.collAck (s : State) (f : Flit) (c : CollTx) : State :=
  if fld f.trailer 16 8 = 1 then
    let c1 := { c with via := none }
    ({ s with colTx := s.colTx.map fun x => if x = c then c1 else x }.count64 (Reg.fabCnt 12) 1).putChunk c1
  else { s with colTx := s.colTx.erase c }

/-- DMA_ACK (R284): of a chunk of a collective, or of a DMA. -/
def execDmaAck (f : Flit) (s : State) : Host.Outcome State Fault Refusal :=
  let a := s.accept f 0x0A
  if a.2 = false then .next a.1
  else match a.1.colTx.find? fun c => c.sent && c.dst == f.src.toNat && c.seq == f.tag.toNat &&
      colHead c.group c.step c.chunk == flitHead f with
    | some c => .next (a.1.collAck f c)
    | none => .next (a.1.dmaAck f)

/-! ## Laggards, watchdog, re-pathing (R310, R314) -/

/-- The time at which a chunk of a rank was there, or none. -/
def State.cameAt (s : State) (r : CollRun) (st : CollStep) (x : Nat × Option Nat) : Option Nat :=
  match x.2 with
  | none => some r.since
  | some c => (s.chunkFrom r st.no x.1 c).map fun k => k.came

/-- The time since which the addition at element `lo` has lacked only the chunk of slot `k`; none where it does not. -/
def State.lagsSince (s : State) (r : CollRun) (st : CollStep) (lo k : Nat) : Option Nat :=
  let slots := r.slotsAt st lo
  let there (x : Nat × Option Nat) : Option Nat := s.cameAt r st x
  if r.doneAt.contains lo ∨ (slots.any fun x => x.1 == k && (there x).isNone) = false ∨
      (slots.any fun x => x.1 != k && (there x).isNone) then none
  else some ((slots.filterMap there).foldl max r.since)

/-- LAGGARD_TIMEOUT (R310, R312): an addition has lacked only the chunk of one slot for COL_LAG_TIMEOUT. The slot's backup is asked to
send, and granted what it sends in this step. -/
def execLaggardTimeout (ch : Fin 16) (slot : BitVec 16) (s : State) : Host.Outcome State Fault Refusal :=
  match s.runOn ch with
  | none => .next s
  | some r => match r.todo with
    | [] => .next s
    | st :: _ =>
      let k := slot.toNat
      let due (lo : Nat) : Bool := !r.late.contains (k, lo) && (match s.lagsSince r st lo k with
        | some t => decide (t + usec * (s.reg Reg.colLagTimeout).toNat ≤ s.ft)
        | none => false)
      let los := (st.recvs.filter fun x => x.peer == k).flatMap fun x => (r.chunksOf st x).map fun c => c.1
      if st.kind ≠ .reduce ∨ r.subst.contains k then .next s
      else match los.find? due with
        | none => .next s
        | some lo =>
          let r1 := { r with late := r.late ++ [(k, lo)] }
          let s1 := ((s.count64 (Reg.colCnt 8) 1).colEv 1 r.group r.seq).setRunOn ch (some r1)
          match r.backupOf k with
          | none => .next s1
          | some b =>
            let n := if r.shadow then 0 else ((st.recvs.filter fun x => x.peer == k).map fun x => (r.chunksOf st x).length).foldl (· + ·) 0
            let r2 := { r1 with subst := r1.subst ++ [k], want := if n = 0 then r1.want else (b, st.no, 0, n) :: r1.want }
            let s2 := (s1.colCtrl b r.group r.seq st.no 0 [] (2 + k * 65536)).setRunOn ch (some r2)
            .next (grantWant ch (r2.want.length + 1) ((s2.count64 (Reg.colCnt 9) 1).colEv 2 r.group r.seq))

/-- Does a collective wait for a chunk of its step, or, at a backup that sent for its primary, for the primary (R310, R312)? -/
def State.awaitsChunk (s : State) (r : CollRun) : Bool :=
  match r.todo with
  | [] => r.role && !r.released.isEmpty && !r.delivered
  | st :: _ => st.recvs.any fun x => (r.chunksOf st x).zipIdx.any fun c => (s.chunkFrom r st.no x.peer c.2).isNone

/-- COLL_WATCHDOG (R310). -/
def execCollWatchdog (ch : Fin 16) (s : State) : Host.Outcome State Fault Refusal :=
  match s.runOn ch with
  | none => .next s
  | some r =>
    if s.awaitsChunk r = false ∨ s.reg Reg.colWatchdog = 0 ∨ s.ft < r.since + usec * (s.reg Reg.colWatchdog).toNat then .next s
    else .next (s.colEv 6 r.group r.seq)

/-- The level of a port: the mesh, the spine or the rings (R314). -/
def portLevel (p : Nat) : Nat := if p < 24 then 0 else if p < 28 then 1 else 2

/-- The level on which a node is reached. -/
def State.levelOf (s : State) (dst : Nat) : Option Nat := (s.staticPort dst).map portLevel

/-- The flits in the egress queues of a level. -/
def State.levelEgress (s : State) (l : Nat) : Nat :=
  (((List.range 32).filter fun p => portLevel p == l).map s.egress).foldl (· + ·) 0

/-- May a level be re-pathed through a relay: its queues hold more than COL_REPATH_THRESH flits, and those of the level on which the
relay is reached fewer than an eighth of that? -/
def State.mayRelay (s : State) (r : CollRun) (relay level : Nat) : Bool :=
  let t := (s.reg Reg.colRepathThresh).toNat
  !s.regB Reg.detCfg 1 && t != 0 && r.members.contains relay && relay != s.node && decide (t < s.levelEgress level) &&
    (match s.levelOf relay with
     | some l => l != level && decide (8 * s.levelEgress l < t)
     | none => false)

/-- COLL_REPATH (R314): the chunks of the collective that are bound for a level and not sent, `n` of them at most, go through a relay
to the same receivers. That the queues stood so for 8 µs is the command's. -/
def execCollRepath (ch : Fin 16) (relay : BitVec 16) (level n : Nat) (s : State) : Host.Outcome State Fault Refusal :=
  match s.runOn ch with
  | none => .next s
  | some r =>
    let v := relay.toNat
    if s.mayRelay r v level = false then .next s
    else
      let mine := (s.colTx.filter fun c => c.group == r.group && c.seq == r.seq && !c.sent && c.via.isNone && c.dst != v &&
        s.levelOf c.dst == some level).take n
      let l := s.colTx.map fun c => if mine.contains c then { c with via := some v } else c
      .next ({ s with colTx := l }.colEv 7 r.group r.seq)

/-! ## Completion (R296) -/

/-- The status of a collective: the lowest nonzero code that applies. -/
def CollRun.status (r : CollRun) : Nat :=
  lowestStatus [r.failed.getD 0, if r.poisoned = 0 ∨ r.failed.isSome then 0 else 0x52, if r.sdc then 0x53 else 0,
    if r.anchorBad then 0x54 else 0]

/-- The completion record. -/
def CollRun.recordBytes (r : CollRun) : List Byte :=
  natBytes 1 r.status ++ natBytes 1 (bnat r.binned) ++ natBytes 6 0 ++ natBytes 8 r.inexact ++ natBytes 8 r.overflow ++
    natBytes 8 r.poisoned

/-- May a collective complete: its steps are done, its destination is written (R111, R286), every chunk it sent is acknowledged, and a
backup that sent for its primary has delivered the primary's destination (R312)? -/
def State.collOver (s : State) (ch : Nat) (r : CollRun) : Bool :=
  r.todo.isEmpty && !(s.colTx.any fun c => c.group == r.group && c.seq == r.seq) && !s.unitOwes (colReq ch) &&
    !(r.role && !r.released.isEmpty && !r.delivered && r.failed.isNone)

/-- COLLECTIVE_COMPLETE (R296). -/
def execCollectiveComplete (ch : Fin 16) (s : State) : Host.Outcome State Fault Refusal :=
  let s := s.deliverTake ch
  match s.runOn ch with
  | none => .next s
  | some r =>
    let mine (g q : Nat) : Bool := g == r.group && q == r.seq
    if s.collOver ch r = false then .next s
    else
      let b := r.ref.body
      let s1 := { s with
        colRun := Tbl.set none s.colRun ch none
        colRx := s.colRx.filter fun c => !mine c.group c.seq
        colCredits := s.colCredits.filter fun c => !mine c.group c.seq
        takes := s.takes.filter fun t => !mine t.1 t.2
        substAsks := s.substAsks.filter fun t => !mine t.1 t.2.1 }
      let s2 := (((s1.setRegB Reg.colStatus ch false).count64 (Reg.colCnt 0) 1).count64 (Reg.colCnt 4) r.inexact).count64
        (Reg.colCnt 5) r.overflow
      let s3 := if r.poisoned = 0 then s2 else s2.colEv 5 r.group r.seq
      let s4 := s3.writeStatus (colReq ch) (r.ref.addr + 3) r.status
      let s5 := if colRec b = 0 ∨ s4.isLocal (colRec b) = false then s4
        else s4.gstore (colReq ch) (colRec b) r.recordBytes false
      let s6 := (s5.signal (cfld b 9 1)).descDone r.ref.act r.ref.idx r.status 0
      .next (if s6.colClear.contains r.group && !s6.grpBusy r.group then s6.grpClear r.group else s6)

end Sys2Proof.Machine
end

