-- ==== Sys2Proof/Machine/Sha.lean ====
section
/-! DEFINITION. SHA-256 (FIPS 180-4; R353, R387): the spec names the standard, which gives these words (log entry 24). -/
namespace Sys2Proof.Machine

/-- The round constants. -/
def shaK : List W32 :=
  [0x428A2F98, 0x71374491, 0xB5C0FBCF, 0xE9B5DBA5, 0x3956C25B, 0x59F111F1, 0x923F82A4, 0xAB1C5ED5,
   0xD807AA98, 0x12835B01, 0x243185BE, 0x550C7DC3, 0x72BE5D74, 0x80DEB1FE, 0x9BDC06A7, 0xC19BF174,
   0xE49B69C1, 0xEFBE4786, 0x0FC19DC6, 0x240CA1CC, 0x2DE92C6F, 0x4A7484AA, 0x5CB0A9DC, 0x76F988DA,
   0x983E5152, 0xA831C66D, 0xB00327C8, 0xBF597FC7, 0xC6E00BF3, 0xD5A79147, 0x06CA6351, 0x14292967] ++
  [0x27B70A85, 0x2E1B2138, 0x4D2C6DFC, 0x53380D13, 0x650A7354, 0x766A0ABB, 0x81C2C92E, 0x92722C85,
   0xA2BFE8A1, 0xA81A664B, 0xC24B8B70, 0xC76C51A3, 0xD192E819, 0xD6990624, 0xF40E3585, 0x106AA070,
   0x19A4C116, 0x1E376C08, 0x2748774C, 0x34B0BCB5, 0x391C0CB3, 0x4ED8AA4A, 0x5B9CCA4F, 0x682E6FF3,
   0x748F82EE, 0x78A5636F, 0x84C87814, 0x8CC70208, 0x90BEFFFA, 0xA4506CEB, 0xBEF9A3F7, 0xC67178F2]

/-- The first hash value. -/
def shaInit : List W32 :=
  [0x6A09E667, 0xBB67AE85, 0x3C6EF372, 0xA54FF53A, 0x510E527F, 0x9B05688C, 0x1F83D9AB, 0x5BE0CD19]

/-- The message schedule: the last 16 words, newest first, go on for `n` words; the result is in order. -/
def shaWords : Nat → List W32 → List W32
  | 0, _ => []
  | n + 1, ws =>
    let a := ws.getD 1 0
    let b := ws.getD 14 0
    let w := (a.rotateRight 17 ^^^ a.rotateRight 19 ^^^ (a >>> 10)) + ws.getD 6 0 +
      (b.rotateRight 7 ^^^ b.rotateRight 18 ^^^ (b >>> 3)) + ws.getD 15 0
    w :: shaWords n (w :: ws.take 15)

/-- One round on the eight working words. -/
def shaRound (h : List W32) (kw : W32 × W32) : List W32 :=
  match h with
  | [a, b, c, d, e, f, g, x] =>
    let t1 := x + (e.rotateRight 6 ^^^ e.rotateRight 11 ^^^ e.rotateRight 25) + ((e &&& f) ^^^ (~~~e &&& g)) + kw.1 + kw.2
    let t2 := (a.rotateRight 2 ^^^ a.rotateRight 13 ^^^ a.rotateRight 22) + ((a &&& b) ^^^ (a &&& c) ^^^ (b &&& c))
    [t1 + t2, a, b, c, d + t1, e, f, g]
  | _ => h

/-- The big-endian words of bytes. -/
def shaBe : List Byte → List W32
  | a :: b :: c :: d :: r => (a ++ b ++ c ++ d) :: shaBe r
  | _ => []

/-- One block of 64 bytes. -/
def shaBlock (h : List W32) (block : List Byte) : List W32 :=
  let w := shaBe block
  let ws := w ++ shaWords 48 w.reverse
  ((shaK.zip ws).foldl shaRound h).zipWith (fun x y => x + y) h

/-- The padded message. -/
def shaPad (bs : List Byte) : List Byte :=
  let n := bs.length
  let z := (119 - n % 64) % 64
  bs ++ [0x80] ++ List.replicate z 0 ++ ((List.range 8).map fun i => BitVec.ofNat 8 (8 * n / 256 ^ (7 - i)))

/-- Fold the blocks of a message; `k` is their number. -/
def shaFold : Nat → List W32 → List Byte → List W32
  | 0, h, _ => h
  | k + 1, h, bs => shaFold k (shaBlock h (bs.take 64)) (bs.drop 64)

/-- SHA-256 of bytes, as 32 bytes. -/
def sha256 (bs : List Byte) : List Byte :=
  let p := shaPad bs
  (shaFold (p.length / 64) shaInit p).flatMap fun w =>
    [w.extractLsb' 24 8, w.extractLsb' 16 8, w.extractLsb' 8 8, w.extractLsb' 0 8]

end Sys2Proof.Machine
end

