-- ==== Sys2Proof/Machine/Pocket.lean ====
section
/-! DEFINITION. The pocket engine (chapter 14): captures, restores, drains and loads. The spec does not give the form of a
pocket message beyond its flit type and the chunk rules of R284: log entry 23 says what the model sends. -/
namespace Sys2Proof.Machine

/-! ## The pocket region (R345, R346) -/

/-- An event of the pocket engine: the slot and GEN. -/
def State.ckpEv (s : State) (b slot gen : Nat) : State := s.event 6 Reg.ckpEvent b slot gen

/-- The requester that stands for the pocket engine. -/
abbrev ckpReq : Req := ⟨6, 0⟩

/-- The capacity of a slot in chunks. -/
def State.slotChunks (s : State) : Nat := (s.pocketSize - 65536) / 8192

/-- Where the record and the data of a slot begin. -/
def State.recAddr (s : State) (slot : Nat) : Nat := s.pocketBase + 4096 * slot
def State.slotData0 (s : State) (slot : Nat) : Nat := s.pocketBase + 65536 + 4096 * s.slotChunks * slot

/-- The group size and the member's index. -/
def State.ckpG (s : State) : Nat := let g := s.regF Reg.ckpGrp 0 6; if g = 0 then 1 else min g 32
def State.ckpIdx (s : State) : Nat := s.regF Reg.ckpGrp 8 5

/-- The nodes of the group, in INDEX order; and the bytes of the list. -/
def State.ckpNodes (s : State) : List Nat := s.nodeList (s.reg Reg.ckpGrpList).toNat s.ckpG
def State.ckpListBytes (s : State) : List Byte := s.bytes (s.reg Reg.ckpGrpList).toNat (2 * s.ckpG)

/-- The other members, by index and node. -/
def State.ckpOthers (s : State) : List (Nat × Nat) := (s.ckpNodes.zipIdx.map fun p => (p.2, p.1)).filter fun p => p.1 != s.ckpIdx

/-! ## Records (Table 14-3) -/

/-- Complete the first bytes of a record to 4 KiB, with its CRC. -/
def sealRecord (b : List Byte) : List Byte :=
  let c := b ++ List.replicate (4088 - b.length) 0
  c ++ natBytes 8 (crc64 c)

/-- A number in a record or other list of bytes. -/
def recNum (r : List Byte) (o n : Nat) : Nat := bytesNat ((r.drop o).take n)

/-- Is a record whole, of the known format (R346)? -/
def recordOk (r : List Byte) : Bool := crc64 (r.take 4088) == recNum r 4088 8 && recNum r 0 4 == 1

/-- Put the fields of a record in the CKP_SLOT registers; a record that is not whole makes its slot EMPTY (R346). -/
def State.showSlot (s : State) (slot : Nat) (r : List Byte) : State :=
  let ok := recordOk r
  let st := if ok then recNum r 4 1 % 8 + recNum r 7 1 % 2 * 8 + recNum r 6 1 % 32 * 16 else 0
  ((s.setReg (Reg.ckpSlotState slot) (BitVec.ofNat 64 st)).setReg (Reg.ckpSlotStitch slot)
    (BitVec.ofNat 64 (if ok then recNum r 8 8 else 0))).setReg (Reg.ckpSlotGen slot)
    (BitVec.ofNat 64 (if ok then recNum r 16 8 else 0))

/-- Write the record of a slot in one store of 4 KiB. -/
def State.putRecord (s : State) (slot : Nat) (r : List Byte) : State := (s.storeBytes (s.recAddr slot) r).showSlot slot r

/-- The record of a slot; one that holds poison is not whole. -/
def State.getRecord (s : State) (slot : Nat) : List Byte :=
  if s.poisonIn (s.recAddr slot) 4096 then List.replicate 4096 0 else s.bytes (s.recAddr slot) 4096

/-- The pocket engine reads both records (R346). -/
def State.readRecords (s : State) : State :=
  if s.pocketSize = 0 then s
  else [0, 1].foldl (fun s k => s.showSlot k (s.getRecord k)) { s with ckpAll := [], ckpNewest := none }

/-- Does a slot hold a valid generation, COMMITTED or LOADED? -/
def State.slotValid (s : State) (slot : Nat) : Bool :=
  let st := s.regF (Reg.ckpSlotState slot) 0 3
  st == 3 || st == 4
def State.slotGen (s : State) (slot : Nat) : Nat := (s.reg (Reg.ckpSlotGen slot)).toNat

/-- The slot of the newest valid generation (R354, R360). -/
def State.newest (s : State) : Option Nat :=
  match s.ckpNewest with
  | some k => if s.slotValid k then some k else if s.slotValid (1 - k) then some (1 - k) else none
  | none =>
    match s.slotValid 0, s.slotValid 1 with
    | false, false => none
    | true, false => some 0
    | false, true => some 1
    | true, true => some (if s.slotGen 0 < s.slotGen 1 then 1 else 0)

/-! ## Chunks and their digests (R353) -/

/-- The granules of `n` bytes at an address, each with its poison. -/
def State.grans (s : State) (a n : Nat) : List (Granule × Bool) :=
  (List.range (n / 32)).map fun k => (s.granule (a + 32 * k), s.poisoned ((a + 32 * k) / 32))

/-- Write granules from an aligned address on. -/
def State.putGrans (s : State) (a : Nat) (ws : List (Granule × Bool)) : State :=
  ws.zipIdx.foldl (fun s w =>
    let s1 := s.storeBytes (a + 32 * w.2) (granuleBytes w.1.1)
    if w.1.2 then s1.poisonBytes (a + 32 * w.2) 32 else s1) s

/-- The digest of a chunk. -/
def chunkDigest (ws : List (Granule × Bool)) : List Byte :=
  sha256 (ws.flatMap fun w => if w.2 then List.replicate 32 0 else granuleBytes w.1)

/-- The digest of a shard. -/
def shardDigest (chunks : List (List (Granule × Bool))) : List Byte := sha256 (chunks.flatMap chunkDigest)

/-- The chunks of a slot. -/
def State.slotShard (s : State) (slot n : Nat) : List (List (Granule × Bool)) :=
  (List.range n).map fun j => s.grans (s.slotData0 slot + 4096 * j) 4096

/-- The number of chunks that the state block of a slot names. -/
def State.shardLen (s : State) (slot : Nat) : Nat := s.num (s.slotData0 slot + 8) 4

/-- Write zeros over whole granules. -/
def State.wipe (s : State) (a n : Nat) : State :=
  { s with
    mem := s.mem.filter fun p => !(decide (a ≤ p.1) && decide (p.1 < a + n))
    poison := s.poison.filter fun p => !(decide (a / 32 ≤ p.1) && decide (p.1 < (a + n) / 32)) }

/-- Where chunk `j` of member `m` of a group of `g` is folded (R355): the holder and the parity index. -/
def parityOf (g m j : Nat) : Nat × Nat :=
  let i := j % (g - 1)
  (if i < m then i else i + 1, j / (g - 1))

/-- The chunk of member `m` that parity chunk `q` of holder `r` combines. -/
def chunkFor (g m r q : Nat) : Nat := q * (g - 1) + (if r < m then r else r - 1)

/-- The XOR of two chunks. -/
def xorGrans (x y : List (Granule × Bool)) : List (Granule × Bool) :=
  x.zipWith (fun a b => (a.1 ^^^ b.1, a.2 || b.2)) y

/-! ## Messages (R355, log entry 23) -/

/-- The place a message names: kind 0 a parity chunk, 1 a summary, 2 COMMITTED, 3 a record, 4 a data chunk and 5 a parity
chunk for a rebuild. -/
def pktAddr (kind num : Nat) : Nat := kind * 2 ^ 38 + 4096 * num
def pktKind (a : Nat) : Nat := a / 2 ^ 38 % 8

/-- Send a message to a node. -/
def State.sendPkt (s : State) (dst kind num : Nat) (words : List (Granule × Bool)) : State :=
  let q := s.takeTag dst
  let t : PktTx := ⟨dst, q.1, pktAddr kind num, words⟩
  ({ q.2 with pktTx := q.2.pktTx ++ [t] }).putPkt t

/-- The words of bytes. -/
def byteWords (bs : List Byte) : List (Granule × Bool) :=
  (List.range (ceilDiv bs.length 32)).map fun k => (BitVec.ofNat 256 (bytesNat ((bs.drop (32 * k)).take 32)), false)

/-- Send bytes to every other member. -/
def State.sendAll (s : State) (kind num : Nat) (bs : List Byte) : State :=
  s.ckpOthers.foldl (fun s p => s.sendPkt p.2 kind num (byteWords bs)) s

/-! ## Completion of captures (R349, R356) -/

/-- The head of the queue runs where no capture does. -/
def State.nextCapture (s : State) : State :=
  match s.ckpRun, s.ckpQ with
  | none, ref :: q =>
    let a := s.actOf ref.act
    let stitch := match a with
      | some a => a.stitch
      | none => 0
    let pleat := match a with
      | some a => a.pleat
      | none => 0
    { s with ckpQ := q, ckpRun := some ⟨ref, 0, 0, 0, stitch, pleat, 0, 0, [], [], none⟩ }
  | _, _ => s

/-- A capture descriptor completes: STATUS, the counters and events, the signal, and its action. -/
def State.ckpDone (s : State) (ref : CkpRef) (st slot gen : Nat) : State :=
  let s1 := if st = 0 then (s.count64 (Reg.ckpCnt 0) 1).ckpEv 0 slot gen
    else ((s.setReg Reg.ckpLastErr (BitVec.ofNat 64 ref.addr)).count64 (Reg.ckpCnt 1) 1).ckpEv 1 slot gen
  ((s1.writeStatus ckpReq (ref.addr + 3) st).signal (recNum ref.body 33 1)).descDone ref.act ref.idx st 0

/-- The running capture ends. -/
def State.endCapture (s : State) (c : Capture) (st : Nat) : State :=
  let s1 : State := { s with
    ckpRun := none
    pktTx := s.pktTx.filter fun t => decide (if st = 0 then 1 ≤ pktKind t.addr else 2 ≤ pktKind t.addr)
    pktRx := s.pktRx.filter fun m => m.kind != 0
    summaries := [] }
  (s1.ckpDone c.ref st c.slot c.gen).nextCapture

/-- A launched capture joins the queue (R349). -/
def State.enqueueCapture (s : State) (act idx addr : Nat) (body : List Byte) : State :=
  let ref : CkpRef := ⟨act, idx, addr, body, false⟩
  if s.restore.isSome ∨ (s.ckpRun.isSome ∧ 4 ≤ s.ckpQ.length) then s.ckpDone ref 0x74 0 0
  else ({ s with ckpQ := s.ckpQ ++ [ref] }).nextCapture

/-- A capture descriptor that an action names more than once completes with CKP_INVALID (R347). -/
def State.refuseCapture (s : State) (act idx addr : Nat) (body : List Byte) : State :=
  if idx = 0 then s.ckpDone ⟨act, idx, addr, body, false⟩ 0x70 0 0 else s.descDone act idx 0x70 0

/-- Launch the capture of an action; COUNT must be 1 (R347). -/
def State.launchCkp (s : State) (l : Launch) (inPleat : Bool) : State :=
  launchDescs 64 0x70 (if l.count = 1 then State.enqueueCapture else State.refuseCapture) s.nextAct l.desc l.count 0
    (s.startAct l inPleat)

/-- ACTION_CHECKPOINT (R347). -/
def execActionCheckpoint (s : State) : Host.Outcome State Fault Refusal :=
  match s.takeLaunch 7 with
  | some (l, s1) => .next (s1.launchCkp l true)
  | none => .next s

/-! ## The state block (R352) -/

/-- Bytes completed with zeros to a length. -/
def padTo (n : Nat) (bs : List Byte) : List Byte := bs ++ List.replicate (n - bs.length) 0

/-- The image of the window of monitor set `n`. -/
def State.monImage (s : State) (n : Nat) : List Byte :=
  let r4 (o : Nat) : List Byte := natBytes 4 (s.reg o).toNat
  let r8 (o : Nat) : List Byte := natBytes 8 (s.reg o).toNat
  r4 (Reg.monCfg n) ++ r4 (Reg.monCtrl n) ++ r4 (Reg.monScale n) ++ r4 (Reg.monAmax n) ++ r8 (Reg.monBase n) ++
    r8 (Reg.monLimit n) ++ r8 (Reg.monQaddr n) ++ r8 (Reg.monDaddr n) ++ r4 (Reg.monFill n) ++
    natBytes 4 (s.monHstat n).toNat ++ natBytes 8 (s.monHistWord n 2).toNat ++ r8 (Reg.monCntElems n) ++
    r8 (Reg.monCntZero n) ++ r8 (Reg.monCntSat n) ++ r8 (Reg.monCntNonfinite n) ++ r8 (Reg.monCntEmptyRow n) ++
    natBytes 8 (s.monHistWord n 3).toNat ++ r8 (Reg.monHist n 0) ++ r8 (Reg.monHist n 1)

/-- The state block. -/
def State.stateBlock (s : State) (c : Capture) (nseg chunks bad : Nat) (segs : List Byte) : List Byte :=
  let head := padTo 0x40 (natBytes 4 1 ++ natBytes 4 nseg ++ natBytes 4 chunks ++ natBytes 4 bad) ++
    natBytes 8 c.stitch.toNat ++ natBytes 1 c.pleat ++ List.replicate 7 0 ++ natBytes 8 (s.reg Reg.bobSeed).toNat ++
    natBytes 4 (s.regF Reg.detCfg 0 3) ++ natBytes 4 (s.reg Reg.timNpleat).toNat
  let groups := (List.range 256).flatMap fun g => natBytes 4 (s.regF (Reg.colGSeq g) 0 16 + bnat (s.grpValid g) * 65536)
  let wps := (List.range 16).flatMap fun k => natBytes 8 (s.reg (Reg.timTsetWp k)).toNat
  let mons := (List.range 1024).flatMap s.monImage
  padTo 0x20000 (padTo 0x8000 (padTo 0x2000 (padTo 0x1000 head ++ groups) ++ segs) ++ wps) ++ mons

/-! ## Captures (R350, R351, R354) -/

/-- The segments of a list, by address and length. -/
def segPairs (l : List Byte) (n : Nat) : List (Nat × Nat) :=
  (List.range n).map fun i => (recNum l (16 * i) 8, recNum l (16 * i + 8) 8)

/-- Do `n` bytes at an address lie in working memory? -/
def State.inWorking (s : State) (a n : Nat) : Bool := (firstRefused (fun x => s.region x == .working) a n).isNone

/-- May a segment be captured? -/
def State.segOk (s : State) (p : Nat × Nat) : Bool :=
  p.1 % 64 == 0 && p.2 != 0 && decide (p.1 + p.2 ≤ s.pocketBase) && s.region p.1 == .working

/-- The chunks of the data of a shard. -/
def segChunks (segs : List (Nat × Nat)) : Nat := (segs.map fun p => ceilDiv p.2 4096).foldl (· + ·) 0

/-- The status of a descriptor that captures nothing (R351); 0 where it may go on. Without a pocket every capture is too large
(R345). -/
def State.captureStatus (s : State) (b : List Byte) : Nat :=
  let n := recNum b 4 4
  let a := recNum b 8 8
  let mx := recNum b 16 8
  let cm := mx / 4096
  let g := s.ckpG
  if s.pocketSize = 0 then 0x71
  else if recNum b 0 3 ≠ 0 ∨ recNum b 36 28 ≠ 0 ∨ n = 0 ∨ 1024 < n ∨ a % 64 ≠ 0 ∨ s.inWorking a (16 * n) = false then 0x70
  else
    let segs := segPairs (s.bytes a (16 * n)) n
    if segs.all s.segOk = false then 0x70
    else if mx < 4096 * (64 + segChunks segs) ∨ s.slotChunks < cm + (if g = 1 then 0 else ceilDiv cm (g - 1)) then 0x71
    else 0

/-- Copy a segment into a slot, padding its last chunk with zeros. -/
def State.copyIn (s : State) (src dst n : Nat) : State :=
  let s1 := s.storeBytes dst (padTo (ceilDiv n 4096 * 4096) (s.bytes src n))
  ((granules src n).filter s.poisoned).foldl (fun s g => s.poisonBytes (dst + (32 * g - src)) 32) s1

/-- Copy segments one after another. -/
def copySegs : List (Nat × Nat) → Nat → State → State
  | [], _, s => s
  | p :: r, dst, s => copySegs r (dst + ceilDiv p.2 4096 * 4096) (s.copyIn p.1 dst p.2)

/-- The first 48 bytes of a commit record after FORMAT, of a capture by this member; then the digests. -/
def State.recordOf (s : State) (c : Capture) (st : Nat) (digests : List Byte) : List Byte :=
  sealRecord (padTo 64 (natBytes 4 1 ++ natBytes 1 st ++ natBytes 1 s.ckpG ++ natBytes 1 s.ckpIdx ++
    natBytes 1 (bnat (decide (2 ≤ s.ckpG))) ++ natBytes 8 c.stitch.toNat ++ natBytes 8 c.gen ++
    ((c.ref.body.drop 24).take 8) ++ ((c.ref.body.drop 16).take 8) ++ natBytes 8 (crc64 s.ckpListBytes)) ++ digests)

/-- The member's own digest in its place. -/
def State.ownDigest (s : State) (d : List Byte) : List Byte := List.replicate (32 * s.ckpIdx) 0 ++ d

/-- Fold a received chunk into the parity this member holds (R355). -/
def State.foldParity (s : State) (m : PktMsg) : State :=
  match s.ckpRun, s.ckpOthers.find? fun p => p.2 == m.src with
  | some c, some p =>
    if c.got.contains (p.1, m.num) ∨ s.ckpG = 1 ∨ ceilDiv c.cmax (s.ckpG - 1) ≤ m.num then s
    else
      let a := s.slotData0 c.slot + 4096 * (c.cmax + m.num)
      { s.putGrans a (xorGrans (s.grans a 4096) m.words) with ckpRun := some { c with got := c.got ++ [(p.1, m.num)] } }
  | _, _ => s

/-- Has every other member announced COMMITTED for the newest valid generation (R354)? -/
def State.gateOpen (s : State) : Bool :=
  match s.newest with
  | none => true
  | some k => s.ckpAll.contains k || s.ckpOthers.all fun p => Tbl.get 0 s.announced p.2 == s.slotGen k + 1

/-- Send each chunk of the shard to its parity holder. -/
def State.sendParity (s : State) (slot n : Nat) : State :=
  if s.ckpG = 1 then s
  else (List.range n).foldl (fun s j =>
    let r := parityOf s.ckpG s.ckpIdx j
    s.sendPkt (s.ckpNodes.getD r.1 0xFFFF) 0 r.2 (s.grans (s.slotData0 slot + 4096 * j) 4096)) s

/-- The target slot is opened and the shard is copied (R354 steps 2 and 3). -/
def State.openCapture (s : State) (c : Capture) : State :=
  let b := c.ref.body
  let slot := match s.newest with
    | some k => 1 - k
    | none => 0
  let gen := match s.newest with
    | some k => s.slotGen k + 1
    | none => 1
  let n := recNum b 4 4
  let list := s.bytes (recNum b 8 8) (16 * n)
  let segs := segPairs list n
  let bad := (segs.map fun p => ((granules p.1 p.2).filter s.poisoned).length).foldl (· + ·) 0
  let chunks := 64 + segChunks segs
  let c1 := { c with stage := 1, slot := slot, gen := gen, cmax := recNum b 16 8 / 4096, chunks := chunks }
  let base := s.slotData0 slot
  let s1 := { s with ckpAll := s.ckpAll.filter fun k => k != slot, ckpNewest := s.newest }.putRecord slot (s.recordOf c1 1 [])
  let s2 := copySegs segs (base + 0x40000) (s1.storeBytes base (s.stateBlock c n chunks bad list))
  let s3 := s2.wipe (base + 4096 * c1.cmax) (4096 * (if s.ckpG = 1 then 0 else ceilDiv c1.cmax (s.ckpG - 1)))
  let s4 := (s3.count64 (Reg.ckpCnt 2) (4096 * chunks)).count64 (Reg.ckpCnt 6) bad
  let early := s.pktRx.filter fun m => m.kind == 0
  let s5 := { s4 with ckpRun := some c1, pktRx := s4.pktRx.filter fun m => m.kind != 0 }.sendParity slot chunks
  early.foldl State.foldParity s5

/-- Is the capture of the gate waiting for its counter? -/
def Capture.waits (c : Capture) (s : State) : Bool :=
  !c.ref.released && !s.waitMet (recNum c.ref.body 32 1) (recNum c.ref.body 34 2)

/-- Is the capture held at its gate: members that did not announce, or a transfer of its slot? -/
def State.gateHeld (s : State) : Bool :=
  !s.gateOpen || match s.xfer, s.newest with
    | some x, some k => x.slot == 1 - k
    | some x, none => x.slot == 0
    | none, _ => false

/-- The memory that a capture reads: its list and its segments. -/
def State.captureSpans (s : State) (b : List Byte) : List (Nat × Nat) :=
  let n := recNum b 4 4
  let a := recNum b 8 8
  (a, 16 * n) :: segPairs (s.bytes a (16 * n)) n

/-- The wait for the other members begins. -/
def State.gateWait (s : State) (c : Capture) : State :=
  if c.since.isSome then s else { s with ckpRun := some { c with since := some s.ft } }

/-- CAPTURE_GATE_OPEN (R354 steps 1 to 3): it waits for the members, for a transfer of its slot, and for lines of what it captures
that are not free. -/
def execCaptureGateOpen (s : State) : Host.Outcome State Fault Refusal :=
  match s.ckpRun with
  | none => .next s
  | some c =>
    if c.stage ≠ 0 ∨ c.waits s = true then .next s
    else
      let b := c.ref.body
      let a := recNum b 8 8
      let st := s.captureStatus b
      if st ≠ 0 then .next (s.endCapture c st)
      else if s.poisonIn a (16 * recNum b 4 4) then .next ((s.endCapture c 0x70).poisonKill 0 a)
      else if s.gateHeld then .next (s.gateWait c)
      else if (s.captureSpans b).any fun p => s.rangeBusy p.1 p.2 false then
        .next ((s.captureSpans b).foldl (fun s p => s.askRange p.1 p.2 false) s)
      else .next (s.openCapture c)

/-- The summary of a capture (R354 step 4). -/
def State.summaryOf (s : State) (c : Capture) : List Byte :=
  padTo 64 (natBytes 8 c.gen ++ natBytes 8 c.stitch.toNat ++ ((c.ref.body.drop 24).take 8) ++ ((c.ref.body.drop 16).take 8) ++
    natBytes 4 s.ckpG ++ natBytes 4 c.chunks ++ natBytes 8 (crc64 s.ckpListBytes)) ++ c.digest

/-- Do two summaries agree in all fields but C and the digest? -/
def summariesAgree (x y : List Byte) : Bool := x.take 36 == y.take 36 && (x.drop 40).take 8 == (y.drop 40).take 8

/-- The summary that a member sent. -/
def State.summaryFrom (s : State) (node : Nat) : List Byte := Tbl.get [] s.summaries node

/-- Does some summary that arrived disagree with the own one? -/
def State.disagrees (s : State) (c : Capture) : Bool :=
  s.ckpOthers.any fun p => s.summaryFrom p.2 != [] && !summariesAgree (s.summaryFrom p.2) (s.summaryOf c)

/-- CAPTURE_EXCHANGE (R354 step 4). -/
def execCaptureExchange (s : State) : Host.Outcome State Fault Refusal :=
  match s.ckpRun with
  | none => .next s
  | some c =>
    if c.stage ≠ 1 then .next s
    else
      let c1 := { c with stage := 2, digest := shardDigest (s.slotShard c.slot c.chunks), since := some s.ft }
      let s1 := { s with ckpRun := some c1 }.sendAll 1 0 (s.summaryOf c1)
      let s2 := s1.putRecord c.slot (s.recordOf c1 2 (s.ownDigest c1.digest))
      .next (if s2.disagrees c1 then s2.endCapture c1 0x72 else s2)

/-- How many chunks of a member of `n` chunks this member folds. -/
def State.parityFrom (s : State) (m n : Nat) : Nat :=
  let i := if s.ckpIdx < m then s.ckpIdx else s.ckpIdx - 1
  ceilDiv (n - i) (s.ckpG - 1)

/-- Is everything there that a commit needs (R354 step 5)? -/
def State.commitReady (s : State) (c : Capture) : Bool :=
  (s.ckpOthers.all fun p =>
    s.summaryFrom p.2 != [] && summariesAgree (s.summaryFrom p.2) (s.summaryOf c) &&
      (c.got.filter fun q => q.1 == p.1).length == s.parityFrom p.1 (recNum (s.summaryFrom p.2) 36 4)) &&
    !(s.pktTx.any fun t => pktKind t.addr == 0)

/-- CAPTURE_COMMIT (R354 step 5). -/
def execCaptureCommit (s : State) : Host.Outcome State Fault Refusal :=
  match s.ckpRun with
  | none => .next s
  | some c =>
    if c.stage ≠ 2 ∨ s.commitReady c = false then .next s
    else
      let digests := (List.range s.ckpG).flatMap fun k =>
        if k = s.ckpIdx then c.digest else ((s.summaryFrom (s.ckpNodes.getD k 0xFFFF)).drop 64).take 32
      let s1 := { s with ckpNewest := none }.putRecord c.slot (s.recordOf c 3 digests)
      .next ((s1.sendAll 2 0 (natBytes 8 c.gen)).endCapture c 0)

/-! ## Receiving (R355) -/

/-- The bytes of a message; none where a word of it is poison. -/
def PktMsg.bytes (m : PktMsg) : Option (List Byte) :=
  if m.words.any fun w => w.2 then none else some (m.words.flatMap fun w => granuleBytes w.1)

/-- A message was received whole. -/
def State.takePkt (s : State) (m : PktMsg) : State :=
  match m.kind with
  | 0 =>
    let s1 := s.count64 (Reg.ckpCnt 3) (32 * m.words.length)
    match s1.ckpRun with
    | some c => if c.stage = 0 then { s1 with pktRx := s1.pktRx ++ [m] } else s1.foldParity m
    | none => { s1 with pktRx := s1.pktRx ++ [m] }
  | 1 => match m.bytes with
    | none => s
    | some b =>
      let s1 := { s with summaries := Tbl.set [] s.summaries m.src b }
      match s1.ckpRun with
      | some c => if c.stage = 2 ∧ s1.disagrees c = true then s1.endCapture c 0x72 else s1
      | none => s1
  | 2 => match m.bytes with
    | none => s
    | some b => { s with announced := Tbl.set 0 s.announced m.src (recNum b 0 8 + 1) }
  | 3 | 4 | 5 => { s with pktRx := s.pktRx ++ [m] }
  | _ => s

/-- The LAST flit of a message: its CRC decides as for a chunk (R284). -/
def State.endPkt (s : State) (f : Flit) (c : ChunkRx) : State :=
  let q := ({ s with chunksRx := s.chunksRx.erase c }).takeWords c.words
  let kind := pktKind c.addr
  let num := c.addr % 2 ^ 38 / 4096
  if crc64 (q.2.flatMap fun w => granuleBytes w.1) = f.trailer.toNat then
    (q.1.ackChunk f 0x19 0 []).takePkt ⟨c.src, kind, num, q.2⟩
  else if c.retried then
    (((q.1.fabEv 10 c.src c.addr).ackChunk f 0x19 2 (pagePieces 0 (32 * q.2.length))).takePkt
      ⟨c.src, kind, num, q.2.map fun w => (w.1, true)⟩)
  else ({ q.1 with chunksRx := q.1.chunksRx ++ [{ c with words := [], retried := true }] }).ackChunk f 0x19 1 []

/-- POCKET_DATA (R355). A chunk for which there is none of the 256 buffers is to be sent again (log entry 23). -/
def execPocketData (f : Flit) (s : State) : Host.Outcome State Fault Refusal :=
  let a := s.accept f 0x18
  if a.2 = false then .next a.1
  else if a.1.chunkRoom f = false then .next (if f.last then a.1.ackChunk f 0x19 1 [] else a.1)
  else
    let q := a.1.collectFlit f
    .next (if f.last then q.1.endPkt f q.2 else q.1)

/-- POCKET_ACK (R354, R284). -/
def execPocketAck (f : Flit) (s : State) : Host.Outcome State Fault Refusal :=
  let a := s.accept f 0x19
  if a.2 = false then .next a.1
  else match a.1.pktTx.find? fun t => t.dst == f.src.toNat && t.tag == f.tag.toNat with
    | none => .next a.1
    | some t =>
      if fld f.trailer 16 8 = 1 then .next ((a.1.count64 (Reg.fabCnt 12) 1).putPkt t)
      else .next { a.1 with pktTx := a.1.pktTx.erase t }

/-! ## Restores (R357 to R360) -/

/-- A restore ends. -/
def State.endRestore (s : State) (r : Restore) (st : Nat) : State :=
  let s1 : State := { s with restore := none, pktRx := s.pktRx.filter fun m => decide (m.kind < 3) }
  ((s1.setRegB Reg.ckpRstCtrl 0 false).setRegF Reg.ckpRstStatus 0 8 st).ckpEv (if st = 0 then 4 else 5) r.slot (s.slotGen r.slot)

/-- The first 1,088 bytes of a slot's record where its shard matches its digest; zeros otherwise (R358). -/
def State.heldRecord (s : State) (slot : Nat) : List Byte :=
  let r := s.getRecord slot
  let n := s.shardLen slot
  if s.slotValid slot && decide (n ≤ s.slotChunks) &&
      (r.drop (64 + 32 * recNum r 6 1)).take 32 == shardDigest (s.slotShard slot n)
  then r.take 1088 else List.replicate 1088 0

/-- A write to CKP_RST_CTRL (R357). -/
def State.rstCtrlWrite (s : State) (v : W64) : State :=
  let s1 := s.plainWrite Reg.ckpRstCtrl (setBit v 0 (s.regB Reg.ckpRstCtrl 0))
  if bit v 0 = false ∨ s.restore.isSome then s1
  else
    let s2 := s1.setReg Reg.ckpRstStatus 0
    let r : Restore := ⟨false, 0, 0, none, false, s.ft⟩
    let placed := decide (s.ckpIdx < s.ckpG) && (s.ckpG == 1 || s.ckpNodes.getD s.ckpIdx 0xFFFF == s.node)
    if s.running ∨ ((List.range 256).any s.grpValid) = true ∨ placed = false then s2.endRestore r 0x75
    else
      let s3 := { s2.setRegB Reg.ckpRstCtrl 0 true with restore := some r }
      [0, 1].foldl (fun t k => t.sendAll 3 k (s.heldRecord k)) s3

/-- RESTORE_GO (R357). -/
def execRestoreGo (v : BitVec 32) (s : State) : Host.Outcome State Fault Refusal :=
  .next (s.bar Reg.ckpRstCtrl fun s => s.rstCtrlWrite (v.zeroExtend 64))

/-- The records that a node sent for both its slots. -/
def State.recordsFrom (s : State) (node : Nat) : List (List Byte) :=
  (s.pktRx.filter fun m => m.kind == 3 && m.src == node).filterMap PktMsg.bytes

/-- Did every member answer (R358)? -/
def State.allAnswered (s : State) : Bool := s.ckpOthers.all fun p => [0, 1].all fun k =>
  s.pktRx.any fun m => m.kind == 3 && m.src == p.2 && m.num == k

/-- What records of one generation agree in: G and bytes 8 to 1,087. -/
def recordKey (r : List Byte) : List Byte := (r.drop 5).take 1 ++ (r.drop 8).take 1080

/-- Is a stitch usable, given the records that carry it; and which INDEX is missing (R358)? -/
def usableSet (g : Nat) (rs : List (List Byte)) : Option (Option Nat) :=
  match rs with
  | [] => none
  | r :: _ =>
    let lacks := (List.range g).filter fun k => !(rs.any fun x => recNum x 6 1 == k)
    if (rs.all fun x => recordKey x == recordKey r) = false then none
    else match lacks with
      | [] => some none
      | [l] => if rs.all fun x => recNum x 7 1 % 2 == 1 then some (some l) else none
      | _ => none

/-- The greatest of a list of numbers. -/
def greatest (l : List Nat) : Option Nat := match l with
  | [] => none
  | x :: xs => some (xs.foldl max x)

/-- RESTORE_CHOOSE (R358). -/
def execRestoreChoose (s : State) : Host.Outcome State Fault Refusal :=
  match s.restore with
  | none => .next s
  | some r =>
    if r.chosen ∨ s.allAnswered = false then .next s
    else
      let own := [0, 1].map fun k => (k, s.heldRecord k)
      let all := ((own.map fun p => p.2) ++ s.ckpOthers.flatMap fun p => s.recordsFrom p.2).filter fun x =>
        decide (3 ≤ recNum x 4 1)
      let at_ (t : Nat) : List (List Byte) := all.filter fun x => recNum x 8 8 == t
      let want := (s.reg Reg.ckpRstStitch).toNat
      let ts := if s.regB Reg.ckpRstCtrl 1 then [want] else (all.map fun x => recNum x 8 8).eraseDups
      match greatest (ts.filter fun t => (usableSet s.ckpG (at_ t)).isSome) with
      | none => .next (s.endRestore r 0x72)
      | some t =>
        let missing := (usableSet s.ckpG (at_ t)).getD none
        let mine := own.find? fun p => decide (3 ≤ recNum p.2 4 1) && recNum p.2 8 8 == t
        let slot := match mine with
          | some p => p.1
          | none => if (s.reg (Reg.ckpSlotStitch 0)).toNat = t ∧ s.slotValid 0 then 0
            else if (s.reg (Reg.ckpSlotStitch 1)).toNat = t ∧ s.slotValid 1 then 1
            else match s.newest with
              | some k => 1 - k
              | none => 0
        if (all.any fun x => recNum x 8 8 == t && recNum x 5 1 != s.ckpG) ∨ (mine.isNone ∧ missing ≠ some s.ckpIdx) then
          .next (s.endRestore r 0x72)
        else
          let s1 := (s.setRegF Reg.ckpRstStatus 8 1 slot).setRegF Reg.ckpRstStatus 10 6
            (match missing with
              | some l => 1 + 2 * l
              | none => 0)
          .next { s1 with restore := some ⟨true, t, slot, missing, missing.isNone, r.since⟩ }

/-- A chunk received for a rebuild from member `m`. -/
def State.rebuildChunk (s : State) (kind m num : Nat) : Option (List (Granule × Bool)) :=
  (s.pktRx.find? fun p => p.kind == kind && p.src == s.ckpNodes.getD m 0xFFFF && p.num == num).map fun p => p.words

/-- A chunk of zeros. -/
def zeroChunk : List (Granule × Bool) := List.replicate 128 (0, false)

/-- The length of a member's shard, from its first chunk. -/
def shardChunks (c : List (Granule × Bool)) : Nat := match c with
  | [] => 0
  | w :: _ => fld w.1 64 32

/-- The chunks of the stripe of holder `r` and index `q`, of every member but those of a list. -/
def State.stripe (s : State) (skip : List Nat) (r q : Nat) : List (List (Granule × Bool)) :=
  ((List.range s.ckpG).filter fun m => m != r && !skip.contains m).map fun m =>
    (s.rebuildChunk 4 m (chunkFor s.ckpG m r q)).getD zeroChunk

/-- Chunk `j` of the missing member: its parity and the other chunks of the stripe (R359). -/
def State.rebuilt (s : State) (l j : Nat) : List (Granule × Bool) :=
  let p := parityOf s.ckpG l j
  (s.stripe [l] p.1 p.2).foldl xorGrans ((s.rebuildChunk 5 p.1 p.2).getD zeroChunk)

/-- Have all the chunks of the survivors arrived? -/
def State.rebuildReady (s : State) (l nq : Nat) : Bool :=
  ((List.range s.ckpG).filter fun m => m != l).all fun m =>
    (match s.rebuildChunk 4 m 0 with
      | none => false
      | some c => (List.range (shardChunks c)).all fun j => (s.rebuildChunk 4 m j).isSome) &&
      (List.range nq).all fun q => (s.rebuildChunk 5 m q).isSome

/-- SHARD_REBUILD (R359): a survivor sends its chunks to the missing member, which forms its shard from them. -/
def execShardRebuild (s : State) : Host.Outcome State Fault Refusal :=
  match s.restore with
  | none => .next s
  | some r => match r.missing with
    | none => .next s
    | some l =>
      if r.chosen = false ∨ r.ready then .next s
      else if l ≠ s.ckpIdx then
        let n := s.shardLen r.slot
        let cm := recNum (s.getRecord r.slot) 32 8 / 4096
        let dst := s.ckpNodes.getD l 0xFFFF
        let base := s.slotData0 r.slot
        let s1 := (List.range n).foldl (fun s j => s.sendPkt dst 4 j (s.grans (base + 4096 * j) 4096)) s
        let s2 := (List.range (ceilDiv cm (s.ckpG - 1))).foldl
          (fun s q => s.sendPkt dst 5 q (s.grans (base + 4096 * (cm + q)) 4096)) s1
        .next { s2 with restore := some { r with ready := true } }
      else
        let recs := (s.ckpOthers.flatMap fun p => s.recordsFrom p.2).filter fun x =>
          decide (3 ≤ recNum x 4 1) && recNum x 8 8 == r.stitch
        match recs with
        | [] => .next s
        | x :: _ =>
          let cm := recNum x 32 8 / 4096
          let nq := ceilDiv cm (s.ckpG - 1)
          if s.rebuildReady l nq = false then .next s
          else
            let n := min cm (shardChunks (s.rebuilt l 0))
            let shard := (List.range n).map (s.rebuilt l)
            if shardDigest shard ≠ (x.drop (64 + 32 * l)).take 32 then .next (s.endRestore r 0x72)
            else
              let base := s.slotData0 r.slot
              let s1 := shard.zipIdx.foldl (fun t c => t.putGrans (base + 4096 * c.2) c.1) s
              let s2 := (List.range nq).foldl (fun t q =>
                t.putGrans (base + 4096 * (cm + q)) ((s.stripe [] l q).foldl xorGrans zeroChunk)) s1
              let record := sealRecord (natBytes 4 1 ++ natBytes 1 3 ++ natBytes 1 s.ckpG ++ natBytes 1 l ++ natBytes 1 1 ++
                (x.drop 8).take 1080)
              let s3 := ((s2.putRecord r.slot record).setRegB Reg.ckpRstStatus 9 true).count64 (Reg.ckpCnt 5) 1
              .next ({ s3 with
                restore := some { r with ready := true }
                pktRx := s3.pktRx.filter fun m => decide (m.kind < 4) }.ckpEv 6 r.slot (recNum x 16 8))

/-- Copy a segment back from a slot. -/
def State.copyOut (s : State) (src dst n : Nat) : State :=
  (List.range (ceilDiv n 32)).foldl (fun s k =>
    let m := min 32 (n - 32 * k)
    if s.poisoned ((src + 32 * k) / 32) then s.storePoison ckpReq (dst + 32 * k) m
    else s.store ckpReq (dst + 32 * k) (s.bytes (src + 32 * k) m)) s

/-- Write segments back, one after another. -/
def writeSegs : List (Nat × Nat) → Nat → State → State
  | [], _, s => s
  | p :: r, src, s => writeSegs r (src + ceilDiv p.2 4096 * 4096) (s.copyOut src p.1 p.2)

/-- Put a monitor set back from its image at an address; it is left armed as it was captured (R360). -/
def State.putMon (s : State) (a n : Nat) : State :=
  let w4 (s : State) (reg o : Nat) : State := s.setReg reg (BitVec.ofNat 64 (s.num (a + o) 4))
  let w8 (s : State) (reg o : Nat) : State := s.setReg reg (BitVec.ofNat 64 (s.num (a + o) 8))
  let s1 := w4 (w4 (w4 (w4 s (Reg.monCfg n) 0) (Reg.monCtrl n) 4) (Reg.monScale n) 8) (Reg.monAmax n) 12
  let s2 := w8 (w8 (w8 (w8 s1 (Reg.monBase n) 0x10) (Reg.monLimit n) 0x18) (Reg.monQaddr n) 0x20) (Reg.monDaddr n) 0x28
  let s3 := (w4 s2 (Reg.monFill n) 0x30).setReg (Reg.monHstat n) (BitVec.ofNat 64 (s.num (a + 0x34) 4 / 2 ^ 15 % 2 * 2 ^ 15))
  let s4 := w8 (w8 (w8 s3 (Reg.monCntElems n) 0x40) (Reg.monCntZero n) 0x48) (Reg.monCntSat n) 0x50
  let s5 := w8 (w8 s4 (Reg.monCntNonfinite n) 0x58) (Reg.monCntEmptyRow n) 0x60
  let s6 := w8 (w8 s5 (Reg.monHist n 0) 0x70) (Reg.monHist n 1) 0x78
  let h := Tbl.set 0x8000800080008000 s6.monHi (2 * n) (BitVec.ofNat 64 (s.num (a + 0x38) 8))
  { s6 with
    monHi := Tbl.set 0x8000800080008000 h (2 * n + 1) (BitVec.ofNat 64 (s.num (a + 0x68) 8))
    monNow := Tbl.erase s6.monNow n }

/-- RESTORE_WRITE_BACK (R360), while RUN is still 0 (R357); it waits for lines of the segments that are not free. -/
def execRestoreWriteBack (s : State) : Host.Outcome State Fault Refusal :=
  match s.restore with
  | none => .next s
  | some r =>
    if r.chosen = false ∨ r.ready = false then .next s
    else
      let b := s.slotData0 r.slot
      let seed := s.num (b + 0x50) 8
      let det := s.num (b + 0x58) 4 % 8
      let n := s.num (b + 4) 4
      let segs := segPairs (s.bytes (b + 0x2000) (16 * n)) n
      if s.running ∨ (s.regB Reg.bobCtrl 0 && (s.reg Reg.bobSeed).toNat != seed) ∨ (s.regB Reg.detCfg 31 && s.regF Reg.detCfg 0 3 != det)
      then .next (s.endRestore r 0x75)
      else if segs.any fun p => s.rangeBusy p.1 p.2 true then .next (segs.foldl (fun s p => s.askRange p.1 p.2 true) s)
      else
        let s1 := writeSegs segs (b + 0x40000) s
        let s2 := (s1.setReg Reg.bobSeed (BitVec.ofNat 64 seed)).setRegF Reg.detCfg 0 3 det
        let s3 := (List.range 16).foldl (fun t k => t.setReg (Reg.timTsetWp k) (BitVec.ofNat 64 (s.num (b + 0x8000 + 8 * k) 8))) s2
        let s4 := (List.range 256).foldl (fun t g =>
          let x := s.num (b + 0x1000 + 4 * g) 4
          if x / 65536 % 2 = 1 then t.setRegF (Reg.colGSeq g) 0 16 (x % 65536) else t) s3
        let s5 := (List.range 1024).foldl (fun t m => t.putMon (b + 0x20000 + 0x80 * m) m) s4
        let s6 := s5.setReg Reg.timStitch (BitVec.ofNat 64 (r.stitch + 1))
        .next ({ s6 with ckpNewest := some r.slot, ckpAll := s6.ckpAll.filter (fun k => k != r.slot) ++ [r.slot] }.endRestore r 0)

/-- Have CKP_PEER_TIMEOUT microseconds passed since a time? -/
def State.peerLate (s : State) (t : Nat) : Bool := decide (t + usec * (s.reg Reg.ckpPeerTimeout).toNat ≤ s.ft)

/-- CKP_PEER_TIMEOUT (R354, R356, R358): a member did not answer in time. -/
def execCkpPeerTimeout (s : State) : Host.Outcome State Fault Refusal :=
  match s.restore with
  | some r => if r.chosen ∨ s.allAnswered ∨ s.peerLate r.since = false then .next s else .next (s.endRestore r 0x73)
  | none => match s.ckpRun with
    | none => .next s
    | some c =>
      if (c.since.map s.peerLate).getD false = false then .next s
      else if c.stage = 0 ∧ c.waits s = false ∧ s.captureStatus c.ref.body = 0 ∧ s.gateOpen = false then
        .next (s.endCapture c 0x73)
      else if c.stage = 2 ∧ (s.ckpOthers.any fun p => s.summaryFrom p.2 == []) = true then .next (s.endCapture c 0x73)
      else .next s

/-! ## Transfers (R361 to R363) -/

/-- A transfer ends: RESULT and its events. -/
def State.endXfer (s : State) (x : PktXfer) (st : Nat) : State :=
  let s1 := (({ s with xfer := none }.setRegB Reg.ckpXferCtrl 0 false).setRegF Reg.ckpXferCtrl 24 8 st).ckpEv 2 x.slot
    (s.slotGen x.slot)
  if st ≠ 0 ∨ x.failed ≠ 0 then s1.ckpEv 3 x.slot (s.slotGen x.slot) else s1

/-- A transfer is refused. -/
def State.refuseXfer (s : State) (slot st : Nat) : State := (s.setRegF Reg.ckpXferCtrl 24 8 st).ckpEv 3 slot (s.slotGen slot)

/-- The parts of `n` bytes that go to an address, by page of the destination: destination and source. -/
def drainParts (dst src n : Nat) : List (Nat × Nat × Nat) :=
  if n = 0 then [] else
  (List.range ((dst + n - 1) / 4096 - dst / 4096 + 1)).map fun i =>
    let lo := max dst ((dst / 4096 + i) * 4096)
    (lo, src + (lo - dst), min (dst + n) ((dst / 4096 + i) * 4096 + 4096) - lo)

/-- Move part of an image into the package's own memory; a piece of 256 bytes that cannot be written is counted. -/
def State.drainPiece (s : State) (ga : Nat) (p : Nat × Nat × Nat) : State :=
  let s := s.chunkEvent ckpReq s.accessible p.1 p.2.2
  let pieces := (List.range 16).filterMap fun k =>
    let lo := max p.1 (p.1 / 4096 * 4096 + 256 * k)
    let hi := min (p.1 + p.2.2) (p.1 / 4096 * 4096 + 256 * k + 256)
    if lo < hi then some (lo, p.2.1 + (lo - p.1), hi - lo) else none
  pieces.foldl (fun s q =>
    if (firstRefused s.accessible q.1 q.2.2).isSome then
      { s with xfer := s.xfer.map fun x => { x with failed := x.failed + 1 } }
    else (sectors q.1 q.2.2).foldl (fun s z =>
      let src := q.2.1 + (z.1 - q.1)
      s.gstore ckpReq (ga / 2 ^ 48 * 2 ^ 48 + z.1) (s.bytes src z.2.2) (s.poisonIn src z.2.2)) s) s

/-- Send part of an image to another node. -/
def State.drainSend (s : State) (ga : Nat) (p : Nat × Nat × Nat) : State :=
  let dst := ga / 2 ^ 48 % 65536
  let q := s.takeTag dst
  let c : ChunkTx := { dst := dst, tag := q.1, read := false, src := p.2.1, addr := p.1, len := p.2.2, owner := none,
                       fill := none, bad := [], pocket := true, replica := false, seq := 0, since := 0 }
  q.2.openChunk ckpReq c

/-- Ask another node for part of an image. -/
def State.loadAsk (s : State) (ga dest n : Nat) : State :=
  let dst := ga / 2 ^ 48 % 65536
  let q := s.takeTag dst
  let c : ChunkTx := { dst := dst, tag := q.1, read := true, src := ga, addr := dest, len := n, owner := none, fill := none,
                       bad := [], pocket := true, replica := false, seq := 0, since := 0 }
  q.2.openChunk ckpReq c

/-- Start a drain (R361, R362). -/
def State.startDrain (s : State) (slot : Nat) : State :=
  if s.slotValid slot = false then s.refuseXfer slot 0x74
  else
    let n := s.shardLen slot
    let ga := (s.reg Reg.ckpXferAddr).toNat
    let a := devAddr ga
    let parts := drainParts a (s.recAddr slot) 4096 ++ drainParts (a + 4096) (s.slotData0 slot) (4096 * n)
    let s1 := ((s.setRegB Reg.ckpXferCtrl 0 true).setReg Reg.ckpXferFailed 0).setReg Reg.ckpXferLen (BitVec.ofNat 64 (4096 * (n + 1)))
    let left := if s.isLocal ga then 0 else parts.length
    let s2 := { s1 with xfer := some ⟨slot, false, ga, n, 0, left, []⟩ }
    if s.isLocal ga then parts.foldl (fun t p => t.drainPiece ga p) s2 else parts.foldl (fun t p => t.drainSend ga p) s2

/-- Start a load (R363): the slot holds no generation from now on. An image of the package's own is read at once when it is moved. -/
def State.startLoad (s : State) (slot : Nat) : State :=
  if s.running ∨ s.ckpRun.isSome ∨ s.restore.isSome then s.refuseXfer slot 0x75
  else
    let ga := (s.reg Reg.ckpXferAddr).toNat
    let s1 := ((s.setRegB Reg.ckpXferCtrl 0 true).setReg Reg.ckpXferFailed 0).setReg Reg.ckpXferLen 0
    let s2 := s1.putRecord slot (List.replicate 4096 0)
    if s.isLocal ga then { s2 with xfer := some ⟨slot, true, ga, 0, 0, 0, []⟩ }
    else
      ({ s2 with xfer := some ⟨slot, true, ga, 0, 0, 2, []⟩ }.loadAsk ga (s.recAddr slot) 4096).loadAsk (ga + 4096)
        (s.slotData0 slot) 4096

/-- A write to CKP_XFER_CTRL (R361 to R363). -/
def State.xferCtrlWrite (s : State) (v : W64) : State :=
  let s1 := s.plainWrite Reg.ckpXferCtrl (setBit v 0 (s.regB Reg.ckpXferCtrl 0))
  let slot := s1.regF Reg.ckpXferCtrl 1 1
  if bit v 0 = false then s1
  else if s.pocketSize = 0 ∨ s.xfer.isSome then s1.refuseXfer slot 0x74
  else if s1.regB Reg.ckpXferCtrl 2 then s1.startLoad slot else s1.startDrain slot

/-- XFER_DRAIN (R361). -/
def execXferDrain (v : BitVec 32) (s : State) : Host.Outcome State Fault Refusal := .next (s.bar Reg.ckpXferCtrl fun s => s.xferCtrlWrite (v.zeroExtend 64))
/-- XFER_LOAD (R363). -/
def execXferLoad (v : BitVec 32) (s : State) : Host.Outcome State Fault Refusal := .next (s.bar Reg.ckpXferCtrl fun s => s.xferCtrlWrite (v.zeroExtend 64))

/-- A load has all its chunks: the image is verified (R363). -/
def State.finishLoad (s : State) (x : PktXfer) : State :=
  let r := x.record
  let ok := recordOk r && decide (0 < x.chunks) && decide (x.chunks ≤ s.slotChunks) &&
    (r.drop (64 + 32 * recNum r 6 1)).take 32 == shardDigest (s.slotShard x.slot x.chunks)
  let s1 := s.setReg Reg.ckpXferLen (BitVec.ofNat 64 (4096 * (x.chunks + 1)))
  if ok then
    let rec' := sealRecord ((r.take 4088).take 4 ++ natBytes 1 4 ++ (r.drop 5).take 2 ++ natBytes 1 0 ++ (r.drop 8).take 4080)
    let s2 := (s1.putRecord x.slot rec').count64 (Reg.ckpCnt 4) (4096 * (x.chunks + 1))
    { s2 with ckpAll := s2.ckpAll.filter (fun k => k != x.slot) ++ [x.slot], ckpNewest := none }.endXfer x 0
  else (s1.putRecord x.slot (List.replicate 4096 0)).endXfer x 0x76

/-- Read an image of the package's own into the slot of a load (R363): its record, and the chunks that its first names. -/
def State.readImage (s : State) (x : PktXfer) : State :=
  let a := x.addr
  let r := s.gload ckpReq a 4096
  let h := s.gload ckpReq (a + 4096) 32
  let n := if r.2 || h.2 then 0 else recNum h.1 8 4
  let m := if s.slotChunks < n then 0 else n
  let s1 := (s.gloadSt ckpReq a 4096).gloadSt ckpReq (a + 4096) (max 32 (4096 * m))
  let s2 := (List.range (128 * m)).foldl (fun t k =>
    let q := s.gload ckpReq (a + 4096 + 32 * k) 32
    let t1 := t.storeBytes (s.slotData0 x.slot + 32 * k) q.1
    if q.2 then t1.poisonBytes (s.slotData0 x.slot + 32 * k) 32 else t1) s1
  s2.finishLoad { x with chunks := n, record := if r.2 then [] else r.1 }

/-- XFER_DONE (R361, R363): every part was moved. A load from another node first has the record and the first chunk,
which says how many more it asks for. -/
def execXferDone (s : State) : Host.Outcome State Fault Refusal :=
  match s.xfer with
  | none => .next s
  | some x =>
    if x.left ≠ 0 then .next s
    else if x.load = false then
      if s.unitOwes ckpReq then .next s else
      let s1 := (s.setReg Reg.ckpXferFailed (BitVec.ofNat 64 x.failed)).count64 (Reg.ckpCnt 4) (4096 * (x.chunks + 1))
      .next (s1.endXfer x 0)
    else if s.isLocal x.addr then .next (s.whenDone (s.readImage x) ckpReq)
    else if x.chunks = 0 then
      let r := s.getRecord x.slot
      let n := s.shardLen x.slot
      let s1 := s.putRecord x.slot (List.replicate 4096 0)
      let x1 := { x with record := r, chunks := n, left := n - 1 }
      if recordOk r = false ∨ n = 0 ∨ s.slotChunks < n ∨ n = 1 then .next (s1.finishLoad x1)
      else .next ((upFrom 1 (n - 1)).foldl (fun t j =>
        t.loadAsk (x.addr + 4096 * (j + 1)) (s.slotData0 x.slot + 4096 * j) 4096) { s1 with xfer := some x1 })
    else .next (s.finishLoad x)

end Sys2Proof.Machine
end

