-- ==== Sys2Proof/Machine/MemCtrl.lean ====
section
/-! DEFINITION. MEM_CTRL and MEM_CFG (R247, R251): opening working memory also reads the pocket records (R346). -/
namespace Sys2Proof.Machine

/-- MEM_CTRL.TRAIN. -/
def State.memTrain (s : State) (v : W64) : State := if bit v 0 then s.setRegB Reg.memCtrl 0 true else s

/-- MEM_CTRL.INIT: ignored unless TRAINED. -/
def State.memInit (s : State) (v : W64) : State :=
  if bit v 1 ∧ s.regB Reg.memStatus 0 ∧ s.regB Reg.memCtrl 1 = false then
    (s.setRegB Reg.memCtrl 1 true).setRegB Reg.memStatus 2 true
  else s

/-- MEM_CTRL.OPEN: ignored unless INIT has completed. -/
def State.memOpen (s : State) (v : W64) : State :=
  if bit v 2 ∧ s.regB Reg.memCtrl 1 ∧ s.regB Reg.memStatus 2 = false ∧ s.regB Reg.memCtrl 2 = false then
    ((s.setRegB Reg.memCtrl 2 true).setRegB Reg.memStatus 3 true).readRecords
  else s

/-- MEM_CTRL.FLUSH: every dirty check sector is written back. -/
def State.memFlush (s : State) (v : W64) : State := if bit v 3 then (s.setRegB Reg.memCtrl 3 true).cleanChecks else s

/-- A write to MEM_CTRL. -/
def State.memCtrlWrite (s : State) (v : W64) : State := (((s.memTrain v).memInit v).memOpen v).memFlush v

/-- A write to MEM_CFG: SPEED is ignored once TRAIN is set, and POCKET while memory is open. -/
def State.memCfgWrite (s : State) (v : W64) : State :=
  let v1 := if s.regB Reg.memCtrl 0 then setFld v 0 2 (s.regF Reg.memCfg 0 2) else v
  s.plainWrite Reg.memCfg (if s.regB Reg.memStatus 3 then setFld v1 3 4 (s.regF Reg.memCfg 3 4) else v1)

/-- PAGE_RETIRE_DONE (R260): the copy of a page that is being retired ends, its granules read with the given symbol errors; what
waited for the page goes on. -/
def execPageRetireDone (copy : PageCopy) (s : State) : Host.Outcome State Fault Refusal :=
  match s.retiring.find? fun e => e.1 == copy.page with
  | none => .next s
  | some e => .next (s.pageCopied copy.page e.2 copy.errs).serveAll

/-- MEM_TRAIN (R247). -/
def execMemTrain (v : BitVec 32) (s : State) : Host.Outcome State Fault Refusal := .next (s.bar Reg.memCtrl fun s => s.memCtrlWrite (v.zeroExtend 64))
/-- MEM_INIT (R247). -/
def execMemInit (v : BitVec 32) (s : State) : Host.Outcome State Fault Refusal := .next (s.bar Reg.memCtrl fun s => s.memCtrlWrite (v.zeroExtend 64))
/-- MEM_OPEN (R247). -/
def execMemOpen (v : BitVec 32) (s : State) : Host.Outcome State Fault Refusal := .next (s.bar Reg.memCtrl fun s => s.memCtrlWrite (v.zeroExtend 64))
/-- MEM_FLUSH (R251). -/
def execMemFlush (v : BitVec 32) (s : State) : Host.Outcome State Fault Refusal := .next (s.bar Reg.memCtrl fun s => s.memCtrlWrite (v.zeroExtend 64))

/-- Training ends (R247): with a failing package, which channels of the packages passed is not stated (free values). -/
def State.memTrained (s : State) (fail : Option (Fin 64)) : State :=
  if s.regB Reg.memCtrl 0 = false ∨ s.regB Reg.memStatus 0 ∨ s.regB Reg.memStatus 1 then s
  else match fail with
    | none => foldN (numPkgs s.grade) (s.setRegB Reg.memStatus 0 true) fun s n => s.setRegF (Reg.memCStatus n) 0 4 15
    | some f =>
      let s1 := (s.setRegB Reg.memStatus 1 true).setRegF Reg.memStatus 4 6 f
      foldN (numPkgs s.grade) s1 fun s n =>
        (s.setRegF (Reg.memCStatus n) 0 4 ((Config.freeWord s.freeCtr).toNat % (if n = f then 15 else 16))).takeFree

/-- The fill ends (R247): every sector holds zero data. -/
def State.memFilled (s : State) : State :=
  if s.regB Reg.memStatus 2 = false then s
  else { s with
    mem := s.mem.filter fun p => decide (usable s.grade ≤ p.1)
    poison := s.poison.filter fun p => decide (usable s.grade ≤ 32 * p.1) }.setRegB Reg.memStatus 2 false

end Sys2Proof.Machine
end

