-- ==== Sys2Proof/Machine/Bobbin.lean ====
section
/-! DEFINITION. The BOB block (chapter 08): the job seed, the fill engine and the generator port (R214, R225 to R227). -/
namespace Sys2Proof.Machine

/-- The fill engine as a requester. -/
abbrev fillReq : Req := ⟨7, 0⟩

/-- An event of the BOB block. -/
def State.bobEv (s : State) (b : Nat) : State := s.event 7 Reg.bobEvent b none none

/-- A write to BOB_SEED: ignored while RUN is 1 or the seed is locked (R214). -/
def State.bobSeedWrite (s : State) (v : W64) : State :=
  if s.running || s.regB Reg.bobCtrl 0 then s.bobEv 2 else s.setReg Reg.bobSeed v

/-- SEED_WRITE (R214). -/
def execSeedWrite (v : BitVec 64) (s : State) : Host.Outcome State Fault Refusal := .next (s.bar64 Reg.bobSeed fun s => s.bobSeedWrite v)

/-- A write to BOB_CTRL: LOCK, which BOB_STATUS.LOCKED shows (R214). -/
def State.bobCtrlWrite (s : State) (v : W64) : State :=
  if bit v 0 then (s.setRegB Reg.bobCtrl 0 true).setRegB Reg.bobStatus 0 true else s

/-- BOB_CTRL_LOCK (R214). -/
def execBobCtrlLock (v : BitVec 32) (s : State) : Host.Outcome State Fault Refusal :=
  .next (s.bar Reg.bobCtrl fun s => s.bobCtrlWrite (v.zeroExtend 64))

/-- What a fill samples: the key of its draws, its first element index, address and count (R225). -/
def State.fillKey (s : State) : DrawKey :=
  { seed := s.reg Reg.bobSeed, stream := (s.reg Reg.bobFillStream).truncate 32, stitch := s.stitch.truncate 32,
    purpose := 4, draw := s.regF Reg.bobFillDraw 0 24 }

/-- Word `n` of a fill (R225). -/
def fillWord (k : DrawKey) (index n : Nat) : Nat := bobbinWord k (index + n) 0

/-- The stores of a fill: 16 bytes at a time, in rising order. -/
def State.fillStores (s : State) (k : DrawKey) (index addr count : Nat) : State :=
  foldN (ceilDiv count 4) s fun s j =>
    let n := min 4 (count - 4 * j)
    s.gstore fillReq ((addr + 16 * j) % 2 ^ 64)
      (((List.range n).map fun i => natBytes 4 (fillWord k index (4 * j + i))).flatten) false

/-- A write to BOB_FILL_CTRL: GO starts a fill, or is refused or ignored with FILL_ERROR (R225). -/
def State.fillCtrlWrite (s : State) (v : W64) : State :=
  if bit v 0 = false then s
  else if s.regB Reg.bobStatus 1 then s.bobEv 1
  else
    let addr := (s.reg Reg.bobFillAddr).toNat
    let count := (s.reg Reg.bobFillCount).toNat
    if addr % 64 ≠ 0 ∨ count = 0 then s.bobEv 1
    else
      let s1 := (s.setRegB Reg.bobFillCtrl 0 true).setRegB Reg.bobStatus 1 true
      s1.fillStores s.fillKey (s.reg Reg.bobFillIndex).toNat addr count

/-- FILL_GO (R225). -/
def execFillGo (v : BitVec 32) (s : State) : Host.Outcome State Fault Refusal :=
  .next (s.bar Reg.bobFillCtrl fun s => s.fillCtrlWrite (v.zeroExtend 64))

/-- FILL_DONE (R225): every store is performed and, if remote, acknowledged. -/
def execFillDone (s : State) : Host.Outcome State Fault Refusal :=
  if s.regB Reg.bobStatus 1 && !s.awaits fillReq then
    .next (((s.setRegB Reg.bobStatus 1 false).setRegB Reg.bobFillCtrl 0 false).bobEv 0)
  else .next s

/-- A write to BOB_GEN_CTRL: GO samples the port's inputs and starts one draw (R226). -/
def State.genCtrlWrite (s : State) (v : W64) : State :=
  if bit v 0 = false ∨ s.regB Reg.bobStatus 2 then s
  else
    let x3 := s.reg Reg.bobGenX3
    let k : DrawKey :=
      { seed := s.reg Reg.bobGenSeed, stream := (s.reg Reg.bobGenStream).truncate 32,
        stitch := (s.reg Reg.bobGenStitch).truncate 32, purpose := fld x3 24 8, draw := fld x3 0 24 }
    let s1 := (s.setRegB Reg.bobGenCtrl 0 true).setRegB Reg.bobStatus 2 true
    { s1 with genWords := bobbin k (s.reg Reg.bobGenIndex).toNat }

/-- GEN_GO (R226). -/
def execGenGo (v : BitVec 32) (s : State) : Host.Outcome State Fault Refusal :=
  .next (s.bar Reg.bobGenCtrl fun s => s.genCtrlWrite (v.zeroExtend 64))

/-- GEN_DONE (R226). -/
def execGenDone (s : State) : Host.Outcome State Fault Refusal :=
  if s.regB Reg.bobStatus 2 then
    let s1 := foldN 4 s fun s w => s.setReg (Reg.bobGenOut w) (BitVec.ofNat 64 (s.genWords.getD w 0).toNat)
    .next { (s1.setRegB Reg.bobStatus 2 false).setRegB Reg.bobGenCtrl 0 false with genWords := [] }
  else .next s

end Sys2Proof.Machine
end

