-- ==== Sys2Proof/Machine/Det.lean ====
section
/-! DEFINITION. The determinism profile and the migration of tile tasks (chapter 09, R237, R241). -/
namespace Sys2Proof.Machine

/-- A write to DET_CFG: ignored while RUN is 1 and after LOCK (R241). -/
def State.detCfgWrite (s : State) (v : W64) : State :=
  if s.running || s.regB Reg.detCfg 31 then s else s.plainWrite Reg.detCfg v

/-- DET_CFG_WRITE (R241). -/
def execDetCfgWrite (v : BitVec 32) (s : State) : Host.Outcome State Fault Refusal :=
  .next (s.detCfgWrite (v.zeroExtend 64))
/-- DET_CFG_LOCK (R241). -/
def execDetCfgLock (v : BitVec 32) (s : State) : Host.Outcome State Fault Refusal :=
  .next (s.detCfgWrite (v.zeroExtend 64))

/-- Does a global address of the package lie in an operand-cache window? -/
def State.inCache (s : State) (ga : Nat) : Bool :=
  s.isLocal ga && decide (0x01F000000000 ≤ devAddr ga) && decide (devAddr ga < 0x01F020000000)

/-- May a queued task move (R237)? `before` is the task ahead of it. -/
def State.movable (s : State) (before ref : TaskRef) : Bool :=
  let d := tdescOf ref.body
  (d.kind == 1 || d.kind == 2 || d.kind == 3 || d.kind == 4) && !d.accHold && !(tdescOf before.body).accHold &&
    !([d.aAddr, d.bAddr, d.cAddr, d.aScale, d.bScale, d.cScale, d.epi, d.anch].any s.inCache)

/-- The position of the first task of a tile's queue that may move: at least 4 tasks are queued ahead of it. -/
def State.migrant (s : State) (q : List TaskRef) : Option Nat :=
  (upFrom 4 (min 512 q.length - 4)).find? fun i => match q[i - 1]?, q[i]? with
    | some b, some r => s.movable b r
    | _, _ => false

/-- May a task move to tile `t` (R236, R237): its queue is empty, and no block is held there or will be, so that the task
follows none that sets ACC_HOLD? -/
def State.migrateTo (s : State) (t : Nat) : Bool :=
  (s.queueOf t).isEmpty && (s.heldOf t).isNone && (match s.runOf t with
    | some rt => !(tdescOf rt.ref.body).accHold
    | none => true)

/-- TASK_MIGRATE (R237). -/
def execTaskMigrate (src dst : Fin 256) (s : State) : Host.Outcome State Fault Refusal :=
  let q := s.queueOf src
  if s.regB Reg.detCfg 0 = false ∨ src = dst ∨ src.val / 64 ≠ dst.val / 64 ∨ numTiles s.grade ≤ dst.val ∨
      s.migrateTo dst = false then .next s
  else match s.migrant q with
    | none => .next s
    | some i => match q[i]? with
      | none => .next s
      | some r => .next (((s.setQueue src (q.eraseIdx i)).setQueue dst [r]).count64 Reg.detCntMigrate 1)

end Sys2Proof.Machine
end

