-- ==== Sys2Proof/Machine/Power.lean ====
section
/-! DEFINITION. Power, throttling and resets (chapter 17). -/
namespace Sys2Proof.Machine

/-- An event of the power controller. -/
def State.pwrEv (s : State) (b : Nat) (unit detail : Option Nat) : State := s.event 3 Reg.pwrEvent b unit detail

/-! ## Power domains (R404) -/

/-- Is a power domain present in a grade? -/
def domPresent : Grade → Nat → Bool
  | .lcv8, n => decide (n < 80)
  | .lcv4, n => decide (n < 11) || (decide (44 ≤ n) && decide (n < 56)) || (decide (68 ≤ n) && decide (n < 80))

/-- The tile cluster domains that are present, and all compute domains of a die (0 to 3 tensor, 4 and 5 solver). -/
def dieDomains (g : Grade) (die : Nat) : List Nat :=
  (if die < 4 then upFrom (11 * die) 9 else if die < 6 then upFrom (44 + 12 * (die - 4)) 10 else []).filter (domPresent g)
def tileDomains (g : Grade) : List Nat := (List.range 4).flatMap (dieDomains g)
def computeDomains (g : Grade) : List Nat := (List.range 6).flatMap (dieDomains g)

/-- Switch domains on or off. -/
def State.setDoms (s : State) (ns : List Nat) (st : Nat) : State :=
  (ns.filter (domPresent s.grade)).foldl (fun s n => s.setRegF (Reg.pwrDom n) 0 2 st) s

/-! ## Throttle levels (R410 to R414) -/

/-- The fields of PWR_DOM that hold the levels THERM, CAP and BROWN begin at these bits. -/
abbrev thermAt : Nat := 3
abbrev capAt : Nat := 7
abbrev brownAt : Nat := 11

/-- A level of a domain. -/
def State.level (s : State) (lo n : Nat) : Nat := s.regF (Reg.pwrDom n) lo 4

/-- Set a level of some domains. -/
def State.setLevel (s : State) (lo : Nat) (f : Nat → Nat) (ns : List Nat) : State :=
  ns.foldl (fun s n => s.setRegF (Reg.pwrDom n) lo 4 (f (s.level lo n))) s

/-- Is a level below 8 on some domain? -/
def State.lowered (s : State) (lo : Nat) (ns : List Nat) : Bool := ns.any fun n => decide (s.level lo n < 8)

/-- One down, to a least level of 1; one up, to 8. -/
def levelDown (l : Nat) : Nat := max 1 (l - 1)
def levelUp (l : Nat) : Nat := min 8 (l + 1)

/-! ## Resets (R416, R417, R440) -/

/-- Is an address of an on-die SRAM window? -/
def sramAddr (a : Nat) : Bool := decide (0x01F000000000 ≤ a) && decide (a < 0x01F034000000)

/-- Does a register keep its value? `hub`: the reset is one of the hub alone, which does not reach the MEM block. -/
def keepsReg (hub : Bool) (off : Nat) : Bool :=
  if hub ∧ 0x1000000 ≤ off ∧ off < 0x1800000 then true
  else match findReg off with
    | some (r, _) => match r.cls with
      | .cold => true
      | .pkg => hub
      | .hub => false
    | none => false

/-- Each controller finishes the requests it has accepted (R408, R417): none waits for the host any more, nor for the copy of its
page. -/
def State.finishHeld (s : State) : State := { s with hostLines := [], bisnps := [], retiring := [] }.retryHeld

/-- A reset abandons an online test: the domain of its group is on (R419). -/
def State.endTest (s : State) : State := match s.test with
  | none => s
  | some t => s.setDom (groupDomain t.kind t.die t.target) 1

/-- What no reset reaches: the grade, fuses, flash and straps, host memory, what has left the package, and the queue. -/
def State.outside (s : State) : State :=
  { State.reset with
    grade := s.grade
    mem := s.mem.filter fun p => decide (0x800000000000 ≤ p.1)
    poison := s.poison.filter fun p => decide (0x800000000000 ≤ 32 * p.1)
    busOut := s.busOut
    busPoison := s.busPoison
    msixOut := s.msixOut
    out := s.out
    ibiOut := s.ibiOut
    bisnpOut := s.bisnpOut
    dataOut := s.dataOut
    dataPoison := s.dataPoison
    freeCtr := s.freeCtr
    fuseKeyHash := s.fuseKeyHash
    fuseSerial := s.fuseSerial
    fuseRevoke := s.fuseRevoke
    fuseSvn := s.fuseSvn
    fuseLifecycle := s.fuseLifecycle
    flash := s.flash
    i3cStrap := s.i3cStrap
    refBad := s.refBad
    nextSession := s.nextSession
    pending := s.pending }

/-- PWR_LAST_RESET. -/
def State.setCause (s : State) (kind cause : Nat) : State := s.setReg Reg.pwrLastReset (BitVec.ofNat 64 (kind + cause * 256))

/-- A COLD reset by a power-down: every domain is off (R416). -/
def State.cold (s : State) (cause : Nat) (hold : Bool) : State :=
  { s.outside with powerHold := hold }.setCause 0 cause

/-- An orderly power-down (R408): the time base stops and work is abandoned, the shunts close, the check sectors are
written back, and the domains are switched off. -/
def State.powerDown (s : State) (cause : Nat) (hold : Bool) : State :=
  (((s.stopTime.abandon).setJoin 0).cleanChecks).cold cause hold

/-- A PACKAGE reset (R416): domain 77, the PWR block and the FAILED marks survive; memory closes and the SRAMs are
filled with zeros. -/
def State.packageReset (s : State) (bist : Option (BitVec 29)) : State :=
  ({ s.outside with
    regs := s.endTest.regs.filter fun p => keepsReg false p.1
    mem := s.mem.filter fun p => !sramAddr p.1
    poison := s.poison.filter fun p => !sramAddr (32 * p.1)
    hubUp := true
    bistDue := bist
    i3cDyn := s.i3cDyn
    i3cOff := s.i3cOff
    failedMarks := s.failedMarks }).setCause 1 8

/-- A HUB reset (R416, R417): the execution state of every die is abandoned; working memory, the controllers and every
register that resets only on a package reset survive, with the draw of the generator port; the controllers finish what they have
accepted and enter self refresh, with no check sector dirty (R251). The time from its start until fabric time starts again is the
model's own: none passes (log entry 26). -/
def State.hubReset (s0 : State) (cause : Nat) : State :=
  let s := s0.finishHeld.endTest
  ({ s.outside with
    regs := s.regs.filter fun p => keepsReg true p.1
    mem := s.mem.filter fun p => !sramAddr p.1
    poison := s.poison.filter fun p => !sramAddr (32 * p.1)
    hubUp := true
    i3cDyn := s.i3cDyn
    i3cOff := s.i3cOff
    failedMarks := s.failedMarks
    monHi := s.monHi
    genWords := s.genWords
    chkCache := s.cleanChecks.chkCache
    pageTrack := s.pageTrack
    pinTrack := s.pinTrack
    erasedPin := s.erasedPin
    retireDue := s.retireDue
    retiring := s0.retiring
    scrubPos := s.scrubPos
    refRate := s.refRate
    memEpoch := s.memTime }).setCause 2 cause

/-! ## Power-up (R407) -/

/-- Does the input lie below 44.0 V (R407)? -/
def State.vinLow (s : State) : Bool := decide (s.regF Reg.pwrVin 0 16 < 44000)

/-- Steps 3 and 4 of Table 17-3: every present domain that is not switched off by request, and UP_DONE; with the input below 44.0 V
they wait. -/
def State.pwrUpDoms (s : State) : State :=
  if s.regB Reg.pwrStatus 0 then s
  else if s.vinLow then { s with upWaits := true }
  else (s.setDoms ((List.range 74).filter fun n => !s.regB (Reg.pwrDom n) 2) 1).setRegB Reg.pwrStatus 0 true

/-- Step 2: the hub's domains, and the release of its reset. -/
def State.hubPower (s : State) : State :=
  { (s.setDoms [79, 74, 76, 75, 78] 1).setRegB Reg.pwrStatus 6 true with hubUp := true }

/-- A bad reference: CLK_MISSING, and CLK_OK clears. -/
def State.clockBad (s : State) : State := (s.setRegB Reg.pwrStatus 6 false).pwrEv 6 none none

/-- POWER_UP (R407): PWR_GOOD is asserted and the input has stayed above 44.0 V; the references are checked first. -/
def execPowerUp (mv : BitVec 16) (s : State) : Host.Outcome State Fault Refusal :=
  if s.hubUp ∨ s.powerHold ∨ mv.toNat ≤ 44000 then .next s
  else
    let s1 := (s.setDoms [77] 1).setReg Reg.pwrVin (mv.zeroExtend 64)
    let s2 := if s1.regF Reg.pwrLastReset 8 8 = 0 then s1.setCause 0 1 else s1
    let s3 := match s2.grade with
      | .lcv8 => s2
      | .lcv4 => s2.setReg Reg.pwrCap 0x44C
    .next (if s3.refBad then s3.clockBad else s3.hubPower)

/-- A write to PWR_CTRL (R408, R416, R420): where two are asked for, the kind that reaches more is performed. -/
def State.pwrCtrlWrite (s : State) (v : W64) (bist : BitVec 29) : State :=
  let s1 := s.plainWrite Reg.pwrCtrl (v &&& 0x38)
  let key := fld v 8 8 == 0xC3
  let kind := fld v 3 2
  if s.domOn 77 = false then s
  else if key && bit v 1 then s1.powerDown 8 true
  else if key && bit v 2 && kind == 1 then s1.packageReset (if bit v 5 then some bist else none)
  else if key && bit v 2 && kind == 2 then s1.hubReset 8
  else if bit v 0 then s1.pwrUpDoms else s1

/-- A write to PWR_CTRL by a command that does not say what a reset test would find failing: a free value (log entry 3). -/
def State.pwrCtrlFree (s : State) (v : W64) : State :=
  if bit v 2 && bit v 5 then s.takeFree.pwrCtrlWrite v ((Config.freeWord s.freeCtr).truncate 29) else s.pwrCtrlWrite v 0

/-- PWR_UP (R407). -/
def execPwrUp (v : BitVec 32) (s : State) : Host.Outcome State Fault Refusal := .next (s.bar Reg.pwrCtrl fun s => s.pwrCtrlFree (v.zeroExtend 64))
/-- PWR_OFF (R408). -/
def execPwrOff (v : BitVec 32) (s : State) : Host.Outcome State Fault Refusal := .next (s.bar Reg.pwrCtrl fun s => s.pwrCtrlFree (v.zeroExtend 64))
/-- PACKAGE_RESET (R416, R418): `bist` is what the reset test will find failing. -/
def execPackageReset (v : BitVec 32) (bist : BitVec 29) (s : State) : Host.Outcome State Fault Refusal :=
  .next (s.bar Reg.pwrCtrl fun s => s.pwrCtrlWrite (v.zeroExtend 64) bist)
/-- HUB_RESET (R417). -/
def execHubReset (v : BitVec 32) (s : State) : Host.Outcome State Fault Refusal := .next (s.bar Reg.pwrCtrl fun s => s.pwrCtrlFree (v.zeroExtend 64))

/-- PERST_ASSERT (R416). -/
def execPerstAssert (s : State) : Host.Outcome State Fault Refusal := .next (if s.hubUp then s.hubReset 9 else s)

/-- PWR_GOOD_DEASSERT (R408): a power-down, or what a package that is off waited for. -/
def execPwrGoodDeassert (s : State) : Host.Outcome State Fault Refusal :=
  .next (if s.domOn 77 then s.powerDown 2 false else { s with powerHold := false })

/-! ## The input (R403, R412) -/

/-- Put BROWN of every tile cluster at a level; PWR_STATUS.BROWN follows. -/
def State.setBrown (s : State) (f : Nat → Nat) : State :=
  let s1 := s.setLevel brownAt f (tileDomains s.grade)
  s1.setRegB Reg.pwrStatus 1 (s1.lowered brownAt (tileDomains s.grade))

/-- PWR_BROWN_CFG.LEVEL in force. -/
def State.brownLevel (s : State) : Nat := max 1 (min 8 (s.regF Reg.pwrBrownCfg 0 4))

/-- A sample of the input. -/
def State.sampleVin (s : State) (mv : BitVec 16) : State := s.setReg Reg.pwrVin (mv.zeroExtend 64)

/-- VIN_WARNING (R412). -/
def execVinWarning (mv : BitVec 16) (s : State) : Host.Outcome State Fault Refusal :=
  if s.domOn 77 = false then .next s
  else if 42000 ≤ mv.toNat then .next (s.sampleVin mv)
  else
    let l := s.brownLevel
    .next (((((s.sampleVin mv).setBrown fun _ => l).setRegB Reg.pwrStatus 2 false).count64 (Reg.pwrCnt 1) 1).pwrEv 0 none (some mv.toNat))

/-- VIN_44V_CROSSING (R412): the recovery timer starts, or returns to zero. -/
def execVin44vCrossing (rising : Bool) (mv : BitVec 16) (s : State) : Host.Outcome State Fault Refusal :=
  if s.domOn 77 = false then .next s
  else if rising then
    .next (if 44000 < mv.toNat ∧ (s.regB Reg.pwrStatus 1 ∨ s.upWaits) then (s.sampleVin mv).setRegB Reg.pwrStatus 2 true else s.sampleVin mv)
  else .next ((s.sampleVin mv).setRegB Reg.pwrStatus 2 false)

/-- A power-up that waited for the input goes on (R407). -/
def State.resumeUp (s : State) : State := if s.upWaits then { s with upWaits := false }.pwrUpDoms else s

/-- VIN_RECOVERY_STEP (R412): the timer reaches 1 ms, or a further STEP; a power-up that waited for the input goes on (R407). -/
def execVinRecoveryStep (s : State) : Host.Outcome State Fault Refusal :=
  if s.domOn 77 = false ∨ s.regB Reg.pwrStatus 2 = false then .next s
  else
    let s0 := s.resumeUp
    let s1 := s0.setBrown levelUp
    .next (if s1.regB Reg.pwrStatus 1 then s1
      else
        let s2 := s1.setRegB Reg.pwrStatus 2 false
        if s0.regB Reg.pwrStatus 1 then s2.pwrEv 1 none none else s2)

/-- VIN_RESET (R412): the one power-down after which the package restarts by itself. -/
def execVinReset (mv : BitVec 16) (s : State) : Host.Outcome State Fault Refusal :=
  .next (if s.domOn 77 ∧ mv.toNat ≤ 38000 then s.powerDown 3 false else s)

/-- VIN_OVERVOLT (R403): every stage off, with no orderly power-down. -/
def execVinOvervolt (s : State) : Host.Outcome State Fault Refusal := .next (if s.domOn 77 then s.cold 4 true else s)

/-- VIN_STANDBY_LOSS (R403): the package holds no state; the next power-up reads POWER_ON. -/
def execVinStandbyLoss (s : State) : Host.Outcome State Fault Refusal := .next (s.cold 0 false)

/-- ISOLATOR_FAIL (R403): a present stage is switched off, and the package powers down. -/
def execIsolatorFail (dom : Fin 80) (s : State) : Host.Outcome State Fault Refusal :=
  .next (if s.domOn 77 ∧ domPresent s.grade dom then (s.setDoms [dom.val] 0).powerDown 6 true else s)

/-- CLOCK_CHECK (R406): are the 100 MHz, the 156.25 MHz and the 25 MHz reference good? -/
def execClockCheck (cxl fabric mgmt : Bool) (s : State) : Host.Outcome State Fault Refusal :=
  let good := cxl && fabric && mgmt
  let s1 := { s with refBad := !good }
  if s1.domOn 77 = false then .next s1
  else if good then .next (if s1.hubUp then s1.setRegB Reg.pwrStatus 6 true else if s1.vinLow then s1 else s1.hubPower)
  else if s1.hubUp then .next (s1.clockBad.powerDown 7 true)
  else .next s1.clockBad

/-! ## Optical groups (R409) -/

/-- A write to PWR_DOM[n]. -/
def State.pwrDomWrite (s : State) (n : Nat) (v : W64) : State :=
  let g := n - 68
  if n < 68 ∨ 72 ≤ n then s
  else if bit v 2 then
    if ((List.range 8).any fun k => s.regB (Reg.fabPCfg (8 * g + k)) 0) = true ∨ (n = 71 ∧ s.regF Reg.fabRingCtrl 0 2 ≠ 0) then
      s.setRegB (Reg.pwrDom n) 2 false
    else (s.setRegB (Reg.pwrDom n) 2 true).setDoms [n] 0
  else if s.regB (Reg.pwrDom n) 2 then
    let s1 := s.setRegB (Reg.pwrDom n) 2 false
    if s.regB Reg.pwrStatus 0 then s1.setDoms [n] 1 else s1
  else s

/-- OFF_REQ (R409). -/
def execOffReq (n : Fin 80) (v : BitVec 32) (s : State) : Host.Outcome State Fault Refusal :=
  .next (s.bar Reg.pwrCtrl fun s => s.pwrDomWrite n (v.zeroExtend 64))

/-! ## CAP and THERM (R413, R414) -/

/-- The power cap in force. -/
def State.powerCap (s : State) : Nat :=
  let tdp := match s.grade with
    | .lcv8 => 2400
    | .lcv4 => 1100
  max 400 (min tdp (s.regF Reg.pwrCap 0 16))

/-- CAP_TICK (R413): the average power of the last 1 ms in W, and the energy in mJ drawn in it. -/
def execCapTick (watts : BitVec 16) (energy : Nat) (s : State) : Host.Outcome State Fault Refusal :=
  if s.domOn 77 = false then .next s
  else
    let ds := computeDomains s.grade
    let cap := s.powerCap
    let s1 := (s.setReg Reg.pwrPower (watts.zeroExtend 64)).count64 (Reg.pwrCnt 0) energy
    let down := decide (cap < watts.toNat)
    let f := if down then levelDown else if 100 * watts.toNat < 95 * cap then levelUp else id
    let moved := down && ds.any fun n => decide (1 < s.level capAt n)
    let s2 := s1.setLevel capAt f ds
    let s3 := s2.setRegB Reg.pwrStatus 4 (s2.lowered capAt ds)
    .next (if moved then s3.pwrEv 4 none (some watts.toNat) else s3)

/-- The thresholds of PWR_THERM in force. -/
def State.thThrottle (s : State) : Nat := min 105 (s.regF Reg.pwrTherm 0 8)
def State.thRelease (s : State) : Nat := min (s.thThrottle - 1) (s.regF Reg.pwrTherm 8 8)
def State.thAlert (s : State) : Nat := min 105 (s.regF Reg.pwrTherm 16 8)

/-- The temperature of a die. -/
def State.dieTemp (s : State) (d : Nat) : Int := signed 8 (s.regF (Reg.pwrTemp d) 0 8)

/-- Does the grade have a die? -/
def diePresent (g : Grade) (d : Nat) : Bool := match g with
  | .lcv8 => true
  | .lcv4 => d != 1 && d != 2 && d != 3 && d != 5

/-- THERM_SAMPLE (R414): `msTick` says that a millisecond has passed since the die's THERM last moved. -/
def execThermSample (die : Fin 8) (temp : BitVec 8) (msTick : Bool) (s : State) : Host.Outcome State Fault Refusal :=
  if s.domOn 77 = false ∨ diePresent s.grade die = false then .next s
  else
    let t := temp.toInt
    let ds := dieDomains s.grade die
    let s1 := s.setReg (Reg.pwrTemp die) (temp.zeroExtend 64)
    if 110 ≤ t then .next (s1.powerDown 5 true)
    else
      let hot := decide ((s.thThrottle : Int) ≤ t)
      let f := if msTick = false then id else if hot then levelDown else if t < (s.thRelease : Int) then levelUp else id
      let s2 := s1.setLevel thermAt f ds
      let s3 := s2.setRegB Reg.pwrStatus 3 (s2.lowered thermAt (computeDomains s.grade))
      let s4 := s3.setRegB Reg.pwrStatus 5 ((List.range 8).any fun d => diePresent s.grade d && decide ((s.thAlert : Int) ≤ s3.dieTemp d))
      let s5 := if hot && decide (die.val < 6) then s4.pwrEv 2 die.val (some temp.toNat) else s4
      .next (if (s.thAlert : Int) ≤ t then s5.pwrEv 3 die.val (some temp.toNat) else s5)

/-! ## What a cycle of the reference counts (R31, R420) -/

/-- Does some unit run below level 8 for the cause of PWR counter `k` (R420)? -/
def State.slowed (s : State) (k : Nat) : Bool := match k with
  | 2 => s.lowered brownAt (tileDomains s.grade)
  | 3 => s.lowered thermAt (computeDomains s.grade)
  | 4 => s.lowered capAt (computeDomains s.grade)
  | _ => s.swLevel.any fun p => decide (p.2 < 8)

/-- The tc counter of a cause advances while it slows a unit, by a free value: the model has no tc (log entry 9). -/
def State.countSlow (s : State) (k : Nat) : State := if s.slowed k then s.countFree (Reg.pwrCnt k) else s

/-- One cycle of the fabric reference: fabric time, and the tc counters of the causes that slow units. -/
def State.tick (s : State) : State := (upFrom 2 4).foldl State.countSlow s.tickFt

/-! ## Throttle descriptors (R411) -/

/-- Is a throttle descriptor malformed? -/
def throttleBad (b : List Byte) : Bool :=
  let c := bytesNat (b.take 4)
  let lvl := c % 16
  let kind := c / 16 % 4
  let first := bytesNat ((b.drop 4).take 2)
  let n := bytesNat ((b.drop 6).take 2)
  decide (lvl < 1) || decide (8 < lvl) || kind == 3 || n == 0 || decide ((if kind = 2 then 32 else 256) < first + n) ||
    c / 64 % 2 ^ 18 != 0 || bytesNat ((b.drop 8).take 24) != 0

/-- Apply a throttle descriptor to the units of its range that the grade has. -/
def State.applyThrottle (s : State) (b : List Byte) : State :=
  let c := bytesNat (b.take 4)
  let kind := c / 16 % 4
  let us := (upFrom (bytesNat ((b.drop 4).take 2)) (bytesNat ((b.drop 6).take 2))).filter fun u => decide (u < unitsOf s.grade kind)
  us.foldl (fun s u => { s with swLevel := Tbl.set 8 s.swLevel (256 * kind + u) (c % 16) }) s

/-- One throttle descriptor: it applies and completes at once. -/
def State.throttleDesc (s : State) (act idx addr : Nat) (b : List Byte) : State :=
  if throttleBad b then ((s.pwrEv 7 none addr).writeStatus hubReq (addr + 3) 0x80).descDone act idx 0x80 0
  else ((s.applyThrottle b).writeStatus hubReq (addr + 3) 0).descDone act idx 0 0

/-- Launch the throttle descriptors of an action. -/
def State.launchThrottle (s : State) (l : Launch) (inPleat : Bool) : State :=
  launchDescs 32 0x80 State.throttleDesc s.nextAct l.desc l.count 0 (s.startAct l inPleat)

/-- ACTION_THROTTLE (R411). -/
def execActionThrottle (s : State) : Host.Outcome State Fault Refusal :=
  match s.takeLaunch 9 with
  | some (l, s1) => .next (s1.launchThrottle l true)
  | none => .next s

end Sys2Proof.Machine
end

