-- ==== Sys2Proof/Machine/Rsa.lean ====
section
/-! DEFINITION. Signed objects (R383, R384): RSASSA-PSS with RSA-3072 and SHA-256, as PKCS #1 gives it. -/
namespace Sys2Proof.Machine

/-- A big-endian number. -/
def beNum (bs : List Byte) : Nat := bs.foldl (fun a b => 256 * a + b.toNat) 0

/-- A number as `n` big-endian bytes. -/
def beBytes (n v : Nat) : List Byte := (natBytes n v).reverse

/-- The mask generation function MGF1 with SHA-256. -/
def mgf1 (seed : List Byte) (n : Nat) : List Byte :=
  (((List.range (ceilDiv n 32)).flatMap fun k => sha256 (seed ++ beBytes 4 k))).take n

/-- The public operation with exponent 65,537. -/
def rsaPublic (m s : Nat) : Nat :=
  let r := (List.range 16).foldl (fun x _ => x * x % m) (s % m)
  r * s % m

/-- Does a signature of a modulus verify over the digest of a message? The salt has 32 bytes. -/
def pssVerify (modulus signature : List Byte) (hash : List Byte) : Bool :=
  let m := beNum modulus
  let s := beNum signature
  let em := beBytes 384 (rsaPublic m s)
  let masked := em.take 351
  let h := (em.drop 351).take 32
  let db := (masked.zipWith (fun a b => a ^^^ b) (mgf1 h 351)).zipIdx.map fun p => if p.2 = 0 then p.1 &&& 0x7F else p.1
  decide (s < m) && decide (m < 2 ^ 3072) && em.drop 383 == [0xBC] && decide ((em.headD 0).toNat < 128) &&
    db.take 319 == List.replicate 318 0 ++ [1] && h == sha256 (List.replicate 8 0 ++ hash ++ db.drop 319)

/-- A field of a header. -/
def hdr (o : List Byte) (a n : Nat) : Nat := bytesNat ((o.drop a).take n)

/-- The greatest body of each type of object (Table 16-2). -/
def bodyLimit : Nat → Nat
  | 1 => 8387584
  | 2 => 261120
  | _ => 16

/-- The first check of R384 that an object fails, 1 to 6, or 0; `types` are the types that may stand here, `key` is
KEY_HASH, `revoked` KEY_REVOKE, `svn` the fused SVN. -/
def objCheck (key : Nat → BitVec 256) (revoked : BitVec 4) (svn : Nat) (serial : W64) (nonce : Nat) (types : List Nat)
    (o : List Byte) : Nat :=
  let typ := hdr o 4 2
  let k := hdr o 6 2
  let n := hdr o 8 4
  if hdr o 0 4 ≠ 0x4C435331 ∨ types.contains typ = false ∨ bodyLimit typ < n ∨ (typ = 3 ∧ n ≠ 16) then 1
  else if (typ ≤ 2 ∧ 2 < k) ∨ (typ = 3 ∧ k ≠ 3) ∨ revoked.getLsbD k then 2
  else if bytesNat (sha256 ((o.drop 48).take 400)) ≠ (key k).toNat then 3
  else if hdr o 48 4 ≠ 65537 ∨
      pssVerify ((o.drop 64).take 384) ((o.drop 448).take 384) (sha256 (o.take 448 ++ (o.drop 1024).take n)) = false then 4
  else if typ ≠ 1 ∧ (hdr o 24 8 ≠ serial.toNat ∨ (typ = 3 ∧ hdr o 32 16 ≠ nonce)) then 5
  else if typ = 1 ∧ hdr o 12 1 < svn then 6
  else 0

end Sys2Proof.Machine
end

