-- ==== Sys2Proof/Machine/Security.lean ====
section
/-! DEFINITION. The security block (chapter 16): boot, firmware, identity, debug, SPDM and IDE, and the module's errors. -/
namespace Sys2Proof.Machine

/-- An event of the security block. -/
def State.secEv (s : State) (b : Nat) (unit detail : Option Nat) : State := s.event 2 Reg.secEvent b unit detail

/-- Fields of SEC_STATUS. -/
def State.stage (s : State) : Nat := s.regF Reg.secStatus 0 4
def State.dbgLevel (s : State) : Nat := s.regF Reg.secStatus 6 2
def State.approved (s : State) : Bool := s.regB Reg.secStatus 8
def State.inError (s : State) : Bool := s.regB Reg.secStatus 9
def State.identityOk (s : State) : Bool := s.regB Reg.secStatus 10
def State.fwPending (s : State) : Bool := s.regB Reg.secStatus 11

/-- The boot enters a stage; entry to RECOVERY or ERROR raises an in-band interrupt (R430). -/
def State.setStage (s : State) (n : Nat) : State :=
  let s1 := s.setRegF Reg.secStatus 0 4 n
  if n = 14 then { s1 with ibiOut := s1.ibiOut ++ [(0xE0, none)] }
  else if n = 15 then { s1 with ibiOut := s1.ibiOut ++ [(0xE1, none)] }
  else s1

/-! ## IDE streams (R395) -/

/-- The status bit of a stream. -/
def ideBit (cachemem : Bool) : Nat := if cachemem then 13 else 12

/-- The direction of a stream. -/
def ideKey (cachemem dir : Bool) : Nat := 2 * bnat cachemem + bnat dir
def State.ideDir (s : State) (cachemem dir : Bool) : IdeDir := Tbl.get IdeDir.init s.ide (ideKey cachemem dir)
def State.setIdeDir (s : State) (cachemem dir : Bool) (d : IdeDir) : State :=
  { s with ide := Tbl.set IdeDir.init s.ide (ideKey cachemem dir) d }

/-- The key of a set. -/
def IdeDir.keyOf (d : IdeDir) (set : Bool) : Option Granule := if set then d.key1 else d.key0

/-- A stream goes to insecure; its keys are of no more use. One that was secure carries no request of the package until it is
keyed again (log entry 88). -/
def State.ideInsecure (s : State) (cachemem : Bool) : State :=
  let was := s.regB Reg.secStatus (ideBit cachemem) && !s.ideBad.contains cachemem
  let s1 := ((s.setIdeDir cachemem false IdeDir.init).setIdeDir cachemem true IdeDir.init).setRegB Reg.secStatus (ideBit cachemem) false
  { s1 with ideBad := if was then s1.ideBad ++ [cachemem] else s1.ideBad }

/-- Both streams go to insecure. -/
def State.allInsecure (s : State) : State := (s.ideInsecure false).ideInsecure true

/-! ## Module errors and zeroisation (R399, R400) -/

/-- The module enters the ERROR state. -/
def State.moduleError (s : State) : State :=
  let s1 := ((({ s with sessions := [] }.allInsecure).setRegB Reg.secStatus 8 false).setRegB Reg.secStatus 9 true).secEv 5 none none
  if s1.stage = 9 then s1 else s1.setStage 15

/-- Zeroise: sessions and streams end, and the keys are overwritten. -/
def State.zeroise (s : State) : State :=
  ((({ s with sessions := [] }.allInsecure).setRegB Reg.secStatus 10 false).count64 (Reg.secCnt 3) 1).secEv 4 none none

/-! ## The flash and its objects (R385, R386) -/

/-- Bytes of the flash; an erased byte reads as 0xFF. -/
def State.flashBytes (s : State) (a n : Nat) : List Byte := (List.range n).map fun k => Tbl.get 0xFF s.flash (a + k)

/-- Program bytes of the flash. -/
def State.program (s : State) (a : Nat) (bs : List Byte) : State :=
  { s with flash := bs.zipIdx.foldl (fun t b => Tbl.set 0xFF t (a + b.2) b.1) s.flash }

abbrev recordAt : Nat := 0
abbrev imageAt : Nat := 0x100000

/-- A signed object of the flash: its header, and the body that its header names, as far as its region reaches. -/
def State.flashObject (s : State) (a limit : Nat) : List Byte :=
  let h := s.flashBytes a 1024
  h ++ s.flashBytes (a + 1024) (min limit (hdr h 8 4))

/-- The staged object. -/
def State.stagedObject (s : State) : List Byte :=
  let at_ (a n : Nat) : List Byte := (List.range n).map fun k => Tbl.get 0 s.staging (a + k)
  let h := at_ 0 1024
  h ++ at_ 1024 (min 8387584 (hdr h 8 4))

/-- The debug nonce. -/
def State.dbgNonce (s : State) : Nat := (List.range 4).foldl (fun a w => a + s.regF (Reg.secDbgNonce w) 0 32 * 2 ^ (32 * w)) 0
def State.setNonce (s : State) (n : BitVec 128) : State :=
  foldN 4 s fun s w => s.setReg (Reg.secDbgNonce w) (BitVec.ofNat 64 (n.toNat / 2 ^ (32 * w) % 2 ^ 32))

/-- The check of an object that it fails first, or 0 (R384). A decommissioned package verifies nothing (Table 16-6). -/
def State.checkObject (s : State) (types : List Nat) (o : List Byte) : Nat :=
  if s.fuseLifecycle = 3 then 4
  else objCheck (fun k => s.fuseKeyHash.getD k 0) s.fuseRevoke s.fuseSvn s.fuseSerial s.dbgNonce types o

/-! ## The unit map of the record (R386, R19) -/

/-- The state of unit `u` of a list that begins at byte `off` of the record's body. -/
def mapCode (body : List Byte) (off u : Nat) : Nat := (body.getD (off + u / 4) 0).toNat / 4 ^ (u % 4) % 4

/-- Where the list of a kind and die begins, and its units. -/
def mapList (kind die : Nat) : Nat × Nat :=
  match kind with
  | 0 => (64 + 18 * die, 72)
  | 1 => (136 + 39 * die, 136)
  | _ => (170 + 39 * die, 17)

/-- The dies of a kind that a grade has. -/
def diesOf (g : Grade) (kind : Nat) : Nat := match g with
  | .lcv8 => if kind = 0 then 4 else 2
  | .lcv4 => 1

/-- The enabled units of a list, in ascending order. -/
def mapEnabled (body : List Byte) (off n : Nat) : List Nat := (List.range n).filter fun u => mapCode body off u == 1

/-- The lanes of port `p` in the record: the code of each. -/
def laneEnabled (body : List Byte) (p : Nat) : List Nat := (List.range 9).filter fun l => mapCode body 214 (9 * p + l) == 1

/-- Is the record refused with RECORD_MAP? -/
def mapBad (g : Grade) (body : List Byte) : Bool :=
  let counts (kind : Nat) : Bool := (List.range (diesOf g kind)).any fun d =>
    (mapEnabled body (mapList kind d).1 (mapList kind d).2).length != logPerDie kind
  let reserved := ([0, 1, 2].any fun kind => (List.range (if kind = 0 then 4 else 2)).any fun d =>
      (List.range (mapList kind d).2).any fun u => mapCode body (mapList kind d).1 u == 3) ||
    (List.range 288).any fun u => mapCode body 214 u == 3
  let grade := match g with
    | .lcv8 => 8
    | .lcv4 => 4
  counts 0 || counts 1 || counts 2 || reserved || ((List.range 32).any fun p => (laneEnabled body p).length != 8) ||
    (body.getD 8 0).toNat != grade

/-- Take the map of one die from the record. -/
def State.loadDie (s : State) (body : List Byte) (kind die : Nat) : State :=
  let l := mapList kind die
  let s1 := foldN (physPerDie kind) s fun s p =>
    { s with unitMap := Tbl.set (mapDefault kind p) s.unitMap (physKey kind die p) (mapCode body l.1 p) }
  (mapEnabled body l.1 l.2).zipIdx.foldl (fun s u => s.setPhysOf kind (die * logPerDie kind + u.2) u.1) s1

/-- A field FAILED mark that survived the reset: the unit's work goes to the lowest spare of its die (log entry 27). -/
def State.applyMark (s : State) (key : Nat) : State :=
  let kind := key / 1000
  let die := key % 1000 / physPerDie kind
  let p := key % 1000 % physPerDie kind
  match s.logicalOf kind die p with
  | none => s.setPhysState kind die p 0
  | some u => match s.spare kind die 0 0 with
    | none => s.setPhysState kind die p 0
    | some q => ((s.setPhysState kind die p 0).setPhysState kind die q 1).setPhysOf kind u q

/-- The lane maps of port `p`. -/
def State.loadLanes (s : State) (body : List Byte) (p : Nat) : State :=
  let v := BitVec.ofNat 64 ((laneEnabled body p).zipIdx.foldl (fun a l => a + l.1 * 16 ^ l.2) 0)
  (s.setReg (Reg.fabPTxmap p) v).setReg (Reg.fabPRxmap p) v

/-- The boot logic assigns logical numbers from the accepted map. -/
def State.loadMap (s : State) (body : List Byte) : State :=
  let s1 := [0, 1, 2].foldl (fun s kind => (List.range (diesOf s.grade kind)).foldl (fun s d => s.loadDie body kind d) s) s
  let s2 := s.failedMarks.foldl State.applyMark s1
  foldN 32 s2 fun s p => s.loadLanes body p

/-! ## Measurements (R394) -/

/-- Put a digest in SEC_MEAS. -/
def State.setMeas (s : State) (i : Nat) (d : Nat) : State :=
  foldN 4 s fun s w => s.setReg (Reg.secMeas i w) (BitVec.ofNat 64 (d / 2 ^ (64 * w) % 2 ^ 64))

/-- The registers whose locks measurement 7 covers. -/
def State.lockBytes (s : State) : List Byte :=
  [BitVec.ofNat 8 (bnat (s.regB Reg.bobCtrl 0)), BitVec.ofNat 8 (bnat (s.regB Reg.detCfg 31) + 2 * s.regF Reg.detCfg 0 3)] ++
    ((List.range (numTiles s.grade)).map fun t => BitVec.ofNat 8 (bnat (s.regB (Reg.tnsCfg t) 31))) ++
    [BitVec.ofNat 8 (bnat (s.regB Reg.colCfg 31) + 2 * s.regF Reg.colCfg 0 1),
     BitVec.ofNat 8 (bnat (s.regB Reg.fabCfg 31) + 2 * s.regF Reg.fabCfg 0 1)]

/-- The map now in force. -/
def State.mapBytes (s : State) : List Byte :=
  natBytes 4 (s.reg Reg.hubUnitmapGen).toNat ++ [0, 1, 2].flatMap fun kind =>
    (List.range (unitsOf s.grade kind)).flatMap fun u => natBytes 2 (s.physOf kind u)

/-- Measurement `i` as it stands: 1 to 5 were fixed at boot, 6 to 9 are taken now; the image that awaits the reset is the one that
the activation wrote (R390). -/
def State.measure (s : State) (i : Nat) : Granule :=
  match i with
  | 6 => Config.measDigest 6 [BitVec.ofNat 8 s.dbgLevel, BitVec.ofNat 8 (bnat (s.regB Reg.secStatus 14))]
  | 7 => Config.measDigest 7 s.lockBytes
  | 8 => Config.measDigest 8 s.mapBytes
  | 9 => if s.fwPending then BitVec.ofNat 256 (bytesNat (sha256 (s.flashObject imageAt (bodyLimit 1)))) else 0
  | _ => BitVec.ofNat 256 ((List.range 4).foldl (fun a w => a + (s.reg (Reg.secMeas i w)).toNat * 2 ^ (64 * w)) 0)

/-- Measurements 1 to 5 are taken. -/
def State.fixMeasures (s : State) (record image : List Byte) : State :=
  let s1 := (s.setMeas 1 Config.romDigest.toNat).setMeas 2 (bytesNat (sha256 record))
  let s2 := s1.setMeas 3 (bytesNat (sha256 image))
  let s3 := s2.setMeas 4 (Config.measDigest 4 ((image.drop 12).take 2 ++ (image.drop 16).take 8)).toNat
  s3.setMeas 5 (Config.measDigest 5 (natBytes 1 s.fuseRevoke.toNat ++ natBytes 1 s.fuseSvn ++ natBytes 1 s.fuseLifecycle)).toNat

/-! ## The boot flow (R387, Table 16-4) -/

/-- The boot stops with an error code in a stage. -/
def State.bootStop (s : State) (code stage : Nat) : State := (s.setReg Reg.secBootErr (BitVec.ofNat 64 code)).setStage stage

/-- The firmware sets the memory speed, which is ignored once TRAIN is set (R261), and trains memory. -/
def State.fwSpeed (s : State) (speed : Nat) : State :=
  (if s.regB Reg.memCtrl 0 then s else s.setRegF Reg.memCfg 0 2 speed).memTrain 1

/-- Stage 6: the firmware releases the other dies, sets the memory speed and trains memory; a reset test comes first
(R418); with working memory still open it passes on to READY (R417). -/
def State.fwTrain (s : State) (speed : Nat) : State :=
  let s1 := { s.setStage 6 with fwRuns := true, bistDue := none }
  let s2 := match s.bistDue with
    | some b => s1.setReg Reg.pwrBist (BitVec.ofNat 64 (b.toNat + 2 ^ 29))
    | none => s1
  match s.bistDue with
  | some b => if b = 0 then s2.pwrUpDoms.fwSpeed speed else s2.pwrEv 5 none (some b.toNat)
  | none =>
    if s2.regB Reg.memStatus 3 then s2.setStage 9
    else s2.pwrUpDoms.fwSpeed speed

/-- Stages 4 and 5, with an accepted record. -/
def State.bootImage (s : State) (b : BootInputs) (record : List Byte) : State :=
  let s1 := s.setStage 4
  let image := s1.flashObject imageAt (bodyLimit 1)
  match s1.checkObject [1] image with
  | 0 =>
    let s2 := (s1.setReg Reg.secFwVersion (BitVec.ofNat 64 (hdr image 16 8))).setRegF Reg.secSvn 0 8 (hdr image 12 1)
    let s3 := { s2 with imageLen := image.length }.setStage 5
    let s4 := if s3.fuseLifecycle ≠ 1 then s3
      else if b.unwrap then s3.setRegB Reg.secStatus 10 true
      else (s3.setReg Reg.secBootErr 0x30).secEv 6 none none
    (s4.fixMeasures record image).fwTrain ((record.getD 1034 0).toNat % 4)
  | 1 => s1.bootStop 0x20 14
  | 4 => s1.bootStop 0x22 14
  | 6 => s1.bootStop 0x23 14
  | _ => s1.bootStop 0x21 14

/-- Stage 3. -/
def State.bootRecord (s : State) (b : BootInputs) : State :=
  let s1 := s.setStage 3
  let record := s1.flashObject recordAt (bodyLimit 2)
  match s1.checkObject [2] record with
  | 0 =>
    if mapBad s1.grade (record.drop 1024) then s1.bootStop 0x14 14
    else ({ s1 with recordLen := record.length }.loadMap (record.drop 1024)).bootImage b record
  | 1 => s1.bootStop 0x10 14
  | 4 => s1.bootStop 0x12 14
  | 5 => s1.bootStop 0x13 14
  | _ => s1.bootStop 0x11 14

/-- Stage 2: the fuses show, and a lifecycle state with debug open opens it (Table 16-6). -/
def State.bootFuses (s : State) (b : BootInputs) : State :=
  let s1 := s.setStage 2
  if b.fuses = false then (s1.setReg Reg.secBootErr 2).moduleError
  else
    let s2 := (s1.setRegF Reg.secStatus 4 2 s1.fuseLifecycle).setRegF Reg.secSvn 8 8 s1.fuseSvn
    let s3 := if s2.fuseLifecycle = 0 ∨ s2.fuseLifecycle = 2 then s2.setRegF Reg.secStatus 6 2 3 else s2
    if s3.fuseLifecycle = 3 then s3.setStage 14 else s3.bootRecord b

/-- BOOT_START (R387). -/
def execBootStart (b : BootInputs) (s : State) : Host.Outcome State Fault Refusal :=
  if s.hubUp = false ∨ s.stage ≠ 0 then .next s
  else
    let s1 := (s.setNonce b.nonce).setStage 1
    .next (if b.kat then (s1.setRegB Reg.secStatus 8 true).bootFuses b else (s1.setReg Reg.secBootErr 1).moduleError)

/-- Stage 8: the firmware fills memory. -/
def State.fwInit (s : State) : State := (s.setStage 8).memInit 2

/-- MEM_TRAIN_DONE (R247): trained memory takes the firmware to HOST_WAIT. -/
def execMemTrainDone (fail : Option (Fin 64)) (s : State) : Host.Outcome State Fault Refusal :=
  let s1 := s.memTrained fail
  .next (if s1.regB Reg.memStatus 0 ∧ s1.fwRuns ∧ s1.stage = 6 then s1.setStage 7 else s1)

/-- MEM_INIT_DONE (R247): the firmware opens filled memory, and the boot is complete. -/
def execMemInitDone (s : State) : Host.Outcome State Fault Refusal :=
  let was := s.regB Reg.memStatus 2
  let s1 := s.memFilled
  .next (if was ∧ s1.fwRuns ∧ s1.stage = 8 then (s1.memOpen 4).setStage 9 else s1)

/-- HOST_WAIT_TIMEOUT (R387). -/
def execHostWaitTimeout (s : State) : Host.Outcome State Fault Refusal :=
  .next (if s.stage = 7 then (s.secEv 7 none none).fwInit else s)

/-! ## Debug unlock (R396, R397) -/

/-- May a token be granted, and which level does it ask for? -/
def State.tokenLevel (s : State) (o : List Byte) : Option Nat :=
  let body := o.drop 1024
  let l := hdr body 0 1
  if s.regB Reg.secStatus 14 ∨ s.inError ∨ 8 ≤ s.dbgRefusals ∨ l < 1 ∨ 3 < l ∨ hdr body 1 15 ≠ 0 ∨ l ≤ s.dbgLevel ∨
      (l = 3 ∧ s.running) ∨ s.checkObject [3] o ≠ 0 then none
  else some l

/-- A token is judged; a fresh nonce is drawn after every attempt. -/
def State.judgeToken (s : State) (o : List Byte) (nonce : BitVec 128) : State :=
  match s.tokenLevel o with
  | none => ((({ s with dbgRefusals := s.dbgRefusals + 1 }).count64 (Reg.secCnt 2) 1).secEv 2 none none).setNonce nonce
  | some l =>
    let s1 := if l = 3 then s.zeroise else s
    ((s1.setRegF Reg.secStatus 6 2 l).secEv 1 l none).setNonce nonce

/-- The token at SEC_DBG_ADDR; one that cannot be read whole is no token. -/
def State.tokenAt (s : State) : List Byte :=
  let q := s.load ((s.reg Reg.secDbgAddr).toNat / 64 * 64) 1040
  if q.2 then [] else q.1

/-- A self-test on demand. -/
def State.selfTest (s : State) (pass : Bool) : State := if s.inError ∨ pass then s else s.moduleError

/-- A write to SEC_CTRL; its bits act in rising order of ZEROIZE, DBG_DISABLE, SELFTEST, DBG_GO, CONTINUE. -/
def State.secCtrlWrite (s : State) (v : W64) (nonce : BitVec 128) (pass : Bool) : State :=
  let s1 := if bit v 0 then s.zeroise else s
  let s2 := if bit v 2 then s1.setRegB Reg.secStatus 14 true else s1
  let s3 := if bit v 3 then s2.selfTest pass else s2
  let s4 := if bit v 1 then (s3.loadEvent ⟨2, 0⟩ ((s3.reg Reg.secDbgAddr).toNat / 64 * 64) 1040).judgeToken s3.tokenAt nonce else s3
  if bit v 4 ∧ s4.stage = 7 then s4.fwInit else s4

/-- A write to SEC_CTRL whose draw or self-test result the command does not carry: free values (log entry 3). -/
def State.secCtrlFree (s : State) (v : W64) (nonce : Option (BitVec 128)) (pass : Option Bool) : State :=
  let g := Config.freeGranule s.freeCtr
  let s1 := if (bit v 1 && nonce.isNone) || (bit v 3 && pass.isNone) then s.takeFree else s
  s1.secCtrlWrite v (nonce.getD (g.truncate 128)) (pass.getD (g.getLsbD 128))

/-- CONTINUE (R387). -/
def execContinueBoot (v : BitVec 32) (s : State) : Host.Outcome State Fault Refusal :=
  .next (s.bar Reg.secCtrl fun s => s.secCtrlFree (v.zeroExtend 64) none none)
/-- ZEROIZE (R400). -/
def execZeroize (v : BitVec 32) (s : State) : Host.Outcome State Fault Refusal :=
  .next (s.bar Reg.secCtrl fun s => s.secCtrlFree (v.zeroExtend 64) none none)
/-- DBG_GO (R396): `nonce` is what the DRBG draws. -/
def execDbgGo (v : BitVec 32) (nonce : BitVec 128) (s : State) : Host.Outcome State Fault Refusal :=
  .next (s.bar Reg.secCtrl fun s => s.secCtrlFree (v.zeroExtend 64) (some nonce) none)
/-- DBG_DISABLE (R396). -/
def execDbgDisable (v : BitVec 32) (s : State) : Host.Outcome State Fault Refusal :=
  .next (s.bar Reg.secCtrl fun s => s.secCtrlFree (v.zeroExtend 64) none none)
/-- SELFTEST (R399). -/
def execSelftest (v : BitVec 32) (pass : Bool) (s : State) : Host.Outcome State Fault Refusal :=
  .next (s.bar Reg.secCtrl fun s => s.secCtrlFree (v.zeroExtend 64) none (some pass))
/-- ENTROPY_HEALTH_FAIL (R399). -/
def execEntropyHealthFail (s : State) : Host.Outcome State Fault Refusal :=
  .next (if s.hubUp ∧ s.inError = false then s.moduleError else s)
/-- DBG_TOKEN (R396): the JTAG port answers while domain 76 is on (R431). -/
def execDbgToken (token : List (BitVec 8)) (nonce : BitVec 128) (s : State) : Host.Outcome State Fault Refusal :=
  .next (if s.domOn 76 then { s with jtag := .dbgToken }.judgeToken token nonce else s)

/-! ## Firmware update (R390 to R392) -/

/-- A mailbox command completes: its return code, its output, and vector 0 (R342). The codes are those of the CXL
specification (log entry 28). -/
def State.mboxDone (s : State) (code : Nat) (out : MboxOut) : State :=
  { s with mboxRet := code, mboxOut := out }.raiseVector 0

abbrev mboxOk : Nat := 0
abbrev mboxInvalid : Nat := 2
abbrev mboxUnsupported : Nat := 3
abbrev mboxInternal : Nat := 4
abbrev mboxBusy : Nat := 6
abbrev mboxAuth : Nat := 10

/-- GET_FW_INFO (R390): one slot, holding the running image's VERSION. -/
def execGetFwInfo (s : State) : Host.Outcome State Fault Refusal :=
  .next (s.mboxDone mboxOk (.fwInfo (s.reg Reg.secFwVersion)))

/-- TRANSFER_FW (R390). -/
def execTransferFw (off : Nat) (data : List (BitVec 8)) (s : State) : Host.Outcome State Fault Refusal :=
  if 0x800000 < off + data.length then .next (s.mboxDone mboxInvalid .none)
  else
    let st : Tbl Byte := data.zipIdx.foldl (fun t b => Tbl.set 0 t (off + b.2) b.1) s.staging
    .next ({ s with staging := st }.mboxDone mboxOk .none)

/-- The fuses that an activated image blows, in the order of R392. -/
def State.blowFuses (s : State) (o : List Byte) : State :=
  let flags := hdr o 13 1
  let own := 2 ^ hdr o 6 2
  let mask := flags / 16 % 16
  let s1 := { s with fuseRevoke := s.fuseRevoke ||| BitVec.ofNat 4 (if mask / own % 2 = 1 then mask - own else mask) }
  let s2 := if flags % 2 = 1 then { s1 with fuseSvn := max s1.fuseSvn (hdr o 12 1) } else s1
  { s2 with fuseLifecycle := max s2.fuseLifecycle (flags / 2 % 4) }

/-- What a write that did not read back has left in the flash is not stated: free values. -/
def State.badProgram (s : State) (a n : Nat) : State :=
  (s.program a ((List.range n).map fun k => (Config.freeGranule (s.freeCtr + k)).truncate 8)) |> fun t => { t with freeCtr := t.freeCtr + n }

/-- ACTIVATE_FW (R390 to R392): `readBack` says whether the written object reads back as staged. -/
def execActivateFw (online readBack : Bool) (s : State) : Host.Outcome State Fault Refusal :=
  if online then .next (s.mboxDone mboxUnsupported .none)
  else if s.fwPending then .next (s.mboxDone mboxBusy .none)
  else
    let o := s.stagedObject
    let recovery := s.stage == 14
    if s.inError ∨ s.checkObject (if recovery then [1, 2] else [1]) o ≠ 0 then .next (s.mboxDone mboxAuth .none)
    else
      let a := if hdr o 4 2 = 1 then imageAt else recordAt
      if readBack = false then .next ((s.badProgram a o.length).mboxDone mboxInternal .none)
      else
        let s1 := s.program a o
        let s2 := if hdr o 4 2 = 1 then s1.blowFuses o else s1
        let s3 := ((s2.setRegB Reg.secStatus 11 true).secEv 0 none none).mboxDone mboxOk .none
        .next (if recovery then s3.hubReset 10 else s3)

/-! ## SPDM (R393, R394) -/

/-- Does the responder serve requests? Every cryptographic service stops in the ERROR state, and the recovery loader
serves the mailbox alone. -/
def State.spdmServes (s : State) : Bool := s.hubUp && s.approved && !s.inError && s.stage != 14

/-- An answer. -/
def State.spdmAnswer (s : State) (r : SpdmRsp) : State := { s with spdmOut := if s.spdmServes then r else .error false }

/-- Is a request outside a session, or in one that is up? -/
def State.spdmSession (s : State) (q : SpdmReq) : Bool := match q.session with
  | none => true
  | some n => s.sessions.any fun x => x.id == n && x.up

/-- An answer to a request of a good session. -/
def State.spdmReply (s : State) (q : SpdmReq) (r : SpdmRsp) : State := s.spdmAnswer (if s.spdmSession q then r else .error false)

/-- GET_VERSION (R393). -/
def execGetVersion (q : SpdmReq) (s : State) : Host.Outcome State Fault Refusal := .next (s.spdmReply q .version)
/-- GET_CAPABILITIES (R393). -/
def execGetCapabilities (q : SpdmReq) (s : State) : Host.Outcome State Fault Refusal := .next (s.spdmReply q .capabilities)
/-- NEGOTIATE_ALGORITHMS (R393). -/
def execNegotiateAlgorithms (q : SpdmReq) (s : State) : Host.Outcome State Fault Refusal := .next (s.spdmReply q .algorithms)
/-- GET_DIGESTS (R393). -/
def execGetDigests (q : SpdmReq) (s : State) : Host.Outcome State Fault Refusal := .next (s.spdmReply q .digests)
/-- GET_CERTIFICATE (R393): slot 0 only. -/
def execGetCertificate (q : SpdmReq) (slot : Nat) (s : State) : Host.Outcome State Fault Refusal :=
  .next (s.spdmReply q (if slot = 0 then .certificate else .error false))
/-- CHALLENGE (R393): without the identity key the answer is an error (R389). -/
def execChallenge (q : SpdmReq) (s : State) : Host.Outcome State Fault Refusal :=
  .next (s.spdmReply q (if s.identityOk then .signed else .error false))

/-- The measurement blocks of a request: none (their number is asked for), one, or all. -/
def State.measureList (s : State) (index : Nat) : List (Nat × Granule) :=
  if index = 0 then [] else if index = 0xFF then (upFrom 1 9).map fun i => (i, s.measure i) else [(index, s.measure index)]

/-- GET_MEASUREMENTS (R394). -/
def execGetMeasurements (q : SpdmReq) (index : Nat) (signed : Bool) (s : State) : Host.Outcome State Fault Refusal :=
  let ok := (decide (index ≤ 9) || index == 0xFF) && (!signed || s.identityOk)
  .next (s.spdmReply q (if ok then .measurements (s.measureList index) signed else .error false))

/-- KEY_EXCHANGE (R393): it opens a session; beyond four it is answered with Busy. -/
def execKeyExchange (q : SpdmReq) (mutAuth : Bool) (s : State) : Host.Outcome State Fault Refusal :=
  if s.spdmServes = false ∨ s.identityOk = false ∨ q.session.isSome then .next (s.spdmAnswer (.error false))
  else if 4 ≤ s.sessions.length then .next (s.spdmAnswer (.error true))
  else
    let x : SpdmSession := ⟨s.nextSession, false, mutAuth⟩
    let s1 : State := { s with sessions := s.sessions ++ [x], nextSession := s.nextSession + 1 }
    .next ((s1.count64 (Reg.secCnt 0) 1).spdmAnswer (.session s.nextSession))

/-- The session of a request. -/
def State.sessionOf (s : State) (q : SpdmReq) : Option SpdmSession := match q.session with
  | none => none
  | some n => s.sessions.find? fun x => x.id == n

/-- FINISH (R393): the handshake completes, or the session ends. -/
def execFinish (q : SpdmReq) (ok : Bool) (s : State) : Host.Outcome State Fault Refusal :=
  match s.sessionOf q with
  | none => .next (s.spdmAnswer (.error false))
  | some x =>
    if s.spdmServes = false ∨ x.up then .next (s.spdmAnswer (.error false))
    else
      let others := s.sessions.filter fun y => y.id != x.id
      if ok then .next ({ s with sessions := others ++ [{ x with up := true }] }.spdmAnswer .ok)
      else .next ({ s with sessions := others }.spdmAnswer (.error false))

/-- A request that needs a session that is up. -/
def State.inSession (s : State) (q : SpdmReq) : Bool := match s.sessionOf q with
  | none => false
  | some x => x.up

/-- HEARTBEAT (R393). -/
def execHeartbeat (q : SpdmReq) (s : State) : Host.Outcome State Fault Refusal :=
  .next (s.spdmAnswer (if s.inSession q then .ok else .error false))
/-- KEY_UPDATE (R393): the session's keys, which the model does not hold, change. -/
def execKeyUpdate (q : SpdmReq) (s : State) : Host.Outcome State Fault Refusal :=
  .next (s.spdmAnswer (if s.inSession q then .ok else .error false))
/-- END_SESSION (R393): a running IDE stream stays keyed (R395). -/
def execEndSession (q : SpdmReq) (s : State) : Host.Outcome State Fault Refusal :=
  if s.spdmServes && s.inSession q then
    let others := s.sessions.filter fun y => some y.id != q.session
    .next ({ s with sessions := others }.spdmAnswer .ok)
  else .next (s.spdmAnswer (.error false))

/-! ## IDE keys (R395) -/

/-- KEY_PROG (R395): a set is programmed while it is inactive; otherwise the command is refused. -/
def execKeyProg (k : IdeKey) (s : State) : Host.Outcome State Fault Refusal :=
  let d := s.ideDir k.cachemem k.dir
  if s.spdmServes = false ∨ s.inSession ⟨some k.session⟩ = false ∨ d.active = some k.set then .next { s with ideOut := false }
  else
    let d1 := if k.set then { d with key1 := some k.key } else { d with key0 := some k.key }
    .next { s.setIdeDir k.cachemem k.dir d1 with ideOut := true }

/-- Is a stream keyed in both directions? -/
def State.ideKeyed (s : State) (cachemem : Bool) : Bool := [false, true].all fun d => (s.ideDir cachemem d).active.isSome

/-- K_SET_GO (R395): the stream switches to a programmed set. -/
def execKSetGo (k : IdeKey) (s : State) : Host.Outcome State Fault Refusal :=
  let d := s.ideDir k.cachemem k.dir
  if s.spdmServes = false ∨ s.inSession ⟨some k.session⟩ = false ∨ d.keyOf k.set = none then .next { s with ideOut := false }
  else
    let s1 := s.setIdeDir k.cachemem k.dir { d with active := some k.set }
    let s2 := s1.setRegB Reg.secStatus (ideBit k.cachemem) (s1.ideKeyed k.cachemem)
    .next { s2 with ideOut := true, ideBad := if s1.ideKeyed k.cachemem then s2.ideBad.filter fun c => c != k.cachemem else s2.ideBad }

/-- IDE_CHECK_FAIL (R395): the failing flit is discarded. -/
def execIdeCheckFail (cachemem : Bool) (s : State) : Host.Outcome State Fault Refusal :=
  if s.regB Reg.secStatus (ideBit cachemem) = false then .next s
  else .next (((s.ideInsecure cachemem).count64 (Reg.secCnt 1) 1).secEv 3 (some (bnat cachemem)) none)

/-- CXL_LINK_RESET (R416): a hot reset or link-down; running work continues. The link that trains again carries no stream until the
host sets one up (log entry 88). -/
def execCxlLinkReset (s : State) : Host.Outcome State Fault Refusal :=
  .next { s.allInsecure with ideBad := [], linkUp := false, linkWidth := 0, linkRate := 0, linkCxl := false }

end Sys2Proof.Machine
end

