-- ==== Sys2Proof/Machine/HostIf.lean ====
section
/-! DEFINITION. The host's accesses (R320 to R322), the mailbox (R342) and the event log's read count (R343). -/
namespace Sys2Proof.Machine

/-- A write to HUB_EVLOG_RP (R343). -/
def State.evlogRpWrite (s : State) (v : W64) : State :=
  let wp := s.reg Reg.hubEvlogWp
  s.setReg Reg.hubEvlogRp (if wp.toNat < v.toNat then wp else v)

/-- EVLOG_RP_WRITE (R343). -/
def execEvlogRpWrite (v : BitVec 64) (s : State) : Host.Outcome State Fault Refusal := .next (s.bar64 Reg.hubEvlogRp fun s => s.evlogRpWrite v)

/-! ## The mailbox (R342) -/

/-- A command that the recovery loader does not serve (R391). -/
def State.mboxMain (s : State) (f : State → State) : State :=
  if s.stage = 14 then s.mboxDone mboxUnsupported .none else f s

/-- IDENTIFY (R342). -/
def execIdentify (s : State) : Host.Outcome State Fault Refusal := .next (s.mboxDone mboxOk (.identity s.fuseSerial))

/-- GET_EVENT_RECORDS (R342). -/
def execGetEventRecords (log : BitVec 8) (s : State) : Host.Outcome State Fault Refusal :=
  .next (s.mboxMain fun s => s.mboxDone mboxOk (.records ((Tbl.get [] s.mboxEvents log.toNat).map fun r => (BitVec.ofNat 32 r.1, r.2))))

/-- CLEAR_EVENT_RECORDS (R342). -/
def execClearEventRecords (log : BitVec 8) (handles : List (BitVec 16)) (s : State) : Host.Outcome State Fault Refusal :=
  .next (s.mboxMain fun s =>
    let l := (Tbl.get [] s.mboxEvents log.toNat).filter fun r => !handles.any fun h => h.toNat == r.1
    { s with mboxEvents := Tbl.set [] s.mboxEvents log.toNat l }.mboxDone mboxOk .none)

/-- The timestamp: what was set last, counted on in ns of fabric time (log entry 28); 0 where none was set. -/
def State.timestamp (s : State) : W64 := match s.mboxTime with
  | none => 0
  | some (t, ft) => t + BitVec.ofNat 64 ((s.ft - ft) / 64)

/-- TIMESTAMP (R342): Set or Get Timestamp. -/
def execTimestamp (set : Option (BitVec 64)) (s : State) : Host.Outcome State Fault Refusal :=
  .next (s.mboxMain fun s => match set with
    | some t => { s with mboxTime := some (t, s.ft) }.mboxDone mboxOk .none
    | none => s.mboxDone mboxOk (.time s.timestamp))

/-- GET_SUPPORTED_LOGS (R342): which identifiers the logs have is not stated (a free value). -/
def execGetSupportedLogs (s : State) : Host.Outcome State Fault Refusal :=
  .next ((s.mboxDone mboxOk (.logs [Config.freeWord s.freeCtr])).takeFree)

/-- GET_LOG (R342): the form of a log is not stated (free values). -/
def execGetLog (off len : Nat) (s : State) : Host.Outcome State Fault Refusal :=
  if 4096 < len then .next (s.mboxDone mboxInvalid .none)
  else .next ((s.mboxDone mboxOk (.bytes ((upFrom off len).map fun k => (Config.freeWord (s.freeCtr + k)).truncate 8))) |> fun t =>
    { t with freeCtr := t.freeCtr + off + len })

/-- MAILBOX_UNSUPPORTED (R342). -/
def execMailboxUnsupported (_opcode : BitVec 16) (s : State) : Host.Outcome State Fault Refusal :=
  .next (s.mboxDone mboxUnsupported .none)

/-! ## CXL.mem (R321, R322) -/

/-- Does the HDM range expose a device address (R321)? -/
def State.hdm (s : State) (a : Nat) : Bool := decide (a < s.pocketBase)

/-- Does CXL.mem reach the package: not on a link that trained without CXL (R319). -/
def State.cxlMem (s : State) : Bool := !s.linkUp || s.linkCxl

/-- HOST_MEM_READ (R321). -/
def execHostMemRead (addr : Nat) (excl : Bool) (s : State) : Host.Outcome State Fault Refusal :=
  .next (if s.cxlMem ∧ s.hdm addr then s.memRequest (.hostRead addr excl) else s)

/-- HOST_MEM_WRITE (R321). -/
def execHostMemWrite (addr : Nat) (bytes : List (BitVec 8)) (poison : Bool) (s : State) : Host.Outcome State Fault Refusal :=
  .next (if s.cxlMem ∧ s.hdm addr ∧ bytes ≠ [] ∧ addr % 64 + bytes.length ≤ 64 then s.memRequest (.hostWrite addr bytes poison) else s)

/-- HOST_SNOOP (R320): the package caches no host line, so every snoop finds a miss. -/
def execHostSnoop (_hpa : Nat) (s : State) : Host.Outcome State Fault Refusal := .next s

/-- BISNP_RESPONSE (R322): the line is the package's, and what waited for it goes on. -/
def execBisnpResponse (line : Nat) (s : State) : Host.Outcome State Fault Refusal := .next (s.bisnpAnswer line).serveAll

/-! ## CXL.cache (R320) -/

/-- The device address of a host physical address. -/
def hostDev (hpa : Nat) : Nat := 0x800000000000 + hpa % 2 ^ 47

/-- Free values take the place of a line whose store was lost: what the host holds there is not the package's to say. -/
def State.lostLine (s : State) (a : Nat) : State :=
  ((s.storeBytes a (granuleBytes (Config.freeGranule s.freeCtr))).storeBytes (a + 32)
    (granuleBytes (Config.freeGranule (s.freeCtr + 1)))) |> fun t => { t with freeCtr := t.freeCtr + 2 }

/-- HOST_ACCESS_COMPLETE (R320): the host completes a read or write of one line, with an error, or with data that it
marks as poison. A read so completed is the one that the package makes of the line (log entry 88). -/
def execHostAccessComplete (hpa : Nat) (write err poison : Bool) (s : State) : Host.Outcome State Fault Refusal :=
  let a := hostDev hpa / 64 * 64
  if err then
    let s1 := s.event 0 Reg.hubEvent 4 none a
    .next (if write then s1.lostLine a
      else { s1 with hostErrs := s1.hostErrs ++ [a / 64] }.answer (List.replicate 64 0) true)
  else if write then .next s
  else
    let s1 := if poison then s.poisonBytes a 64 else s
    .next (s1.answer (s1.bytes a 64) (s1.poisonIn a 64))

end Sys2Proof.Machine
end

