-- ==== Sys2Proof/Machine/Link.lean ====
section
/-! DEFINITION. Links (R264, R269 to R272, R274, R276): what a port does with the flits it receives, and its training. -/
namespace Sys2Proof.Machine

/-! ## The flit on the link (Tables 11-2 and 11-3) -/

/-- Bytes 0 to 15: the header. -/
def flitHeader (f : Flit) : List Byte :=
  natBytes 2 f.pkey.toNat ++ natBytes 2 f.dst.toNat ++ natBytes 2 f.src.toNat ++
    natBytes 1 (f.typ.toNat + 128 * bnat f.start) ++
    natBytes 1 (f.vc.toNat + 8 * bnat f.last + 16 * (f.words.length % 8) + 128 * bnat f.replica) ++
    natBytes 2 f.tag.toNat ++ natBytes 6 (f.seq.toNat + 4096 * f.addr.toNat)

/-- Bytes 16 to 231: six words of 36 bytes; words beyond NWORDS are written 0. -/
def flitPayload (f : Flit) : List Byte :=
  ((f.words ++ List.replicate (6 - f.words.length) (⟨0, 0⟩ : FWord)).take 6).flatMap fun (w : FWord) =>
    granuleBytes w.data ++ natBytes 4 w.check.toNat

/-- Bytes 0 to 247, which the link CRC covers. -/
def linkBytes (f : Flit) (l : LinkPart) : List Byte :=
  flitHeader f ++ flitPayload f ++ natBytes 8 f.trailer.toNat ++ natBytes 2 l.lseq.toNat ++
    natBytes 2 (l.ack.toNat + 4096 * bnat l.nack) ++ natBytes 2 (l.cvc.toNat + 8 * l.ccount.toNat) ++ natBytes 2 0

/-- Does the link CRC of a flit hold? -/
def linkCrcOk (f : Flit) (l : LinkPart) : Bool := crc64 (linkBytes f l) == l.crc.toNat

/-! ## The retry buffer (R271) -/

/-- What is left of a retry buffer once `lseq` and everything before it are acknowledged. -/
def ackBuf (lseq : Nat) (b : List (Nat × Flit)) : List (Nat × Flit) :=
  match b.findIdx? fun e => e.1 == lseq with
  | some i => b.drop (i + 1)
  | none => b

/-- The far end has received every flit of port `p` up to `lseq`: where that is progress, no retry has failed since. -/
def State.linkAcked (s : State) (p lseq : Nat) : State :=
  let b := Tbl.get [] s.linkBuf p
  let r := ackBuf lseq b
  { s with
    linkBuf := Tbl.set [] s.linkBuf p r
    linkFail := if r.length < b.length then Tbl.set (0, 0) s.linkFail p (0, 0) else s.linkFail }

/-- The lane events of a port that goes down for one flit's errors: of the lanes that carried them, which the link sees and the
model does not (R266, R271; log entry 87). -/
def State.failedLaneEvents (s : State) (p lseq : Nat) : State :=
  ((List.range 9).filter fun l => (Config.failedLanes p lseq).getLsbD l).foldl (fun s l => s.laneEvent p false l) s

/-- A NACK of the flits of port `p` after `lseq`: they are sent again; the ninth NACK of one LSEQ in a row says that 8
retries of it have failed, and the port goes down. -/
def State.nackPort (s : State) (p lseq : Nat) : State :=
  let s1 := s.linkAcked p lseq
  let b := Tbl.get [] s1.linkBuf p
  let old := Tbl.get (0, 0) s1.linkFail p
  let n := if old.1 = lseq then old.2 + 1 else 1
  if b = [] then s1
  else if 8 < n then ({ s1 with linkFail := Tbl.set (0, 0) s1.linkFail p (0, 0) }.failedLaneEvents p lseq).setPort p 0
  else
    let s2 : State := { s1 with
      linkFail := Tbl.set (0, 0) s1.linkFail p (lseq, n)
      out := s1.out ++ b.map fun e => OutMsg.again p e.1 e.2 }
    s2.count64 (Reg.fabPCnt p 2) b.length

/-- LINK_NACK (R271), received at port `p`. -/
def execLinkNack (p : Fin 32) (lseq : BitVec 12) (s : State) : Host.Outcome State Fault Refusal :=
  .next (if s.portReady (revPort p) then s.nackPort (revPort p) lseq.toNat else s)

/-! ## Where a flit goes (R274) -/

/-- The port on which a flit that arrived at port `p` for another node goes on: from a mesh port to a mesh port, or from a
ring port onward in the same direction. -/
def State.transitPort (s : State) (p : Nat) (f : Flit) : Option Nat :=
  let dst := f.dst.toNat
  if p < 24 then
    (if dst / 32 = s.node / 32 ∧ dst % 32 < 24 ∧ dst % 32 ≠ p then some (dst % 32) else none)
  else if 28 ≤ p then some p else none

/-- Is a transit key permitted on a port? -/
def State.keyPermitted (s : State) (p : Nat) (f : Flit) : Bool :=
  f.pkey != 0 && (List.range 4).any fun j => s.regF (Reg.fabPPkeys p) (16 * j) 16 == f.pkey.toNat

/-- A flit for another node goes on, or is counted and dropped. -/
def State.transit (s : State) (p : Nat) (f : Flit) : State :=
  match s.transitPort p f with
  | some q => if s.keyPermitted p f && s.keyPermitted q f then s.toPort q f else s.count64 (Reg.fabCnt 13) 1
  | none => s.count64 (Reg.fabCnt 13) 1

/-- A LINK_CTRL flit that port `p` receives (R267, R270): link-local, on VC0. It may give the far transmitter's end, which is this
port's partner here, notice of a rotation. -/
def State.linkCtrlFlit (s : State) (p : Nat) (f : Flit) : State :=
  if f.typ.toNat = 0x1F ∧ f.vc = 0 then
    let s1 := (s.takeWords f.words).1
    match Config.rotateNotice f.trailer with
    | some n => s1.setRotation (revPort p) false (some (n.1.toNat, n.2.toNat))
    | none => s1
  else s.count64 (Reg.fabCnt 2) 1

/-- LINK_CTRL (R267). -/
def execLinkCtrl (p : Fin 32) (f : Flit) (s : State) : Host.Outcome State Fault Refusal :=
  .next (if s.portReady p then s.linkCtrlFlit p f else s)

/-- A COLL_CTRL flit, by its kind (R299). -/
def deliverCtrl (f : Flit) (s : State) : Host.Outcome State Fault Refusal :=
  match fld f.trailer 0 4 with
  | 0 => execCollHello f s
  | 1 => execCollCredit f s
  | 2 => execCollSubst f s
  | 3 => execCollAbort f s
  | 4 => execCollTake f s
  | _ => .next (s.accept f 0x11).1

/-- A flit addressed to the package is taken by the rule of its type. The contents of the time base's messages, types
0x12 to 0x15, have no layout in the spec: they reach it as CINCH_ARRIVE, CINCH_RELEASE, SYNC_REQ and SYNC_RSP (log
entry 31). -/
def deliver (f : Flit) (s : State) : Host.Outcome State Fault Refusal :=
  match f.typ.toNat with
  | 0x01 => execRdReq f s
  | 0x02 => execRdRsp f s
  | 0x03 => execWrReq f s
  | 0x04 => execWrAck f s
  | 0x05 => execAtomReq f s
  | 0x06 => execAtomRsp f s
  | 0x07 => execNack f s
  | 0x08 => execDmaRd f s
  | 0x09 => execDmaData f s
  | 0x0A => execDmaAck f s
  | 0x10 => execCollData f s
  | 0x11 => deliverCtrl f s
  | 0x16 => execDrainMark f s
  | 0x17 => execDrainEcho f s
  | 0x18 => execPocketData f s
  | 0x19 => execPocketAck f s
  | 0x1C => execQuench f s
  | 0x1D => execQuenchAck f s
  | 0x1E => execMgmt f s
  | _ => .next (s.accept f f.typ.toNat).1

/-- A flit that port `p` received in good order. -/
def State.route (s : State) (p : Nat) (f : Flit) : Host.Outcome State Fault Refusal :=
  if f.typ.toNat = 0x1F then .next (s.linkCtrlFlit p f)
  else if flitOk f = false then .next (s.count64 (Reg.fabCnt 2) 1)
  else if s.node = 0xFFFF then .next s
  else if f.dst.toNat = s.node then deliver f s
  else .next (s.transit p f)

/-- The link part of a flit received in good order: LSEQ moves on, its buffer is freed again, and its ACK, NACK and credit
return are taken (R271, R272). -/
def State.takeLink (s : State) (p : Nat) (f : Flit) (l : LinkPart) : State :=
  let q := revPort p
  let k := p * 8 + f.vc.toNat
  let c := q * 8 + l.cvc.toNat
  let s1 := s.count64 (Reg.fabPCnt p 1) 1
  let s2 : State := { s1 with
    linkRx := Tbl.set 0 s1.linkRx p ((l.lseq.toNat + 1) % 4096)
    freed := Tbl.set 0 s1.freed k (Tbl.get 0 s1.freed k + 1)
    unfreed := Tbl.set 0 s1.unfreed c (Tbl.get 0 s1.unfreed c - l.ccount.toNat) }
  let s3 := if l.nack then s2.nackPort q l.ack.toNat else s2.linkAcked q l.ack.toNat
  pumpPort q (Tbl.get [] s3.portQ q).length s3

/-- LINK_FLIT_RECEIVE (R271). -/
def execLinkFlitReceive (p : Fin 32) (f : Flit) (l : LinkPart) (s : State) : Host.Outcome State Fault Refusal :=
  if s.portReady p = false then .next s
  else if linkCrcOk f l = false ∨ l.lseq.toNat ≠ Tbl.get 0 s.linkRx p then
    .next (s.send (.linkNack (revPort p) ((Tbl.get 0 s.linkRx p + 4095) % 4096)))
  else (s.takeLink p f l).route p f

/-! ## Training (R276, Table 11-8) -/

/-- A count of each VC of port `p` starts anew. -/
def clearVcs (p : Nat) (t : Tbl Nat) : Tbl Nat := (List.range 8).foldl (fun t v => Tbl.set 0 t (p * 8 + v) 0) t

/-- The logical lanes of a direction of a port that trains: those on lasting lanes lie on the healthy spare (R267). -/
def State.trainLanes (s : State) (p : Nat) (rx : Bool) : State :=
  (List.range 8).foldl (fun s i =>
    match s.spareLane p rx with
    | some l =>
      if s.isLasting p rx (s.regF (laneMap p rx) (4 * i) 4) && !s.isLasting p rx l then s.moveLane p rx i l else s
    | none => s) s

/-- May port `p` train: it is enabled, its optical engines are on, and a ring port is joined? -/
def State.canTrain (s : State) (p : Nat) : Bool :=
  s.regB (Reg.fabPCfg p) 0 && s.domOn (68 + p / 8) && (decide (p < 28) || s.regB Reg.fabRingCtrl ((p - 28) / 2))

/-- LINK_TRAIN_DONE (R268, R276): the port shows its partner, and numbering, credits and the retry buffer start anew; it runs on its
healthy lanes, DEGRADED where a direction has fewer than eight. -/
def execLinkTrainDone (p : Fin 32) (far : BitVec 16) (s : State) : Host.Outcome State Fault Refusal :=
  if s.canTrain p = false ∨ s.portReady p = true then .next s
  else
    let was := s.regF (Reg.fabPStatus p) 16 16
    let tx := (s.healthyLanes p false).length
    let rx := (s.healthyLanes p true).length
    if tx < 4 ∨ rx < 4 then .next s
    else
      let s0 := (s.setPort p 2).setRegF (Reg.fabPStatus p) 16 16 far.toNat
      let s1 := ((if tx < 8 ∨ rx < 8 then s0.degrade p else (s0.trainLanes p false).trainLanes p true).setRotation p false
        none).setRotation p true none
      let s2 : State := { s1 with
        linkTx := Tbl.set 0 s1.linkTx p 0
        linkRx := Tbl.set 0 s1.linkRx p 0
        linkBuf := Tbl.set [] s1.linkBuf p []
        linkFail := Tbl.set (0, 0) s1.linkFail p (0, 0)
        freed := clearVcs p s1.freed
        unfreed := clearVcs p s1.unfreed
        arb := Tbl.set Arb.init s1.arb p Arb.init }
      let s3 := if 28 ≤ p.val ∧ was ≠ far.toNat then s2.fabEv 11 p far.toNat else s2
      .next (pumpPort p (Tbl.get [] s3.portQ p).length s3)

end Sys2Proof.Machine
end

