-- ==== Sys2Proof/Machine/Remap.lean ====
section
/-! DEFINITION. Remapping and online test (chapter 15, R374, R375, R378, R380). -/
namespace Sys2Proof.Machine

/-! ## Draining and moving a unit (R151, R152, R210, R374) -/

/-- A core's group in progress is restarted from its first item; what its items had done is discarded (R210). -/
def State.restartGroup (s : State) (k : Nat) : State := match s.shareOf k with
  | none => s
  | some sh =>
    s.setShare k (some { sh with items := sh.ended.map (fun e => e.1) ++ sh.group ++ sh.items, group := [], ended := [] })

/-- Drain a logical unit: a program is interrupted, its context saved before the unit counts as drained (R152); an engine's item
is abandoned, to be restarted from its inputs, and a core's group from its first item (R210). -/
def State.drainUnit (s : State) (kind u : Nat) : State :=
  match kind with
  | 0 => s.interrupt (.tile (Fin.ofNat 256 u))
  | 1 =>
    let s1 := s.interrupt (.core (Fin.ofNat 256 u))
    if (s1.shareOf (256 + u)).isSome then (s1.restartGroup (256 + u)).dropReads (keyReq (256 + u)) else s1
  | _ => s.dropReads (keyReq u)

/-- Move logical unit `u` to physical unit `p`: it is drained, and the old one takes state `old`. Its SRAM is copied: the window of
the logical unit keeps its contents. A program whose context was saved resumes by CONTEXT_RESTORE. -/
def State.moveUnit (s : State) (kind u p old : Nat) : State :=
  let s1 := s.drainUnit kind u
  let die := dieOf kind u
  ((((s1.setPhysState kind die (s1.physOf kind u) old).setPhysState kind die p 1).setPhysOf kind u p)).mapChanged kind u

/-- Set the QUIESCED bit of a unit. -/
def State.setQuiesced (s : State) (kind u : Nat) (b : Bool) : State :=
  match kind with
  | 0 => s.setRegB (Reg.tnsStatus u) 2 b
  | 1 => s.setRegB (Reg.slvCoreStatus u) 2 b
  | _ => s.setRegB (Reg.slvFeStatus u) 2 b

/-- A unit is parked, or taken back, with REL_STATUS.PARKED. -/
def State.setParked (s : State) (kind u : Nat) (b : Bool) : State :=
  let s1 := { s with parked := Tbl.set false s.parked (unitKey kind u) b }.setQuiesced kind u b
  s1.setRegF Reg.relStatus 2 5 s1.parked.length

/-- Park a unit: it is drained and then reports it (R152). -/
def State.park (s : State) (kind u : Nat) : State := (s.drainUnit kind u).setParked kind u true

/-- Remap a logical unit to the lowest spare of its die, or NO_SPARE; answers whether it moved. -/
def State.remap (s : State) (kind u : Nat) (lasting : Bool) : State × Bool :=
  match s.spare kind (dieOf kind u) 0 0 with
  | some p =>
    let s1 := s.moveUnit kind u p (if lasting then 0 else 2)
    (if s1.isParked kind u then s1.setParked kind u false else s1, true)
  | none => (s.relEv 5 kind u, false)

/-- Is the physical unit that carries a logical unit lasting, and are lasting units remapped (R373)? -/
def State.remapDue (s : State) (kind u : Nat) : Bool :=
  s.regB Reg.relCfg 0 && Tbl.get false s.lastingRes (physKey kind (dieOf kind u) (s.physOf kind u))

/-- REMAP (R374): of a unit whose physical unit became lasting, where REL_CFG.AUTO_REMAP is 1 (R373), or for another cause; it waits
while a test runs (R375). -/
def execRemap (kind : UnitKind) (unit : Nat) (lasting : Bool) (s : State) : Host.Outcome State Fault Refusal :=
  let k := kindNo kind
  if unitsOf s.grade k ≤ unit ∨ s.test.isSome ∨ (lasting = true ∧ s.remapDue k unit = false) then .next s
  else .next (s.remap k unit lasting).1

/-! ## Online test (R375) -/

/-- Does the grade have the group that a test names? -/
def groupPresent (g : Grade) (kind die target : Nat) : Bool :=
  match kind with
  | 0 => decide (target < 9) && decide (64 * die < numTiles g)
  | 1 => decide (target < 8) && decide (128 * die < numCores g)
  | 2 => decide (target < 2) && decide (16 * die < numEngines g)
  | 3 => decide (target < 4)
  | _ => false

/-- Has a die a parked unit? -/
def State.dieParked (s : State) (die : Nat) : Bool := match s.test with
  | some _ => true
  | none => s.parked.any fun p => decide (dieOf (p.1 / 1000) (p.1 % 1000) = die)

/-- End a test or remap request with a RESULT: GO clears. -/
def State.testResult (s : State) (r : Nat) : State :=
  (s.setRegB Reg.relTestCtrl 4 false).setRegF Reg.relTestCtrl 24 8 r

/-- Step 1 of a test for one logical unit: moved to a spare outside the group, or parked. -/
def State.testMove (kind die lo n : Nat) (s : State) (u : Nat) : State :=
  match s.test with
  | none => s
  | some t =>
    match s.spare kind die lo n with
    | some p =>
      let old := s.physOf kind u
      { s.moveUnit kind u p 2 with test := some { t with moved := t.moved ++ [(u, old)] } }
    | none => { s.park kind u with test := some { t with parkedU := t.parkedU ++ [u] } }

/-- The logical units that the physical units of a group carry, in rising physical order. -/
def State.groupLogical (s : State) (kind die lo n : Nat) : List Nat :=
  (upFrom lo n).filterMap fun p => s.logicalOf kind die p

/-- Steps 1 and 2 of a test. -/
def State.startTest (s : State) (kind die target : Nat) : State :=
  let s0 := (s.setRegB Reg.relStatus 0 true).setReg Reg.relTestResult 0
  let j := s0.regF Reg.fabRingCtrl 0 2
  let t : TestSt := ⟨kind, die, target, [], [], j⟩
  let s1 := { s0 with test := some t }
  if kind = 3 then
    let s2 := (upFrom (8 * target) 8).foldl (fun s p => s.setPort p 0) s1
    (if target = 3 then s2.setJoin 0 else s2).setDom (groupDomain 3 0 target) 0
  else
    let r := groupUnits kind target
    let s2 := (s1.groupLogical kind die r.1 r.2).foldl (State.testMove kind die r.1 r.2) s1
    let retained := match s2.test with
      | some t => !t.parkedU.isEmpty
      | none => false
    s2.setDom (groupDomain kind die target) (if retained then 2 else 0)

/-- A write to REL_TEST_CTRL: with GO, a test or a remap starts or is refused (R375, R380). -/
def State.relTestWrite (s : State) (v : W64) : State :=
  if bit v 4 = false then s.plainWrite Reg.relTestCtrl v
  else if s.test.isSome then (s.plainWrite Reg.relTestCtrl v).setRegF Reg.relTestCtrl 24 8 1
  else
    let s1 := s.plainWrite Reg.relTestCtrl v
    let kind := fld v 0 4
    let die := fld v 8 3
    let target := fld v 16 8
    if 7 ≤ kind then s1.testResult 2
    else if 4 ≤ kind then
      if unitsOf s.grade (kind - 4) ≤ target then s1.testResult 2
      else
        let r := s1.remap (kind - 4) target false
        r.1.testResult (if r.2 then 0 else 3)
    else if groupPresent s.grade kind die target = false then s1.testResult 2
    else if kind ≤ 2 ∧ s1.dieParked die then s1.testResult 1
    else s1.startTest kind die target

/-- REMAP_TILE (R374). -/
def execRemapTile (v : BitVec 32) (s : State) : Host.Outcome State Fault Refusal :=
  .next (s.relTestWrite (v.zeroExtend 64))
/-- REMAP_CORE (R374). -/
def execRemapCore (v : BitVec 32) (s : State) : Host.Outcome State Fault Refusal :=
  .next (s.relTestWrite (v.zeroExtend 64))
/-- REMAP_ENGINE (R374). -/
def execRemapEngine (v : BitVec 32) (s : State) : Host.Outcome State Fault Refusal :=
  .next (s.relTestWrite (v.zeroExtend 64))
/-- TEST_TILE_CLUSTER (R375). -/
def execTestTileCluster (v : BitVec 32) (s : State) : Host.Outcome State Fault Refusal :=
  .next (s.relTestWrite (v.zeroExtend 64))
/-- TEST_CORE_CLUSTER (R375). -/
def execTestCoreCluster (v : BitVec 32) (s : State) : Host.Outcome State Fault Refusal :=
  .next (s.relTestWrite (v.zeroExtend 64))
/-- TEST_ENGINE_GROUP (R375). -/
def execTestEngineGroup (v : BitVec 32) (s : State) : Host.Outcome State Fault Refusal :=
  .next (s.relTestWrite (v.zeroExtend 64))
/-- TEST_OPTICAL_GROUP (R375). -/
def execTestOpticalGroup (v : BitVec 32) (s : State) : Host.Outcome State Fault Refusal :=
  .next (s.relTestWrite (v.zeroExtend 64))

/-- Step 3 for unit `i` of a group that failed its BIST: its bit and its event, with the unit's number `p`. -/
def State.testFail (s : State) (kind die p i : Nat) : State :=
  (s.setRegB Reg.relTestResult i true).relEv 4 kind (resWord kind die p)

/-- Step 3 for one physical unit of the group that failed its BIST: it is FAILED. -/
def State.bistFail (kind die lo : Nat) (s : State) (i : Nat) : State :=
  (s.setPhysState kind die (lo + i) 0).testFail kind die (lo + i) i

/-- Step 4 for a moved unit: it returns to its own physical unit if that passed. -/
def State.testReturn (kind die : Nat) (s : State) (m : Nat × Nat) : State :=
  if s.physState kind die m.2 = 0 then s else s.moveUnit kind m.1 m.2 2

/-- Step 4 for a parked unit: it resumes where it was, or on a spare, or is lost. -/
def State.testResume (kind die : Nat) (s : State) (u : Nat) : State :=
  if s.physState kind die (s.physOf kind u) ≠ 0 then s.setParked kind u false
  else match s.spare kind die 0 0 with
    | some p => (s.moveUnit kind u p 0).setParked kind u false
    | none => s.relEv 6 kind u

/-- The end of a test of units. -/
def State.endUnits (s : State) (t : TestSt) (failed : List Nat) : State :=
  let r := groupUnits t.kind t.target
  let bad := failed.filter fun i => decide (i < r.2)
  let s1 := bad.foldl (State.bistFail t.kind t.die r.1) s
  let s2 := t.moved.foldl (State.testReturn t.kind t.die) s1
  t.parkedU.foldl (State.testResume t.kind t.die) s2

/-- The end of a test of optical group `g`: its failing optical engines and lanes, its ports' training, and for group 3 the rings
(R375). -/
def State.endOptical (s : State) (t : TestSt) (failed : List Nat) (lanes : List (Fin 32 × Bool × Fin 9)) : State :=
  let s1 := failed.foldl (fun s i => s.testFail 3 0 (4 * t.target + i) i) s
  let s2 := (lanes.filter fun l => l.1.val / 8 == t.target).foldl (fun s l => s.laneLasting l.1 l.2.1 l.2.2) s1
  let s3 := (upFrom (8 * t.target) 8).foldl (fun s p => s.setPort p (if s.regB (Reg.fabPCfg p) 0 then 1 else 0)) s2
  if t.target = 3 then s3.setJoin t.join else s3

/-- TEST_DONE (R375): the BIST results, the return of the units and the RESULT. The result of an optical group's BIST is
the numbers of its failing optical engines, and its failing lanes. -/
def execTestDone (found : TestFound) (s : State) : Host.Outcome State Fault Refusal :=
  match s.test with
  | none => .next s
  | some t =>
    let n := if t.kind = 3 then 4 else (groupUnits t.kind t.target).2
    let bad := found.failed.filter fun i => decide (i < n)
    let s1 := s.setDom (groupDomain t.kind t.die t.target) 1
    let s2 := if t.kind = 3 then s1.endOptical t bad found.lanes else s1.endUnits t bad
    let lost := t.kind != 3 && t.parkedU.any fun u => s2.isParked t.kind u
    let s4 := ({ s2 with test := none }.setRegB Reg.relStatus 0 false).count64 (Reg.relCnt 5) 1
    .next ((s4.testResult (if lost then 5 else if bad.isEmpty then 0 else 4)).relEv 3 t.kind
      (resWord t.kind t.die t.target))

/-- A write to REL_UNIT_FAIL: ignored while RUN is 1; a unit in use is remapped first (R378, R380). -/
def State.unitFailWrite (s : State) (v : W64) : State :=
  let kind := fld v 0 2
  let die := fld v 3 3
  let p := fld v 8 8
  if s.running ∨ kind = 3 ∨ physPerDie kind ≤ p ∨ unitsOf s.grade kind ≤ die * logPerDie kind then s
  else match s.logicalOf kind die p with
    | some u =>
      let r := s.remap kind u true
      if r.2 then r.1 else r.1.setPhysState kind die p 0
    | none => s.setPhysState kind die p 0

/-- REL_UNIT_FAIL (R378). -/
def execRelUnitFail (v : BitVec 32) (s : State) : Host.Outcome State Fault Refusal :=
  .next (s.unitFailWrite (v.zeroExtend 64))

end Sys2Proof.Machine
end

