-- ==== Sys2Proof/Machine/Rings.lean ====
section
/-! DEFINITION. Submission and completion rings (R323 to R332, R337 to R341). -/
namespace Sys2Proof.Machine

/-- A ring stopped, or a doorbell or EN write was refused. -/
def State.ringErr (s : State) (i : Nat) : State := s.event 0 Reg.hubEvent 2 i none

/-- Entries of a ring whose L is in force. -/
def ringSize (l : Nat) : Nat := 2 ^ l
def State.sqSize (s : State) (i : Nat) : Nat := ringSize (s.regF (Reg.sqCfg i) 1 5)
def State.cqSize (s : State) (i : Nat) : Nat := ringSize (s.regF (Reg.cqCfg i) 1 5)
def State.sqHead (s : State) (i : Nat) : Nat := s.regF (Reg.sqStatus i) 0 16
def State.sqStopped (s : State) (i : Nat) : Bool := s.regB (Reg.sqStatus i) 16
def State.sqCq (s : State) (i : Nat) : Nat := s.regF (Reg.sqCfg i) 6 10

/-- A submission ring stops with an error. -/
def State.stopSq (s : State) (i err : Nat) : State :=
  ((s.setRegB (Reg.sqStatus i) 16 true).setRegF (Reg.sqStatus i) 24 8 err).ringErr i

/-- Is a slot of completion ring `c` free (R326)? -/
def State.slotFree (s : State) (c : Nat) : Bool := decide ((s.cqOf c).used + (s.cqOf c).promised < s.cqSize c)

/-! ## Doorbells (R325, R327) -/

/-- SQ_TAIL (R325). -/
def State.sqTail (s : State) (i v : Nat) : State :=
  if s.regB (Reg.sqCfg i) 0 = false then s
  else if s.sqSize i ≤ v then s.stopSq i 1
  else s.setSq i { s.sqOf i with tail := v }

/-- CQ_HEAD (R327): a head that equals the tail frees every slot (log entry 29). -/
def State.cqHead (s : State) (i v : Nat) : State :=
  let c := s.cqOf i
  let n := s.cqSize i
  if s.regB (Reg.cqCfg i) 0 = false then s
  else if n ≤ v ∨ c.used < (v + n - c.head) % n then (s.setRegB (Reg.cqStatus i) 18 true).ringErr i
  else
    let left := (s.regF (Reg.cqStatus i) 0 16 + n - v) % n
    s.setCq i { c with head := v, used := left, since := 0, fired := false }

/-- SQ_TAIL (R325). -/
def execSqTail (i : Fin 1024) (v : BitVec 32) (s : State) : Host.Outcome State Fault Refusal := .next (s.bar dblBase fun s => s.sqTail i v.toNat)
/-- CQ_HEAD (R327). -/
def execCqHead (i : Fin 1024) (v : BitVec 32) (s : State) : Host.Outcome State Fault Refusal := .next (s.bar dblBase fun s => s.cqHead i v.toNat)

/-! ## Fetching (R326, R330, R332) -/

/-- Fields of a ring entry (Table 13-3). -/
def entOp (e : List Byte) : Nat := at_ e 0 1
def entWhen (e : List Byte) : Nat := at_ e 1 1 % 4
def entFence (e : List Byte) : Bool := at_ e 1 1 / 4 % 2 == 1
def entDlEn (e : List Byte) : Bool := at_ e 26 1 % 2 == 1
def entDlPleat (e : List Byte) : Nat := at_ e 26 1 / 2 % 64

/-- Is an entry malformed, but for its deadline pleat (R332)? -/
def State.entryBad (s : State) (e : List Byte) : Bool :=
  let op := entOp e
  let body := op != 1 && op != 8
  op == 0 || decide (9 < op) || entWhen e == 3 || decide (8 ≤ at_ e 1 1) || decide (64 ≤ at_ e 2 1) || at_ e 4 4 != 0 ||
    (entWhen e == 2 && decide (s.lastPleat < at_ e 2 1 % 64)) ||
    (op == 8 && at_ e 16 48 != 0) || (op == 1 && s.dmaMalformed e) ||
    (body && (at_ e 28 36 != 0 || decide (128 ≤ at_ e 26 1) || (if op = 6 then decide (16 ≤ at_ e 27 1) else at_ e 27 1 != 0) ||
      (entDlEn e && entWhen e == 0) || at_ e 16 8 % 64 != 0 || at_ e 24 2 == 0))

/-- The last pleat of the present stitch that has begun, if one has. -/
def State.lastBegun (s : State) : Option Nat :=
  if s.time.inPleat then some (s.regF Reg.timStatus 4 6)
  else match s.time.due with
    | some p => if p = 0 then none else some (p - 1)
    | none => if s.time.lastEnded ∨ (s.time.atCinch ∧ s.time.startCinch = false) then some s.lastPleat else none

/-- Has the pleat of an AT entry already begun (R330)? -/
def State.entryLate (s : State) (e : List Byte) : Bool :=
  let st := at_ e 8 8
  entWhen e == 2 && (decide (st < s.stitch.toNat) || (st == s.stitch.toNat && match s.lastBegun with
    | some p => decide (at_ e 2 1 % 64 ≤ p)
    | none => false))

/-- WHEN in force (R330). -/
def State.whenOf (s : State) (e : List Byte) : Nat :=
  if entWhen e = 0 ∧ entOp e ≠ 1 ∧ entOp e ≠ 8 ∧ s.running then 1 else entWhen e

/-- RING_FETCH (R326, R340): `hostErr` says that the host completes the read with an error. -/
def execRingFetch (i : Fin 1024) (hostErr : Bool) (s : State) : Host.Outcome State Fault Refusal :=
  let q := s.sqOf i
  let h := s.sqHead i
  let c := s.sqCq i
  if s.regB (Reg.sqCfg i) 0 = false ∨ s.sqStopped i ∨ h = q.tail ∨ s.regB (Reg.cqCfg c) 0 = false ∨ s.slotFree c = false then .next s
  else
    let a := (s.reg (Reg.sqBase i)).toNat + 64 * h
    let d := s.load a 64
    let s1 := s.loadEvent hubReq a 64
    let err := hostErr && s.region a == .host
    if err ∨ d.2 then
      let s2 := s1.stopSq i 4
      .next (if err then s2.event 0 Reg.hubEvent 4 i a else s2)
    else
      let bad := if s1.entryBad d.1 then some stActionInvalid else if s1.entryLate d.1 then some stSchedLate else none
      let f : Fetched := ⟨d.1, q.fetched, s1.whenOf d.1, s1.time.begun, bad⟩
      let s2 := s1.setRegF (Reg.sqStatus i) 0 16 ((h + 1) % s1.sqSize i)
      let s3 := s2.setSq i { q with fetched := (q.fetched + 1) % 2 ^ 32, waiting := q.waiting ++ [f] }
      .next (s3.setCq c { s3.cqOf c with promised := (s3.cqOf c).promised + 1 })

/-! ## Launching (R330, R331) -/

/-- What a fetched entry of ring `i` launches. -/
def Fetched.launch (f : Fetched) (i cring : Nat) : Launch :=
  { typ := entOp f.entry, desc := at_ f.entry 16 8, count := if entOp f.entry = 1 ∨ entOp f.entry = 8 ∨ entOp f.entry = 6 then 1
      else at_ f.entry 24 2,
    deadline := if entDlEn f.entry && entOp f.entry != 1 && entOp f.entry != 8 then some (entDlPleat f.entry) else none,
    tset := at_ f.entry 27 1 % 16, compl := true, cring := cring, table := false, sring := i, sidx := f.sidx,
    period := at_ f.entry 24 2, body := f.entry }

/-- Launch by type (Table 2-2). -/
def State.launchAny (s : State) (l : Launch) (inPleat : Bool) : State :=
  match l.typ with
  | 1 => s.launchRingDma l inPleat
  | 2 => s.launchTiles l inPleat
  | 3 => s.launchBatches l inPleat
  | 4 => s.launchCores l inPleat
  | 5 => s.launchColls l inPleat
  | 6 => s.launchTelemetry l inPleat
  | 7 => s.launchCkp l inPleat
  | 8 => s.launchHostSignal l inPleat
  | 9 => s.launchThrottle l inPleat
  | _ => s

/-- An entry completes without having launched; outside a pleat but where its launch at the start of one was refused. -/
def State.entryDone (s : State) (i : Nat) (f : Fetched) (st : Nat) (inPleat : Bool) : State :=
  s.owe { cring := s.sqCq i, status := st, action := false, sring := i, sidx := f.sidx, stitch := s.stitch,
          pleat := if inPleat then s.pleatNow else 0xFF, failed := 0, info := 0, hold := false }

/-- Ring `i` has no further entry due at this pleat. -/
def State.dropDue (s : State) (i : Nat) : State :=
  if s.ringsDue.contains i then s else { s with time := { s.time with dueRings := s.time.dueRings.filter fun k => k != i } }

/-- The head entry leaves the list, and completes with a status or launches. -/
def State.launchEntry (s : State) (i : Nat) (f : Fetched) (rest : List Fetched) (inPleat : Bool) : State :=
  let l := f.launch i (s.sqCq i)
  let late := match l.deadline with
    | some d => inPleat && !s.deadlineOk s.pleatNow d
    | none => false
  let bad := match f.bad with
    | some st => some st
    | none => if late then some stActionInvalid else none
  match bad with
  | some st => ((s.setSq i { s.sqOf i with waiting := rest }).entryDone i f st inPleat).dropDue i
  | none => ((s.setSq i { s.sqOf i with waiting := rest, live := (s.sqOf i).live + 1 }).launchAny l inPleat).dropDue i

/-- RING_ENTRY_LAUNCH (R330, R331): the head of the fetched entries, in its turn. -/
def execRingEntryLaunch (i : Fin 1024) (s : State) : Host.Outcome State Fault Refusal :=
  match (s.sqOf i).waiting with
  | [] => .next s
  | f :: rest =>
    if entFence f.entry ∧ (s.sqOf i).live ≠ 0 then .next s
    else if f.bad.isSome ∨ f.whn = 0 then .next (s.launchEntry i f rest false)
    else if s.heldDue f ∧ s.time.launchQ.isEmpty ∧ s.time.dueRings.head? = some i.val ∧ s.stopped = false then
      .next (s.launchEntry i f rest true)
    else .next s

/-! ## Completion entries (R327, R328, R337, R340, R341) -/

/-- The bytes of a completion entry (Table 13-5). -/
def State.complBytes (s : State) (c : Compl) (phase : Bool) : List Byte :=
  natBytes 1 c.status ++ natBytes 1 (bnat phase + 2 * bnat c.action) ++ natBytes 2 c.sring ++ natBytes 4 (if c.action then 0 else c.sidx) ++
    natBytes 8 c.stitch.toNat ++ natBytes 1 c.pleat ++ natBytes 1 0 ++ natBytes 2 (if c.action then 0 else s.sqHead c.sring) ++
    natBytes 4 c.failed ++ natBytes 4 c.info ++ natBytes 4 0

/-- The completion that ring `i` writes next: one of a ring entry has its slot, one of an action needs a free one. -/
def State.nextCompl (s : State) (i : Nat) : Option Compl := s.owed.find? fun c => c.cring == i && (!c.action || s.slotFree i)

/-- The vector of a completion ring, where it is due (R341). -/
def State.coalesce (s : State) (i : Nat) : State :=
  let c := s.cqOf i
  if s.regB (Reg.cqCfg i) 17 ∧ c.fired = false ∧ max 1 (s.regF (Reg.cqCoal i) 0 16) ≤ c.since then
    (s.setCq i { c with fired := true }).raiseVector (s.regF (Reg.cqCfg i) 6 11)
  else s

/-- COMPLETION_WRITE (R327, R328): `hostErr` says that the host completes the write with an error (R340). -/
def execCompletionWrite (i : Fin 1024) (hostErr : Bool) (s : State) : Host.Outcome State Fault Refusal :=
  match s.nextCompl i with
  | none => .next s
  | some c =>
    if s.regB (Reg.cqCfg i) 0 = false ∨ s.regF (Reg.cqStatus i) 24 8 ≠ 0 then .next s
    else
      let tail := s.regF (Reg.cqStatus i) 0 16
      let phase := s.regB (Reg.cqStatus i) 16
      let a := (s.reg (Reg.cqBase i)).toNat + 32 * tail
      if hostErr ∧ s.region a = .host then
        .next ((((s.setRegF (Reg.cqStatus i) 24 8 3).pendFull s i).ringErr i).event 0 Reg.hubEvent 4 i a)
      else
        let s1 := { s.store hubReq a (s.complBytes c phase) with owed := s.owed.erase c }
        let next := (tail + 1) % s.cqSize i
        let s2 := (s1.setRegF (Reg.cqStatus i) 0 16 next).setRegB (Reg.cqStatus i) 16 (if next = 0 then !phase else phase)
        let q := s2.cqOf i
        let q1 := { q with used := q.used + 1, promised := if c.action then q.promised else q.promised - 1,
                           since := q.since + 1, first := if q.since = 0 then s.ft else q.first }
        let s3 := s2.setCq i q1
        .next ((if c.action then s3 else s3.count64 (Reg.hubCnt 0) 1).coalesce i)

/-- COAL_TIMEOUT (R341): COAL_TIME µs have passed since the first entry was written. -/
def execCoalTimeout (i : Fin 1024) (s : State) : Host.Outcome State Fault Refusal :=
  let c := s.cqOf i
  if s.regB (Reg.cqCfg i) 0 ∧ s.regB (Reg.cqCfg i) 17 ∧ s.regF (Reg.cqCoal i) 16 16 ≠ 0 ∧ c.since ≠ 0 ∧ c.fired = false ∧
      c.first + usec * s.regF (Reg.cqCoal i) 16 16 ≤ s.ft then
    .next ((s.setCq i { c with fired := true }).raiseVector (s.regF (Reg.cqCfg i) 6 11))
  else .next s

/-! ## Set-up (R339) -/

/-- Is a ring's base or size refused? -/
def State.baseBad (s : State) (base l bytes : Nat) : Bool :=
  base % 4096 != 0 || decide (l < 6) || decide (16 < l) || (firstRefused s.accessible base (bytes * 2 ^ l)).isSome

/-- A submission ring is enabled. -/
def State.enableSq (s : State) (i : Nat) : State :=
  let s1 := (s.setReg (Reg.sqStatus i) 0).setSq i { s.sqOf i with tail := 0, fetched := 0, waiting := [] }
  if s1.baseBad (s1.reg (Reg.sqBase i)).toNat (s1.regF (Reg.sqCfg i) 1 5) 64 then s1.stopSq i 2
  else if s1.regB (Reg.cqCfg (s1.sqCq i)) 0 = false then s1.stopSq i 3
  else s1

/-- A submission ring is disabled: unfetched entries are dropped, fetched ones complete with ABORTED. -/
def State.disableSq (s : State) (i : Nat) : State :=
  let q := s.sqOf i
  let s1 := q.waiting.foldl (fun s f => s.entryDone i f stAborted false) s
  let s2 := s1.setSq i { q with tail := s.sqHead i, waiting := [] }
  { s2 with time := { s2.time with dueRings := s2.time.dueRings.filter fun k => k != i } }

/-- A write to SQ_CFG. -/
def State.sqCfgWrite (s : State) (i : Nat) (v : W64) : State :=
  if s.regB (Reg.sqCfg i) 0 then (if bit v 0 then s else (s.disableSq i).plainWrite (Reg.sqCfg i) v)
  else if bit v 0 then (s.plainWrite (Reg.sqCfg i) v).enableSq i
  else s.plainWrite (Reg.sqCfg i) v

/-- Is a completion ring bound to an enabled submission ring, or owed entries? -/
def State.cqBusy (s : State) (i : Nat) : Bool :=
  ((List.range 1024).any fun k => s.regB (Reg.sqCfg k) 0 && s.sqCq k == i) || (s.owed.any fun c => c.cring == i) ||
    (s.cqOf i).promised != 0

/-- A completion ring is enabled: its first pass writes PHASE = 1; BAD_HEAD stays until it is cleared. -/
def State.enableCq (s : State) (i : Nat) : State :=
  let s1 := (s.setReg (Reg.cqStatus i) (0x10000 + (s.reg (Reg.cqStatus i) &&& 0x40000))).setCq i CqSt.init
  if s1.baseBad (s1.reg (Reg.cqBase i)).toNat (s1.regF (Reg.cqCfg i) 1 5) 32 then (s1.setRegF (Reg.cqStatus i) 24 8 2).ringErr i
  else s1

/-- A write to CQ_CFG. -/
def State.cqCfgWrite (s : State) (i : Nat) (v : W64) : State :=
  if s.regB (Reg.cqCfg i) 0 then
    (if bit v 0 then s else if s.cqBusy i then s.ringErr i else s.plainWrite (Reg.cqCfg i) v)
  else if bit v 0 then (s.plainWrite (Reg.cqCfg i) v).enableCq i
  else s.plainWrite (Reg.cqCfg i) v

/-- SQ_ENABLE (R339). -/
def execSqEnable (i : Fin 1024) (v : BitVec 32) (s : State) : Host.Outcome State Fault Refusal :=
  .next (s.sqCfgWrite i (v.zeroExtend 64))
/-- SQ_DISABLE (R339). -/
def execSqDisable (i : Fin 1024) (v : BitVec 32) (s : State) : Host.Outcome State Fault Refusal :=
  .next (s.sqCfgWrite i (v.zeroExtend 64))
/-- CQ_ENABLE (R339). -/
def execCqEnable (i : Fin 1024) (v : BitVec 32) (s : State) : Host.Outcome State Fault Refusal :=
  .next (s.cqCfgWrite i (v.zeroExtend 64))
/-- CQ_DISABLE (R339). -/
def execCqDisable (i : Fin 1024) (v : BitVec 32) (s : State) : Host.Outcome State Fault Refusal :=
  .next (s.cqCfgWrite i (v.zeroExtend 64))

end Sys2Proof.Machine
end

