-- ==== Sys2Proof/Machine/SyncWait.lean ====
section
/-! DEFINITION. A sync counter that reaches the count a waiter waits for (R111). -/
namespace Sys2Proof.Machine

/-- The task at the head of a tile's queue proceeds. -/
def State.releaseTile (s : State) (t : Nat) : State :=
  match s.queueOf t with
  | ref :: q =>
    let d := tdescOf ref.body
    if s.waitMet d.waitId d.waitCount then s.setQueue t ({ ref with released := true } :: q) else s
  | [] => s

/-- Has the counter of a batch been reached? -/
def State.batchMet (s : State) (n : Nat) : Bool :=
  match s.batchOf n with
  | some b =>
    let d := bdescOf b.body
    s.waitMet d.waitId d.waitCount
  | none => false

/-- The launch or share at the head of a core's queue proceeds. -/
def State.releaseCore (s : State) (c : Nat) : State :=
  match s.coreQueue c with
  | .launch l _ :: q =>
    let d := ldescOf l.body
    if s.waitMet d.waitId d.waitCount then s.setCoreQueue c (.launch l true :: q) else s
  | .share n _ :: q => if s.batchMet n then s.setCoreQueue c (.share n true :: q) else s
  | [] => s

/-- The share at the head of an engine's queue proceeds. -/
def State.releaseEngine (s : State) (e : Nat) : State :=
  match s.engQueue e with
  | (n, _) :: q => if s.batchMet n then s.setEngQueue e ((n, true) :: q) else s
  | [] => s

/-- The instruction WAITSC of a program completes. -/
def State.releaseProgram (s : State) (u : VUnit) : State :=
  match s.progOf u with
  | some p =>
    match p.wait with
    | .waitsc id n => if p.saved = false ∧ p.ended = none ∧ s.waitMet id n = true then s.resume u p else s
    | _ => s
  | none => s

/-- A DMA proceeds. -/
def State.releaseDma (s : State) (id : Nat) : State :=
  match Tbl.get none s.dmas id with
  | some d =>
    if d.running = false ∧ s.waitMet (at_ d.body 37 1) (at_ d.body 40 2) = true then
      { s with dmas := Tbl.set none s.dmas id (some { d with released := true }) }
    else s
  | none => s

/-- The collective at the head of a channel's queue proceeds. -/
def State.releaseColl (s : State) (ch : Nat) : State :=
  match Tbl.get [] s.colQ ch with
  | ref :: q =>
    if s.waitMet (cfld ref.body 8 1) (cfld ref.body 10 2) then
      { s with colQ := Tbl.set [] s.colQ ch ({ ref with released := true } :: q) }
    else s
  | [] => s

/-- The capture that runs proceeds. -/
def State.releaseCapture (s : State) : State :=
  match s.ckpRun with
  | some c =>
    if c.stage = 0 ∧ s.waitMet (recNum c.ref.body 32 1) (recNum c.ref.body 34 2) = true then
      { s with ckpRun := some { c with ref := { c.ref with released := true } } }
    else s
  | none => s

/-- SYNC_WAIT_SATISFIED (R111): the waiter proceeds, whatever becomes of the counter before it starts. -/
def execSyncWaitSatisfied (w : Waiter) (s : State) : Host.Outcome State Fault Refusal :=
  match w with
  | .tile t => .next (s.releaseTile t)
  | .core c => .next (s.releaseCore c)
  | .engine e => .next (s.releaseEngine e)
  | .program u => .next (s.releaseProgram u)
  | .dma id => .next (s.releaseDma id)
  | .collective ch => .next (s.releaseColl ch)
  | .capture => .next s.releaseCapture

end Sys2Proof.Machine
end

