-- ==== Sys2Proof/Machine/RegAccess.lean ====
section
/-! DEFINITION. Accesses to BAR0 (R10 to R14, R28, R29, R324): what a register reads, and what a write of any register
does. -/
namespace Sys2Proof.Machine

/-! ## Windows of what the grade lacks (R29, R261) -/

/-- Does `off` lie in the window of a tile, engine, core or memory package that the grade lacks? -/
def absentWindow (g : Grade) (off : Nat) : Bool :=
  if 0x1100000 ≤ off ∧ off < 0x1500000 then decide (numPkgs g ≤ (off - 0x1100000) / 0x10000)
  else if 0x3000000 ≤ off ∧ off < 0x4000000 then decide (numTiles g ≤ (off - 0x3000000) / 0x10000)
  else if 0x4100000 ≤ off ∧ off < 0x4300000 then decide (numEngines g ≤ (off - 0x4100000) / 0x10000)
  else if 0x4800000 ≤ off ∧ off < 0x4C00000 then decide (numCores g ≤ (off - 0x4800000) / 0x4000)
  else false

/-- The register that the 32-bit word at `off` belongs to, where there is one that the grade has. -/
def State.regAt (s : State) (off : Nat) : Option (RegRow × Nat) := if absentWindow s.grade off then none else findReg off

/-! ## What registers read -/

/-- TNS_STATUS (R117): the tile's own queue holds 512 tasks; what waits beyond them waits in the launch engine (R110). -/
def State.tnsView (s : State) (t : Nat) : Nat :=
  let waits := match s.queueOf t with
    | ref :: _ =>
      let d := tdescOf ref.body
      !ref.released && !s.waitMet d.waitId d.waitCount
    | [] => false
  bnat (s.runOf t).isSome + 2 * bnat waits + 4 * s.regF (Reg.tnsStatus t) 2 1 + 8 * bnat (s.heldOf t).isSome +
    256 * min 512 (s.queueOf t).length

/-- Does the entry at the head of a core's queue wait on its sync counter? -/
def State.coreWaits (s : State) (c : Nat) : Bool := match s.coreQueue c with
  | .launch l rel :: _ =>
    let d := ldescOf l.body
    !rel && !s.waitMet d.waitId d.waitCount
  | .share n rel :: _ => !rel && !s.batchMet n
  | [] => false

/-- The action whose work a core runs. -/
def State.coreAct (s : State) (c : Nat) : Option Nat :=
  match s.progOf (.core (Fin.ofNat 256 c)), s.shareOf (256 + c) with
  | some p, _ => some p.act
  | none, some sh => (s.batchOf sh.batch).map fun b => b.act
  | none, none => none

/-- SLV_CORE_STATUS (R211). -/
def State.coreView (s : State) (c : Nat) : Nat :=
  bnat (s.coreBusy c) + 2 * bnat (s.coreWaits c) + 4 * s.regF (Reg.slvCoreStatus c) 2 1 +
    8 * bnat ((s.coreAct c).any s.dlineOf) + 16 * min 64 (s.coreQueue c).length + 2048 * bnat (s.shareOf (256 + c)).isSome

/-- SLV_FE_STATUS (R211). -/
def State.engView (s : State) (e : Nat) : Nat :=
  let waits := match s.engQueue e with
    | (n, rel) :: _ => !rel && !s.batchMet n
    | [] => false
  let dl := match s.shareOf e with
    | some sh => ((s.batchOf sh.batch).map fun b => s.dlineOf b.act).getD false
    | none => false
  bnat (s.shareOf e).isSome + 2 * bnat waits + 4 * s.regF (Reg.slvFeStatus e) 2 1 + 8 * bnat dl + 16 * min 64 (s.engQueue e).length

/-- SLV_STATUS (R211). -/
def State.slvView (s : State) : Nat :=
  ((List.range 32).filter fun e => (s.shareOf e).isSome).length + 64 * ((List.range 256).filter s.coreBusy).length

/-- The power domain of a clock domain (Tables 17-1 and 17-2). -/
def clockDomain (m : Nat) : Nat :=
  if m < 56 then 11 * (m / 14) + (if m % 14 < 9 then m % 14 else if m % 14 = 10 ∨ m % 14 = 11 then 9 else 10)
  else if m < 84 then 44 + 12 * ((m - 56) / 14) + (if (m - 56) % 14 < 10 then (m - 56) % 14 else if (m - 56) % 14 = 11 then 10 else 11)
  else if m < 88 then 68 + (m - 84)
  else if m = 90 then 73 else if m < 93 then 72 else if m = 93 then 74 else if m = 94 then 75 else if m < 97 then 76
  else 77 + (m - 97)

/-- PWR_CLK[m] (R405). -/
def State.clkView (s : State) (m : Nat) : Nat :=
  let n := clockDomain m
  if domPresent s.grade n = false then 4 else bnat (s.domOn n) + 2 * bnat (s.regF (Reg.pwrDom n) 0 2 == 0)

/-- The value of a 32-byte digest, word `w`. -/
def State.measWord (s : State) (i w : Nat) : Nat := (s.measure i).toNat / 2 ^ (64 * w) % 2 ^ 64

/-- What a HUB register reads: identity (R344) and rings (R330, R328) come from the state; the rest is stored. -/
def State.viewHub (s : State) (o : Nat) : W64 :=
  if o = Reg.hubId then BitVec.ofNat 64 ((match s.grade with
    | .lcv8 => 8
    | .lcv4 => 4) + 256 * Config.stepping.toNat)
  else if o = Reg.hubSerial then s.fuseSerial
  else if o = Reg.hubUnits then
    BitVec.ofNat 64 (numTiles s.grade + 2 ^ 9 * numCores s.grade + 2 ^ 18 * numEngines s.grade + 2 ^ 24 * numPkgs s.grade)
  else if 0x100000 ≤ o ∧ o < 0x110000 then
    let i := (o - 0x100000) / 0x40
    if o % 0x40 = 0x0C then setBit (s.reg o) 17 (match (s.sqOf i).waiting with
      | f :: _ => f.whn != 0
      | [] => false)
    else if o % 0x40 = 0x20 then setBit (s.reg o) 17 (s.regB (Reg.cqCfg i) 0 && decide (s.cqSize i ≤ (s.cqOf i).used))
    else s.reg o
  else if 0x300000 ≤ o ∧ o < 0x320000 ∧ o % 0x80 = 0x34 then s.monHstat ((o - 0x300000) / 0x80)
  else s.reg o

/-- What a PWR register reads. -/
def State.viewPwr (s : State) (o : Nat) : W64 :=
  if Reg.pwrDom 0 ≤ o ∧ o < Reg.pwrDom 80 then
    (if domPresent s.grade ((o - Reg.pwrDom 0) / 4) then s.reg o else s.reg o ||| 3)
  else if Reg.pwrClk 0 ≤ o ∧ o < Reg.pwrClk 100 then BitVec.ofNat 64 (s.clkView ((o - Reg.pwrClk 0) / 4))
  else if Reg.pwrSwlvl 0 ≤ o ∧ o < Reg.pwrSwlvl 512 then BitVec.ofNat 64 (Tbl.get 8 s.swLevel ((o - Reg.pwrSwlvl 0) / 4))
  else if Reg.pwrSwlvl 524 ≤ o ∧ o < Reg.pwrSwlvl 544 then BitVec.ofNat 64 (Tbl.get 8 s.swLevel ((o - Reg.pwrSwlvl 0) / 4))
  else s.reg o

/-- What the register at `o`, its own offset, reads. -/
def State.regView (s : State) (o : Nat) : W64 :=
  if o < 0x400000 then s.viewHub o
  else if o = Reg.timFt then BitVec.ofNat 64 s.ft
  else if Reg.secMeas 6 0 ≤ o ∧ o < Reg.secMeas 10 0 then
    BitVec.ofNat 64 (s.measWord ((o - Reg.secMeas 0 0) / 0x20) (o % 0x20 / 8))
  else if 0xC00000 ≤ o ∧ o < 0x1000000 then s.viewPwr o
  else if o = Reg.ckpStatus then
    BitVec.ofNat 64 (bnat s.ckpRun.isSome + 2 * s.ckpQ.length + 16 * bnat s.xfer.isSome + 32 * bnat s.restore.isSome)
  else if 0x3000000 ≤ o ∧ o < 0x4000000 then
    let t := (o - 0x3000000) / 0x10000
    if o = Reg.tnsStatus t then BitVec.ofNat 64 (s.tnsView t)
    else if o = Reg.tnsPhys t then BitVec.ofNat 64 (s.physOf 0 t + 256 * dieOf 0 t)
    else s.reg o
  else if o = Reg.slvStatus then BitVec.ofNat 64 s.slvView
  else if 0x4100000 ≤ o ∧ o < 0x4300000 then
    let e := (o - 0x4100000) / 0x10000
    if o = Reg.slvFeStatus e then BitVec.ofNat 64 (s.engView e)
    else if o = Reg.slvFePhys e then
      BitVec.ofNat 64 (s.physOf 2 e + 32 * bnat (decide (9 ≤ s.physOf 2 e)) + 64 * dieOf 2 e)
    else s.reg o
  else if 0x4800000 ≤ o ∧ o < 0x4C00000 then
    let c := (o - 0x4800000) / 0x4000
    if o = Reg.slvCoreStatus c then BitVec.ofNat 64 (s.coreView c)
    else if o = Reg.slvCorePhys c then BitVec.ofNat 64 (s.physOf 1 c + 256 * dieOf 1 c)
    else s.reg o
  else s.reg o

/-! ## Writes by block -/

/-- A write of a word of the MSI-X table: unmasking a pending entry sends its message (R341). -/
def State.msixWrite (s : State) (o : Nat) (v : W64) : State :=
  let s1 := s.plainWrite o v
  let i := (o - 0x10000) / 16
  if o % 16 = 12 ∧ s1.regB o 0 = false ∧ s1.regB (Reg.msixPba (i / 64)) (i % 64) = true then
    (s1.setRegB (Reg.msixPba (i / 64)) (i % 64) false).raiseVector i
  else s1

/-- A write in the window of ring `i`: writes to its bases and configurations are ignored while EN is 1, and those to
CQ_COAL are taken (R339). -/
def State.ringWrite (s : State) (o : Nat) (v : W64) : State :=
  let i := (o - 0x100000) / 0x40
  match o % 0x40 with
  | 0x00 => if s.regB (Reg.sqCfg i) 0 then s else s.plainWrite o v
  | 0x08 => s.sqCfgWrite i v
  | 0x10 => if s.regB (Reg.cqCfg i) 0 then s else s.plainWrite o v
  | 0x18 => s.cqCfgWrite i v
  | _ => s.plainWrite o v

/-- A write in the window of a monitor set. -/
def State.monWrite (s : State) (o : Nat) (v : W64) : State :=
  let n := (o - 0x300000) / 0x80
  match o % 0x80 with
  | 0x00 => s.monCfgWrite n v
  | 0x04 => s.monCtrlWrite n v
  | _ => s.monRegWrite n o v

/-- A write in the HUB block. -/
def State.writeHub (s : State) (o : Nat) (v : W64) : State :=
  if o = Reg.hubEvlogRp then s.evlogRpWrite v
  else if 0x10000 ≤ o ∧ o < 0x18000 then s.msixWrite o v
  else if 0x100000 ≤ o ∧ o < 0x110000 then s.ringWrite o v
  else if 0x300000 ≤ o ∧ o < 0x320000 then s.monWrite o v
  else if o = Reg.detCfg then s.detCfgWrite v
  else if o = Reg.relTestCtrl then s.relTestWrite v
  else if o = Reg.relUnitFail then s.unitFailWrite v
  else s.plainWrite o v

/-- A write in the MEM block. -/
def State.writeMem (s : State) (o : Nat) (v : W64) : State :=
  if o = Reg.memCfg then s.memCfgWrite v
  else if o = Reg.memCtrl then s.memCtrlWrite v
  else if o = Reg.memRetireAdd then s.retireAdd v.toNat
  else s.plainWrite o v

/-- A write in the CKP block (R364). -/
def State.writeCkp (s : State) (o : Nat) (v : W64) : State :=
  if o = Reg.ckpGrp ∨ o = Reg.ckpGrpList ∨ o = Reg.ckpTdesc then (if s.running then s else s.plainWrite o v)
  else if o = Reg.ckpXferCtrl then s.xferCtrlWrite v
  else if o = Reg.ckpRstCtrl then s.rstCtrlWrite v
  else s.plainWrite o v

/-- A write in the BOB block. -/
def State.writeBob (s : State) (o : Nat) (v : W64) : State :=
  if o = Reg.bobCtrl then s.bobCtrlWrite v
  else if o = Reg.bobSeed then s.bobSeedWrite v
  else if o = Reg.bobFillCtrl then s.fillCtrlWrite v
  else if o = Reg.bobGenCtrl then s.genCtrlWrite v
  else s.plainWrite o v

/-- A write to FAB_P_CFG: with ENABLE 0 the port is held DOWN. -/
def State.portCfgWrite (s : State) (p : Nat) (v : W64) : State :=
  let s1 := s.plainWrite (Reg.fabPCfg p) v
  if bit v 0 ∨ s1.portState p = 0 then s1 else s1.setPort p 0

/-- A write in the FAB block. -/
def State.writeFab (s : State) (o : Nat) (v : W64) : State :=
  if o = Reg.fabCtrl then s.fabCtrlWrite v
  else if o = Reg.fabPkey then (if s.running then s else s.plainWrite o v)
  else if o = Reg.fabReplRelease then s.replRelease v
  else if o = Reg.fabRingCtrl then s.ringCtrlWrite v
  else if 0x2100000 ≤ o ∧ o < 0x2120000 ∧ o % 0x1000 = 0 then s.portCfgWrite ((o - 0x2100000) / 0x1000) v
  else if 0x2810000 ≤ o ∧ o < 0x2814000 then
    let g := (o - 0x2810000) / 0x40
    if o % 0x40 = 0 then s.grpCfgWrite g v else if s.grpValid g then s else s.plainWrite o v
  else s.plainWrite o v

/-- A write of the whole register at `o`, its own offset. -/
def State.regWrite (s : State) (o : Nat) (v : W64) : State :=
  if o < 0x400000 then s.writeHub o v
  else if o = Reg.timCtrl then s.timCtrlWrite v
  else if o = Reg.timStitch then s.timStitchWrite v
  else if o = Reg.timSyncCfg then s.syncCfgWrite v
  else if o = Reg.secCtrl then s.secCtrlFree v none none
  else if o = Reg.pwrCtrl then s.pwrCtrlFree v
  else if Reg.pwrDom 0 ≤ o ∧ o < Reg.pwrDom 80 then s.pwrDomWrite ((o - Reg.pwrDom 0) / 4) v
  else if 0x1000000 ≤ o ∧ o < 0x1800000 then s.writeMem o v
  else if 0x1800000 ≤ o ∧ o < 0x1C00000 then s.writeCkp o v
  else if 0x1C00000 ≤ o ∧ o < 0x2000000 then s.writeBob o v
  else if 0x2000000 ≤ o ∧ o < 0x3000000 then s.writeFab o v
  else if 0x3000000 ≤ o ∧ o < 0x4000000 ∧ o % 0x10000 = 0 then s.tnsCfgWrite ((o - 0x3000000) / 0x10000) v
  else s.plainWrite o v

/-! ## Accesses (R13, R14, R324) -/

/-- A doorbell: page q at 0x1000 × q, ring 16q + j at 0x100 × j. -/
def State.doorbell (s : State) (off : Nat) (v : W32) : State :=
  let d := off - dblBase
  let i := 16 * (d / 0x1000) + d % 0x1000 / 0x100
  if 64 ≤ d / 0x1000 then s
  else if d % 0x100 = 0 then s.sqTail i v.toNat
  else if d % 0x100 = 4 then s.cqHead i v.toNat
  else s

/-- The 64-bit value of two words. -/
def pairOf (lo hi : W32) : W64 := BitVec.ofNat 64 (lo.toNat + 2 ^ 32 * hi.toNat)

/-- A 32-bit write at an aligned offset. -/
def State.write32 (s : State) (off : Nat) (v : W32) : State :=
  if dblBase ≤ off then (if off < 0x6000000 then s.doorbell off v else s)
  else match s.regAt off with
  | none => s
  | some (r, o) =>
    if r.wide = false then s.regWrite o (v.zeroExtend 64)
    else if off = o then s.holdWord o (some v)
    else (s.regWrite o (pairOf ((s.heldAt o).getD ((s.reg o).truncate 32)) v)).holdWord o none

/-- A 64-bit write at an aligned offset: of a pair, or of two registers, the lower first. -/
def State.write64 (s : State) (off : Nat) (v : W64) : State :=
  let two := (s.write32 off (v.truncate 32)).write32 (off + 4) ((v >>> 32).truncate 32)
  if dblBase ≤ off then two
  else match s.regAt off with
  | some (r, o) => if r.wide then (s.regWrite o v).holdWord o none else two
  | none => two

/-- What a 32-bit read at an aligned offset returns. -/
def State.read32 (s : State) (off : Nat) : W32 :=
  if dblBase ≤ off then 0
  else match s.regAt off with
  | none => 0
  | some (r, o) =>
    if r.wide = false ∨ off = o then (s.regView o).truncate 32
    else (Tbl.get none s.latched o).getD (((s.regView o) >>> 32).truncate 32)

/-- What a read changes: the low word of a pair latches the high word, and the next read of the high word takes it. -/
def State.readLatch (s : State) (off : Nat) : State :=
  if dblBase ≤ off then s
  else match s.regAt off with
  | none => s
  | some (r, o) =>
    if r.wide = false then s
    else { s with latched := Tbl.set none s.latched o (if off = o then some (((s.regView o) >>> 32).truncate 32) else none) }

/-- The state after a 64-bit read at an aligned offset: it latches nothing of a pair; of two registers the lower is read first. -/
def State.readLatch64 (s : State) (off : Nat) : State :=
  match s.regAt off with
  | some (r, _) => if r.wide then s else (s.readLatch off).readLatch (off + 4)
  | none => (s.readLatch off).readLatch (off + 4)

/-- What a 64-bit read at an aligned offset returns: a pair at once, or two registers, the lower first (R13). -/
def State.read64 (s : State) (off : Nat) : W64 :=
  let two := pairOf (s.read32 off) (s.read32 (off + 4))
  if dblBase ≤ off then two
  else match s.regAt off with
  | some (r, o) => if r.wide then s.regView o else two
  | none => two

/-- An access of a size or alignment that BAR0 does not accept (R14). -/
def State.badAccess (s : State) (off : Nat) : State :=
  (s.setReg Reg.hubRegErr (BitVec.ofNat 64 (off % 2 ^ 32))).event 0 Reg.hubEvent 0 none off

/-- A read returned a word to the host. -/
def State.answerWord (s : State) (w : W32) : State := { s with busOut := w.zeroExtend 64, busPoison := false }

/-- Is an access of `n` bytes at `off` one that BAR0 accepts? -/
def goodAccess (off n : Nat) : Bool := (n == 4 || n == 8) && off % n == 0

/-- REGISTER_WRITE (R10): a write of one word, or of two. -/
def execRegisterWrite (off : Nat) (wide : Bool) (v : BitVec 64) (s : State) : Host.Outcome State Fault Refusal :=
  if goodAccess off (if wide then 8 else 4) = false then .next (s.badAccess off)
  else .next (s.bar off fun s => if wide then s.write64 off v else s.write32 off (v.truncate 32))

/-- A read returned a pair of words to the host. -/
def State.answerPair (s : State) (v : W64) : State := { s with busOut := v, busPoison := false }

/-- A host read at an aligned offset, of one word or of two; of a block it does not reach it returns 0. -/
def State.hostRead (s : State) (off : Nat) (wide : Bool) : State :=
  if s.reaches off = false then s.answerWord 0
  else if wide then (s.readLatch64 off).answerPair (s.read64 off)
  else (s.readLatch off).answerWord (s.read32 off)

/-- PAIR_LOW_WORD_READ (R13): a read of one word, or of two; the high word of a pair is read after its low word. -/
def execPairLowWordRead (rd : RegRead) (s : State) : Host.Outcome State Fault Refusal :=
  if goodAccess rd.off (if rd.wide then 8 else 4) = false then .next ((s.badAccess rd.off).answerWord 0)
  else .next (s.hostRead rd.off rd.wide)

/-- PAIR_LOW_WORD_WRITE (R13). -/
def execPairLowWordWrite (off : Nat) (v : BitVec 32) (s : State) : Host.Outcome State Fault Refusal :=
  if goodAccess off 4 = false then .next (s.badAccess off) else .next (s.bar off fun s => s.write32 off v)

/-- PAIR_HIGH_WORD_WRITE (R13): `off` is the offset of the high word. -/
def execPairHighWordWrite (off : Nat) (v : BitVec 32) (s : State) : Host.Outcome State Fault Refusal :=
  if goodAccess off 4 = false then .next (s.badAccess off) else .next (s.bar off fun s => s.write32 off v)

/-- BAD_SIZE_ACCESS (R14): it reads 0 and is recorded. An access of an accepted size is no such access: a read is performed, and a
write, whose data the command does not carry, is REGISTER_WRITE's. -/
def execBadSizeAccess (off bytes : Nat) (write : Bool) (s : State) : Host.Outcome State Fault Refusal :=
  if goodAccess off bytes then .next (if write then s else s.hostRead off (bytes == 8))
  else .next (if write then s.badAccess off else (s.badAccess off).answerWord 0)

end Sys2Proof.Machine
end

