-- ==== Sys2Proof/Machine/Signals.lean ====
section
/-! DEFINITION. The ports besides the fabric's: I3C (R430), JTAG (R397, R431), the training of the CXL link (R319), and what the
package drives on its other lands (R425, R429, R432, R436, R439). -/
namespace Sys2Proof.Machine

/-! ## I3C (R430) -/

/-- The static address, 0x58 + I3C_ADDR[1:0]. -/
def State.i3cStatic (s : State) : BitVec 7 := 0x58 + s.i3cStrap.zeroExtend 7

/-- The address the port answers to. -/
def State.i3cAddr (s : State) : BitVec 7 := s.i3cDyn.getD s.i3cStatic

/-- Does the port answer? It does from step 2 of Table 17-3 on, while domain 76 is on. -/
def State.i3cUp (s : State) : Bool := s.domOn 76

/-- Does the port reach an offset to write it? -/
def i3cWrites (off : Nat) : Bool := decide (0xC00000 ≤ off) && decide (off < 0x1000000) && off % 4 == 0

/-- Does the port reach an offset to read it? -/
def i3cReads (off : Nat) : Bool :=
  i3cWrites off || [Reg.secStatus, Reg.secBootErr, Reg.secSvn, Reg.hubId, Reg.hubSerial, Reg.hubSerial + 4,
    Reg.hubUnits].contains off

/-- I3C_PRIVATE_WRITE (R430). -/
def execI3cPrivateWrite (addr : BitVec 7) (off : BitVec 32) (data : Option (BitVec 32)) (s : State) :
    Host.Outcome State Fault Refusal :=
  if s.i3cUp = false ∨ addr ≠ s.i3cAddr then .next s
  else
    let s1 := { s with i3cOff := off }
    match data with
    | none => .next s1
    | some v => .next (if i3cWrites off.toNat then s1.write32 off.toNat v else s1)

/-- The word an I3C read returns; the halves of a pair are read as they stand. -/
def State.i3cWord (s : State) (off : Nat) : W32 :=
  if i3cReads off = false then 0
  else match s.regAt off with
  | none => 0
  | some (_, o) => (s.regView o >>> (8 * (off - o))).truncate 32

/-- I3C_PRIVATE_READ (R430). -/
def execI3cPrivateRead (addr : BitVec 7) (s : State) : Host.Outcome State Fault Refusal :=
  if s.i3cUp = false ∨ addr ≠ s.i3cAddr then .next s
  else .next (s.answerWord (s.i3cWord s.i3cOff.toNat))

/-- SETDASA (R430): the target that has no dynamic address yet takes one by its static address. -/
def execSetdasa (static dyn : BitVec 7) (s : State) : Host.Outcome State Fault Refusal :=
  .next (if s.i3cUp && s.i3cDyn.isNone && static == s.i3cStatic then { s with i3cDyn := some dyn } else s)

/-- ENTDAA (R430): a target that has no dynamic address yet is given one. -/
def execEntdaa (dyn : BitVec 7) (s : State) : Host.Outcome State Fault Refusal :=
  .next (if s.i3cUp && s.i3cDyn.isNone then { s with i3cDyn := some dyn } else s)

/-! ## JTAG (R397, R431) -/

/-- An instruction enters the TAP, which answers while domain 76 is on. -/
def State.tap (s : State) (i : JtagInstr) : State := if s.domOn 76 then { s with jtag := i } else s

/-- EXTEST (R431). -/
def execExtest (s : State) : Host.Outcome State Fault Refusal := .next (s.tap .extest)
/-- SAMPLE_PRELOAD (R431). -/
def execSamplePreload (s : State) : Host.Outcome State Fault Refusal := .next (s.tap .samplePreload)
/-- BYPASS (R431). -/
def execBypass (s : State) : Host.Outcome State Fault Refusal := .next (s.tap .bypass)

/-- The IDCODE register (R431). -/
def State.idcodeWord (s : State) : W32 :=
  BitVec.ofNat 32 (Config.stepping.toNat * 2 ^ 28 + (match s.grade with
    | .lcv8 => 0x0C08
    | .lcv4 => 0x0C04) * 2 ^ 12 + 0x4B5 * 2 + 1)

/-- IDCODE (R431). -/
def execIdcode (s : State) : Host.Outcome State Fault Refusal :=
  .next (if s.domOn 76 then (s.tap .idcode).answerWord s.idcodeWord else s)

/-- DEBUG_HALT (R397): from level 2 on, a halt is an interruption (R151). -/
def execDebugHalt (u : VUnit) (s : State) : Host.Outcome State Fault Refusal :=
  .next (if 2 ≤ s.dbgLevel then s.interrupt u else s)

/-! ## The CXL link (R319) -/

/-- CXL_LINK_UP (R319): ×16, ×8 or ×4, at 64, 32, 16 or 8 GT/s, from stage SELFTEST on (R387). -/
def execCxlLinkUp (width rate : Nat) (cxl : Bool) (s : State) : Host.Outcome State Fault Refusal :=
  if s.hubUp = false ∨ s.stage = 0 ∨ s.domOn 75 = false ∨ [16, 8, 4].contains width = false ∨ [64, 32, 16, 8].contains rate = false then .next s
  else .next { s with linkUp := true, linkWidth := width, linkRate := rate, linkCxl := cxl }

/-! ## Lands (R425, R429, R432, R436, R439) -/

/-- The land group Mnn of memory package `n` (R425): the LCV4's packages from 12 on use the groups of the LCV8's SD0. -/
def memGroup : Grade → Nat → Nat
  | .lcv8, n => n
  | .lcv4, n => if n < 12 then n else n + 36

/-- The wave on RINGn_HOLD, which holds ring n's shunts open: JOINn is 1, and the package is powered and not in reset (R436). -/
def State.ringHold (s : State) (n : Nat) : Bool := s.hubUp && decide (n < 2) && s.regB Reg.fabRingCtrl n

/-- STITCH_OUT is high: a pulse is being driven and STITCH_OUT_EN is 1 (R56, R429); it is low in reset (R439). -/
def State.stitchOutLand (s : State) : Bool := s.hubUp && s.time.stitchOut && s.regB Reg.timCtrl 4

/-- THERM_ALERT is driven: domain 76 is on and a die is at or above TH_ALERT (R414, R439). -/
def State.thermAlertLand (s : State) : Bool := s.domOn 76 && s.regB Reg.pwrStatus 5

/-- The package drives the Quad-SPI lands while domain 79 is on (R432). -/
def State.qspiDriven (s : State) : Bool := s.domOn 79

/-- Mnn_RESET_N is high: the memory controllers have begun to train, and no reset has reached them since (R247, R439). -/
def State.memResetN (s : State) : Bool := s.regB Reg.memCtrl 0

end Sys2Proof.Machine
end

