-- ==== Sys2Proof/Machine/Dispatch.lean ====
section
/-! DEFINITION. The one dispatch from commands to their meanings: one arm per row of the table of operations. -/
namespace Sys2Proof.Machine

def exec (i : Instr) (s : State) : Host.Outcome State Fault Refusal :=
  match i with
  | .registerWrite off wide v => Sys2Proof.Machine.execRegisterWrite off wide v s
  | .pairLowWordRead rd => Sys2Proof.Machine.execPairLowWordRead rd s
  | .pairLowWordWrite off v => Sys2Proof.Machine.execPairLowWordWrite off v s
  | .pairHighWordWrite off v => Sys2Proof.Machine.execPairHighWordWrite off v s
  | .badSizeAccess off bytes write => Sys2Proof.Machine.execBadSizeAccess off bytes write s
  | .syncInterval => Sys2Proof.Machine.execSyncInterval s
  | .syncReq src tSend tRecv => Sys2Proof.Machine.execSyncReq src tSend tRecv s
  | .syncRsp t1 t2 t3 t4 => Sys2Proof.Machine.execSyncRsp t1 t2 t3 t4 s
  | .syncHoldover => Sys2Proof.Machine.execSyncHoldover s
  | .runSet v => Sys2Proof.Machine.execRunSet v s
  | .runClear v => Sys2Proof.Machine.execRunClear v s
  | .holdSet v => Sys2Proof.Machine.execHoldSet v s
  | .holdClear v => Sys2Proof.Machine.execHoldClear v s
  | .pleatBegin => Sys2Proof.Machine.execPleatBegin s
  | .actionDma => Sys2Proof.Machine.execActionDma s
  | .actionTileTask => Sys2Proof.Machine.execActionTileTask s
  | .actionSolverBatch => Sys2Proof.Machine.execActionSolverBatch s
  | .actionCoreProgram => Sys2Proof.Machine.execActionCoreProgram s
  | .actionCollectiveStart => Sys2Proof.Machine.execActionCollectiveStart s
  | .actionTelemetrySample => Sys2Proof.Machine.execActionTelemetrySample s
  | .actionCheckpoint => Sys2Proof.Machine.execActionCheckpoint s
  | .actionHostSignal => Sys2Proof.Machine.execActionHostSignal s
  | .actionThrottle => Sys2Proof.Machine.execActionThrottle s
  | .pleatEndTime => Sys2Proof.Machine.execPleatEndTime s
  | .pleatEnd => Sys2Proof.Machine.execPleatEnd s
  | .openPleatWatchdog => Sys2Proof.Machine.execOpenPleatWatchdog s
  | .deadlineSignal action => Sys2Proof.Machine.execDeadlineSignal action s
  | .stitchComplete => Sys2Proof.Machine.execStitchComplete s
  | .arriveSend => Sys2Proof.Machine.execArriveSend s
  | .cinchArrive m => Sys2Proof.Machine.execCinchArrive m s
  | .cinchRelease m => Sys2Proof.Machine.execCinchRelease m s
  | .stitchBegin => Sys2Proof.Machine.execStitchBegin s
  | .bankArm v => Sys2Proof.Machine.execBankArm v s
  | .cinchTimeout => Sys2Proof.Machine.execCinchTimeout s
  | .stitchIn => Sys2Proof.Machine.execStitchIn s
  | .stitchOutEnd => Sys2Proof.Machine.execStitchOutEnd s
  | .taskMatmul t faults => Sys2Proof.Machine.execTaskMatmul t faults s
  | .taskSliced t faults => Sys2Proof.Machine.execTaskSliced t faults s
  | .taskExponent t => Sys2Proof.Machine.execTaskExponent t s
  | .taskCombine t => Sys2Proof.Machine.execTaskCombine t s
  | .taskVprog t => Sys2Proof.Machine.execTaskVprog t s
  | .taskComplete t => Sys2Proof.Machine.execTaskComplete t s
  | .taskMigrate src dst => Sys2Proof.Machine.execTaskMigrate src dst s
  | .vadd u o => Sys2Proof.Machine.execVadd u o s
  | .vsub u o => Sys2Proof.Machine.execVsub u o s
  | .vmul u o => Sys2Proof.Machine.execVmul u o s
  | .vmulhi u o => Sys2Proof.Machine.execVmulhi u o s
  | .vmin u o => Sys2Proof.Machine.execVmin u o s
  | .vmax u o => Sys2Proof.Machine.execVmax u o s
  | .vminu u o => Sys2Proof.Machine.execVminu u o s
  | .vmaxu u o => Sys2Proof.Machine.execVmaxu u o s
  | .vand u o => Sys2Proof.Machine.execVand u o s
  | .vor u o => Sys2Proof.Machine.execVor u o s
  | .vxor u o => Sys2Proof.Machine.execVxor u o s
  | .vshl u o => Sys2Proof.Machine.execVshl u o s
  | .vshr u o => Sys2Proof.Machine.execVshr u o s
  | .vsar u o => Sys2Proof.Machine.execVsar u o s
  | .vsadd u o => Sys2Proof.Machine.execVsadd u o s
  | .vssub u o => Sys2Proof.Machine.execVssub u o s
  | .vaddW u o => Sys2Proof.Machine.execVaddW u o s
  | .vmulW u o => Sys2Proof.Machine.execVmulW u o s
  | .vdot4 u o => Sys2Proof.Machine.execVdot4 u o s
  | .vmov u o => Sys2Proof.Machine.execVmov u o s
  | .vcmpEq u o => Sys2Proof.Machine.execVcmpEq u o s
  | .vcmpNe u o => Sys2Proof.Machine.execVcmpNe u o s
  | .vcmpLt u o => Sys2Proof.Machine.execVcmpLt u o s
  | .vcmpLtu u o => Sys2Proof.Machine.execVcmpLtu u o s
  | .vcmpLe u o => Sys2Proof.Machine.execVcmpLe u o s
  | .vcmpLeu u o => Sys2Proof.Machine.execVcmpLeu u o s
  | .vfadd u o => Sys2Proof.Machine.execVfadd u o s
  | .vfsub u o => Sys2Proof.Machine.execVfsub u o s
  | .vfmul u o => Sys2Proof.Machine.execVfmul u o s
  | .vfdiv u o => Sys2Proof.Machine.execVfdiv u o s
  | .vfmin u o => Sys2Proof.Machine.execVfmin u o s
  | .vfmax u o => Sys2Proof.Machine.execVfmax u o s
  | .vfma u o => Sys2Proof.Machine.execVfma u o s
  | .vfnma u o => Sys2Proof.Machine.execVfnma u o s
  | .vfcopys u o => Sys2Proof.Machine.execVfcopys u o s
  | .vfcopysn u o => Sys2Proof.Machine.execVfcopysn u o s
  | .vfaddW u o => Sys2Proof.Machine.execVfaddW u o s
  | .vfmulW u o => Sys2Proof.Machine.execVfmulW u o s
  | .vfmaW u o => Sys2Proof.Machine.execVfmaW u o s
  | .vfdot4 u alt o => Sys2Proof.Machine.execVfdot4 u alt o s
  | .vfdot2 u alt o => Sys2Proof.Machine.execVfdot2 u alt o s
  | .vfmov u o => Sys2Proof.Machine.execVfmov u o s
  | .vfcmpEq u o => Sys2Proof.Machine.execVfcmpEq u o s
  | .vfcmpNe u o => Sys2Proof.Machine.execVfcmpNe u o s
  | .vfcmpLt u o => Sys2Proof.Machine.execVfcmpLt u o s
  | .vfcmpLe u o => Sys2Proof.Machine.execVfcmpLe u o s
  | .vfcmpUn u o => Sys2Proof.Machine.execVfcmpUn u o s
  | .vfcvt u o => Sys2Proof.Machine.execVfcvt u o s
  | .vfunary u o => Sys2Proof.Machine.execVfunary u o s
  | .vfneg u o => Sys2Proof.Machine.execVfneg u o s
  | .vfabs u o => Sys2Proof.Machine.execVfabs u o s
  | .vfupd u o => Sys2Proof.Machine.execVfupd u o s
  | .vld u fn o => Sys2Proof.Machine.execVld u fn o s
  | .vst u fn o => Sys2Proof.Machine.execVst u fn o s
  | .vstadd u wide o => Sys2Proof.Machine.execVstadd u wide o s
  | .vkand u o => Sys2Proof.Machine.execVkand u o s
  | .vkor u o => Sys2Proof.Machine.execVkor u o s
  | .vkxor u o => Sys2Proof.Machine.execVkxor u o s
  | .vkandn u o => Sys2Proof.Machine.execVkandn u o s
  | .vknot u o => Sys2Proof.Machine.execVknot u o s
  | .vkcount u o => Sys2Proof.Machine.execVkcount u o s
  | .vklead u o => Sys2Proof.Machine.execVklead u o s
  | .vsumr u o => Sys2Proof.Machine.execVsumr u o s
  | .vmaxr u o => Sys2Proof.Machine.execVmaxr u o s
  | .vminr u o => Sys2Proof.Machine.execVminr u o s
  | .vmaxru u o => Sys2Proof.Machine.execVmaxru u o s
  | .vminru u o => Sys2Proof.Machine.execVminru u o s
  | .vfsumrT u o => Sys2Proof.Machine.execVfsumrT u o s
  | .vfsumrX u o => Sys2Proof.Machine.execVfsumrX u o s
  | .vfmaxr u o => Sys2Proof.Machine.execVfmaxr u o s
  | .vfminr u o => Sys2Proof.Machine.execVfminr u o s
  | .vargmaxr u o => Sys2Proof.Machine.execVargmaxr u o s
  | .vargminr u o => Sys2Proof.Machine.execVargminr u o s
  | .vsscanAdd u o => Sys2Proof.Machine.execVsscanAdd u o s
  | .vsscanMax u o => Sys2Proof.Machine.execVsscanMax u o s
  | .vsscanMin u o => Sys2Proof.Machine.execVsscanMin u o s
  | .vfsscanAdd u o => Sys2Proof.Machine.execVfsscanAdd u o s
  | .vfsscanMax u o => Sys2Proof.Machine.execVfsscanMax u o s
  | .vfsscanMin u o => Sys2Proof.Machine.execVfsscanMin u o s
  | .vhist u o => Sys2Proof.Machine.execVhist u o s
  | .vpack u o => Sys2Proof.Machine.execVpack u o s
  | .vspread u o => Sys2Proof.Machine.execVspread u o s
  | .vpick u o => Sys2Proof.Machine.execVpick u o s
  | .vindex u o => Sys2Proof.Machine.execVindex u o s
  | .vlset u o => Sys2Proof.Machine.execVlset u o s
  | .vlseti u mon o => Sys2Proof.Machine.execVlseti u mon o s
  | .vcrrd u o => Sys2Proof.Machine.execVcrrd u o s
  | .vcrwr u o => Sys2Proof.Machine.execVcrwr u o s
  | .vaccr u o => Sys2Proof.Machine.execVaccr u o s
  | .vsmax u o => Sys2Proof.Machine.execVsmax u o s
  | .vcatd u o => Sys2Proof.Machine.execVcatd u o s
  | .vbern u o => Sys2Proof.Machine.execVbern u o s
  | .vrand u o => Sys2Proof.Machine.execVrand u o s
  | .vfence u o => Sys2Proof.Machine.execVfence u o s
  | .vend u o => Sys2Proof.Machine.execVend u o s
  | .vtrap u o => Sys2Proof.Machine.execVtrap u o s
  | .veInterrupt u => Sys2Proof.Machine.execVeInterrupt u s
  | .contextRestore u => Sys2Proof.Machine.execContextRestore u s
  | .add u xd xs1 xs2 => Sys2Proof.Machine.execAdd u xd xs1 xs2 s
  | .sub u xd xs1 xs2 => Sys2Proof.Machine.execSub u xd xs1 xs2 s
  | .mul u xd xs1 xs2 => Sys2Proof.Machine.execMul u xd xs1 xs2 s
  | .mulhi u xd xs1 xs2 => Sys2Proof.Machine.execMulhi u xd xs1 xs2 s
  | .mulhiu u xd xs1 xs2 => Sys2Proof.Machine.execMulhiu u xd xs1 xs2 s
  | .quo u xd xs1 xs2 => Sys2Proof.Machine.execQuo u xd xs1 xs2 s
  | .quou u xd xs1 xs2 => Sys2Proof.Machine.execQuou u xd xs1 xs2 s
  | .mod u xd xs1 xs2 => Sys2Proof.Machine.execMod u xd xs1 xs2 s
  | .modu u xd xs1 xs2 => Sys2Proof.Machine.execModu u xd xs1 xs2 s
  | .and u xd xs1 xs2 => Sys2Proof.Machine.execAnd u xd xs1 xs2 s
  | .or u xd xs1 xs2 => Sys2Proof.Machine.execOr u xd xs1 xs2 s
  | .xor u xd xs1 xs2 => Sys2Proof.Machine.execXor u xd xs1 xs2 s
  | .shl u xd xs1 xs2 => Sys2Proof.Machine.execShl u xd xs1 xs2 s
  | .shr u xd xs1 xs2 => Sys2Proof.Machine.execShr u xd xs1 xs2 s
  | .sar u xd xs1 xs2 => Sys2Proof.Machine.execSar u xd xs1 xs2 s
  | .cmplt u xd xs1 xs2 => Sys2Proof.Machine.execCmplt u xd xs1 xs2 s
  | .cmpltu u xd xs1 xs2 => Sys2Proof.Machine.execCmpltu u xd xs1 xs2 s
  | .min u xd xs1 xs2 => Sys2Proof.Machine.execMin u xd xs1 xs2 s
  | .max u xd xs1 xs2 => Sys2Proof.Machine.execMax u xd xs1 xs2 s
  | .lzc u xd xs1 xs2 => Sys2Proof.Machine.execLzc u xd xs1 xs2 s
  | .bitcnt u xd xs1 xs2 => Sys2Proof.Machine.execBitcnt u xd xs1 xs2 s
  | .addI u xd xs1 imm => Sys2Proof.Machine.execAddI u xd xs1 imm s
  | .andI u xd xs1 imm => Sys2Proof.Machine.execAndI u xd xs1 imm s
  | .orI u xd xs1 imm => Sys2Proof.Machine.execOrI u xd xs1 imm s
  | .xorI u xd xs1 imm => Sys2Proof.Machine.execXorI u xd xs1 imm s
  | .shlI u xd xs1 imm => Sys2Proof.Machine.execShlI u xd xs1 imm s
  | .shrI u xd xs1 imm => Sys2Proof.Machine.execShrI u xd xs1 imm s
  | .sarI u xd xs1 imm => Sys2Proof.Machine.execSarI u xd xs1 imm s
  | .cmpltI u xd xs1 imm => Sys2Proof.Machine.execCmpltI u xd xs1 imm s
  | .movh16 u xd imm => Sys2Proof.Machine.execMovh16 u xd imm s
  | .shlor16 u xd imm => Sys2Proof.Machine.execShlor16 u xd imm s
  | .ldB u xd xs1 imm => Sys2Proof.Machine.execLdB u xd xs1 imm s
  | .ldH u xd xs1 imm => Sys2Proof.Machine.execLdH u xd xs1 imm s
  | .ldW u xd xs1 imm => Sys2Proof.Machine.execLdW u xd xs1 imm s
  | .ldD u xd xs1 imm => Sys2Proof.Machine.execLdD u xd xs1 imm s
  | .ldBu u xd xs1 imm => Sys2Proof.Machine.execLdBu u xd xs1 imm s
  | .ldHu u xd xs1 imm => Sys2Proof.Machine.execLdHu u xd xs1 imm s
  | .ldWu u xd xs1 imm => Sys2Proof.Machine.execLdWu u xd xs1 imm s
  | .ldfS u fd xs1 imm => Sys2Proof.Machine.execLdfS u fd xs1 imm s
  | .ldfD u fd xs1 imm => Sys2Proof.Machine.execLdfD u fd xs1 imm s
  | .stB u xs1 xs2 imm => Sys2Proof.Machine.execStB u xs1 xs2 imm s
  | .stH u xs1 xs2 imm => Sys2Proof.Machine.execStH u xs1 xs2 imm s
  | .stW u xs1 xs2 imm => Sys2Proof.Machine.execStW u xs1 xs2 imm s
  | .stD u xs1 xs2 imm => Sys2Proof.Machine.execStD u xs1 xs2 imm s
  | .stfS u xs1 fs2 imm => Sys2Proof.Machine.execStfS u xs1 fs2 imm s
  | .stfD u xs1 fs2 imm => Sys2Proof.Machine.execStfD u xs1 fs2 imm s
  | .brEq u xs1 xs2 imm => Sys2Proof.Machine.execBrEq u xs1 xs2 imm s
  | .brNe u xs1 xs2 imm => Sys2Proof.Machine.execBrNe u xs1 xs2 imm s
  | .brLt u xs1 xs2 imm => Sys2Proof.Machine.execBrLt u xs1 xs2 imm s
  | .brGe u xs1 xs2 imm => Sys2Proof.Machine.execBrGe u xs1 xs2 imm s
  | .brLtu u xs1 xs2 imm => Sys2Proof.Machine.execBrLtu u xs1 xs2 imm s
  | .brGeu u xs1 xs2 imm => Sys2Proof.Machine.execBrGeu u xs1 xs2 imm s
  | .jump u imm => Sys2Proof.Machine.execJump u imm s
  | .call u imm => Sys2Proof.Machine.execCall u imm s
  | .jumpr u xs1 imm => Sys2Proof.Machine.execJumpr u xs1 imm s
  | .callr u xs1 imm => Sys2Proof.Machine.execCallr u xs1 imm s
  | .fadd u fd fs1 fs2 single => Sys2Proof.Machine.execFadd u fd fs1 fs2 single s
  | .fsub u fd fs1 fs2 single => Sys2Proof.Machine.execFsub u fd fs1 fs2 single s
  | .fmul u fd fs1 fs2 single => Sys2Proof.Machine.execFmul u fd fs1 fs2 single s
  | .fdiv u fd fs1 fs2 single => Sys2Proof.Machine.execFdiv u fd fs1 fs2 single s
  | .fsqrt u fd fs1 single => Sys2Proof.Machine.execFsqrt u fd fs1 single s
  | .fmin u fd fs1 fs2 single => Sys2Proof.Machine.execFmin u fd fs1 fs2 single s
  | .fmax u fd fs1 fs2 single => Sys2Proof.Machine.execFmax u fd fs1 fs2 single s
  | .fma u fd fs1 fs2 single => Sys2Proof.Machine.execFma u fd fs1 fs2 single s
  | .fnma u fd fs1 fs2 single => Sys2Proof.Machine.execFnma u fd fs1 fs2 single s
  | .fcopys u fd fs1 fs2 single => Sys2Proof.Machine.execFcopys u fd fs1 fs2 single s
  | .fcopysn u fd fs1 fs2 single => Sys2Proof.Machine.execFcopysn u fd fs1 fs2 single s
  | .fcmpEq u xd fs1 fs2 single => Sys2Proof.Machine.execFcmpEq u xd fs1 fs2 single s
  | .fcmpLt u xd fs1 fs2 single => Sys2Proof.Machine.execFcmpLt u xd fs1 fs2 single s
  | .fcmpLe u xd fs1 fs2 single => Sys2Proof.Machine.execFcmpLe u xd fs1 fs2 single s
  | .fconvFI u fd xs1 single => Sys2Proof.Machine.execFconvFI u fd xs1 single s
  | .fconvIF u xd fs1 single => Sys2Proof.Machine.execFconvIF u xd fs1 single s
  | .fconvFF u fd fs1 single => Sys2Proof.Machine.execFconvFF u fd fs1 single s
  | .fmovIF u xd fs1 single => Sys2Proof.Machine.execFmovIF u xd fs1 single s
  | .fmovFI u fd xs1 single => Sys2Proof.Machine.execFmovFI u fd xs1 single s
  | .atmAdd u xd xs1 xs2 => Sys2Proof.Machine.execAtmAdd u xd xs1 xs2 s
  | .atmSwap u xd xs1 xs2 => Sys2Proof.Machine.execAtmSwap u xd xs1 xs2 s
  | .atmMax u xd xs1 xs2 => Sys2Proof.Machine.execAtmMax u xd xs1 xs2 s
  | .atmMin u xd xs1 xs2 => Sys2Proof.Machine.execAtmMin u xd xs1 xs2 s
  | .atmCas u xd xs1 xs2 => Sys2Proof.Machine.execAtmCas u xd xs1 xs2 s
  | .fence u => Sys2Proof.Machine.execFence u s
  | .fenceComplete u => Sys2Proof.Machine.execFenceComplete u s
  | .waitsc u xs1 xs2 => Sys2Proof.Machine.execWaitsc u xs1 xs2 s
  | .syncWaitSatisfied w => Sys2Proof.Machine.execSyncWaitSatisfied w s
  | .sigsc u xs1 => Sys2Proof.Machine.execSigsc u xs1 s
  | .crrd u xd imm => Sys2Proof.Machine.execCrrd u xd imm s
  | .crwr u xs1 imm => Sys2Proof.Machine.execCrwr u xs1 imm s
  | .endp u => Sys2Proof.Machine.execEndp u s
  | .trap u imm => Sys2Proof.Machine.execTrap u imm s
  | .coreProgramStart c => Sys2Proof.Machine.execCoreProgramStart c s
  | .batchLu e => Sys2Proof.Machine.execBatchLu e s
  | .batchChol e => Sys2Proof.Machine.execBatchChol e s
  | .batchLdlt e => Sys2Proof.Machine.execBatchLdlt e s
  | .batchQr e => Sys2Proof.Machine.execBatchQr e s
  | .batchTri e => Sys2Proof.Machine.execBatchTri e s
  | .batchInv e => Sys2Proof.Machine.execBatchInv e s
  | .batchRefine e => Sys2Proof.Machine.execBatchRefine e s
  | .batchPcg c => Sys2Proof.Machine.execBatchPcg c s
  | .batchPgs c => Sys2Proof.Machine.execBatchPgs c s
  | .solverItemEnd u iters checkFails => Sys2Proof.Machine.execSolverItemEnd u iters checkFails s
  | .batchComplete desc => Sys2Proof.Machine.execBatchComplete desc s
  | .seedWrite v => Sys2Proof.Machine.execSeedWrite v s
  | .bobCtrlLock v => Sys2Proof.Machine.execBobCtrlLock v s
  | .fillGo v => Sys2Proof.Machine.execFillGo v s
  | .fillDone => Sys2Proof.Machine.execFillDone s
  | .genGo v => Sys2Proof.Machine.execGenGo v s
  | .genDone => Sys2Proof.Machine.execGenDone s
  | .detCfgWrite v => Sys2Proof.Machine.execDetCfgWrite v s
  | .detCfgLock v => Sys2Proof.Machine.execDetCfgLock v s
  | .tnsCfgLock t v => Sys2Proof.Machine.execTnsCfgLock t v s
  | .monArm n v => Sys2Proof.Machine.execMonArm n v s
  | .monDisarm n v => Sys2Proof.Machine.execMonDisarm n v s
  | .monClear n v => Sys2Proof.Machine.execMonClear n v s
  | .memTrain v => Sys2Proof.Machine.execMemTrain v s
  | .memTrainDone fail => Sys2Proof.Machine.execMemTrainDone fail s
  | .memInit v => Sys2Proof.Machine.execMemInit v s
  | .memInitDone => Sys2Proof.Machine.execMemInitDone s
  | .memOpen v => Sys2Proof.Machine.execMemOpen v s
  | .memFlush v => Sys2Proof.Machine.execMemFlush v s
  | .memFlushDone => Sys2Proof.Machine.execMemFlushDone s
  | .memRetireAdd addr => Sys2Proof.Machine.execMemRetireAdd addr s
  | .memRead addr req err hops => Sys2Proof.Machine.execMemRead addr req err hops s
  | .memWrite addr data poison req hops => Sys2Proof.Machine.execMemWrite addr data poison req hops s
  | .memPartialWrite addr mask data poison req err hops => Sys2Proof.Machine.execMemPartialWrite addr mask data poison req err hops s
  | .memAtomic addr op req err => Sys2Proof.Machine.execMemAtomic addr op req err s
  | .pageRetire page => Sys2Proof.Machine.execPageRetire page s
  | .pageRetireDone copy => Sys2Proof.Machine.execPageRetireDone copy s
  | .refreshDue n ch rank bank lostTc => Sys2Proof.Machine.execRefreshDue n ch rank bank lostTc s
  | .scrubRead n ch errs => Sys2Proof.Machine.execScrubRead n ch errs s
  | .mr4Poll n temp rate heldTc => Sys2Proof.Machine.execMr4Poll n temp rate heldTc s
  | .linkFlitReceive p f l => Sys2Proof.Machine.execLinkFlitReceive p f l s
  | .linkNack p lseq => Sys2Proof.Machine.execLinkNack p lseq s
  | .rdReq f => Sys2Proof.Machine.execRdReq f s
  | .rdRsp f => Sys2Proof.Machine.execRdRsp f s
  | .wrReq f => Sys2Proof.Machine.execWrReq f s
  | .wrAck f => Sys2Proof.Machine.execWrAck f s
  | .atomReq f => Sys2Proof.Machine.execAtomReq f s
  | .atomRsp f => Sys2Proof.Machine.execAtomRsp f s
  | .nack f => Sys2Proof.Machine.execNack f s
  | .dmaRd f => Sys2Proof.Machine.execDmaRd f s
  | .dmaData f => Sys2Proof.Machine.execDmaData f s
  | .dmaAck f => Sys2Proof.Machine.execDmaAck f s
  | .collData f => Sys2Proof.Machine.execCollData f s
  | .collHello f => Sys2Proof.Machine.execCollHello f s
  | .collCredit f => Sys2Proof.Machine.execCollCredit f s
  | .collSubst f => Sys2Proof.Machine.execCollSubst f s
  | .collAbort f => Sys2Proof.Machine.execCollAbort f s
  | .collTake f => Sys2Proof.Machine.execCollTake f s
  | .drainMark f => Sys2Proof.Machine.execDrainMark f s
  | .drainEcho f => Sys2Proof.Machine.execDrainEcho f s
  | .pocketData f => Sys2Proof.Machine.execPocketData f s
  | .pocketAck f => Sys2Proof.Machine.execPocketAck f s
  | .quench f => Sys2Proof.Machine.execQuench f s
  | .quenchAck f => Sys2Proof.Machine.execQuenchAck f s
  | .mgmt f => Sys2Proof.Machine.execMgmt f s
  | .linkCtrl p f => Sys2Proof.Machine.execLinkCtrl p f s
  | .laneEvent p rx lane cause => Sys2Proof.Machine.execLaneEvent p rx lane cause s
  | .lossOfSignal p rx lane => Sys2Proof.Machine.execLossOfSignal p rx lane s
  | .laneRotate p rx => Sys2Proof.Machine.execLaneRotate p rx s
  | .linkTrainDone p far => Sys2Proof.Machine.execLinkTrainDone p far s
  | .flowRepath dst vc port portDown => Sys2Proof.Machine.execFlowRepath dst vc port portDown s
  | .drainTimeout dst vc => Sys2Proof.Machine.execDrainTimeout dst vc s
  | .flowIdleRestart dst vc => Sys2Proof.Machine.execFlowIdleRestart dst vc s
  | .requestReissue dst seq => Sys2Proof.Machine.execRequestReissue dst seq s
  | .requestTimeout dst seq => Sys2Proof.Machine.execRequestTimeout dst seq s
  | .chunkTimeout dst tag => Sys2Proof.Machine.execChunkTimeout dst tag s
  | .replRelease v => Sys2Proof.Machine.execReplRelease v s
  | .quenchGo v => Sys2Proof.Machine.execQuenchGo v s
  | .unquench v => Sys2Proof.Machine.execUnquench v s
  | .fabCfgLock v => Sys2Proof.Machine.execFabCfgLock v s
  | .ringJoin v => Sys2Proof.Machine.execRingJoin v s
  | .groupValidSet g v => Sys2Proof.Machine.execGroupValidSet g v s
  | .groupValidClear g v => Sys2Proof.Machine.execGroupValidClear g v s
  | .colCfgLock v => Sys2Proof.Machine.execColCfgLock v s
  | .allreduce go => Sys2Proof.Machine.execAllreduce go s
  | .reduceScatter go => Sys2Proof.Machine.execReduceScatter go s
  | .allgather go => Sys2Proof.Machine.execAllgather go s
  | .broadcast go => Sys2Proof.Machine.execBroadcast go s
  | .reduce go => Sys2Proof.Machine.execReduce go s
  | .alltoall go => Sys2Proof.Machine.execAlltoall go s
  | .collAddition ch add => Sys2Proof.Machine.execCollAddition ch add s
  | .laggardTimeout ch slot => Sys2Proof.Machine.execLaggardTimeout ch slot s
  | .collWatchdog ch => Sys2Proof.Machine.execCollWatchdog ch s
  | .collRepath ch relay level chunks => Sys2Proof.Machine.execCollRepath ch relay level chunks s
  | .collectiveComplete ch => Sys2Proof.Machine.execCollectiveComplete ch s
  | .sqTail ring v => Sys2Proof.Machine.execSqTail ring v s
  | .cqHead ring v => Sys2Proof.Machine.execCqHead ring v s
  | .ringFetch ring hostErr => Sys2Proof.Machine.execRingFetch ring hostErr s
  | .ringEntryLaunch ring => Sys2Proof.Machine.execRingEntryLaunch ring s
  | .dmaStart id hostErrs => Sys2Proof.Machine.execDmaStart id hostErrs s
  | .dmaComplete id => Sys2Proof.Machine.execDmaComplete id s
  | .completionWrite ring hostErr => Sys2Proof.Machine.execCompletionWrite ring hostErr s
  | .sqEnable ring v => Sys2Proof.Machine.execSqEnable ring v s
  | .sqDisable ring v => Sys2Proof.Machine.execSqDisable ring v s
  | .cqEnable ring v => Sys2Proof.Machine.execCqEnable ring v s
  | .cqDisable ring v => Sys2Proof.Machine.execCqDisable ring v s
  | .coalTimeout ring => Sys2Proof.Machine.execCoalTimeout ring s
  | .evlogRpWrite v => Sys2Proof.Machine.execEvlogRpWrite v s
  | .identify => Sys2Proof.Machine.execIdentify s
  | .getEventRecords log => Sys2Proof.Machine.execGetEventRecords log s
  | .clearEventRecords log handles => Sys2Proof.Machine.execClearEventRecords log handles s
  | .getFwInfo => Sys2Proof.Machine.execGetFwInfo s
  | .transferFw off data => Sys2Proof.Machine.execTransferFw off data s
  | .activateFw online readBack => Sys2Proof.Machine.execActivateFw online readBack s
  | .timestamp set => Sys2Proof.Machine.execTimestamp set s
  | .getSupportedLogs => Sys2Proof.Machine.execGetSupportedLogs s
  | .getLog off len => Sys2Proof.Machine.execGetLog off len s
  | .mailboxUnsupported opcode => Sys2Proof.Machine.execMailboxUnsupported opcode s
  | .hostMemRead addr excl => Sys2Proof.Machine.execHostMemRead addr excl s
  | .hostMemWrite addr bytes poison => Sys2Proof.Machine.execHostMemWrite addr bytes poison s
  | .hostSnoop hpa => Sys2Proof.Machine.execHostSnoop hpa s
  | .bisnpResponse line => Sys2Proof.Machine.execBisnpResponse line s
  | .hostAccessComplete hpa write err poison => Sys2Proof.Machine.execHostAccessComplete hpa write err poison s
  | .cxlLinkReset => Sys2Proof.Machine.execCxlLinkReset s
  | .captureGateOpen => Sys2Proof.Machine.execCaptureGateOpen s
  | .captureExchange => Sys2Proof.Machine.execCaptureExchange s
  | .captureCommit => Sys2Proof.Machine.execCaptureCommit s
  | .ckpPeerTimeout => Sys2Proof.Machine.execCkpPeerTimeout s
  | .restoreGo v => Sys2Proof.Machine.execRestoreGo v s
  | .restoreChoose => Sys2Proof.Machine.execRestoreChoose s
  | .shardRebuild => Sys2Proof.Machine.execShardRebuild s
  | .restoreWriteBack => Sys2Proof.Machine.execRestoreWriteBack s
  | .xferDrain v => Sys2Proof.Machine.execXferDrain v s
  | .xferLoad v => Sys2Proof.Machine.execXferLoad v s
  | .xferDone => Sys2Proof.Machine.execXferDone s
  | .seamInterval seam => Sys2Proof.Machine.execSeamInterval seam s
  | .remap kind unit lasting => Sys2Proof.Machine.execRemap kind unit lasting s
  | .remapTile v => Sys2Proof.Machine.execRemapTile v s
  | .remapCore v => Sys2Proof.Machine.execRemapCore v s
  | .remapEngine v => Sys2Proof.Machine.execRemapEngine v s
  | .testTileCluster v => Sys2Proof.Machine.execTestTileCluster v s
  | .testCoreCluster v => Sys2Proof.Machine.execTestCoreCluster v s
  | .testEngineGroup v => Sys2Proof.Machine.execTestEngineGroup v s
  | .testOpticalGroup v => Sys2Proof.Machine.execTestOpticalGroup v s
  | .testDone found => Sys2Proof.Machine.execTestDone found s
  | .relUnitFail v => Sys2Proof.Machine.execRelUnitFail v s
  | .bootStart b => Sys2Proof.Machine.execBootStart b s
  | .continueBoot v => Sys2Proof.Machine.execContinueBoot v s
  | .hostWaitTimeout => Sys2Proof.Machine.execHostWaitTimeout s
  | .zeroize v => Sys2Proof.Machine.execZeroize v s
  | .dbgGo v nonce => Sys2Proof.Machine.execDbgGo v nonce s
  | .dbgDisable v => Sys2Proof.Machine.execDbgDisable v s
  | .selftest v pass => Sys2Proof.Machine.execSelftest v pass s
  | .entropyHealthFail => Sys2Proof.Machine.execEntropyHealthFail s
  | .dbgToken token nonce => Sys2Proof.Machine.execDbgToken token nonce s
  | .extest => Sys2Proof.Machine.execExtest s
  | .samplePreload => Sys2Proof.Machine.execSamplePreload s
  | .bypass => Sys2Proof.Machine.execBypass s
  | .idcode => Sys2Proof.Machine.execIdcode s
  | .debugHalt u => Sys2Proof.Machine.execDebugHalt u s
  | .getVersion q => Sys2Proof.Machine.execGetVersion q s
  | .getCapabilities q => Sys2Proof.Machine.execGetCapabilities q s
  | .negotiateAlgorithms q => Sys2Proof.Machine.execNegotiateAlgorithms q s
  | .getDigests q => Sys2Proof.Machine.execGetDigests q s
  | .getCertificate q slot => Sys2Proof.Machine.execGetCertificate q slot s
  | .challenge q => Sys2Proof.Machine.execChallenge q s
  | .getMeasurements q index signed => Sys2Proof.Machine.execGetMeasurements q index signed s
  | .keyExchange q mutAuth => Sys2Proof.Machine.execKeyExchange q mutAuth s
  | .finish q ok => Sys2Proof.Machine.execFinish q ok s
  | .heartbeat q => Sys2Proof.Machine.execHeartbeat q s
  | .keyUpdate q => Sys2Proof.Machine.execKeyUpdate q s
  | .endSession q => Sys2Proof.Machine.execEndSession q s
  | .keyProg k => Sys2Proof.Machine.execKeyProg k s
  | .kSetGo k => Sys2Proof.Machine.execKSetGo k s
  | .ideCheckFail cachemem => Sys2Proof.Machine.execIdeCheckFail cachemem s
  | .powerUp mv => Sys2Proof.Machine.execPowerUp mv s
  | .pwrUp v => Sys2Proof.Machine.execPwrUp v s
  | .pwrOff v => Sys2Proof.Machine.execPwrOff v s
  | .packageReset v bist => Sys2Proof.Machine.execPackageReset v bist s
  | .hubReset v => Sys2Proof.Machine.execHubReset v s
  | .perstAssert => Sys2Proof.Machine.execPerstAssert s
  | .pwrGoodDeassert => Sys2Proof.Machine.execPwrGoodDeassert s
  | .vinWarning mv => Sys2Proof.Machine.execVinWarning mv s
  | .vinRecoveryStep => Sys2Proof.Machine.execVinRecoveryStep s
  | .vinReset mv => Sys2Proof.Machine.execVinReset mv s
  | .vinOvervolt => Sys2Proof.Machine.execVinOvervolt s
  | .vinStandbyLoss => Sys2Proof.Machine.execVinStandbyLoss s
  | .isolatorFail dom => Sys2Proof.Machine.execIsolatorFail dom s
  | .clockCheck cxl fabric mgmt => Sys2Proof.Machine.execClockCheck cxl fabric mgmt s
  | .offReq n v => Sys2Proof.Machine.execOffReq n v s
  | .capTick watts energy => Sys2Proof.Machine.execCapTick watts energy s
  | .thermSample die temp msTick => Sys2Proof.Machine.execThermSample die temp msTick s
  | .i3cPrivateWrite addr off data => Sys2Proof.Machine.execI3cPrivateWrite addr off data s
  | .i3cPrivateRead addr => Sys2Proof.Machine.execI3cPrivateRead addr s
  | .setdasa static dyn => Sys2Proof.Machine.execSetdasa static dyn s
  | .entdaa dyn => Sys2Proof.Machine.execEntdaa dyn s
  | .cxlLinkUp width rate cxl => Sys2Proof.Machine.execCxlLinkUp width rate cxl s
  | .vin44vCrossing rising mv => Sys2Proof.Machine.execVin44vCrossing rising mv s

end Sys2Proof.Machine
end

