-- ==== Sys2Proof/Machine/Step.lean ====
section
/-! DEFINITION. The step of the block: the command at the front of the queue, or, where none waits, one cycle of the
fabric reference. -/
namespace Sys2Proof.Machine

/-- With a command at the front of the queue, its effect on the state with the queue's rest. On an empty queue the time
base counts one cycle of the 156.25 MHz reference (R31), and the tc counters of the causes that slow units advance (R420; DESIGN CHOICE,
log entry 2). -/
def step (s : State) : Host.Outcome State Fault Refusal :=
  match s.pending with
  | c :: rest => exec c { s with pending := rest }
  | [] => .next s.tick

/-- The state with the command that a word spells put at the front of its queue; unchanged where it spells none. -/
def State.withFetchWord (s : State) (nbits w : Nat) : State :=
  match decodeTableWord nbits w with
  | some c => { s with pending := c :: s.pending }
  | none => s

end Sys2Proof.Machine
end

