-- ==== Sys2Proof/Safety.lean ====
section
/-! DEFINITION. What counts as a safe state and a safe run, in the terms the statements use. -/
namespace Sys2Proof.Machine

/-- The canonical form of memory: addresses strictly rising, and no entry equal to what an unlisted address reads. -/
abbrev Memory.wf (m : Tbl Byte) : Bool := Tbl.wf (fun _ => (0 : Byte)) m

/-- The canonical form of the register file: offsets strictly rising, and no entry equal to its reset value. -/
abbrev Regs.wf (r : Tbl W64) : Bool := Tbl.wf regReset r

end Sys2Proof.Machine
end

