-- ==== Sys2Proof/Certificates/Slice0/Obligations.lean ====
section
/-! DEFINITION. The statements for the provers. Where a statement names a constant of `Config` without a body, the value
is one that the spec leaves open, and the statement holds whatever it is. -/

/-! ## What the statements about programs share -/

namespace Sys2Proof.Claims
open Sys2Proof Sys2Proof.Machine

/-- The unit holds a program that may execute the instruction `i`: it has not ended, it was not interrupted, it waits
for nothing, its unit is not parked and awaits the data of no access, and where a word can be fetched at its PC, the
word spells `i`. -/
def Ready (s : State) (u : VUnit) (p : Prog) (i : Instr) : Prop :=
  s.progOf u = some p ∧ p.ended = none ∧ p.saved = false ∧ p.wait = .no ∧ s.unitParked u = false ∧
  (∀ e ∈ s.accesses, e.req ≠ progReq u) ∧ ∀ w, s.fetchWord u = some w → decodeVirulax u w = some i

/-- A program that may execute a vector instruction: its configuration is valid and its VL is at most VLCAP, where
`Prog.setVl` leaves it (R121, R122). -/
def VReady (s : State) (u : VUnit) (p : Prog) (i : Instr) : Prop :=
  Ready s u p i ∧ p.vbad = false ∧ p.vl ≤ 8192 / p.ew

/-- An instruction of the program `p` of unit `u` completed: the program is `p1` with the PC at `next`, TNS_VE_PC or
SLV_VE_PC shows the instruction's own PC, the instruction counter went up by one and saturates, the busy cycles are not
modelled, and every other program is as before. -/
def Completed (s t : State) (u : VUnit) (p p1 : Prog) (next : W64) : Prop :=
  t.progOf u = some { p1 with pc := next } ∧
  t.reg (vePc u) = p.pc ∧
  (t.reg (veInstr u)).toNat = min ((s.reg (veInstr u)).toNat + 1) (2 ^ 64 - 1) ∧
  ∀ v, v ≠ u → t.progOf v = s.progOf v

/-- Every register of the package but the three above and those listed is as before. -/
def OtherRegs (s t : State) (u : VUnit) (but : List Nat) : Prop :=
  ∀ off, off ≠ vePc u → off ≠ veInstr u → off ≠ veBusy u → off ∉ but → t.reg off = s.reg off

/-- Nothing is stored: every byte of memory and every poison mark reads as before, and the whole state is as before but
for the programs and the registers. -/
def NoStore (s t : State) : Prop :=
  (∀ a, t.byte a = s.byte a) ∧ (∀ g, t.poisoned g = s.poisoned g) ∧
    t = { s with progs := t.progs, regs := t.regs }

/-- An instruction that works in the registers of its program alone. -/
def InRegisters (s t : State) (u : VUnit) (p p1 : Prog) (next : W64) : Prop :=
  Completed s t u p p1 next ∧ OtherRegs s t u [] ∧ NoStore s t

/-- `p1` is `p` with `v` written to x`xd`: a write to x0 is ignored, and no other register changes (R176). -/
def XWritten (p p1 : Prog) (xd : Fin 32) (v : W64) : Prop :=
  (∀ i : Fin 32, p1.xr i = if i = xd ∧ xd ≠ 0 then v else p.xr i) ∧ p1 = { p with x := p1.x }

/-- `p1` is `p` with `v` written to f`fd`. -/
def FWritten (p p1 : Prog) (fd : Fin 32) (v : W64) : Prop :=
  (∀ i : Fin 32, p1.fr i = if i = fd then v else p.fr i) ∧ p1 = { p with f := p1.f }

/-- The set bits of a word. -/
def ones (x : W64) : Nat := ((List.range 64).filter fun i => x.getLsbD i).length

/-- The zeros above the highest set bit of a word. -/
def zerosAbove (x : W64) : Nat := ((List.range 64).reverse.takeWhile fun i => !x.getLsbD i).length

/-- The 3R integer instructions and what they write to xd, given xs1 and xs2 (R177, R178). -/
def aluOps : List ((VUnit → Fin 32 → Fin 32 → Fin 32 → Instr) × (W64 → W64 → W64)) :=
  [(.add, fun a b => a + b), (.sub, fun a b => a - b), (.mul, fun a b => a * b),
   (.mulhi, fun a b => (a.signExtend 128 * b.signExtend 128).extractLsb' 64 64),
   (.mulhiu, fun a b => (a.zeroExtend 128 * b.zeroExtend 128).extractLsb' 64 64),
   (.quo, fun a b => if b = 0 then 0 else a.sdiv b), (.quou, fun a b => if b = 0 then 0 else a.udiv b),
   (.mod, fun a b => if b = 0 then a else a.srem b), (.modu, fun a b => if b = 0 then a else a.umod b)] ++
  [(.and, fun a b => a &&& b), (.or, fun a b => a ||| b), (.xor, fun a b => a ^^^ b),
   (.cmplt, fun a b => if a.toInt < b.toInt then 1 else 0), (.cmpltu, fun a b => if a.toNat < b.toNat then 1 else 0),
   (.min, fun a b => if a.toInt ≤ b.toInt then a else b), (.max, fun a b => if a.toInt ≤ b.toInt then b else a),
   (.lzc, fun a _ => BitVec.ofNat 64 (zerosAbove a)), (.bitcnt, fun a _ => BitVec.ofNat 64 (ones a))]

/-- The RI integer instructions, given xs1 and the sign-extended immediate. -/
def aluImmOps : List ((VUnit → Fin 32 → Fin 32 → BitVec 11 → Instr) × (W64 → W64 → W64)) :=
  [(.addI, fun a b => a + b), (.andI, fun a b => a &&& b), (.orI, fun a b => a ||| b), (.xorI, fun a b => a ^^^ b),
   (.cmpltI, fun a b => if a.toInt < b.toInt then 1 else 0)]

/-- The shifts, given the value and a count below 64. -/
def shiftOps : List ((VUnit → Fin 32 → Fin 32 → Fin 32 → Instr) × (W64 → Nat → W64)) :=
  [(.shl, fun x n => x <<< n), (.shr, fun x n => x >>> n), (.sar, fun x n => x.sshiftRight n)]

/-- The shifts by an immediate. -/
def shiftImmOps : List ((VUnit → Fin 32 → Fin 32 → BitVec 11 → Instr) × (W64 → Nat → W64)) :=
  [(.shlI, fun x n => x <<< n), (.shrI, fun x n => x >>> n), (.sarI, fun x n => x.sshiftRight n)]

end Sys2Proof.Claims

open Sys2Proof Sys2Proof.Machine Sys2Proof.Claims

/-- The integer instructions of the scalar base (R176 to R178): each completes, writes its result to xd (nothing where xd
is x0), advances the PC by 4, and changes nothing else. Division by 0 gives 0, the remainder by 0 the dividend, and −2^63
by −1 gives −2^63 with remainder 0, which is what `sdiv` and `srem` of two's complement give. -/
def Sys2Proof.Parts.ScalarIntegerResults : Prop :=
  (∀ e ∈ aluOps, ∀ (u : VUnit) (xd xs1 xs2 : Fin 32) (s : State) (p : Prog), Ready s u p (e.1 u xd xs1 xs2) →
    ∃ t p1, exec (e.1 u xd xs1 xs2) s = .next t ∧ XWritten p p1 xd (e.2 (p.xr xs1) (p.xr xs2)) ∧
      InRegisters s t u p p1 (p.pc + 4)) ∧
  (∀ e ∈ aluImmOps, ∀ (u : VUnit) (xd xs1 : Fin 32) (imm : BitVec 11) (s : State) (p : Prog), Ready s u p (e.1 u xd xs1 imm) →
    ∃ t p1, exec (e.1 u xd xs1 imm) s = .next t ∧ XWritten p p1 xd (e.2 (p.xr xs1) (imm.signExtend 64)) ∧
      InRegisters s t u p p1 (p.pc + 4)) ∧
  (∀ (u : VUnit) (xd : Fin 32) (imm : BitVec 16) (s : State) (p : Prog), Ready s u p (.movh16 u xd imm) →
    ∃ t p1, exec (.movh16 u xd imm) s = .next t ∧ XWritten p p1 xd (imm.signExtend 64 * 65536#64) ∧
      InRegisters s t u p p1 (p.pc + 4)) ∧
  (∀ (u : VUnit) (xd : Fin 32) (imm : BitVec 16) (s : State) (p : Prog), Ready s u p (.shlor16 u xd imm) →
    ∃ t p1, exec (.shlor16 u xd imm) s = .next t ∧
      XWritten p p1 xd (p.xr xd * 65536#64 + imm.zeroExtend 64) ∧
      InRegisters s t u p p1 (p.pc + 4))

/-- The scalar shifts (R177): a count below 64 shifts by it; the spec states no result for a count of 64 or more, which
writes some value (a free value, log entry 12), and the instruction completes all the same. -/
def Sys2Proof.Parts.ScalarShiftResults : Prop :=
  (∀ e ∈ shiftOps, ∀ (u : VUnit) (xd xs1 xs2 : Fin 32) (s : State) (p : Prog), Ready s u p (e.1 u xd xs1 xs2) →
    ∃ t p1 v, exec (e.1 u xd xs1 xs2) s = .next t ∧ XWritten p p1 xd v ∧
      ((p.xr xs2).toNat < 64 → v = e.2 (p.xr xs1) (p.xr xs2).toNat) ∧ InRegisters s t u p p1 (p.pc + 4)) ∧
  (∀ e ∈ shiftImmOps, ∀ (u : VUnit) (xd xs1 : Fin 32) (imm : BitVec 11) (s : State) (p : Prog), Ready s u p (e.1 u xd xs1 imm) →
    ∃ t p1 v, exec (e.1 u xd xs1 imm) s = .next t ∧ XWritten p p1 xd v ∧
      (imm.toNat < 64 → v = e.2 (p.xr xs1) imm.toNat) ∧ InRegisters s t u p p1 (p.pc + 4))

/-- Integer arithmetic, logic and shifts of the scalar core. -/
def Obligations.ScalarInteger : Prop := Parts.ScalarIntegerResults ∧ Parts.ScalarShiftResults

namespace Sys2Proof.Claims
open Sys2Proof Sys2Proof.Machine

/-- The `n` bytes at the global address `a`, aligned to `n`, are in the package's own memory, may be reached, and lie in
no poisoned granule. -/
def OwnClean (s : State) (a n : Nat) : Prop :=
  a % n = 0 ∧ s.isLocal a = true ∧ s.accessible (devAddr a) = true ∧ s.poisoned (devAddr a / 32) = false

/-- Such bytes that may be read now: no line of theirs is busy, and the host answers for them (R252, R320, R322). -/
def OwnRead (s : State) (a n : Nat) : Prop :=
  OwnClean s a n ∧ s.readFails (devAddr a) n = false ∧ s.lineBusy (32 * (devAddr a / 32)) false = false

/-- Such bytes that may be written now. -/
def OwnWrite (s : State) (a n : Nat) : Prop :=
  OwnClean s a n ∧ s.streamFails (devAddr a) = false ∧ s.lineBusy (32 * (devAddr a / 32)) true = false

/-- The counter of bytes read from (4) or written to (5) host memory goes up by `n` where the address lies in host
memory, and otherwise stays. -/
def HostCount (s t : State) (k a n : Nat) : Prop :=
  (t.reg (Reg.hubCnt k)).toNat =
    if s.region (devAddr a) = .host then min ((s.reg (Reg.hubCnt k)).toNat + n) (2 ^ 64 - 1)
    else (s.reg (Reg.hubCnt k)).toNat

/-- The address of a scalar load or store: xs1 + IMM, modulo 2^64. -/
def addrOf (p : Prog) (xs1 : Fin 32) (imm : BitVec 11) : Nat := (p.xr xs1 + imm.signExtend 64).toNat

/-- The integer loads: bytes, and how the number they make goes to xd. -/
def loadOps : List ((VUnit → Fin 32 → Fin 32 → BitVec 11 → Instr) × Nat × (Nat → W64)) :=
  [(.ldB, 1, fun v => (BitVec.ofNat 8 v).signExtend 64), (.ldH, 2, fun v => (BitVec.ofNat 16 v).signExtend 64),
   (.ldW, 4, fun v => (BitVec.ofNat 32 v).signExtend 64), (.ldD, 8, fun v => BitVec.ofNat 64 v),
   (.ldBu, 1, fun v => BitVec.ofNat 64 v), (.ldHu, 2, fun v => BitVec.ofNat 64 v), (.ldWu, 4, fun v => BitVec.ofNat 64 v)]

/-- The floating-point loads: a binary32 value goes to bits [31:0]. -/
def loadFOps : List ((VUnit → Fin 32 → Fin 32 → BitVec 11 → Instr) × Nat) := [(.ldfS, 4), (.ldfD, 8)]

/-- The stores: bytes, and the register whose low bytes are stored. -/
def storeOps : List ((VUnit → Fin 32 → Fin 32 → BitVec 11 → Instr) × Nat × (Prog → Fin 32 → W64)) :=
  [(.stB, 1, fun p i => p.xr i), (.stH, 2, fun p i => p.xr i), (.stW, 4, fun p i => p.xr i), (.stD, 8, fun p i => p.xr i),
   (.stfS, 4, fun p i => p.fr i), (.stfD, 8, fun p i => p.fr i)]

/-- A load that completed: `n` bytes at `a` were read, nothing was stored. -/
def Loaded (s t : State) (u : VUnit) (p p1 : Prog) (a n : Nat) : Prop :=
  Completed s t u p p1 (p.pc + 4) ∧ OtherRegs s t u [Reg.hubCnt 4] ∧ HostCount s t 4 a n ∧ NoStore s t

/-- Exactly the `n` bytes at device address `d` are stored, with byte `k` of `v` at `d + k`; every other byte and every
poison mark reads as before, and the whole state is as before but for memory, the programs and the registers. -/
def StoredAt (s t : State) (d n : Nat) (v : W64) : Prop :=
  (∀ k, k < n → t.byte (d + k) = v.extractLsb' (8 * k) 8) ∧
  (∀ b, (b < d ∨ d + n ≤ b) → t.byte b = s.byte b) ∧
  (∀ g, t.poisoned g = s.poisoned g) ∧
  t = { s with mem := t.mem, poison := t.poison, progs := t.progs, regs := t.regs }

/-- The program of a unit waits with the instruction `i` for what the access `e` of its unit brings, and for nothing else. -/
def Awaiting (s : State) (u : VUnit) (p : Prog) (i : Instr) (e : Access) : Prop :=
  s.progOf u = some p ∧ p.ended = none ∧ p.saved = false ∧ (∃ mf, p.wait = .remote mf) ∧ s.unitParked u = false ∧
  (s.accesses.filter fun x => x.req == progReq u) = [e] ∧ ∀ w, s.fetchWord u = some w → decodeVirulax u w = some i

/-- The instruction of a program asked node `a[63:48]` for something and waits: the PC stays, the request counts as outstanding
to the node (R283), what is asked for is kept until it comes, and memory is as before. -/
def AskedFor (s t : State) (u : VUnit) (p : Prog) (a : Nat) (k : AccKind → Prop) : Prop :=
  (∃ mf, t.progOf u = some { p with wait := .remote mf }) ∧ t.reg (vePc u) = p.pc ∧
  t.outstTo (a / 2 ^ 48 % 65536) = s.outstTo (a / 2 ^ 48 % 65536) + 1 ∧
  (∃ e ∈ t.accesses, e.req = progReq u ∧ e.addr = a / 32 * 32 ∧ k e.kind ∧ e.data = none) ∧
  t.mem = s.mem ∧ t.poison = s.poison

/-- A remote access is over: the instruction completed, the unit awaits nothing more, and memory is as before. -/
def Answered (s t : State) (u : VUnit) (p p1 : Prog) : Prop :=
  Completed s t u p p1 (p.pc + 4) ∧ OtherRegs s t u [] ∧ (∀ e ∈ t.accesses, e.req ≠ progReq u) ∧ t.mem = s.mem ∧
  t.poison = s.poison

/-- No store of the unit to `a` is held under R286. -/
def NotHeld (s : State) (u : VUnit) (a : Nat) : Prop :=
  s.replStore a = false ∧ ∀ h ∈ s.replHeld, h.req ≠ progReq u

/-- The atomics: what the eight bytes become, given their old value, xs2 and xd (R178). -/
def atomOps : List ((VUnit → Fin 32 → Fin 32 → Fin 32 → Instr) × (W64 → W64 → W64 → W64)) :=
  [(.atmAdd, fun old x _ => old + x), (.atmSwap, fun _ x _ => x),
   (.atmMax, fun old x _ => if old.toInt ≤ x.toInt then x else old),
   (.atmMin, fun old x _ => if old.toInt ≤ x.toInt then old else x),
   (.atmCas, fun old x d => if old = d then x else old)]

/-- The branches and when each is taken. -/
def branchOps : List ((VUnit → Fin 32 → Fin 32 → BitVec 11 → Instr) × (W64 → W64 → Bool)) :=
  [(.brEq, fun a b => a == b), (.brNe, fun a b => !(a == b)), (.brLt, fun a b => decide (a.toInt < b.toInt)),
   (.brGe, fun a b => decide (b.toInt ≤ a.toInt)), (.brLtu, fun a b => decide (a.toNat < b.toNat)),
   (.brGeu, fun a b => decide (b.toNat ≤ a.toNat))]

end Sys2Proof.Claims

/-- The scalar loads (R178) from the package's own memory, unreplicated: the bytes are read little-endian, extended as the
mnemonic says, and written to xd or fd. -/
def Sys2Proof.Parts.ScalarLoadResults : Prop :=
  (∀ e ∈ loadOps, ∀ (u : VUnit) (xd xs1 : Fin 32) (imm : BitVec 11) (s : State) (p : Prog), Ready s u p (e.1 u xd xs1 imm) →
    s.replLoad (addrOf p xs1 imm) = none → OwnRead s (addrOf p xs1 imm) e.2.1 →
    ∃ t p1, exec (e.1 u xd xs1 imm) s = .next t ∧
      XWritten p p1 xd (e.2.2 (s.num (devAddr (addrOf p xs1 imm)) e.2.1)) ∧
      Loaded s t u p p1 (addrOf p xs1 imm) e.2.1) ∧
  (∀ e ∈ loadFOps, ∀ (u : VUnit) (fd xs1 : Fin 32) (imm : BitVec 11) (s : State) (p : Prog), Ready s u p (e.1 u fd xs1 imm) →
    s.replLoad (addrOf p xs1 imm) = none → OwnRead s (addrOf p xs1 imm) e.2 →
    ∃ t p1, exec (e.1 u fd xs1 imm) s = .next t ∧
      FWritten p p1 fd (BitVec.ofNat 64 (s.num (devAddr (addrOf p xs1 imm)) e.2)) ∧
      Loaded s t u p p1 (addrOf p xs1 imm) e.2)

/-- The scalar loads and the atomics of another node's working memory (R24, R137, R178, R270, R282, R283), unreplicated and
with no store held: the instruction asks the node and waits; once the word has come, clean, it completes with it, a load
extending its bytes as the mnemonic says, an atomic writing the old value, the low 8 bytes, to xd. -/
def Sys2Proof.Parts.ScalarRemoteLoads : Prop :=
  (∀ e ∈ loadOps, ∀ (u : VUnit) (xd xs1 : Fin 32) (imm : BitVec 11) (s : State) (p : Prog),
    addrOf p xs1 imm % e.2.1 = 0 → s.replLoad (addrOf p xs1 imm) = none → s.isLocal (addrOf p xs1 imm) = false →
    devAddr (addrOf p xs1 imm) < 2 ^ 41 →
    (Ready s u p (e.1 u xd xs1 imm) → ∃ t, exec (e.1 u xd xs1 imm) s = .next t ∧
      AskedFor s t u p (addrOf p xs1 imm) (fun k => k = .read false)) ∧
    ∀ g : Granule, Awaiting s u p (e.1 u xd xs1 imm)
        ⟨progReq u, addrOf p xs1 imm / 32 * 32, .read false, true, some (g, false)⟩ →
      ∃ t p1, exec (e.1 u xd xs1 imm) s = .next t ∧ Answered s t u p p1 ∧
        XWritten { p with wait := .no } p1 xd
          (e.2.2 (g.extractLsb' (8 * (addrOf p xs1 imm % 32)) (8 * e.2.1)).toNat)) ∧
  ∀ e ∈ atomOps, ∀ (u : VUnit) (xd xs1 xs2 : Fin 32) (s : State) (p : Prog),
    (p.xr xs1).toNat % 8 = 0 → NotHeld s u (p.xr xs1).toNat → s.isLocal (p.xr xs1).toNat = false →
    devAddr (p.xr xs1).toNat < 2 ^ 41 →
    (Ready s u p (e.1 u xd xs1 xs2) → ∃ t, exec (e.1 u xd xs1 xs2) s = .next t ∧
      AskedFor s t u p (p.xr xs1).toNat (fun k => ∃ o x y, k = .atomic o x y)) ∧
    ∀ (g : Granule) (o x y : Nat), Awaiting s u p (e.1 u xd xs1 xs2)
        ⟨progReq u, (p.xr xs1).toNat / 32 * 32, .atomic o x y, true, some (g, false)⟩ →
      ∃ t p1, exec (e.1 u xd xs1 xs2) s = .next t ∧ Answered s t u p p1 ∧
        XWritten { p with wait := .no, dests := p1.dests } p1 xd (g.extractLsb' 0 64)

/-- Scalar loads, of the package's own memory and of other nodes. -/
def Obligations.ScalarLoads : Prop := Parts.ScalarLoadResults ∧ Parts.ScalarRemoteLoads

/-- The scalar stores (R178) to the package's own memory, with no store held: exactly the low bytes of the register are
stored at xs1 + IMM, little-endian. -/
def Obligations.ScalarStoreResults : Prop :=
  ∀ e ∈ storeOps, ∀ (u : VUnit) (xs1 r2 : Fin 32) (imm : BitVec 11) (s : State) (p : Prog), Ready s u p (e.1 u xs1 r2 imm) →
    NotHeld s u (addrOf p xs1 imm) → OwnWrite s (addrOf p xs1 imm) e.2.1 →
    ∃ t, exec (e.1 u xs1 r2 imm) s = .next t ∧
      StoredAt s t (devAddr (addrOf p xs1 imm)) e.2.1 (e.2.2 p r2) ∧
      Completed s t u p p (p.pc + 4) ∧ OtherRegs s t u [Reg.hubCnt 5] ∧ HostCount s t 5 (addrOf p xs1 imm) e.2.1

/-- The atomics (R178, R139) on eight aligned bytes of the package's own memory, with no store held: xd takes the old
value and memory the new one. -/
def Obligations.ScalarAtomicResults : Prop :=
  ∀ e ∈ atomOps, ∀ (u : VUnit) (xd xs1 xs2 : Fin 32) (s : State) (p : Prog), Ready s u p (e.1 u xd xs1 xs2) →
    NotHeld s u (p.xr xs1).toNat → OwnWrite s (p.xr xs1).toNat 8 → s.readFails (devAddr (p.xr xs1).toNat) 8 = false →
    ∃ t p1 old, exec (e.1 u xd xs1 xs2) s = .next t ∧
      old = BitVec.ofNat 64 (s.num (devAddr (p.xr xs1).toNat) 8) ∧ XWritten p p1 xd old ∧
      StoredAt s t (devAddr (p.xr xs1).toNat) 8 (e.2 old (p.xr xs2) (p.xr xd)) ∧
      Completed s t u p p1 (p.pc + 4) ∧ OtherRegs s t u [Reg.hubCnt 4, Reg.hubCnt 5] ∧
      HostCount s t 4 (p.xr xs1).toNat 8 ∧ HostCount s t 5 (p.xr xs1).toNat 8

/-- Branches, jumps and calls (R177): a branch that is taken goes to PC + 4 × IMM, another to PC + 4; a call leaves the
return address PC + 4 in x31; the target of a register jump is a multiple of 4. No other register and no memory
changes. -/
def Obligations.BranchesAndJumps : Prop :=
  (∀ e ∈ branchOps, ∀ (u : VUnit) (xs1 xs2 : Fin 32) (imm : BitVec 11) (s : State) (p : Prog), Ready s u p (e.1 u xs1 xs2 imm) →
    ∃ t, exec (e.1 u xs1 xs2 imm) s = .next t ∧ InRegisters s t u p p
      (if e.2 (p.xr xs1) (p.xr xs2) then p.pc + 4 * imm.signExtend 64 else p.pc + 4)) ∧
  (∀ (u : VUnit) (imm : BitVec 21) (s : State) (p : Prog),
    (Ready s u p (.jump u imm) → ∃ t, exec (.jump u imm) s = .next t ∧
      InRegisters s t u p p (p.pc + 4 * imm.signExtend 64)) ∧
    ∀ _ : Ready s u p (.call u imm), ∃ t p1, exec (.call u imm) s = .next t ∧ XWritten p p1 31 (p.pc + 4) ∧
      InRegisters s t u p p1 (p.pc + 4 * imm.signExtend 64)) ∧
  (∀ (u : VUnit) (xs1 : Fin 32) (imm : BitVec 11) (s : State) (p : Prog), (p.xr xs1).toNat % 4 = 0 →
    (Ready s u p (.jumpr u xs1 imm) → ∃ t, exec (.jumpr u xs1 imm) s = .next t ∧
      InRegisters s t u p p (p.xr xs1 + 4 * imm.signExtend 64)) ∧
    ∀ _ : Ready s u p (.callr u xs1 imm), ∃ t p1, exec (.callr u xs1 imm) s = .next t ∧ XWritten p p1 31 (p.pc + 4) ∧
      InRegisters s t u p p1 (p.xr xs1 + 4 * imm.signExtend 64))

namespace Sys2Proof.Claims
open Sys2Proof Sys2Proof.Machine

/-- The format SUB selects, and the value an f register holds in it. -/
def fmtOfSub (single : Bool) : Fmt := if single then .b32 else .b64
def fvalue (p : Prog) (single : Bool) (i : Fin 32) : Machine.Num :=
  decodeNum (fmtOfSub single) ((p.fr i).toNat % 2 ^ (fmtOfSub single).width)

/-- The floating-point arithmetic: the exact result of fs1, fs2 and fd, which is rounded once under RNE. -/
def fpuOps : List ((VUnit → Fin 32 → Fin 32 → Fin 32 → Bool → Instr) × (Machine.Num → Machine.Num → Machine.Num →
  Machine.Num)) :=
  [(.fadd, fun x y _ => x.add y), (.fsub, fun x y _ => x.add y.neg), (.fmul, fun x y _ => x.mul y),
   (.fdiv, fun x y _ => x.div y), (.fmin, fun x y _ => x.min y), (.fmax, fun x y _ => x.max y),
   (.fma, fun x y d => (x.mul y).add d), (.fnma, fun x y d => (x.mul y).neg.add d)]

/-- The floating-point compares. -/
def fcmpOps : List ((VUnit → Fin 32 → Fin 32 → Fin 32 → Bool → Instr) × (Machine.Num → Machine.Num → Bool)) :=
  [(.fcmpEq, Machine.Num.eq), (.fcmpLt, Machine.Num.lt), (.fcmpLe, Machine.Num.le)]

/-- The sign bit of the value an f register holds in a format. -/
def signBit (p : Prog) (single : Bool) (i : Fin 32) : Bool := (p.fr i).getLsbD ((fmtOfSub single).width - 1)

/-- The bits of fs1 in a format, with a sign of its own. -/
def withSign (p : Prog) (single : Bool) (i : Fin 32) (sign : Bool) : W64 :=
  BitVec.ofNat 64 ((p.fr i).toNat % 2 ^ ((fmtOfSub single).width - 1) +
    if sign then 2 ^ ((fmtOfSub single).width - 1) else 0)

/-- The integer that an exact value rounds to toward zero, kept within the signed 64-bit range (R178). -/
def towardZero : Machine.Num → Int
  | .nan => 2 ^ 63 - 1
  | .inf neg => if neg then -(2 ^ 63) else 2 ^ 63 - 1
  | .fin m e => max (-(2 ^ 63)) (min (2 ^ 63 - 1) (if 0 ≤ e then m * 2 ^ e.toNat else m.tdiv (2 ^ (-e).toNat)))

end Sys2Proof.Claims

/-- The scalar floating-point arithmetic (R176 to R178): the result is exact and rounded once under RNE to the format that
SUB selects; a binary32 result leaves bits [63:32] of fd 0. -/
def Sys2Proof.Parts.ScalarFloatArithmetic : Prop :=
  (∀ e ∈ fpuOps, ∀ (u : VUnit) (fd fs1 fs2 : Fin 32) (single : Bool) (s : State) (p : Prog), Ready s u p (e.1 u fd fs1 fs2 single) →
    ∃ t p1, exec (e.1 u fd fs1 fs2 single) s = .next t ∧
      FWritten p p1 fd (BitVec.ofNat 64 (encRne (fmtOfSub single)
        (e.2 (fvalue p single fs1) (fvalue p single fs2) (fvalue p single fd)))) ∧
      InRegisters s t u p p1 (p.pc + 4)) ∧
  (∀ (u : VUnit) (fd fs1 : Fin 32) (single : Bool) (s : State) (p : Prog), Ready s u p (.fsqrt u fd fs1 single) →
    ∃ t p1, exec (.fsqrt u fd fs1 single) s = .next t ∧
      FWritten p p1 fd (BitVec.ofNat 64 (encRne (fmtOfSub single) (fvalue p single fs1).sqrt)) ∧
      InRegisters s t u p p1 (p.pc + 4))

/-- Compares, sign copies, conversions and moves of the scalar base (R177, R178). The reading of FCOPYS and of FCONV.F.F
is the model's (log entry 16). -/
def Sys2Proof.Parts.ScalarFloatMoves : Prop :=
  (∀ e ∈ fcmpOps, ∀ (u : VUnit) (xd fs1 fs2 : Fin 32) (single : Bool) (s : State) (p : Prog), Ready s u p (e.1 u xd fs1 fs2 single) →
    ∃ t p1, exec (e.1 u xd fs1 fs2 single) s = .next t ∧
      XWritten p p1 xd (if e.2 (fvalue p single fs1) (fvalue p single fs2) then 1 else 0) ∧
      InRegisters s t u p p1 (p.pc + 4)) ∧
  (∀ (u : VUnit) (a b c : Fin 32) (single : Bool) (s : State) (p : Prog),
    (Ready s u p (.fcopys u a b c single) → ∃ t p1, exec (.fcopys u a b c single) s = .next t ∧
      FWritten p p1 a (withSign p single b (signBit p single c)) ∧
      InRegisters s t u p p1 (p.pc + 4)) ∧
    (Ready s u p (.fcopysn u a b c single) → ∃ t p1, exec (.fcopysn u a b c single) s = .next t ∧
      FWritten p p1 a (withSign p single b (!signBit p single c)) ∧ InRegisters s t u p p1 (p.pc + 4)) ∧
    (Ready s u p (.fconvFI u a b single) → ∃ t p1, exec (.fconvFI u a b single) s = .next t ∧
      FWritten p p1 a (BitVec.ofNat 64 (encRne (fmtOfSub single) (.fin (p.xr b).toInt 0))) ∧
      InRegisters s t u p p1 (p.pc + 4)) ∧
    (Ready s u p (.fconvIF u a b single) → ∃ t p1, exec (.fconvIF u a b single) s = .next t ∧
      XWritten p p1 a (BitVec.ofInt 64 (towardZero (fvalue p single b))) ∧ InRegisters s t u p p1 (p.pc + 4)) ∧
    (Ready s u p (.fconvFF u a b single) → ∃ t p1, exec (.fconvFF u a b single) s = .next t ∧
      FWritten p p1 a (BitVec.ofNat 64 (encRne (fmtOfSub single) (fvalue p (!single) b))) ∧
      InRegisters s t u p p1 (p.pc + 4)) ∧
    (Ready s u p (.fmovIF u a b single) → ∃ t p1, exec (.fmovIF u a b single) s = .next t ∧
      XWritten p p1 a (if single then (p.fr b).extractLsb' 0 32 |>.zeroExtend 64 else p.fr b) ∧
      InRegisters s t u p p1 (p.pc + 4)) ∧
    ∀ _ : Ready s u p (.fmovFI u a b single), ∃ t p1, exec (.fmovFI u a b single) s = .next t ∧
      FWritten p p1 a (if single then (p.xr b).extractLsb' 0 32 |>.zeroExtend 64 else p.xr b) ∧
      InRegisters s t u p p1 (p.pc + 4))

/-- Floating-point arithmetic, compares, moves and conversions of the scalar core. -/
def Obligations.ScalarFloat : Prop := Parts.ScalarFloatArithmetic ∧ Parts.ScalarFloatMoves

namespace Sys2Proof.Claims
open Sys2Proof Sys2Proof.Machine

/-- Element `k` of width `w` of v`d`, or of the register above it where it lies beyond (R123, R131). -/
def el (p : Prog) (d w k : Nat) : BitVec w := (p.vr (d + w * k / 8192)).extractLsb' (w * k % 8192) w

/-- Element `k` of the second source: of vs1, or xs1 broadcast. -/
def srcA (p : Prog) (o : VFields) (w k : Nat) : BitVec w := if o.sc then (p.xr o.a).setWidth w else el p o.a w k

/-- Does element `k` of the second source lie in a poisoned granule? -/
def poisA (p : Prog) (o : VFields) (w k : Nat) : Bool := !o.sc && p.granPois o.a (w * k / 256)

/-- Does element `k` of v`i` lie in a poisoned granule? -/
def poisEl (p : Prog) (i w k : Nat) : Bool := p.granPois i (w * k / 256)

/-- Element `k` is active (R125). -/
def Act (p : Prog) (o : VFields) (k : Nat) : Prop := k < p.vl ∧ (o.msk = 0 ∨ (p.mr o.msk).getLsbD k = true)

/-- `p1` is `p` after elements of width `w` of v`d`, in `n` registers, were written under R126: an active element `k` below
`m` holds `f k`, an inactive one below `m` is zeroed where Z is 1, every other element and every other register is as
before, and a granule of the destination is poison where it holds an element whose sources are, or one that was left
and was poison (R140). Nothing else of the program changes. -/
def Written (p p1 : Prog) (o : VFields) (w n m : Nat) (f : Nat → Nat) (pois : Nat → Bool) : Prop :=
  (∀ k, w * (k + 1) ≤ 8192 * n →
    (Act p o k → k < m → (el p1 o.d w k).toNat = f k % 2 ^ w) ∧
    (¬ Act p o k → k < m → o.z = true → el p1 o.d w k = 0) ∧
    ((m ≤ k ∨ ¬ Act p o k ∧ o.z = false) → el p1 o.d w k = el p o.d w k)) ∧
  (∀ i : Fin 32, (i.val < o.d ∨ o.d + n ≤ i.val) → p1.vr i = p.vr i ∧ ∀ g, g < 32 → p1.granPois i g = p.granPois i g) ∧
  (∀ g, g < 32 * n → (p1.granPois o.d g = true ↔ ∃ k, 256 * g ≤ w * k ∧ w * k < 256 * (g + 1) ∧
    (Act p o k ∧ k < m ∧ pois k = true ∨
      (m ≤ k ∨ ¬ Act p o k ∧ o.z = false) ∧ p.granPois o.d g = true))) ∧
  p1 = { p with v := p1.v, pois := p1.pois }

/-- `p1` is `p` after element 0 of v`d` took `x`, with its poison; no other element and no other register changes. -/
def Written0 (p p1 : Prog) (d w : Nat) (x : Nat) (pois : Bool) : Prop :=
  (el p1 d w 0).toNat = x % 2 ^ w ∧ (∀ k, 0 < k → w * (k + 1) ≤ 8192 → el p1 d w k = el p d w k) ∧
  (∀ i : Fin 32, i.val ≠ d → p1.vr i = p.vr i) ∧ (pois = true → p1.granPois d 0 = true) ∧
  p1 = { p with v := p1.v, pois := p1.pois }

/-- `p1` is `p` after mask bits of m`d` were written under R126. -/
def MaskWritten (p p1 : Prog) (o : VFields) (f : Nat → Bool) : Prop :=
  (∀ k, k < 1024 →
    (Act p o k → (p1.mr o.d).getLsbD k = f k) ∧ (¬ Act p o k → k < p.vl → o.z = true → (p1.mr o.d).getLsbD k = false) ∧
    ((p.vl ≤ k ∨ ¬ Act p o k ∧ o.z = false) → (p1.mr o.d).getLsbD k = (p.mr o.d).getLsbD k)) ∧
  (∀ i : Fin 8, i.val ≠ o.d.val → p1.mr i = p.mr i) ∧ p1 = { p with m := p1.m }

/-- An integer held to the signed range of `w` bits (R128). -/
def held (w : Nat) (v : Int) : BitVec w := BitVec.ofInt w (max (-2 ^ (w - 1)) (min (2 ^ (w - 1) - 1) v))

/-- A two-source integer instruction, and what an element takes, given those of vs2 and vs1. -/
abbrev VInt := (VUnit → VFields → Instr) × ((w : Nat) → BitVec w → BitVec w → BitVec w)

/-- The arithmetic among them (R128). -/
def vintArith : List VInt :=
  [(.vadd, fun _ x y => x + y), (.vsub, fun _ x y => x - y), (.vmul, fun _ x y => x * y),
   (.vmulhi, fun w x y => (x.signExtend (2 * w) * y.signExtend (2 * w)).extractLsb' w w),
   (.vmin, fun _ x y => if x.toInt ≤ y.toInt then x else y), (.vmax, fun _ x y => if x.toInt ≤ y.toInt then y else x),
   (.vminu, fun _ x y => if x.toNat ≤ y.toNat then x else y), (.vmaxu, fun _ x y => if x.toNat ≤ y.toNat then y else x)]

/-- The logic, the shifts and the saturating sums (R128). -/
def vintLogic : List VInt :=
  [(.vand, fun _ x y => x &&& y), (.vor, fun _ x y => x ||| y), (.vxor, fun _ x y => x ^^^ y),
   (.vshl, fun w x y => x <<< (y.toNat % w)), (.vshr, fun w x y => x >>> (y.toNat % w)),
   (.vsar, fun w x y => x.sshiftRight (y.toNat % w)), (.vsadd, fun w x y => held w (x.toInt + y.toInt)),
   (.vssub, fun w x y => held w (x.toInt - y.toInt))]

/-- The two-source integer instructions. -/
def vintOps : List VInt := vintArith ++ vintLogic

/-- The widening integer instructions, on exact values (R131). -/
def vintWOps : List ((VUnit → VFields → Instr) × (Int → Int →
  Int)) := [(.vaddW, fun x y => x + y), (.vmulW, fun x y => x * y)]

/-- The integer compares. -/
def vicmpOps : List ((VUnit → VFields → Instr) × ((w : Nat) → BitVec w → BitVec w → Bool)) :=
  [(.vcmpEq, fun _ x y => x == y), (.vcmpNe, fun _ x y => !(x == y)), (.vcmpLt, fun _ x y => decide (x.toInt < y.toInt)),
   (.vcmpLtu, fun _ x y => decide (x.toNat < y.toNat)), (.vcmpLe, fun _ x y => decide (x.toInt ≤ y.toInt)),
   (.vcmpLeu, fun _ x y => decide (x.toNat ≤ y.toNat))]

/-- The floating-point compares (R80). -/
def vfcmpOps : List ((VUnit → VFields → Instr) × (Machine.Num → Machine.Num → Bool)) :=
  [(.vfcmpEq, fun x y => x.eq y), (.vfcmpNe, fun x y => !x.eq y), (.vfcmpLt, fun x y => x.lt y),
   (.vfcmpLe, fun x y => x.le y), (.vfcmpUn, fun x y => x.isNan || y.isNan)]

/-- The floating-point arithmetic: whether vd is a source, and the exact result of vs2, vs1 and vd (R81, R129). -/
def vfOps : List ((VUnit → VFields → Instr) × Bool × (Machine.Num → Machine.Num → Machine.Num → Machine.Num)) :=
  [(.vfadd, false, fun x y _ => x.add y), (.vfsub, false, fun x y _ => x.add y.neg), (.vfmul, false, fun x y _ => x.mul y),
   (.vfdiv, false, fun x y _ => x.div y), (.vfmin, false, fun x y _ => x.min y), (.vfmax, false, fun x y _ => x.max y),
   (.vfma, true, fun x y d => (x.mul y).add d), (.vfnma, true, fun x y d => (x.mul y).neg.add d)]

/-- The widening floating-point arithmetic (R131). -/
def vfWOps : List ((VUnit → VFields → Instr) × Bool × (Machine.Num → Machine.Num → Machine.Num → Machine.Num)) :=
  [(.vfaddW, false, fun x y _ => x.add y), (.vfmulW, false, fun x y _ => x.mul y), (.vfmaW, true, fun x y d => (x.mul y).add d)]

/-- The value of element `k` of v`i` in a format. -/
def fel (p : Prog) (f : Fmt) (i k : Nat) : Machine.Num := decodeNum f (el p i f.width k).toNat

/-- The bits of the second source in a format: of vs1, or fs1 rounded under RNE and SATINF and broadcast (R129; that SATINF
holds here too is the model's reading, log entry 11). -/
def fbitsA (p : Prog) (o : VFields) (f : Fmt) (k : Nat) : Nat :=
  if o.sc then encSat f p.satinf (decodeNum .b64 (p.fr o.a).toNat) else (el p o.a f.width k).toNat

/-- The widened format of Table 5-4. -/
def wideFmt : Fmt → Option Fmt
  | .e4m3 | .e5m2 => some .bf16
  | .b16 | .bf16 => some .b32
  | .b32 => some .b64
  | _ => none

/-- The sum of the products of `n` elements of two formats, added to a value. -/
def dotSum (p : Prog) (f g : Fmt) (b a k : Nat) (init : Machine.Num) : Nat → Machine.Num
  | 0 => init
  | n + 1 => (dotSum p f g b a k init n).add ((fel p f b (k + n)).mul (fel p g a (k + n)))

end Sys2Proof.Claims

/-- The two-source integer instructions of the vector engine (R125 to R128), with vs1 or with xs1 broadcast: each active
element takes the result of its own lane, and nothing but vd changes. -/
def Sys2Proof.Parts.VectorIntegerResults : Prop :=
  ∀ e ∈ vintOps, ∀ (u : VUnit) (o : VFields) (s : State) (p : Prog), VReady s u p (e.1 u o) → o.m1 = false →
    ∃ t p1, exec (e.1 u o) s = .next t ∧
      Written p p1 o p.ew 1 p.vl (fun k => (e.2 p.ew (el p o.b p.ew k) (srcA p o p.ew k)).toNat)
        (fun k => poisEl p o.b p.ew k || poisA p o p.ew k) ∧
      InRegisters s t u p p1 (p.pc + 4)

/-- The widening instructions (R131): sources of width EW give results of twice that width, in the register pair vd,
vd + 1. -/
def Sys2Proof.Parts.VectorWideningResults : Prop :=
  (∀ e ∈ vintWOps, ∀ (u : VUnit) (o : VFields) (s : State) (p : Prog), VReady s u p (e.1 u o) → o.m1 = false →
    o.d.val % 2 = 0 →
    p.ew ≠ 64 →
    ∃ t p1, exec (e.1 u o) s = .next t ∧
      Written p p1 o (2 * p.ew) 2 p.vl
        (fun k => (BitVec.ofInt (2 * p.ew) (e.2 (el p o.b p.ew k).toInt (srcA p o p.ew k).toInt)).toNat)
        (fun k => poisEl p o.b p.ew k || poisA p o p.ew k) ∧
      InRegisters s t u p p1 (p.pc + 4)) ∧
  (∀ e ∈ vfWOps, ∀ (u : VUnit) (o : VFields) (s : State) (p : Prog) (f g : Fmt), VReady s u p (e.1 u o) → o.m1 = false →
    o.d.val % 2 = 0 → p.fpFmt = some f → wideFmt f = some g →
    ∃ t p1, exec (e.1 u o) s = .next t ∧
      Written p p1 o g.width 2 p.vl
        (fun k => (p.roundEl g k (e.2.2 (fel p f o.b k) (decodeNum f (fbitsA p o f k)) (fel p g o.d k))).1)
        (fun k => poisEl p o.b f.width k || poisA p o f.width k || (e.2.1 && p.granPois o.d (g.width * k / 256))) ∧
      InRegisters s t u p p1 (p.pc + 4))

/-- Integer arithmetic and logic of the vector engine, single and widening. -/
def Obligations.VectorInteger : Prop := Parts.VectorIntegerResults ∧ Parts.VectorWideningResults

/-- The floating-point arithmetic of the vector engine (R81, R129): the exact result of each lane, rounded once under
VTYPE. -/
def Sys2Proof.Parts.VectorFloatArithmetic : Prop :=
  ∀ e ∈ vfOps, ∀ (u : VUnit) (o : VFields) (s : State) (p : Prog) (f : Fmt), VReady s u p (e.1 u o) → o.m1 = false →
    p.fpFmt = some f →
    ∃ t p1, exec (e.1 u o) s = .next t ∧
      Written p p1 o f.width 1 p.vl
        (fun k => (p.roundEl f k (e.2.2 (fel p f o.b k) (decodeNum f (fbitsA p o f k)) (fel p f o.d k))).1)
        (fun k => poisEl p o.b f.width k || poisA p o f.width k || (e.2.1 && poisEl p o.d f.width k)) ∧
      InRegisters s t u p p1 (p.pc + 4)

namespace Sys2Proof.Claims
open Sys2Proof Sys2Proof.Machine

/-- `x` with its sign bit, bit `w − 1`, replaced. -/
def signed1 (w x : Nat) (sign : Bool) : Nat := x % 2 ^ (w - 1) + if sign then 2 ^ (w - 1) else 0

/-- The functions of VFUNARY (Table 5-5). -/
def unaryOps : List (Fin 32 × (Machine.Num → Machine.Num)) :=
  [(0, fun x => x.sqrt), (1, fun x => x.rcp), (2, fun x => x.rsqrt), (3, fun x => x.exp2), (4, fun x => x.log2),
   (5, fun x => x.tanh), (6, fun x => x.sigm)]

end Sys2Proof.Claims

/-- The moves and the sign instructions of the vector engine (R129, R158): bits are copied, or only the sign changes; and
the functions of VFUNARY, correctly rounded under RNE (R144); SATINF says what an overflow writes (R74), but for EXP2, whose
overflow gives +∞ (Table 5-5; the model's reading, log entry 11). -/
def Sys2Proof.Parts.VectorMovesAndFunctions : Prop :=
  ∀ (u : VUnit) (o : VFields) (s : State) (p : Prog) (f : Fmt), o.m1 = false →
    (o.b = 0 → VReady s u p (.vmov u o) → ∃ t p1, exec (.vmov u o) s = .next t ∧
      Written p p1 o p.ew 1 p.vl (fun k => (srcA p o p.ew k).toNat) (poisA p o p.ew) ∧ InRegisters s t u p p1 (p.pc + 4)) ∧
    (p.fpFmt = some f →
      (o.b = 0 → VReady s u p (.vfmov u o) → ∃ t p1, exec (.vfmov u o) s = .next t ∧
        Written p p1 o f.width 1 p.vl (fbitsA p o f) (poisA p o f.width) ∧ InRegisters s t u p p1 (p.pc + 4)) ∧
      (VReady s u p (.vfcopys u o) → ∃ t p1, exec (.vfcopys u o) s = .next t ∧
        Written p p1 o f.width 1 p.vl
          (fun k => signed1 f.width (el p o.b f.width k).toNat (decide (2 ^ (f.width - 1) ≤ fbitsA p o f k)))
          (fun k => poisEl p o.b f.width k || poisA p o f.width k) ∧ InRegisters s t u p p1 (p.pc + 4)) ∧
      (VReady s u p (.vfcopysn u o) → ∃ t p1, exec (.vfcopysn u o) s = .next t ∧
        Written p p1 o f.width 1 p.vl
          (fun k => signed1 f.width (el p o.b f.width k).toNat (decide (fbitsA p o f k < 2 ^ (f.width - 1))))
          (fun k => poisEl p o.b f.width k || poisA p o f.width k) ∧ InRegisters s t u p p1 (p.pc + 4)) ∧
      (o.sc = false →
        (VReady s u p (.vfneg u o) → ∃ t p1, exec (.vfneg u o) s = .next t ∧
          Written p p1 o f.width 1 p.vl
            (fun k => signed1 f.width (el p o.b f.width k).toNat (decide ((el p o.b f.width k).toNat < 2 ^ (f.width - 1))))
            (poisEl p o.b f.width) ∧ InRegisters s t u p p1 (p.pc + 4)) ∧
        (VReady s u p (.vfabs u o) → ∃ t p1, exec (.vfabs u o) s = .next t ∧
          Written p p1 o f.width 1 p.vl (fun k => signed1 f.width (el p o.b f.width k).toNat false)
            (poisEl p o.b f.width) ∧ InRegisters s t u p p1 (p.pc + 4)) ∧
        ∀ e ∈ unaryOps, o.a = e.1 → (o.a.val < 3 ∨ f = .b32 ∨ f = .b16 ∨ f = .bf16) →
          VReady s u p (.vfunary u o) → ∃ t p1, exec (.vfunary u o) s = .next t ∧
            Written p p1 o f.width 1 p.vl (fun k => encSat f (p.satinf && o.a != 3) (e.2 (fel p f o.b k))) (poisEl p o.b f.width) ∧
            InRegisters s t u p p1 (p.pc + 4)))

/-- The dot products (R132): VDOT4 adds four products of signed bytes to a 32-bit element; VFDOT4 and VFDOT2 add exact
products of narrow floats to a binary32 element and round once. M1 puts vs1 in the other format of its pair. -/
def Sys2Proof.Parts.VectorDotProducts : Prop :=
  (∀ (u : VUnit) (o : VFields) (s : State) (p : Prog), VReady s u p (.vdot4 u o) → o.m1 = false → o.sc = false → p.ew = 32 →
    ∃ t p1, exec (.vdot4 u o) s = .next t ∧
      Written p p1 o 32 1 p.vl
        (fun k => (el p o.d 32 k +
          (el p o.b 8 (4 * k)).signExtend 32 * (el p o.a 8 (4 * k)).signExtend 32 +
          (el p o.b 8 (4 * k + 1)).signExtend 32 * (el p o.a 8 (4 * k + 1)).signExtend 32 +
          (el p o.b 8 (4 * k + 2)).signExtend 32 * (el p o.a 8 (4 * k + 2)).signExtend 32 +
          (el p o.b 8 (4 * k + 3)).signExtend 32 * (el p o.a 8 (4 * k + 3)).signExtend 32).toNat)
        (fun k => poisEl p o.b 32 k || poisEl p o.a 32 k || poisEl p o.d 32 k) ∧
      InRegisters s t u p p1 (p.pc + 4)) ∧
  (∀ (u : VUnit) (alt : Bool) (o : VFields) (s : State) (p : Prog), o.sc = false →
    p.fpFmt = some .b32 →
    (VReady s u p (.vfdot4 u alt o) → ∃ t p1, exec (.vfdot4 u alt o) s = .next t ∧
      Written p p1 o 32 1 p.vl
        (fun k => (p.roundEl .b32 k (dotSum p (if alt then .e5m2 else .e4m3) (if alt != o.m1 then .e5m2 else .e4m3)
          o.b o.a (4 * k) (fel p .b32 o.d k) 4)).1)
        (fun k => poisEl p o.b 32 k || poisEl p o.a 32 k || poisEl p o.d 32 k) ∧
      InRegisters s t u p p1 (p.pc + 4)) ∧
    ∀ _ : VReady s u p (.vfdot2 u alt o), ∃ t p1, exec (.vfdot2 u alt o) s = .next t ∧
      Written p p1 o 32 1 p.vl
        (fun k => (p.roundEl .b32 k (dotSum p (if alt then .b16 else .bf16) (if alt != o.m1 then .b16 else .bf16)
          o.b o.a (2 * k) (fel p .b32 o.d k) 2)).1)
        (fun k => poisEl p o.b 32 k || poisEl p o.a 32 k || poisEl p o.d 32 k) ∧
      InRegisters s t u p p1 (p.pc + 4))

/-- Floating-point arithmetic and dot products of the vector engine. -/
def Obligations.VectorFloat : Prop := Parts.VectorFloatArithmetic ∧ Parts.VectorDotProducts

/-- The compares (R80, R126, R158): a bit of the mask mD for each active element, where no active element draws on poison
(R140). -/
def Sys2Proof.Parts.VectorCompares : Prop :=
  (∀ e ∈ vicmpOps, ∀ (u : VUnit) (o : VFields) (s : State) (p : Prog), VReady s u p (e.1 u o) → o.m1 = false → o.d.val < 8 →
    (∀ k, Act p o k → poisEl p o.b p.ew k = false ∧ poisA p o p.ew k = false) →
    ∃ t p1, exec (e.1 u o) s = .next t ∧
      MaskWritten p p1 o (fun k => e.2 p.ew (el p o.b p.ew k) (srcA p o p.ew k)) ∧ InRegisters s t u p p1 (p.pc + 4)) ∧
  (∀ e ∈ vfcmpOps, ∀ (u : VUnit) (o : VFields) (s : State) (p : Prog) (f : Fmt), VReady s u p (e.1 u o) → o.m1 = false →
    o.d.val < 8 → p.fpFmt = some f →
    (∀ k, Act p o k → poisEl p o.b f.width k = false ∧ poisA p o f.width k = false) →
    ∃ t p1, exec (e.1 u o) s = .next t ∧
      MaskWritten p p1 o (fun k => e.2 (fel p f o.b k) (decodeNum f (fbitsA p o f k))) ∧
      InRegisters s t u p p1 (p.pc + 4))

namespace Sys2Proof.Claims
open Sys2Proof Sys2Proof.Machine

/-- The exact sum of VFUPD for element `k`: weight, update and remainder (R171). -/
def updSum (p : Prog) (o : VFields) (f : Fmt) (k : Nat) : Machine.Num :=
  ((fel p f o.d k).add (fel p f o.b k)).add (fel p .bf16 o.a k)

/-- The remainder that VFUPD leaves, with the rounded weight and its event. -/
def updRem (f : Fmt) (x : Machine.Num) (w : Nat × Ev) : Nat :=
  if x.isFin = true ∧ w.2 ≠ .sat then encRne .bf16 (x.add (decodeNum f w.1).neg) else 0

/-- The mask instructions on two masks. -/
def vmaskOps : List ((VUnit → VFields → Instr) × (Bool → Bool → Bool)) :=
  [(.vkand, fun a b => a && b), (.vkor, fun a b => a || b), (.vkxor, fun a b => a != b), (.vkandn, fun a b => a && !b)]

/-- The active set bits of mA. -/
def setActive (p : Prog) (o : VFields) : List Nat :=
  (List.range p.vl).filter fun k => (o.msk == 0 || (p.mr o.msk).getLsbD k) && (p.mr o.a).getLsbD k

/-- The active elements, in rising order. -/
def actList (p : Prog) (o : VFields) : List Nat :=
  (List.range p.vl).filter fun k => o.msk == 0 || (p.mr o.msk).getLsbD k

/-- The integer reductions of two elements (R133). -/
def vredOps : List ((VUnit → VFields → Instr) × ((w : Nat) → BitVec w → BitVec w → BitVec w)) :=
  [(.vsumr, fun _ a x => a + x), (.vmaxr, fun _ a x => if a.toInt ≤ x.toInt then x else a),
   (.vminr, fun _ a x => if a.toInt ≤ x.toInt then a else x), (.vmaxru, fun _ a x => if a.toNat ≤ x.toNat then x else a),
   (.vminru, fun _ a x => if a.toNat ≤ x.toNat then a else x)]

/-- The floating-point reductions but the tree sum. -/
def vfredOps : List ((VUnit → VFields → Instr) × (Machine.Num → Machine.Num → Machine.Num)) :=
  [(.vfsumrX, fun a x => a.add x), (.vfmaxr, fun a x => a.max x), (.vfminr, fun a x => a.min x)]

/-- A value rounded to a format under RNE and SATINF. -/
def rounded (f : Fmt) (sat : Bool) (v : Machine.Num) : Machine.Num := decodeNum f (encSat f sat v)

/-- One level of the sum tree: y[2i] + y[2i + 1], rounded. -/
def treeUp (f : Fmt) (sat : Bool) (y : Nat → Machine.Num) (i : Nat) : Machine.Num :=
  rounded f sat ((y (2 * i)).add (y (2 * i + 1)))

/-- The root of a tree of `n` levels. -/
def treeRoot (f : Fmt) (sat : Bool) : Nat → (Nat → Machine.Num) → Machine.Num
  | 0, y => y 0
  | n + 1, y => treeRoot f sat n (treeUp f sat y)

/-- The levels that `n` positions padded to the next power of two need. -/
def levels (n : Nat) : Nat := if n ≤ 1 then 0 else Nat.log2 (n - 1) + 1

/-- Position `k` of the tree: the element where it is active and below VL, and otherwise +0. -/
def treeAt (p : Prog) (o : VFields) (f : Fmt) (k : Nat) : Machine.Num :=
  if k < p.vl ∧ (o.msk = 0 ∨ (p.mr o.msk).getLsbD k = true) then fel p f o.b k else .zero

/-- The running value of an inclusive segmented scan after element `k` (R141): it begins anew at element 0 and at a set
bit of the head mask, and an inactive element leaves it. -/
def running {α : Type} (p : Prog) (o : VFields) (ident : α) (comb : α → α → α) (x : Nat → α) : Nat → α
  | 0 => if o.msk = 0 ∨ (p.mr o.msk).getLsbD 0 = true then comb ident (x 0) else ident
  | k + 1 =>
    let r := if (p.mr o.a).getLsbD (k + 1) then ident else running p o ident comb x k
    if o.msk = 0 ∨ (p.mr o.msk).getLsbD (k + 1) = true then comb r (x (k + 1)) else r

/-- What a scan writes to element `k`: inclusive, or exclusive where M1 is 1. -/
def scanned {α : Type} (p : Prog) (o : VFields) (ident : α) (comb : α → α → α) (x : Nat → α) (k : Nat) : α :=
  if o.m1 then (if k = 0 ∨ (p.mr o.a).getLsbD k = true then ident else running p o ident comb x (k - 1))
  else running p o ident comb x k

/-- The integer scans: identity and combination. -/
def vscanOps : List ((VUnit → VFields → Instr) × ((w : Nat) → BitVec w) × ((w : Nat) → BitVec w → BitVec w → BitVec w)) :=
  [(.vsscanAdd, fun _ => 0, fun _ a x => a + x),
   (.vsscanMax, fun w => BitVec.intMin w, fun _ a x => if a.toInt ≤ x.toInt then x else a),
   (.vsscanMin, fun w => BitVec.intMax w, fun _ a x => if a.toInt ≤ x.toInt then a else x)]

/-- The floating-point scans. -/
def vfscanOps : List ((VUnit → VFields → Instr) × Machine.Num × (Fmt → Bool → Machine.Num → Machine.Num → Machine.Num)) :=
  [(.vfsscanAdd, .zero, fun f sat a x => rounded f sat (a.add x)), (.vfsscanMax, .inf true, fun _ _ a x => a.max x),
   (.vfsscanMin, .inf false, fun _ _ a x => a.min x)]

/-- No granule of v`i` is poison. -/
def Clean (p : Prog) (i : Nat) : Prop := ∀ g, g < 32 → p.granPois i g = false

/-- The program completed its instruction as `p1`, whatever its monitor set was told. -/
def Finished (t : State) (u : VUnit) (p p1 : Prog) : Prop := t.progOf u = some { p1 with pc := p.pc + 4 }

end Sys2Proof.Claims

/-- VFUPD (R171): the weight takes the rounded exact sum, and vs1 the remainder in bfloat16; with VTYPE.MON 0 nothing else
changes. -/
def Obligations.VectorUpdateWithRemainder : Prop :=
  ∀ (u : VUnit) (o : VFields) (s : State) (p : Prog) (f : Fmt), VReady s u p (.vfupd u o) → p.fpFmt = some f →
    (f = .b32 ∨ f = .b16 ∨ f = .bf16) → o.sc = false → o.m1 = false → o.z = false → o.a ≠ o.d → o.a ≠ o.b →
    ∃ t p1, exec (.vfupd u o) s = .next t ∧ Finished t u p p1 ∧ p1 = { p with v := p1.v, pois := p1.pois } ∧
      (∀ k, Act p o k →
        (el p1 o.d f.width k).toNat = (p.roundEl f k (updSum p o f k)).1 ∧
        (el p1 o.a 16 k).toNat = updRem f (updSum p o f k) (p.roundEl f k (updSum p o f k))) ∧
      (∀ k, ¬ Act p o k → (f.width * (k + 1) ≤ 8192 → el p1 o.d f.width k = el p o.d f.width k) ∧
        (16 * (k + 1) ≤ 8192 → el p1 o.a 16 k = el p o.a 16 k)) ∧
      (∀ i : Fin 32, i ≠ o.d → i ≠ o.a → p1.vr i = p.vr i) ∧
      (p.mon = false → InRegisters s t u p p1 (p.pc + 4))

/-- VFCVT (R79, R135) between plain formats of one register each: every active element is rounded once under VTYPE from
the format that M1 and A name, and with VTYPE.MON 0 nothing but vd changes; and a conversion to or from an MX format, or
one that fills a register pair, completes too and writes vd and vd + 1 only. -/
def Sys2Proof.Parts.VectorConversion : Prop :=
  (∀ (u : VUnit) (o : VFields) (s : State) (p : Prog) (f g : Fmt), VReady s u p (.vfcvt u o) → o.sc = false →
    cvtFmt (if o.m1 then o.a else p.fmtCode) = some (.plain f) → cvtFmt (if o.m1 then p.fmtCode else o.a) = some (.plain g) →
    f.width * p.vl ≤ 8192 → g.width * p.vl ≤ 8192 →
    ∃ t p1, exec (.vfcvt u o) s = .next t ∧ Finished t u p p1 ∧ p1 = { p with v := p1.v, pois := p1.pois } ∧
      (∀ k, Act p o k → lane g.width (p1.vr o.d) k = (p.roundEl g k (decodeNum f (lane f.width (p.vr o.b) k))).1) ∧
      (∀ i : Fin 32, i ≠ o.d → p1.vr i = p.vr i) ∧ (p.mon = false → InRegisters s t u p p1 (p.pc + 4))) ∧
  (∀ (u : VUnit) (o : VFields) (s : State) (p : Prog) (f g : CvtFmt), VReady s u p (.vfcvt u o) → o.sc = false →
    cvtFmt (if o.m1 then o.a else p.fmtCode) = some f → cvtFmt (if o.m1 then p.fmtCode else o.a) = some g →
    o.b.val < 31 → o.d.val < 31 → o.d.val % 2 = 0 →
    ∃ t p1, exec (.vfcvt u o) s = .next t ∧ Finished t u p p1 ∧ p1 = { p with v := p1.v, pois := p1.pois } ∧
      ∀ i : Fin 32, i.val ≠ o.d.val → i.val ≠ o.d.val + 1 → p1.vr i = p.vr i)

/-- Moves, unary functions and conversions of the vector engine. -/
def Obligations.VectorFunctions : Prop := Parts.VectorMovesAndFunctions ∧ Parts.VectorConversion

/-- The mask instructions (R126, R143, R158). -/
def Sys2Proof.Parts.VectorMasks : Prop :=
  (∀ e ∈ vmaskOps, ∀ (u : VUnit) (o : VFields) (s : State) (p : Prog), VReady s u p (e.1 u o) → o.m1 = false → o.d.val < 8 →
    o.a.val < 8 → o.b.val < 8 →
    ∃ t p1, exec (e.1 u o) s = .next t ∧
      MaskWritten p p1 o (fun k => e.2 ((p.mr o.a).getLsbD k) ((p.mr o.b).getLsbD k)) ∧ InRegisters s t u p p1 (p.pc + 4)) ∧
  (∀ (u : VUnit) (o : VFields) (s : State) (p : Prog), o.m1 = false → o.a.val < 8 → o.b = 0 →
    (o.d.val < 8 → VReady s u p (.vknot u o) → ∃ t p1, exec (.vknot u o) s = .next t ∧
      MaskWritten p p1 o (fun k => !(p.mr o.a).getLsbD k) ∧
      InRegisters s t u p p1 (p.pc + 4)) ∧
    (o.z = false →
      (VReady s u p (.vkcount u o) → ∃ t p1, exec (.vkcount u o) s = .next t ∧
        XWritten p p1 o.d (BitVec.ofNat 64 (setActive p o).length) ∧
        InRegisters s t u p p1 (p.pc + 4)) ∧
      ∀ _ : VReady s u p (.vklead u o), ∃ t p1, exec (.vklead u o) s = .next t ∧
        XWritten p p1 o.d (match (setActive p o).head? with
          | some k => BitVec.ofNat 64 k
          | none => 0xFFFFFFFFFFFFFFFF) ∧ InRegisters s t u p p1 (p.pc + 4)))

/-- Compares and mask instructions of the vector engine. -/
def Obligations.VectorMasksAndCompares : Prop := Parts.VectorCompares ∧ Parts.VectorMasks

/-- The reductions (R133): the active elements of vs2 and element 0 of vs1 are combined into element 0 of vd, integers
modulo 2^EW, floating point exactly and rounded once under RNE with SATINF (R74), the tree sum level by level; with VL = 0 vd is left as it
was (R127). -/
def Sys2Proof.Parts.VectorReductions : Prop :=
  (∀ e ∈ vredOps, ∀ (u : VUnit) (o : VFields) (s : State) (p : Prog), VReady s u p (e.1 u o) → o.m1 = false → o.z = false →
    p.vl ≠ 0 →
    ∃ t p1, exec (e.1 u o) s = .next t ∧
      Written0 p p1 o.d p.ew ((actList p o).foldl (fun a k => e.2 p.ew a (el p o.b p.ew k)) (el p o.a p.ew 0)).toNat
        (poisEl p o.a p.ew 0 || (actList p o).any (poisEl p o.b p.ew)) ∧ InRegisters s t u p p1 (p.pc + 4)) ∧
  (∀ (u : VUnit) (o : VFields) (s : State) (p : Prog) (f : Fmt), o.m1 = false → o.z = false → p.vl ≠ 0 →
    p.fpFmt = some f →
    (∀ e ∈ vfredOps, VReady s u p (e.1 u o) → ∃ t p1, exec (e.1 u o) s = .next t ∧
      Written0 p p1 o.d f.width (encSat f p.satinf ((actList p o).foldl (fun a k => e.2 a (fel p f o.b k)) (fel p f o.a 0)))
        (poisEl p o.a f.width 0 || (actList p o).any (poisEl p o.b f.width)) ∧ InRegisters s t u p p1 (p.pc + 4)) ∧
    ∀ _ : VReady s u p (.vfsumrT u o), ∃ t p1, exec (.vfsumrT u o) s = .next t ∧
      Written0 p p1 o.d f.width (encSat f p.satinf ((treeRoot f p.satinf (levels p.vl) (treeAt p o f)).add (fel p f o.a 0)))
        (poisEl p o.a f.width 0 || (actList p o).any (poisEl p o.b f.width)) ∧ InRegisters s t u p p1 (p.pc + 4)) ∧
  ∀ e ∈ vredOps, ∀ (u : VUnit) (o : VFields) (s : State) (p : Prog), VReady s u p (e.1 u o) → o.m1 = false → o.z = false →
    p.vl = 0 → ∃ t, exec (e.1 u o) s = .next t ∧ InRegisters s t u p p (p.pc + 4)

/-- VARGMAXR and VARGMINR on signed integers (R134): xd takes the lowest index of a greatest (least) active element, or
all ones where none is active; on floating point they complete and write some index to xd, that of the first NaN where an
active element is NaN. -/
def Sys2Proof.Parts.VectorArgReductions : Prop :=
  (∀ (u : VUnit) (o : VFields) (s : State) (p : Prog), o.m1 = false → o.z = false → o.a = 0 →
    (∀ k, Act p o k → poisEl p o.b p.ew k = false) →
    (VReady s u p (.vargmaxr u o) → ∃ t p1 v, exec (.vargmaxr u o) s = .next t ∧ XWritten p p1 o.d v ∧
      InRegisters s t u p p1 (p.pc + 4) ∧
      ((∀ k, ¬ Act p o k) → v = 0xFFFFFFFFFFFFFFFF) ∧
      ((∃ k, Act p o k) → Act p o v.toNat ∧ ∀ k, Act p o k →
        (el p o.b p.ew k).toInt ≤ (el p o.b p.ew v.toNat).toInt ∧
        (k < v.toNat → (el p o.b p.ew k).toInt < (el p o.b p.ew v.toNat).toInt))) ∧
    ∀ _ : VReady s u p (.vargminr u o), ∃ t p1 v, exec (.vargminr u o) s = .next t ∧ XWritten p p1 o.d v ∧
      InRegisters s t u p p1 (p.pc + 4) ∧
      ((∀ k, ¬ Act p o k) → v = 0xFFFFFFFFFFFFFFFF) ∧
      ((∃ k, Act p o k) → Act p o v.toNat ∧ ∀ k, Act p o k →
        (el p o.b p.ew v.toNat).toInt ≤ (el p o.b p.ew k).toInt ∧
        (k < v.toNat → (el p o.b p.ew v.toNat).toInt < (el p o.b p.ew k).toInt))) ∧
  ∀ (u : VUnit) (o : VFields) (s : State) (p : Prog) (f : Fmt), o.m1 = true → o.z = false → o.a = 0 →
    p.fpFmt = some f → (∀ k, Act p o k → poisEl p o.b p.ew k = false) →
    (VReady s u p (.vargmaxr u o) → ∃ t p1 v, exec (.vargmaxr u o) s = .next t ∧ XWritten p p1 o.d v ∧
      InRegisters s t u p p1 (p.pc + 4) ∧
      ∀ k, Act p o k → fel p f o.b k = .nan → (∀ j, Act p o j → fel p f o.b j = .nan → k ≤ j) → v.toNat = k) ∧
    ∀ _ : VReady s u p (.vargminr u o), ∃ t p1 v, exec (.vargminr u o) s = .next t ∧ XWritten p p1 o.d v ∧
      InRegisters s t u p p1 (p.pc + 4) ∧
      ∀ k, Act p o k → fel p f o.b k = .nan → (∀ j, Act p o j → fel p f o.b j = .nan → k ≤ j) → v.toNat = k

/-- Reductions of the vector engine, of values and of positions. -/
def Obligations.VectorReductionsAll : Prop := Parts.VectorReductions ∧ Parts.VectorArgReductions

/-- The segmented scans (R141), on sources without poison: element k takes the combination of its segment's active
elements up to it, or before it where M1 is 1. -/
def Sys2Proof.Parts.VectorScans : Prop :=
  (∀ e ∈ vscanOps, ∀ (u : VUnit) (o : VFields) (s : State) (p : Prog), VReady s u p (e.1 u o) → o.a.val < 8 → Clean p o.b →
    ∃ t p1, exec (e.1 u o) s = .next t ∧
      Written p p1 o p.ew 1 p.vl
        (fun k => (scanned p o (e.2.1 p.ew) (e.2.2 p.ew) (el p o.b p.ew) k).toNat) (fun _ => false) ∧
      InRegisters s t u p p1 (p.pc + 4)) ∧
  ∀ e ∈ vfscanOps, ∀ (u : VUnit) (o : VFields) (s : State) (p : Prog) (f : Fmt), VReady s u p (e.1 u o) → o.a.val < 8 →
    Clean p o.b → p.fpFmt = some f →
    ∃ t p1, exec (e.1 u o) s = .next t ∧
      Written p p1 o f.width 1 p.vl
        (fun k => encSat f p.satinf (scanned p o e.2.1 (e.2.2 f p.satinf) (fel p f o.b) k)) (fun _ => false) ∧
      InRegisters s t u p p1 (p.pc + 4)

/-- Histograms and permutations (R142, R143), on sources without poison. -/
def Sys2Proof.Parts.VectorPermutations : Prop :=
  ∀ (u : VUnit) (o : VFields) (s : State) (p : Prog), o.m1 = false → Clean p o.b → Clean p o.a →
    (o.a = 0 →
      (p.vl ≠ 0 → VReady s u p (.vhist u o) → ∃ t p1, exec (.vhist u o) s = .next t ∧ InRegisters s t u p p1 (p.pc + 4) ∧
        (∀ b, b < 256 → el p1 o.d 32 b =
          el p o.d 32 b + BitVec.ofNat 32 ((actList p o).filter fun k => (el p o.b p.ew k).toNat == b).length) ∧
        (∀ i : Fin 32, i ≠ o.d → p1.vr i = p.vr i) ∧ p1 = { p with v := p1.v, pois := p1.pois }) ∧
      (VReady s u p (.vpack u o) → ∃ t p1, exec (.vpack u o) s = .next t ∧ InRegisters s t u p p1 (p.pc + 4) ∧
        (∀ k, p.ew * (k + 1) ≤ 8192 → el p1 o.d p.ew k =
          match (actList p o)[k]? with
          | some j => el p o.b p.ew j
          | none => if k < p.vl ∧ o.z = true then 0 else el p o.d p.ew k) ∧
        (∀ i : Fin 32, i ≠ o.d → p1.vr i = p.vr i) ∧ p1 = { p with v := p1.v, pois := p1.pois }) ∧
      (VReady s u p (.vspread u o) → ∃ t p1, exec (.vspread u o) s = .next t ∧
        Written p p1 o p.ew 1 p.vl (fun k => (el p o.b p.ew ((actList p o).filter (· < k)).length).toNat) (fun _ => false) ∧
        InRegisters s t u p p1 (p.pc + 4)) ∧
      (o.b = 0 → VReady s u p (.vindex u o) → ∃ t p1, exec (.vindex u o) s = .next t ∧
        Written p p1 o p.ew 1 p.vl (fun k => k) (fun _ => false) ∧ InRegisters s t u p p1 (p.pc + 4))) ∧
    ∀ _ : VReady s u p (.vpick u o), ∃ t p1, exec (.vpick u o) s = .next t ∧
      Written p p1 o p.ew 1 p.vl (fun k => if (el p o.a p.ew k).toNat < 8192 / p.ew
        then (el p o.b p.ew (el p o.a p.ew k).toNat).toNat else 0) (fun _ => false) ∧
      InRegisters s t u p p1 (p.pc + 4)

/-- Scans and permutations of the vector engine. -/
def Obligations.VectorScansAndPermutations : Prop := Parts.VectorScans ∧ Parts.VectorPermutations

namespace Sys2Proof.Claims
open Sys2Proof Sys2Proof.Machine

/-- Index lane `k` of vs2, 32 or 64 bits wide (R137). -/
def idx (p : Prog) (o : VFields) (wide : Bool) (k : Nat) : Nat :=
  if wide then (el p o.b 64 k).toNat else (el p o.b 32 k).toNat

/-- The address of element `k` in the modes 0 (unit stride), 1 (strided) and 2 (indexed) of R137, modulo 2^64. -/
def vaddr (p : Prog) (o : VFields) (fn : BitVec 3) (k : Nat) : Nat :=
  (match fn.toNat % 4 with
    | 0 => (p.xr o.a).toNat + k * (p.ew / 8)
    | 1 => (p.xr o.a).toNat + k * (p.xr o.b).toNat
    | _ => (p.xr o.a).toNat + idx p o (fn.getLsbD 2) k * (p.ew / 8)) % 2 ^ 64

/-- Every active element of an element access names clean bytes of the package's own memory that may be read or written now, as
`ok` says, and in the indexed mode its index lies in vs2 and is not poison; the field that the mode does not use is 0. -/
def ElemsOk (ok : State → Nat → Nat → Prop) (s : State) (p : Prog) (o : VFields) (fn : BitVec 3) : Prop :=
  fn.toNat % 4 < 3 ∧ o.m1 = false ∧ (fn.toNat % 4 = 0 → o.b = 0) ∧
  ∀ k, Act p o k → ok s (vaddr p o fn k) (p.ew / 8) ∧
    (fn.toNat % 4 = 2 → let w := if fn.getLsbD 2 then 64 else 32; w * (k + 1) ≤ 8192 ∧ poisEl p o.b w k = false)

/-- The bytes that the active elements of an element access name, at device addresses. -/
def Touched (p : Prog) (o : VFields) (fn : BitVec 3) (b : Nat) : Prop :=
  ∃ k, Act p o k ∧ devAddr (vaddr p o fn k) ≤ b ∧ b < devAddr (vaddr p o fn k) + p.ew / 8

/-- The whole register named by xs1 (mode 3): aligned to 64 bytes, clean, in the package's own memory. -/
def WholeOk (ok : State → Nat → Nat → Prop) (s : State) (p : Prog) (o : VFields) : Prop :=
  o.m1 = false ∧ o.b = 0 ∧ (p.xr o.a).toNat % 64 = 0 ∧ (p.xr o.a).toNat % 2 ^ 48 + 1024 ≤ 2 ^ 48 ∧
  ∀ g, g < 32 → ok s ((p.xr o.a).toNat + 32 * g) 32

/-- The vector control registers: their width, and their value (Table 5-3). -/
def vcrs : List (Nat × Nat × (Prog → Nat)) :=
  [(0, 32, fun p => p.vl), (1, 32, fun p => p.vtype.toNat), (2, 32, fun p => p.vstream.toNat),
   (3, 24, fun p => p.vdraw.toNat), (4, 64, fun p => p.vebase.toNat), (5, 64, fun p => p.vestep.toNat),
   (6, 16, fun p => p.vmonid.toNat), (7, 32, fun p => p.vsmbeta.toNat), (8, 32, fun p => p.vcatt.toNat)]

end Sys2Proof.Claims

/-- VLD (R137) from the package's own memory, unreplicated: each active element takes the bytes its address names,
little-endian, in the unit-stride, strided and indexed modes; a whole-register load takes 1,024 bytes whatever VL, the
mask and EW are. Nothing is stored. -/
def Obligations.VectorLoads : Prop :=
  (∀ (u : VUnit) (fn : BitVec 3) (o : VFields) (s : State) (p : Prog), VReady s u p (.vld u fn o) → ElemsOk OwnRead s p o fn →
    (∀ k, Act p o k → s.replLoad (vaddr p o fn k) = none) →
    ∃ t p1, exec (.vld u fn o) s = .next t ∧
      Written p p1 o p.ew 1 p.vl (fun k => s.num (devAddr (vaddr p o fn k)) (p.ew / 8)) (fun _ => false) ∧
      Completed s t u p p1 (p.pc + 4) ∧ OtherRegs s t u [Reg.hubCnt 4] ∧ NoStore s t) ∧
  (∀ (u : VUnit) (fn : BitVec 3) (o : VFields) (s : State) (p : Prog), VReady s u p (.vld u fn o) → fn.toNat % 4 = 3 →
    p.vl ≠ 0 →
    o.b = 0 → WholeOk OwnRead s p o → (∀ g, g < 32 → s.replLoad ((p.xr o.a).toNat + 32 * g) = none) →
    ∃ t p1, exec (.vld u fn o) s = .next t ∧
      (∀ k, k < 1024 → el p1 o.d 8 k = s.byte (devAddr (p.xr o.a).toNat + k)) ∧
      (∀ i : Fin 32, i ≠ o.d → p1.vr i = p.vr i) ∧ p1 = { p with v := p1.v, pois := p1.pois } ∧
      Completed s t u p p1 (p.pc + 4) ∧ OtherRegs s t u [Reg.hubCnt 4] ∧ NoStore s t)

/-- VST (R137, R138) to the package's own memory, with no store held, from a register without poison: where several
active elements name a byte, memory holds that of the highest; every byte that none names reads as before; a
whole-register store writes all 1,024 bytes. -/
def Sys2Proof.Parts.VectorStores : Prop :=
  (∀ (u : VUnit) (fn : BitVec 3) (o : VFields) (s : State) (p : Prog), VReady s u p (.vst u fn o) → ElemsOk OwnWrite s p o fn →
    o.z = false →
    Clean p o.d → (∀ k, Act p o k → NotHeld s u (vaddr p o fn k)) →
    ∃ t, exec (.vst u fn o) s = .next t ∧ Completed s t u p p (p.pc + 4) ∧ OtherRegs s t u [Reg.hubCnt 5] ∧
      (∀ k j, Act p o k → j < p.ew / 8 →
        (∀ k', Act p o k' → k < k' → ¬ (devAddr (vaddr p o fn k') ≤ devAddr (vaddr p o fn k) + j ∧
          devAddr (vaddr p o fn k) + j < devAddr (vaddr p o fn k') + p.ew / 8)) →
        t.byte (devAddr (vaddr p o fn k) + j) = (el p o.d p.ew k).extractLsb' (8 * j) 8) ∧
      (∀ b, ¬ Touched p o fn b → t.byte b = s.byte b) ∧ (∀ g, t.poisoned g = s.poisoned g) ∧
      t = { s with mem := t.mem, poison := t.poison, progs := t.progs, regs := t.regs }) ∧
  (∀ (u : VUnit) (fn : BitVec 3) (o : VFields) (s : State) (p : Prog), VReady s u p (.vst u fn o) → fn.toNat % 4 = 3 →
    p.vl ≠ 0 →
    WholeOk OwnWrite s p o → Clean p o.d → (∀ g, g < 32 → NotHeld s u ((p.xr o.a).toNat + 32 * g)) →
    ∃ t, exec (.vst u fn o) s = .next t ∧ Completed s t u p p (p.pc + 4) ∧ OtherRegs s t u [Reg.hubCnt 5] ∧
      (∀ k, k < 1024 → t.byte (devAddr (p.xr o.a).toNat + k) = el p o.d 8 k) ∧
      (∀ b, (b < devAddr (p.xr o.a).toNat ∨ devAddr (p.xr o.a).toNat + 1024 ≤ b) → t.byte b = s.byte b) ∧
      t = { s with mem := t.mem, poison := t.poison, progs := t.progs, regs := t.regs })

/-- VSTADD (R139) of integers, to the package's own memory with no store held: each named address takes its old value
plus the sum of the active elements that name it, modulo 2^EW; every other byte reads as before. That FMT must name no
floating-point format of width EW is the model's reading (log entry 13). -/
def Sys2Proof.Parts.VectorScatterAdd : Prop :=
  ∀ (u : VUnit) (wide : Bool) (o : VFields) (s : State) (p : Prog), VReady s u p (.vstadd u wide o) →
    ElemsOk OwnWrite s p o (if wide then 6 else 2) → o.z = false → Clean p o.d → p.fpFmt = none →
    (∀ k, Act p o k → NotHeld s u (vaddr p o (if wide then 6 else 2) k)) →
    (∀ k j, Act p o k → Act p o j → devAddr (vaddr p o (if wide then 6 else 2) k) =
      devAddr (vaddr p o (if wide then 6 else 2) j) →
      vaddr p o (if wide then 6 else 2) k = vaddr p o (if wide then 6 else 2) j) →
    ∃ t, exec (.vstadd u wide o) s = .next t ∧ Completed s t u p p (p.pc + 4) ∧ OtherRegs s t u [Reg.hubCnt 5] ∧
      (∀ k, Act p o k → t.num (devAddr (vaddr p o (if wide then 6 else 2) k)) (p.ew / 8) =
        (s.num (devAddr (vaddr p o (if wide then 6 else 2) k)) (p.ew / 8) +
          (((actList p o).filter fun j => vaddr p o (if wide then 6 else 2) j == vaddr p o (if wide then 6 else 2) k).map
            fun j => (el p o.d p.ew j).toNat).sum) % 2 ^ p.ew) ∧
      (∀ b, ¬ Touched p o (if wide then 6 else 2) b → t.byte b = s.byte b) ∧
      t = { s with mem := t.mem, poison := t.poison, progs := t.progs, regs := t.regs }

/-- Vector stores and scatter-add. -/
def Obligations.VectorStoresAndScatter : Prop := Parts.VectorStores ∧ Parts.VectorScatterAdd

/-- VLSET and VLSETI (R122): VL is the requested count or VLCAP, whichever is less, and xd the count that is left; RND of
3 or a reserved bit of VTYPE sets VBAD and VL = 0 (R121). -/
def Obligations.VectorConfiguration : Prop :=
  (∀ (u : VUnit) (o : VFields) (s : State) (p : Prog), Ready s u p (.vlset u o) → o.msk = 0 → o.m1 = false → o.z = false →
    ∃ t p1, exec (.vlset u o) s = .next t ∧ InRegisters s t u p p1 (p.pc + 4) ∧
      (if (p.xr o.b).extractLsb' 7 2 = 3 ∨ (p.xr o.b).extractLsb' 11 20 ≠ 0 then
        p1.vl = 0 ∧ p1.vbad = true ∧ XWritten p { p1 with vl := p.vl, vtype := p.vtype } o.d (p.xr o.a)
      else
        p1.vl = min (p.xr o.a).toNat (8192 / p1.ew) ∧ p1.vtype = ((p.xr o.b).extractLsb' 0 31).zeroExtend 32 ∧
          XWritten p { p1 with vl := p.vl, vtype := p.vtype } o.d (BitVec.ofNat 64 ((p.xr o.a).toNat - p1.vl)))) ∧
  (∀ (u : VUnit) (mon : Bool) (o : VFields) (s : State) (p : Prog), Ready s u p (.vlseti u mon o) →
    ∃ t p1, exec (.vlseti u mon o) s = .next t ∧ InRegisters s t u p p1 (p.pc + 4) ∧
      (if o.b.val / 4 % 4 = 3 then
        p1.vl = 0 ∧ p1.vbad = true ∧ XWritten p { p1 with vl := p.vl, vtype := p.vtype } o.d (p.xr o.a)
      else
        p1.vl = min (p.xr o.a).toNat (8192 / p1.ew) ∧
          p1.vtype.toNat = o.z.toNat + 2 * o.m1.toNat + 4 * o.msk.val + 32 * o.b.val + 1024 * mon.toNat ∧
          XWritten p { p1 with vl := p.vl, vtype := p.vtype } o.d (BitVec.ofNat 64 ((p.xr o.a).toNat - p1.vl))))

/-- VCRRD and VCRWR (R124): a listed control register is read and an unlisted index reads 0; a write sets the register's
own bits, and one to a read-only register or to an index not listed is ignored. -/
def Obligations.VectorControlRegisters : Prop :=
  (∀ (u : VUnit) (o : VFields) (s : State) (p : Prog), Ready s u p (.vcrrd u o) → o.b = 0 → o.msk = 0 → o.m1 = false →
    o.z = false →
    ∃ t p1, exec (.vcrrd u o) s = .next t ∧ InRegisters s t u p p1 (p.pc + 4) ∧
      (∀ e ∈ vcrs, o.a.val = e.1 → XWritten p p1 o.d (BitVec.ofNat 64 (e.2.2 p))) ∧
      (8 < o.a.val → XWritten p p1 o.d 0)) ∧
  ∀ (u : VUnit) (o : VFields) (s : State) (p : Prog), Ready s u p (.vcrwr u o) → o.d = 0 → o.msk = 0 → o.m1 = false →
    o.z = false →
    ∃ t p1, exec (.vcrwr u o) s = .next t ∧ InRegisters s t u p p1 (p.pc + 4) ∧
      (∀ e ∈ vcrs, e.2.2 p1 = if o.a.val = e.1 ∧ 2 ≤ e.1 then (p.xr o.b).toNat % 2 ^ e.2.1 else e.2.2 p) ∧
      p1 = { p with vstream := p1.vstream, vdraw := p1.vdraw, vebase := p1.vebase, vestep := p1.vestep, vmonid := p1.vmonid, vsmbeta := p1.vsmbeta, vcatt := p1.vcatt }

namespace Sys2Proof.Claims
open Sys2Proof Sys2Proof.Machine

/-- Element (i, j) of a held block, +0 beyond its rows and columns (R136). -/
def heldEl (h : HeldBlock) (i j : Nat) : AccEl := ((h.rows[i]?).bind fun r => r[j]?).getD ⟨0, 0, -32768, false⟩

/-- The elements of row `r` of `rl` elements (R145): index, activity and value. -/
def scoreRow (p : Prog) (o : VFields) (f : Fmt) (rl r : Nat) : List (Nat × Bool × Machine.Num) :=
  ((List.range p.vl).filter fun k => k / rl == r).map fun k =>
    (k, (o.msk == 0 || (p.mr o.msk).getLsbD k), fel p f o.b k)

end Sys2Proof.Claims

/-- VACCR (R136) on a tile that holds a block: row xs1 of the block is read, in converted mode rounded once under VTYPE,
in raw mode as the exact accumulator; the block stays held. -/
def Sys2Proof.Parts.AccumulatorReads : Prop :=
  ∀ (i : Fin 256) (o : VFields) (s : State) (p : Prog) (h : HeldBlock),
    s.heldOf i = some h → o.b = 0 → (p.xr o.a).toNat ≤ 127 →
    (∀ f, p.fpFmt = some f → (f = .b32 ∨ f = .b64) → o.m1 = false →
      VReady s (.tile i) p (.vaccr (.tile i) o) → ∃ t p1, exec (.vaccr (.tile i) o) s = .next t ∧
        Written p p1 o f.width 1 (min p.vl 64)
          (fun j => (p.roundEl f j ((heldEl h (p.xr o.a).toNat j).value (unitOf h.slices (heldEl h (p.xr o.a).toNat j)))).1)
          (fun j => (heldEl h (p.xr o.a).toNat j).poison) ∧
        InRegisters s t (.tile i) p p1 (p.pc + 4)) ∧
    (o.m1 = true → p.ew = 64 → o.d.val % 2 = 0 → h.slices = 0 →
      VReady s (.tile i) p (.vaccr (.tile i) o) → ∃ t p1, exec (.vaccr (.tile i) o) s = .next t ∧
        InRegisters s t (.tile i) p p1 (p.pc + 4) ∧
        ∀ j, j < 64 → Act p o j →
          el p1 o.d 64 j = BitVec.ofInt 64 (heldEl h (p.xr o.a).toNat j).acc ∧
          (el p1 (o.d + 1) 64 j).extractLsb' 0 32 = (BitVec.ofInt 96 (heldEl h (p.xr o.a).toNat j).acc).extractLsb' 64 32 ∧
          (el p1 (o.d + 1) 64 j).extractLsb' 32 16 = BitVec.ofInt 16 (heldEl h (p.xr o.a).toNat j).ex)

/-- VSMAX and VCATD (R145 to R149, R222): every row of RL = xs1 scores is transformed by itself, VSMAX writing each
element below VL whether active or not and VCATD one index for each row. -/
def Sys2Proof.Parts.VectorRowFunctions : Prop :=
  ∀ (u : VUnit) (o : VFields) (s : State) (p : Prog) (f : Fmt), p.vl ≠ 0 → o.m1 = false →
    p.fpFmt = some f → (f = .b32 ∨ f = .b16 ∨ f = .bf16) → (p.xr o.a).toNat ≠ 0 →
    (∀ k, Act p o k → poisEl p o.b f.width k = false) →
    ((decodeNum .b32 p.vsmbeta.toNat).isFin = true → Machine.Num.lt .zero (decodeNum .b32 p.vsmbeta.toNat) = true →
      (p.xr o.a).toNat ≤ 8192 / p.ew →
      VReady s u p (.vsmax u o) → ∃ t p1, exec (.vsmax u o) s = .next t ∧ Finished t u p p1 ∧
        p1 = { p with v := p1.v, pois := p1.pois } ∧
        (∀ k, k < p.vl → (k, (el p1 o.d f.width k).toNat) ∈
          (softRow f (decodeNum .b32 p.vsmbeta.toNat) (scoreRow p o f (p.xr o.a).toNat (k / (p.xr o.a).toNat))).1) ∧
        (∀ k, p.vl ≤ k → f.width * (k + 1) ≤ 8192 → el p1 o.d f.width k = el p o.d f.width k) ∧
        ∀ i : Fin 32, i ≠ o.d → p1.vr i = p.vr i) ∧
    (o.z = false → (decodeNum .b32 p.vcatt.toNat).isFin = true → (decodeNum .b32 p.vcatt.toNat).isNeg = false →
      VReady s u p (.vcatd u o) → ∃ t p1, exec (.vcatd u o) s = .next t ∧ Finished t u p p1 ∧
        p1 = { p with v := p1.v, pois := p1.pois } ∧
        (∀ r, r * (p.xr o.a).toNat < p.vl → r < 256 → (el p1 o.d 32 r).toNat =
          (p.catRow r (decodeNum .b32 p.vcatt.toNat) (scoreRow p o f (p.xr o.a).toNat r)).1 % 2 ^ 32) ∧
        ∀ i : Fin 32, i ≠ o.d → p1.vr i = p.vr i)

/-- Reads of held accumulator blocks and the row functions over them. -/
def Obligations.AccumulatorInstructions : Prop := Parts.AccumulatorReads ∧ Parts.VectorRowFunctions

/-- VBERN and VRAND (R149, R220): the draws of the bobbin generator, at purpose 0x02 and at the purpose in xs1[7:0], with
element index VEBASE + k × VESTEP. -/
def Obligations.VectorDraws : Prop :=
  ∀ (u : VUnit) (o : VFields) (s : State) (p : Prog), o.m1 = false → o.b = 0 →
    (o.d.val < 8 → VReady s u p (.vbern u o) → ∃ t p1, exec (.vbern u o) s = .next t ∧
      MaskWritten p p1 o (fun k => decide (bobbinWord (p.key 2) ((p.vebase + BitVec.ofNat 64 k * p.vestep).toNat) 0 % 65536 <
        (p.xr o.a).toNat % 65536)) ∧ InRegisters s t u p p1 (p.pc + 4)) ∧
    (p.ew = 32 → 0x10 ≤ (p.xr o.a).toNat % 256 → VReady s u p (.vrand u o) → ∃ t p1, exec (.vrand u o) s = .next t ∧
      Written p p1 o 32 1 p.vl
        (fun k => bobbinWord (p.key ((p.xr o.a).toNat % 256)) ((p.vebase + BitVec.ofNat 64 k * p.vestep).toNat) 0)
        (fun _ => false) ∧ InRegisters s t u p p1 (p.pc + 4))

namespace Sys2Proof.Claims
open Sys2Proof Sys2Proof.Machine

/-- Nothing of the program is outstanding: no held store of its unit, and no unacknowledged request to a node that it
wrote (R138, R283). -/
def Fenced (s : State) (u : VUnit) (p : Prog) : Prop :=
  (∀ r ∈ s.heldReqs, r ≠ progReq u) ∧ ∀ d ∈ p.dests, s.outstTo d = 0

/-- The core control registers of Table 7-4 but CYCLE. -/
def coreReg (s : State) (c : Fin 256) (p : Prog) (n : Nat) : W64 :=
  if n = 0x000 then BitVec.ofNat 64 c else if n = 0x001 then s.reg Reg.timStitch
  else if n = 0x002 then (if s.time.inPleat then BitVec.ofNat 64 (s.regF Reg.timStatus 4 6) else 0xFF)
  else if n = 0x003 then (if s.dlineOf p.act then 1 else 0) else 0

/-- A program has ended with a status: it is gone, or waits for its stores to be acknowledged. -/
def EndedWith (t : State) (u : VUnit) (st : Nat) : Prop :=
  t.progOf u = none ∨ ∃ q, t.progOf u = some q ∧ q.ended = some st

/-- A program was interrupted: it is saved and will run again from the same PC. -/
def Saved (s t : State) (u : VUnit) (p : Prog) : Prop :=
  t.progOf u = some { p with saved := true, wait := .no } ∧ ∀ v, v ≠ u → t.progOf v = s.progOf v

/-- The bytes of a program's context area, as its unit reads them. -/
def ctxOf (s : State) (u : VUnit) (p : Prog) : List Byte := (s.gload (progReq u) p.ctx 296960).1

/-- All of the context area is there: what lies on another node has come, and no line of the package's own is busy. -/
def CtxThere (s : State) (u : VUnit) (p : Prog) : Prop :=
  ∀ e ∈ (s.gloadSt (progReq u) p.ctx 296960).accesses, e.req = progReq u → (∃ rep, e.kind = .read rep) ∧ e.data.isSome = true

/-- The little-endian number of `n` bytes at an offset of a list. -/
def le (b : List Byte) (off n : Nat) : Nat := bytesNat ((b.drop off).take n)

end Sys2Proof.Claims

/-- Fences, waits, signals and the control registers of the scalar base, and VFENCE (R111, R138, R178, R179, R283): a
fence with nothing outstanding completes, another waits and FENCE_COMPLETE completes it once nothing is; WAITSC waits for
its counter on a core, and SYNC_WAIT_SATISFIED completes it; SIGSC increments its counter; CRRD reads Table 7-4, and CRWR
changes nothing. That WAITSC on a tile does not wait is the model's reading of R156. -/
def Sys2Proof.Parts.ProgramWaitsAndControl : Prop :=
  ∀ (u : VUnit) (s : State) (p : Prog),
    (Fenced s u p → Ready s u p (.fence u) → ∃ t, exec (.fence u) s = .next t ∧ InRegisters s t u p p (p.pc + 4)) ∧
    (¬ Fenced s u p → Ready s u p (.fence u) → ∃ t, exec (.fence u) s = .next t ∧
      t.progOf u = some { p with wait := .fence }) ∧
    (∀ o : VFields, p.vbad = false → o.b = 0 → o.a = 0 → o.d = 0 → o.msk = 0 → o.m1 = false → o.z = false → Fenced s u p →
      Ready s u p (.vfence u o) → ∃ t, exec (.vfence u o) s = .next t ∧ InRegisters s t u p p (p.pc + 4)) ∧
    (∀ t q, t.progOf u = some q → q.wait = .fence → q.saved = false → q.ended = none → Fenced t u q →
      ∃ t', exec (.fenceComplete u) t = .next t' ∧ InRegisters t t' u q { q with wait := .no } (q.pc + 4)) ∧
    (∀ xs1 xs2 : Fin 32, (p.xr xs1).toNat < 256 →
      ((∃ i, u = .tile i) ∨ (p.xr xs2).toNat ≤ s.syncCtr (p.xr xs1).toNat →
        Ready s u p (.waitsc u xs1 xs2) → ∃ t, exec (.waitsc u xs1 xs2) s = .next t ∧ InRegisters s t u p p (p.pc + 4)) ∧
      (∀ c, u = .core c → s.syncCtr (p.xr xs1).toNat < (p.xr xs2).toNat →
        Ready s u p (.waitsc u xs1 xs2) → ∃ t, exec (.waitsc u xs1 xs2) s = .next t ∧
          t.progOf u = some { p with wait := .waitsc (p.xr xs1).toNat (p.xr xs2).toNat })) ∧
    (∀ t q id n, t.progOf u = some q → q.wait = .waitsc id n → q.saved = false → q.ended = none → n ≤ t.syncCtr id →
      ∃ t', exec (.syncWaitSatisfied (.program u)) t = .next t' ∧
        InRegisters t t' u q { q with wait := .no } (q.pc + 4)) ∧
    (∀ xs1 : Fin 32, (p.xr xs1).toNat < 256 → Fenced s u p →
      Ready s u p (.sigsc u xs1) → ∃ t, exec (.sigsc u xs1) s = .next t ∧ Completed s t u p p (p.pc + 4) ∧
        (∀ i, t.syncCtr i = if i = (p.xr xs1).toNat then min (s.syncCtr i + 1) 65535 else s.syncCtr i) ∧ t.mem = s.mem) ∧
    (∀ (xd : Fin 32) (imm : BitVec 11),
      Ready s u p (.crrd u xd imm) → ∃ t p1 v, exec (.crrd u xd imm) s = .next t ∧ XWritten p p1 xd v ∧
        InRegisters s t u p p1 (p.pc + 4) ∧
        ∀ c, u = .core c → imm ≠ 0x010 → v = coreReg s c p imm.toNat) ∧
    ∀ (xs1 : Fin 32) (imm : BitVec 11), Ready s u p (.crwr u xs1 imm) → ∃ t, exec (.crwr u xs1 imm) s = .next t ∧
      InRegisters s t u p p (p.pc + 4)

/-- The end of a program (R151, R156, R181): END and VEND end it with status 0, TRAP and VTRAP with VP_TRAP, 0x36, leaving
the PC of the instruction in the fault register; the other terminating faults are those of an instruction whose
configuration is not valid (VP_ILLEGAL, 0x30) and of a misaligned load (VP_MISALIGN, 0x31). On a tile the task then waits
for TASK_COMPLETE with the status. -/
def Sys2Proof.Parts.ProgramEnds : Prop :=
  ∀ (u : VUnit) (s : State) (p : Prog),
    (Ready s u p (.endp u) → ∃ t, exec (.endp u) s = .next t ∧ EndedWith t u 0) ∧
    (∀ o : VFields, p.vbad = false → o.b = 0 → o.a = 0 → o.d = 0 → o.msk = 0 → o.m1 = false → o.z = false →
      Ready s u p (.vend u o) → ∃ t, exec (.vend u o) s = .next t ∧ EndedWith t u 0 ∧
        ∀ i rt, u = .tile i → s.runOf i = some rt → t.runOf i = some { rt with prog := false, status := 0 }) ∧
    (∀ imm : BitVec 11, Ready s u p (.trap u imm) → ∃ t, exec (.trap u imm) s = .next t ∧ EndedWith t u 0x36 ∧
      t.reg (veFaultPc u) = p.pc) ∧
    (∀ o : VFields, p.vbad = false → o.d = 0 → o.msk = 0 → o.m1 = false → o.z = false →
      Ready s u p (.vtrap u o) → ∃ t, exec (.vtrap u o) s = .next t ∧ EndedWith t u 0x36 ∧ t.reg (veFaultPc u) = p.pc ∧
        ∀ i rt, u = .tile i → s.runOf i = some rt → t.runOf i = some { rt with prog := false, status := 0x36 }) ∧
    (∀ o : VFields, p.vbad = true →
      Ready s u p (.vadd u o) → ∃ t, exec (.vadd u o) s = .next t ∧ EndedWith t u 0x30 ∧ t.reg (veFaultPc u) = p.pc) ∧
    ∀ (xd xs1 : Fin 32) (imm : BitVec 11), addrOf p xs1 imm % 8 ≠ 0 →
      Ready s u p (.ldD u xd xs1 imm) → ∃ t, exec (.ldD u xd xs1 imm) s = .next t ∧ EndedWith t u 0x31 ∧
        t.reg (veFaultPc u) = p.pc

/-- Interruption and resumption (R152, R153, R397): VE_INTERRUPT, and a debug halt under unlock level 2, save the context
and leave the program to be resumed; a debug halt below level 2 changes nothing; CONTEXT_RESTORE reads a context whose
format and CRC are right and goes on with its PC, VL, VTYPE and registers, and ends the program with VP_BAD_CTX, 0x35,
where they are not. -/
def Sys2Proof.Parts.InterruptAndRestore : Prop :=
  (∀ (u : VUnit) (s : State) (p : Prog), s.progOf u = some p → p.ended = none → p.saved = false →
    (∃ t, exec (.veInterrupt u) s = .next t ∧ Saved s t u p) ∧
    (2 ≤ s.dbgLevel → ∃ t, exec (.debugHalt u) s = .next t ∧ Saved s t u p) ∧
    (s.dbgLevel < 2 → exec (.debugHalt u) s = .next s)) ∧
  ∀ (u : VUnit) (s : State) (p : Prog), s.progOf u = some p → p.saved = true → s.unitParked u = false →
    (s.gload (progReq u) p.ctx 0x8800).2 = false → CtxThere s u p →
    (le (ctxOf s u p) 0 4 = 1 → crc64 ((ctxOf s u p).drop 0x40) = le (ctxOf s u p) 0x20 8 →
      ∃ t q, exec (.contextRestore u) s = .next t ∧ t.progOf u = some q ∧ q.saved = false ∧ q.wait = .no ∧
        q.pc.toNat = le (ctxOf s u p) 0x10 8 ∧ q.vl = le (ctxOf s u p) 4 4 ∧ q.vtype.toNat = le (ctxOf s u p) 8 4 ∧
        (∀ i : Fin 32, i ≠ 0 → (q.xr i).toNat = le (ctxOf s u p) (0x40 + 8 * i) 8) ∧
        (∀ i : Fin 32, (q.fr i).toNat = le (ctxOf s u p) (0x140 + 8 * i) 8) ∧
        (∀ i : Fin 8, (q.mr i).toNat = le (ctxOf s u p) (0x400 + 128 * i) 128) ∧
        (∀ i : Fin 32, (q.vr i).toNat = le (ctxOf s u p) (0x800 + 1024 * i) 1024)) ∧
    (le (ctxOf s u p) 0 4 ≠ 1 ∨ crc64 ((ctxOf s u p).drop 0x40) ≠ le (ctxOf s u p) 0x20 8 →
      ∃ t, exec (.contextRestore u) s = .next t ∧ EndedWith t u 0x35)

/-- What a unit does with the word at its PC (R151, R157, R158, R176, R177). Words of Tables 5-8 to 5-10 and 7-2 to 7-3 spell the
instructions that the tables list; a command that is not the one the word spells does nothing, since the word's own is the
program's next; a word that no table lists ends the program with VP_ILLEGAL, 0x30, whose MAJ and FN[5:4], bits 31:24 of
the word, TNS_VE_LAST_FAULT or SLV_VE_LAST_FAULT shows. -/
def Sys2Proof.Parts.InstructionFetch : Prop :=
  (∀ u, decodeVirulax u 0x00000000#32 = some (.add u 0 0 0) ∧
    decodeVirulax u 0xDC3018A6#32 = some (.vlseti u true ⟨false, 0, 6, 5, 1, true, false⟩) ∧
    decodeVirulax u 0xDCC22500#32 = some (.vsmax u ⟨false, 4, 9, 8, 0, false, false⟩) ∧
    decodeVirulax u 0x24000002#32 = some (.endp u) ∧ decodeVirulax u 0x28000000#32 = none) ∧
  ∀ (e : (VUnit → Fin 32 → Fin 32 → Fin 32 → Instr) × (W64 → W64 → W64)) (u : VUnit) (xd xs1 xs2 : Fin 32) (s : State)
    (p : Prog) (w : W32), e ∈ aluOps → s.progOf u = some p → s.fetchWord u = some w →
    (∀ j, decodeVirulax u w = some j → j ≠ e.1 u xd xs1 xs2 → exec (e.1 u xd xs1 xs2) s = .next s) ∧
    (decodeVirulax u w = none → p.wait = .no → (∀ x ∈ s.accesses, x.req ≠ progReq u) →
      ∃ t, exec (e.1 u xd xs1 xs2) s = .next t ∧ EndedWith t u 0x30 ∧ t.reg (veFaultPc u) = p.pc ∧
        t.reg (veLastFault u) = 0x30 + 256 * ((w.extractLsb' 24 8).zeroExtend 64))

/-- How programs wait, end, are interrupted and are resumed. -/
def Obligations.ProgramControl : Prop := Parts.InstructionFetch ∧ Parts.ProgramWaitsAndControl ∧ Parts.ProgramEnds ∧ Parts.InterruptAndRestore

namespace Sys2Proof.Claims
open Sys2Proof Sys2Proof.Machine

/-- The one byte at device address `a` may be stored now, and no event record is written meanwhile. -/
def PlainByte (s : State) (a : Nat) : Prop :=
  s.accessible a = true ∧ s.poisoned (a / 32) = false ∧ s.regB Reg.hubEvlogCfg 0 = false ∧ s.streamFails a = false ∧
  s.lineBusy (32 * (a / 32)) true = false

/-- A descriptor's SIGNAL_ID counter goes up by one and saturates, and no other counter changes; 0xFF names none
(R111). -/
def Signalled (s t : State) (id : Nat) : Prop :=
  ∀ i, t.syncCtr i = if id ≠ 0xFF ∧ i = id then min (s.syncCtr i + 1) 65535 else s.syncCtr i

/-- The task that a tile's queue starts with may start, and is well formed. -/
def TaskReady (s : State) (i : Fin 256) (kind : Nat) (ref : TaskRef) : Prop :=
  s.readyTask i kind = some ref ∧ s.tdescJudge (tdescOf ref.body) = 0

/-- The sum of a list of terms in the window with unit exponent `w`. -/
def accOf (w : Int) (l : List Machine.Num) : AccSum := l.foldl (AccSum.add w) ⟨0, 0, 0⟩

/-- An anchored partial of a list of terms. -/
def partOf (w ex : Int) (l : List Machine.Num) : Part := ⟨(accOf w l).acc, (accOf w l).cls, ex, 0, false⟩

end Sys2Proof.Claims

/-- Tile tasks (R83 to R113, R155): a well-formed task of its kind at the head of a tile's queue leaves the queue and runs,
once the data it reads of other nodes have come and the lines it reads are free (R85, R322); it ends with TT_OK or with one
of the codes of its kind; until then it asks for what it lacks and stays where it is. A VPROG starts a program with the
state of R155; a malformed task completes at once (R108). -/
def Sys2Proof.Parts.TileTasksRun : Prop :=
  ∀ (i : Fin 256) (s : State) (ref : TaskRef),
    (TaskReady s i 1 ref → ∀ fs,
      ((s.runProduct i ref (tdescOf ref.body) fs).lacks (tileReq i) = false →
        ∃ t st, exec (.taskMatmul i fs) s = .next t ∧
        t.runOf i = some ⟨ref, false, st⟩ ∧ st ∈ [0, 0x22, 0x25, 0x26] ∧ t.queueOf i = (s.queueOf i).tail ∧
        ∀ e ∈ t.accesses, e.req ≠ tileReq i) ∧
      ((s.runProduct i ref (tdescOf ref.body) fs).lacks (tileReq i) = true → ∃ t, exec (.taskMatmul i fs) s = .next t ∧
        t.tileQ = s.tileQ ∧ t.tileRun = s.tileRun ∧ t.mem = s.mem)) ∧
    (TaskReady s i 2 ref → ∀ fs,
      ((s.runProduct i ref (tdescOf ref.body) fs).lacks (tileReq i) = false →
        ∃ t st, exec (.taskSliced i fs) s = .next t ∧
        t.runOf i = some ⟨ref, false, st⟩ ∧ st ∈ [0, 0x22, 0x25, 0x26] ∧ t.queueOf i = (s.queueOf i).tail ∧
        ∀ e ∈ t.accesses, e.req ≠ tileReq i) ∧
      ((s.runProduct i ref (tdescOf ref.body) fs).lacks (tileReq i) = true → ∃ t, exec (.taskSliced i fs) s = .next t ∧
        t.tileQ = s.tileQ ∧ t.tileRun = s.tileRun ∧ t.mem = s.mem)) ∧
    (TaskReady s i 3 ref →
      ((s.runExponent i ref (tdescOf ref.body)).lacks (tileReq i) = false →
        ∃ t st, exec (.taskExponent i) s = .next t ∧
        t.runOf i = some ⟨ref, false, st⟩ ∧ st ∈ [0, 0x26] ∧ t.queueOf i = (s.queueOf i).tail ∧
        ∀ e ∈ t.accesses, e.req ≠ tileReq i) ∧
      ((s.runExponent i ref (tdescOf ref.body)).lacks (tileReq i) = true → ∃ t, exec (.taskExponent i) s = .next t ∧
        t.tileQ = s.tileQ ∧ t.tileRun = s.tileRun ∧ t.mem = s.mem)) ∧
    (TaskReady s i 4 ref →
      ((s.runCombine i ref (tdescOf ref.body)).lacks (tileReq i) = false →
        ∃ t st, exec (.taskCombine i) s = .next t ∧
        t.runOf i = some ⟨ref, false, st⟩ ∧ st ∈ [0, 0x23, 0x24, 0x26] ∧ t.queueOf i = (s.queueOf i).tail ∧
        ∀ e ∈ t.accesses, e.req ≠ tileReq i) ∧
      ((s.runCombine i ref (tdescOf ref.body)).lacks (tileReq i) = true → ∃ t, exec (.taskCombine i) s = .next t ∧
        t.tileQ = s.tileQ ∧ t.tileRun = s.tileRun ∧ t.mem = s.mem)) ∧
    (TaskReady s i 5 ref → (∀ e ∈ s.accesses, e.req ≠ tileReq i) →
      ∃ t q, exec (.taskVprog i) s = .next t ∧ t.runOf i = some ⟨ref, true, 0⟩ ∧
      t.queueOf i = (s.queueOf i).tail ∧ t.progOf (.tile i) = some q ∧
      q.pc = BitVec.ofNat 64 (tdescOf ref.body).aAddr ∧ q.vl = 0 ∧ q.vbad = true ∧ q.ctx = (tdescOf ref.body).cAddr ∧
      q.xr 1 = BitVec.ofNat 64 (tdescOf ref.body).m ∧ q.xr 2 = BitVec.ofNat 64 (tdescOf ref.body).n ∧
      q.xr 3 = BitVec.ofNat 64 (tdescOf ref.body).k ∧ q.xr 4 = BitVec.ofNat 64 (tdescOf ref.body).bAddr ∧
      (∀ k : Fin 32, 7 < k.val → q.xr k = 0) ∧ (∀ k : Fin 32, q.fr k = 0 ∧ q.vr k = 0) ∧ q.seed = s.reg Reg.bobSeed ∧
      ∀ v, v ≠ .tile i → t.progOf v = s.progOf v) ∧
    (∀ fs j, s.readyTask i 1 = some ref → s.tdescJudge (tdescOf ref.body) = j → j ≠ 0 →
      ∃ t, exec (.taskMatmul i fs) s = .next t ∧ t.runOf i = none ∧ t.queueOf i = (s.queueOf i).tail ∧
        Signalled s t (tdescOf ref.body).signalId)

/-- TASK_COMPLETE (R109, R111, R283): once every node that the tile wrote has acknowledged and no store of it is held, the
running task's status is written to its descriptor, its counter signals, and the tile is free; and TASK_MIGRATE (R236, R237) moves the first task that may move to a
tile of the same die whose queue is empty, where no block is held or will be. -/
def Sys2Proof.Parts.TileTasksComplete : Prop :=
  (∀ (i : Fin 256) (s : State) (rt : RunTask), s.runOf i = some rt → rt.prog = false →
    (∀ q ∈ s.wroteTo, q.1 ≠ tileReq i) → (∀ r ∈ s.heldReqs, r ≠ tileReq i) →
    ∃ t, exec (.taskComplete i) s = .next t ∧ t.runOf i = none ∧ Signalled s t (tdescOf rt.ref.body).signalId ∧
      (t.reg (Reg.tnsCntTasks i)).toNat = min ((s.reg (Reg.tnsCntTasks i)).toNat + 1) (2 ^ 64 - 1) ∧
      (PlainByte s (rt.ref.addr + 3) → t.byte (rt.ref.addr + 3) = BitVec.ofNat 8 rt.status)) ∧
  ∀ (src dst : Fin 256) (s : State) (n : Nat) (r : TaskRef), s.regB Reg.detCfg 0 = true → src ≠ dst →
    src.val / 64 = dst.val / 64 → dst.val < numTiles s.grade → s.queueOf dst = [] → s.heldOf dst = none →
    (∀ rt, s.runOf dst = some rt → (tdescOf rt.ref.body).accHold = false) →
    s.migrant (s.queueOf src) = some n → (s.queueOf src)[n]? = some r →
    ∃ t, exec (.taskMigrate src dst) s = .next t ∧ t.queueOf dst = [r] ∧ t.queueOf src = (s.queueOf src).eraseIdx n ∧
      (t.reg Reg.detCntMigrate).toNat = min ((s.reg Reg.detCntMigrate).toNat + 1) (2 ^ 64 - 1) ∧
      t = { s with tileQ := t.tileQ, regs := t.regs }

/-- Tile tasks: their start, what they leave, and their completion. -/
def Obligations.TileTasks : Prop := Parts.TileTasksRun ∧ Parts.TileTasksComplete

/-- The anchored accumulation does not depend on the order of its terms (R88), and a product that is split keeps its
bits: two anchored partials with one anchor combine to the sum of all their terms (R97), where that sum lies within the 96
bits of a partial. -/
def Obligations.AnchoredSumsExactInAnyOrder : Prop :=
  (∀ (w : Int) (l l' : List Machine.Num), l.Perm l' → accOf w l = accOf w l') ∧
  ∀ (w ex : Int) (l l' : List Machine.Num), -2 ^ 95 ≤ (accOf w (l ++ l')).acc → (accOf w (l ++ l')).acc < 2 ^ 95 →
    combineParts 16 [partOf w ex l, partOf w ex l'] =
      (⟨(accOf w (l ++ l')).acc, (accOf w (l ++ l')).cls, ex, false⟩, 0, 0)

namespace Sys2Proof.Claims
open Sys2Proof Sys2Proof.Machine

/-- The batches of the engines, with their OP codes (Table 7-6). -/
def engOps : List ((Fin 32 → Instr) × Nat) :=
  [(.batchLu, 1), (.batchChol, 2), (.batchLdlt, 3), (.batchQr, 4), (.batchTri, 5), (.batchInv, 6), (.batchRefine, 8)]

/-- The batches of the cores. -/
def coreOps : List ((Fin 256 → Instr) × Nat) := [(.batchPcg, 9), (.batchPgs, 10)]

/-- The items of a unit's share: every NUNITS-th item from the unit's place on (R185). -/
def shareOfUnit (d : BDesc) (u : Nat) : List Nat :=
  (List.range (d.items % 2 ^ 24)).filter fun k => k % d.nunits = u - d.unit0

end Sys2Proof.Claims

/-- The batches of the solver dies (R184 to R193, R198 to R200): a share at the head of its unit's queue, of its operation
and free to start, leaves the queue, and the unit takes the items of its share; where the batch is malformed or too large
for the store, no item runs and the batch is gone. -/
def Sys2Proof.Parts.SolverSharesStart : Prop :=
  (∀ e ∈ engOps, ∀ (i : Fin 32) (s : State) (n : Nat) (b : Batch), s.engHead i e.2 = some n → s.batchOf n = some b →
    (s.batchJudge (bdescOf b.body) = 0 → shareOfUnit (bdescOf b.body) i ≠ [] →
      ∃ t, exec (e.1 i) s = .next t ∧ t.shareOf i = some ⟨n, shareOfUnit (bdescOf b.body) i, [], []⟩ ∧
        t.engQueue i = (s.engQueue i).tail ∧ t = { s with engQ := t.engQ, shares := t.shares }) ∧
    (s.batchJudge (bdescOf b.body) ≠ 0 →
      ∃ t, exec (e.1 i) s = .next t ∧ t.batchOf n = none ∧ t.shareOf i = none ∧
        Signalled s t (bdescOf b.body).signalId)) ∧
  ∀ e ∈ coreOps, ∀ (i : Fin 256) (s : State) (n : Nat) (rel : Bool) (q : List CoreEnt) (b : Batch),
    s.coreQueue i = .share n rel :: q → s.batchOf n = some b → (bdescOf b.body).op = e.2 → s.coreBusy i = false →
    s.isParked 1 i = false → (rel = true ∨ s.waitMet (bdescOf b.body).waitId (bdescOf b.body).waitCount = true) →
    s.batchJudge (bdescOf b.body) = 0 → shareOfUnit (bdescOf b.body) i ≠ [] →
      ∃ t, exec (e.1 i) s = .next t ∧ t.shareOf (256 + i.val) = some ⟨n, shareOfUnit (bdescOf b.body) i, [], []⟩ ∧
        t.coreQueue i = q ∧ t = { s with coreQ := t.coreQ, shares := t.shares }

/-- CORE_PROGRAM_START (R155, R181): a well-formed launch at the head of a free core's queue starts its program with the
state of R181; a malformed one completes SB_INVALID, signals, and runs nothing. -/
def Sys2Proof.Parts.CoreProgramsStart : Prop :=
  ∀ (c : Fin 256) (s : State) (l : CoreLaunch) (rel : Bool) (q : List CoreEnt),
    s.coreQueue c = .launch l rel :: q → s.coreBusy c = false → s.isParked 1 c = false →
    (rel = true ∨ s.waitMet (ldescOf l.body).waitId (ldescOf l.body).waitCount = true) →
    ((ldescOf l.body).bad = false → ∃ t p, exec (.coreProgramStart c) s = .next t ∧ t.coreQueue c = q ∧
      t.progOf (.core c) = some p ∧ p.pc = BitVec.ofNat 64 (ldescOf l.body).entry ∧ p.vl = 0 ∧ p.vbad = true ∧
      p.xr 1 = BitVec.ofNat 64 (ldescOf l.body).p1 ∧ p.xr 2 = BitVec.ofNat 64 (ldescOf l.body).p2 ∧
      p.xr 3 = BitVec.ofNat 64 (ldescOf l.body).p3 ∧ p.xr 4 = BitVec.ofNat 64 (ldescOf l.body).arg ∧
      p.xr 5 = BitVec.ofNat 64 (ldescOf l.body).stream ∧ p.xr 6 = BitVec.ofNat 64 (ldescOf l.body).elem ∧
      p.xr 7 = BitVec.ofNat 64 (ldescOf l.body).draw ∧ (∀ k : Fin 32, 7 < k.val → p.xr k = 0) ∧
      p.ctx = (ldescOf l.body).ctx ∧ p.signal = (ldescOf l.body).signalId ∧ p.ended = none ∧
      t = { s with coreQ := t.coreQ, progs := t.progs }) ∧
    ((ldescOf l.body).bad = true → ∃ t, exec (.coreProgramStart c) s = .next t ∧ t.coreQueue c = q ∧
      t.progs = s.progs ∧ Signalled s t (ldescOf l.body).signalId)

/-- SOLVER_ITEM_END and BATCH_COMPLETE (R185, R202, R203, R207): the next item of an engine's share, whose operands are there,
ends and the unit goes on with the rest, or has finished its share after the last; an item of a core's group that is not its
last waits for the others; the batch completes once every unit has finished and every node they wrote has acknowledged,
signalling once. -/
def Sys2Proof.Parts.SolverItemsAndBatchesEnd : Prop :=
  (∀ (e : Fin 32) (s : State) (sh : Share) (b : Batch) (k k' : Nat) (rest : List Nat) (iters fails : Nat),
    s.shareOf e = some sh → s.batchOf sh.batch = some b → sh.items = k :: k' :: rest → s.isParked 2 e = false →
    (s.runItem e b sh.batch k iters fails).lacks (keyReq e) = false →
    ∃ t, exec (.solverItemEnd (.engine e) iters fails) s = .next t ∧
      t.shareOf e = some { sh with items := k' :: rest }) ∧
  (∀ (e : Fin 32) (s : State) (sh : Share) (b : Batch) (k : Nat) (iters fails : Nat),
    s.shareOf e = some sh → s.batchOf sh.batch = some b → sh.items = [k] → s.isParked 2 e = false →
    (s.runItem e b sh.batch k iters fails).lacks (keyReq e) = false →
    ∃ t, exec (.solverItemEnd (.engine e) iters fails) s = .next t ∧ t.shareOf e = none) ∧
  (∀ (c : Fin 256) (s : State) (sh : Share) (b : Batch) (k k' : Nat) (rest : List Nat) (iters fails : Nat),
    s.shareOf (256 + c) = some sh → s.batchOf sh.batch = some b → sh.group = k :: k' :: rest → s.isParked 1 c = false →
    (∀ e ∈ s.accesses, e.req ≠ keyReq (256 + c)) →
    ∃ t, exec (.solverItemEnd (.core c) iters fails) s = .next t ∧
      t.shareOf (256 + c) = some { sh with group := k' :: rest, ended := sh.ended ++ [(k, iters)] } ∧
      t = { s with shares := t.shares }) ∧
  ∀ (n : Nat) (s : State) (b : Batch), s.batchOf n = some b → b.left = [] →
    (∀ k ∈ (bdescOf b.body).unitKeys, s.unitOwes (keyReq k) = false) →
    ∃ t, exec (.batchComplete n) s = .next t ∧ t.batchOf n = none ∧ Signalled s t (bdescOf b.body).signalId ∧
      (t.reg Reg.slvCntBatches).toNat = min ((s.reg Reg.slvCntBatches).toNat + 1) (2 ^ 64 - 1) ∧
      (PlainByte s (b.addr + 3) → t.byte (b.addr + 3) = if b.notOk = true then 0x40 else 0)

/-- How solver engines and cores take their work and complete it. -/
def Obligations.SolverWork : Prop := Parts.SolverSharesStart ∧ Parts.CoreProgramsStart ∧ Parts.SolverItemsAndBatchesEnd

namespace Sys2Proof.Claims
open Sys2Proof Sys2Proof.Machine

/-- No register but those listed changes. -/
def OnlyRegs (s t : State) (offs : List Nat) : Prop := ∀ off, off ∉ offs → t.reg off = s.reg off

/-- A counter of 64 bits went up by `k`, saturating. -/
def Counted (s t : State) (off k : Nat) : Prop := (t.reg off).toNat = min ((s.reg off).toNat + k) (2 ^ 64 - 1)

/-- A configuration register with an RWL bit 0 and a LOCK bit 31: a write sets bit 0 only while LOCK is 0, sets LOCK and
never clears it, and no reserved bit of [30:2] changes (R10). -/
def LockWritten (s t : State) (off : Nat) (v : BitVec 32) : Prop :=
  (t.reg off).getLsbD 31 = ((s.reg off).getLsbD 31 || v.getLsbD 31) ∧
  (t.reg off).getLsbD 0 = (if (s.reg off).getLsbD 31 then (s.reg off).getLsbD 0 else v.getLsbD 0) ∧
  (∀ i, 2 ≤ i → i < 31 → (t.reg off).getLsbD i = (s.reg off).getLsbD i) ∧
  OnlyRegs s t [off] ∧ t = { s with regs := t.regs }

/-- The draw that a fill's word `n` is (R225). -/
def fillDraw (s : State) (n : Nat) : Nat :=
  bobbinWord { seed := s.reg Reg.bobSeed, stream := (s.reg Reg.bobFillStream).setWidth 32,
               stitch := (s.reg Reg.timStitch).setWidth 32, purpose := 4, draw := s.regF Reg.bobFillDraw 0 24 }
    ((s.reg Reg.bobFillIndex).toNat + n) 0

/-- The inputs of the generator port (R226). -/
def genKey (s : State) : DrawKey :=
  { seed := s.reg Reg.bobGenSeed, stream := (s.reg Reg.bobGenStream).setWidth 32,
    stitch := (s.reg Reg.bobGenStitch).setWidth 32, purpose := s.regF Reg.bobGenX3 24 8, draw := s.regF Reg.bobGenX3 0 24 }

end Sys2Proof.Claims

/-- The seed (R214), the fill engine (R225) and the generator port (R226): BOB_SEED is written but while RUN is 1 or after
LOCK, which sets SEED_IGNORED instead; a fill writes its words from its address on, refuses a misaligned address or a
count of 0, and ignores GO while one runs, with FILL_ERROR; the port computes the draw of its own inputs. -/
def Sys2Proof.Parts.BobbinBlock : Prop :=
  (∀ (v : BitVec 64) (s : State), s.reaches Reg.bobSeed = true →
    (s.running = false → s.regB Reg.bobCtrl 0 = false → ∃ t, exec (.seedWrite v) s = .next t ∧
      t.reg Reg.bobSeed = v ∧ OnlyRegs s t [Reg.bobSeed] ∧ t = { s with regs := t.regs, held := t.held }) ∧
    (s.running = true ∨ s.regB Reg.bobCtrl 0 = true → ∃ t, exec (.seedWrite v) s = .next t ∧
      t.reg Reg.bobSeed = s.reg Reg.bobSeed ∧ t.regB Reg.bobEvent 2 = true)) ∧
  (∀ (v : BitVec 32) (s : State), s.reaches Reg.bobCtrl = true →
    (v.getLsbD 0 = true → ∃ t, exec (.bobCtrlLock v) s = .next t ∧ t.regB Reg.bobCtrl 0 = true ∧
      t.regB Reg.bobStatus 0 = true ∧ OnlyRegs s t [Reg.bobCtrl, Reg.bobStatus] ∧ t = { s with regs := t.regs }) ∧
    (v.getLsbD 0 = false → exec (.bobCtrlLock v) s = .next s)) ∧
  (∀ (v : BitVec 32) (s : State), s.reaches Reg.bobFillCtrl = true → v.getLsbD 0 = true →
    (s.regB Reg.bobStatus 1 = false → (s.reg Reg.bobFillAddr).toNat % 64 = 0 → (s.reg Reg.bobFillCount).toNat ≠ 0 →
      s.replHeld = [] → (s.reg Reg.bobFillAddr).toNat + 4 * (s.reg Reg.bobFillCount).toNat ≤ 2 ^ 64 →
      (∀ n, n < (s.reg Reg.bobFillCount).toNat → OwnWrite s ((s.reg Reg.bobFillAddr).toNat + 4 * n) 4 ∧
        s.replStore ((s.reg Reg.bobFillAddr).toNat + 4 * n) = false ∧
        devAddr ((s.reg Reg.bobFillAddr).toNat + 4 * n) = devAddr (s.reg Reg.bobFillAddr).toNat + 4 * n) →
      ∃ t, exec (.fillGo v) s = .next t ∧ t.regB Reg.bobStatus 1 = true ∧ t.regB Reg.bobFillCtrl 0 = true ∧
        (∀ n, n < (s.reg Reg.bobFillCount).toNat →
          t.num (devAddr (s.reg Reg.bobFillAddr).toNat + 4 * n) 4 = fillDraw s n % 2 ^ 32) ∧
        ∀ b, (b < devAddr (s.reg Reg.bobFillAddr).toNat ∨
          devAddr (s.reg Reg.bobFillAddr).toNat + 4 * (s.reg Reg.bobFillCount).toNat ≤ b) → t.byte b = s.byte b) ∧
    (s.regB Reg.bobStatus 1 = true ∨ (s.reg Reg.bobFillAddr).toNat % 64 ≠ 0 ∨ (s.reg Reg.bobFillCount).toNat = 0 →
      ∃ t, exec (.fillGo v) s = .next t ∧ t.regB Reg.bobEvent 1 = true ∧
        t.regB Reg.bobStatus 1 = s.regB Reg.bobStatus 1)) ∧
  (∀ s : State, s.regB Reg.bobStatus 1 = true → (∀ q ∈ s.reqs, q.req ≠ fillReq) →
    (∀ q ∈ s.reqQ, q.req ≠ fillReq) → (∀ r ∈ s.heldReqs, r ≠ fillReq) →
    ∃ t, exec .fillDone s = .next t ∧ t.regB Reg.bobStatus 1 = false ∧ t.regB Reg.bobFillCtrl 0 = false ∧
      t.regB Reg.bobEvent 0 = true) ∧
  (∀ (v : BitVec 32) (s : State), s.reaches Reg.bobGenCtrl = true → v.getLsbD 0 = true → s.regB Reg.bobStatus 2 = false →
    ∃ t, exec (.genGo v) s = .next t ∧ t.regB Reg.bobStatus 2 = true ∧ t.regB Reg.bobGenCtrl 0 = true ∧
      t.genWords = bobbin (genKey s) (s.reg Reg.bobGenIndex).toNat ∧
      OnlyRegs s t [Reg.bobGenCtrl, Reg.bobStatus]) ∧
  ∀ s : State, s.regB Reg.bobStatus 2 = true →
    ∃ t, exec .genDone s = .next t ∧ t.regB Reg.bobStatus 2 = false ∧ t.regB Reg.bobGenCtrl 0 = false ∧
      ∀ w, w < 4 → (t.reg (Reg.bobGenOut w)).toNat = (s.genWords.getD w 0).toNat

/-- The configuration registers that lock (R10, R117, R241, R288, R317): the fields lock and LOCK is never cleared by a
write; DET_CFG is not written while RUN is 1 or after LOCK. -/
def Sys2Proof.Parts.LockingRegisters : Prop :=
  (∀ (v : BitVec 32) (s : State),
    (s.running = false → s.regB Reg.detCfg 31 = false →
      (∃ t, exec (.detCfgWrite v) s = .next t ∧ t.regF Reg.detCfg 0 3 = v.toNat % 8 ∧
        t.regB Reg.detCfg 31 = v.getLsbD 31 ∧ OnlyRegs s t [Reg.detCfg] ∧ t = { s with regs := t.regs }) ∧
      ∃ t, exec (.detCfgLock v) s = .next t ∧ t.regF Reg.detCfg 0 3 = v.toNat % 8 ∧
        t.regB Reg.detCfg 31 = v.getLsbD 31 ∧ OnlyRegs s t [Reg.detCfg] ∧ t = { s with regs := t.regs }) ∧
    (s.running = true ∨ s.regB Reg.detCfg 31 = true →
      exec (.detCfgWrite v) s = .next s ∧ exec (.detCfgLock v) s = .next s)) ∧
  (∀ (i : Fin 256) (v : BitVec 32) (s : State), s.reaches (Reg.tnsCfg i) = true → i.val < numTiles s.grade →
    ∃ t, exec (.tnsCfgLock i v) s = .next t ∧ LockWritten s t (Reg.tnsCfg i) v) ∧
  (∀ (v : BitVec 32) (s : State), s.reaches Reg.fabCfg = true →
    ∃ t, exec (.fabCfgLock v) s = .next t ∧ LockWritten s t Reg.fabCfg v) ∧
  ∀ (v : BitVec 32) (s : State), s.reaches Reg.colCfg = true →
    ∃ t, exec (.colCfgLock v) s = .next t ∧ LockWritten s t Reg.colCfg v

/-- The monitor sets (R165): a write arms a set that is not armed; while it is armed only a write that clears ARMED is
taken, with all the fields it carries; CLEAR sets the five counts and AMAX to 0 and leaves everything else. -/
def Sys2Proof.Parts.MonitorSets : Prop :=
  ∀ (n : Fin 1024) (v : BitVec 32) (s : State),
    (s.regB (Reg.monCfg n) 0 = false → v.getLsbD 0 = true →
      ∃ t, exec (.monArm n v) s = .next t ∧ t.regF (Reg.monCfg n) 0 18 = v.toNat % 2 ^ 18 ∧
        OnlyRegs s t [Reg.monCfg n, Reg.monHist n 0, Reg.monHist n 1] ∧
        t = { s with regs := t.regs, monHi := t.monHi }) ∧
    (s.regB (Reg.monCfg n) 0 = true → v.getLsbD 0 = true → exec (.monArm n v) s = .next s) ∧
    (v.getLsbD 0 = false →
      ∃ t, exec (.monDisarm n v) s = .next t ∧ t.regF (Reg.monCfg n) 0 18 = v.toNat % 2 ^ 18 ∧
        OnlyRegs s t [Reg.monCfg n, Reg.monHist n 0, Reg.monHist n 1] ∧
        t = { s with regs := t.regs, monHi := t.monHi }) ∧
    (v.getLsbD 0 = true →
      ∃ t, exec (.monClear n v) s = .next t ∧
        (∀ off ∈ [Reg.monCntElems n, Reg.monCntZero n, Reg.monCntSat n, Reg.monCntNonfinite n, Reg.monCntEmptyRow n,
          Reg.monAmax n], t.reg off = 0) ∧
        OnlyRegs s t [Reg.monCntElems n, Reg.monCntZero n, Reg.monCntSat n, Reg.monCntNonfinite n, Reg.monCntEmptyRow n,
          Reg.monAmax n] ∧ t = { s with regs := t.regs })

/-- The bobbin block and the monitor sets. -/
def Obligations.BobbinAndMonitors : Prop := Parts.BobbinBlock ∧ Parts.MonitorSets

namespace Sys2Proof.Claims
open Sys2Proof Sys2Proof.Machine

/-- The canonical form of the three sparse tables that a host can fill: memory, its poison marks, the registers. -/
def Canonical (s : State) : Prop :=
  Memory.wf s.mem = true ∧ Tbl.wf (fun _ => false) s.poison = true ∧ Regs.wf s.regs = true

/-- Registers and the values their tables give them at reset (R57, R117, R160, R241, R261, R288, R317, R344, R380, R420). -/
def resetValues : List (Nat × W64) :=
  [(Reg.timCtrl, 0), (Reg.timStatus, 0), (Reg.timFtRate, 0x06666666), (Reg.timStitch, 0), (Reg.timCinchCfg, 1),
   (Reg.timCinchMargin, 800), (Reg.timCinchTimeout, 1000000), (Reg.timStitchOutW, 100), (Reg.timDeadlineLead, 2000)] ++
  [(Reg.pwrCap, 2400), (Reg.pwrBrownCfg, 0x640002), (Reg.pwrTherm, 0x6E665F64), (Reg.memCfg, 0x1C),
   (Reg.memStatus, 0), (Reg.fabNode, 0xFFFF), (Reg.fabPkey, 0xFFFF), (Reg.fabFmNodes, 0xFFFFFFFF),
   (Reg.fabLoadTimeout, 100), (Reg.fabReissue, 10), (Reg.fabDrainTimeout, 20)] ++
  [(Reg.colLagTimeout, 50), (Reg.colWatchdog, 1000000), (Reg.ckpPeerTimeout, 1000000), (Reg.relCfg, 0x4001),
   (Reg.hubEvlogCfg, 12), (Reg.hubEvent, 0), (Reg.detCfg, 0), (Reg.bobSeed, 0), (Reg.bobCtrl, 0)]

end Sys2Proof.Claims

/-- The step of the block (the model's own queue, log entry 2): with a command at the front of the queue it is the
command's effect on the state with the queue's rest; with no command it is one cycle of the fabric reference, which adds
the rate word to the fabric time while fabric time runs, advances the counters of throttled cycles, PWR_CNT 2 to 5, while
their causes slow a unit, by a free value (log entry 9), and changes nothing else (DESIGN CHOICE, log entry 2). -/
def Obligations.StepRunsFront : Prop :=
  (∀ (c : Instr) (q : List Instr) (s : State),
    step { s with pending := c :: q } = exec c { s with pending := q }) ∧
  ∀ s : State, s.pending = [] → ∃ t, step s = .next t ∧
    t = { s with time := { s.time with acc := t.time.acc }, regs := t.regs } ∧
    (∀ off, off ∉ [Reg.pwrCnt 2, Reg.pwrCnt 3, Reg.pwrCnt 4, Reg.pwrCnt 5] → t.reg off = s.reg off) ∧
    (∀ off ∈ [Reg.pwrCnt 2, Reg.pwrCnt 3, Reg.pwrCnt 4, Reg.pwrCnt 5], (s.reg off).toNat ≤ (t.reg off).toNat) ∧
    t.time.acc = if s.hubUp && s.regF (Reg.pwrDom 72) 0 2 == 1
      then s.time.acc + BitVec.ofNat 82 (s.reg Reg.timFtRate).toNat else s.time.acc

/-- Every command completes from every state, and leaves the queue of waiting commands as it is. -/
def Obligations.EveryCommandCompletes : Prop :=
  ∀ (c : Instr) (s : State), ∃ t, exec c s = .next t ∧ t.pending = s.pending

/-- Every step keeps the canonical form of memory, poison and registers: equal memories are equal data. -/
def Obligations.CanonicalFormKept : Prop :=
  ∀ s t : State, Claims.Canonical s → step s = .next t → Claims.Canonical t

/-- The package right after reset: the canonical form holds, no command waits, the hub is held in reset, no job runs, and
the registers have the values of their tables. -/
def Obligations.ResetState : Prop :=
  Claims.Canonical State.reset ∧ State.reset.pending = [] ∧ State.reset.hubUp = false ∧ State.reset.running = false ∧
  (∀ p ∈ Claims.resetValues, State.reset.reg p.1 = p.2) ∧
  (∀ n : Fin 1024, State.reset.reg (Reg.monCfg n) = 0x20400 ∧ ∀ w : Fin 2,
    State.reset.reg (Reg.monHist n w) = 0x8000800080008000) ∧
  (∀ g : Fin 256, State.reset.reg (Reg.colGCfg g) = 0x400000) ∧
  ∀ p : Fin 32, State.reset.reg (Reg.fabPCfg p) = 0x8001

namespace Sys2Proof.Claims
open Sys2Proof Sys2Proof.Machine

/-- What one event may touch: the event bit's register and the event log's registers, the MSI-X pending bits, and the slot
of its record in the event log, where the log is on (R341, R343); a record that overwrites an unread one is the event
EVLOG_WRAP, whose record takes the next slot (log entry 35). `offs` are the registers that the command changes. -/
def logSlot (s : State) (k : Nat) : Nat :=
  (s.reg Reg.hubEvlogBase).toNat / 32 * 32 + 32 * (((s.reg Reg.hubEvlogWp).toNat + k) % s.evlogSize)

/-- The records of the log that one event of `s` writes: none, one, or two. -/
def logRecords (s : State) : List Nat :=
  if s.regB Reg.hubEvlogCfg 0 = false then []
  else if s.evlogSize ≤ (s.reg Reg.hubEvlogWp).toNat - (s.reg Reg.hubEvlogRp).toNat then [logSlot s 0, logSlot s 1]
  else [logSlot s 0]

/-- The registers that events may touch besides those listed. -/
def EventRegs (s t : State) (offs : List Nat) : Prop :=
  ∀ off, off ∉ offs → off ∉ [Reg.hubEvlogWp, Reg.hubEvlogLost, Reg.hubEvent] → (∀ k, off ≠ Reg.msixPba k) →
    t.reg off = s.reg off

/-- See `logSlot`. -/
def EventFrame (s t : State) (offs : List Nat) : Prop :=
  EventRegs s t offs ∧
  (∀ a, (∀ x ∈ logRecords s, a < x ∨ x + 32 ≤ a) → t.byte a = s.byte a) ∧
  ∀ g, (∀ x ∈ logRecords s, 32 * g ≠ x) → t.poisoned g = s.poisoned g

/-- `t` is `s` but for what an event touches outside the registers and memory, and the fields named elsewhere. -/
def EventOnly (s t : State) (offs : List Nat) : Prop :=
  EventFrame s t offs ∧ t = { s with regs := t.regs, mem := t.mem, poison := t.poison, msixOut := t.msixOut }

/-- Offsets of registers whose write has no effect but on their own fields: every block but MON, DET, REL and the rings of
the hub, and but the registers with a rule of their own. -/
def plainOff (o : Nat) : Bool :=
  (decide (o < 0x10000) && o != Reg.hubEvlogRp) ||
  (decide (0x400000 ≤ o ∧ o < 0x800000) && o != Reg.timCtrl && o != Reg.timStitch &&
    o != Reg.timSyncCfg) ||
  (decide (0x800000 ≤ o ∧ o < 0xC00000) && o != Reg.secCtrl) ||
  (decide (0x1000000 ≤ o ∧ o < 0x1800000) && o != Reg.memCfg && o != Reg.memCtrl && o != Reg.memRetireAdd) ||
  (decide (0x2000000 ≤ o ∧ o < 0x2100000) &&
    !([Reg.fabCtrl, Reg.fabPkey, Reg.fabReplRelease, Reg.fabRingCtrl].contains o)) ||
  decide (0x4000000 ≤ o ∧ o < 0x5000000)

/-- What a write of `v` makes of bit `i` of a register with the given masks: an RW or unlocked RWL bit takes it, a 1 clears
a W1C bit and sets a W1S bit, and any other bit stays (Table 0-5). -/
def bitWritten (r : RegRow) (locked : Bool) (old v : Bool) (i : Nat) : Bool :=
  if r.rw.testBit i || (r.rwl.testBit i && !locked) then v
  else if r.w1c.testBit i then old && !v
  else if r.w1s.testBit i then old || v
  else old

end Sys2Proof.Claims

/-- Register writes (R10, R11): a write of a 32-bit register, or of a whole 64-bit pair, that has no rule of its own
changes that register alone, bit by bit by the field types of Table 0-5; a write to an offset at which no chapter defines
a register does nothing. -/
def Sys2Proof.Parts.RegisterWrites : Prop :=
  ∀ (off : Nat) (v : BitVec 64) (s : State), s.reaches off = true → plainOff off = true →
    (∀ r, s.regAt off = some (r, off) → r.wide = false → off % 4 = 0 →
      ∃ t, exec (.registerWrite off false v) s = .next t ∧ OnlyRegs s t [off] ∧ t = { s with regs := t.regs } ∧
        (∀ i, i < 32 → (t.reg off).getLsbD i =
          bitWritten r (decide (r.rwl ≠ 0) && s.lockedReg off) ((s.reg off).getLsbD i) (v.getLsbD i) i)) ∧
    (∀ r, s.regAt off = some (r, off) → r.wide = true → off % 8 = 0 →
      ∃ t, exec (.registerWrite off true v) s = .next t ∧ OnlyRegs s t [off] ∧ t.heldAt off = none ∧
        (∀ o, o ≠ off → t.heldAt o = s.heldAt o) ∧ t = { s with regs := t.regs, held := t.held } ∧
        (∀ i, i < 64 → (t.reg off).getLsbD i =
          bitWritten r (decide (r.rwl ≠ 0) && s.lockedReg off) ((s.reg off).getLsbD i) (v.getLsbD i) i)) ∧
    (s.regAt off = none → off % 4 = 0 → exec (.registerWrite off false v) s = .next s)

/-- The two words of a 64-bit pair (R13): a read of the low word latches the high word, which the next read of the high
word returns; a 64-bit read returns the pair at once and latches nothing; a write of the low word only holds it; a write of the high word applies the pair with the held low word, or
with the low word as it stands, as one 64-bit write would, and empties the held word. -/
def Sys2Proof.Parts.PairAccesses : Prop :=
  ∀ (off : Nat) (r : RegRow) (v : BitVec 32) (s : State), off < dblBase → off % 8 = 0 → r.wide = true →
    s.regAt off = some (r, off) → s.regAt (off + 4) = some (r, off) → s.reaches off = true → s.reaches (off + 4) = true →
    exec (.pairLowWordRead ⟨off, true⟩) s = .next { s with busOut := s.regView off, busPoison := false } ∧
    (∃ t, exec (.pairLowWordRead ⟨off, false⟩) s = .next t ∧ t.busOut = ((s.regView off).truncate 32).zeroExtend 64 ∧
      Tbl.get none t.latched off = some ((s.regView off >>> 32).truncate 32) ∧
      t = { s with busOut := t.busOut, busPoison := false, latched := t.latched }) ∧
    (∃ t, exec (.pairLowWordRead ⟨off + 4, false⟩) s = .next t ∧ Tbl.get none t.latched off = none ∧
      (∀ h, Tbl.get none s.latched off = some h → t.busOut = h.zeroExtend 64) ∧
      (Tbl.get none s.latched off = none → t.busOut = ((s.regView off >>> 32).truncate 32 : BitVec 32).zeroExtend 64) ∧
      t = { s with busOut := t.busOut, busPoison := false, latched := t.latched }) ∧
    (∃ t, exec (.pairLowWordWrite off v) s = .next t ∧ t.heldAt off = some v ∧
      (∀ o, o ≠ off → t.heldAt o = s.heldAt o) ∧ t = { s with held := t.held }) ∧
    ∃ t, exec (.pairHighWordWrite (off + 4) v) s = .next t ∧ t.heldAt off = none ∧
      exec (.registerWrite off true (v ++ (s.heldAt off).getD ((s.reg off).truncate 32))) s = .next t

/-- Register accesses: plain writes, locks, and pairs of words. -/
def Obligations.RegisterAccesses : Prop := Parts.LockingRegisters ∧ Parts.RegisterWrites ∧ Parts.PairAccesses

/-- R14: an access of another size or alignment reads 0, has no effect but its record, and is recorded in the HUB block:
HUB_REG_ERR holds its offset and HUB_EVENT bit 0 is set. One of an accepted size is an ordinary access: a read is
performed, and a write, which carries no data here, changes nothing. -/
def Obligations.BadSizedAccess : Prop :=
  (∀ (off : Nat) (wide : Bool) (s : State), off % (if wide then 8 else 4) = 0 →
    exec (.badSizeAccess off (if wide then 8 else 4) false) s = exec (.pairLowWordRead ⟨off, wide⟩) s ∧
    exec (.badSizeAccess off (if wide then 8 else 4) true) s = .next s) ∧
  ∀ (off bytes : Nat) (write : Bool) (s : State), ((bytes ≠ 4 ∧ bytes ≠ 8) ∨ off % bytes ≠ 0) →
    ∃ t, exec (.badSizeAccess off bytes write) s = .next t ∧
      (write = false → t.busOut = 0 ∧ t.busPoison = false) ∧
      (write = true → t.busOut = s.busOut ∧ t.busPoison = s.busPoison) ∧
      t.reg Reg.hubRegErr = BitVec.ofNat 64 (off % 2 ^ 32) ∧ t.regB Reg.hubEvent 0 = true ∧
      EventFrame s t [Reg.hubRegErr] ∧
      t = { s with regs := t.regs, mem := t.mem, poison := t.poison, msixOut := t.msixOut, busOut := t.busOut,
                   busPoison := t.busPoison }

/-- R29: the window of a logical tile, factorisation engine or core that the grade lacks reads 0 and ignores writes, and no
error is recorded. -/
def Obligations.AbsentUnits : Prop :=
  ∀ (off : Nat) (s : State),
    ((∃ t, numTiles s.grade ≤ t ∧ t < 256 ∧ 0x3000000 + 0x10000 * t ≤ off ∧ off < 0x3010000 + 0x10000 * t) ∨
      (∃ e, numEngines s.grade ≤ e ∧ e < 32 ∧ 0x4100000 + 0x10000 * e ≤ off ∧ off < 0x4110000 + 0x10000 * e) ∨
      ∃ c, numCores s.grade ≤ c ∧ c < 256 ∧ 0x4800000 + 0x4000 * c ≤ off ∧ off < 0x4804000 + 0x4000 * c) →
    (off % 4 = 0 → (∀ v, exec (.registerWrite off false v) s = .next s) ∧
      exec (.pairLowWordRead ⟨off, false⟩) s = .next { s with busOut := 0, busPoison := false }) ∧
    (off % 8 = 0 → (∀ v, exec (.registerWrite off true v) s = .next s) ∧
      exec (.pairLowWordRead ⟨off, true⟩) s = .next { s with busOut := 0, busPoison := false })

namespace Sys2Proof.Claims
open Sys2Proof Sys2Proof.Machine

/-- The greatest latency over the children that have arrived. -/
def latestChild (s : State) : Nat := (s.time.arrived.map fun c => c.2).foldl max 0

/-- The arrival the package sends to its parent. -/
def ownArrival (s : State) (start : Bool) : OutMsg :=
  .arrive (s.regF Reg.timCinchCfg 16 16)
    { src := BitVec.ofNat 16 s.node, stitch := s.stitch, det := BitVec.ofNat 3 (s.regF Reg.detCfg 0 3),
      pkey := BitVec.ofNat 16 (s.regF Reg.timCinchPkey 0 16), sent := BitVec.ofNat 64 s.ft,
      lat := BitVec.ofNat 64 (latestChild s), start := start }

/-- Every child of the cinch tree has arrived, every store and atomic is performed and acknowledged, none of them is held, no
fault ended the cinch, and the package has its node number. -/
def MayArrive (s : State) : Prop :=
  min 27 (s.regF Reg.timCinchCfg 1 5) ≤ s.time.arrived.length ∧ s.wroteTo = [] ∧ s.heldReqs = [] ∧
  s.time.faulted = false ∧ s.node ≠ 0xFFFF

/-- The byte range may be stored now: accessible, its host link keyed, no line busy. -/
def Storable (s : State) (a n : Nat) : Prop :=
  firstRefused s.accessible a n = none ∧ s.streamFails a = false ∧ s.rangeBusy a n true = false

/-- The head of the launch queue is an action of one descriptor of `n` clean bytes, of the given type. -/
def Launching (s : State) (typ n : Nat) (l : Launch) (q : List Launch) : Prop :=
  s.time.launchQ = l :: q ∧ l.typ = typ ∧ l.count = 1 ∧ s.regB Reg.timStatus 13 = false ∧
  firstRefused s.accessible (l.desc % 2 ^ 48) n = none ∧ s.poisonIn (l.desc % 2 ^ 48) n = false ∧
  s.readFails (l.desc % 2 ^ 48) n = false

/-- The bytes of its descriptor. -/
def descBytes (s : State) (l : Launch) (n : Nat) : List Byte := s.bytes (l.desc % 2 ^ 48) n

/-- The action launched: it has left the queue and waits for its one descriptor. -/
def Launched (s t : State) (l : Launch) (q : List Launch) : Prop :=
  t.time = { s.time with launchQ := q } ∧ t.nextAct = s.nextAct + 1 ∧
  (∃ a, t.actOf s.nextAct = some a ∧ a.left = 1 ∧ a.typ = l.typ ∧ a.inPleat = true ∧ a.compl = l.compl ∧
    a.cring = l.cring ∧ a.stitch = s.stitch ∧ a.bad = none) ∧
  (∀ n, n ≠ s.nextAct → t.actOf n = s.actOf n) ∧ OnlyRegs s t [Reg.hubCnt 4]

/-- The action launched and completed with its one descriptor OK; its completion entry is owed where one is asked for. -/
def LaunchedDone (s t : State) (l : Launch) (q : List Launch) : Prop :=
  t.time = { s.time with launchQ := q, lastDone := s.ft } ∧ t.nextAct = s.nextAct + 1 ∧ t.actOf s.nextAct = none ∧
  (l.compl = false → t.owed = s.owed) ∧
  (l.compl = true → ∃ c, t.owed = s.owed ++ [c] ∧ c.cring = l.cring ∧ c.status = 0 ∧ c.sring = l.sring ∧
    c.stitch = s.stitch)

end Sys2Proof.Claims

/-- The synchronisation exchange (R32, R33): the interval sends the request, a request is answered with its timestamps,
a response records the offset (its sign and rounding are the model's, log entry 33) and the link delay, keeps the rate word
within 200 ppm of nominal, below it where the package is ahead and above it where it is behind (how far is free, log entry
7), and moves the state: UNLOCKED to LOCKING, LOCKING to LOCKED at the sixteenth offset in a row within 2 ns, HOLDOVER to
LOCKED at the fourth; while LOCKING with RUN 0 fabric time steps once (R34); eight intervals without a response leave
LOCKED; a master's rate word is nominal (R31). While FAB_NODE reads 0xFFFF nothing is sent (R264). -/
def Sys2Proof.Parts.Synchronisation : Prop :=
  (∀ s : State, s.regB Reg.timSyncCfg 0 = false → ∃ t, exec .syncInterval s = .next t ∧
    t.out = (if s.node = 0xFFFF then s.out
      else s.out ++ [.syncReq (s.regF Reg.timSyncCfg 1 5) (BitVec.ofNat 64 s.ft)]) ∧
    t = { s with out := t.out, time := { s.time with missed := s.time.missed + 1 } }) ∧
  (∀ (src : BitVec 16) (t1 t2 : BitVec 64) (s : State), s.node ≠ 0xFFFF → exec (.syncReq src t1 t2) s =
    .next { s with out := s.out ++ [.syncRsp src.toNat t1 t2 (BitVec.ofNat 64 s.ft)] }) ∧
  (∀ (t1 t2 t3 t4 : BitVec 64) (s : State), s.regB Reg.timSyncCfg 0 = false → s.node ≠ 0xFFFF →
    let off := ((t1 - t2) + (t4 - t3)).toInt / 2
    let good : Bool := decide (-128 ≤ off ∧ off ≤ 128)
    ∃ t, exec (.syncRsp t1 t2 t3 t4) s = .next t ∧
      ((t.reg Reg.timFtOffset).toNat : Int) = off % 2 ^ 32 ∧
      107352708 ≤ (t.reg Reg.timFtRate).toNat ∧ (t.reg Reg.timFtRate).toNat ≤ 107395656 ∧
      (off = 0 → (t.reg Reg.timFtRate).toNat = 107374182) ∧ (0 < off → (t.reg Reg.timFtRate).toNat < 107374182) ∧
      (off < 0 → 107374182 < (t.reg Reg.timFtRate).toNat) ∧
      t.time = { s.time with acc := t.time.acc, good := t.time.good, missed := 0, stepped := t.time.stepped,
                             linkDelay := ((t4 - t1) - (t3 - t2)).toInt / 2 } ∧
      t.time.acc = (if t.regF Reg.timStatus 0 2 = 1 ∧ s.regB Reg.timCtrl 0 = false ∧
          (s.time.stepped = false ∨ s.regF Reg.timStatus 0 2 = 0)
        then s.time.acc - BitVec.ofInt 82 (off * 2 ^ 18) else s.time.acc) ∧
      OnlyRegs s t [Reg.timFtOffset, Reg.timFtRate, Reg.timStatus] ∧ t = { s with regs := t.regs, time := t.time } ∧
      (s.regF Reg.timStatus 0 2 = 0 → t.regF Reg.timStatus 0 2 = 1) ∧
      (s.regF Reg.timStatus 0 2 = 1 → t.regF Reg.timStatus 0 2 = if good ∧ s.time.good = 15 then 2 else 1) ∧
      (s.regF Reg.timStatus 0 2 = 2 → t.regF Reg.timStatus 0 2 = 2) ∧
      (s.regF Reg.timStatus 0 2 = 3 → t.regF Reg.timStatus 0 2 = if good ∧ s.time.good = 3 then 2 else
        if s.time.good = 4 ∧ good = false then 2 else 3)) ∧
  (∀ (v : BitVec 64) (s : State), s.reaches Reg.timSyncCfg = true → v.getLsbD 0 = true →
    ∃ t, exec (.registerWrite Reg.timSyncCfg false v) s = .next t ∧ t.regB Reg.timSyncCfg 0 = true ∧
      t.reg Reg.timFtRate = 0x06666666 ∧ OnlyRegs s t [Reg.timSyncCfg, Reg.timFtRate] ∧ t = { s with regs := t.regs }) ∧
  ∀ s : State, s.regF Reg.timStatus 0 2 = 2 → 8 ≤ s.time.missed → ∃ t, exec .syncHoldover s = .next t ∧
    t.regF Reg.timStatus 0 2 = 3 ∧ t.regB Reg.timEvent 8 = true ∧ EventFrame s t [Reg.timStatus, Reg.timEvent] ∧
    t.time = { s.time with good := 0 }

/-- RUN and HOLD (R37, R38): setting RUN joins the start cinch, where the arrival is sent once every child has arrived and
the stitch is drained, or withheld while HOLD is 1; clearing RUN while HELD or STOPPED leaves the cinch, and otherwise RUN
stays 1; HOLD withholds the next arrival, and clearing it sends one withheld. -/
def Sys2Proof.Parts.RunAndHold : Prop :=
  (∀ (v : BitVec 32) (s : State), s.reaches Reg.timCtrl = true → v.getLsbD 0 = true → s.regB Reg.timCtrl 0 = false →
    ∃ t, exec (.runSet v) s = .next t ∧ t.regF Reg.timCtrl 0 5 = v.toNat % 32 ∧ t.time.atCinch = true ∧
      t.time.startCinch = true ∧ t.time.dueAt = s.ft ∧
      (s.regB Reg.timStatus 13 = false → v.getLsbD 3 = true →
        t.regB Reg.timStatus 3 = true ∧ t.time.sent = false ∧ t.out = s.out) ∧
      (s.regB Reg.timStatus 13 = false → v.getLsbD 3 = false → s.regB Reg.timCinchCfg 0 = false → MayArrive s →
        (∀ q ∈ s.time.profiles, q = (s.stitch, s.regF Reg.detCfg 0 3)) →
        t.regB Reg.timStatus 3 = false ∧ t.regB Reg.timStatus 10 = true ∧ t.time.sent = true ∧
        t.out = s.out ++ [ownArrival s true])) ∧
  (∀ (v : BitVec 32) (s : State), s.reaches Reg.timCtrl = true → v.getLsbD 0 = false → s.regB Reg.timCtrl 0 = true →
    (s.regB Reg.timStatus 3 = true ∨ s.regB Reg.timStatus 13 = true → ∃ t, exec (.runClear v) s = .next t ∧
      t.regB Reg.timCtrl 0 = false ∧ (∀ b ∈ [3, 10, 11, 13], t.regB Reg.timStatus b = false) ∧
      t.time.atCinch = false ∧ t.time.release = none ∧ t.time.arrived = [] ∧
      OnlyRegs s t [Reg.timCtrl, Reg.timStatus] ∧ t = { s with regs := t.regs, time := t.time }) ∧
    (s.regB Reg.timStatus 3 = false → s.regB Reg.timStatus 13 = false → ∃ t, exec (.runClear v) s = .next t ∧
      t.regB Reg.timCtrl 0 = true)) ∧
  (∀ (v : BitVec 32) (s : State), s.reaches Reg.timCtrl = true → v.getLsbD 0 = true → v.getLsbD 3 = true →
    s.regB Reg.timCtrl 0 = true → s.time.sent = false → ∃ t, exec (.holdSet v) s = .next t ∧
      t.regF Reg.timCtrl 0 5 = v.toNat % 32 ∧ t.time = s.time ∧ t.out = s.out ∧
      (s.time.atCinch = true → s.regB Reg.timStatus 13 = false → t.regB Reg.timStatus 3 = true) ∧
      OnlyRegs s t [Reg.timCtrl, Reg.timStatus] ∧ t = { s with regs := t.regs }) ∧
  ∀ (v : BitVec 32) (s : State), s.reaches Reg.timCtrl = true → v.getLsbD 0 = true → v.getLsbD 3 = false →
    s.regB Reg.timCtrl 0 = true → s.time.sent = false → s.time.atCinch = true →
    s.regB Reg.timStatus 13 = false → s.regB Reg.timCinchCfg 0 = false → MayArrive s →
    ∃ t, exec (.holdClear v) s = .next t ∧ t.regF Reg.timCtrl 0 5 = v.toNat % 32 ∧ t.regB Reg.timStatus 3 = false ∧
      t.regB Reg.timStatus 10 = true ∧ t.time.sent = true ∧ t.out = s.out ++ [ownArrival s s.time.startCinch]

/-- The time base: synchronisation, and RUN and HOLD. -/
def Obligations.TimeBase : Prop := Parts.Synchronisation ∧ Parts.RunAndHold

/-- Pleats (R36, R39, R40, R42, R43): a pleat begins with its kind and length, with the sync counters at 0, and launches
the table's entries that fire, telemetry first; a timed pleat that reaches its planned end while actions run overruns; a pleat
whose actions and stores are done ends, a timed one not before its planned end, the next one following or the stitch
completing; an open pleat's watchdog, LENGTH µs after its start, only sets its event; a complete stitch goes to its cinch. -/
def Obligations.Pleats : Prop :=
  (∀ (p : Nat) (s : State), p < 64 → s.time.due = some p → s.regB Reg.timStatus 13 = false →
    ∃ t, exec .pleatBegin s = .next t ∧ t.regF Reg.timStatus 4 6 = p ∧ t.regB Reg.timStatus 2 = true ∧
      (t.reg Reg.timPleatStart) = BitVec.ofNat 64 s.ft ∧ t.sync = [] ∧ t.time.inPleat = true ∧ t.time.due = none ∧
      t.time.isOpen = s.regB (Reg.timPleat p) 0 ∧ t.time.length = s.regF (Reg.timPleat p) 32 32 ∧
      t.time.planned = s.ft + 64 * max 1000 (s.regF (Reg.timPleat p) 32 32) ∧
      (s.time.pocketFire = false → (∀ e ∈ s.entriesOf p, e.unjudged = false ∧ s.malformed e = false) →
        let fired := ((s.entriesOf p).filter fun e => e.fires s.stitch).map Entry.launch
        t.time.launchQ = (fired.filter fun l => l.typ == 6) ++ fired.filter fun l => l.typ != 6)) ∧
  (∀ s : State, s.time.inPleat = true → s.time.isOpen = false → s.time.planned ≤ s.ft → s.time.overrun = false →
    s.pleatDone = false → ∃ t, exec .pleatEndTime s = .next t ∧ t.time = { s.time with overrun := true } ∧ t.regB Reg.timEvent 0 = true ∧
      (t.reg Reg.timCntPleatOverrun).toNat = min ((s.reg Reg.timCntPleatOverrun).toNat + 1) (2 ^ 32 - 1) ∧
      EventOnly { s with time := t.time } t [Reg.timEvent, Reg.timCntPleatOverrun]) ∧
  (∀ s : State, s.time.inPleat = true → s.pleatClear = true → s.regB Reg.timStatus 13 = false →
    (s.time.isOpen = true ∨ s.time.planned ≤ s.ft) →
    ∃ t, exec .pleatEnd s = .next t ∧ t.time.inPleat = false ∧
      (if s.regF Reg.timNpleat 0 6 ≤ s.regF Reg.timStatus 4 6 then t.time.lastEnded = true ∧ t.time.due = none
       else t.time.lastEnded = false ∧ t.time.due = some (s.regF Reg.timStatus 4 6 + 1)) ∧
      (s.time.isOpen = true ∨ s.time.lastDone ≤ s.time.planned → t = { s with time := t.time })) ∧
  (∀ s : State, s.time.inPleat = true → s.time.isOpen = true → s.time.length ≠ 0 → s.time.watched = false →
    s.pleatDone = false → (s.reg Reg.timPleatStart).toNat + 64000 * s.time.length ≤ s.ft →
    ∃ t, exec .openPleatWatchdog s = .next t ∧ t.regB Reg.timEvent 1 = true ∧
      t.time = { s.time with watched := true } ∧ EventOnly { s with time := t.time } t [Reg.timEvent]) ∧
  ∀ s : State, s.time.lastEnded = true → ∃ t, exec .stitchComplete s = .next t ∧ t.time.lastEnded = false ∧
    t.time.atCinch = true ∧ t.time.startCinch = false ∧ t.time.sent = false ∧ t.regB Reg.timStatus 2 = false ∧
    t.time.dueAt = s.ft ∧ (s.armedSets = [] → t.out = s.out ∧ t.mem = s.mem)

/-- The actions that queue their work (R45, R110, R180, R184, R291, R347): each is launched from the head of the launch
queue, reads its descriptor, and puts it where its kind waits. -/
def Sys2Proof.Parts.ActionsQueued : Prop :=
  ∀ (s : State) (l : Launch) (q : List Launch), let a := l.desc % 2 ^ 48
    (Launching s 1 64 l q → let b := descBytes s l 64
      at_ b 0 3 = 1 → at_ b 8 8 = 0 → s.dmaMalformed b = false →
      ∃ t, exec .actionDma s = .next t ∧ Launched s t l q ∧
        Tbl.get none t.dmas s.nextDma = some ⟨s.nextAct, 0, some a, b, false, false, [], 0⟩ ∧
        t = { s with time := t.time, acts := t.acts, nextAct := t.nextAct, regs := t.regs, dmas := t.dmas,
                     nextDma := s.nextDma + 1 }) ∧
    (Launching s 2 128 l q → let b := descBytes s l 128
      (tdescOf b).tile < numTiles s.grade →
      ∃ t, exec .actionTileTask s = .next t ∧ Launched s t l q ∧
        t.queueOf (tdescOf b).tile = s.queueOf (tdescOf b).tile ++ [⟨s.nextAct, 0, a, b, false⟩] ∧
        (∀ k, k ≠ (tdescOf b).tile → t.queueOf k = s.queueOf k) ∧
        t = { s with time := t.time, acts := t.acts, nextAct := t.nextAct, regs := t.regs, tileQ := t.tileQ }) ∧
    (Launching s 3 128 l q → let b := descBytes s l 128
      l.deadline = none → s.batchPresent (bdescOf b) = true → (bdescOf b).opOk = true → (bdescOf b).nunits ≠ 0 →
      ∃ t, exec .actionSolverBatch s = .next t ∧ Launched s t l q ∧ t.nextBatch = s.nextBatch + 1 ∧
        t.batchOf s.nextBatch = some ⟨a, b, s.nextAct, 0, (bdescOf b).unitKeys, false⟩ ∧
        (∀ e : Fin 32, t.engQueue e =
          s.engQueue e ++ if e.val ∈ (bdescOf b).unitKeys then [(s.nextBatch, false)] else []) ∧
        (∀ c : Fin 256, t.coreQueue c =
          s.coreQueue c ++ if 256 + c.val ∈ (bdescOf b).unitKeys then [.share s.nextBatch false] else [])) ∧
    (Launching s 4 64 l q → let b := descBytes s l 64
      (ldescOf b).core < numCores s.grade →
      ∃ t, exec .actionCoreProgram s = .next t ∧ Launched s t l q ∧
        t.coreQueue (ldescOf b).core = s.coreQueue (ldescOf b).core ++ [.launch ⟨s.nextAct, 0, a, b⟩ false] ∧
        t = { s with time := t.time, acts := t.acts, nextAct := t.nextAct, regs := t.regs, coreQ := t.coreQ }) ∧
    (Launching s 5 64 l q → let b := descBytes s l 64
      let ch := s.grpChan (colGroup b)
      ∃ t, exec .actionCollectiveStart s = .next t ∧ Launched s t l q ∧
        Tbl.get [] t.colQ ch = Tbl.get [] s.colQ ch ++ [⟨s.nextAct, 0, a, b, false⟩] ∧
        t = { s with time := t.time, acts := t.acts, nextAct := t.nextAct, regs := t.regs, colQ := t.colQ }) ∧
    (Launching s 7 64 l q → let b := descBytes s l 64
      s.restore = none → s.ckpRun.isSome = true → s.ckpQ.length < 4 →
      ∃ t, exec .actionCheckpoint s = .next t ∧ Launched s t l q ∧ t.ckpQ = s.ckpQ ++ [⟨s.nextAct, 0, a, b, false⟩] ∧
        t = { s with time := t.time, acts := t.acts, nextAct := t.nextAct, regs := t.regs, ckpQ := t.ckpQ })

/-- The actions that complete at their launch (R45, R49, R50, R411), and the deadline of an action (R41): a telemetry
sample writes its record in the next slot and counts it; a throttle descriptor sets the levels of its units; a host signal
owes its completion entry; a deadline is signalled to its action once fabric time has reached the deadline less
TIM_DEADLINE_LEAD, and not before. -/
def Sys2Proof.Parts.ActionsAtOnce : Prop :=
  (∀ (s : State) (l : Launch) (q : List Launch), l.table = true → s.pendStore + 1 < 4096 →
    (s.time.launchQ = l :: q → l.typ = 8 → l.count = 1 → s.regB Reg.timStatus 13 = false →
      ∃ t, exec .actionHostSignal s = .next t ∧ LaunchedDone s t l q ∧
        t = { s with time := t.time, acts := t.acts, nextAct := t.nextAct, owed := t.owed }) ∧
    (s.time.launchQ = l :: q → l.typ = 6 → l.count = 1 → s.regB Reg.timStatus 13 = false → l.tset < 16 →
      let wp := (s.reg (Reg.timTsetWp l.tset)).toNat
      let slot := l.desc % 2 ^ 48 + 544 * (wp % max 1 l.period)
      let ids := s.tsetIds l.tset
      Storable s slot 544 → s.poisonIn slot 544 = false →
      ∃ t, exec .actionTelemetrySample s = .next t ∧ LaunchedDone s t l q ∧
        (t.reg (Reg.timTsetWp l.tset)) = BitVec.ofNat 64 (wp + 1) ∧ t.num slot 8 = s.stitch.toNat ∧
        t.num (slot + 8) 8 = (s.reg Reg.timPleatStart).toNat ∧ t.num (slot + 16) 1 = s.pleatNow % 256 ∧
        t.num (slot + 17) 1 = l.tset ∧ t.num (slot + 18) 2 = ids.length ∧
        (∀ k, k < ids.length → t.num (slot + 32 + 8 * k) 8 = s.teleValue (ids.getD k 0)) ∧
        (∀ x, (x < slot ∨ slot + 544 ≤ x) → t.byte x = s.byte x) ∧
        OnlyRegs s t [Reg.timTsetWp l.tset, Reg.hubCnt 5]) ∧
    (Launching s 9 32 l q → let b := descBytes s l 32
      let kind := bytesNat (b.take 4) / 16 % 4
      let first := bytesNat ((b.drop 4).take 2)
      let n := bytesNat ((b.drop 6).take 2)
      throttleBad b = false → Storable s (l.desc % 2 ^ 48 + 3) 1 →
      ∃ t, exec .actionThrottle s = .next t ∧ LaunchedDone s t l q ∧ t.byte (l.desc % 2 ^ 48 + 3) = 0 ∧
        (∀ x, x ≠ l.desc % 2 ^ 48 + 3 → t.byte x = s.byte x) ∧
        ∀ u, Tbl.get 8 t.swLevel (256 * kind + u) =
          if first ≤ u ∧ u < first + n ∧ u < unitsOf s.grade kind then bytesNat (b.take 4) % 16
          else Tbl.get 8 s.swLevel (256 * kind + u))) ∧
  ∀ (n d : Nat) (a : Act) (s : State), s.actOf n = some a → a.deadline = some d → s.batches = [] →
    (d ≤ s.ft + 64 * (s.reg Reg.timDeadlineLead).toNat →
      ∃ t, exec (.deadlineSignal n) s = .next t ∧ t.actOf n = some { a with signalled := true } ∧
        (∀ m, m ≠ n → t.actOf m = s.actOf m) ∧ t = { s with acts := t.acts }) ∧
    (s.ft + 64 * (s.reg Reg.timDeadlineLead).toNat < d → exec (.deadlineSignal n) s = .next s)

/-- The actions of the table: those that queue work and those that act at once. -/
def Obligations.Actions : Prop := Parts.ActionsQueued ∧ Parts.ActionsAtOnce

/-- The cinch (R48, R51, R52, R54 to R56): the package's arrival; the arrivals of its children; the release, its forwarding
and the stitch it begins at its fabric time T; an armed bank switch; the faults; the STITCH_IN and STITCH_OUT lands. -/
def Obligations.Cinch : Prop :=
  (∀ s : State, s.regB Reg.timCtrl 0 = true → s.regB Reg.timCtrl 3 = false → s.time.sent = false →
    s.time.atCinch = true → s.regB Reg.timStatus 13 = false → s.regB Reg.timCinchCfg 0 = false → MayArrive s →
    ∃ t, exec .arriveSend s = .next t ∧ t.regB Reg.timStatus 10 = true ∧ t.time.sent = true ∧
      t.out = s.out ++ [ownArrival s s.time.startCinch] ∧ OnlyRegs s t [Reg.timStatus] ∧
      t = { s with regs := t.regs, time := t.time, out := t.out }) ∧
  (∀ (m : ArriveMsg) (s : State), s.node ≠ 0xFFFF → m.pkey.toNat = s.regF Reg.timCinchPkey 0 16 → m.stitch = s.stitch →
    (∀ c ∈ s.time.arrived, c.1 ≠ m.src.toNat) → (m.start = true → m.det.toNat = s.regF Reg.detCfg 0 3) →
    ∃ t, exec (.cinchArrive m) s = .next t ∧
      t.time.arrived = s.time.arrived ++ [(m.src.toNat, m.lat.toNat + (BitVec.ofNat 64 s.ft - m.sent).toNat)] ∧
      t.time.lastArrival = s.ft ∧ (s.regB Reg.timCinchCfg 0 = false → t = { s with time := t.time })) ∧
  (∀ (m : ReleaseMsg) (s : State), s.node ≠ 0xFFFF → s.time.lastRelease ≠ some (m.stitch, m.t.toNat) → s.regB Reg.timCinchCfg 0 = false →
    s.time.sent = true → s.time.faulted = false → s.time.release = none → s.regB Reg.timStatus 13 = false →
    m.stitch = (if s.time.startCinch then s.stitch else s.stitch + 1) → s.ft ≤ m.t.toNat →
    ∃ t, exec (.cinchRelease m) s = .next t ∧ t.out = s.out ++ s.time.arrived.map (fun c => .release c.1 m) ∧
      t.time = { s.time with release := some (m.stitch, m.t.toNat), lastRelease := some (m.stitch, m.t.toNat),
                             pocketReq := m.pocket } ∧ t = { s with out := t.out, time := t.time }) ∧
  (∀ (s : State) (st : W64) (at' : Nat), s.time.release = some (st, at') → s.regB Reg.timStatus 13 = false → at' ≤ s.ft →
    ∃ t, exec .stitchBegin s = .next t ∧ t.stitch = st ∧ t.reg Reg.timStitchStart = BitVec.ofNat 64 at' ∧
      t.reg Reg.timCinchRelease = BitVec.ofNat 64 at' ∧ t.time.inPleat = true ∧ t.regF Reg.timStatus 4 6 = 0 ∧
      t.regB Reg.timStatus 10 = false ∧ t.time.atCinch = false ∧ t.time.release = none ∧ t.time.arrived = [] ∧
      t.time.stitchOut = (s.time.stitchOut || s.regB Reg.timCtrl 4) ∧ t.sync = [] ∧
      (if s.regB Reg.timBankCtrl 0 = true ∧ (s.reg Reg.timBankSwitch).toNat ≤ st.toNat
       then t.regF Reg.timStatus 12 1 = s.regF Reg.timBankCtrl 1 1 ∧ t.regB Reg.timBankCtrl 0 = false
       else t.regF Reg.timStatus 12 1 = s.regF Reg.timStatus 12 1 ∧
         t.reg Reg.timBankCtrl = s.reg Reg.timBankCtrl)) ∧
  (∀ (v : BitVec 32) (s : State), s.reaches Reg.timBankCtrl = true → ∃ t, exec (.bankArm v) s = .next t ∧
    t.regB Reg.timBankCtrl 0 = (s.regB Reg.timBankCtrl 0 || v.getLsbD 0) ∧
    t.regB Reg.timBankCtrl 1 = v.getLsbD 1 ∧ OnlyRegs s t [Reg.timBankCtrl] ∧ t = { s with regs := t.regs }) ∧
  (∀ s : State, s.regB Reg.timCtrl 0 = true → s.time.atCinch = true → s.time.sent = false → s.time.faulted = false →
    s.time.arrived.length < min 27 (s.regF Reg.timCinchCfg 1 5) →
    s.time.dueAt + 64000 * (s.reg Reg.timCinchTimeout).toNat ≤ s.ft →
    ∃ t, exec .cinchTimeout s = .next t ∧ t.regB Reg.timEvent 7 = true ∧
      t.time = { s.time with faulted := s.time.release.isNone } ∧ EventOnly { s with time := t.time } t [Reg.timEvent]) ∧
  (∀ s : State, s.regB Reg.timCinchCfg 0 = true → s.regF Reg.timCtrl 1 2 = 1 → s.regB Reg.timCtrl 0 = true →
    (s.regB Reg.timStatus 11 = true → ∃ t, exec .stitchIn s = .next t ∧ t.regB Reg.timEvent 4 = true ∧
      (t.reg Reg.timCntStitchOverrun).toNat = min ((s.reg Reg.timCntStitchOverrun).toNat + 1) (2 ^ 32 - 1) ∧
      EventOnly s t [Reg.timEvent, Reg.timCntStitchOverrun]) ∧
    (s.regB Reg.timStatus 11 = false → s.time.sent = false → ∃ t, exec .stitchIn s = .next t ∧
      t.regB Reg.timStatus 11 = true ∧ OnlyRegs s t [Reg.timStatus] ∧ t = { s with regs := t.regs })) ∧
  ∀ s : State, (s.time.outEnd ≤ s.ft → exec .stitchOutEnd s = .next { s with time := { s.time with stitchOut := false } }) ∧
    (s.ft < s.time.outEnd → exec .stitchOutEnd s = .next s)

namespace Sys2Proof.Claims
open Sys2Proof Sys2Proof.Machine

/-- A request to the sector at `a` is taken at once by its home controller: the address is at a home controller and its
requester may reach it, no request to its group waits, its page is not being copied, and the host holds no copy of its
line. -/
def AtController (s : State) (a : Nat) (r : Req) : Prop :=
  s.atHome a = true ∧ s.reachable r a = true ∧ (∀ h ∈ s.memHeld, h.addr / 256 ≠ a / 256) ∧
    (∀ e ∈ s.retiring, e.1 ≠ a / 4096) ∧ ∀ e ∈ s.hostLines, e.1 ≠ a / 64

/-- The seam words of a request came without errors. -/
def CleanHops (hops : List (List SymErr)) : Prop := ∀ h ∈ hops, h = []

/-- The counters a request at package `n` may count. -/
def memCounters (n : Nat) : List Nat :=
  [Reg.memCCntRd n, Reg.memCCntWr n, Reg.memCCntChkHit n, Reg.memCCntChkMiss n, Reg.memCCntPoisonRd n]

/-- One lookup in the check cache: a hit or a miss is counted. -/
def OneLookup (s t : State) (n : Nat) : Prop :=
  (Counted s t (Reg.memCCntChkHit n) 1 ∧ t.reg (Reg.memCCntChkMiss n) = s.reg (Reg.memCCntChkMiss n)) ∨
  (Counted s t (Reg.memCCntChkMiss n) 1 ∧ t.reg (Reg.memCCntChkHit n) = s.reg (Reg.memCCntChkHit n))

/-- Byte `i` of a granule. -/
def granByte (g : BitVec 256) (i : Nat) : Byte := BitVec.ofNat 8 (g.toNat / 2 ^ (8 * i))

/-- Outside the sector at `a`, memory and poison read as before. -/
def OnlySector (s t : State) (a : Nat) : Prop :=
  (∀ x, x / 32 ≠ a / 32 → t.byte x = s.byte x) ∧ ∀ g, g ≠ a / 32 → t.poisoned g = s.poisoned g

end Sys2Proof.Claims

/-- Opening working memory (R247) and the flush (R251): TRAIN, INIT after training, OPEN after the fill, each ignored out of
order; the fill leaves every byte of working memory 0 and not poisoned; FLUSH leaves no dirty check sector and clears when
the last controller has finished. -/
def Obligations.MemoryBringUp : Prop :=
  (∀ (v : BitVec 32) (s : State), s.reaches Reg.memCtrl = true →
    (v = 1 → ∃ t, exec (.memTrain v) s = .next t ∧ t.regB Reg.memCtrl 0 = true ∧ OnlyRegs s t [Reg.memCtrl] ∧
      t = { s with regs := t.regs }) ∧
    (v = 2 → s.regB Reg.memCtrl 1 = false →
      (s.regB Reg.memStatus 0 = true → ∃ t, exec (.memInit v) s = .next t ∧ t.regB Reg.memCtrl 1 = true ∧
        t.regB Reg.memStatus 2 = true ∧ OnlyRegs s t [Reg.memCtrl, Reg.memStatus] ∧ t = { s with regs := t.regs }) ∧
      (s.regB Reg.memStatus 0 = false → exec (.memInit v) s = .next s)) ∧
    (v = 4 → s.regB Reg.memCtrl 2 = false →
      (s.regB Reg.memCtrl 1 = true → s.regB Reg.memStatus 2 = false → ∃ t, exec (.memOpen v) s = .next t ∧
        t.regB Reg.memCtrl 2 = true ∧ t.regB Reg.memStatus 3 = true ∧ (∀ x, t.byte x = s.byte x)) ∧
      (s.regB Reg.memCtrl 1 = false ∨ s.regB Reg.memStatus 2 = true → exec (.memOpen v) s = .next s)) ∧
    (v = 8 → ∃ t, exec (.memFlush v) s = .next t ∧ t.regB Reg.memCtrl 3 = true ∧
      (∀ p ∈ t.chkCache, ∀ e ∈ p.2, e.2 = false) ∧ OnlyRegs s t [Reg.memCtrl] ∧
      t = { s with regs := t.regs, chkCache := t.chkCache })) ∧
  (∀ s : State, s.regB Reg.memCtrl 0 = true → s.regB Reg.memStatus 0 = false → s.regB Reg.memStatus 1 = false →
    (∃ t, exec (.memTrainDone none) s = .next t ∧ t.regB Reg.memStatus 0 = true ∧
      (∀ n, n < numPkgs s.grade → t.regF (Reg.memCStatus n) 0 4 = 15) ∧ ∀ x, t.byte x = s.byte x) ∧
    ∀ f : Fin 64, ∃ t, exec (.memTrainDone (some f)) s = .next t ∧ t.regB Reg.memStatus 1 = true ∧
      t.regB Reg.memStatus 0 = false ∧ t.regF Reg.memStatus 4 6 = f.val) ∧
  (∀ s : State, s.regB Reg.memStatus 2 = true → s.fwRuns = false → ∃ t, exec .memInitDone s = .next t ∧
    t.regB Reg.memStatus 2 = false ∧
    (∀ x, t.byte x = if x < usable s.grade then 0 else s.byte x) ∧
    (∀ g, t.poisoned g = if 32 * g < usable s.grade then false else s.poisoned g) ∧ OnlyRegs s t [Reg.memStatus] ∧
    t = { s with regs := t.regs, mem := t.mem, poison := t.poison }) ∧
  ∀ s : State, ∃ t, exec .memFlushDone s = .next t ∧ t.regB Reg.memCtrl 3 = false ∧ OnlyRegs s t [Reg.memCtrl] ∧
    t = { s with regs := t.regs }

/-- Requests at their home controller, read without errors (R139, R251, R255): a read returns the sector's bytes and its
poison; a write of a whole sector replaces it, poison included; a write in part replaces the bytes of its mask, its poison poisons
the sector, and it leaves a poisoned sector poisoned, which is POISON_MERGE; an atomic returns the old value and leaves the new one. Each looks one
check sector up. -/
def Obligations.MemoryRequests : Prop :=
  ∀ (a : Nat) (r : Req) (hops : List (List SymErr)) (s : State), AtController s a r → CleanHops hops →
    let n := homePkg s.grade a
    (∃ t, exec (.memRead a r [] hops) s = .next t ∧ t.dataOut = s.bytes (a / 32 * 32) 32 ∧
      t.dataPoison = s.poisoned (a / 32) ∧ Counted s t (Reg.memCCntRd n) 1 ∧ OneLookup s t n ∧
      OnlyRegs s t (memCounters n) ∧
      t = { s with regs := t.regs, chkCache := t.chkCache, dataOut := t.dataOut, dataPoison := t.dataPoison }) ∧
    (∀ (g : BitVec 256) (p : Bool), ∃ t, exec (.memWrite a g p r hops) s = .next t ∧
      t.poisoned (a / 32) = p ∧ (p = false → ∀ i, i < 32 → t.byte (a / 32 * 32 + i) = granByte g i) ∧
      OnlySector s t a ∧ Counted s t (Reg.memCCntWr n) 1 ∧ OneLookup s t n ∧ OnlyRegs s t (memCounters n) ∧
      t = { s with regs := t.regs, chkCache := t.chkCache, mem := t.mem, poison := t.poison }) ∧
    (∀ (mask : BitVec 32) (g : BitVec 256) (p : Bool), s.poisoned (a / 32) = false →
      ∃ t, exec (.memPartialWrite a mask g p r [] hops) s = .next t ∧ t.poisoned (a / 32) = p ∧
        (p = false → ∀ i, i < 32 → t.byte (a / 32 * 32 + i) =
          if mask.getLsbD i then granByte g i else s.byte (a / 32 * 32 + i)) ∧
        OnlySector s t a ∧ OneLookup s t n ∧ OnlyRegs s t (memCounters n) ∧
        t = { s with regs := t.regs, chkCache := t.chkCache, mem := t.mem, poison := t.poison }) ∧
    (∀ (mask : BitVec 32) (g : BitVec 256) (p : Bool), s.poisoned (a / 32) = true →
      s.regB Reg.hubEvlogCfg 0 = false → ∃ t, exec (.memPartialWrite a mask g p r [] hops) s = .next t ∧
        t.poisoned (a / 32) = true ∧ OnlySector s t a ∧ t.regB Reg.memEvent 1 = true ∧
        t.reg (Reg.memCLastErr n) = BitVec.ofNat 64 (a / 32 * 32)) ∧
    ∀ o : AtomOp, s.poisoned (a / 32) = false → o.off.val % 2 ^ o.size.val = 0 →
      let w := 2 ^ o.size.val
      let at' := a / 32 * 32 + o.off.val
      let old := s.num at' w
      ∃ t, exec (.memAtomic a o r ⟨[], hops⟩) s = .next t ∧ bytesNat t.dataOut = old ∧ t.dataPoison = false ∧
        (o.op = 0 → t.num at' w = (old + o.a.toNat) % 2 ^ (8 * w)) ∧
        (o.op = 2 → t.num at' w = o.a.toNat % 2 ^ (8 * w)) ∧
        (o.op = 7 → t.num at' w = if old = o.b.toNat % 2 ^ (8 * w) then o.a.toNat % 2 ^ (8 * w) else old) ∧
        (∀ v, atomNew o old = some v → t.num at' w = v % 2 ^ (8 * w)) ∧
        (∀ x, (x < at' ∨ at' + w ≤ x) → t.byte x = s.byte x) ∧ (∀ g, t.poisoned g = s.poisoned g) ∧
        OnlyRegs s t (memCounters n)

/-- The controllers' own work: retirement of a page (R247, R260), refresh (R256), patrol scrub (R257) and temperature
(R258). -/
def Obligations.MemoryUpkeep : Prop :=
  (∀ (addr : BitVec 64) (k : Nat) (s : State), let page := addr.toNat / 4096
    let n := homePkg s.grade addr.toNat
    s.reaches Reg.memRetireAdd = true → addr.toNat < usable s.grade → s.slotOf n page = none → s.freeSlot n = some k →
    (s.regB Reg.memCtrl 1 = true → page ∉ s.retireDue → (∀ e ∈ s.retiring, e.1 ≠ page) →
      s.slotOf (homePkg s.grade (4096 * page)) page = none → (s.freeSlot (homePkg s.grade (4096 * page))).isSome = true →
      ∃ t, exec (.memRetireAdd addr) s = .next t ∧ t.retireDue = s.retireDue ++ [page] ∧
        t = { s with retireDue := t.retireDue, held := t.held }) ∧
    (s.regB Reg.memCtrl 1 = false → ∃ t, exec (.memRetireAdd addr) s = .next t ∧
      t.reg (Reg.memCSpare n k) = BitVec.ofNat 64 (1 + 4096 * page) ∧
      t.reg (Reg.memCRetired n) = s.reg (Reg.memCRetired n) + 1 ∧
      t.reg (Reg.memCSpareFree n) = s.reg (Reg.memCSpareFree n) - 1 ∧ t.regB Reg.memEvent 2 = true ∧
      EventFrame s t [Reg.memCSpare n k, Reg.memCRetired n, Reg.memCSpareFree n, Reg.memEvent])) ∧
  (∀ (page k : Nat) (s : State), let n := homePkg s.grade (4096 * page)
    page ∈ s.retireDue → s.freeSlot n = some k → ∃ t, exec (.pageRetire page) s = .next t ∧
      t.retiring = s.retiring ++ [(page, k)] ∧ page ∉ t.retireDue ∧ t.regB (Reg.memCStatus n) 6 = true ∧
      t.reg (Reg.memCSpareFree n) = s.reg (Reg.memCSpareFree n) - 1 ∧
      OnlyRegs s t [Reg.memCStatus n, Reg.memCSpareFree n] ∧
      t = { s with regs := t.regs, retiring := t.retiring, retireDue := t.retireDue }) ∧
  (∀ (page k : Nat) (errs : List (List SymErr)) (s : State), let n := homePkg s.grade (4096 * page)
    (page, k) ∈ s.retiring → (∀ e ∈ s.retiring, e.1 = page → e.2 = k) → s.memHeld = [] →
    (∀ e ∈ s.rxFlows, e.2.waiting = []) → s.chunkQ = [] → CleanHops errs →
    ∃ t, exec (.pageRetireDone ⟨page, errs⟩) s = .next t ∧ (∀ e ∈ t.retiring, e.1 ≠ page) ∧
      t.reg (Reg.memCSpare n k) =
        BitVec.ofNat 64 (1 + (if s.poisonIn (4096 * page) 4096 then 2 else 0) + 4096 * page) ∧
      t.reg (Reg.memCRetired n) = s.reg (Reg.memCRetired n) + 1 ∧
      t.regB Reg.memEvent 2 = true ∧
      EventFrame s t [Reg.memCStatus n, Reg.memCSpare n k, Reg.memCRetired n, Reg.memCCntPoisonRd n, Reg.memEvent]) ∧
  (∀ (n : Fin 64) (ch rank : Nat) (bank : Fin 16) (lost : Nat) (s : State), n.val < numPkgs s.grade → ch < 4 → rank < 2 →
    ∃ t, exec (.refreshDue n ch rank bank lost) s = .next t ∧ Counted s t (Reg.memCCntRefTc n) lost ∧
      Tbl.get none t.refreshed (4 * n + ch) = some (16 * rank + bank) ∧ OnlyRegs s t [Reg.memCCntRefTc n] ∧
      t = { s with regs := t.regs, refreshed := t.refreshed }) ∧
  (∀ (n : Fin 64) (ch : Fin 4) (errs : List (List SymErr)) (s : State), n.val < numPkgs s.grade →
    s.regB Reg.memCfg 2 = true → s.regB Reg.memCtrl 1 = true → s.regB Reg.memStatus 2 = false → s.memHeld = [] →
    Tbl.get none s.refreshed (4 * n + ch) =
      some (bankOf (dramSector (8 * (Tbl.get 0 s.scrubPos (4 * n + ch) % groupsPerChannel)))) →
    CleanHops errs → ∃ t, exec (.scrubRead n ch errs) s = .next t ∧
      Tbl.get 0 t.scrubPos (4 * n + ch) = Tbl.get 0 s.scrubPos (4 * n + ch) + 1 ∧
      (∀ k, k ≠ 4 * n.val + ch.val → Tbl.get 0 t.scrubPos k = Tbl.get 0 s.scrubPos k) ∧
      Tbl.get none t.refreshed (4 * n + ch) = none ∧ OnlyRegs s t [Reg.memCCntScrubPass n] ∧
      t = { s with regs := t.regs, scrubPos := t.scrubPos, refreshed := t.refreshed }) ∧
  ∀ (n : Fin 64) (temp : BitVec 8) (rate : BitVec 3) (held : Nat) (s : State), n.val < numPkgs s.grade →
    let old := s.regF (Reg.memCStatus n) 4 2
    let hi := (s.regF Reg.memTherm 0 8 : Int)
    let lo := (s.regF Reg.memTherm 8 8 : Int)
    let crit := (s.regF Reg.memTherm 16 8 : Int)
    ∃ t, exec (.mr4Poll n temp rate held) s = .next t ∧ t.regF (Reg.memCTemp n) 0 8 = temp.toNat ∧
      Tbl.get 0 t.refRate n = rate.toNat ∧
      (crit ≤ temp.toInt → t.regF (Reg.memCStatus n) 4 2 = 2) ∧
      (temp.toInt < crit → temp.toInt < lo → t.regF (Reg.memCStatus n) 4 2 = 0) ∧
      (temp.toInt < crit → lo ≤ temp.toInt → hi ≤ temp.toInt → t.regF (Reg.memCStatus n) 4 2 = max old 1) ∧
      (temp.toInt < crit → lo ≤ temp.toInt → temp.toInt < hi → t.regF (Reg.memCStatus n) 4 2 = old) ∧
      (old ≠ 0 → Counted s t (Reg.memCCntThrottleTc n) held) ∧
      EventRegs s t
        [Reg.memCTemp n, Reg.memCStatus n, Reg.memCCntThrottleTc n, Reg.memEvent]

namespace Sys2Proof.Claims
open Sys2Proof Sys2Proof.Machine

/-- A flit addressed to the package that it accepts as one of type `typ` (R264, R270, R277, R278). -/
def Accepted (s : State) (f : Flit) (typ : Nat) : Prop :=
  s.node ≠ 0xFFFF ∧ f.dst.toNat = s.node ∧ f.typ.toNat = typ ∧ flitOk f = true ∧
    f.pkey.toNat = s.regF Reg.fabPkey 0 16 ∧ s.dropKey ≠ some f.pkey.toNat

/-- A flow to a node may send, on port `p`. -/
def RouteTo (s : State) (dst vc p : Nat) : Prop :=
  s.node ≠ 0xFFFF ∧ dst ≠ s.node ∧ (s.flow dst vc).drain = false ∧ s.portFor dst vc = some p

/-- The flits that wait at port `p` with `f` behind them. -/
def queueWith (s : State) (p : Nat) (f : Flit) : List Flit := Tbl.get [] s.portQ p ++ [f]

/-- One flit was handed to port `p`: it joined the port's queue, of which at most one flit, it or another, was sent. -/
def Handed (s t : State) (p : Nat) (f : Flit) : Prop :=
  (t.out = s.out ∧ Tbl.get [] t.portQ p = queueWith s p f) ∨
    ∃ g lseq ack cvc cc, g ∈ queueWith s p f ∧ t.out = s.out ++ [.flit p lseq ack cvc cc g] ∧
      Tbl.get [] t.portQ p = (queueWith s p f).erase g

/-- The answer to a request flit. -/
def answerTo (f : Flit) (typ : BitVec 7) (words : List FWord) (trailer : Nat) : Flit :=
  { f with dst := f.src, src := f.dst, typ := typ, start := false, vc := 2, last := true, replica := false,
           words := words, trailer := BitVec.ofNat 64 trailer }

/-- The turn of a request on its flow, and nothing that it must wait for. -/
def InTurn (s : State) (f : Flit) : Prop :=
  f.start = false ∧ (s.rxFlow (flowKey f)).expected = f.seq.toNat ∧ (s.rxFlow (flowKey f)).waiting = [] ∧
    s.mustWait f = false

/-- The flow expects the next request. -/
def TurnTaken (s t : State) (f : Flit) : Prop :=
  (t.rxFlow (flowKey f)).expected = ((s.rxFlow (flowKey f)).expected + 1) % 4096

/-- Words without errors: data, each clean. -/
def cleanWords (gs : List Granule) : List FWord := gs.map fun g => fword g false

/-- The bytes of granules. -/
def wordBytes (gs : List Granule) : List Byte := gs.flatMap granuleBytes

/-- The chunk that a flit goes on with or begins (R284), and the other chunks being received. -/
def chunkOf (s : State) (f : Flit) : ChunkRx :=
  (s.chunksRx.find? fun c => c.src == f.src.toNat && c.tag == f.tag.toNat && c.typ == f.typ.toNat).getD
    ⟨f.src.toNat, f.tag.toNat, f.typ.toNat, f.addr.toNat * 32, [], false⟩

/-- The words of the chunk with those of the flit; the first flit, where it comes again, begins them anew. -/
def wordsWith (s : State) (f : Flit) : List FWord :=
  if flitAddr f = (chunkOf s f).addr then f.words else (chunkOf s f).words ++ f.words

/-- See `chunkOf`. -/
def otherChunks (s : State) (f : Flit) : List ChunkRx := s.chunksRx.erase (chunkOf s f)

/-- No other chunk has the sender, tag and type of the flit's. -/
def OneChunk (s : State) (f : Flit) : Prop :=
  ∀ c ∈ otherChunks s f, ¬ (c.src = f.src.toNat ∧ c.tag = f.tag.toNat ∧ c.typ = f.typ.toNat)

/-- No program has ended and waits for its stores. -/
def NoneEnding (s : State) : Prop := ∀ e ∈ s.progs, ∀ p, e.2 = some p → p.ended = none

/-- Nothing waits for the limits of a flow, or in one. -/
def NoneWaiting (s : State) : Prop := s.reqQ = [] ∧ s.chunkQ = [] ∧ ∀ e ∈ s.rxFlows, e.2.waiting = []

/-- One request or chunk to a node is no longer outstanding; with none left, every write there is acknowledged (R283). -/
def Settled (s t : State) (dst : Nat) : Prop :=
  t.outstTo dst = s.outstTo dst - 1 ∧ (∀ d, d ≠ dst → t.outstTo d = s.outstTo d) ∧
    t.wroteTo = if s.outstTo dst ≤ 1 then s.wroteTo.filter fun p => p.2 != dst else s.wroteTo

/-- A request is no longer outstanding. -/
def Retired (s t : State) (q : OutReq) : Prop := t.reqs = s.reqs.erase q ∧ Settled s t q.dst

/-- What came for a request has reached the accesses it serves (R137, R178, R270). -/
def Filled (s t : State) (q : OutReq) (g : Granule) (poison : Bool) : Prop :=
  t.accesses = s.accesses.map fun e => if s.serves q e then { e with data := some (g, poison) } else e

end Sys2Proof.Claims

/-- Links (R267, R271, R272, R276): a flit out of order or with a bad CRC is answered with a NACK of the last good one; one
in good order and for this package is taken as its type's command; a NACK sends the flits after it again; a port that
trains shows its partner, numbers from 0 and is UP, or DEGRADED with fewer than eight lanes. -/
def Sys2Proof.Parts.Links : Prop :=
  (∀ (p : Fin 32) (f : Flit) (l : LinkPart) (s : State), s.portReady p = true →
    (linkCrcOk f l = false ∨ l.lseq.toNat ≠ Tbl.get 0 s.linkRx p → exec (.linkFlitReceive p f l) s =
      .next { s with out := s.out ++ [.linkNack (revPort p) ((Tbl.get 0 s.linkRx p + 4095) % 4096)] }) ∧
    (linkCrcOk f l = true → l.lseq.toNat = Tbl.get 0 s.linkRx p → s.node ≠ 0xFFFF → f.dst.toNat = s.node →
      flitOk f = true →
      ∀ c ∈ ([(0x01, .rdReq), (0x02, .rdRsp), (0x03, .wrReq), (0x04, .wrAck), (0x05, .atomReq), (0x06, .atomRsp),
          (0x07, .nack), (0x08, .dmaRd), (0x09, .dmaData), (0x0A, .dmaAck), (0x10, .collData), (0x16, .drainMark),
          (0x17, .drainEcho), (0x18, .pocketData), (0x19, .pocketAck), (0x1C, .quench), (0x1D, .quenchAck),
          (0x1E, .mgmt)] : List (Nat × (Flit → Instr))), f.typ.toNat = c.1 →
        ∃ t, exec (.linkFlitReceive p f l) s = .next t ∧ exec (c.2 f) (s.takeLink p f l) = .next t) ∧
    (linkCrcOk f l = true → l.lseq.toNat = Tbl.get 0 s.linkRx p → s.node ≠ 0xFFFF → f.dst.toNat = s.node →
      flitOk f = true → f.typ.toNat = 0x11 →
      ∀ c ∈ ([(0, .collHello), (1, .collCredit), (2, .collSubst), (3, .collAbort), (4, .collTake)] :
          List (Nat × (Flit → Instr))), f.trailer.toNat % 16 = c.1 →
        ∃ t, exec (.linkFlitReceive p f l) s = .next t ∧ exec (c.2 f) (s.takeLink p f l) = .next t)) ∧
  (∀ (p : Fin 32) (f : Flit) (l : LinkPart) (s : State), l.nack = false →
    Tbl.get 0 (s.takeLink p f l).linkRx p = (l.lseq.toNat + 1) % 4096 ∧
    (s.takeLink p f l).mem = s.mem ∧ (s.takeLink p f l).progs = s.progs) ∧
  (∀ (p : Fin 32) (lseq : BitVec 12) (s : State), let q := revPort p
    let rest := ackBuf lseq.toNat (Tbl.get [] s.linkBuf q)
    s.portReady q = true → rest ≠ [] → Tbl.get (0, 0) s.linkFail q = (0, 0) →
    ∃ t, exec (.linkNack p lseq) s = .next t ∧ Tbl.get [] t.linkBuf q = rest ∧
      t.out = s.out ++ rest.map (fun e => .again q e.1 e.2) ∧ Counted s t (Reg.fabPCnt q 2) rest.length ∧
      OnlyRegs s t [Reg.fabPCnt q 2] ∧
      t = { s with regs := t.regs, linkBuf := t.linkBuf, linkFail := t.linkFail, out := t.out }) ∧
  (∀ (p : Fin 32) (f : Flit) (gs : List Granule) (s : State), s.portReady p = true → f.typ.toNat = 0x1F → f.vc = 0 →
    f.words = cleanWords gs → ∃ t, exec (.linkCtrl p f) s = .next t ∧
      (Config.rotateNotice f.trailer = none → t = s) ∧
      ∀ n, Config.rotateNotice f.trailer = some n → t.rotation (revPort p) false = some (n.1.toNat, n.2.toNat) ∧
        t = { s with rotate := t.rotate }) ∧
  ∀ (p : Fin 32) (far : BitVec 16) (s : State), s.canTrain p = true → s.portReady p = false →
    4 ≤ (s.healthyLanes p false).length → 4 ≤ (s.healthyLanes p true).length →
    ∃ t, exec (.linkTrainDone p far) s = .next t ∧ t.regF (Reg.fabPStatus p) 16 16 = far.toNat ∧
      t.regF (Reg.fabPStatus p) 0 3 =
        (if (s.healthyLanes p false).length < 8 ∨ (s.healthyLanes p true).length < 8 then 3 else 2) ∧
      Tbl.get 0 t.linkRx p = 0 ∧ (Tbl.get [] s.portQ p = [] → Tbl.get 0 t.linkTx p = 0 ∧ Tbl.get [] t.linkBuf p = []) ∧
      (28 ≤ p.val → s.regF (Reg.fabPStatus p) 16 16 ≠ far.toNat → t.regB Reg.fabEvent 11 = true)

/-- Lanes (R266 to R268): corrections are counted, and are an event of the lane where they exceed four times the port's limit;
an event is counted, and the fourth within 24 hours, or a loss of signal, makes the lane lasting; the receiver of the first
lasting lane gives notice of a rotation, which moves the logical lane onto the spare at the flit that the notice names. -/
def Sys2Proof.Parts.Lanes : Prop :=
  (∀ (p : Fin 32) (rx : Bool) (lane : Fin 9) (cause : LaneCause) (s : State),
    fourth (Tbl.get [] s.laneEv (laneKey p rx lane)) s.ft = false →
    (∀ n, cause = .corrections n → 4 * s.regF (Reg.fabPCfg p) 2 30 < n) →
    ∃ t, exec (.laneEvent p rx lane cause) s = .next t ∧ Counted s t (Reg.fabPCnt p 5) 1 ∧
      (cause = .uncorrectable → Counted s t (Reg.fabPCnt p 4) 1) ∧
      (∀ n, cause = .corrections n → Counted s t (Reg.fabPCnt p 3) n) ∧
      (Tbl.get [] t.laneEv (laneKey p rx lane)).getLast? = some s.ft ∧ t.laneLast = s.laneLast ∧
      OnlyRegs s t [Reg.fabPCnt p 5, Reg.fabPCnt p 4, Reg.fabPCnt p 3] ∧
      t = { s with regs := t.regs, laneEv := t.laneEv }) ∧
  (∀ (p : Fin 32) (rx : Bool) (lane : Fin 9) (n : Nat) (s : State), n ≤ 4 * s.regF (Reg.fabPCfg p) 2 30 →
    ∃ t, exec (.laneEvent p rx lane (.corrections n)) s = .next t ∧ Counted s t (Reg.fabPCnt p 3) n ∧
      OnlyRegs s t [Reg.fabPCnt p 3] ∧ t = { s with regs := t.regs }) ∧
  (∀ (p : Fin 32) (rx : Bool) (lane : Fin 9) (cause : LaneCause) (s : State),
    (∀ n, cause = .corrections n → 4 * s.regF (Reg.fabPCfg p) 2 30 < n) →
    fourth (Tbl.get [] s.laneEv (laneKey p rx lane)) s.ft = true → ∃ t, exec (.laneEvent p rx lane cause) s = .next t ∧
      (s.isLasting p rx lane = false → t.isLasting p rx lane = true)) ∧
  (∀ (p : Fin 32) (rx : Bool) (lane : Fin 9) (s : State), s.isLasting p rx lane = false →
    ∃ t, exec (.lossOfSignal p rx lane) s = .next t ∧ t.isLasting p rx lane = true ∧
      t.regB (Reg.fabPStatus p) (5 + lane) = true ∧ t.regB Reg.fabEvent 6 = true ∧
      ∀ i, rx = true → (∀ k : Fin 9, s.isLasting p rx k = false) → s.regB (Reg.fabPCfg p) 1 = false →
        s.portState p = 2 → s.logicalLane p rx lane = some i →
        ∃ n, t.rotation p true = some (i, n) ∧ t.out = s.out ++ [.linkCtrl (revPort p) i n]) ∧
  ∀ (p : Fin 32) (rx : Bool) (sp : Nat) (i : Fin 8) (n : Nat) (s : State), s.portState p = 2 →
    s.rotation p rx = some (i.val, n) → s.lseqReached p rx n = true → s.spareLane p rx = some sp →
    ∃ t, exec (.laneRotate p rx) s = .next t ∧ t.logicalLane p rx sp = some i.val ∧
      t.regB (Reg.fabPStatus p) (if rx then 4 else 3) = true ∧ Counted s t (Reg.fabPCnt p 6) 1 ∧
      t.regB Reg.fabEvent 7 = true ∧ t.rotation p rx = none ∧
      EventFrame s t
        [if rx then Reg.fabPRxmap p else Reg.fabPTxmap p, Reg.fabPStatus p, Reg.fabPCnt p 6, Reg.fabEvent] ∧
      t = { s with regs := t.regs, mem := t.mem, poison := t.poison, msixOut := t.msixOut, rotate := t.rotate }

/-- Links and their lanes. -/
def Obligations.LinksAndLanes : Prop := Parts.Links ∧ Parts.Lanes

/-- Requests of other nodes in their turn (R270, R280, R282, R284): a read answers the sectors it names; a write stores the
bytes of its mask and is acknowledged; an atomic is performed once and answered with the old value, and a duplicate is
answered from the cache and performs nothing; a DMA read opens the chunk it asks for, and sends it; the flits of a chunk are collected,
and the last, with a good CRC, stores them and is acknowledged. -/
def Sys2Proof.Parts.RemoteRequestsServed : Prop :=
  ∀ (f : Flit) (p : Nat) (s : State), RouteTo s f.src.toNat 2 p → InTurn s f →
    let a := f.addr.toNat * 32
    (Accepted s f 0x01 → let n := f.trailer.toNat % 8
      1 ≤ n → n ≤ 6 → a % 4096 + 32 * n ≤ 4096 → s.remoteTarget a (32 * n) = none →
      ∃ t, exec (.rdReq f) s = .next t ∧ TurnTaken s t f ∧ (∀ x, t.byte x = s.byte x) ∧
        Handed s t p (answerTo f 2 ((List.range n).map fun i =>
          fword (s.granule (a + 32 * i)) (s.poisoned (a / 32 + i))) 0)) ∧
    (Accepted s f 0x03 → ∀ g : Granule, f.words = cleanWords [g] → s.remoteTarget a 32 = none →
      s.poisoned (a / 32) = false → s.region a = .working →
      ∃ t, exec (.wrReq f) s = .next t ∧ TurnTaken s t f ∧ Handed s t p (answerTo f 4 [] 0) ∧
        (∀ i, i < 32 → t.byte (a + i) = if f.trailer.getLsbD i then granByte g i else s.byte (a + i)) ∧
        ∀ x, (x < a ∨ a + 32 ≤ x) → t.byte x = s.byte x) ∧
    (Accepted s f 0x05 → ∀ (w : Granule) (v : Nat), f.words = cleanWords [w] → s.replies.length < 64 →
      let o := flitAtom f w
      let n := 2 ^ o.size.val
      let at' := a + o.off.val
      s.remoteTarget at' n = none → o.off.val % n = 0 → s.poisoned (a / 32) = false →
      s.region (32 * (at' / 32)) = .working → atomNew o (s.num at' n) = some v →
      ∃ t, exec (.atomReq f) s = .next t ∧ TurnTaken s t f ∧ t.num at' n = v % 2 ^ (8 * n) ∧
        (∀ x, (x < at' ∨ at' + n ≤ x) → t.byte x = s.byte x) ∧
        Handed s t p (answerTo f 6 [fword (BitVec.ofNat 256 (s.num at' n)) false] 0) ∧
        ∃ r, (Tbl.get [] t.replies f.src.toNat).getLast? = some r ∧ r.tag = f.tag.toNat ∧ r.status = 0 ∧
          r.result.toNat = s.num at' n) ∧
    (Accepted s f 0x08 → let n := f.trailer.toNat % 4096 + 1
      let c : ChunkTx :=
        { dst := f.src.toNat, tag := f.tag.toNat, read := false, src := s.node * 2 ^ 48 + a + chunkStart f a n,
          addr := f.trailer.toNat / 2 ^ 16, len := n, owner := none, fill := none, bad := [], pocket := false,
          replica := false, seq := (s.flow f.src.toNat 6).next, since := s.ft }
      (∀ x ∈ s.chunksTx, ¬ (x.dst = f.src.toNat ∧ x.tag = f.tag.toNat ∧ x.read = false)) →
      (∀ x ∈ s.chunkQ, x.dst ≠ f.src.toNat) → (s.sentChunks f.src.toNat).length < 2048 → a % 4096 + n ≤ 4096 →
      (∀ x, x / 4096 = a / 4096 → s.region x = .working) →
      ∃ t, exec (.dmaRd f) s = .next t ∧ TurnTaken s t f ∧ t.chunksTx = s.chunksTx ++ [c] ∧
        t.outstTo f.src.toNat = s.outstTo f.src.toNat + 1 ∧ (∀ x, t.byte x = s.byte x) ∧
        ∀ q, RouteTo s f.src.toNat 6 q → n ≤ 192 → ∃ m, Handed s t q m ∧ m.dst = f.src ∧ m.typ.toNat = 0x09 ∧
          m.tag = f.tag ∧ m.last = true ∧ m.words.length = ceilDiv n 32) ∧
    (Accepted s f 0x09 → NoneWaiting s → let c := chunkOf s f
      (f.last = false → ∃ t, exec (.dmaData f) s = .next t ∧
        t.chunksRx = otherChunks s f ++ [{ c with words := wordsWith s f }] ∧
        t.rxFlow (flowKey f) = { s.rxFlow (flowKey f) with last := s.ft } ∧
        t = { s with chunksRx := t.chunksRx, rxFlows := t.rxFlows }) ∧
      (f.last = true → OneChunk s f → ∀ gs : List Granule, wordsWith s f = cleanWords gs → gs ≠ [] → c.addr % 32 = 0 →
        c.addr % 4096 + 32 * gs.length ≤ 4096 →
        (∀ d ∈ s.chunksTx, ¬ (d.read = true ∧ d.dst = f.src.toNat ∧ d.tag = f.tag.toNat)) →
        (∀ x, x / 4096 = c.addr / 4096 → s.region x = .working ∧ s.lineBusy x true = false ∧ s.poisoned (x / 32) = false) →
        (∀ x, s.replStore x = false) → s.replHeld = [] → f.trailer.toNat = crc64 (wordBytes gs) →
        let b := c.addr + chunkStart f c.addr (32 * gs.length)
        ∃ t, exec (.dmaData f) s = .next t ∧ TurnTaken s t f ∧ Handed s t p (answerTo f 0x0A [] 0) ∧
          t.chunksRx = otherChunks s f ∧ t.bytes b (32 * gs.length) = wordBytes gs ∧
          (∀ x, (x < b ∨ b + 32 * gs.length ≤ x) → t.byte x = s.byte x)))

/-- An atomic request that comes again is answered from the reply cache and not performed again (R282). -/
def Sys2Proof.Parts.AtomicPerformedOnce : Prop :=
  ∀ (f : Flit) (p : Nat) (r : Reply) (s : State), RouteTo s f.src.toNat 2 p → Accepted s f 0x05 → f.start = false →
    2048 ≤ (f.seq.toNat + 4096 - (s.rxFlow (flowKey f)).expected) % 4096 →
    (s.freshReplies f.src.toNat).find? (fun q => q.tag == f.tag.toNat) = some r →
    ∃ t, exec (.atomReq f) s = .next t ∧ t.mem = s.mem ∧ t.poison = s.poison ∧ t.replies = s.replies ∧
      Handed s t p (answerTo f 6 [fword (BitVec.ofNat 256 r.result.toNat) r.poison] r.status)

/-- Requests of other nodes, each served in its turn, and an atomic never twice. -/
def Obligations.RemoteRequests : Prop := Parts.RemoteRequestsServed ∧ Parts.AtomicPerformedOnce

/-- Responses and time limits of the package's own requests (R270, R281 to R284): a response ends its request, and its data, or
poison where its STATUS is not OK, reaches the accesses it serves; a NACK of STALE ends it with an event and one of BUSY does
nothing; an acknowledged chunk is over; FAB_REISSUE after it was last issued a request is issued again unchanged; a request
or chunk whose FAB_LOAD_TIMEOUT has passed sets REMOTE_TIMEOUT, and ends the program that waits for it. -/
def Obligations.ResponsesAndTimeouts : Prop :=
  (∀ (f : Flit) (q : OutReq) (g : Granule) (s : State), NoneEnding s → NoneWaiting s → f.words = cleanWords [g] →
    ∀ c ∈ ([(0x02, 0x01, .rdRsp), (0x06, 0x05, .atomRsp)] : List (Nat × Nat × (Flit → Instr))),
      Accepted s f c.1 → s.answered f c.2.1 = some q → ∃ t, exec (c.2.2 f) s = .next t ∧ Retired s t q ∧
        Filled s t q g (decide (f.trailer.toNat % 256 ≠ 0)) ∧ t.dataOut = granuleBytes g ∧
        t.dataPoison = decide (f.trailer.toNat % 256 ≠ 0) ∧
        t = { s with reqs := t.reqs, outst := t.outst, wroteTo := t.wroteTo, flows := t.flows, accesses := t.accesses,
                     dataOut := t.dataOut, dataPoison := t.dataPoison }) ∧
  (∀ (f : Flit) (q : OutReq) (s : State), NoneEnding s → NoneWaiting s →
    (Accepted s f 0x04 → f.words = [] → s.answered f 0x03 = some q → ∃ t, exec (.wrAck f) s = .next t ∧ Retired s t q ∧
      t = { s with reqs := t.reqs, outst := t.outst, wroteTo := t.wroteTo, flows := t.flows }) ∧
    (Accepted s f 0x07 → f.trailer.toNat % 256 = 2 → exec (.nack f) s = .next s) ∧
    (Accepted s f 0x07 → f.trailer.toNat % 256 = 1 → s.answered f 0x05 = some q → reqUnit q.req = none →
      ∃ t, exec (.nack f) s = .next t ∧ Retired s t q ∧ t.reg Reg.fabLastErr = BitVec.ofNat 64 q.global ∧
        t.regB Reg.fabEvent 1 = true ∧ EventFrame s t [Reg.fabLastErr, Reg.fabEvent]) ∧
    (∀ c : ChunkTx, Accepted s f 0x0A → f.trailer.toNat / 65536 % 256 = 0 → s.colTx = [] →
      (s.sentChunks f.src.toNat).find? (fun c => !c.read && c.tag == f.tag.toNat && c.seq == f.seq.toNat) = some c →
      c.owner = none → c.pocket = false → ∃ t, exec (.dmaAck f) s = .next t ∧
        t.chunksTx = s.chunksTx.filter (fun x => !sameChunk c x) ∧ Settled s t c.dst ∧
        t = { s with chunksTx := t.chunksTx, outst := t.outst, wroteTo := t.wroteTo, flows := t.flows })) ∧
  (∀ (dst : BitVec 16) (seq : BitVec 12) (q : OutReq) (p : Nat) (s : State),
    s.openRequest dst.toNat seq.toNat = some q →
    (RouteTo s q.flit.dst.toNat q.flit.vc.toNat p → q.last + usec * s.regF Reg.fabReissue 0 16 ≤ s.ft →
      ∃ t, exec (.requestReissue dst seq) s = .next t ∧ Counted s t (Reg.fabCnt 6) 1 ∧ Handed s t p q.flit ∧
        t.reqs = s.reqs.map fun x => if x = q then { x with last := s.ft } else x) ∧
    (NoneEnding s → NoneWaiting s → q.timedOut = false → q.first + s.loadTimeout ≤ s.ft →
      (q.flit.typ.toNat = 3 ∨ reqUnit q.req = none → ∃ t, exec (.requestTimeout dst seq) s = .next t ∧
        Counted s t (Reg.fabCnt 9) 1 ∧ t.reg Reg.fabLastErr = BitVec.ofNat 64 q.global ∧ t.regB Reg.fabEvent 0 = true ∧
        (q.flit.typ.toNat = 3 → t.reqs = s.reqs.map fun x => if x = q then { x with timedOut := true } else x) ∧
        (q.flit.typ.toNat ≠ 3 → Retired s t q ∧ Filled s t q 0 true) ∧
        EventFrame s t [Reg.fabCnt 9, Reg.fabLastErr, Reg.fabEvent]) ∧
      ∀ (u : VUnit) (p : Prog), q.flit.typ.toNat ≠ 3 → reqUnit q.req = some u → s.progOf u = some p →
        ∃ t, exec (.requestTimeout dst seq) s = .next t ∧ t.regB Reg.fabEvent 0 = true ∧ t.reg (veFaultPc u) = p.pc ∧
          (t.reg (veLastFault u)).toNat % 256 = 0x34)) ∧
  ∀ (dst tag : BitVec 16) (c : ChunkTx) (s : State), NoneEnding s → NoneWaiting s →
    (s.sentChunks dst.toNat).find? (fun c => c.tag == tag.toNat) = some c → c.since + s.loadTimeout ≤ s.ft →
    ∃ t, exec (.chunkTimeout dst tag) s = .next t ∧ t.chunksTx = s.chunksTx.filter (fun x => !sameChunk c x) ∧
      Settled s t c.dst ∧ Counted s t (Reg.fabCnt 9) 1 ∧ t.regB Reg.fabEvent 0 = true

/-- Flows (R275, R280), replication (R286) and rings (R276): a drain mark is echoed; the echo, or FAB_DRAIN_TIMEOUT after the
drain began, lets a flow go on along its new path; a flow leaves a congested path with a drain mark, and a port that is down at
once; a flow that was quiet for 1 ms starts again at SEQ 0; the held stores are released; JOIN opens the shunts. -/
def Obligations.FlowsAndRings : Prop :=
  (∀ (f : Flit) (p : Nat) (s : State), Accepted s f 0x16 → RouteTo s f.src.toNat 2 p →
    ∃ t, exec (.drainMark f) s = .next t ∧ Handed s t p (answerTo f 0x17 [] f.trailer.toNat) ∧ t.mem = s.mem) ∧
  (∀ (f : Flit) (s : State), Accepted s f 0x17 → let vc := f.trailer.toNat % 8
    let fl := s.flow f.src.toNat vc
    fl.drain = true → ∃ t, exec (.drainEcho f) s = .next t ∧
      t.flow f.src.toNat vc = { fl with drain := false, path := fl.goal } ∧
      (Tbl.get [] s.drainQ (f.src.toNat * 8 + vc) = [] → t = { s with flows := t.flows, drainQ := t.drainQ })) ∧
  (∀ (dst : BitVec 16) (vc : Fin 8) (port : Fin 32) (p : Nat) (s : State), let fl := s.flow dst.toNat vc
    s.pathOk dst.toNat port = true → RouteTo s dst.toNat vc p →
    (s.portReady p = true → p ≠ port.val → s.portReady port = true →
      (s.regB Reg.detCfg 1 = false → 512 < s.egress p ∧ s.egress port < s.egress p) →
      (s.regB Reg.detCfg 1 = true → s.staticPort dst.toNat = some port.val) →
      ∃ t, exec (.flowRepath dst vc port false) s = .next t ∧ Counted s t (Reg.fabCnt 5) 1 ∧
        t.flow dst.toNat vc = { fl with drain := true, goal := s.pathOf dst.toNat port, since := s.ft } ∧
        ∃ m, m.typ.toNat = 0x16 ∧ m.dst = dst ∧ m.vc.toNat = vc.val ∧ m.trailer.toNat = vc.val ∧ Handed s t p m) ∧
    (s.portReady p = false → (p ≠ port.val ∨ 28 ≤ port.val) → ∃ t, exec (.flowRepath dst vc port true) s = .next t ∧
      t.flow dst.toNat vc =
        { fl with drain := false, path := s.pathOf dst.toNat port, goal := s.pathOf dst.toNat port })) ∧
  (∀ (dst : BitVec 16) (vc : Fin 8) (s : State), let fl := s.flow dst.toNat vc
    (fl.drain = true → fl.since + usec * s.regF Reg.fabDrainTimeout 0 16 ≤ s.ft → ∃ t, exec (.drainTimeout dst vc) s = .next t ∧
      t.flow dst.toNat vc = { fl with drain := false, path := fl.goal } ∧ t.reqs = s.reqs) ∧
    (fl.drain = false → fl.busyAt + msec ≤ s.ft → (∀ q ∈ s.reqs, ¬ (q.dst = dst.toNat ∧ q.vc = vc.val)) →
      (∀ q ∈ s.reqQ, ¬ (q.dst = dst.toNat ∧ q.vc = vc.val)) → (vc = 6 → ∀ c ∈ s.chunksTx, c.dst ≠ dst.toNat) → ∃ t, exec (.flowIdleRestart dst vc) s = .next t ∧
        t.flow dst.toNat vc = { fl with next := 0, started := false } ∧ t = { s with flows := t.flows })) ∧
  (∀ (v : BitVec 32) (s : State), s.reaches Reg.fabReplRelease = true → v.getLsbD 0 = true → s.replHeld = [] →
    NoneEnding s → ∃ t, exec (.replRelease v) s = .next t ∧ t.regB Reg.fabStatus 1 = false ∧
      OnlyRegs s t [Reg.fabStatus] ∧ (∀ e ∈ t.progs, ∀ p, e.2 = some p → p.wait ≠ .held) ∧
      t = { s with regs := t.regs, progs := t.progs }) ∧
  (∀ (v : BitVec 32) (h : HeldStore) (s : State), s.reaches Reg.fabReplRelease = true → v.getLsbD 0 = true →
    s.replHeld = [h] → s.replStore h.addr = false → OwnWrite s h.addr h.data.length → h.poison = false → NoneEnding s →
    h.data.length ∈ [1, 2, 4, 8] → ∃ t, exec (.replRelease v) s = .next t ∧ t.replHeld = [] ∧
      t.bytes (devAddr h.addr) h.data.length = h.data) ∧
  ∀ (v : BitVec 32) (s : State), s.reaches Reg.fabRingCtrl = true →
    ∃ t, exec (.ringJoin v) s = .next t ∧ t.regF Reg.fabRingCtrl 0 2 = v.toNat % 4 ∧
      t.regF Reg.fabRingCtrl 2 2 = 3 - v.toNat % 4 ∧
      (∀ i : Fin 4, v.getLsbD (i / 2) = false → s.portReady (28 + i) = true → t.portState (28 + i) = 0)

/-- Quench (R278) and management messages (R270): a manager sends QUENCH of a key to each listed node; a package that
receives one of its own key from a manager stops its time base, drops the key's traffic and acknowledges; the manager counts
the acknowledgements; UNQUENCH leaves the state. -/
def Obligations.QuenchAndManagement : Prop :=
  (∀ (v : BitVec 32) (s : State), s.reaches Reg.fabCtrl = true → v = 1 → s.regB Reg.fabCfg 0 = true →
    (s.reg Reg.fabQuenchCount).toNat % 65536 = 0 → s.region (s.reg Reg.fabQuenchList).toNat ≠ .host → ∃ t, exec (.quenchGo v) s = .next t ∧
      t.reg Reg.fabQuenchAcked = 0 ∧ t.out = s.out ∧ OnlyRegs s t [Reg.fabQuenchAcked]) ∧
  (∀ (v : BitVec 32) (n p : Nat) (s : State), s.reaches Reg.fabCtrl = true → v = 1 → s.regB Reg.fabCfg 0 = true →
    (s.reg Reg.fabQuenchCount).toNat % 65536 = 1 → s.quenchNodes = [n] → n < 0xFFFF →
    (n = s.node ∨ RouteTo s n 7 p) → ∃ t m, exec (.quenchGo v) s = .next t ∧
      (n ≠ s.node → Handed s t p m) ∧ (n = s.node → t.out = s.out ++ [.looped m]) ∧ m.typ.toNat = 0x1C ∧ m.vc = 7 ∧ m.dst.toNat = n ∧
      m.pkey.toNat = s.regF Reg.fabQuenchKey 0 16 ∧ t.reg Reg.fabQuenchAcked = 0) ∧
  (∀ (v : BitVec 32) (s : State), s.reaches Reg.fabCtrl = true → v = 2 → ∃ t, exec (.unquench v) s = .next t ∧
    t.regB Reg.fabStatus 0 = false ∧ t.dropKey = none ∧ OnlyRegs s t [Reg.fabStatus] ∧
    t = { s with regs := t.regs, dropKey := none }) ∧
  (∀ (f : Flit) (s : State), Accepted s f 0x1C → s.isFm f.src.toNat = true → ∃ t, exec (.quench f) s = .next t ∧
    t.dropKey = some f.pkey.toNat ∧ t.regB Reg.fabStatus 0 = true ∧ t.regB Reg.fabEvent 3 = true ∧
    t.regB Reg.timStatus 13 = true ∧ t.time.inPleat = false ∧ t.time.launchQ = [] ∧ t.time.release = none ∧
    ∀ p f', f' ∈ Tbl.get [] t.portQ p →
      f'.pkey ≠ f.pkey ∨ (f'.typ.toNat = 0x1C ∨ f'.typ.toNat = 0x1D)) ∧
  (∀ (f : Flit) (s : State), s.node ≠ 0xFFFF → f.dst.toNat = s.node → flitOk f = true → f.typ.toNat = 0x1D →
    f.pkey.toNat = s.regF Reg.fabQuenchKey 0 16 → (s.reg Reg.fabQuenchAcked).toNat < 65535 →
    ∃ t, exec (.quenchAck f) s = .next t ∧
      (t.reg Reg.fabQuenchAcked).toNat = (s.reg Reg.fabQuenchAcked).toNat + 1 ∧
      ((s.reg Reg.fabQuenchAcked).toNat + 1 = (s.reg Reg.fabQuenchCount).toNat % 65536 → t.regB Reg.fabEvent 4 = true) ∧
      EventOnly s t [Reg.fabQuenchAcked, Reg.fabEvent]) ∧
  ∀ (f : Flit) (gs : List Granule) (s : State), Accepted s f 0x1E → f.words = cleanWords gs →
    exec (.mgmt f) s = .next { s with dataOut := wordBytes gs, dataPoison := false }

namespace Sys2Proof.Claims
open Sys2Proof Sys2Proof.Machine

/-- A COLL_CTRL flit of a kind that the package accepts (R299). -/
def CtrlAccepted (s : State) (f : Flit) (kind : Nat) : Prop := Accepted s f 0x11 ∧ f.trailer.toNat % 16 = kind

/-- The two operands of an addition and what it leaves: value and poison of each element (R302, R303). -/
def sumsOf (r : CollRun) (st : CollStep) (xs ys : List (Nat × Bool)) : List (Nat × Bool) :=
  (xs.zip ys).map fun p => ((r.addEl st p.1.1 p.2.1).1, p.1.2 || p.2.2)

/-- The chunk of a collective that a flit goes on with or begins, and the others (R307). -/
def collChunkOf (s : State) (f : Flit) : CollChunk :=
  (s.colRx.find? fun c => c.src == f.src.toNat && c.group == flitGroup f && c.seq == f.tag.toNat && c.step == flitStep f &&
    c.chunk == flitChunk f).getD ⟨f.src.toNat, flitGroup f, f.tag.toNat, flitStep f, flitChunk f, [], false, none, 0⟩

/-- See `collChunkOf`. -/
def otherColl (s : State) (f : Flit) : List CollChunk := s.colRx.erase (collChunkOf s f)

/-- A collective on channel `ch` may read its sources at once: no line is busy, no page of them is redirected, and nothing of an
earlier attempt is left. -/
def SourcesThere (s : State) (ch : Nat) : Prop :=
  (∀ x, s.lineBusy x false = false) ∧ (∀ x, s.replLoad x = none) ∧ ∀ e ∈ s.accesses, e.req ≠ colReq ch

/-- The backup list that a write of `v` to COL_G_CFG names. -/
def backupList (s : State) (g : Nat) : List Nat :=
  if s.reg (Reg.colGBackup g) = 0 then [] else s.nodeList (s.reg (Reg.colGBackup g)).toNat (s.grpSize g)

end Sys2Proof.Claims

/-- Groups (R290): VALID reads the lists and accepts the group, with its reservation, or sets CFG_ERROR; clearing VALID
returns the reservation, at once or when no collective of the group is queued or running. -/
def Sys2Proof.Parts.CollectiveGroups : Prop :=
  (∀ (g : Fin 256) (v : BitVec 32) (s : State), s.reaches (Reg.colGCfg g) = true → v.getLsbD 0 = true →
    s.grpValid g = false →
    (s.grpSize g = 0 → ∃ t, exec (.groupValidSet g v) s = .next t ∧ t.grpValid g = false ∧
      t.regB Reg.colEvent 8 = true) ∧
    (let n := s.grpSize g
     let la := (s.reg (Reg.colGList g)).toNat
     let ba := (s.reg (Reg.colGBackup g)).toNat
     let members := s.nodeList la n
     let backups := backupList s g
     let rsv := max 4 (v.toNat / 2 ^ 16 % 2 ^ 13)
     firstRefused s.accessible la (2 * n) = none → s.poisonIn la (2 * n) = false → s.readFails la (2 * n) = false →
     (ba ≠ 0 → firstRefused s.accessible ba (2 * n) = none ∧ s.poisonIn ba (2 * n) = false ∧
       s.readFails ba (2 * n) = false) →
     1 ≤ n → n ≤ 49152 → members.Nodup → 0xFFFF ∉ members → (∀ x ∈ backups, x = 0xFFFF ∨ x ∉ members) →
     s.grpRank g < n →
     (if v.getLsbD 5 then backups.getD (s.grpRank g) 0xFFFF else members.getD (s.grpRank g) 0xFFFF) = s.node →
     (s.reg Reg.colRsvTotal).toNat + rsv ≤ 11264 →
     ∃ t, exec (.groupValidSet g v) s = .next t ∧ t.grpValid g = true ∧
       Tbl.get ([], []) t.colLists g = (members, backups) ∧ t.grpChan g = v.toNat / 2 % 16 ∧ t.grpRsv g = rsv ∧
       (t.reg Reg.colRsvTotal).toNat = (s.reg Reg.colRsvTotal).toNat + rsv ∧ t.regB (Reg.colGSeq g) 16 = false ∧
       OnlyRegs s t [Reg.colGCfg g, Reg.colRsvTotal, Reg.colGSeq g, Reg.hubCnt 4] ∧
       t = { s with regs := t.regs, colLists := t.colLists })) ∧
  ∀ (g : Fin 256) (v : BitVec 32) (s : State), s.reaches (Reg.colGCfg g) = true → v.getLsbD 0 = false →
    s.grpValid g = true →
    (s.grpBusy g = true → ∃ t, exec (.groupValidClear g v) s = .next t ∧ t.colClear = s.colClear ++ [g.val] ∧
      t = { s with colClear := t.colClear }) ∧
    (s.grpBusy g = false → ∃ t, exec (.groupValidClear g v) s = .next t ∧ t.grpValid g = false ∧
      t.reg Reg.colRsvTotal = BitVec.ofNat 64 ((s.reg Reg.colRsvTotal).toNat - s.grpRsv g) ∧
      OnlyRegs s t [Reg.colGCfg g, Reg.colRsvTotal] ∧ t = { s with regs := t.regs, colClear := t.colClear })

/-- Collectives (R291, R293, R294, R296, R297, R303, R310, R314): the head of a channel starts, taking its group's next
sequence number, and as malformed, or in a halted group, ends at once; an addition folds one more slot into its chunk; a slot
that alone was lacking for COL_LAG_TIMEOUT and a collective that waited for COL_WATCHDOG are counted and shown; what is bound
for a congested level goes through a relay; a collective whose steps are done, whose chunks are acknowledged and whose stores
are performed writes its status and record, signals and leaves its channel. -/
def Obligations.CollectivesRun : Prop :=
  (∀ e ∈ ([(1, .allreduce), (2, .reduceScatter), (3, .allgather), (4, .broadcast), (5, .reduce), (6, .alltoall)] :
      List (Nat × (CollStart → Instr))),
    ∀ (ch : Fin 16) (sums : List CollAdd) (ref : CollRef) (q : List CollRef) (s : State),
    let b := ref.body
    let g := colGroup b
    let seq := s.regF (Reg.colGSeq g) 0 16
    Tbl.get [] s.colQ ch = ref :: q → colOp b = e.1 → s.runOn ch = none → SourcesThere s ch →
    (ref.released = true ∨ s.waitMet (cfld b 8 1) (cfld b 10 2) = true ∨ s.regB (Reg.colGSeq g) 16 = true) →
    (s.colMalformed b = true → s.grpValid g = false → ∃ t r, exec (e.2 ⟨ch, sums⟩) s = .next t ∧ t.runOn ch = some r ∧
      r.ref = ref ∧ r.todo = [] ∧ r.failed = some 0x50 ∧ Tbl.get [] t.colQ ch = q ∧ t.regB Reg.colStatus ch = true ∧
      OnlyRegs s t [Reg.colStatus] ∧ t = { s with regs := t.regs, colQ := t.colQ, colRun := t.colRun }) ∧
    (s.colMalformed b = false → s.regB (Reg.colGSeq g) 16 = false → (colSeqExpl b = true → colSeqField b = seq) →
      s.aborts = [] → s.hellos = [] → s.substGone = [] → ∃ t r, exec (e.2 ⟨ch, sums⟩) s = .next t ∧ t.runOn ch = some r ∧
        r.ref = ref ∧ r.group = g ∧ r.seq = seq ∧ r.failed = none ∧
        r.members = (Tbl.get ([], []) s.colLists g).1 ∧ Tbl.get [] t.colQ ch = q ∧ t.regB Reg.colStatus ch = true ∧
        t.regF (Reg.colGSeq g) 0 16 = (seq + 1) % 65536) ∧
    (s.colMalformed b = false → s.regB (Reg.colGSeq g) 16 = true → ∃ t r, exec (e.2 ⟨ch, sums⟩) s = .next t ∧
      t.runOn ch = some r ∧ r.ref = ref ∧ r.todo = [] ∧ r.failed = some 0x51 ∧ Tbl.get [] t.colQ ch = q ∧
      t.regF (Reg.colGSeq g) 0 16 = (seq + 1) % 65536)) ∧
  (∀ (ch : Fin 16) (elem : Nat) (s : State) (r : CollRun) (st : CollStep) (rest : List CollStep) (n : Nat)
      (x0 x1 : Nat × Option Nat) (more : List (Nat × Option Nat)) (xs ys : List (Nat × Bool)),
    s.runOn ch = some r → r.todo = st :: rest → st.kind = .reduce → elem ∉ r.doneAt →
    (st.recvs.flatMap (r.chunksOf st)).find? (fun c => c.1 == elem) = some (elem, n) →
    (Tbl.get (0, []) r.part elem).1 = 0 → r.slotsAt st elem = x0 :: x1 :: more →
    s.slotData r st elem n x0 = some xs → s.slotData r st elem n x1 = some ys →
    (more ≠ [] → ∃ t r', exec (.collAddition ch ⟨elem, 0⟩) s = .next t ∧ t.runOn ch = some r' ∧
      Tbl.get (0, []) r'.part elem = (2, sumsOf r st xs ys) ∧ r'.acc = r.acc ∧ r'.doneAt = r.doneAt ∧
      Counted s t (Reg.colCnt 3) 1 ∧ OnlyRegs s t [Reg.colCnt 3] ∧ t = { s with regs := t.regs, colRun := t.colRun }) ∧
    (more = [] → (∃ c ∈ st.recvs.flatMap (r.chunksOf st), c.1 ∉ r.doneAt ∧ c.1 ≠ elem) →
      ∃ t r', exec (.collAddition ch ⟨elem, 0⟩) s = .next t ∧ t.runOn ch = some r' ∧
        (∀ i, i < (sumsOf r st xs ys).length → some (Tbl.get (0, false) r'.acc (elem + i)) = (sumsOf r st xs ys)[i]?) ∧
        r'.doneAt = r.doneAt ++ [elem] ∧ r'.todo = r.todo ∧ Counted s t (Reg.colCnt 3) 1)) ∧
  (∀ (ch : Fin 16) (slot relay : BitVec 16) (level chunks : Nat) (s : State) (r : CollRun) (st : CollStep)
      (rest : List CollStep), s.runOn ch = some r → r.todo = st :: rest →
    (st.kind = .reduce → slot.toNat ∉ r.subst → (∃ x ∈ st.recvs, x.peer = slot.toNat ∧ ∃ c ∈ r.chunksOf st x,
        (slot.toNat, c.1) ∉ r.late ∧ ∃ t0, s.lagsSince r st c.1 slot.toNat = some t0 ∧
          t0 + usec * (s.reg Reg.colLagTimeout).toNat ≤ s.ft) →
      ∃ t r', exec (.laggardTimeout ch slot) s = .next t ∧ Counted s t (Reg.colCnt 8) 1 ∧ t.regB Reg.colEvent 1 = true ∧
        t.runOn ch = some r' ∧ (∃ lo, r'.late = r.late ++ [(slot.toNat, lo)]) ∧ r'.acc = r.acc ∧ r'.todo = r.todo ∧
        (r.backupOf slot.toNat = none → r'.subst = r.subst ∧ EventFrame s t [Reg.colCnt 8, Reg.colEvent]) ∧
        ((r.backupOf slot.toNat).isSome = true → r'.subst = r.subst ++ [slot.toNat] ∧ Counted s t (Reg.colCnt 9) 1 ∧
          t.regB Reg.colEvent 2 = true)) ∧
    (s.awaitsChunk r = true → s.reg Reg.colWatchdog ≠ 0 → r.since + usec * (s.reg Reg.colWatchdog).toNat ≤ s.ft →
      ∃ t, exec (.collWatchdog ch) s = .next t ∧ t.regB Reg.colEvent 6 = true ∧ EventOnly s t [Reg.colEvent]) ∧
    (s.mayRelay r relay.toNat level = true → ∃ t, exec (.collRepath ch relay level chunks) s = .next t ∧
      t.regB Reg.colEvent 7 = true ∧ EventFrame s t [Reg.colEvent] ∧
      (∀ c ∈ t.colTx, c ∈ s.colTx ∨ ∃ c0 ∈ s.colTx, c = { c0 with via := some relay.toNat } ∧ c0.sent = false ∧
        s.levelOf c0.dst = some level) ∧
      ((∃ c ∈ s.colTx, c.group = r.group ∧ c.seq = r.seq ∧ c.sent = false ∧ c.via = none ∧ c.dst ≠ relay.toNat ∧
          s.levelOf c.dst = some level) → 1 ≤ chunks → ∃ c ∈ t.colTx, c.via = some relay.toNat) ∧
      t = { s with regs := t.regs, mem := t.mem, poison := t.poison, msixOut := t.msixOut, colTx := t.colTx })) ∧
  ∀ (ch : Fin 16) (s : State) (r : CollRun), let b := r.ref.body
    s.runOn ch = some r → r.role = false → s.collOver ch r = true →
    ∃ t, exec (.collectiveComplete ch) s = .next t ∧ t.runOn ch = none ∧ t.regB Reg.colStatus ch = false ∧
      Counted s t (Reg.colCnt 0) 1 ∧ Counted s t (Reg.colCnt 4) r.inexact ∧ Counted s t (Reg.colCnt 5) r.overflow ∧
      (r.poisoned ≠ 0 → t.regB Reg.colEvent 5 = true) ∧ Signalled s t (cfld b 9 1) ∧
      (PlainByte s (r.ref.addr + 3) →
        (colRec b = 0 → t.byte (r.ref.addr + 3) = BitVec.ofNat 8 r.status) ∧
        (colRec b ≠ 0 → OwnWrite s (colRec b) 32 → s.replStore (colRec b) = false →
          (r.ref.addr + 3 < devAddr (colRec b) ∨ devAddr (colRec b) + 32 ≤ r.ref.addr + 3) →
          t.byte (r.ref.addr + 3) = BitVec.ofNat 8 r.status ∧ t.bytes (devAddr (colRec b)) 32 = r.recordBytes))

/-- Messages of collectives (R294, R297, R298, R307, R312): what comes before its collective starts is kept for it; a HELLO
of another signature is a COLLECTIVE_ORDER fault; a CREDIT is a grant; an ABORT ends the collective as poison; SUBST
releases a backup's chunks, and has a substituted primary take its destination from the backup; TAKE asks for the destination;
data fill a chunk, whose CRC decides at its last flit; a chunk for another node is relayed, and a late one acknowledged. -/
def Sys2Proof.Parts.CollectiveMessages : Prop :=
  ∀ (f : Flit) (s : State), let g := flitGroup f
    let seq := f.tag.toNat
    (CtrlAccepted s f 0 → ∀ sig : Granule, f.words = cleanWords [sig] →
      (s.chanOfTag g seq = none → s.tagPassed g seq = false → exec (.collHello f) s =
        .next { s with hellos := s.hellos ++ [(f.src.toNat, g, seq, sig.truncate 64)] }) ∧
      (∀ (ch : Nat) (r : CollRun), s.chanOfTag g seq = some ch → s.runOn ch = some r →
        (sig.truncate 64 = colSignature r.ref.body r.alg r.binned r.members.length → exec (.collHello f) s = .next s) ∧
        (r.failed = none → sig.truncate 64 ≠ colSignature r.ref.body r.alg r.binned r.members.length →
          ∃ t r', exec (.collHello f) s = .next t ∧ t.runOn ch = some r' ∧ r'.failed = some 0x51 ∧ r'.todo = [] ∧
            t.regB Reg.colEvent 0 = true ∧ t.regB (Reg.colGSeq r.group) 16 = true))) ∧
    (CtrlAccepted s f 1 → ∃ t, exec (.collCredit f) s = .next t ∧
      t.colCredits = s.colCredits ++ [⟨f.src.toNat, g, seq, flitStep f, flitChunk f, f.trailer.toNat / 256 % 2 ^ 24⟩] ∧
      (s.colTx = [] → t = { s with colCredits := t.colCredits })) ∧
    (CtrlAccepted s f 2 → f.trailer.toNat / 65536 % 65536 = s.grpRank g →
      (s.chanOfTag g seq = none → s.tagPassed g seq = false →
        (s.regB (Reg.colGCfg g) 5 = false →
          exec (.collSubst f) s = .next { s with substGone := s.substGone ++ [(g, seq)] }) ∧
        (s.regB (Reg.colGCfg g) 5 = true → ∃ t, exec (.collSubst f) s = .next t ∧
          t.substAsks = s.substAsks ++ [(g, seq, f.src.toNat, flitStep f)])) ∧
      (∀ (ch : Nat) (r : CollRun), s.chanOfTag g seq = some ch → s.runOn ch = some r →
        (s.regB (Reg.colGCfg g) 5 = true → ∃ t r', exec (.collSubst f) s = .next t ∧ t.runOn ch = some r' ∧
          r'.released = r.released ++ [(f.src.toNat, flitStep f)] ∧
          (∀ c ∈ r'.held, c ∈ r.held ∧ ¬ (c.dst = f.src.toNat ∧ stepPlace (flitStep f) ≤ stepPlace c.step)) ∧
          (∀ c ∈ r.held, c.dst = f.src.toNat → stepPlace (flitStep f) ≤ stepPlace c.step →
            c ∈ t.colTx ∨ { c with sent := true } ∈ t.colTx)) ∧
        (s.regB (Reg.colGCfg g) 5 = false → r.gone = false → r.todo ≠ [] → ∃ t r', exec (.collSubst f) s = .next t ∧
          t.runOn ch = some r' ∧ r'.gone = true))) ∧
    (CtrlAccepted s f 3 → let code := f.trailer.toNat / 256 % 256
      (s.chanOfTag g seq = none → s.tagPassed g seq = false → exec (.collAbort f) s = .next { s with aborts := s.aborts ++ [(g, seq, code)] }) ∧
      (∀ (ch : Nat) (r : CollRun), s.chanOfTag g seq = some ch → s.runOn ch = some r → r.failed = none →
        ∃ t r', exec (.collAbort f) s = .next t ∧ t.runOn ch = some r' ∧ r'.failed = some code ∧ r'.todo = [] ∧
          r'.held = [] ∧ ∀ c ∈ t.colTx, ¬ (c.group = r.group ∧ c.seq = r.seq))) ∧
    (CtrlAccepted s f 4 →
      (s.chanOfTag g seq = none → s.tagPassed g seq = false → exec (.collTake f) s = .next { s with takes := s.takes ++ [(g, seq)] }) ∧
      (∀ (ch : Nat) (r : CollRun), s.chanOfTag g seq = some ch → s.runOn ch = some r → r.todo ≠ [] →
        ∃ t, exec (.collTake f) s = .next t ∧ t.runOn ch = some { r with take := true } ∧
          t = { s with colRun := t.colRun })) ∧
    (Accepted s f 0x10 → s.expecting f = none → f.last = true →
      (∀ (d p : Nat), s.relayDst f = some d → s.relays = [] → RouteTo s d 3 p → f.vc = 3 →
        ∃ t, exec (.collData f) s = .next t ∧ Handed s t p { f with dst := BitVec.ofNat 16 d }) ∧
      (∀ p, s.relayDst f = none → s.tagPassed g seq = true → RouteTo s f.src.toNat 2 p →
        ∃ t, exec (.collData f) s = .next t ∧ Handed s t p (answerTo f 0x0A [] 0) ∧ t.mem = s.mem)) ∧
    (Accepted s f 0x10 → ∀ (ch : Nat) (r : CollRun) (rank len p : Nat), s.expecting f = some (ch, r, rank, len) →
      (∀ c ∈ otherColl s f, ¬ (c.src = f.src.toNat ∧ c.group = g ∧ c.seq = seq ∧ c.step = flitStep f ∧
        c.chunk = flitChunk f)) → let c := collChunkOf s f
      c.data = none →
      (f.last = false → exec (.collData f) s = .next { s with colRx := otherColl s f ++ [{ c with words := c.words ++ f.words }] }) ∧
      (f.last = true → ∀ gs : List Granule, c.words ++ f.words = cleanWords gs → RouteTo s f.src.toNat 2 p →
        (f.trailer.toNat ≠ crc64 ((wordBytes gs).take len) → c.retried = false → ∃ t, exec (.collData f) s = .next t ∧
          t.colRx = otherColl s f ++ [{ c with words := [], retried := true }] ∧
          Handed s t p (answerTo f 0x0A [] 65536)) ∧
        (∀ (st : CollStep) (rest : List CollStep), f.trailer.toNat = crc64 ((wordBytes gs).take len) →
          r.todo = st :: rest → st.kind = .reduce → r.stepDone st = false → r.shadow = false →
          r.used (flitStep f) rank (flitChunk f) = false →
          ∃ t, exec (.collData f) s = .next t ∧
            t.colRx = otherColl s f ++ [{ c with words := [], data := some (gs.map fun x => (x, false)), came := s.ft }] ∧
            Counted s t (Reg.colCnt 2) len ∧ Handed s t p (answerTo f 0x0A [] 0))))

/-- Groups of collectives and the messages between members. -/
def Obligations.CollectiveControl : Prop := Parts.CollectiveGroups ∧ Parts.CollectiveMessages

namespace Sys2Proof.Claims
open Sys2Proof Sys2Proof.Machine

/-- MSI-X vector `v` was raised: a masked entry pends, another sends its message (R341). -/
def VectorRaised (s t : State) (v : Nat) : Prop :=
  if s.regB (Reg.msix3 v) 0 then
    t.regB (Reg.msixPba (v / 64)) (v % 64) = true ∧ t.msixOut = s.msixOut ∧ OnlyRegs s t [Reg.msixPba (v / 64)]
  else t.msixOut = s.msixOut ++ [(s.reg (Reg.msix0 v) + (s.reg (Reg.msix1 v) <<< 32),
    (s.reg (Reg.msix2 v)).truncate 32)] ∧ t.regs = s.regs

/-- A mailbox command completed with a return code and an output, and raised vector 0 (R342). -/
def MailboxDone (s t : State) (code : Nat) (out : MboxOut) : Prop :=
  t.mboxRet = code ∧ t.mboxOut = out ∧ VectorRaised s t 0

/-- Nothing of the state but what a mailbox command always changes. -/
def MailboxOnly (s t : State) : Prop :=
  t = { s with mboxRet := t.mboxRet, mboxOut := t.mboxOut, regs := t.regs, msixOut := t.msixOut }

/-- The completion of an entry of submission ring `i` that has not launched (R332, R339). -/
def entryCompl (s : State) (i sidx st : Nat) : Compl where
  cring := s.regF (Reg.sqCfg i) 6 10
  status := st
  action := false
  sring := i
  sidx := sidx
  stitch := s.stitch
  pleat := 0xFF
  failed := 0
  info := 0
  hold := false

/-- The `n` bytes at device address `a` may be reached and are not poisoned. -/
def CleanAt (s : State) (a n : Nat) : Prop := firstRefused s.accessible a n = none ∧ s.poisonIn a n = false

/-- No stream to the host has failed, and no read of a host line was completed with an error (R320). -/
def HostWell (s : State) : Prop := s.ideBad.contains true = false ∧ s.hostErrs = []

/-- Within the `n` bytes at `a` memory holds `bs`, and elsewhere what it held. -/
def Stored (s t : State) (a : Nat) (bs : List Byte) : Prop :=
  t.bytes a bs.length = bs ∧ ∀ x, (x < a ∨ a + bs.length ≤ x) → t.byte x = s.byte x

end Sys2Proof.Claims

/-- Doorbells (R325, R327), the interrupt of a completion ring (R341) and the set-up of rings (R339): a tail is taken or
stops its ring, a head frees slots or is refused; enabling a ring resets its pointers or stops it; disabling a submission
ring aborts what it fetched, and disabling a completion ring is refused while it is bound or owed. -/
def Sys2Proof.Parts.RingSetup : Prop :=
  (∀ (i : Fin 1024) (v : BitVec 32) (s : State), s.reaches dblBase = true → s.regB (Reg.sqCfg i) 0 = true →
    (v.toNat < 2 ^ s.regF (Reg.sqCfg i) 1 5 → ∃ t, exec (.sqTail i v) s = .next t ∧
      t.sqOf i = { s.sqOf i with tail := v.toNat } ∧ t = { s with sq := t.sq }) ∧
    (2 ^ s.regF (Reg.sqCfg i) 1 5 ≤ v.toNat → ∃ t, exec (.sqTail i v) s = .next t ∧
      t.regB (Reg.sqStatus i) 16 = true ∧ t.regF (Reg.sqStatus i) 24 8 = 1 ∧ t.regB Reg.hubEvent 2 = true ∧
      EventOnly s t [Reg.sqStatus i])) ∧
  (∀ (i : Fin 1024) (v : BitVec 32) (s : State), s.reaches dblBase = true → s.regB (Reg.cqCfg i) 0 = true →
    let n := 2 ^ s.regF (Reg.cqCfg i) 1 5
    let c := s.cqOf i
    (v.toNat < n → (v.toNat + n - c.head) % n ≤ c.used → ∃ t, exec (.cqHead i v) s = .next t ∧
      t.cqOf i = { c with head := v.toNat, used := (s.regF (Reg.cqStatus i) 0 16 + n - v.toNat) % n, since := 0,
                          fired := false } ∧ t = { s with cq := t.cq }) ∧
    (n ≤ v.toNat ∨ c.used < (v.toNat + n - c.head) % n → ∃ t, exec (.cqHead i v) s = .next t ∧
      t.regB (Reg.cqStatus i) 18 = true ∧ t.regB Reg.hubEvent 2 = true ∧ t.cq = s.cq ∧
      EventOnly s t [Reg.cqStatus i])) ∧
  (∀ (i : Fin 1024) (v : BitVec 32) (s : State), v.getLsbD 0 = true → s.regB (Reg.sqCfg i) 0 = false →
    let l := v.toNat / 2 % 32
    let base := (s.reg (Reg.sqBase i)).toNat
    (base % 4096 = 0 → 6 ≤ l → l ≤ 16 → firstRefused s.accessible base (64 * 2 ^ l) = none →
      s.regB (Reg.cqCfg (v.toNat / 64 % 1024)) 0 = true → ∃ t, exec (.sqEnable i v) s = .next t ∧
        t.regF (Reg.sqCfg i) 0 16 = v.toNat % 65536 ∧ t.reg (Reg.sqStatus i) = 0 ∧
        t.sqOf i = { s.sqOf i with tail := 0, fetched := 0, waiting := [] } ∧
        OnlyRegs s t [Reg.sqCfg i, Reg.sqStatus i] ∧ t = { s with regs := t.regs, sq := t.sq }) ∧
    (base % 4096 ≠ 0 ∨ l < 6 ∨ 16 < l → ∃ t, exec (.sqEnable i v) s = .next t ∧
      t.regB (Reg.sqStatus i) 16 = true ∧ t.regF (Reg.sqStatus i) 24 8 = 2 ∧ t.regB Reg.hubEvent 2 = true)) ∧
  (∀ (i : Fin 1024) (v : BitVec 32) (s : State), v.getLsbD 0 = false → s.regB (Reg.sqCfg i) 0 = true →
    ∃ t, exec (.sqDisable i v) s = .next t ∧
      t.regB (Reg.sqCfg i) 0 = false ∧ (t.sqOf i).waiting = [] ∧ (t.sqOf i).tail = s.regF (Reg.sqStatus i) 0 16 ∧
      t.owed = s.owed ++ (s.sqOf i).waiting.map fun f => entryCompl s i f.sidx 0x64) ∧
  (∀ (i : Fin 1024) (v : BitVec 32) (s : State), v.getLsbD 0 = true → s.regB (Reg.cqCfg i) 0 = false →
    let l := v.toNat / 2 % 32
    let base := (s.reg (Reg.cqBase i)).toNat
    (base % 4096 = 0 → 6 ≤ l → l ≤ 16 → firstRefused s.accessible base (32 * 2 ^ l) = none →
      ∃ t, exec (.cqEnable i v) s = .next t ∧ t.regF (Reg.cqCfg i) 0 18 = v.toNat % 2 ^ 18 ∧
        t.reg (Reg.cqStatus i) = 0x10000 + (s.reg (Reg.cqStatus i) &&& 0x40000) ∧ t.cqOf i = CqSt.init ∧ OnlyRegs s t [Reg.cqCfg i, Reg.cqStatus i] ∧
        t = { s with regs := t.regs, cq := t.cq }) ∧
    (base % 4096 ≠ 0 ∨ l < 6 ∨ 16 < l → ∃ t, exec (.cqEnable i v) s = .next t ∧
      t.regF (Reg.cqStatus i) 24 8 = 2 ∧ t.regB Reg.hubEvent 2 = true)) ∧
  (∀ (i : Fin 1024) (v : BitVec 32) (s : State), v.getLsbD 0 = false → s.regB (Reg.cqCfg i) 0 = true →
    (s.cqBusy i = false → ∃ t, exec (.cqDisable i v) s = .next t ∧ t.regB (Reg.cqCfg i) 0 = false ∧
      OnlyRegs s t [Reg.cqCfg i] ∧ t = { s with regs := t.regs }) ∧
    (s.cqBusy i = true → ∃ t, exec (.cqDisable i v) s = .next t ∧ t.regB (Reg.cqCfg i) 0 = true ∧
      t.regB Reg.hubEvent 2 = true ∧ EventOnly s t [])) ∧
  ∀ (i : Fin 1024) (s : State), s.regB (Reg.cqCfg i) 0 = true → s.regB (Reg.cqCfg i) 17 = true →
    s.regF (Reg.cqCoal i) 16 16 ≠ 0 → (s.cqOf i).since ≠ 0 → (s.cqOf i).fired = false →
    (s.cqOf i).first + usec * s.regF (Reg.cqCoal i) 16 16 ≤ s.ft →
    ∃ t, exec (.coalTimeout i) s = .next t ∧ t.cqOf i = { s.cqOf i with fired := true } ∧
      VectorRaised s t (s.regF (Reg.cqCfg i) 6 11) ∧ t = { s with regs := t.regs, cq := t.cq, msixOut := t.msixOut }

/-- Ring entries (R326, R328, R330, R332, R337, R340): an entry is fetched once its completion slot is free, which it then
holds; the head of the fetched entries launches or completes with its own status; a due completion is written at the ring's
tail with its phase, and a write that the host completes with an error stops the ring. -/
def Sys2Proof.Parts.RingEntries : Prop :=
  (∀ (i : Fin 1024) (s : State), let q := s.sqOf i
    let h := s.regF (Reg.sqStatus i) 0 16
    let c := s.regF (Reg.sqCfg i) 6 10
    let a := (s.reg (Reg.sqBase i)).toNat + 64 * h
    s.regB (Reg.sqCfg i) 0 = true → s.regB (Reg.sqStatus i) 16 = false → h ≠ q.tail →
    s.regB (Reg.cqCfg c) 0 = true → s.slotFree c = true → h < 2 ^ s.regF (Reg.sqCfg i) 1 5 →
    s.regF (Reg.sqCfg i) 1 5 ≤ 16 →
    (CleanAt s a 64 → s.readFails a 64 = false → s.entryBad (s.bytes a 64) = false → s.entryLate (s.bytes a 64) = false →
      ∃ t, exec (.ringFetch i false) s = .next t ∧
        t.regF (Reg.sqStatus i) 0 16 = (h + 1) % 2 ^ s.regF (Reg.sqCfg i) 1 5 ∧
        (t.sqOf i).waiting = q.waiting ++ [⟨s.bytes a 64, q.fetched, s.whenOf (s.bytes a 64), s.time.begun, none⟩] ∧
        (t.sqOf i).fetched = (q.fetched + 1) % 2 ^ 32 ∧ (t.cqOf c).promised = (s.cqOf c).promised + 1 ∧
        OnlyRegs s t [Reg.sqStatus i, Reg.hubCnt 4] ∧ t = { s with regs := t.regs, sq := t.sq, cq := t.cq }) ∧
    (s.region a = .host → ∃ t, exec (.ringFetch i true) s = .next t ∧ t.regB (Reg.sqStatus i) 16 = true ∧
      t.regF (Reg.sqStatus i) 24 8 = 4 ∧ t.regB Reg.hubEvent 4 = true ∧ t.sq = s.sq)) ∧
  (∀ (i : Fin 1024) (s : State) (f : Fetched) (rest : List Fetched), (s.sqOf i).waiting = f :: rest →
    (entFence f.entry = true → (s.sqOf i).live = 0) → s.pendStore + 1 < 4096 →
    (∀ st, f.bad = some st → ∃ t, exec (.ringEntryLaunch i) s = .next t ∧ (t.sqOf i).waiting = rest ∧
      t.owed = s.owed ++ [entryCompl s i f.sidx st]) ∧
    (f.bad = none → f.whn = 0 → entOp f.entry = 8 → ∃ t c, exec (.ringEntryLaunch i) s = .next t ∧
      (t.sqOf i).waiting = rest ∧ t.owed = s.owed ++ [c] ∧ c.status = 0 ∧ c.sring = i.val ∧ c.sidx = f.sidx ∧
      c.action = false ∧ c.cring = s.regF (Reg.sqCfg i) 6 10 ∧ (t.sqOf i).live = (s.sqOf i).live) ∧
    (f.bad = none → f.whn = 0 → entOp f.entry = 1 → ∃ t, exec (.ringEntryLaunch i) s = .next t ∧
      (t.sqOf i).waiting = rest ∧ (t.sqOf i).live = (s.sqOf i).live + 1 ∧
      Tbl.get none t.dmas s.nextDma = some ⟨s.nextAct, 0, none, f.entry, false, false, [], 0⟩)) ∧
  ∀ (i : Fin 1024) (s : State) (c : Compl), let tail := s.regF (Reg.cqStatus i) 0 16
    let n := 2 ^ s.regF (Reg.cqCfg i) 1 5
    let phase := s.regB (Reg.cqStatus i) 16
    let a := (s.reg (Reg.cqBase i)).toNat + 32 * tail
    s.nextCompl i = some c → s.regB (Reg.cqCfg i) 0 = true → s.regF (Reg.cqStatus i) 24 8 = 0 →
    s.regF (Reg.cqCfg i) 1 5 ≤ 16 →
    (CleanAt s a 32 → HostWell s → s.rangeBusy a 32 true = false → ∃ t, exec (.completionWrite i false) s = .next t ∧
      t.owed = s.owed.erase c ∧ Stored s t a (s.complBytes c phase) ∧ t.regF (Reg.cqStatus i) 0 16 = (tail + 1) % n ∧
      t.regB (Reg.cqStatus i) 16 = (if (tail + 1) % n = 0 then !phase else phase) ∧
      (t.cqOf i).used = (s.cqOf i).used + 1 ∧ (c.action = false → Counted s t (Reg.hubCnt 0) 1)) ∧
    (s.region a = .host → ∃ t, exec (.completionWrite i true) s = .next t ∧ t.regF (Reg.cqStatus i) 24 8 = 3 ∧
      t.regB Reg.hubEvent 4 = true ∧ t.owed = s.owed)

/-- Rings: their set-up, doorbells and entries. -/
def Obligations.Rings : Prop := Parts.RingSetup ∧ Parts.RingEntries

/-- DMA (R333 to R336): a DMA within the package leaves the pattern, or a copy of its source, in its destination, and
nothing else in memory changes; a DMA whose pieces have all been written signals, writes its status and counts its bytes. -/
def Sys2Proof.Parts.DmaCopies : Prop :=
  (∀ (id : Nat) (s : State) (d : Dma), let b := d.body
    let dst := devAddr (dmaDst b)
    let src := devAddr (dmaSrc b)
    Tbl.get none s.dmas id = some d → d.running = false →
    (d.released = true ∨ s.waitMet (at_ b 37 1) (at_ b 40 2) = true) → 0 < dmaLen b →
    s.isLocal (dmaDst b) = true → CleanAt s dst (dmaLen b) → dst + dmaLen b ≤ 2 ^ 48 → s.replEntries = [] →
    s.replHeld = [] → HostWell s → s.rangeBusy dst (dmaLen b) true = false → (∀ e ∈ s.accesses, e.req ≠ dmaReq id) →
    (dmaFill b = true → ∃ t, exec (.dmaStart id []) s = .next t ∧
      (∀ k, k < dmaLen b → t.byte (dst + k) =
        BitVec.ofNat 8 ((dmaPattern b).toNat / 2 ^ (8 * ((dst + k) % 8)))) ∧
      (∀ x, (x < dst ∨ dst + dmaLen b ≤ x) → t.byte x = s.byte x) ∧
      Tbl.get none t.dmas id = some { d with running := true, failed := [] }) ∧
    (dmaFill b = false → s.isLocal (dmaSrc b) = true → CleanAt s src (dmaLen b) → src + dmaLen b ≤ 2 ^ 48 →
      dmaSrc b / 2 ^ 48 < 65536 → s.dmaOverlap b = false → s.rangeBusy src (dmaLen b) false = false → ∃ t, exec (.dmaStart id []) s = .next t ∧
        (∀ k, k < dmaLen b → t.byte (dst + k) = s.byte (src + k)) ∧
        (∀ x, (x < dst ∨ dst + dmaLen b ≤ x) → t.byte x = s.byte x) ∧
        Tbl.get none t.dmas id = some { d with running := true, failed := [] })) ∧
  ∀ (id a : Nat) (s : State) (d : Dma), Tbl.get none s.dmas id = some d → d.running = true → d.chunks = 0 →
    d.failed = [] → s.unitOwes (dmaReq id) = false → d.addr = some a → ∃ t, exec (.dmaComplete id) s = .next t ∧
      Tbl.get none t.dmas id = none ∧ Signalled s t (at_ d.body 38 1) ∧
      (s.region (a + 3) ≠ .host → Counted s t (Reg.hubCnt 1) (dmaLen d.body)) ∧
      (PlainByte s (a + 3) → t.byte (a + 3) = 0)

/-- The mailbox (R342, R390, R392) and the event log's read count (R343): each command completes with its return code and
output and raises vector 0 (the codes are the CXL specification's, log entry 28). -/
def Obligations.Mailbox : Prop :=
  (∀ s : State,
    (∃ t, exec .identify s = .next t ∧ MailboxDone s t 0 (.identity s.fuseSerial) ∧ MailboxOnly s t) ∧
    (∃ t, exec .getFwInfo s = .next t ∧ MailboxDone s t 0 (.fwInfo (s.reg Reg.secFwVersion)) ∧ MailboxOnly s t) ∧
    (∃ t l, exec .getSupportedLogs s = .next t ∧ MailboxDone s t 0 (.logs l) ∧
      t = { s with mboxRet := 0, mboxOut := .logs l, regs := t.regs, msixOut := t.msixOut, freeCtr := t.freeCtr }) ∧
    (∀ off len, len ≤ 4096 → ∃ t l, exec (.getLog off len) s = .next t ∧ MailboxDone s t 0 (.bytes l) ∧ l.length = len ∧
      t = { s with mboxRet := 0, mboxOut := .bytes l, regs := t.regs, msixOut := t.msixOut, freeCtr := t.freeCtr }) ∧
    (∀ op, ∃ t, exec (.mailboxUnsupported op) s = .next t ∧ MailboxDone s t 3 .none ∧ MailboxOnly s t) ∧
    (∀ off data, off + data.length ≤ 0x800000 → ∃ t, exec (.transferFw off data) s = .next t ∧
      MailboxDone s t 0 .none ∧
      (∀ k, Tbl.get 0 t.staging k = if off ≤ k ∧ k < off + data.length then data.getD (k - off) 0
        else Tbl.get 0 s.staging k) ∧
      t = { s with mboxRet := 0, mboxOut := .none, regs := t.regs, msixOut := t.msixOut, staging := t.staging })) ∧
  (∀ s : State, s.regF Reg.secStatus 0 4 ≠ 14 →
    (∀ log, ∃ t, exec (.getEventRecords log) s = .next t ∧ MailboxDone s t 0
      (.records ((Tbl.get [] s.mboxEvents log.toNat).map fun r => (BitVec.ofNat 32 r.1, r.2))) ∧ MailboxOnly s t) ∧
    (∀ log handles, ∃ t, exec (.clearEventRecords log handles) s = .next t ∧ MailboxDone s t 0 .none ∧
      Tbl.get [] t.mboxEvents log.toNat =
        (Tbl.get [] s.mboxEvents log.toNat).filter fun r => !handles.any fun h => h.toNat == r.1) ∧
    (∀ v, ∃ t, exec (.timestamp (some v)) s = .next t ∧ MailboxDone s t 0 .none ∧ t.mboxTime = some (v, s.ft)) ∧
    (∀ v, s.mboxTime = some (v, s.ft) → ∃ t, exec (.timestamp none) s = .next t ∧ MailboxDone s t 0 (.time v) ∧
      MailboxOnly s t) ∧
    (∃ t, exec (.activateFw true true) s = .next t ∧ MailboxDone s t 3 .none ∧ MailboxOnly s t) ∧
    (s.regB Reg.secStatus 11 = false → s.regB Reg.secStatus 9 = false → let o := s.stagedObject
      s.checkObject [1] o = 0 → hdr o 4 2 = 1 → ∃ t, exec (.activateFw false true) s = .next t ∧
        t.mboxRet = 0 ∧ t.regB Reg.secStatus 11 = true ∧ t.regB Reg.secEvent 0 = true ∧
        (∀ k, k < o.length → Tbl.get 0xFF t.flash (0x100000 + k) = o.getD k 0) ∧
        (hdr o 13 1 % 2 = 1 → t.fuseSvn = max s.fuseSvn (hdr o 12 1)) ∧
        t.fuseLifecycle = max s.fuseLifecycle (hdr o 13 1 / 2 % 4))) ∧
  ∀ (v : BitVec 64) (s : State), s.reaches Reg.hubEvlogRp = true → ∃ t, exec (.evlogRpWrite v) s = .next t ∧
    (t.reg Reg.hubEvlogRp).toNat = min v.toNat (s.reg Reg.hubEvlogWp).toNat ∧ OnlyRegs s t [Reg.hubEvlogRp] ∧
    t = { s with regs := t.regs, held := t.held }

/-- The host's side (R320 to R322, R416): a read of a line returns its bytes and its poison and grants the line; a write
stores its bytes; a snoop misses; the answer to a back-invalidate gives the line up; a host access returns its data, or an
error as poison; a link reset takes the IDE streams insecure while work goes on. -/
def Sys2Proof.Parts.HostAccesses : Prop :=
  (∀ (a : Nat) (s : State), s.cxlMem = true → s.region a = .working → (∀ h ∈ s.memHeld, h.addr / 256 ≠ a / 256) →
    (∀ e ∈ s.retiring, e.1 ≠ a / 4096) →
    (∀ excl, ((∃ e ∈ s.hostLines, e.1 = a / 64) ∨ s.hostLines.length < 524288) →
      ∃ t, exec (.hostMemRead a excl) s = .next t ∧ t.dataOut = s.bytes (a / 64 * 64) 64 ∧
        t.dataPoison = s.poisonIn (a / 64 * 64) 64 ∧ (∀ x, t.byte x = s.byte x) ∧
        t.hostLines.getLast? = some (a / 64, excl || s.hostLines.any fun e => e.1 == a / 64 && e.2)) ∧
    (∀ bs, bs ≠ [] → a % 64 + bs.length ≤ 64 → s.poisonIn a bs.length = false →
      ∃ t, exec (.hostMemWrite a bs false) s = .next t ∧ Stored s t a bs)) ∧
  (∀ (hpa : Nat) (s : State), exec (.hostSnoop hpa) s = .next s) ∧
  (∀ (line : Nat) (inv : Bool) (s : State), s.bisnps.find? (fun e => e.1 == line) = some (line, inv) → s.memHeld = [] →
    NoneWaiting s → ∃ t, exec (.bisnpResponse line) s = .next t ∧ (∀ e ∈ t.bisnps, e.1 ≠ line) ∧
      (inv = true → ∀ e ∈ t.hostLines, e.1 ≠ line) ∧ (inv = false → ∀ e ∈ t.hostLines, e.1 = line → e.2 = false) ∧
      t = { s with bisnps := t.bisnps, hostLines := t.hostLines }) ∧
  (∀ (hpa : Nat) (s : State), let a := hostDev hpa / 64 * 64
    (∃ t, exec (.hostAccessComplete hpa false false false) s = .next t ∧ t.dataOut = s.bytes a 64 ∧
      t.dataPoison = s.poisonIn a 64 ∧ t = { s with dataOut := t.dataOut, dataPoison := t.dataPoison }) ∧
    (∃ t, exec (.hostAccessComplete hpa false false true) s = .next t ∧ t.dataPoison = true) ∧
    exec (.hostAccessComplete hpa true false false) s = .next s ∧
    (∃ t, exec (.hostAccessComplete hpa false true false) s = .next t ∧ t.dataPoison = true ∧
      t.regB Reg.hubEvent 4 = true ∧ t.hostErrs = s.hostErrs ++ [a / 64]) ∧
    (∃ t, exec (.hostAccessComplete hpa true true false) s = .next t ∧ t.regB Reg.hubEvent 4 = true ∧
      ∀ x, (x < a ∨ a + 64 ≤ x) → (∀ y ∈ logRecords s, x < y ∨ y + 32 ≤ x) → t.byte x = s.byte x)) ∧
  ∀ s : State, ∃ t, exec .cxlLinkReset s = .next t ∧ t.linkUp = false ∧ t.linkCxl = false ∧
    t.regB Reg.secStatus 12 = false ∧ t.regB Reg.secStatus 13 = false ∧
    (∀ c d : Bool, t.ideDir c d = IdeDir.init) ∧ OnlyRegs s t [Reg.secStatus] ∧
    t = { s with regs := t.regs, ide := t.ide, ideBad := [], linkUp := false, linkWidth := 0, linkRate := 0, linkCxl := false }

/-- DMA descriptors, and the accesses of the host. -/
def Obligations.CopiesAndHostAccesses : Prop := Parts.DmaCopies ∧ Parts.HostAccesses

namespace Sys2Proof.Claims
open Sys2Proof Sys2Proof.Machine

/-- A capture ended with a status (R351, R356): nothing is captured now, where no other descriptor waits; the status byte
is written, the signal given, and its counter and event set. -/
def CaptureEnded (s t : State) (c : Capture) (st : Nat) : Prop :=
  t.ckpRun = none ∧ (PlainByte s (c.ref.addr + 3) → t.byte (c.ref.addr + 3) = BitVec.ofNat 8 st) ∧
  Signalled s t (recNum c.ref.body 33 1) ∧ Counted s t (Reg.ckpCnt (if st = 0 then 0 else 1)) 1 ∧
  t.regB Reg.ckpEvent (if st = 0 then 0 else 1) = true ∧
  (st ≠ 0 → t.reg Reg.ckpLastErr = BitVec.ofNat 64 c.ref.addr)

/-- A restore ended with a status (R357 to R360). -/
def RestoreEnded (t : State) (st : Nat) : Prop :=
  t.restore = none ∧ t.regB Reg.ckpRstCtrl 0 = false ∧ t.regF Reg.ckpRstStatus 0 8 = st ∧
  t.regB Reg.ckpEvent (if st = 0 then 4 else 5) = true

/-- The slot that the next capture takes: the one that does not hold the newest valid generation, and its GEN (R354). -/
def nextSlot (s : State) : Nat × Nat :=
  match s.newest with
  | some k => (1 - k, s.slotGen k + 1)
  | none => (0, 1)

/-- The segments of a descriptor's list. -/
def segsOf (s : State) (b : List Byte) : List (Nat × Nat) :=
  segPairs (s.bytes (recNum b 8 8) (16 * recNum b 4 4)) (recNum b 4 4)

/-- The records of valid generations that this member holds and that the others sent (R358). -/
def restoreRecords (s : State) : List (List Byte) :=
  (([0, 1].map s.heldRecord) ++ s.ckpOthers.flatMap fun p => s.recordsFrom p.2).filter fun x => decide (3 ≤ recNum x 4 1)

/-- Those of one stitch. -/
def ofStitch (rs : List (List Byte)) (t : Nat) : List (List Byte) := rs.filter fun x => recNum x 8 8 == t

/-- Does slot `k` of this member hold a whole generation of stitch `t`? -/
def Holds (s : State) (k t : Nat) : Prop := 3 ≤ recNum (s.heldRecord k) 4 1 ∧ recNum (s.heldRecord k) 8 8 = t

/-- The stitch that a restore chooses: the one asked for, or else the greatest usable one (R358). -/
def Chooses (s : State) (t : Nat) : Prop :=
  if s.regB Reg.ckpRstCtrl 1 then t = (s.reg Reg.ckpRstStitch).toNat
  else ∀ x ∈ restoreRecords s, (usableSet s.ckpG (ofStitch (restoreRecords s) (recNum x 8 8))).isSome = true →
    recNum x 8 8 ≤ t

/-- The status that MISSING and its INDEX show. -/
def missingField (m : Option Nat) : Nat :=
  match m with
  | some l => 1 + 2 * l
  | none => 0

/-- A register write that sets GO of a transfer in direction `dir`. -/
def XferGo (s : State) (v : BitVec 32) (dir : Bool) : Prop :=
  s.reaches Reg.ckpXferCtrl = true ∧ v.getLsbD 0 = true ∧ v.getLsbD 2 = dir

end Sys2Proof.Claims

/-- Captures (R350, R351, R354, R356): a descriptor that may not be captured ends with its status; once the gate is open the
slot that does not hold the newest generation is OPEN and takes the segments; the summary is formed and the slot WRITTEN;
with all summaries agreeing and the parity done the slot is COMMITTED and the capture ends well; a member that does not
answer within CKP_PEER_TIMEOUT ends it. -/
def Obligations.Captures : Prop :=
  ∀ (s : State) (c : Capture), s.ckpRun = some c →
    let b := c.ref.body
    (c.stage = 0 → c.waits s = false →
      (s.captureStatus b ≠ 0 → s.ckpQ = [] → ∃ t, exec .captureGateOpen s = .next t ∧
        CaptureEnded s t c (s.captureStatus b) ∧ t.regF (Reg.ckpSlotState 0) 0 3 = s.regF (Reg.ckpSlotState 0) 0 3) ∧
      (s.captureStatus b = 0 → s.poisonIn (recNum b 8 8) (16 * recNum b 4 4) = false → s.gateHeld = false →
        (∀ p ∈ s.captureSpans b, s.rangeBusy p.1 p.2 false = false) →
        ∃ t c1, exec .captureGateOpen s = .next t ∧ t.ckpRun = some c1 ∧ c1.stage = 1 ∧ c1.ref = c.ref ∧
          c1.slot = (nextSlot s).1 ∧ c1.gen = (nextSlot s).2 ∧ c1.stitch = c.stitch ∧
          c1.cmax = recNum b 16 8 / 4096 ∧ c1.chunks = 64 + segChunks (segsOf s b) ∧
          t.regF (Reg.ckpSlotState (nextSlot s).1) 0 3 = 1 ∧
          ∀ x n, segsOf s b = [(x, n)] → s.ckpG = 1 →
            t.bytes (s.slotData0 (nextSlot s).1 + 0x40000) n = s.bytes x n ∧ t.bytes x n = s.bytes x n)) ∧
    (c.stage = 1 → s.summaries = [] → c.slot < 2 → ∃ t, exec .captureExchange s = .next t ∧
      t.ckpRun = some { c with stage := 2, digest := shardDigest (s.slotShard c.slot c.chunks), since := some s.ft } ∧
      t.regF (Reg.ckpSlotState c.slot) 0 3 = 2 ∧ t.reg (Reg.ckpSlotStitch c.slot) = c.stitch ∧
      t.reg (Reg.ckpSlotGen c.slot) = BitVec.ofNat 64 c.gen ∧
      t.pktTx.length = s.pktTx.length + s.ckpOthers.length) ∧
    (c.stage = 2 → s.ckpQ = [] → c.slot < 2 →
      (s.commitReady c = true → c.digest.length = 32 → ∃ t, exec .captureCommit s = .next t ∧ CaptureEnded s t c 0 ∧
        t.regF (Reg.ckpSlotState c.slot) 0 3 = 3 ∧ t.reg (Reg.ckpSlotStitch c.slot) = c.stitch ∧
        t.reg (Reg.ckpSlotGen c.slot) = BitVec.ofNat 64 c.gen) ∧
      (∀ t0, c.since = some t0 → s.peerLate t0 = true → s.restore = none →
        (∃ p ∈ s.ckpOthers, s.summaryFrom p.2 = []) → ∃ t, exec .ckpPeerTimeout s = .next t ∧ CaptureEnded s t c 0x73)) ∧
    (c.stage = 0 → s.ckpQ = [] → ∀ t0, c.since = some t0 → s.peerLate t0 = true → s.restore = none → c.waits s = false →
      s.captureStatus b = 0 → s.gateOpen = false → ∃ t, exec .ckpPeerTimeout s = .next t ∧ CaptureEnded s t c 0x73)

/-- Pocket messages (R354, R355): the flits of a message are collected; at the last, with a good CRC, it is acknowledged
and taken: a parity chunk is folded into the parity the member holds, or kept for its capture; a summary, COMMITTED and
the chunks of a restore are kept; an acknowledgement ends a sent message, or sends it again. What a message's address says
is the model's choice (log entry 23). -/
def Obligations.PocketMessages : Prop :=
  (∀ (f : Flit) (s : State), Accepted s f 0x18 → s.chunkRoom f = true → let c0 := chunkOf s f
    let kind := pktKind c0.addr
    let num := c0.addr % 2 ^ 38 / 4096
    (f.last = false → ∃ t, exec (.pocketData f) s = .next t ∧
      t.chunksRx = otherChunks s f ++ [{ c0 with words := wordsWith s f }] ∧ t = { s with chunksRx := t.chunksRx }) ∧
    (f.last = true → OneChunk s f → ∀ (p : Nat) (gs : List Granule), RouteTo s f.src.toNat 2 p →
      wordsWith s f = cleanWords gs → f.trailer.toNat = crc64 (wordBytes gs) →
      let m : PktMsg := ⟨f.src.toNat, kind, num, gs.map fun g => (g, false)⟩
      ∃ t, exec (.pocketData f) s = .next t ∧ Handed s t p (answerTo f 0x19 [] 0) ∧ t.chunksRx = otherChunks s f ∧
        (kind = 0 → Counted s t (Reg.ckpCnt 3) (32 * gs.length) ∧
          (s.ckpRun = none → t.pktRx = s.pktRx ++ [m] ∧ t.mem = s.mem) ∧
          ∀ (c : Capture) (k : Nat × Nat), s.ckpRun = some c → c.stage ≠ 0 →
            s.ckpOthers.find? (fun q => q.2 == f.src.toNat) = some k → (k.1, num) ∉ c.got → s.ckpG ≠ 1 →
            num < ceilDiv c.cmax (s.ckpG - 1) → gs.length = 128 →
            let a := s.slotData0 c.slot + 4096 * (c.cmax + num)
            t.ckpRun = some { c with got := c.got ++ [(k.1, num)] } ∧
              t.grans a 4096 = xorGrans (s.grans a 4096) m.words ∧
              ∀ x, (x < a ∨ a + 4096 ≤ x) → t.byte x = s.byte x) ∧
        (kind = 1 → s.ckpRun = none → t.summaryFrom f.src.toNat = wordBytes gs ∧ t.mem = s.mem) ∧
        (kind = 2 → Tbl.get 0 t.announced f.src.toNat = recNum (wordBytes gs) 0 8 + 1 ∧ t.mem = s.mem) ∧
        (3 ≤ kind → kind ≤ 5 → t.pktRx = s.pktRx ++ [m] ∧ t.mem = s.mem))) ∧
  ∀ (f : Flit) (q : PktTx) (s : State), Accepted s f 0x19 →
    s.pktTx.find? (fun x => x.dst == f.src.toNat && x.tag == f.tag.toNat) = some q →
    (f.trailer.toNat / 65536 % 256 ≠ 1 → exec (.pocketAck f) s = .next { s with pktTx := s.pktTx.erase q }) ∧
    (∀ p, f.trailer.toNat / 65536 % 256 = 1 → q.words.length ≤ 6 → RouteTo s q.dst 5 p → ∃ t x,
      exec (.pocketAck f) s = .next t ∧ Counted s t (Reg.fabCnt 12) 1 ∧ t.pktTx = s.pktTx ∧ x.typ.toNat = 0x18 ∧
        x.tag = BitVec.ofNat 16 q.tag ∧ x.words = q.words.map (fun w => fword w.1 w.2) ∧ Handed s t p x)

/-- Restores (R357 to R360): GO starts one and sends the records, or ends with CKP_STATE; with all records there each
member takes the stitch asked for or the greatest usable one, or fails; survivors send their chunks and the missing member
forms its shard from them; the segments, seed, profile, monitors and stitch are put back. -/
def Obligations.Restores : Prop :=
  (∀ (v : BitVec 32) (s : State), s.reaches Reg.ckpRstCtrl = true → v.getLsbD 0 = true → s.restore = none →
    (s.running = false → (∀ g, g < 256 → s.grpValid g = false) → s.ckpIdx < s.ckpG →
      (s.ckpG ≠ 1 → s.ckpNodes.getD s.ckpIdx 0xFFFF = s.node) → ∃ t, exec (.restoreGo v) s = .next t ∧
        t.restore = some ⟨false, 0, 0, none, false, s.ft⟩ ∧ t.regB Reg.ckpRstCtrl 0 = true ∧
        t.regB Reg.ckpRstCtrl 1 = v.getLsbD 1 ∧ t.reg Reg.ckpRstStatus = 0 ∧ t.mem = s.mem ∧
        t.pktTx.length = s.pktTx.length + 2 * s.ckpOthers.length) ∧
    ((s.running = true ∨ ∃ g, g < 256 ∧ s.grpValid g = true) → ∃ t, exec (.restoreGo v) s = .next t ∧
      RestoreEnded t 0x75)) ∧
  ∀ (s : State) (r : Restore), s.restore = some r →
    (r.chosen = false → s.allAnswered = true →
      (∀ (t0 : Nat) (m : Option Nat), Chooses s t0 → usableSet s.ckpG (ofStitch (restoreRecords s) t0) = some m →
        (∀ x ∈ ofStitch (restoreRecords s) t0, recNum x 5 1 = s.ckpG) →
        (∀ k, k < 2 → Holds s k t0 → (k = 1 → ¬ Holds s 0 t0) → ∃ t, exec .restoreChoose s = .next t ∧
          t.restore = some ⟨true, t0, k, m, m.isNone, r.since⟩ ∧ t.regF Reg.ckpRstStatus 8 1 = k ∧
          t.regF Reg.ckpRstStatus 10 6 = missingField m ∧ OnlyRegs s t [Reg.ckpRstStatus] ∧
          t = { s with regs := t.regs, restore := t.restore }) ∧
        (¬ Holds s 0 t0 → ¬ Holds s 1 t0 → m = some s.ckpIdx → ∃ t k, exec .restoreChoose s = .next t ∧ k < 2 ∧
          t.restore = some ⟨true, t0, k, m, false, r.since⟩)) ∧
      ((∀ t0, usableSet s.ckpG (ofStitch (restoreRecords s) t0) = none) → ∃ t, exec .restoreChoose s = .next t ∧
        RestoreEnded t 0x72)) ∧
    (r.chosen = false → s.allAnswered = false → s.peerLate r.since = true → ∃ t, exec .ckpPeerTimeout s = .next t ∧ RestoreEnded t 0x73) ∧
    (∀ l, r.chosen = true → r.ready = false → r.missing = some l →
      (l ≠ s.ckpIdx → ∃ t, exec .shardRebuild s = .next t ∧ t.restore = some { r with ready := true } ∧ t.mem = s.mem ∧
        t.pktTx.length = s.pktTx.length + s.shardLen r.slot +
          ceilDiv (recNum (s.getRecord r.slot) 32 8 / 4096) (s.ckpG - 1)) ∧
      (l = s.ckpIdx → ∀ (x : List Byte) (more : List (List Byte)),
        ofStitch ((s.ckpOthers.flatMap fun p => s.recordsFrom p.2).filter fun x => decide (3 ≤ recNum x 4 1)) r.stitch =
          x :: more →
        let cm := recNum x 32 8 / 4096
        let n := min cm (shardChunks (s.rebuilt l 0))
        s.rebuildReady l (ceilDiv cm (s.ckpG - 1)) = true → r.slot < 2 →
        (shardDigest ((List.range n).map (s.rebuilt l)) = (x.drop (64 + 32 * l)).take 32 →
          (∀ m ∈ s.pktRx, m.words.length = 128) → s.regB Reg.hubEvlogCfg 0 = false →
          ∃ t, exec .shardRebuild s = .next t ∧ t.restore = some { r with ready := true } ∧
            (∀ j, j < n → t.grans (s.slotData0 r.slot + 4096 * j) 4096 = s.rebuilt l j) ∧
            t.regF (Reg.ckpSlotState r.slot) 0 3 = 3 ∧ t.regB Reg.ckpRstStatus 9 = true ∧
            Counted s t (Reg.ckpCnt 5) 1 ∧ t.regB Reg.ckpEvent 6 = true) ∧
        (shardDigest ((List.range n).map (s.rebuilt l)) ≠ (x.drop (64 + 32 * l)).take 32 →
          ∃ t, exec .shardRebuild s = .next t ∧ RestoreEnded t 0x72))) ∧
    (r.chosen = true → r.ready = true → r.slot < 2 →
      let b := s.slotData0 r.slot
      let seed := s.num (b + 0x50) 8
      let det := s.num (b + 0x58) 4 % 8
      let segs := segPairs (s.bytes (b + 0x2000) (16 * s.num (b + 4) 4)) (s.num (b + 4) 4)
      (s.running = false → (s.regB Reg.bobCtrl 0 = true → (s.reg Reg.bobSeed).toNat = seed) →
        (s.regB Reg.detCfg 31 = true → s.regF Reg.detCfg 0 3 = det) →
        (∀ p ∈ segs, s.rangeBusy p.1 p.2 true = false) → ∃ t, exec .restoreWriteBack s = .next t ∧ RestoreEnded t 0 ∧ t.reg Reg.bobSeed = BitVec.ofNat 64 seed ∧
          t.regF Reg.detCfg 0 3 = det ∧ t.reg Reg.timStitch = BitVec.ofNat 64 (r.stitch + 1) ∧
          t.ckpNewest = some r.slot ∧ r.slot ∈ t.ckpAll ∧
          (∀ k, k < 16 → t.reg (Reg.timTsetWp k) = BitVec.ofNat 64 (s.num (b + 0x8000 + 8 * k) 8)) ∧
          ∀ x n, segs = [(x, n)] → x % 64 = 0 →
            CleanAt s x n → x + n ≤ s.pocketBase → s.poisonIn (b + 0x40000) n = false →
            s.regB Reg.hubEvlogCfg 0 = false → t.bytes x n = s.bytes (b + 0x40000) n) ∧
      (s.running = true ∨ (s.regB Reg.bobCtrl 0 = true ∧ (s.reg Reg.bobSeed).toNat ≠ seed) →
        ∃ t, exec .restoreWriteBack s = .next t ∧ RestoreEnded t 0x75))

/-- Transfers (R361, R363): GO starts a drain of a slot that holds a generation, or a load, after which the slot holds none
until the image is verified; when every part was moved the transfer ends with its result. -/
def Obligations.PocketTransfers : Prop :=
  (∀ (v : BitVec 32) (s : State), let k := v.toNat / 2 % 2
    let ga := (s.reg Reg.ckpXferAddr).toNat
    (XferGo s v false → s.pocketSize ≠ 0 → s.xfer = none →
      (s.slotValid k = false → ∃ t, exec (.xferDrain v) s = .next t ∧ t.regF Reg.ckpXferCtrl 24 8 = 0x74 ∧
        t.xfer = none ∧ t.regB Reg.ckpEvent 3 = true) ∧
      (s.slotValid k = true → ∃ t x, exec (.xferDrain v) s = .next t ∧ t.xfer = some x ∧ x.slot = k ∧
        x.load = false ∧ x.addr = ga ∧ x.chunks = s.shardLen k ∧ t.regB Reg.ckpXferCtrl 0 = true ∧
        t.reg Reg.ckpXferLen = BitVec.ofNat 64 (4096 * (s.shardLen k + 1)) ∧
        (s.isLocal ga = false → t.chunksTx.length = s.chunksTx.length + x.left))) ∧
    (XferGo s v true → s.pocketSize ≠ 0 → s.xfer = none →
      (s.running = false → s.ckpRun = none → s.restore = none → ∃ t x, exec (.xferLoad v) s = .next t ∧
        t.xfer = some x ∧ x.slot = k ∧ x.load = true ∧ x.addr = ga ∧ t.slotValid k = false ∧
        t.regB Reg.ckpXferCtrl 0 = true ∧
        (s.isLocal ga = true → x.left = 0) ∧
        (s.isLocal ga = false → x.left = 2 ∧ t.chunksTx.length = s.chunksTx.length + 2)) ∧
      (s.running = true → ∃ t, exec (.xferLoad v) s = .next t ∧ t.regF Reg.ckpXferCtrl 24 8 = 0x75 ∧ t.xfer = none ∧
        t.regB Reg.ckpEvent 3 = true))) ∧
  ∀ (s : State) (x : PktXfer), s.xfer = some x → x.left = 0 → x.slot < 2 →
    (x.load = false → s.unitOwes ckpReq = false → ∃ t, exec .xferDone s = .next t ∧ t.xfer = none ∧ t.regB Reg.ckpXferCtrl 0 = false ∧
      t.regF Reg.ckpXferCtrl 24 8 = 0 ∧ t.reg Reg.ckpXferFailed = BitVec.ofNat 64 x.failed ∧
      Counted s t (Reg.ckpCnt 4) (4096 * (x.chunks + 1)) ∧ t.regB Reg.ckpEvent 2 = true ∧
      (x.failed ≠ 0 → t.regB Reg.ckpEvent 3 = true) ∧
      (x.failed = 0 →
        EventOnly s { t with xfer := s.xfer } [Reg.ckpXferCtrl, Reg.ckpXferFailed, Reg.ckpCnt 4, Reg.ckpEvent])) ∧
    (x.load = true → s.isLocal x.addr = true → (∀ a, s.lineBusy a false = false) → (∀ a, s.replLoad a = none) →
      (∀ e ∈ s.accesses, e.req ≠ ckpReq) → ∃ t, exec .xferDone s = .next t ∧ t.xfer = none ∧
        (t.regF Reg.ckpXferCtrl 24 8 = 0 ∨ t.regF Reg.ckpXferCtrl 24 8 = 0x76) ∧ t.regB Reg.ckpEvent 2 = true) ∧
    (x.load = true → s.isLocal x.addr = false → x.chunks ≠ 0 → x.record.length = 4096 →
      let ok := recordOk x.record ∧ x.chunks ≤ s.slotChunks ∧
        (x.record.drop (64 + 32 * recNum x.record 6 1)).take 32 = shardDigest (s.slotShard x.slot x.chunks)
      (ok → ∃ t, exec .xferDone s = .next t ∧ t.xfer = none ∧ t.regF Reg.ckpXferCtrl 24 8 = 0 ∧
        t.regF (Reg.ckpSlotState x.slot) 0 3 = 4 ∧ t.slotGen x.slot = recNum x.record 16 8 ∧ x.slot ∈ t.ckpAll ∧
        t.regB Reg.ckpEvent 2 = true) ∧
      (¬ ok → ∃ t, exec .xferDone s = .next t ∧ t.xfer = none ∧ t.regF Reg.ckpXferCtrl 24 8 = 0x76 ∧
        t.slotValid x.slot = false ∧ t.regB Reg.ckpEvent 2 = true ∧ t.regB Reg.ckpEvent 3 = true))

/-- R362: a drain of a slot whose STATE is not COMMITTED (3) or LOADED (4) is refused with CKP_BUSY (0x74), and so is a second
transfer while one runs; a capture that targets the slot being drained waits. -/
def Obligations.TransferRefusals : Prop :=
  (∀ (v : BitVec 32) (s : State), XferGo s v false → s.xfer = none →
    s.regF (Reg.ckpSlotState (v.toNat / 2 % 2)) 0 3 ≠ 3 → s.regF (Reg.ckpSlotState (v.toNat / 2 % 2)) 0 3 ≠ 4 →
    ∃ t, exec (.xferDrain v) s = .next t ∧ t.regF Reg.ckpXferCtrl 24 8 = 0x74 ∧ t.regB Reg.ckpEvent 3 = true ∧
      EventOnly s t [Reg.ckpXferCtrl, Reg.ckpEvent]) ∧
  (∀ (v : BitVec 32) (x : PktXfer) (s : State), s.xfer = some x →
    (XferGo s v false → ∃ t, exec (.xferDrain v) s = .next t ∧ t.regF Reg.ckpXferCtrl 24 8 = 0x74 ∧
      t.regB Reg.ckpEvent 3 = true ∧ EventOnly s t [Reg.ckpXferCtrl, Reg.ckpEvent]) ∧
    (XferGo s v true → ∃ t, exec (.xferLoad v) s = .next t ∧ t.regF Reg.ckpXferCtrl 24 8 = 0x74 ∧
      t.regB Reg.ckpEvent 3 = true ∧ EventOnly s t [Reg.ckpXferCtrl, Reg.ckpEvent])) ∧
  ∀ (x : PktXfer) (c : Capture) (s : State), s.xfer = some x → s.ckpRun = some c → c.stage = 0 →
    s.captureStatus c.ref.body = 0 → s.poisonIn (recNum c.ref.body 8 8) (16 * recNum c.ref.body 4 4) = false →
    x.slot = (nextSlot s).1 → ∃ t c', exec .captureGateOpen s = .next t ∧ t.ckpRun = some c' ∧ c'.stage = 0 ∧ c'.ref = c.ref ∧
      t = { s with ckpRun := t.ckpRun }

namespace Sys2Proof.Claims
open Sys2Proof Sys2Proof.Machine

/-- Physical unit `p` is the lowest spare of its die. -/
def LowestSpare (s : State) (kind die p : Nat) : Prop :=
  p < physPerDie kind ∧ s.physState kind die p = 2 ∧ ∀ q, q < p → s.physState kind die q ≠ 2

/-- The die has no spare of a kind. -/
def NoSpare (s : State) (kind die : Nat) : Prop := ∀ q, q < physPerDie kind → s.physState kind die q ≠ 2

/-- Logical unit `u` moved to physical unit `p`, its old one taking the state `old`, and every other unit stays where it
was; the map's generation, counter and events say so (R374). -/
def Remapped (s t : State) (kind u p old : Nat) : Prop :=
  t.physOf kind u = p ∧ t.physState kind (dieOf kind u) p = 1 ∧
  t.physState kind (dieOf kind u) (s.physOf kind u) = old ∧ (∀ w, w ≠ u → t.physOf kind w = s.physOf kind w) ∧
  (t.reg Reg.hubUnitmapGen).toNat = min ((s.reg Reg.hubUnitmapGen).toNat + 1) (2 ^ 32 - 1) ∧
  Counted s t (Reg.relCnt 4) 1 ∧ t.regB Reg.relEvent 2 = true ∧ t.regB Reg.hubEvent 6 = true

/-- The logical units of a group, by the map in force. -/
def groupOf (s : State) (kind die target : Nat) : List Nat :=
  s.groupLogical kind die (groupUnits kind target).1 (groupUnits kind target).2

/-- A test or remap request that ends at once with a RESULT. -/
def TestRefused (s t : State) (r : Nat) : Prop :=
  t.regF Reg.relTestCtrl 24 8 = r ∧ OnlyRegs s t [Reg.relTestCtrl] ∧ t = { s with regs := t.regs }

end Sys2Proof.Claims

/-- Faults and remapping (R373, R374, R378): at the end of a seam's interval more corrected words than the limit are an
event, and the fourth within a day makes the seam lasting; a logical unit moves to the lowest spare of its die, and is
drained first, or NO_SPARE is set: by itself where its physical unit is lasting and AUTO_REMAP is 1, not while a test
runs; a unit declared FAILED hands its work to a spare first. -/
def Sys2Proof.Parts.FaultsAndRemapping : Prop :=
  (∀ (sm : Fin 11) (s : State), let n := Tbl.get 0 s.seamNow sm
    let key := 3000 + sm.val
    let times := Tbl.get [] s.faultLog key
    (n ≤ s.regF Reg.relCfg 8 8 →
      exec (.seamInterval sm) s = .next { s with seamNow := Tbl.set 0 s.seamNow sm 0 }) ∧
    (s.regF Reg.relCfg 8 8 < n → times.getLast? ≠ some s.ft →
      (times.length < 3 → ∃ t, exec (.seamInterval sm) s = .next t ∧ Tbl.get 0 t.seamNow sm = 0 ∧
        Tbl.get [] t.faultLog key = times ++ [s.ft] ∧ t.lastingRes = s.lastingRes) ∧
      (times.length = 3 → s.ft - times.headD 0 ≤ day → ∃ t, exec (.seamInterval sm) s = .next t ∧
        Tbl.get 0 t.seamNow sm = 0 ∧ Tbl.get false t.lastingRes key = true ∧ Counted s t (Reg.relCnt 3) 1 ∧
        t.regB Reg.relEvent 1 = true ∧ t.reg Reg.relLast = BitVec.ofNat 64 (3 + sm.val * 65536)))) ∧
  (∀ (k : UnitKind) (u : Nat) (lasting : Bool) (s : State), let kind := kindNo k
    u < unitsOf s.grade kind →
    (s.test.isSome = true → exec (.remap k u lasting) s = .next s) ∧
    (lasting = true → s.remapDue kind u = false → exec (.remap k u lasting) s = .next s) ∧
    ∀ _ : s.test = none ∧ s.physState kind (dieOf kind u) (s.physOf kind u) = 1 ∧
      (lasting = true → s.remapDue kind u = true),
    (∀ p, LowestSpare s kind (dieOf kind u) p → ∃ t, exec (.remap k u lasting) s = .next t ∧
      Remapped s t kind u p (if lasting then 0 else 2) ∧ t.isParked kind u = false ∧
      (∀ x : Fin 256, k = .tile → x.val = u → ∀ q, s.progOf (.tile x) = some q → q.ended = none → ∃ q',
        t.progOf (.tile x) = some q' ∧ q'.saved = true)) ∧
    (NoSpare s kind (dieOf kind u) → ∃ t, exec (.remap k u lasting) s = .next t ∧ t.regB Reg.relEvent 5 = true ∧
      EventOnly s t [Reg.relEvent])) ∧
  (∀ c ∈ ([(0, .remapTile), (1, .remapCore), (2, .remapEngine)] : List (Nat × (BitVec 32 → Instr))), ∀ (v : BitVec 32) (s : State), let kind := c.1
    let u := v.toNat / 65536 % 256
    v.toNat % 16 = 4 + kind → v.getLsbD 4 = true → s.test = none →
    (unitsOf s.grade kind ≤ u → ∃ t, exec (c.2 v) s = .next t ∧ TestRefused s t 2) ∧
    (u < unitsOf s.grade kind → s.physState kind (dieOf kind u) (s.physOf kind u) = 1 →
      (∀ p, LowestSpare s kind (dieOf kind u) p → ∃ t, exec (c.2 v) s = .next t ∧ Remapped s t kind u p 2 ∧
        t.regF Reg.relTestCtrl 24 8 = 0 ∧ t.regB Reg.relTestCtrl 4 = false) ∧
      (NoSpare s kind (dieOf kind u) → ∃ t, exec (c.2 v) s = .next t ∧ t.regB Reg.relEvent 5 = true ∧
        t.regF Reg.relTestCtrl 24 8 = 3 ∧ EventOnly s t [Reg.relTestCtrl, Reg.relEvent]))) ∧
  ∀ (v : BitVec 32) (s : State), let kind := v.toNat % 4
    let die := v.toNat / 8 % 8
    let p := v.toNat / 256 % 256
    (s.running = true → exec (.relUnitFail v) s = .next s) ∧
    (s.running = false → kind ≠ 3 → p < physPerDie kind → die * logPerDie kind < unitsOf s.grade kind →
      (s.logicalOf kind die p = none → ∃ t, exec (.relUnitFail v) s = .next t ∧ t.physState kind die p = 0 ∧
        physKey kind die p ∈ t.failedMarks ∧ t = { s with unitMap := t.unitMap, failedMarks := t.failedMarks }) ∧
      (∀ u, s.logicalOf kind die p = some u →
        (∀ q, LowestSpare s kind die q → ∃ t, exec (.relUnitFail v) s = .next t ∧ Remapped s t kind u q 0 ∧
          physKey kind die p ∈ t.failedMarks) ∧
        (NoSpare s kind die → ∃ t, exec (.relUnitFail v) s = .next t ∧ t.physState kind die p = 0 ∧
          t.physOf kind u = p ∧ t.regB Reg.relEvent 5 = true)))

/-- Online test (R375): GO takes the units of a group away, to spares outside it or parked, and switches its domain off or
to retention, or is refused; at the end failing units are FAILED, the units come back, and RESULT says how it went. -/
def Sys2Proof.Parts.OnlineTest : Prop :=
  (∀ c ∈ ([(0, .testTileCluster), (1, .testCoreCluster), (2, .testEngineGroup), (3, .testOpticalGroup)] :
      List (Nat × (BitVec 32 → Instr))), ∀ (v : BitVec 32) (s : State), let kind := c.1
    let die := v.toNat / 256 % 8
    let target := v.toNat / 65536 % 256
    v.toNat % 16 = kind → v.getLsbD 4 = true →
    (s.test.isSome = true → ∃ t, exec (c.2 v) s = .next t ∧ TestRefused s t 1) ∧
    (s.test = none → groupPresent s.grade kind die target = false → ∃ t, exec (c.2 v) s = .next t ∧
      TestRefused s t 2) ∧
    (s.test = none → groupPresent s.grade kind die target = true → kind ≠ 3 → s.dieParked die = true → ∃ t,
      exec (c.2 v) s = .next t ∧ TestRefused s t 1) ∧
    (s.test = none → groupPresent s.grade kind die target = true → kind ≠ 3 → s.dieParked die = false →
      ∃ t x, exec (c.2 v) s = .next t ∧ t.test = some x ∧ x.kind = kind ∧ x.die = die ∧ x.target = target ∧
        (∀ u ∈ groupOf s kind die target, u ∈ x.parkedU ∨ ∃ old, (u, old) ∈ x.moved) ∧
        t.regB Reg.relStatus 0 = true ∧ t.reg Reg.relTestResult = 0 ∧
        t.regF (Reg.pwrDom (groupDomain kind die target)) 0 2 = (if x.parkedU = [] then 0 else 2)) ∧
    (s.test = none → groupPresent s.grade kind die target = true → kind = 3 →
      ∃ t, exec (c.2 v) s = .next t ∧ t.test = some ⟨3, die, target, [], [], s.regF Reg.fabRingCtrl 0 2⟩ ∧
        (∀ i : Fin 8, t.portState (8 * target + i) = 0) ∧ (target = 3 → t.regF Reg.fabRingCtrl 0 2 = 0) ∧
        t.regB Reg.relStatus 0 = true ∧ t.reg Reg.relTestResult = 0 ∧ t.domOn (68 + target) = false)) ∧
  ∀ (failed : List Nat) (lanes : List (Fin 32 × Bool × Fin 9)) (x : TestSt) (s : State), s.test = some x →
    groupPresent s.grade x.kind x.die x.target = true →
    let lo := (groupUnits x.kind x.target).1
    let n := if x.kind = 3 then 4 else (groupUnits x.kind x.target).2
    ∃ t, exec (.testDone ⟨failed, lanes⟩) s = .next t ∧ t.test = none ∧ t.regB Reg.relStatus 0 = false ∧
      t.regB Reg.relTestCtrl 4 = false ∧ t.domOn (groupDomain x.kind x.die x.target) = true ∧
      Counted s t (Reg.relCnt 5) 1 ∧ t.regB Reg.relEvent 3 = true ∧
      (∀ i ∈ failed, i < n → t.regB Reg.relTestResult i = true) ∧
      (x.parkedU = [] → t.regF Reg.relTestCtrl 24 8 = if ∃ i ∈ failed, i < n then 4 else 0) ∧
      ((∃ i ∈ failed, i < n) → t.regB Reg.relEvent 4 = true) ∧
      (x.kind ≠ 3 → x.moved = [] → x.parkedU = [] → ∀ i ∈ failed, i < n → t.physState x.kind x.die (lo + i) = 0) ∧
      (∀ u old, x.kind ≠ 3 → failed = [] → x.moved = [(u, old)] → x.parkedU = [] → s.physState x.kind x.die old ≠ 0 →
        t.physOf x.kind u = old) ∧
      (∀ u, x.kind ≠ 3 → failed = [] → x.moved = [] → x.parkedU = [u] → s.physState x.kind x.die (s.physOf x.kind u) ≠ 0 →
        t.isParked x.kind u = false ∧ t.regF Reg.relTestCtrl 24 8 = 0) ∧
      (x.kind = 3 → (∀ i : Fin 8, t.portState (8 * x.target + i) =
          if s.regB (Reg.fabPCfg (8 * x.target + i)) 0 then 1 else 0) ∧
        (x.target = 3 → t.regF Reg.fabRingCtrl 0 2 = x.join % 4)) ∧
      (∀ u i, x.kind ≠ 3 → x.moved = [] → x.parkedU = [u] → i ∈ failed → i < n → s.physOf x.kind u = lo + i →
        NoSpare s x.kind x.die → s.isParked x.kind u = true →
        t.regF Reg.relTestCtrl 24 8 = 5 ∧ t.regB Reg.relEvent 6 = true ∧ t.isParked x.kind u = true)

/-- Faults, remapping and online test. -/
def Obligations.Reliability : Prop := Parts.FaultsAndRemapping ∧ Parts.OnlineTest

namespace Sys2Proof.Claims
open Sys2Proof Sys2Proof.Machine

/-- The security module is in the ERROR state (R399): sessions and streams are over, and the approved mode with them. -/
def ModuleErrored (s t : State) : Prop :=
  t.inError = true ∧ t.approved = false ∧ t.sessions = [] ∧ t.regB Reg.secEvent 5 = true ∧
  t.stage = (if s.stage = 9 then 9 else 15) ∧ ∀ c : Bool, t.regB Reg.secStatus (if c then 13 else 12) = false

/-- What the boot of a package makes of the two objects of its flash (R387, Table 16-4): the error code it stops with. -/
def bootCode (s : State) (b : BootInputs) : Option Nat :=
  let record := s.flashObject 0 (bodyLimit 2)
  let image := s.flashObject 0x100000 (bodyLimit 1)
  let judge (typ : Nat) (o : List Byte) : Nat :=
    objCheck (fun k => s.fuseKeyHash.getD k 0) s.fuseRevoke s.fuseSvn s.fuseSerial b.nonce.toNat [typ] o
  match judge 2 record with
  | 0 =>
    if mapBad s.grade (record.drop 1024) then some 0x14
    else match judge 1 image with
      | 0 => none
      | 1 => some 0x20
      | 4 => some 0x22
      | 6 => some 0x23
      | _ => some 0x21
  | 1 => some 0x10
  | 4 => some 0x12
  | 5 => some 0x13
  | _ => some 0x11

/-- The package is zeroised (R400). -/
def Zeroised (s t : State) : Prop :=
  t.sessions = [] ∧ t.identityOk = false ∧ (∀ c d : Bool, t.ideDir c d = IdeDir.init) ∧ Counted s t (Reg.secCnt 3) 1 ∧
  t.regB Reg.secEvent 4 = true

/-- A debug token was judged (R396): a granted one opens its level, another counts as refused; a fresh nonce is drawn. -/
def TokenJudged (s t : State) (o : List Byte) (nonce : BitVec 128) : Prop :=
  t.dbgNonce = nonce.toNat ∧
  match s.tokenLevel o with
  | some l => t.dbgLevel = l ∧ t.regB Reg.secEvent 1 = true ∧ t.dbgRefusals = s.dbgRefusals ∧ (l = 3 → Zeroised s t)
  | none => t.dbgRefusals = s.dbgRefusals + 1 ∧ Counted s t (Reg.secCnt 2) 1 ∧ t.regB Reg.secEvent 2 = true ∧
      t.dbgLevel = s.dbgLevel

/-- The write of a single bit `i` of [4:0] to SEC_CTRL. -/
def SecBit (s : State) (v : BitVec 32) (i : Nat) : Prop :=
  s.reaches Reg.secCtrl = true ∧ ∀ k, k < 5 → v.getLsbD k = decide (k = i)

end Sys2Proof.Claims

/-- The boot (R387, Table 16-4): a failed known-answer test or an unreadable fuse is an ERROR; a decommissioned package, a
bad record or a bad image leads to RECOVERY with its code; else the firmware runs and trains memory, or is READY with
memory still open; CONTINUE or the time limit leads from HOST_WAIT to filling memory. -/
def Obligations.BootFlow : Prop :=
  (∀ (b : BootInputs) (s : State), s.hubUp = true → s.stage = 0 →
    (b.kat = false → ∃ t, exec (.bootStart b) s = .next t ∧ t.reg Reg.secBootErr = 1 ∧ t.stage = 15 ∧
      t.inError = true ∧ t.sessions = []) ∧
    (b.kat = true → b.fuses = false → ∃ t, exec (.bootStart b) s = .next t ∧ t.reg Reg.secBootErr = 2 ∧ t.stage = 15 ∧
      t.inError = true ∧ t.sessions = []) ∧
    (b.kat = true → b.fuses = true →
      (s.fuseLifecycle = 3 → ∃ t, exec (.bootStart b) s = .next t ∧ t.stage = 14 ∧ t.approved = true ∧
        t.fwRuns = s.fwRuns) ∧
      (s.fuseLifecycle < 3 → ∃ t, exec (.bootStart b) s = .next t ∧ t.approved = true ∧
        t.regF Reg.secStatus 4 2 = s.fuseLifecycle ∧ t.dbgNonce = b.nonce.toNat ∧
        (s.fuseLifecycle ≠ 1 → t.dbgLevel = 3) ∧
        match bootCode s b with
        | some code => t.stage = 14 ∧ t.reg Reg.secBootErr = BitVec.ofNat 64 code ∧
            t.ibiOut.getLast? = some (0xE0, none)
        | none => t.stage = (if s.bistDue = none ∧ s.regB Reg.memStatus 3 = true then 9 else 6) ∧ t.fwRuns = true ∧
            t.reg Reg.secFwVersion = BitVec.ofNat 64 (hdr (s.flashObject 0x100000 (bodyLimit 1)) 16 8) ∧
            (s.fuseLifecycle = 1 → b.unwrap = true → t.identityOk = true) ∧
            (s.fuseLifecycle = 1 → b.unwrap = false → t.reg Reg.secBootErr = 0x30 ∧ t.regB Reg.secEvent 6 = true)))) ∧
  (∀ (v : BitVec 32) (s : State), SecBit s v 4 → s.stage = 7 → ∃ t, exec (.continueBoot v) s = .next t ∧ t.stage = 8 ∧
    (s.regB Reg.memStatus 0 = true → s.regB Reg.memCtrl 1 = false → t.regB Reg.memStatus 2 = true) ∧
    OnlyRegs s t [Reg.secStatus, Reg.memCtrl, Reg.memStatus] ∧ t = { s with regs := t.regs }) ∧
  ∀ s : State, s.stage = 7 → ∃ t, exec .hostWaitTimeout s = .next t ∧ t.stage = 8 ∧ t.regB Reg.secEvent 7 = true ∧
    (s.regB Reg.memStatus 0 = true → s.regB Reg.memCtrl 1 = false → t.regB Reg.memStatus 2 = true) ∧
    EventOnly s t [Reg.secStatus, Reg.memCtrl, Reg.memStatus, Reg.secEvent]

/-- The security module (R396, R399, R400): zeroisation ends sessions and streams and forgets the identity; a failed
self-test or a failing entropy source is an ERROR; a debug token, from memory or through JTAG, opens its level or is refused;
DBG_DISABLE forbids tokens. -/
def Obligations.SecurityModule : Prop :=
  ∀ (v : BitVec 32) (nonce : BitVec 128) (s : State),
    (SecBit s v 0 → ∃ t, exec (.zeroize v) s = .next t ∧ Zeroised s t ∧
      EventFrame s t [Reg.secStatus, Reg.secCnt 3, Reg.secEvent]) ∧
    (SecBit s v 1 → ∃ t, exec (.dbgGo v nonce) s = .next t ∧ TokenJudged s t s.tokenAt nonce) ∧
    (SecBit s v 2 → ∃ t, exec (.dbgDisable v) s = .next t ∧ t.regB Reg.secStatus 14 = true ∧
      t.dbgLevel = s.dbgLevel ∧ OnlyRegs s t [Reg.secStatus] ∧ t = { s with regs := t.regs }) ∧
    (SecBit s v 3 → exec (.selftest v true) s = .next s) ∧
    (SecBit s v 3 → s.inError = false → ∃ t, exec (.selftest v false) s = .next t ∧ ModuleErrored s t) ∧
    (s.hubUp = true → s.inError = false → ∃ t, exec .entropyHealthFail s = .next t ∧ ModuleErrored s t) ∧
    ∀ token : List (BitVec 8), s.domOn 76 = true → ∃ t, exec (.dbgToken token nonce) s = .next t ∧
      TokenJudged s t token nonce ∧ t.jtag = .dbgToken

/-- SPDM and IDE (R393 to R395): a responder that serves answers each request by its kind, opens at most four sessions, and
ends them; key sets are programmed while inactive and set going; a failed check makes a secure stream insecure, and it carries
no request of the package until it is keyed again in both directions. -/
def Obligations.SpdmAndIde : Prop :=
  (∀ (q : SpdmReq) (s : State), s.spdmServes = true →
    (s.spdmSession q = true →
      exec (.getVersion q) s = .next { s with spdmOut := .version } ∧
      exec (.getCapabilities q) s = .next { s with spdmOut := .capabilities } ∧
      exec (.negotiateAlgorithms q) s = .next { s with spdmOut := .algorithms } ∧
      exec (.getDigests q) s = .next { s with spdmOut := .digests } ∧
      exec (.getCertificate q 0) s = .next { s with spdmOut := .certificate } ∧
      exec (.challenge q) s = .next { s with spdmOut := if s.identityOk then .signed else .error false } ∧
      ∀ (index : Nat) (signed : Bool), index ≤ 9 ∨ index = 255 → (signed = true → s.identityOk = true) →
        ∃ l, exec (.getMeasurements q index signed) s = .next { s with spdmOut := .measurements l signed } ∧
          l = (if index = 0 then [] else if index = 255 then [1, 2, 3, 4, 5, 6, 7, 8, 9].map fun i => (i, s.measure i)
            else [(index, s.measure index)])) ∧
    (∀ mutAuth : Bool, s.identityOk = true → q.session = none →
      (s.sessions.length < 4 → ∃ t, exec (.keyExchange q mutAuth) s = .next t ∧
        t.sessions = s.sessions ++ [⟨s.nextSession, false, mutAuth⟩] ∧ t.nextSession = s.nextSession + 1 ∧
        t.spdmOut = .session s.nextSession ∧ Counted s t (Reg.secCnt 0) 1 ∧ OnlyRegs s t [Reg.secCnt 0]) ∧
      (4 ≤ s.sessions.length → exec (.keyExchange q mutAuth) s = .next { s with spdmOut := .error true })) ∧
    (∀ x, s.sessionOf q = some x → let others := s.sessions.filter fun y => y.id != x.id
      (x.up = false →
        exec (.finish q true) s = .next { s with sessions := others ++ [{ x with up := true }], spdmOut := .ok } ∧
        exec (.finish q false) s = .next { s with sessions := others, spdmOut := .error false }) ∧
      (x.up = true →
        exec (.heartbeat q) s = .next { s with spdmOut := .ok } ∧ exec (.keyUpdate q) s = .next { s with spdmOut := .ok } ∧
        exec (.endSession q) s = .next { s with sessions := others, spdmOut := .ok }))) ∧
  (∀ (k : IdeKey) (s : State), s.spdmServes = true → s.inSession ⟨some k.session⟩ = true →
    let d := s.ideDir k.cachemem k.dir
    (d.active = some k.set → exec (.keyProg k) s = .next { s with ideOut := false }) ∧
    (d.active ≠ some k.set → ∃ t, exec (.keyProg k) s = .next t ∧ t.ideOut = true ∧
      (t.ideDir k.cachemem k.dir).keyOf k.set = some k.key ∧
      (t.ideDir k.cachemem k.dir).keyOf (!k.set) = d.keyOf (!k.set) ∧
      (t.ideDir k.cachemem k.dir).active = d.active ∧ t = { s with ide := t.ide, ideOut := true }) ∧
    (d.keyOf k.set = none → exec (.kSetGo k) s = .next { s with ideOut := false }) ∧
    (d.keyOf k.set ≠ none → ∃ t, exec (.kSetGo k) s = .next t ∧ t.ideOut = true ∧
      t.ideDir k.cachemem k.dir = { d with active := some k.set } ∧
      t.regB Reg.secStatus (if k.cachemem then 13 else 12) = (s.ideDir k.cachemem (!k.dir)).active.isSome ∧
      t.ideBad = (if (s.ideDir k.cachemem (!k.dir)).active.isSome then s.ideBad.filter (· != k.cachemem) else s.ideBad) ∧
      OnlyRegs s t [Reg.secStatus] ∧
      t = { s with ide := t.ide, regs := t.regs, ideOut := true, ideBad := t.ideBad })) ∧
  ∀ (c : Bool) (s : State),
    (s.regB Reg.secStatus (if c then 13 else 12) = false → exec (.ideCheckFail c) s = .next s) ∧
    ∀ _ : s.regB Reg.secStatus (if c then 13 else 12) = true, ∃ t,
    exec (.ideCheckFail c) s = .next t ∧ c ∈ t.ideBad ∧ t.regB Reg.secStatus (if c then 13 else 12) = false ∧
    (∀ d : Bool, t.ideDir c d = IdeDir.init ∧ t.ideDir (!c) d = s.ideDir (!c) d) ∧ Counted s t (Reg.secCnt 1) 1 ∧
    t.regB Reg.secEvent 3 = true ∧ EventFrame s t [Reg.secStatus, Reg.secCnt 1, Reg.secEvent]

namespace Sys2Proof.Claims
open Sys2Proof Sys2Proof.Machine

/-- The package is off (R408, R416): every register but PWR_LAST_RESET and all memory of the package are as after reset, no
work is left, and it may or may not restart by itself. -/
def PoweredDown (s t : State) (cause : Nat) (hold : Bool) : Prop :=
  t.hubUp = false ∧ t.powerHold = hold ∧ t.reg Reg.pwrLastReset = BitVec.ofNat 64 (cause * 256) ∧
  (∀ off, off ≠ Reg.pwrLastReset → t.reg off = regReset off) ∧ (∀ a, a < 0x800000000000 → t.byte a = 0) ∧
  t.progs = [] ∧ t.acts = [] ∧ t.sync = [] ∧ t.grade = s.grade ∧ t.pending = s.pending

/-- A reset of the package (`hub` false) or of the hub alone: no work is left, the domain of a group under test is on, and
(with a HUB reset, where no controller had a request to finish) every register that it reaches is as after reset and the
others are as before; the SRAMs are zeros and other memory is as before (R416, R417). -/
def WasReset (s t : State) (hub : Bool) (cause : Nat) : Prop :=
  t.hubUp = true ∧ t.reg Reg.pwrLastReset = BitVec.ofNat 64 ((if hub then 2 else 1) + cause * 256) ∧
  t.progs = [] ∧ t.acts = [] ∧ t.test = none ∧ t.grade = s.grade ∧ t.pending = s.pending ∧ (∀ a, sramAddr a = true → t.byte a = 0) ∧
  ∀ _ : hub = true → s.memHeld = [],
  (∀ off, off ≠ Reg.pwrLastReset → off ≠ Reg.pwrCtrl →
    (∀ x, s.test = some x → off ≠ Reg.pwrDom (groupDomain x.kind x.die x.target)) →
    t.reg off = if keepsReg hub off then s.reg off else regReset off) ∧
  (∀ x, s.test = some x → groupPresent s.grade x.kind x.die x.target = true →
    t.domOn (groupDomain x.kind x.die x.target) = true) ∧
  (∀ a, t.byte a = if sramAddr a then 0 else s.byte a) ∧ t.failedMarks = s.failedMarks

/-- The power-up goes on: every present domain that is not switched off by request is on, and UP_DONE is set (R407). -/
def UpDone (s t : State) : Prop :=
  t.regB Reg.pwrStatus 0 = true ∧
  ∀ n, n < 74 → domPresent s.grade n = true → s.regB (Reg.pwrDom n) 2 = false → t.domOn n = true

/-- A write to PWR_CTRL with the key: OFF, then RESET with its kind. -/
def KeyWrite (s : State) (v : BitVec 32) : Prop :=
  s.reaches Reg.pwrCtrl = true ∧ s.domOn 77 = true ∧ v.toNat / 256 % 256 = 0xC3

/-- A field of PWR_DOM of each of some domains is as `f` makes it. -/
def LevelsMoved (s t : State) (lo : Nat) (f : Nat → Nat) (ds : List Nat) : Prop :=
  ∀ n ∈ ds, t.level lo n = f (s.level lo n)

end Sys2Proof.Claims

/-- Power-up, power-down and resets (R403, R406 to R409, R416, R417): what each of them asks for, what survives, and what
PWR_LAST_RESET says; PWR_UP waits for an input of 44 V; an optical group is switched off only with its ports disabled and out
of the ring. -/
def Sys2Proof.Parts.PowerAndResets : Prop :=
  (∀ (mv : BitVec 16) (s : State), s.hubUp = false → s.powerHold = false → 44000 < mv.toNat →
    (s.refBad = false → ∃ t, exec (.powerUp mv) s = .next t ∧ t.hubUp = true ∧
      (∀ n ∈ [74, 75, 76, 77, 78, 79], t.domOn n = true) ∧ t.regB Reg.pwrStatus 6 = true ∧
      t.reg Reg.pwrVin = mv.zeroExtend 64 ∧
      t.regF Reg.pwrLastReset 8 8 = (if s.regF Reg.pwrLastReset 8 8 = 0 then 1 else s.regF Reg.pwrLastReset 8 8) ∧
      (s.grade = .lcv4 → t.reg Reg.pwrCap = 1100) ∧ t = { s with regs := t.regs, hubUp := true }) ∧
    (s.refBad = true → ∃ t, exec (.powerUp mv) s = .next t ∧ t.hubUp = false ∧ t.domOn 77 = true ∧
      t.regB Reg.pwrStatus 6 = false ∧ t.regB Reg.pwrEvent 6 = true)) ∧
  (∀ (v : BitVec 32) (s : State), s.reaches Reg.pwrCtrl = true → s.domOn 77 = true → v.getLsbD 0 = true →
    v.getLsbD 1 = false → v.getLsbD 2 = false → s.regB Reg.pwrStatus 0 = false →
    (44000 ≤ s.regF Reg.pwrVin 0 16 → ∃ t, exec (.pwrUp v) s = .next t ∧ UpDone s t ∧ t = { s with regs := t.regs }) ∧
    (s.regF Reg.pwrVin 0 16 < 44000 → ∃ t, exec (.pwrUp v) s = .next t ∧ OnlyRegs s t [Reg.pwrCtrl] ∧
      t = { s with regs := t.regs, upWaits := true })) ∧
  (∀ (v : BitVec 32) (bist : BitVec 29) (s : State), KeyWrite s v →
    (v.getLsbD 1 = true → ∃ t, exec (.pwrOff v) s = .next t ∧ PoweredDown s t 8 true) ∧
    (v.getLsbD 1 = false → v.getLsbD 2 = true →
      (v.toNat / 8 % 4 = 1 → ∃ t, exec (.packageReset v bist) s = .next t ∧ WasReset s t false 8 ∧
        t.bistDue = if v.getLsbD 5 then some bist else none) ∧
      (v.toNat / 8 % 4 = 2 → ∃ t, exec (.hubReset v) s = .next t ∧ WasReset s t true 8 ∧ t.memHeld = [] ∧
        (∀ c ∈ t.chkCache, ∀ e ∈ c.2, e.2 = false) ∧
        (s.memHeld = [] → t.pageTrack = s.pageTrack ∧ t.pinTrack = s.pinTrack ∧
          t.chkCache.map (fun c => (c.1, c.2.map fun e => e.1)) = s.chkCache.map (fun c => (c.1, c.2.map fun e => e.1)))))) ∧
  (∀ s : State,
    (s.hubUp = true → ∃ t, exec .perstAssert s = .next t ∧ WasReset s t true 9) ∧
    (s.domOn 77 = true →
      (∃ t, exec .pwrGoodDeassert s = .next t ∧ PoweredDown s t 2 false) ∧
      (∀ mv : BitVec 16, mv.toNat ≤ 38000 → ∃ t, exec (.vinReset mv) s = .next t ∧ PoweredDown s t 3 false) ∧
      (∃ t, exec .vinOvervolt s = .next t ∧ PoweredDown s t 4 true) ∧
      (∀ dom : Fin 80, domPresent s.grade dom = true → ∃ t, exec (.isolatorFail dom) s = .next t ∧
        PoweredDown s t 6 true) ∧
      (∀ cxl fabric mgmt : Bool, (cxl && fabric && mgmt) = false → s.hubUp = true →
        ∃ t, exec (.clockCheck cxl fabric mgmt) s = .next t ∧ PoweredDown s t 7 true ∧ t.refBad = true)) ∧
    (s.domOn 77 = false → exec .pwrGoodDeassert s = .next { s with powerHold := false }) ∧
    (∃ t, exec .vinStandbyLoss s = .next t ∧ PoweredDown s t 0 false) ∧
    (s.domOn 77 = true → s.hubUp = true → ∃ t, exec (.clockCheck true true true) s = .next t ∧
      t.regB Reg.pwrStatus 6 = true ∧ OnlyRegs s t [Reg.pwrStatus] ∧ t = { s with regs := t.regs, refBad := false })) ∧
  (∀ (n : Fin 80) (v : BitVec 32) (s : State), n.val < 68 ∨ 72 ≤ n.val → exec (.offReq n v) s = .next s) ∧
  ∀ (g : Fin 4) (v : BitVec 32) (s : State), s.reaches Reg.pwrCtrl = true → let n := 68 + g.val
    (v.getLsbD 2 = true → (∀ k : Fin 8, s.regB (Reg.fabPCfg (8 * g + k)) 0 = false) →
      (g = 3 → s.regF Reg.fabRingCtrl 0 2 = 0) → ∃ t, exec (.offReq ⟨n, by omega⟩ v) s = .next t ∧
        t.regB (Reg.pwrDom n) 2 = true ∧ t.regF (Reg.pwrDom n) 0 2 = 0 ∧ OnlyRegs s t [Reg.pwrDom n] ∧
        t = { s with regs := t.regs }) ∧
    (v.getLsbD 2 = true → (∃ k : Fin 8, s.regB (Reg.fabPCfg (8 * g + k)) 0 = true) →
      ∃ t, exec (.offReq ⟨n, by omega⟩ v) s = .next t ∧ t.regB (Reg.pwrDom n) 2 = false ∧
        t.regF (Reg.pwrDom n) 0 2 = s.regF (Reg.pwrDom n) 0 2 ∧ OnlyRegs s t [Reg.pwrDom n]) ∧
    (v.getLsbD 2 = false → s.regB (Reg.pwrDom n) 2 = true → s.regB Reg.pwrStatus 0 = true →
      ∃ t, exec (.offReq ⟨n, by omega⟩ v) s = .next t ∧ t.regB (Reg.pwrDom n) 2 = false ∧ t.domOn n = true ∧
        OnlyRegs s t [Reg.pwrDom n])

/-- Throttling (R412 to R414): a low input lowers the tile clusters' level at once and gives it back step by step; a hot
die lowers its levels by one, to 1, and a cool one raises them, to 8; 110 °C is a power-down. -/
def Sys2Proof.Parts.Throttling : Prop :=
  ∀ s : State, s.domOn 77 = true →
    (∀ mv : BitVec 16, mv.toNat < 42000 → ∃ t, exec (.vinWarning mv) s = .next t ∧
      t.reg Reg.pwrVin = mv.zeroExtend 64 ∧
      LevelsMoved s t 11 (fun _ => max 1 (min 8 (s.regF Reg.pwrBrownCfg 0 4))) (tileDomains s.grade) ∧
      t.regB Reg.pwrStatus 2 = false ∧ Counted s t (Reg.pwrCnt 1) 1 ∧ t.regB Reg.pwrEvent 0 = true) ∧
    (∀ mv : BitVec 16, 42000 ≤ mv.toNat → ∃ t, exec (.vinWarning mv) s = .next t ∧
      t.reg Reg.pwrVin = mv.zeroExtend 64 ∧ OnlyRegs s t [Reg.pwrVin] ∧ t = { s with regs := t.regs }) ∧
    (∀ (rising : Bool) (mv : BitVec 16), ∃ t, exec (.vin44vCrossing rising mv) s = .next t ∧
      t.reg Reg.pwrVin = mv.zeroExtend 64 ∧
      (rising = false → t.regB Reg.pwrStatus 2 = false) ∧
      (rising = true → 44000 < mv.toNat → s.regB Reg.pwrStatus 1 = true ∨ s.upWaits = true → t.regB Reg.pwrStatus 2 = true) ∧
      OnlyRegs s t [Reg.pwrVin, Reg.pwrStatus] ∧ t = { s with regs := t.regs }) ∧
    (s.regB Reg.pwrStatus 2 = true → ∃ t, exec .vinRecoveryStep s = .next t ∧
      LevelsMoved s t 11 (fun l => min 8 (l + 1)) (tileDomains s.grade) ∧
      ((∀ n ∈ tileDomains s.grade, 7 ≤ s.level 11 n) → t.regB Reg.pwrStatus 1 = false ∧ t.regB Reg.pwrStatus 2 = false ∧
        (s.regB Reg.pwrStatus 1 = true → t.regB Reg.pwrEvent 1 = true)) ∧
      (s.upWaits = true → t.upWaits = decide (s.regB Reg.pwrStatus 0 = false ∧ s.regF Reg.pwrVin 0 16 < 44000) ∧
        (44000 ≤ s.regF Reg.pwrVin 0 16 → s.regB Reg.pwrStatus 0 = false → UpDone s t)) ∧
      ((∃ n ∈ tileDomains s.grade, s.level 11 n < 7) → t.regB Reg.pwrStatus 1 = true ∧ t.regB Reg.pwrStatus 2 = true)) ∧
    ∀ (die : Fin 8) (temp : BitVec 8) (tick : Bool), diePresent s.grade die = true →
      (110 ≤ temp.toInt → ∃ t, exec (.thermSample die temp tick) s = .next t ∧ PoweredDown s t 5 true) ∧
      (temp.toInt < 110 → ∃ t, exec (.thermSample die temp tick) s = .next t ∧
        t.reg (Reg.pwrTemp die) = temp.zeroExtend 64 ∧
        LevelsMoved s t 3 (fun l => if tick = false then l else if (s.thThrottle : Int) ≤ temp.toInt then max 1 (l - 1)
          else if temp.toInt < (s.thRelease : Int) then min 8 (l + 1) else l) (dieDomains s.grade die) ∧
        ((s.thThrottle : Int) ≤ temp.toInt → die.val < 6 → t.regB Reg.pwrEvent 2 = true) ∧
        ((s.thAlert : Int) ≤ temp.toInt → t.regB Reg.pwrEvent 3 = true ∧ t.regB Reg.pwrStatus 5 = true))

/-- Power, resets and throttling. -/
def Obligations.PowerAndThrottling : Prop := Parts.PowerAndResets ∧ Parts.Throttling

/-- R413: while the input power averaged over 1 ms exceeds PWR_CAP, CAP of every compute domain goes down by one once per
ms, to 1 at the least; while it lies below 95 % of PWR_CAP, CAP goes up by one, to 8. A tick is one such ms. -/
def Obligations.PowerCap : Prop :=
  ∀ (w : BitVec 16) (energy : Nat) (s : State), s.domOn 77 = true →
    ∃ t, exec (.capTick w energy) s = .next t ∧ t.reg Reg.pwrPower = w.zeroExtend 64 ∧
      Counted s t (Reg.pwrCnt 0) energy ∧
      LevelsMoved s t 7 (fun l => if s.powerCap < w.toNat then max 1 (l - 1)
        else if 100 * w.toNat < 95 * s.powerCap then min 8 (l + 1) else l) (computeDomains s.grade) ∧
      t.regB Reg.pwrStatus 4 = (computeDomains s.grade).any (fun n => decide (t.level 7 n < 8)) ∧
      (s.powerCap < w.toNat → (∃ n ∈ computeDomains s.grade, 1 < s.level 7 n) → t.regB Reg.pwrEvent 4 = true)

/-- The management ports (R319, R430, R431): the I3C target takes a dynamic address, and writes and reads the registers it
reaches; the TAP takes its instruction; the CXL link trains. -/
def Obligations.ManagementPorts : Prop :=
  ∀ s : State,
    (s.domOn 76 = true →
      (∀ (off : BitVec 32) (v : BitVec 32), let a := s.i3cDyn.getD (0x58 + s.i3cStrap.zeroExtend 7)
        exec (.i3cPrivateWrite a off none) s = .next { s with i3cOff := off } ∧
        (off.toNat ∈ [Reg.pwrCap, Reg.pwrBrownCfg, Reg.pwrTherm] → ∀ r o, s.regAt off.toNat = some (r, o) →
          ∃ t, exec (.i3cPrivateWrite a off (some v)) s = .next t ∧ OnlyRegs s t [off.toNat] ∧
            t = { s with regs := t.regs, i3cOff := off } ∧ ∀ i, i < 32 → (t.reg off.toNat).getLsbD i =
              bitWritten r false ((s.reg off.toNat).getLsbD i) (v.getLsbD i) i) ∧
        ((off.toNat < 0xC00000 ∨ 0x1000000 ≤ off.toNat ∨ off.toNat % 4 ≠ 0) →
          exec (.i3cPrivateWrite a off (some v)) s = .next { s with i3cOff := off })) ∧
      (let a := s.i3cDyn.getD (0x58 + s.i3cStrap.zeroExtend 7)
        ∃ t, exec (.i3cPrivateRead a) s = .next t ∧ t.busPoison = false ∧ t = { s with busOut := t.busOut, busPoison := false } ∧
          (∀ r, s.regAt s.i3cOff.toNat = some (r, s.i3cOff.toNat) → 0xC00000 ≤ s.i3cOff.toNat → s.i3cOff.toNat < 0x1000000 →
            s.i3cOff.toNat % 4 = 0 → t.busOut = ((s.regView s.i3cOff.toNat).truncate 32 : BitVec 32).zeroExtend 64) ∧
          (s.i3cOff.toNat % 4 ≠ 0 → t.busOut = 0)) ∧
      (∀ dyn : BitVec 7, s.i3cDyn = none →
        exec (.setdasa (0x58 + s.i3cStrap.zeroExtend 7) dyn) s = .next { s with i3cDyn := some dyn } ∧
        exec (.entdaa dyn) s = .next { s with i3cDyn := some dyn }) ∧
      exec .extest s = .next { s with jtag := .extest } ∧ exec .samplePreload s = .next { s with jtag := .samplePreload } ∧
      exec .bypass s = .next { s with jtag := .bypass } ∧
      ∃ t, exec .idcode s = .next t ∧ t.jtag = .idcode ∧ t.busOut.toNat % 4096 = 0x4B5 * 2 + 1 ∧
        t.busOut.toNat / 4096 % 65536 = (if s.grade = .lcv8 then 0x0C08 else 0x0C04) ∧
        t = { s with jtag := .idcode, busOut := t.busOut, busPoison := false }) ∧
    ∀ (width rate : Nat) (cxl : Bool), s.hubUp = true → s.stage ≠ 0 → s.domOn 75 = true → width ∈ [16, 8, 4] → rate ∈ [64, 32, 16, 8] →
      exec (.cxlLinkUp width rate cxl) s = .next { s with linkUp := true, linkWidth := width, linkRate := rate, linkCxl := cxl }
end

