-- ==== Sys2Proof/Laws/Tbl.lean ====
section
/-! SUPPORT. The laws of the sparse tables: read after write, and the canonical form that every write keeps. -/
namespace Sys2Proof.Machine

variable {α : Type} {d : α}

theorem Tbl.get_insert_same (t : Tbl α) (k : Nat) (v : α) : Tbl.get d (Tbl.insert t k v) k = v := by
  induction t with
  | nil => simp [Tbl.insert, Tbl.get]
  | cons p t ih =>
    obtain ⟨j, w⟩ := p
    simp only [Tbl.insert]
    split
    · simp [Tbl.get]
    · split
      · simp [Tbl.get]
      · simp [Tbl.get, *]

theorem Tbl.get_insert_other (t : Tbl α) {k k' : Nat} (v : α) (h : k' ≠ k) :
    Tbl.get d (Tbl.insert t k v) k' = Tbl.get d t k' := by
  induction t with
  | nil => simp [Tbl.insert, Tbl.get, h]
  | cons p t ih =>
    obtain ⟨j, w⟩ := p
    simp only [Tbl.insert]
    split
    · simp [Tbl.get, h]
    · split
      · subst_vars; simp [Tbl.get, h]
      · simp only [Tbl.get]; rw [ih]

theorem Tbl.get_erase_same (t : Tbl α) (k : Nat) : Tbl.get d (Tbl.erase t k) k = d := by
  induction t with
  | nil => rfl
  | cons p t ih =>
    obtain ⟨j, w⟩ := p
    simp only [Tbl.erase]
    split
    · exact ih
    · simp only [Tbl.get]; rw [if_neg (by assumption), ih]

theorem Tbl.get_erase_other (t : Tbl α) {k k' : Nat} (h : k' ≠ k) :
    Tbl.get d (Tbl.erase t k) k' = Tbl.get d t k' := by
  induction t with
  | nil => rfl
  | cons p t ih =>
    obtain ⟨j, w⟩ := p
    simp only [Tbl.erase]
    split
    · subst_vars; simp only [Tbl.get]; rw [if_neg h, ih]
    · simp only [Tbl.get]; rw [ih]

/-- A key reads the value last written to it. -/
@[simp] theorem Tbl.get_set_same [DecidableEq α] (t : Tbl α) (k : Nat) (v : α) : Tbl.get d (Tbl.set d t k v) k = v := by
  unfold Tbl.set
  split
  · subst_vars; exact Tbl.get_erase_same t k
  · exact Tbl.get_insert_same t k v

/-- A write leaves every other key as it was, whatever that key's default is. -/
theorem Tbl.get_set_other [DecidableEq α] {e : α} (t : Tbl α) {k k' : Nat} (v : α) (h : k' ≠ k) :
    Tbl.get d (Tbl.set e t k v) k' = Tbl.get d t k' := by
  unfold Tbl.set
  split
  · exact Tbl.get_erase_other t h
  · exact Tbl.get_insert_other t v h

theorem Tbl.above_insert (t : Tbl α) {i k : Nat} (v : α) (h : Tbl.above i t = true) (hk : i < k) :
    Tbl.above i (Tbl.insert t k v) = true := by
  cases t with
  | nil => simpa [Tbl.insert, Tbl.above]
  | cons p t =>
    obtain ⟨j, w⟩ := p
    simp only [Tbl.insert]
    split
    · simpa [Tbl.above]
    · split <;> simp_all [Tbl.above]

theorem Tbl.above_mono {t : Tbl α} {i k : Nat} (h : Tbl.above k t = true) (hk : i ≤ k) : Tbl.above i t = true := by
  cases t with
  | nil => rfl
  | cons p t => simp_all [Tbl.above]; omega

theorem Tbl.above_erase [DecidableEq α] {e : Nat → α} (t : Tbl α) {i : Nat} (k : Nat) (h : Tbl.above i t = true)
    (hw : Tbl.wf e t = true) : Tbl.above i (Tbl.erase t k) = true := by
  induction t generalizing i with
  | nil => rfl
  | cons p t ih =>
    obtain ⟨j, w⟩ := p
    simp only [Tbl.wf, Bool.and_eq_true] at hw
    simp only [Tbl.above, decide_eq_true_eq] at h
    simp only [Tbl.erase]
    split
    · exact ih (Tbl.above_mono hw.1.2 (Nat.le_of_lt h)) hw.2
    · simpa [Tbl.above]

theorem Tbl.wf_erase [DecidableEq α] {e : Nat → α} (t : Tbl α) (k : Nat) (h : Tbl.wf e t = true) :
    Tbl.wf e (Tbl.erase t k) = true := by
  induction t with
  | nil => rfl
  | cons p t ih =>
    obtain ⟨j, w⟩ := p
    simp only [Tbl.wf, Bool.and_eq_true] at h
    simp only [Tbl.erase]
    split
    · exact ih h.2
    · simp only [Tbl.wf, Bool.and_eq_true]
      exact ⟨⟨h.1.1, Tbl.above_erase t k h.1.2 h.2⟩, ih h.2⟩

theorem Tbl.wf_insert [DecidableEq α] {e : Nat → α} (t : Tbl α) (k : Nat) (v : α) (hv : v ≠ e k)
    (h : Tbl.wf e t = true) : Tbl.wf e (Tbl.insert t k v) = true := by
  induction t with
  | nil => simp [Tbl.insert, Tbl.wf, Tbl.above, hv]
  | cons p t ih =>
    obtain ⟨j, w⟩ := p
    have h' := h
    simp only [Tbl.wf, Bool.and_eq_true] at h
    simp only [Tbl.insert]
    split
    · simp only [Tbl.wf, Bool.and_eq_true] at h' ⊢
      exact ⟨⟨by simpa using hv, by simpa [Tbl.above]⟩, h'⟩
    · split
      · simp only [Tbl.wf, Bool.and_eq_true]
        subst_vars
        exact ⟨⟨by simpa using hv, h.1.2⟩, h.2⟩
      · simp only [Tbl.wf, Bool.and_eq_true]
        exact ⟨⟨h.1.1, Tbl.above_insert t v h.1.2 (by omega)⟩, ih h.2⟩

/-- Every write with the key's default keeps the canonical form. -/
theorem Tbl.wf_set [DecidableEq α] {e : Nat → α} (t : Tbl α) (k : Nat) (v : α) (h : Tbl.wf e t = true) :
    Tbl.wf e (Tbl.set (e k) t k v) = true := by
  unfold Tbl.set
  split
  · exact Tbl.wf_erase t k h
  · rename_i hv
    exact Tbl.wf_insert t k v hv h

end Sys2Proof.Machine
end

