-- ==== Sys2Proof/Laws/Memory.lean ====
section
/-! SUPPORT. The laws of memory and of the register file: what a store and a register write leave, and the canonical form
that each keeps. -/
namespace Sys2Proof.Machine

/-! ## Registers -/

/-- A register reads what was last stored in it. -/
theorem State.reg_setReg_same (s : State) (o : Nat) (v : W64) : (s.setReg o v).reg o = v := by
  simp only [State.reg, State.setReg]; exact Tbl.get_set_same s.regs o v

/-- Storing a register leaves every other register. -/
theorem State.reg_setReg_other (s : State) {o o' : Nat} (v : W64) (h : o' ≠ o) : (s.setReg o v).reg o' = s.reg o' := by
  simp only [State.reg, State.setReg]; exact Tbl.get_set_other s.regs _ h

/-! ## Bytes -/

/-- Bytes below the first written address are left. -/
theorem get_writeBytes_below (skip : Nat → Bool) (m : Tbl Byte) (a b : Nat) (bs : List Byte) (h : b < a) :
    Tbl.get 0 (writeBytes skip m a bs) b = Tbl.get 0 m b := by
  induction bs generalizing m a with
  | nil => rfl
  | cons x bs ih =>
    rw [writeBytes, ih _ _ (by omega)]
    split
    · rfl
    · exact Tbl.get_set_other m _ (by omega)

/-- Bytes at or above the end of what is written are left. -/
theorem get_writeBytes_above (skip : Nat → Bool) (m : Tbl Byte) (a b : Nat) (bs : List Byte) (h : a + bs.length ≤ b) :
    Tbl.get 0 (writeBytes skip m a bs) b = Tbl.get 0 m b := by
  induction bs generalizing m a with
  | nil => rfl
  | cons x bs ih =>
    rw [List.length_cons] at h
    rw [writeBytes, ih _ _ (by omega)]
    split
    · rfl
    · exact Tbl.get_set_other m _ (by omega)

/-- Each written byte reads as written, but where it is skipped. -/
theorem get_writeBytes_in (skip : Nat → Bool) (m : Tbl Byte) (a k : Nat) (bs : List Byte) (h : k < bs.length)
    (hs : skip (a + k) = false) : Tbl.get 0 (writeBytes skip m a bs) (a + k) = bs[k] := by
  induction bs generalizing m a k with
  | nil => simp at h
  | cons x bs ih =>
    cases k with
    | zero =>
      rw [writeBytes, get_writeBytes_below _ _ _ _ _ (by omega)]
      simp only [Nat.add_zero] at hs
      simp [hs]
    | succ k =>
      have e : a + (k + 1) = a + 1 + k := by omega
      rw [e] at hs
      simp only [writeBytes, e, List.getElem_cons_succ]
      exact ih _ _ _ (by simpa using h) hs

/-- Writing bytes keeps the canonical form. -/
theorem wf_writeBytes (skip : Nat → Bool) (m : Tbl Byte) (a : Nat) (bs : List Byte)
    (h : Tbl.wf (fun _ => (0 : Byte)) m = true) : Tbl.wf (fun _ => (0 : Byte)) (writeBytes skip m a bs) = true := by
  induction bs generalizing m a with
  | nil => exact h
  | cons x bs ih =>
    rw [writeBytes]
    split
    · exact ih _ _ h
    · exact ih _ _ (Tbl.wf_set (e := fun _ => (0 : Byte)) m a x h)

/-- A store leaves every byte outside the stored range. -/
theorem State.byte_storeBytes_other (s : State) (a b : Nat) (bs : List Byte) (h : b < a ∨ a + bs.length ≤ b) :
    (s.storeBytes a bs).byte b = s.byte b := by
  simp only [State.byte, State.storeBytes]
  rcases h with h | h
  · exact get_writeBytes_below _ _ _ _ _ h
  · exact get_writeBytes_above _ _ _ _ _ h

/-- A store in granules without poison writes every byte. -/
theorem State.byte_storeBytes_same (s : State) (a k : Nat) (bs : List Byte) (h : k < bs.length)
    (hp : s.poisoned ((a + k) / 32) = false) : (s.storeBytes a bs).byte (a + k) = bs[k] := by
  simp only [State.byte, State.storeBytes]
  exact get_writeBytes_in _ _ _ _ _ h (by simp [hp])

/-! ## Poison marks -/

theorem wf_setPoison (v : Bool) (p : Tbl Bool) (gs : List Nat) (h : Tbl.wf (fun _ => false) p = true) :
    Tbl.wf (fun _ => false) (setPoison v p gs) = true := by
  induction gs generalizing p with
  | nil => exact h
  | cons g gs ih => exact ih _ (Tbl.wf_set (e := fun _ => false) p g v h)

theorem get_setPoison (v : Bool) (p : Tbl Bool) (gs : List Nat) (g : Nat) :
    Tbl.get false (setPoison v p gs) g = if g ∈ gs then v else Tbl.get false p g := by
  induction gs generalizing p with
  | nil => simp [setPoison]
  | cons x gs ih =>
    rw [setPoison, ih]
    by_cases hg : g ∈ gs
    · simp [hg]
    · by_cases hx : g = x
      · subst hx; simp [hg]
      · simp [hg, hx, Tbl.get_set_other p v hx]


/-- A table whose entries are filtered keeps the canonical form. -/
theorem Tbl.wf_filter {α : Type} [DecidableEq α] {e : Nat → α} (t : Tbl α) (f : Nat × α → Bool)
    (h : Tbl.wf e t = true) : Tbl.wf e (t.filter f) = true ∧ ∀ i, Tbl.above i t = true → Tbl.above i (t.filter f) = true := by
  induction t with
  | nil => exact ⟨rfl, fun _ h => h⟩
  | cons p t ih =>
    obtain ⟨j, w⟩ := p
    simp only [Tbl.wf, Bool.and_eq_true] at h
    obtain ⟨⟨h1, h2⟩, h3⟩ := h
    obtain ⟨i1, i2⟩ := ih h3
    simp only [List.filter]
    split
    · refine ⟨?_, fun i hi => by simpa [Tbl.above] using hi⟩
      simp only [Tbl.wf, Bool.and_eq_true]
      exact ⟨⟨h1, i2 _ h2⟩, i1⟩
    · exact ⟨i1, fun i hi => Tbl.above_mono (i2 _ h2) (by simp [Tbl.above] at hi; omega)⟩

end Sys2Proof.Machine
end

