-- ==== Sys2Proof/Laws/State.lean ====
section
/-! SUPPORT. What the plain updates of the state leave: for each, one lemma per field, true by rfl, so that no proof
unfolds a record update. The registers' own laws stand in Laws/Memory.lean, those of programs in Laws/Prog.lean. -/
namespace Sys2Proof.Machine

/-! ## Storing a register changes `regs` alone -/

@[simp] theorem State.setReg_grade (s : State) (o : Nat) (v : W64) : (s.setReg o v).grade = s.grade := rfl
@[simp] theorem State.setReg_held (s : State) (o : Nat) (v : W64) : (s.setReg o v).held = s.held := rfl
@[simp] theorem State.setReg_latched (s : State) (o : Nat) (v : W64) : (s.setReg o v).latched = s.latched := rfl
@[simp] theorem State.setReg_mem (s : State) (o : Nat) (v : W64) : (s.setReg o v).mem = s.mem := rfl
@[simp] theorem State.setReg_poison (s : State) (o : Nat) (v : W64) : (s.setReg o v).poison = s.poison := rfl
@[simp] theorem State.setReg_busOut (s : State) (o : Nat) (v : W64) : (s.setReg o v).busOut = s.busOut := rfl
@[simp] theorem State.setReg_busPoison (s : State) (o : Nat) (v : W64) : (s.setReg o v).busPoison = s.busPoison := rfl
@[simp] theorem State.setReg_msixOut (s : State) (o : Nat) (v : W64) : (s.setReg o v).msixOut = s.msixOut := rfl
@[simp] theorem State.setReg_freeCtr (s : State) (o : Nat) (v : W64) : (s.setReg o v).freeCtr = s.freeCtr := rfl
@[simp] theorem State.setReg_sync (s : State) (o : Nat) (v : W64) : (s.setReg o v).sync = s.sync := rfl
@[simp] theorem State.setReg_acts (s : State) (o : Nat) (v : W64) : (s.setReg o v).acts = s.acts := rfl
@[simp] theorem State.setReg_nextAct (s : State) (o : Nat) (v : W64) : (s.setReg o v).nextAct = s.nextAct := rfl
@[simp] theorem State.setReg_owed (s : State) (o : Nat) (v : W64) : (s.setReg o v).owed = s.owed := rfl
@[simp] theorem State.setReg_sq (s : State) (o : Nat) (v : W64) : (s.setReg o v).sq = s.sq := rfl
@[simp] theorem State.setReg_cq (s : State) (o : Nat) (v : W64) : (s.setReg o v).cq = s.cq := rfl
@[simp] theorem State.setReg_time (s : State) (o : Nat) (v : W64) : (s.setReg o v).time = s.time := rfl
@[simp] theorem State.setReg_tileQ (s : State) (o : Nat) (v : W64) : (s.setReg o v).tileQ = s.tileQ := rfl
@[simp] theorem State.setReg_tileRun (s : State) (o : Nat) (v : W64) : (s.setReg o v).tileRun = s.tileRun := rfl
@[simp] theorem State.setReg_tileHeld (s : State) (o : Nat) (v : W64) : (s.setReg o v).tileHeld = s.tileHeld := rfl
@[simp] theorem State.setReg_progs (s : State) (o : Nat) (v : W64) : (s.setReg o v).progs = s.progs := rfl
@[simp] theorem State.setReg_monHi (s : State) (o : Nat) (v : W64) : (s.setReg o v).monHi = s.monHi := rfl
@[simp] theorem State.setReg_monNow (s : State) (o : Nat) (v : W64) : (s.setReg o v).monNow = s.monNow := rfl
@[simp] theorem State.setReg_coreQ (s : State) (o : Nat) (v : W64) : (s.setReg o v).coreQ = s.coreQ := rfl
@[simp] theorem State.setReg_engQ (s : State) (o : Nat) (v : W64) : (s.setReg o v).engQ = s.engQ := rfl
@[simp] theorem State.setReg_shares (s : State) (o : Nat) (v : W64) : (s.setReg o v).shares = s.shares := rfl
@[simp] theorem State.setReg_batches (s : State) (o : Nat) (v : W64) : (s.setReg o v).batches = s.batches := rfl
@[simp] theorem State.setReg_nextBatch (s : State) (o : Nat) (v : W64) : (s.setReg o v).nextBatch = s.nextBatch := rfl
@[simp] theorem State.setReg_genWords (s : State) (o : Nat) (v : W64) : (s.setReg o v).genWords = s.genWords := rfl
@[simp] theorem State.setReg_chkCache (s : State) (o : Nat) (v : W64) : (s.setReg o v).chkCache = s.chkCache := rfl
@[simp] theorem State.setReg_pageTrack (s : State) (o : Nat) (v : W64) : (s.setReg o v).pageTrack = s.pageTrack := rfl
@[simp] theorem State.setReg_pinTrack (s : State) (o : Nat) (v : W64) : (s.setReg o v).pinTrack = s.pinTrack := rfl
@[simp] theorem State.setReg_erasedPin (s : State) (o : Nat) (v : W64) : (s.setReg o v).erasedPin = s.erasedPin := rfl
@[simp] theorem State.setReg_retireDue (s : State) (o : Nat) (v : W64) : (s.setReg o v).retireDue = s.retireDue := rfl
@[simp] theorem State.setReg_retiring (s : State) (o : Nat) (v : W64) : (s.setReg o v).retiring = s.retiring := rfl
@[simp] theorem State.setReg_memHeld (s : State) (o : Nat) (v : W64) : (s.setReg o v).memHeld = s.memHeld := rfl
@[simp] theorem State.setReg_scrubPos (s : State) (o : Nat) (v : W64) : (s.setReg o v).scrubPos = s.scrubPos := rfl
@[simp] theorem State.setReg_refRate (s : State) (o : Nat) (v : W64) : (s.setReg o v).refRate = s.refRate := rfl
@[simp] theorem State.setReg_refreshed (s : State) (o : Nat) (v : W64) : (s.setReg o v).refreshed = s.refreshed := rfl
@[simp] theorem State.setReg_hostLines (s : State) (o : Nat) (v : W64) : (s.setReg o v).hostLines = s.hostLines := rfl
@[simp] theorem State.setReg_bisnps (s : State) (o : Nat) (v : W64) : (s.setReg o v).bisnps = s.bisnps := rfl
@[simp] theorem State.setReg_bisnpOut (s : State) (o : Nat) (v : W64) : (s.setReg o v).bisnpOut = s.bisnpOut := rfl
@[simp] theorem State.setReg_hostErrs (s : State) (o : Nat) (v : W64) : (s.setReg o v).hostErrs = s.hostErrs := rfl
@[simp] theorem State.setReg_dataOut (s : State) (o : Nat) (v : W64) : (s.setReg o v).dataOut = s.dataOut := rfl
@[simp] theorem State.setReg_dataPoison (s : State) (o : Nat) (v : W64) : (s.setReg o v).dataPoison = s.dataPoison :=
    rfl
@[simp] theorem State.setReg_dropKey (s : State) (o : Nat) (v : W64) : (s.setReg o v).dropKey = s.dropKey := rfl
@[simp] theorem State.setReg_out (s : State) (o : Nat) (v : W64) : (s.setReg o v).out = s.out := rfl
@[simp] theorem State.setReg_outst (s : State) (o : Nat) (v : W64) : (s.setReg o v).outst = s.outst := rfl
@[simp] theorem State.setReg_flows (s : State) (o : Nat) (v : W64) : (s.setReg o v).flows = s.flows := rfl
@[simp] theorem State.setReg_reqs (s : State) (o : Nat) (v : W64) : (s.setReg o v).reqs = s.reqs := rfl
@[simp] theorem State.setReg_reqQ (s : State) (o : Nat) (v : W64) : (s.setReg o v).reqQ = s.reqQ := rfl
@[simp] theorem State.setReg_wroteTo (s : State) (o : Nat) (v : W64) : (s.setReg o v).wroteTo = s.wroteTo := rfl
@[simp] theorem State.setReg_accesses (s : State) (o : Nat) (v : W64) : (s.setReg o v).accesses = s.accesses := rfl
@[simp] theorem State.setReg_nextTag (s : State) (o : Nat) (v : W64) : (s.setReg o v).nextTag = s.nextTag := rfl
@[simp] theorem State.setReg_rxFlows (s : State) (o : Nat) (v : W64) : (s.setReg o v).rxFlows = s.rxFlows := rfl
@[simp] theorem State.setReg_replies (s : State) (o : Nat) (v : W64) : (s.setReg o v).replies = s.replies := rfl
@[simp] theorem State.setReg_chunksRx (s : State) (o : Nat) (v : W64) : (s.setReg o v).chunksRx = s.chunksRx := rfl
@[simp] theorem State.setReg_chunksTx (s : State) (o : Nat) (v : W64) : (s.setReg o v).chunksTx = s.chunksTx := rfl
@[simp] theorem State.setReg_chunkQ (s : State) (o : Nat) (v : W64) : (s.setReg o v).chunkQ = s.chunkQ := rfl
@[simp] theorem State.setReg_replHeld (s : State) (o : Nat) (v : W64) : (s.setReg o v).replHeld = s.replHeld := rfl
@[simp] theorem State.setReg_laneEv (s : State) (o : Nat) (v : W64) : (s.setReg o v).laneEv = s.laneEv := rfl
@[simp] theorem State.setReg_laneLast (s : State) (o : Nat) (v : W64) : (s.setReg o v).laneLast = s.laneLast := rfl
@[simp] theorem State.setReg_rotate (s : State) (o : Nat) (v : W64) : (s.setReg o v).rotate = s.rotate := rfl
@[simp] theorem State.setReg_linkTx (s : State) (o : Nat) (v : W64) : (s.setReg o v).linkTx = s.linkTx := rfl
@[simp] theorem State.setReg_linkRx (s : State) (o : Nat) (v : W64) : (s.setReg o v).linkRx = s.linkRx := rfl
@[simp] theorem State.setReg_linkBuf (s : State) (o : Nat) (v : W64) : (s.setReg o v).linkBuf = s.linkBuf := rfl
@[simp] theorem State.setReg_linkFail (s : State) (o : Nat) (v : W64) : (s.setReg o v).linkFail = s.linkFail := rfl
@[simp] theorem State.setReg_unfreed (s : State) (o : Nat) (v : W64) : (s.setReg o v).unfreed = s.unfreed := rfl
@[simp] theorem State.setReg_arb (s : State) (o : Nat) (v : W64) : (s.setReg o v).arb = s.arb := rfl
@[simp] theorem State.setReg_portQ (s : State) (o : Nat) (v : W64) : (s.setReg o v).portQ = s.portQ := rfl
@[simp] theorem State.setReg_drainQ (s : State) (o : Nat) (v : W64) : (s.setReg o v).drainQ = s.drainQ := rfl
@[simp] theorem State.setReg_freed (s : State) (o : Nat) (v : W64) : (s.setReg o v).freed = s.freed := rfl
@[simp] theorem State.setReg_colQ (s : State) (o : Nat) (v : W64) : (s.setReg o v).colQ = s.colQ := rfl
@[simp] theorem State.setReg_colRun (s : State) (o : Nat) (v : W64) : (s.setReg o v).colRun = s.colRun := rfl
@[simp] theorem State.setReg_colLists (s : State) (o : Nat) (v : W64) : (s.setReg o v).colLists = s.colLists := rfl
@[simp] theorem State.setReg_colClear (s : State) (o : Nat) (v : W64) : (s.setReg o v).colClear = s.colClear := rfl
@[simp] theorem State.setReg_colRx (s : State) (o : Nat) (v : W64) : (s.setReg o v).colRx = s.colRx := rfl
@[simp] theorem State.setReg_colTx (s : State) (o : Nat) (v : W64) : (s.setReg o v).colTx = s.colTx := rfl
@[simp] theorem State.setReg_colCredits (s : State) (o : Nat) (v : W64) : (s.setReg o v).colCredits = s.colCredits :=
    rfl
@[simp] theorem State.setReg_hellos (s : State) (o : Nat) (v : W64) : (s.setReg o v).hellos = s.hellos := rfl
@[simp] theorem State.setReg_aborts (s : State) (o : Nat) (v : W64) : (s.setReg o v).aborts = s.aborts := rfl
@[simp] theorem State.setReg_substGone (s : State) (o : Nat) (v : W64) : (s.setReg o v).substGone = s.substGone := rfl
@[simp] theorem State.setReg_takes (s : State) (o : Nat) (v : W64) : (s.setReg o v).takes = s.takes := rfl
@[simp] theorem State.setReg_substAsks (s : State) (o : Nat) (v : W64) : (s.setReg o v).substAsks = s.substAsks := rfl
@[simp] theorem State.setReg_relays (s : State) (o : Nat) (v : W64) : (s.setReg o v).relays = s.relays := rfl
@[simp] theorem State.setReg_dmas (s : State) (o : Nat) (v : W64) : (s.setReg o v).dmas = s.dmas := rfl
@[simp] theorem State.setReg_nextDma (s : State) (o : Nat) (v : W64) : (s.setReg o v).nextDma = s.nextDma := rfl
@[simp] theorem State.setReg_mboxRet (s : State) (o : Nat) (v : W64) : (s.setReg o v).mboxRet = s.mboxRet := rfl
@[simp] theorem State.setReg_mboxOut (s : State) (o : Nat) (v : W64) : (s.setReg o v).mboxOut = s.mboxOut := rfl
@[simp] theorem State.setReg_mboxEvents (s : State) (o : Nat) (v : W64) : (s.setReg o v).mboxEvents = s.mboxEvents :=
    rfl
@[simp] theorem State.setReg_mboxTime (s : State) (o : Nat) (v : W64) : (s.setReg o v).mboxTime = s.mboxTime := rfl
@[simp] theorem State.setReg_linkUp (s : State) (o : Nat) (v : W64) : (s.setReg o v).linkUp = s.linkUp := rfl
@[simp] theorem State.setReg_linkWidth (s : State) (o : Nat) (v : W64) : (s.setReg o v).linkWidth = s.linkWidth := rfl
@[simp] theorem State.setReg_linkRate (s : State) (o : Nat) (v : W64) : (s.setReg o v).linkRate = s.linkRate := rfl
@[simp] theorem State.setReg_linkCxl (s : State) (o : Nat) (v : W64) : (s.setReg o v).linkCxl = s.linkCxl := rfl
@[simp] theorem State.setReg_ckpQ (s : State) (o : Nat) (v : W64) : (s.setReg o v).ckpQ = s.ckpQ := rfl
@[simp] theorem State.setReg_ckpRun (s : State) (o : Nat) (v : W64) : (s.setReg o v).ckpRun = s.ckpRun := rfl
@[simp] theorem State.setReg_pktTx (s : State) (o : Nat) (v : W64) : (s.setReg o v).pktTx = s.pktTx := rfl
@[simp] theorem State.setReg_pktRx (s : State) (o : Nat) (v : W64) : (s.setReg o v).pktRx = s.pktRx := rfl
@[simp] theorem State.setReg_summaries (s : State) (o : Nat) (v : W64) : (s.setReg o v).summaries = s.summaries := rfl
@[simp] theorem State.setReg_announced (s : State) (o : Nat) (v : W64) : (s.setReg o v).announced = s.announced := rfl
@[simp] theorem State.setReg_ckpAll (s : State) (o : Nat) (v : W64) : (s.setReg o v).ckpAll = s.ckpAll := rfl
@[simp] theorem State.setReg_ckpNewest (s : State) (o : Nat) (v : W64) : (s.setReg o v).ckpNewest = s.ckpNewest := rfl
@[simp] theorem State.setReg_restore (s : State) (o : Nat) (v : W64) : (s.setReg o v).restore = s.restore := rfl
@[simp] theorem State.setReg_xfer (s : State) (o : Nat) (v : W64) : (s.setReg o v).xfer = s.xfer := rfl
@[simp] theorem State.setReg_unitMap (s : State) (o : Nat) (v : W64) : (s.setReg o v).unitMap = s.unitMap := rfl
@[simp] theorem State.setReg_physMap (s : State) (o : Nat) (v : W64) : (s.setReg o v).physMap = s.physMap := rfl
@[simp] theorem State.setReg_faultLog (s : State) (o : Nat) (v : W64) : (s.setReg o v).faultLog = s.faultLog := rfl
@[simp] theorem State.setReg_lastingRes (s : State) (o : Nat) (v : W64) : (s.setReg o v).lastingRes = s.lastingRes :=
    rfl
@[simp] theorem State.setReg_parked (s : State) (o : Nat) (v : W64) : (s.setReg o v).parked = s.parked := rfl
@[simp] theorem State.setReg_test (s : State) (o : Nat) (v : W64) : (s.setReg o v).test = s.test := rfl
@[simp] theorem State.setReg_seamNow (s : State) (o : Nat) (v : W64) : (s.setReg o v).seamNow = s.seamNow := rfl
@[simp] theorem State.setReg_fuseKeyHash (s : State) (o : Nat) (v : W64) : (s.setReg o v).fuseKeyHash = s.fuseKeyHash :=
    rfl
@[simp] theorem State.setReg_fuseSerial (s : State) (o : Nat) (v : W64) : (s.setReg o v).fuseSerial = s.fuseSerial :=
    rfl
@[simp] theorem State.setReg_fuseRevoke (s : State) (o : Nat) (v : W64) : (s.setReg o v).fuseRevoke = s.fuseRevoke :=
    rfl
@[simp] theorem State.setReg_fuseSvn (s : State) (o : Nat) (v : W64) : (s.setReg o v).fuseSvn = s.fuseSvn := rfl
@[simp] theorem State.setReg_fuseLifecycle (s : State) (o : Nat) (v : W64) : (s.setReg o v).fuseLifecycle = s.fuseLifecycle :=
    rfl
@[simp] theorem State.setReg_flash (s : State) (o : Nat) (v : W64) : (s.setReg o v).flash = s.flash := rfl
@[simp] theorem State.setReg_staging (s : State) (o : Nat) (v : W64) : (s.setReg o v).staging = s.staging := rfl
@[simp] theorem State.setReg_recordLen (s : State) (o : Nat) (v : W64) : (s.setReg o v).recordLen = s.recordLen := rfl
@[simp] theorem State.setReg_imageLen (s : State) (o : Nat) (v : W64) : (s.setReg o v).imageLen = s.imageLen := rfl
@[simp] theorem State.setReg_fwRuns (s : State) (o : Nat) (v : W64) : (s.setReg o v).fwRuns = s.fwRuns := rfl
@[simp] theorem State.setReg_dbgRefusals (s : State) (o : Nat) (v : W64) : (s.setReg o v).dbgRefusals = s.dbgRefusals :=
    rfl
@[simp] theorem State.setReg_sessions (s : State) (o : Nat) (v : W64) : (s.setReg o v).sessions = s.sessions := rfl
@[simp] theorem State.setReg_nextSession (s : State) (o : Nat) (v : W64) : (s.setReg o v).nextSession = s.nextSession :=
    rfl
@[simp] theorem State.setReg_spdmOut (s : State) (o : Nat) (v : W64) : (s.setReg o v).spdmOut = s.spdmOut := rfl
@[simp] theorem State.setReg_ide (s : State) (o : Nat) (v : W64) : (s.setReg o v).ide = s.ide := rfl
@[simp] theorem State.setReg_ideOut (s : State) (o : Nat) (v : W64) : (s.setReg o v).ideOut = s.ideOut := rfl
@[simp] theorem State.setReg_ideBad (s : State) (o : Nat) (v : W64) : (s.setReg o v).ideBad = s.ideBad := rfl
@[simp] theorem State.setReg_hubUp (s : State) (o : Nat) (v : W64) : (s.setReg o v).hubUp = s.hubUp := rfl
@[simp] theorem State.setReg_refBad (s : State) (o : Nat) (v : W64) : (s.setReg o v).refBad = s.refBad := rfl
@[simp] theorem State.setReg_powerHold (s : State) (o : Nat) (v : W64) : (s.setReg o v).powerHold = s.powerHold := rfl
@[simp] theorem State.setReg_upWaits (s : State) (o : Nat) (v : W64) : (s.setReg o v).upWaits = s.upWaits := rfl
@[simp] theorem State.setReg_bistDue (s : State) (o : Nat) (v : W64) : (s.setReg o v).bistDue = s.bistDue := rfl
@[simp] theorem State.setReg_memEpoch (s : State) (o : Nat) (v : W64) : (s.setReg o v).memEpoch = s.memEpoch := rfl
@[simp] theorem State.setReg_failedMarks (s : State) (o : Nat) (v : W64) : (s.setReg o v).failedMarks = s.failedMarks :=
    rfl
@[simp] theorem State.setReg_swLevel (s : State) (o : Nat) (v : W64) : (s.setReg o v).swLevel = s.swLevel := rfl
@[simp] theorem State.setReg_i3cStrap (s : State) (o : Nat) (v : W64) : (s.setReg o v).i3cStrap = s.i3cStrap := rfl
@[simp] theorem State.setReg_i3cDyn (s : State) (o : Nat) (v : W64) : (s.setReg o v).i3cDyn = s.i3cDyn := rfl
@[simp] theorem State.setReg_i3cOff (s : State) (o : Nat) (v : W64) : (s.setReg o v).i3cOff = s.i3cOff := rfl
@[simp] theorem State.setReg_ibiOut (s : State) (o : Nat) (v : W64) : (s.setReg o v).ibiOut = s.ibiOut := rfl
@[simp] theorem State.setReg_jtag (s : State) (o : Nat) (v : W64) : (s.setReg o v).jtag = s.jtag := rfl
@[simp] theorem State.setReg_pending (s : State) (o : Nat) (v : W64) : (s.setReg o v).pending = s.pending := rfl

/-! ## Storing a field of a register changes `regs` alone -/

@[simp] theorem State.setRegF_grade (s : State) (o lo len x : Nat) : (s.setRegF o lo len x).grade = s.grade := rfl
@[simp] theorem State.setRegF_held (s : State) (o lo len x : Nat) : (s.setRegF o lo len x).held = s.held := rfl
@[simp] theorem State.setRegF_latched (s : State) (o lo len x : Nat) : (s.setRegF o lo len x).latched = s.latched := rfl
@[simp] theorem State.setRegF_mem (s : State) (o lo len x : Nat) : (s.setRegF o lo len x).mem = s.mem := rfl
@[simp] theorem State.setRegF_poison (s : State) (o lo len x : Nat) : (s.setRegF o lo len x).poison = s.poison := rfl
@[simp] theorem State.setRegF_busOut (s : State) (o lo len x : Nat) : (s.setRegF o lo len x).busOut = s.busOut := rfl
@[simp] theorem State.setRegF_busPoison (s : State) (o lo len x : Nat) : (s.setRegF o lo len x).busPoison = s.busPoison :=
    rfl
@[simp] theorem State.setRegF_msixOut (s : State) (o lo len x : Nat) : (s.setRegF o lo len x).msixOut = s.msixOut := rfl
@[simp] theorem State.setRegF_freeCtr (s : State) (o lo len x : Nat) : (s.setRegF o lo len x).freeCtr = s.freeCtr := rfl
@[simp] theorem State.setRegF_sync (s : State) (o lo len x : Nat) : (s.setRegF o lo len x).sync = s.sync := rfl
@[simp] theorem State.setRegF_acts (s : State) (o lo len x : Nat) : (s.setRegF o lo len x).acts = s.acts := rfl
@[simp] theorem State.setRegF_nextAct (s : State) (o lo len x : Nat) : (s.setRegF o lo len x).nextAct = s.nextAct := rfl
@[simp] theorem State.setRegF_owed (s : State) (o lo len x : Nat) : (s.setRegF o lo len x).owed = s.owed := rfl
@[simp] theorem State.setRegF_sq (s : State) (o lo len x : Nat) : (s.setRegF o lo len x).sq = s.sq := rfl
@[simp] theorem State.setRegF_cq (s : State) (o lo len x : Nat) : (s.setRegF o lo len x).cq = s.cq := rfl
@[simp] theorem State.setRegF_time (s : State) (o lo len x : Nat) : (s.setRegF o lo len x).time = s.time := rfl
@[simp] theorem State.setRegF_tileQ (s : State) (o lo len x : Nat) : (s.setRegF o lo len x).tileQ = s.tileQ := rfl
@[simp] theorem State.setRegF_tileRun (s : State) (o lo len x : Nat) : (s.setRegF o lo len x).tileRun = s.tileRun := rfl
@[simp] theorem State.setRegF_tileHeld (s : State) (o lo len x : Nat) : (s.setRegF o lo len x).tileHeld = s.tileHeld :=
    rfl
@[simp] theorem State.setRegF_progs (s : State) (o lo len x : Nat) : (s.setRegF o lo len x).progs = s.progs := rfl
@[simp] theorem State.setRegF_monHi (s : State) (o lo len x : Nat) : (s.setRegF o lo len x).monHi = s.monHi := rfl
@[simp] theorem State.setRegF_monNow (s : State) (o lo len x : Nat) : (s.setRegF o lo len x).monNow = s.monNow := rfl
@[simp] theorem State.setRegF_coreQ (s : State) (o lo len x : Nat) : (s.setRegF o lo len x).coreQ = s.coreQ := rfl
@[simp] theorem State.setRegF_engQ (s : State) (o lo len x : Nat) : (s.setRegF o lo len x).engQ = s.engQ := rfl
@[simp] theorem State.setRegF_shares (s : State) (o lo len x : Nat) : (s.setRegF o lo len x).shares = s.shares := rfl
@[simp] theorem State.setRegF_batches (s : State) (o lo len x : Nat) : (s.setRegF o lo len x).batches = s.batches := rfl
@[simp] theorem State.setRegF_nextBatch (s : State) (o lo len x : Nat) : (s.setRegF o lo len x).nextBatch = s.nextBatch :=
    rfl
@[simp] theorem State.setRegF_genWords (s : State) (o lo len x : Nat) : (s.setRegF o lo len x).genWords = s.genWords :=
    rfl
@[simp] theorem State.setRegF_chkCache (s : State) (o lo len x : Nat) : (s.setRegF o lo len x).chkCache = s.chkCache :=
    rfl
@[simp] theorem State.setRegF_pageTrack (s : State) (o lo len x : Nat) : (s.setRegF o lo len x).pageTrack = s.pageTrack :=
    rfl
@[simp] theorem State.setRegF_pinTrack (s : State) (o lo len x : Nat) : (s.setRegF o lo len x).pinTrack = s.pinTrack :=
    rfl
@[simp] theorem State.setRegF_erasedPin (s : State) (o lo len x : Nat) : (s.setRegF o lo len x).erasedPin = s.erasedPin :=
    rfl
@[simp] theorem State.setRegF_retireDue (s : State) (o lo len x : Nat) : (s.setRegF o lo len x).retireDue = s.retireDue :=
    rfl
@[simp] theorem State.setRegF_retiring (s : State) (o lo len x : Nat) : (s.setRegF o lo len x).retiring = s.retiring :=
    rfl
@[simp] theorem State.setRegF_memHeld (s : State) (o lo len x : Nat) : (s.setRegF o lo len x).memHeld = s.memHeld := rfl
@[simp] theorem State.setRegF_scrubPos (s : State) (o lo len x : Nat) : (s.setRegF o lo len x).scrubPos = s.scrubPos :=
    rfl
@[simp] theorem State.setRegF_refRate (s : State) (o lo len x : Nat) : (s.setRegF o lo len x).refRate = s.refRate := rfl
@[simp] theorem State.setRegF_refreshed (s : State) (o lo len x : Nat) : (s.setRegF o lo len x).refreshed = s.refreshed :=
    rfl
@[simp] theorem State.setRegF_hostLines (s : State) (o lo len x : Nat) : (s.setRegF o lo len x).hostLines = s.hostLines :=
    rfl
@[simp] theorem State.setRegF_bisnps (s : State) (o lo len x : Nat) : (s.setRegF o lo len x).bisnps = s.bisnps := rfl
@[simp] theorem State.setRegF_bisnpOut (s : State) (o lo len x : Nat) : (s.setRegF o lo len x).bisnpOut = s.bisnpOut :=
    rfl
@[simp] theorem State.setRegF_hostErrs (s : State) (o lo len x : Nat) : (s.setRegF o lo len x).hostErrs = s.hostErrs :=
    rfl
@[simp] theorem State.setRegF_dataOut (s : State) (o lo len x : Nat) : (s.setRegF o lo len x).dataOut = s.dataOut := rfl
@[simp] theorem State.setRegF_dataPoison (s : State) (o lo len x : Nat) : (s.setRegF o lo len x).dataPoison = s.dataPoison :=
    rfl
@[simp] theorem State.setRegF_dropKey (s : State) (o lo len x : Nat) : (s.setRegF o lo len x).dropKey = s.dropKey := rfl
@[simp] theorem State.setRegF_out (s : State) (o lo len x : Nat) : (s.setRegF o lo len x).out = s.out := rfl
@[simp] theorem State.setRegF_outst (s : State) (o lo len x : Nat) : (s.setRegF o lo len x).outst = s.outst := rfl
@[simp] theorem State.setRegF_flows (s : State) (o lo len x : Nat) : (s.setRegF o lo len x).flows = s.flows := rfl
@[simp] theorem State.setRegF_reqs (s : State) (o lo len x : Nat) : (s.setRegF o lo len x).reqs = s.reqs := rfl
@[simp] theorem State.setRegF_reqQ (s : State) (o lo len x : Nat) : (s.setRegF o lo len x).reqQ = s.reqQ := rfl
@[simp] theorem State.setRegF_wroteTo (s : State) (o lo len x : Nat) : (s.setRegF o lo len x).wroteTo = s.wroteTo := rfl
@[simp] theorem State.setRegF_accesses (s : State) (o lo len x : Nat) : (s.setRegF o lo len x).accesses = s.accesses :=
    rfl
@[simp] theorem State.setRegF_nextTag (s : State) (o lo len x : Nat) : (s.setRegF o lo len x).nextTag = s.nextTag := rfl
@[simp] theorem State.setRegF_rxFlows (s : State) (o lo len x : Nat) : (s.setRegF o lo len x).rxFlows = s.rxFlows := rfl
@[simp] theorem State.setRegF_replies (s : State) (o lo len x : Nat) : (s.setRegF o lo len x).replies = s.replies := rfl
@[simp] theorem State.setRegF_chunksRx (s : State) (o lo len x : Nat) : (s.setRegF o lo len x).chunksRx = s.chunksRx :=
    rfl
@[simp] theorem State.setRegF_chunksTx (s : State) (o lo len x : Nat) : (s.setRegF o lo len x).chunksTx = s.chunksTx :=
    rfl
@[simp] theorem State.setRegF_chunkQ (s : State) (o lo len x : Nat) : (s.setRegF o lo len x).chunkQ = s.chunkQ := rfl
@[simp] theorem State.setRegF_replHeld (s : State) (o lo len x : Nat) : (s.setRegF o lo len x).replHeld = s.replHeld :=
    rfl
@[simp] theorem State.setRegF_laneEv (s : State) (o lo len x : Nat) : (s.setRegF o lo len x).laneEv = s.laneEv := rfl
@[simp] theorem State.setRegF_laneLast (s : State) (o lo len x : Nat) : (s.setRegF o lo len x).laneLast = s.laneLast :=
    rfl
@[simp] theorem State.setRegF_rotate (s : State) (o lo len x : Nat) : (s.setRegF o lo len x).rotate = s.rotate := rfl
@[simp] theorem State.setRegF_linkTx (s : State) (o lo len x : Nat) : (s.setRegF o lo len x).linkTx = s.linkTx := rfl
@[simp] theorem State.setRegF_linkRx (s : State) (o lo len x : Nat) : (s.setRegF o lo len x).linkRx = s.linkRx := rfl
@[simp] theorem State.setRegF_linkBuf (s : State) (o lo len x : Nat) : (s.setRegF o lo len x).linkBuf = s.linkBuf := rfl
@[simp] theorem State.setRegF_linkFail (s : State) (o lo len x : Nat) : (s.setRegF o lo len x).linkFail = s.linkFail :=
    rfl
@[simp] theorem State.setRegF_unfreed (s : State) (o lo len x : Nat) : (s.setRegF o lo len x).unfreed = s.unfreed := rfl
@[simp] theorem State.setRegF_arb (s : State) (o lo len x : Nat) : (s.setRegF o lo len x).arb = s.arb := rfl
@[simp] theorem State.setRegF_portQ (s : State) (o lo len x : Nat) : (s.setRegF o lo len x).portQ = s.portQ := rfl
@[simp] theorem State.setRegF_drainQ (s : State) (o lo len x : Nat) : (s.setRegF o lo len x).drainQ = s.drainQ := rfl
@[simp] theorem State.setRegF_freed (s : State) (o lo len x : Nat) : (s.setRegF o lo len x).freed = s.freed := rfl
@[simp] theorem State.setRegF_colQ (s : State) (o lo len x : Nat) : (s.setRegF o lo len x).colQ = s.colQ := rfl
@[simp] theorem State.setRegF_colRun (s : State) (o lo len x : Nat) : (s.setRegF o lo len x).colRun = s.colRun := rfl
@[simp] theorem State.setRegF_colLists (s : State) (o lo len x : Nat) : (s.setRegF o lo len x).colLists = s.colLists :=
    rfl
@[simp] theorem State.setRegF_colClear (s : State) (o lo len x : Nat) : (s.setRegF o lo len x).colClear = s.colClear :=
    rfl
@[simp] theorem State.setRegF_colRx (s : State) (o lo len x : Nat) : (s.setRegF o lo len x).colRx = s.colRx := rfl
@[simp] theorem State.setRegF_colTx (s : State) (o lo len x : Nat) : (s.setRegF o lo len x).colTx = s.colTx := rfl
@[simp] theorem State.setRegF_colCredits (s : State) (o lo len x : Nat) : (s.setRegF o lo len x).colCredits = s.colCredits :=
    rfl
@[simp] theorem State.setRegF_hellos (s : State) (o lo len x : Nat) : (s.setRegF o lo len x).hellos = s.hellos := rfl
@[simp] theorem State.setRegF_aborts (s : State) (o lo len x : Nat) : (s.setRegF o lo len x).aborts = s.aborts := rfl
@[simp] theorem State.setRegF_substGone (s : State) (o lo len x : Nat) : (s.setRegF o lo len x).substGone = s.substGone :=
    rfl
@[simp] theorem State.setRegF_takes (s : State) (o lo len x : Nat) : (s.setRegF o lo len x).takes = s.takes := rfl
@[simp] theorem State.setRegF_substAsks (s : State) (o lo len x : Nat) : (s.setRegF o lo len x).substAsks = s.substAsks :=
    rfl
@[simp] theorem State.setRegF_relays (s : State) (o lo len x : Nat) : (s.setRegF o lo len x).relays = s.relays := rfl
@[simp] theorem State.setRegF_dmas (s : State) (o lo len x : Nat) : (s.setRegF o lo len x).dmas = s.dmas := rfl
@[simp] theorem State.setRegF_nextDma (s : State) (o lo len x : Nat) : (s.setRegF o lo len x).nextDma = s.nextDma := rfl
@[simp] theorem State.setRegF_mboxRet (s : State) (o lo len x : Nat) : (s.setRegF o lo len x).mboxRet = s.mboxRet := rfl
@[simp] theorem State.setRegF_mboxOut (s : State) (o lo len x : Nat) : (s.setRegF o lo len x).mboxOut = s.mboxOut := rfl
@[simp] theorem State.setRegF_mboxEvents (s : State) (o lo len x : Nat) : (s.setRegF o lo len x).mboxEvents = s.mboxEvents :=
    rfl
@[simp] theorem State.setRegF_mboxTime (s : State) (o lo len x : Nat) : (s.setRegF o lo len x).mboxTime = s.mboxTime :=
    rfl
@[simp] theorem State.setRegF_linkUp (s : State) (o lo len x : Nat) : (s.setRegF o lo len x).linkUp = s.linkUp := rfl
@[simp] theorem State.setRegF_linkWidth (s : State) (o lo len x : Nat) : (s.setRegF o lo len x).linkWidth = s.linkWidth :=
    rfl
@[simp] theorem State.setRegF_linkRate (s : State) (o lo len x : Nat) : (s.setRegF o lo len x).linkRate = s.linkRate :=
    rfl
@[simp] theorem State.setRegF_linkCxl (s : State) (o lo len x : Nat) : (s.setRegF o lo len x).linkCxl = s.linkCxl := rfl
@[simp] theorem State.setRegF_ckpQ (s : State) (o lo len x : Nat) : (s.setRegF o lo len x).ckpQ = s.ckpQ := rfl
@[simp] theorem State.setRegF_ckpRun (s : State) (o lo len x : Nat) : (s.setRegF o lo len x).ckpRun = s.ckpRun := rfl
@[simp] theorem State.setRegF_pktTx (s : State) (o lo len x : Nat) : (s.setRegF o lo len x).pktTx = s.pktTx := rfl
@[simp] theorem State.setRegF_pktRx (s : State) (o lo len x : Nat) : (s.setRegF o lo len x).pktRx = s.pktRx := rfl
@[simp] theorem State.setRegF_summaries (s : State) (o lo len x : Nat) : (s.setRegF o lo len x).summaries = s.summaries :=
    rfl
@[simp] theorem State.setRegF_announced (s : State) (o lo len x : Nat) : (s.setRegF o lo len x).announced = s.announced :=
    rfl
@[simp] theorem State.setRegF_ckpAll (s : State) (o lo len x : Nat) : (s.setRegF o lo len x).ckpAll = s.ckpAll := rfl
@[simp] theorem State.setRegF_ckpNewest (s : State) (o lo len x : Nat) : (s.setRegF o lo len x).ckpNewest = s.ckpNewest :=
    rfl
@[simp] theorem State.setRegF_restore (s : State) (o lo len x : Nat) : (s.setRegF o lo len x).restore = s.restore := rfl
@[simp] theorem State.setRegF_xfer (s : State) (o lo len x : Nat) : (s.setRegF o lo len x).xfer = s.xfer := rfl
@[simp] theorem State.setRegF_unitMap (s : State) (o lo len x : Nat) : (s.setRegF o lo len x).unitMap = s.unitMap := rfl
@[simp] theorem State.setRegF_physMap (s : State) (o lo len x : Nat) : (s.setRegF o lo len x).physMap = s.physMap := rfl
@[simp] theorem State.setRegF_faultLog (s : State) (o lo len x : Nat) : (s.setRegF o lo len x).faultLog = s.faultLog :=
    rfl
@[simp] theorem State.setRegF_lastingRes (s : State) (o lo len x : Nat) : (s.setRegF o lo len x).lastingRes = s.lastingRes :=
    rfl
@[simp] theorem State.setRegF_parked (s : State) (o lo len x : Nat) : (s.setRegF o lo len x).parked = s.parked := rfl
@[simp] theorem State.setRegF_test (s : State) (o lo len x : Nat) : (s.setRegF o lo len x).test = s.test := rfl
@[simp] theorem State.setRegF_seamNow (s : State) (o lo len x : Nat) : (s.setRegF o lo len x).seamNow = s.seamNow := rfl
@[simp] theorem State.setRegF_fuseKeyHash (s : State) (o lo len x : Nat) : (s.setRegF o lo len x).fuseKeyHash = s.fuseKeyHash :=
    rfl
@[simp] theorem State.setRegF_fuseSerial (s : State) (o lo len x : Nat) : (s.setRegF o lo len x).fuseSerial = s.fuseSerial :=
    rfl
@[simp] theorem State.setRegF_fuseRevoke (s : State) (o lo len x : Nat) : (s.setRegF o lo len x).fuseRevoke = s.fuseRevoke :=
    rfl
@[simp] theorem State.setRegF_fuseSvn (s : State) (o lo len x : Nat) : (s.setRegF o lo len x).fuseSvn = s.fuseSvn := rfl
@[simp] theorem State.setRegF_fuseLifecycle (s : State) (o lo len x : Nat) : (s.setRegF o lo len x).fuseLifecycle = s.fuseLifecycle :=
    rfl
@[simp] theorem State.setRegF_flash (s : State) (o lo len x : Nat) : (s.setRegF o lo len x).flash = s.flash := rfl
@[simp] theorem State.setRegF_staging (s : State) (o lo len x : Nat) : (s.setRegF o lo len x).staging = s.staging := rfl
@[simp] theorem State.setRegF_recordLen (s : State) (o lo len x : Nat) : (s.setRegF o lo len x).recordLen = s.recordLen :=
    rfl
@[simp] theorem State.setRegF_imageLen (s : State) (o lo len x : Nat) : (s.setRegF o lo len x).imageLen = s.imageLen :=
    rfl
@[simp] theorem State.setRegF_fwRuns (s : State) (o lo len x : Nat) : (s.setRegF o lo len x).fwRuns = s.fwRuns := rfl
@[simp] theorem State.setRegF_dbgRefusals (s : State) (o lo len x : Nat) : (s.setRegF o lo len x).dbgRefusals = s.dbgRefusals :=
    rfl
@[simp] theorem State.setRegF_sessions (s : State) (o lo len x : Nat) : (s.setRegF o lo len x).sessions = s.sessions :=
    rfl
@[simp] theorem State.setRegF_nextSession (s : State) (o lo len x : Nat) : (s.setRegF o lo len x).nextSession = s.nextSession :=
    rfl
@[simp] theorem State.setRegF_spdmOut (s : State) (o lo len x : Nat) : (s.setRegF o lo len x).spdmOut = s.spdmOut := rfl
@[simp] theorem State.setRegF_ide (s : State) (o lo len x : Nat) : (s.setRegF o lo len x).ide = s.ide := rfl
@[simp] theorem State.setRegF_ideOut (s : State) (o lo len x : Nat) : (s.setRegF o lo len x).ideOut = s.ideOut := rfl
@[simp] theorem State.setRegF_ideBad (s : State) (o lo len x : Nat) : (s.setRegF o lo len x).ideBad = s.ideBad := rfl
@[simp] theorem State.setRegF_hubUp (s : State) (o lo len x : Nat) : (s.setRegF o lo len x).hubUp = s.hubUp := rfl
@[simp] theorem State.setRegF_refBad (s : State) (o lo len x : Nat) : (s.setRegF o lo len x).refBad = s.refBad := rfl
@[simp] theorem State.setRegF_powerHold (s : State) (o lo len x : Nat) : (s.setRegF o lo len x).powerHold = s.powerHold :=
    rfl
@[simp] theorem State.setRegF_upWaits (s : State) (o lo len x : Nat) : (s.setRegF o lo len x).upWaits = s.upWaits := rfl
@[simp] theorem State.setRegF_bistDue (s : State) (o lo len x : Nat) : (s.setRegF o lo len x).bistDue = s.bistDue := rfl
@[simp] theorem State.setRegF_memEpoch (s : State) (o lo len x : Nat) : (s.setRegF o lo len x).memEpoch = s.memEpoch :=
    rfl
@[simp] theorem State.setRegF_failedMarks (s : State) (o lo len x : Nat) : (s.setRegF o lo len x).failedMarks = s.failedMarks :=
    rfl
@[simp] theorem State.setRegF_swLevel (s : State) (o lo len x : Nat) : (s.setRegF o lo len x).swLevel = s.swLevel := rfl
@[simp] theorem State.setRegF_i3cStrap (s : State) (o lo len x : Nat) : (s.setRegF o lo len x).i3cStrap = s.i3cStrap :=
    rfl
@[simp] theorem State.setRegF_i3cDyn (s : State) (o lo len x : Nat) : (s.setRegF o lo len x).i3cDyn = s.i3cDyn := rfl
@[simp] theorem State.setRegF_i3cOff (s : State) (o lo len x : Nat) : (s.setRegF o lo len x).i3cOff = s.i3cOff := rfl
@[simp] theorem State.setRegF_ibiOut (s : State) (o lo len x : Nat) : (s.setRegF o lo len x).ibiOut = s.ibiOut := rfl
@[simp] theorem State.setRegF_jtag (s : State) (o lo len x : Nat) : (s.setRegF o lo len x).jtag = s.jtag := rfl
@[simp] theorem State.setRegF_pending (s : State) (o lo len x : Nat) : (s.setRegF o lo len x).pending = s.pending := rfl

/-! ## Setting a bit of a register changes `regs` alone -/

@[simp] theorem State.setRegB_grade (s : State) (o i : Nat) (b : Bool) : (s.setRegB o i b).grade = s.grade := rfl
@[simp] theorem State.setRegB_held (s : State) (o i : Nat) (b : Bool) : (s.setRegB o i b).held = s.held := rfl
@[simp] theorem State.setRegB_latched (s : State) (o i : Nat) (b : Bool) : (s.setRegB o i b).latched = s.latched := rfl
@[simp] theorem State.setRegB_mem (s : State) (o i : Nat) (b : Bool) : (s.setRegB o i b).mem = s.mem := rfl
@[simp] theorem State.setRegB_poison (s : State) (o i : Nat) (b : Bool) : (s.setRegB o i b).poison = s.poison := rfl
@[simp] theorem State.setRegB_busOut (s : State) (o i : Nat) (b : Bool) : (s.setRegB o i b).busOut = s.busOut := rfl
@[simp] theorem State.setRegB_busPoison (s : State) (o i : Nat) (b : Bool) : (s.setRegB o i b).busPoison = s.busPoison :=
    rfl
@[simp] theorem State.setRegB_msixOut (s : State) (o i : Nat) (b : Bool) : (s.setRegB o i b).msixOut = s.msixOut := rfl
@[simp] theorem State.setRegB_freeCtr (s : State) (o i : Nat) (b : Bool) : (s.setRegB o i b).freeCtr = s.freeCtr := rfl
@[simp] theorem State.setRegB_sync (s : State) (o i : Nat) (b : Bool) : (s.setRegB o i b).sync = s.sync := rfl
@[simp] theorem State.setRegB_acts (s : State) (o i : Nat) (b : Bool) : (s.setRegB o i b).acts = s.acts := rfl
@[simp] theorem State.setRegB_nextAct (s : State) (o i : Nat) (b : Bool) : (s.setRegB o i b).nextAct = s.nextAct := rfl
@[simp] theorem State.setRegB_owed (s : State) (o i : Nat) (b : Bool) : (s.setRegB o i b).owed = s.owed := rfl
@[simp] theorem State.setRegB_sq (s : State) (o i : Nat) (b : Bool) : (s.setRegB o i b).sq = s.sq := rfl
@[simp] theorem State.setRegB_cq (s : State) (o i : Nat) (b : Bool) : (s.setRegB o i b).cq = s.cq := rfl
@[simp] theorem State.setRegB_time (s : State) (o i : Nat) (b : Bool) : (s.setRegB o i b).time = s.time := rfl
@[simp] theorem State.setRegB_tileQ (s : State) (o i : Nat) (b : Bool) : (s.setRegB o i b).tileQ = s.tileQ := rfl
@[simp] theorem State.setRegB_tileRun (s : State) (o i : Nat) (b : Bool) : (s.setRegB o i b).tileRun = s.tileRun := rfl
@[simp] theorem State.setRegB_tileHeld (s : State) (o i : Nat) (b : Bool) : (s.setRegB o i b).tileHeld = s.tileHeld :=
    rfl
@[simp] theorem State.setRegB_progs (s : State) (o i : Nat) (b : Bool) : (s.setRegB o i b).progs = s.progs := rfl
@[simp] theorem State.setRegB_monHi (s : State) (o i : Nat) (b : Bool) : (s.setRegB o i b).monHi = s.monHi := rfl
@[simp] theorem State.setRegB_monNow (s : State) (o i : Nat) (b : Bool) : (s.setRegB o i b).monNow = s.monNow := rfl
@[simp] theorem State.setRegB_coreQ (s : State) (o i : Nat) (b : Bool) : (s.setRegB o i b).coreQ = s.coreQ := rfl
@[simp] theorem State.setRegB_engQ (s : State) (o i : Nat) (b : Bool) : (s.setRegB o i b).engQ = s.engQ := rfl
@[simp] theorem State.setRegB_shares (s : State) (o i : Nat) (b : Bool) : (s.setRegB o i b).shares = s.shares := rfl
@[simp] theorem State.setRegB_batches (s : State) (o i : Nat) (b : Bool) : (s.setRegB o i b).batches = s.batches := rfl
@[simp] theorem State.setRegB_nextBatch (s : State) (o i : Nat) (b : Bool) : (s.setRegB o i b).nextBatch = s.nextBatch :=
    rfl
@[simp] theorem State.setRegB_genWords (s : State) (o i : Nat) (b : Bool) : (s.setRegB o i b).genWords = s.genWords :=
    rfl
@[simp] theorem State.setRegB_chkCache (s : State) (o i : Nat) (b : Bool) : (s.setRegB o i b).chkCache = s.chkCache :=
    rfl
@[simp] theorem State.setRegB_pageTrack (s : State) (o i : Nat) (b : Bool) : (s.setRegB o i b).pageTrack = s.pageTrack :=
    rfl
@[simp] theorem State.setRegB_pinTrack (s : State) (o i : Nat) (b : Bool) : (s.setRegB o i b).pinTrack = s.pinTrack :=
    rfl
@[simp] theorem State.setRegB_erasedPin (s : State) (o i : Nat) (b : Bool) : (s.setRegB o i b).erasedPin = s.erasedPin :=
    rfl
@[simp] theorem State.setRegB_retireDue (s : State) (o i : Nat) (b : Bool) : (s.setRegB o i b).retireDue = s.retireDue :=
    rfl
@[simp] theorem State.setRegB_retiring (s : State) (o i : Nat) (b : Bool) : (s.setRegB o i b).retiring = s.retiring :=
    rfl
@[simp] theorem State.setRegB_memHeld (s : State) (o i : Nat) (b : Bool) : (s.setRegB o i b).memHeld = s.memHeld := rfl
@[simp] theorem State.setRegB_scrubPos (s : State) (o i : Nat) (b : Bool) : (s.setRegB o i b).scrubPos = s.scrubPos :=
    rfl
@[simp] theorem State.setRegB_refRate (s : State) (o i : Nat) (b : Bool) : (s.setRegB o i b).refRate = s.refRate := rfl
@[simp] theorem State.setRegB_refreshed (s : State) (o i : Nat) (b : Bool) : (s.setRegB o i b).refreshed = s.refreshed :=
    rfl
@[simp] theorem State.setRegB_hostLines (s : State) (o i : Nat) (b : Bool) : (s.setRegB o i b).hostLines = s.hostLines :=
    rfl
@[simp] theorem State.setRegB_bisnps (s : State) (o i : Nat) (b : Bool) : (s.setRegB o i b).bisnps = s.bisnps := rfl
@[simp] theorem State.setRegB_bisnpOut (s : State) (o i : Nat) (b : Bool) : (s.setRegB o i b).bisnpOut = s.bisnpOut :=
    rfl
@[simp] theorem State.setRegB_hostErrs (s : State) (o i : Nat) (b : Bool) : (s.setRegB o i b).hostErrs = s.hostErrs :=
    rfl
@[simp] theorem State.setRegB_dataOut (s : State) (o i : Nat) (b : Bool) : (s.setRegB o i b).dataOut = s.dataOut := rfl
@[simp] theorem State.setRegB_dataPoison (s : State) (o i : Nat) (b : Bool) : (s.setRegB o i b).dataPoison = s.dataPoison :=
    rfl
@[simp] theorem State.setRegB_dropKey (s : State) (o i : Nat) (b : Bool) : (s.setRegB o i b).dropKey = s.dropKey := rfl
@[simp] theorem State.setRegB_out (s : State) (o i : Nat) (b : Bool) : (s.setRegB o i b).out = s.out := rfl
@[simp] theorem State.setRegB_outst (s : State) (o i : Nat) (b : Bool) : (s.setRegB o i b).outst = s.outst := rfl
@[simp] theorem State.setRegB_flows (s : State) (o i : Nat) (b : Bool) : (s.setRegB o i b).flows = s.flows := rfl
@[simp] theorem State.setRegB_reqs (s : State) (o i : Nat) (b : Bool) : (s.setRegB o i b).reqs = s.reqs := rfl
@[simp] theorem State.setRegB_reqQ (s : State) (o i : Nat) (b : Bool) : (s.setRegB o i b).reqQ = s.reqQ := rfl
@[simp] theorem State.setRegB_wroteTo (s : State) (o i : Nat) (b : Bool) : (s.setRegB o i b).wroteTo = s.wroteTo := rfl
@[simp] theorem State.setRegB_accesses (s : State) (o i : Nat) (b : Bool) : (s.setRegB o i b).accesses = s.accesses :=
    rfl
@[simp] theorem State.setRegB_nextTag (s : State) (o i : Nat) (b : Bool) : (s.setRegB o i b).nextTag = s.nextTag := rfl
@[simp] theorem State.setRegB_rxFlows (s : State) (o i : Nat) (b : Bool) : (s.setRegB o i b).rxFlows = s.rxFlows := rfl
@[simp] theorem State.setRegB_replies (s : State) (o i : Nat) (b : Bool) : (s.setRegB o i b).replies = s.replies := rfl
@[simp] theorem State.setRegB_chunksRx (s : State) (o i : Nat) (b : Bool) : (s.setRegB o i b).chunksRx = s.chunksRx :=
    rfl
@[simp] theorem State.setRegB_chunksTx (s : State) (o i : Nat) (b : Bool) : (s.setRegB o i b).chunksTx = s.chunksTx :=
    rfl
@[simp] theorem State.setRegB_chunkQ (s : State) (o i : Nat) (b : Bool) : (s.setRegB o i b).chunkQ = s.chunkQ := rfl
@[simp] theorem State.setRegB_replHeld (s : State) (o i : Nat) (b : Bool) : (s.setRegB o i b).replHeld = s.replHeld :=
    rfl
@[simp] theorem State.setRegB_laneEv (s : State) (o i : Nat) (b : Bool) : (s.setRegB o i b).laneEv = s.laneEv := rfl
@[simp] theorem State.setRegB_laneLast (s : State) (o i : Nat) (b : Bool) : (s.setRegB o i b).laneLast = s.laneLast :=
    rfl
@[simp] theorem State.setRegB_rotate (s : State) (o i : Nat) (b : Bool) : (s.setRegB o i b).rotate = s.rotate := rfl
@[simp] theorem State.setRegB_linkTx (s : State) (o i : Nat) (b : Bool) : (s.setRegB o i b).linkTx = s.linkTx := rfl
@[simp] theorem State.setRegB_linkRx (s : State) (o i : Nat) (b : Bool) : (s.setRegB o i b).linkRx = s.linkRx := rfl
@[simp] theorem State.setRegB_linkBuf (s : State) (o i : Nat) (b : Bool) : (s.setRegB o i b).linkBuf = s.linkBuf := rfl
@[simp] theorem State.setRegB_linkFail (s : State) (o i : Nat) (b : Bool) : (s.setRegB o i b).linkFail = s.linkFail :=
    rfl
@[simp] theorem State.setRegB_unfreed (s : State) (o i : Nat) (b : Bool) : (s.setRegB o i b).unfreed = s.unfreed := rfl
@[simp] theorem State.setRegB_arb (s : State) (o i : Nat) (b : Bool) : (s.setRegB o i b).arb = s.arb := rfl
@[simp] theorem State.setRegB_portQ (s : State) (o i : Nat) (b : Bool) : (s.setRegB o i b).portQ = s.portQ := rfl
@[simp] theorem State.setRegB_drainQ (s : State) (o i : Nat) (b : Bool) : (s.setRegB o i b).drainQ = s.drainQ := rfl
@[simp] theorem State.setRegB_freed (s : State) (o i : Nat) (b : Bool) : (s.setRegB o i b).freed = s.freed := rfl
@[simp] theorem State.setRegB_colQ (s : State) (o i : Nat) (b : Bool) : (s.setRegB o i b).colQ = s.colQ := rfl
@[simp] theorem State.setRegB_colRun (s : State) (o i : Nat) (b : Bool) : (s.setRegB o i b).colRun = s.colRun := rfl
@[simp] theorem State.setRegB_colLists (s : State) (o i : Nat) (b : Bool) : (s.setRegB o i b).colLists = s.colLists :=
    rfl
@[simp] theorem State.setRegB_colClear (s : State) (o i : Nat) (b : Bool) : (s.setRegB o i b).colClear = s.colClear :=
    rfl
@[simp] theorem State.setRegB_colRx (s : State) (o i : Nat) (b : Bool) : (s.setRegB o i b).colRx = s.colRx := rfl
@[simp] theorem State.setRegB_colTx (s : State) (o i : Nat) (b : Bool) : (s.setRegB o i b).colTx = s.colTx := rfl
@[simp] theorem State.setRegB_colCredits (s : State) (o i : Nat) (b : Bool) : (s.setRegB o i b).colCredits = s.colCredits :=
    rfl
@[simp] theorem State.setRegB_hellos (s : State) (o i : Nat) (b : Bool) : (s.setRegB o i b).hellos = s.hellos := rfl
@[simp] theorem State.setRegB_aborts (s : State) (o i : Nat) (b : Bool) : (s.setRegB o i b).aborts = s.aborts := rfl
@[simp] theorem State.setRegB_substGone (s : State) (o i : Nat) (b : Bool) : (s.setRegB o i b).substGone = s.substGone :=
    rfl
@[simp] theorem State.setRegB_takes (s : State) (o i : Nat) (b : Bool) : (s.setRegB o i b).takes = s.takes := rfl
@[simp] theorem State.setRegB_substAsks (s : State) (o i : Nat) (b : Bool) : (s.setRegB o i b).substAsks = s.substAsks :=
    rfl
@[simp] theorem State.setRegB_relays (s : State) (o i : Nat) (b : Bool) : (s.setRegB o i b).relays = s.relays := rfl
@[simp] theorem State.setRegB_dmas (s : State) (o i : Nat) (b : Bool) : (s.setRegB o i b).dmas = s.dmas := rfl
@[simp] theorem State.setRegB_nextDma (s : State) (o i : Nat) (b : Bool) : (s.setRegB o i b).nextDma = s.nextDma := rfl
@[simp] theorem State.setRegB_mboxRet (s : State) (o i : Nat) (b : Bool) : (s.setRegB o i b).mboxRet = s.mboxRet := rfl
@[simp] theorem State.setRegB_mboxOut (s : State) (o i : Nat) (b : Bool) : (s.setRegB o i b).mboxOut = s.mboxOut := rfl
@[simp] theorem State.setRegB_mboxEvents (s : State) (o i : Nat) (b : Bool) : (s.setRegB o i b).mboxEvents = s.mboxEvents :=
    rfl
@[simp] theorem State.setRegB_mboxTime (s : State) (o i : Nat) (b : Bool) : (s.setRegB o i b).mboxTime = s.mboxTime :=
    rfl
@[simp] theorem State.setRegB_linkUp (s : State) (o i : Nat) (b : Bool) : (s.setRegB o i b).linkUp = s.linkUp := rfl
@[simp] theorem State.setRegB_linkWidth (s : State) (o i : Nat) (b : Bool) : (s.setRegB o i b).linkWidth = s.linkWidth :=
    rfl
@[simp] theorem State.setRegB_linkRate (s : State) (o i : Nat) (b : Bool) : (s.setRegB o i b).linkRate = s.linkRate :=
    rfl
@[simp] theorem State.setRegB_linkCxl (s : State) (o i : Nat) (b : Bool) : (s.setRegB o i b).linkCxl = s.linkCxl := rfl
@[simp] theorem State.setRegB_ckpQ (s : State) (o i : Nat) (b : Bool) : (s.setRegB o i b).ckpQ = s.ckpQ := rfl
@[simp] theorem State.setRegB_ckpRun (s : State) (o i : Nat) (b : Bool) : (s.setRegB o i b).ckpRun = s.ckpRun := rfl
@[simp] theorem State.setRegB_pktTx (s : State) (o i : Nat) (b : Bool) : (s.setRegB o i b).pktTx = s.pktTx := rfl
@[simp] theorem State.setRegB_pktRx (s : State) (o i : Nat) (b : Bool) : (s.setRegB o i b).pktRx = s.pktRx := rfl
@[simp] theorem State.setRegB_summaries (s : State) (o i : Nat) (b : Bool) : (s.setRegB o i b).summaries = s.summaries :=
    rfl
@[simp] theorem State.setRegB_announced (s : State) (o i : Nat) (b : Bool) : (s.setRegB o i b).announced = s.announced :=
    rfl
@[simp] theorem State.setRegB_ckpAll (s : State) (o i : Nat) (b : Bool) : (s.setRegB o i b).ckpAll = s.ckpAll := rfl
@[simp] theorem State.setRegB_ckpNewest (s : State) (o i : Nat) (b : Bool) : (s.setRegB o i b).ckpNewest = s.ckpNewest :=
    rfl
@[simp] theorem State.setRegB_restore (s : State) (o i : Nat) (b : Bool) : (s.setRegB o i b).restore = s.restore := rfl
@[simp] theorem State.setRegB_xfer (s : State) (o i : Nat) (b : Bool) : (s.setRegB o i b).xfer = s.xfer := rfl
@[simp] theorem State.setRegB_unitMap (s : State) (o i : Nat) (b : Bool) : (s.setRegB o i b).unitMap = s.unitMap := rfl
@[simp] theorem State.setRegB_physMap (s : State) (o i : Nat) (b : Bool) : (s.setRegB o i b).physMap = s.physMap := rfl
@[simp] theorem State.setRegB_faultLog (s : State) (o i : Nat) (b : Bool) : (s.setRegB o i b).faultLog = s.faultLog :=
    rfl
@[simp] theorem State.setRegB_lastingRes (s : State) (o i : Nat) (b : Bool) : (s.setRegB o i b).lastingRes = s.lastingRes :=
    rfl
@[simp] theorem State.setRegB_parked (s : State) (o i : Nat) (b : Bool) : (s.setRegB o i b).parked = s.parked := rfl
@[simp] theorem State.setRegB_test (s : State) (o i : Nat) (b : Bool) : (s.setRegB o i b).test = s.test := rfl
@[simp] theorem State.setRegB_seamNow (s : State) (o i : Nat) (b : Bool) : (s.setRegB o i b).seamNow = s.seamNow := rfl
@[simp] theorem State.setRegB_fuseKeyHash (s : State) (o i : Nat) (b : Bool) : (s.setRegB o i b).fuseKeyHash = s.fuseKeyHash :=
    rfl
@[simp] theorem State.setRegB_fuseSerial (s : State) (o i : Nat) (b : Bool) : (s.setRegB o i b).fuseSerial = s.fuseSerial :=
    rfl
@[simp] theorem State.setRegB_fuseRevoke (s : State) (o i : Nat) (b : Bool) : (s.setRegB o i b).fuseRevoke = s.fuseRevoke :=
    rfl
@[simp] theorem State.setRegB_fuseSvn (s : State) (o i : Nat) (b : Bool) : (s.setRegB o i b).fuseSvn = s.fuseSvn := rfl
@[simp] theorem State.setRegB_fuseLifecycle (s : State) (o i : Nat) (b : Bool) : (s.setRegB o i b).fuseLifecycle = s.fuseLifecycle :=
    rfl
@[simp] theorem State.setRegB_flash (s : State) (o i : Nat) (b : Bool) : (s.setRegB o i b).flash = s.flash := rfl
@[simp] theorem State.setRegB_staging (s : State) (o i : Nat) (b : Bool) : (s.setRegB o i b).staging = s.staging := rfl
@[simp] theorem State.setRegB_recordLen (s : State) (o i : Nat) (b : Bool) : (s.setRegB o i b).recordLen = s.recordLen :=
    rfl
@[simp] theorem State.setRegB_imageLen (s : State) (o i : Nat) (b : Bool) : (s.setRegB o i b).imageLen = s.imageLen :=
    rfl
@[simp] theorem State.setRegB_fwRuns (s : State) (o i : Nat) (b : Bool) : (s.setRegB o i b).fwRuns = s.fwRuns := rfl
@[simp] theorem State.setRegB_dbgRefusals (s : State) (o i : Nat) (b : Bool) : (s.setRegB o i b).dbgRefusals = s.dbgRefusals :=
    rfl
@[simp] theorem State.setRegB_sessions (s : State) (o i : Nat) (b : Bool) : (s.setRegB o i b).sessions = s.sessions :=
    rfl
@[simp] theorem State.setRegB_nextSession (s : State) (o i : Nat) (b : Bool) : (s.setRegB o i b).nextSession = s.nextSession :=
    rfl
@[simp] theorem State.setRegB_spdmOut (s : State) (o i : Nat) (b : Bool) : (s.setRegB o i b).spdmOut = s.spdmOut := rfl
@[simp] theorem State.setRegB_ide (s : State) (o i : Nat) (b : Bool) : (s.setRegB o i b).ide = s.ide := rfl
@[simp] theorem State.setRegB_ideOut (s : State) (o i : Nat) (b : Bool) : (s.setRegB o i b).ideOut = s.ideOut := rfl
@[simp] theorem State.setRegB_ideBad (s : State) (o i : Nat) (b : Bool) : (s.setRegB o i b).ideBad = s.ideBad := rfl
@[simp] theorem State.setRegB_hubUp (s : State) (o i : Nat) (b : Bool) : (s.setRegB o i b).hubUp = s.hubUp := rfl
@[simp] theorem State.setRegB_refBad (s : State) (o i : Nat) (b : Bool) : (s.setRegB o i b).refBad = s.refBad := rfl
@[simp] theorem State.setRegB_powerHold (s : State) (o i : Nat) (b : Bool) : (s.setRegB o i b).powerHold = s.powerHold :=
    rfl
@[simp] theorem State.setRegB_upWaits (s : State) (o i : Nat) (b : Bool) : (s.setRegB o i b).upWaits = s.upWaits := rfl
@[simp] theorem State.setRegB_bistDue (s : State) (o i : Nat) (b : Bool) : (s.setRegB o i b).bistDue = s.bistDue := rfl
@[simp] theorem State.setRegB_memEpoch (s : State) (o i : Nat) (b : Bool) : (s.setRegB o i b).memEpoch = s.memEpoch :=
    rfl
@[simp] theorem State.setRegB_failedMarks (s : State) (o i : Nat) (b : Bool) : (s.setRegB o i b).failedMarks = s.failedMarks :=
    rfl
@[simp] theorem State.setRegB_swLevel (s : State) (o i : Nat) (b : Bool) : (s.setRegB o i b).swLevel = s.swLevel := rfl
@[simp] theorem State.setRegB_i3cStrap (s : State) (o i : Nat) (b : Bool) : (s.setRegB o i b).i3cStrap = s.i3cStrap :=
    rfl
@[simp] theorem State.setRegB_i3cDyn (s : State) (o i : Nat) (b : Bool) : (s.setRegB o i b).i3cDyn = s.i3cDyn := rfl
@[simp] theorem State.setRegB_i3cOff (s : State) (o i : Nat) (b : Bool) : (s.setRegB o i b).i3cOff = s.i3cOff := rfl
@[simp] theorem State.setRegB_ibiOut (s : State) (o i : Nat) (b : Bool) : (s.setRegB o i b).ibiOut = s.ibiOut := rfl
@[simp] theorem State.setRegB_jtag (s : State) (o i : Nat) (b : Bool) : (s.setRegB o i b).jtag = s.jtag := rfl
@[simp] theorem State.setRegB_pending (s : State) (o i : Nat) (b : Bool) : (s.setRegB o i b).pending = s.pending := rfl

/-! ## Counting in a 64-bit counter changes `regs` alone -/

@[simp] theorem State.count64_grade (s : State) (o k : Nat) : (s.count64 o k).grade = s.grade := rfl
@[simp] theorem State.count64_held (s : State) (o k : Nat) : (s.count64 o k).held = s.held := rfl
@[simp] theorem State.count64_latched (s : State) (o k : Nat) : (s.count64 o k).latched = s.latched := rfl
@[simp] theorem State.count64_mem (s : State) (o k : Nat) : (s.count64 o k).mem = s.mem := rfl
@[simp] theorem State.count64_poison (s : State) (o k : Nat) : (s.count64 o k).poison = s.poison := rfl
@[simp] theorem State.count64_busOut (s : State) (o k : Nat) : (s.count64 o k).busOut = s.busOut := rfl
@[simp] theorem State.count64_busPoison (s : State) (o k : Nat) : (s.count64 o k).busPoison = s.busPoison := rfl
@[simp] theorem State.count64_msixOut (s : State) (o k : Nat) : (s.count64 o k).msixOut = s.msixOut := rfl
@[simp] theorem State.count64_freeCtr (s : State) (o k : Nat) : (s.count64 o k).freeCtr = s.freeCtr := rfl
@[simp] theorem State.count64_sync (s : State) (o k : Nat) : (s.count64 o k).sync = s.sync := rfl
@[simp] theorem State.count64_acts (s : State) (o k : Nat) : (s.count64 o k).acts = s.acts := rfl
@[simp] theorem State.count64_nextAct (s : State) (o k : Nat) : (s.count64 o k).nextAct = s.nextAct := rfl
@[simp] theorem State.count64_owed (s : State) (o k : Nat) : (s.count64 o k).owed = s.owed := rfl
@[simp] theorem State.count64_sq (s : State) (o k : Nat) : (s.count64 o k).sq = s.sq := rfl
@[simp] theorem State.count64_cq (s : State) (o k : Nat) : (s.count64 o k).cq = s.cq := rfl
@[simp] theorem State.count64_time (s : State) (o k : Nat) : (s.count64 o k).time = s.time := rfl
@[simp] theorem State.count64_tileQ (s : State) (o k : Nat) : (s.count64 o k).tileQ = s.tileQ := rfl
@[simp] theorem State.count64_tileRun (s : State) (o k : Nat) : (s.count64 o k).tileRun = s.tileRun := rfl
@[simp] theorem State.count64_tileHeld (s : State) (o k : Nat) : (s.count64 o k).tileHeld = s.tileHeld := rfl
@[simp] theorem State.count64_progs (s : State) (o k : Nat) : (s.count64 o k).progs = s.progs := rfl
@[simp] theorem State.count64_monHi (s : State) (o k : Nat) : (s.count64 o k).monHi = s.monHi := rfl
@[simp] theorem State.count64_monNow (s : State) (o k : Nat) : (s.count64 o k).monNow = s.monNow := rfl
@[simp] theorem State.count64_coreQ (s : State) (o k : Nat) : (s.count64 o k).coreQ = s.coreQ := rfl
@[simp] theorem State.count64_engQ (s : State) (o k : Nat) : (s.count64 o k).engQ = s.engQ := rfl
@[simp] theorem State.count64_shares (s : State) (o k : Nat) : (s.count64 o k).shares = s.shares := rfl
@[simp] theorem State.count64_batches (s : State) (o k : Nat) : (s.count64 o k).batches = s.batches := rfl
@[simp] theorem State.count64_nextBatch (s : State) (o k : Nat) : (s.count64 o k).nextBatch = s.nextBatch := rfl
@[simp] theorem State.count64_genWords (s : State) (o k : Nat) : (s.count64 o k).genWords = s.genWords := rfl
@[simp] theorem State.count64_chkCache (s : State) (o k : Nat) : (s.count64 o k).chkCache = s.chkCache := rfl
@[simp] theorem State.count64_pageTrack (s : State) (o k : Nat) : (s.count64 o k).pageTrack = s.pageTrack := rfl
@[simp] theorem State.count64_pinTrack (s : State) (o k : Nat) : (s.count64 o k).pinTrack = s.pinTrack := rfl
@[simp] theorem State.count64_erasedPin (s : State) (o k : Nat) : (s.count64 o k).erasedPin = s.erasedPin := rfl
@[simp] theorem State.count64_retireDue (s : State) (o k : Nat) : (s.count64 o k).retireDue = s.retireDue := rfl
@[simp] theorem State.count64_retiring (s : State) (o k : Nat) : (s.count64 o k).retiring = s.retiring := rfl
@[simp] theorem State.count64_memHeld (s : State) (o k : Nat) : (s.count64 o k).memHeld = s.memHeld := rfl
@[simp] theorem State.count64_scrubPos (s : State) (o k : Nat) : (s.count64 o k).scrubPos = s.scrubPos := rfl
@[simp] theorem State.count64_refRate (s : State) (o k : Nat) : (s.count64 o k).refRate = s.refRate := rfl
@[simp] theorem State.count64_refreshed (s : State) (o k : Nat) : (s.count64 o k).refreshed = s.refreshed := rfl
@[simp] theorem State.count64_hostLines (s : State) (o k : Nat) : (s.count64 o k).hostLines = s.hostLines := rfl
@[simp] theorem State.count64_bisnps (s : State) (o k : Nat) : (s.count64 o k).bisnps = s.bisnps := rfl
@[simp] theorem State.count64_bisnpOut (s : State) (o k : Nat) : (s.count64 o k).bisnpOut = s.bisnpOut := rfl
@[simp] theorem State.count64_hostErrs (s : State) (o k : Nat) : (s.count64 o k).hostErrs = s.hostErrs := rfl
@[simp] theorem State.count64_dataOut (s : State) (o k : Nat) : (s.count64 o k).dataOut = s.dataOut := rfl
@[simp] theorem State.count64_dataPoison (s : State) (o k : Nat) : (s.count64 o k).dataPoison = s.dataPoison := rfl
@[simp] theorem State.count64_dropKey (s : State) (o k : Nat) : (s.count64 o k).dropKey = s.dropKey := rfl
@[simp] theorem State.count64_out (s : State) (o k : Nat) : (s.count64 o k).out = s.out := rfl
@[simp] theorem State.count64_outst (s : State) (o k : Nat) : (s.count64 o k).outst = s.outst := rfl
@[simp] theorem State.count64_flows (s : State) (o k : Nat) : (s.count64 o k).flows = s.flows := rfl
@[simp] theorem State.count64_reqs (s : State) (o k : Nat) : (s.count64 o k).reqs = s.reqs := rfl
@[simp] theorem State.count64_reqQ (s : State) (o k : Nat) : (s.count64 o k).reqQ = s.reqQ := rfl
@[simp] theorem State.count64_wroteTo (s : State) (o k : Nat) : (s.count64 o k).wroteTo = s.wroteTo := rfl
@[simp] theorem State.count64_accesses (s : State) (o k : Nat) : (s.count64 o k).accesses = s.accesses := rfl
@[simp] theorem State.count64_nextTag (s : State) (o k : Nat) : (s.count64 o k).nextTag = s.nextTag := rfl
@[simp] theorem State.count64_rxFlows (s : State) (o k : Nat) : (s.count64 o k).rxFlows = s.rxFlows := rfl
@[simp] theorem State.count64_replies (s : State) (o k : Nat) : (s.count64 o k).replies = s.replies := rfl
@[simp] theorem State.count64_chunksRx (s : State) (o k : Nat) : (s.count64 o k).chunksRx = s.chunksRx := rfl
@[simp] theorem State.count64_chunksTx (s : State) (o k : Nat) : (s.count64 o k).chunksTx = s.chunksTx := rfl
@[simp] theorem State.count64_chunkQ (s : State) (o k : Nat) : (s.count64 o k).chunkQ = s.chunkQ := rfl
@[simp] theorem State.count64_replHeld (s : State) (o k : Nat) : (s.count64 o k).replHeld = s.replHeld := rfl
@[simp] theorem State.count64_laneEv (s : State) (o k : Nat) : (s.count64 o k).laneEv = s.laneEv := rfl
@[simp] theorem State.count64_laneLast (s : State) (o k : Nat) : (s.count64 o k).laneLast = s.laneLast := rfl
@[simp] theorem State.count64_rotate (s : State) (o k : Nat) : (s.count64 o k).rotate = s.rotate := rfl
@[simp] theorem State.count64_linkTx (s : State) (o k : Nat) : (s.count64 o k).linkTx = s.linkTx := rfl
@[simp] theorem State.count64_linkRx (s : State) (o k : Nat) : (s.count64 o k).linkRx = s.linkRx := rfl
@[simp] theorem State.count64_linkBuf (s : State) (o k : Nat) : (s.count64 o k).linkBuf = s.linkBuf := rfl
@[simp] theorem State.count64_linkFail (s : State) (o k : Nat) : (s.count64 o k).linkFail = s.linkFail := rfl
@[simp] theorem State.count64_unfreed (s : State) (o k : Nat) : (s.count64 o k).unfreed = s.unfreed := rfl
@[simp] theorem State.count64_arb (s : State) (o k : Nat) : (s.count64 o k).arb = s.arb := rfl
@[simp] theorem State.count64_portQ (s : State) (o k : Nat) : (s.count64 o k).portQ = s.portQ := rfl
@[simp] theorem State.count64_drainQ (s : State) (o k : Nat) : (s.count64 o k).drainQ = s.drainQ := rfl
@[simp] theorem State.count64_freed (s : State) (o k : Nat) : (s.count64 o k).freed = s.freed := rfl
@[simp] theorem State.count64_colQ (s : State) (o k : Nat) : (s.count64 o k).colQ = s.colQ := rfl
@[simp] theorem State.count64_colRun (s : State) (o k : Nat) : (s.count64 o k).colRun = s.colRun := rfl
@[simp] theorem State.count64_colLists (s : State) (o k : Nat) : (s.count64 o k).colLists = s.colLists := rfl
@[simp] theorem State.count64_colClear (s : State) (o k : Nat) : (s.count64 o k).colClear = s.colClear := rfl
@[simp] theorem State.count64_colRx (s : State) (o k : Nat) : (s.count64 o k).colRx = s.colRx := rfl
@[simp] theorem State.count64_colTx (s : State) (o k : Nat) : (s.count64 o k).colTx = s.colTx := rfl
@[simp] theorem State.count64_colCredits (s : State) (o k : Nat) : (s.count64 o k).colCredits = s.colCredits := rfl
@[simp] theorem State.count64_hellos (s : State) (o k : Nat) : (s.count64 o k).hellos = s.hellos := rfl
@[simp] theorem State.count64_aborts (s : State) (o k : Nat) : (s.count64 o k).aborts = s.aborts := rfl
@[simp] theorem State.count64_substGone (s : State) (o k : Nat) : (s.count64 o k).substGone = s.substGone := rfl
@[simp] theorem State.count64_takes (s : State) (o k : Nat) : (s.count64 o k).takes = s.takes := rfl
@[simp] theorem State.count64_substAsks (s : State) (o k : Nat) : (s.count64 o k).substAsks = s.substAsks := rfl
@[simp] theorem State.count64_relays (s : State) (o k : Nat) : (s.count64 o k).relays = s.relays := rfl
@[simp] theorem State.count64_dmas (s : State) (o k : Nat) : (s.count64 o k).dmas = s.dmas := rfl
@[simp] theorem State.count64_nextDma (s : State) (o k : Nat) : (s.count64 o k).nextDma = s.nextDma := rfl
@[simp] theorem State.count64_mboxRet (s : State) (o k : Nat) : (s.count64 o k).mboxRet = s.mboxRet := rfl
@[simp] theorem State.count64_mboxOut (s : State) (o k : Nat) : (s.count64 o k).mboxOut = s.mboxOut := rfl
@[simp] theorem State.count64_mboxEvents (s : State) (o k : Nat) : (s.count64 o k).mboxEvents = s.mboxEvents := rfl
@[simp] theorem State.count64_mboxTime (s : State) (o k : Nat) : (s.count64 o k).mboxTime = s.mboxTime := rfl
@[simp] theorem State.count64_linkUp (s : State) (o k : Nat) : (s.count64 o k).linkUp = s.linkUp := rfl
@[simp] theorem State.count64_linkWidth (s : State) (o k : Nat) : (s.count64 o k).linkWidth = s.linkWidth := rfl
@[simp] theorem State.count64_linkRate (s : State) (o k : Nat) : (s.count64 o k).linkRate = s.linkRate := rfl
@[simp] theorem State.count64_linkCxl (s : State) (o k : Nat) : (s.count64 o k).linkCxl = s.linkCxl := rfl
@[simp] theorem State.count64_ckpQ (s : State) (o k : Nat) : (s.count64 o k).ckpQ = s.ckpQ := rfl
@[simp] theorem State.count64_ckpRun (s : State) (o k : Nat) : (s.count64 o k).ckpRun = s.ckpRun := rfl
@[simp] theorem State.count64_pktTx (s : State) (o k : Nat) : (s.count64 o k).pktTx = s.pktTx := rfl
@[simp] theorem State.count64_pktRx (s : State) (o k : Nat) : (s.count64 o k).pktRx = s.pktRx := rfl
@[simp] theorem State.count64_summaries (s : State) (o k : Nat) : (s.count64 o k).summaries = s.summaries := rfl
@[simp] theorem State.count64_announced (s : State) (o k : Nat) : (s.count64 o k).announced = s.announced := rfl
@[simp] theorem State.count64_ckpAll (s : State) (o k : Nat) : (s.count64 o k).ckpAll = s.ckpAll := rfl
@[simp] theorem State.count64_ckpNewest (s : State) (o k : Nat) : (s.count64 o k).ckpNewest = s.ckpNewest := rfl
@[simp] theorem State.count64_restore (s : State) (o k : Nat) : (s.count64 o k).restore = s.restore := rfl
@[simp] theorem State.count64_xfer (s : State) (o k : Nat) : (s.count64 o k).xfer = s.xfer := rfl
@[simp] theorem State.count64_unitMap (s : State) (o k : Nat) : (s.count64 o k).unitMap = s.unitMap := rfl
@[simp] theorem State.count64_physMap (s : State) (o k : Nat) : (s.count64 o k).physMap = s.physMap := rfl
@[simp] theorem State.count64_faultLog (s : State) (o k : Nat) : (s.count64 o k).faultLog = s.faultLog := rfl
@[simp] theorem State.count64_lastingRes (s : State) (o k : Nat) : (s.count64 o k).lastingRes = s.lastingRes := rfl
@[simp] theorem State.count64_parked (s : State) (o k : Nat) : (s.count64 o k).parked = s.parked := rfl
@[simp] theorem State.count64_test (s : State) (o k : Nat) : (s.count64 o k).test = s.test := rfl
@[simp] theorem State.count64_seamNow (s : State) (o k : Nat) : (s.count64 o k).seamNow = s.seamNow := rfl
@[simp] theorem State.count64_fuseKeyHash (s : State) (o k : Nat) : (s.count64 o k).fuseKeyHash = s.fuseKeyHash := rfl
@[simp] theorem State.count64_fuseSerial (s : State) (o k : Nat) : (s.count64 o k).fuseSerial = s.fuseSerial := rfl
@[simp] theorem State.count64_fuseRevoke (s : State) (o k : Nat) : (s.count64 o k).fuseRevoke = s.fuseRevoke := rfl
@[simp] theorem State.count64_fuseSvn (s : State) (o k : Nat) : (s.count64 o k).fuseSvn = s.fuseSvn := rfl
@[simp] theorem State.count64_fuseLifecycle (s : State) (o k : Nat) : (s.count64 o k).fuseLifecycle = s.fuseLifecycle :=
    rfl
@[simp] theorem State.count64_flash (s : State) (o k : Nat) : (s.count64 o k).flash = s.flash := rfl
@[simp] theorem State.count64_staging (s : State) (o k : Nat) : (s.count64 o k).staging = s.staging := rfl
@[simp] theorem State.count64_recordLen (s : State) (o k : Nat) : (s.count64 o k).recordLen = s.recordLen := rfl
@[simp] theorem State.count64_imageLen (s : State) (o k : Nat) : (s.count64 o k).imageLen = s.imageLen := rfl
@[simp] theorem State.count64_fwRuns (s : State) (o k : Nat) : (s.count64 o k).fwRuns = s.fwRuns := rfl
@[simp] theorem State.count64_dbgRefusals (s : State) (o k : Nat) : (s.count64 o k).dbgRefusals = s.dbgRefusals := rfl
@[simp] theorem State.count64_sessions (s : State) (o k : Nat) : (s.count64 o k).sessions = s.sessions := rfl
@[simp] theorem State.count64_nextSession (s : State) (o k : Nat) : (s.count64 o k).nextSession = s.nextSession := rfl
@[simp] theorem State.count64_spdmOut (s : State) (o k : Nat) : (s.count64 o k).spdmOut = s.spdmOut := rfl
@[simp] theorem State.count64_ide (s : State) (o k : Nat) : (s.count64 o k).ide = s.ide := rfl
@[simp] theorem State.count64_ideOut (s : State) (o k : Nat) : (s.count64 o k).ideOut = s.ideOut := rfl
@[simp] theorem State.count64_ideBad (s : State) (o k : Nat) : (s.count64 o k).ideBad = s.ideBad := rfl
@[simp] theorem State.count64_hubUp (s : State) (o k : Nat) : (s.count64 o k).hubUp = s.hubUp := rfl
@[simp] theorem State.count64_refBad (s : State) (o k : Nat) : (s.count64 o k).refBad = s.refBad := rfl
@[simp] theorem State.count64_powerHold (s : State) (o k : Nat) : (s.count64 o k).powerHold = s.powerHold := rfl
@[simp] theorem State.count64_upWaits (s : State) (o k : Nat) : (s.count64 o k).upWaits = s.upWaits := rfl
@[simp] theorem State.count64_bistDue (s : State) (o k : Nat) : (s.count64 o k).bistDue = s.bistDue := rfl
@[simp] theorem State.count64_memEpoch (s : State) (o k : Nat) : (s.count64 o k).memEpoch = s.memEpoch := rfl
@[simp] theorem State.count64_failedMarks (s : State) (o k : Nat) : (s.count64 o k).failedMarks = s.failedMarks := rfl
@[simp] theorem State.count64_swLevel (s : State) (o k : Nat) : (s.count64 o k).swLevel = s.swLevel := rfl
@[simp] theorem State.count64_i3cStrap (s : State) (o k : Nat) : (s.count64 o k).i3cStrap = s.i3cStrap := rfl
@[simp] theorem State.count64_i3cDyn (s : State) (o k : Nat) : (s.count64 o k).i3cDyn = s.i3cDyn := rfl
@[simp] theorem State.count64_i3cOff (s : State) (o k : Nat) : (s.count64 o k).i3cOff = s.i3cOff := rfl
@[simp] theorem State.count64_ibiOut (s : State) (o k : Nat) : (s.count64 o k).ibiOut = s.ibiOut := rfl
@[simp] theorem State.count64_jtag (s : State) (o k : Nat) : (s.count64 o k).jtag = s.jtag := rfl
@[simp] theorem State.count64_pending (s : State) (o k : Nat) : (s.count64 o k).pending = s.pending := rfl

/-! ## Counting in a 32-bit counter changes `regs` alone -/

@[simp] theorem State.count32_grade (s : State) (o k : Nat) : (s.count32 o k).grade = s.grade := rfl
@[simp] theorem State.count32_held (s : State) (o k : Nat) : (s.count32 o k).held = s.held := rfl
@[simp] theorem State.count32_latched (s : State) (o k : Nat) : (s.count32 o k).latched = s.latched := rfl
@[simp] theorem State.count32_mem (s : State) (o k : Nat) : (s.count32 o k).mem = s.mem := rfl
@[simp] theorem State.count32_poison (s : State) (o k : Nat) : (s.count32 o k).poison = s.poison := rfl
@[simp] theorem State.count32_busOut (s : State) (o k : Nat) : (s.count32 o k).busOut = s.busOut := rfl
@[simp] theorem State.count32_busPoison (s : State) (o k : Nat) : (s.count32 o k).busPoison = s.busPoison := rfl
@[simp] theorem State.count32_msixOut (s : State) (o k : Nat) : (s.count32 o k).msixOut = s.msixOut := rfl
@[simp] theorem State.count32_freeCtr (s : State) (o k : Nat) : (s.count32 o k).freeCtr = s.freeCtr := rfl
@[simp] theorem State.count32_sync (s : State) (o k : Nat) : (s.count32 o k).sync = s.sync := rfl
@[simp] theorem State.count32_acts (s : State) (o k : Nat) : (s.count32 o k).acts = s.acts := rfl
@[simp] theorem State.count32_nextAct (s : State) (o k : Nat) : (s.count32 o k).nextAct = s.nextAct := rfl
@[simp] theorem State.count32_owed (s : State) (o k : Nat) : (s.count32 o k).owed = s.owed := rfl
@[simp] theorem State.count32_sq (s : State) (o k : Nat) : (s.count32 o k).sq = s.sq := rfl
@[simp] theorem State.count32_cq (s : State) (o k : Nat) : (s.count32 o k).cq = s.cq := rfl
@[simp] theorem State.count32_time (s : State) (o k : Nat) : (s.count32 o k).time = s.time := rfl
@[simp] theorem State.count32_tileQ (s : State) (o k : Nat) : (s.count32 o k).tileQ = s.tileQ := rfl
@[simp] theorem State.count32_tileRun (s : State) (o k : Nat) : (s.count32 o k).tileRun = s.tileRun := rfl
@[simp] theorem State.count32_tileHeld (s : State) (o k : Nat) : (s.count32 o k).tileHeld = s.tileHeld := rfl
@[simp] theorem State.count32_progs (s : State) (o k : Nat) : (s.count32 o k).progs = s.progs := rfl
@[simp] theorem State.count32_monHi (s : State) (o k : Nat) : (s.count32 o k).monHi = s.monHi := rfl
@[simp] theorem State.count32_monNow (s : State) (o k : Nat) : (s.count32 o k).monNow = s.monNow := rfl
@[simp] theorem State.count32_coreQ (s : State) (o k : Nat) : (s.count32 o k).coreQ = s.coreQ := rfl
@[simp] theorem State.count32_engQ (s : State) (o k : Nat) : (s.count32 o k).engQ = s.engQ := rfl
@[simp] theorem State.count32_shares (s : State) (o k : Nat) : (s.count32 o k).shares = s.shares := rfl
@[simp] theorem State.count32_batches (s : State) (o k : Nat) : (s.count32 o k).batches = s.batches := rfl
@[simp] theorem State.count32_nextBatch (s : State) (o k : Nat) : (s.count32 o k).nextBatch = s.nextBatch := rfl
@[simp] theorem State.count32_genWords (s : State) (o k : Nat) : (s.count32 o k).genWords = s.genWords := rfl
@[simp] theorem State.count32_chkCache (s : State) (o k : Nat) : (s.count32 o k).chkCache = s.chkCache := rfl
@[simp] theorem State.count32_pageTrack (s : State) (o k : Nat) : (s.count32 o k).pageTrack = s.pageTrack := rfl
@[simp] theorem State.count32_pinTrack (s : State) (o k : Nat) : (s.count32 o k).pinTrack = s.pinTrack := rfl
@[simp] theorem State.count32_erasedPin (s : State) (o k : Nat) : (s.count32 o k).erasedPin = s.erasedPin := rfl
@[simp] theorem State.count32_retireDue (s : State) (o k : Nat) : (s.count32 o k).retireDue = s.retireDue := rfl
@[simp] theorem State.count32_retiring (s : State) (o k : Nat) : (s.count32 o k).retiring = s.retiring := rfl
@[simp] theorem State.count32_memHeld (s : State) (o k : Nat) : (s.count32 o k).memHeld = s.memHeld := rfl
@[simp] theorem State.count32_scrubPos (s : State) (o k : Nat) : (s.count32 o k).scrubPos = s.scrubPos := rfl
@[simp] theorem State.count32_refRate (s : State) (o k : Nat) : (s.count32 o k).refRate = s.refRate := rfl
@[simp] theorem State.count32_refreshed (s : State) (o k : Nat) : (s.count32 o k).refreshed = s.refreshed := rfl
@[simp] theorem State.count32_hostLines (s : State) (o k : Nat) : (s.count32 o k).hostLines = s.hostLines := rfl
@[simp] theorem State.count32_bisnps (s : State) (o k : Nat) : (s.count32 o k).bisnps = s.bisnps := rfl
@[simp] theorem State.count32_bisnpOut (s : State) (o k : Nat) : (s.count32 o k).bisnpOut = s.bisnpOut := rfl
@[simp] theorem State.count32_hostErrs (s : State) (o k : Nat) : (s.count32 o k).hostErrs = s.hostErrs := rfl
@[simp] theorem State.count32_dataOut (s : State) (o k : Nat) : (s.count32 o k).dataOut = s.dataOut := rfl
@[simp] theorem State.count32_dataPoison (s : State) (o k : Nat) : (s.count32 o k).dataPoison = s.dataPoison := rfl
@[simp] theorem State.count32_dropKey (s : State) (o k : Nat) : (s.count32 o k).dropKey = s.dropKey := rfl
@[simp] theorem State.count32_out (s : State) (o k : Nat) : (s.count32 o k).out = s.out := rfl
@[simp] theorem State.count32_outst (s : State) (o k : Nat) : (s.count32 o k).outst = s.outst := rfl
@[simp] theorem State.count32_flows (s : State) (o k : Nat) : (s.count32 o k).flows = s.flows := rfl
@[simp] theorem State.count32_reqs (s : State) (o k : Nat) : (s.count32 o k).reqs = s.reqs := rfl
@[simp] theorem State.count32_reqQ (s : State) (o k : Nat) : (s.count32 o k).reqQ = s.reqQ := rfl
@[simp] theorem State.count32_wroteTo (s : State) (o k : Nat) : (s.count32 o k).wroteTo = s.wroteTo := rfl
@[simp] theorem State.count32_accesses (s : State) (o k : Nat) : (s.count32 o k).accesses = s.accesses := rfl
@[simp] theorem State.count32_nextTag (s : State) (o k : Nat) : (s.count32 o k).nextTag = s.nextTag := rfl
@[simp] theorem State.count32_rxFlows (s : State) (o k : Nat) : (s.count32 o k).rxFlows = s.rxFlows := rfl
@[simp] theorem State.count32_replies (s : State) (o k : Nat) : (s.count32 o k).replies = s.replies := rfl
@[simp] theorem State.count32_chunksRx (s : State) (o k : Nat) : (s.count32 o k).chunksRx = s.chunksRx := rfl
@[simp] theorem State.count32_chunksTx (s : State) (o k : Nat) : (s.count32 o k).chunksTx = s.chunksTx := rfl
@[simp] theorem State.count32_chunkQ (s : State) (o k : Nat) : (s.count32 o k).chunkQ = s.chunkQ := rfl
@[simp] theorem State.count32_replHeld (s : State) (o k : Nat) : (s.count32 o k).replHeld = s.replHeld := rfl
@[simp] theorem State.count32_laneEv (s : State) (o k : Nat) : (s.count32 o k).laneEv = s.laneEv := rfl
@[simp] theorem State.count32_laneLast (s : State) (o k : Nat) : (s.count32 o k).laneLast = s.laneLast := rfl
@[simp] theorem State.count32_rotate (s : State) (o k : Nat) : (s.count32 o k).rotate = s.rotate := rfl
@[simp] theorem State.count32_linkTx (s : State) (o k : Nat) : (s.count32 o k).linkTx = s.linkTx := rfl
@[simp] theorem State.count32_linkRx (s : State) (o k : Nat) : (s.count32 o k).linkRx = s.linkRx := rfl
@[simp] theorem State.count32_linkBuf (s : State) (o k : Nat) : (s.count32 o k).linkBuf = s.linkBuf := rfl
@[simp] theorem State.count32_linkFail (s : State) (o k : Nat) : (s.count32 o k).linkFail = s.linkFail := rfl
@[simp] theorem State.count32_unfreed (s : State) (o k : Nat) : (s.count32 o k).unfreed = s.unfreed := rfl
@[simp] theorem State.count32_arb (s : State) (o k : Nat) : (s.count32 o k).arb = s.arb := rfl
@[simp] theorem State.count32_portQ (s : State) (o k : Nat) : (s.count32 o k).portQ = s.portQ := rfl
@[simp] theorem State.count32_drainQ (s : State) (o k : Nat) : (s.count32 o k).drainQ = s.drainQ := rfl
@[simp] theorem State.count32_freed (s : State) (o k : Nat) : (s.count32 o k).freed = s.freed := rfl
@[simp] theorem State.count32_colQ (s : State) (o k : Nat) : (s.count32 o k).colQ = s.colQ := rfl
@[simp] theorem State.count32_colRun (s : State) (o k : Nat) : (s.count32 o k).colRun = s.colRun := rfl
@[simp] theorem State.count32_colLists (s : State) (o k : Nat) : (s.count32 o k).colLists = s.colLists := rfl
@[simp] theorem State.count32_colClear (s : State) (o k : Nat) : (s.count32 o k).colClear = s.colClear := rfl
@[simp] theorem State.count32_colRx (s : State) (o k : Nat) : (s.count32 o k).colRx = s.colRx := rfl
@[simp] theorem State.count32_colTx (s : State) (o k : Nat) : (s.count32 o k).colTx = s.colTx := rfl
@[simp] theorem State.count32_colCredits (s : State) (o k : Nat) : (s.count32 o k).colCredits = s.colCredits := rfl
@[simp] theorem State.count32_hellos (s : State) (o k : Nat) : (s.count32 o k).hellos = s.hellos := rfl
@[simp] theorem State.count32_aborts (s : State) (o k : Nat) : (s.count32 o k).aborts = s.aborts := rfl
@[simp] theorem State.count32_substGone (s : State) (o k : Nat) : (s.count32 o k).substGone = s.substGone := rfl
@[simp] theorem State.count32_takes (s : State) (o k : Nat) : (s.count32 o k).takes = s.takes := rfl
@[simp] theorem State.count32_substAsks (s : State) (o k : Nat) : (s.count32 o k).substAsks = s.substAsks := rfl
@[simp] theorem State.count32_relays (s : State) (o k : Nat) : (s.count32 o k).relays = s.relays := rfl
@[simp] theorem State.count32_dmas (s : State) (o k : Nat) : (s.count32 o k).dmas = s.dmas := rfl
@[simp] theorem State.count32_nextDma (s : State) (o k : Nat) : (s.count32 o k).nextDma = s.nextDma := rfl
@[simp] theorem State.count32_mboxRet (s : State) (o k : Nat) : (s.count32 o k).mboxRet = s.mboxRet := rfl
@[simp] theorem State.count32_mboxOut (s : State) (o k : Nat) : (s.count32 o k).mboxOut = s.mboxOut := rfl
@[simp] theorem State.count32_mboxEvents (s : State) (o k : Nat) : (s.count32 o k).mboxEvents = s.mboxEvents := rfl
@[simp] theorem State.count32_mboxTime (s : State) (o k : Nat) : (s.count32 o k).mboxTime = s.mboxTime := rfl
@[simp] theorem State.count32_linkUp (s : State) (o k : Nat) : (s.count32 o k).linkUp = s.linkUp := rfl
@[simp] theorem State.count32_linkWidth (s : State) (o k : Nat) : (s.count32 o k).linkWidth = s.linkWidth := rfl
@[simp] theorem State.count32_linkRate (s : State) (o k : Nat) : (s.count32 o k).linkRate = s.linkRate := rfl
@[simp] theorem State.count32_linkCxl (s : State) (o k : Nat) : (s.count32 o k).linkCxl = s.linkCxl := rfl
@[simp] theorem State.count32_ckpQ (s : State) (o k : Nat) : (s.count32 o k).ckpQ = s.ckpQ := rfl
@[simp] theorem State.count32_ckpRun (s : State) (o k : Nat) : (s.count32 o k).ckpRun = s.ckpRun := rfl
@[simp] theorem State.count32_pktTx (s : State) (o k : Nat) : (s.count32 o k).pktTx = s.pktTx := rfl
@[simp] theorem State.count32_pktRx (s : State) (o k : Nat) : (s.count32 o k).pktRx = s.pktRx := rfl
@[simp] theorem State.count32_summaries (s : State) (o k : Nat) : (s.count32 o k).summaries = s.summaries := rfl
@[simp] theorem State.count32_announced (s : State) (o k : Nat) : (s.count32 o k).announced = s.announced := rfl
@[simp] theorem State.count32_ckpAll (s : State) (o k : Nat) : (s.count32 o k).ckpAll = s.ckpAll := rfl
@[simp] theorem State.count32_ckpNewest (s : State) (o k : Nat) : (s.count32 o k).ckpNewest = s.ckpNewest := rfl
@[simp] theorem State.count32_restore (s : State) (o k : Nat) : (s.count32 o k).restore = s.restore := rfl
@[simp] theorem State.count32_xfer (s : State) (o k : Nat) : (s.count32 o k).xfer = s.xfer := rfl
@[simp] theorem State.count32_unitMap (s : State) (o k : Nat) : (s.count32 o k).unitMap = s.unitMap := rfl
@[simp] theorem State.count32_physMap (s : State) (o k : Nat) : (s.count32 o k).physMap = s.physMap := rfl
@[simp] theorem State.count32_faultLog (s : State) (o k : Nat) : (s.count32 o k).faultLog = s.faultLog := rfl
@[simp] theorem State.count32_lastingRes (s : State) (o k : Nat) : (s.count32 o k).lastingRes = s.lastingRes := rfl
@[simp] theorem State.count32_parked (s : State) (o k : Nat) : (s.count32 o k).parked = s.parked := rfl
@[simp] theorem State.count32_test (s : State) (o k : Nat) : (s.count32 o k).test = s.test := rfl
@[simp] theorem State.count32_seamNow (s : State) (o k : Nat) : (s.count32 o k).seamNow = s.seamNow := rfl
@[simp] theorem State.count32_fuseKeyHash (s : State) (o k : Nat) : (s.count32 o k).fuseKeyHash = s.fuseKeyHash := rfl
@[simp] theorem State.count32_fuseSerial (s : State) (o k : Nat) : (s.count32 o k).fuseSerial = s.fuseSerial := rfl
@[simp] theorem State.count32_fuseRevoke (s : State) (o k : Nat) : (s.count32 o k).fuseRevoke = s.fuseRevoke := rfl
@[simp] theorem State.count32_fuseSvn (s : State) (o k : Nat) : (s.count32 o k).fuseSvn = s.fuseSvn := rfl
@[simp] theorem State.count32_fuseLifecycle (s : State) (o k : Nat) : (s.count32 o k).fuseLifecycle = s.fuseLifecycle :=
    rfl
@[simp] theorem State.count32_flash (s : State) (o k : Nat) : (s.count32 o k).flash = s.flash := rfl
@[simp] theorem State.count32_staging (s : State) (o k : Nat) : (s.count32 o k).staging = s.staging := rfl
@[simp] theorem State.count32_recordLen (s : State) (o k : Nat) : (s.count32 o k).recordLen = s.recordLen := rfl
@[simp] theorem State.count32_imageLen (s : State) (o k : Nat) : (s.count32 o k).imageLen = s.imageLen := rfl
@[simp] theorem State.count32_fwRuns (s : State) (o k : Nat) : (s.count32 o k).fwRuns = s.fwRuns := rfl
@[simp] theorem State.count32_dbgRefusals (s : State) (o k : Nat) : (s.count32 o k).dbgRefusals = s.dbgRefusals := rfl
@[simp] theorem State.count32_sessions (s : State) (o k : Nat) : (s.count32 o k).sessions = s.sessions := rfl
@[simp] theorem State.count32_nextSession (s : State) (o k : Nat) : (s.count32 o k).nextSession = s.nextSession := rfl
@[simp] theorem State.count32_spdmOut (s : State) (o k : Nat) : (s.count32 o k).spdmOut = s.spdmOut := rfl
@[simp] theorem State.count32_ide (s : State) (o k : Nat) : (s.count32 o k).ide = s.ide := rfl
@[simp] theorem State.count32_ideOut (s : State) (o k : Nat) : (s.count32 o k).ideOut = s.ideOut := rfl
@[simp] theorem State.count32_ideBad (s : State) (o k : Nat) : (s.count32 o k).ideBad = s.ideBad := rfl
@[simp] theorem State.count32_hubUp (s : State) (o k : Nat) : (s.count32 o k).hubUp = s.hubUp := rfl
@[simp] theorem State.count32_refBad (s : State) (o k : Nat) : (s.count32 o k).refBad = s.refBad := rfl
@[simp] theorem State.count32_powerHold (s : State) (o k : Nat) : (s.count32 o k).powerHold = s.powerHold := rfl
@[simp] theorem State.count32_upWaits (s : State) (o k : Nat) : (s.count32 o k).upWaits = s.upWaits := rfl
@[simp] theorem State.count32_bistDue (s : State) (o k : Nat) : (s.count32 o k).bistDue = s.bistDue := rfl
@[simp] theorem State.count32_memEpoch (s : State) (o k : Nat) : (s.count32 o k).memEpoch = s.memEpoch := rfl
@[simp] theorem State.count32_failedMarks (s : State) (o k : Nat) : (s.count32 o k).failedMarks = s.failedMarks := rfl
@[simp] theorem State.count32_swLevel (s : State) (o k : Nat) : (s.count32 o k).swLevel = s.swLevel := rfl
@[simp] theorem State.count32_i3cStrap (s : State) (o k : Nat) : (s.count32 o k).i3cStrap = s.i3cStrap := rfl
@[simp] theorem State.count32_i3cDyn (s : State) (o k : Nat) : (s.count32 o k).i3cDyn = s.i3cDyn := rfl
@[simp] theorem State.count32_i3cOff (s : State) (o k : Nat) : (s.count32 o k).i3cOff = s.i3cOff := rfl
@[simp] theorem State.count32_ibiOut (s : State) (o k : Nat) : (s.count32 o k).ibiOut = s.ibiOut := rfl
@[simp] theorem State.count32_jtag (s : State) (o k : Nat) : (s.count32 o k).jtag = s.jtag := rfl
@[simp] theorem State.count32_pending (s : State) (o k : Nat) : (s.count32 o k).pending = s.pending := rfl

/-! ## Supplying a free value changes `freeCtr` alone -/

@[simp] theorem State.takeFree_grade (s : State) : (s.takeFree).grade = s.grade := rfl
@[simp] theorem State.takeFree_regs (s : State) : (s.takeFree).regs = s.regs := rfl
@[simp] theorem State.takeFree_held (s : State) : (s.takeFree).held = s.held := rfl
@[simp] theorem State.takeFree_latched (s : State) : (s.takeFree).latched = s.latched := rfl
@[simp] theorem State.takeFree_mem (s : State) : (s.takeFree).mem = s.mem := rfl
@[simp] theorem State.takeFree_poison (s : State) : (s.takeFree).poison = s.poison := rfl
@[simp] theorem State.takeFree_busOut (s : State) : (s.takeFree).busOut = s.busOut := rfl
@[simp] theorem State.takeFree_busPoison (s : State) : (s.takeFree).busPoison = s.busPoison := rfl
@[simp] theorem State.takeFree_msixOut (s : State) : (s.takeFree).msixOut = s.msixOut := rfl
@[simp] theorem State.takeFree_sync (s : State) : (s.takeFree).sync = s.sync := rfl
@[simp] theorem State.takeFree_acts (s : State) : (s.takeFree).acts = s.acts := rfl
@[simp] theorem State.takeFree_nextAct (s : State) : (s.takeFree).nextAct = s.nextAct := rfl
@[simp] theorem State.takeFree_owed (s : State) : (s.takeFree).owed = s.owed := rfl
@[simp] theorem State.takeFree_sq (s : State) : (s.takeFree).sq = s.sq := rfl
@[simp] theorem State.takeFree_cq (s : State) : (s.takeFree).cq = s.cq := rfl
@[simp] theorem State.takeFree_time (s : State) : (s.takeFree).time = s.time := rfl
@[simp] theorem State.takeFree_tileQ (s : State) : (s.takeFree).tileQ = s.tileQ := rfl
@[simp] theorem State.takeFree_tileRun (s : State) : (s.takeFree).tileRun = s.tileRun := rfl
@[simp] theorem State.takeFree_tileHeld (s : State) : (s.takeFree).tileHeld = s.tileHeld := rfl
@[simp] theorem State.takeFree_progs (s : State) : (s.takeFree).progs = s.progs := rfl
@[simp] theorem State.takeFree_monHi (s : State) : (s.takeFree).monHi = s.monHi := rfl
@[simp] theorem State.takeFree_monNow (s : State) : (s.takeFree).monNow = s.monNow := rfl
@[simp] theorem State.takeFree_coreQ (s : State) : (s.takeFree).coreQ = s.coreQ := rfl
@[simp] theorem State.takeFree_engQ (s : State) : (s.takeFree).engQ = s.engQ := rfl
@[simp] theorem State.takeFree_shares (s : State) : (s.takeFree).shares = s.shares := rfl
@[simp] theorem State.takeFree_batches (s : State) : (s.takeFree).batches = s.batches := rfl
@[simp] theorem State.takeFree_nextBatch (s : State) : (s.takeFree).nextBatch = s.nextBatch := rfl
@[simp] theorem State.takeFree_genWords (s : State) : (s.takeFree).genWords = s.genWords := rfl
@[simp] theorem State.takeFree_chkCache (s : State) : (s.takeFree).chkCache = s.chkCache := rfl
@[simp] theorem State.takeFree_pageTrack (s : State) : (s.takeFree).pageTrack = s.pageTrack := rfl
@[simp] theorem State.takeFree_pinTrack (s : State) : (s.takeFree).pinTrack = s.pinTrack := rfl
@[simp] theorem State.takeFree_erasedPin (s : State) : (s.takeFree).erasedPin = s.erasedPin := rfl
@[simp] theorem State.takeFree_retireDue (s : State) : (s.takeFree).retireDue = s.retireDue := rfl
@[simp] theorem State.takeFree_retiring (s : State) : (s.takeFree).retiring = s.retiring := rfl
@[simp] theorem State.takeFree_memHeld (s : State) : (s.takeFree).memHeld = s.memHeld := rfl
@[simp] theorem State.takeFree_scrubPos (s : State) : (s.takeFree).scrubPos = s.scrubPos := rfl
@[simp] theorem State.takeFree_refRate (s : State) : (s.takeFree).refRate = s.refRate := rfl
@[simp] theorem State.takeFree_refreshed (s : State) : (s.takeFree).refreshed = s.refreshed := rfl
@[simp] theorem State.takeFree_hostLines (s : State) : (s.takeFree).hostLines = s.hostLines := rfl
@[simp] theorem State.takeFree_bisnps (s : State) : (s.takeFree).bisnps = s.bisnps := rfl
@[simp] theorem State.takeFree_bisnpOut (s : State) : (s.takeFree).bisnpOut = s.bisnpOut := rfl
@[simp] theorem State.takeFree_hostErrs (s : State) : (s.takeFree).hostErrs = s.hostErrs := rfl
@[simp] theorem State.takeFree_dataOut (s : State) : (s.takeFree).dataOut = s.dataOut := rfl
@[simp] theorem State.takeFree_dataPoison (s : State) : (s.takeFree).dataPoison = s.dataPoison := rfl
@[simp] theorem State.takeFree_dropKey (s : State) : (s.takeFree).dropKey = s.dropKey := rfl
@[simp] theorem State.takeFree_out (s : State) : (s.takeFree).out = s.out := rfl
@[simp] theorem State.takeFree_outst (s : State) : (s.takeFree).outst = s.outst := rfl
@[simp] theorem State.takeFree_flows (s : State) : (s.takeFree).flows = s.flows := rfl
@[simp] theorem State.takeFree_reqs (s : State) : (s.takeFree).reqs = s.reqs := rfl
@[simp] theorem State.takeFree_reqQ (s : State) : (s.takeFree).reqQ = s.reqQ := rfl
@[simp] theorem State.takeFree_wroteTo (s : State) : (s.takeFree).wroteTo = s.wroteTo := rfl
@[simp] theorem State.takeFree_accesses (s : State) : (s.takeFree).accesses = s.accesses := rfl
@[simp] theorem State.takeFree_nextTag (s : State) : (s.takeFree).nextTag = s.nextTag := rfl
@[simp] theorem State.takeFree_rxFlows (s : State) : (s.takeFree).rxFlows = s.rxFlows := rfl
@[simp] theorem State.takeFree_replies (s : State) : (s.takeFree).replies = s.replies := rfl
@[simp] theorem State.takeFree_chunksRx (s : State) : (s.takeFree).chunksRx = s.chunksRx := rfl
@[simp] theorem State.takeFree_chunksTx (s : State) : (s.takeFree).chunksTx = s.chunksTx := rfl
@[simp] theorem State.takeFree_chunkQ (s : State) : (s.takeFree).chunkQ = s.chunkQ := rfl
@[simp] theorem State.takeFree_replHeld (s : State) : (s.takeFree).replHeld = s.replHeld := rfl
@[simp] theorem State.takeFree_laneEv (s : State) : (s.takeFree).laneEv = s.laneEv := rfl
@[simp] theorem State.takeFree_laneLast (s : State) : (s.takeFree).laneLast = s.laneLast := rfl
@[simp] theorem State.takeFree_rotate (s : State) : (s.takeFree).rotate = s.rotate := rfl
@[simp] theorem State.takeFree_linkTx (s : State) : (s.takeFree).linkTx = s.linkTx := rfl
@[simp] theorem State.takeFree_linkRx (s : State) : (s.takeFree).linkRx = s.linkRx := rfl
@[simp] theorem State.takeFree_linkBuf (s : State) : (s.takeFree).linkBuf = s.linkBuf := rfl
@[simp] theorem State.takeFree_linkFail (s : State) : (s.takeFree).linkFail = s.linkFail := rfl
@[simp] theorem State.takeFree_unfreed (s : State) : (s.takeFree).unfreed = s.unfreed := rfl
@[simp] theorem State.takeFree_arb (s : State) : (s.takeFree).arb = s.arb := rfl
@[simp] theorem State.takeFree_portQ (s : State) : (s.takeFree).portQ = s.portQ := rfl
@[simp] theorem State.takeFree_drainQ (s : State) : (s.takeFree).drainQ = s.drainQ := rfl
@[simp] theorem State.takeFree_freed (s : State) : (s.takeFree).freed = s.freed := rfl
@[simp] theorem State.takeFree_colQ (s : State) : (s.takeFree).colQ = s.colQ := rfl
@[simp] theorem State.takeFree_colRun (s : State) : (s.takeFree).colRun = s.colRun := rfl
@[simp] theorem State.takeFree_colLists (s : State) : (s.takeFree).colLists = s.colLists := rfl
@[simp] theorem State.takeFree_colClear (s : State) : (s.takeFree).colClear = s.colClear := rfl
@[simp] theorem State.takeFree_colRx (s : State) : (s.takeFree).colRx = s.colRx := rfl
@[simp] theorem State.takeFree_colTx (s : State) : (s.takeFree).colTx = s.colTx := rfl
@[simp] theorem State.takeFree_colCredits (s : State) : (s.takeFree).colCredits = s.colCredits := rfl
@[simp] theorem State.takeFree_hellos (s : State) : (s.takeFree).hellos = s.hellos := rfl
@[simp] theorem State.takeFree_aborts (s : State) : (s.takeFree).aborts = s.aborts := rfl
@[simp] theorem State.takeFree_substGone (s : State) : (s.takeFree).substGone = s.substGone := rfl
@[simp] theorem State.takeFree_takes (s : State) : (s.takeFree).takes = s.takes := rfl
@[simp] theorem State.takeFree_substAsks (s : State) : (s.takeFree).substAsks = s.substAsks := rfl
@[simp] theorem State.takeFree_relays (s : State) : (s.takeFree).relays = s.relays := rfl
@[simp] theorem State.takeFree_dmas (s : State) : (s.takeFree).dmas = s.dmas := rfl
@[simp] theorem State.takeFree_nextDma (s : State) : (s.takeFree).nextDma = s.nextDma := rfl
@[simp] theorem State.takeFree_mboxRet (s : State) : (s.takeFree).mboxRet = s.mboxRet := rfl
@[simp] theorem State.takeFree_mboxOut (s : State) : (s.takeFree).mboxOut = s.mboxOut := rfl
@[simp] theorem State.takeFree_mboxEvents (s : State) : (s.takeFree).mboxEvents = s.mboxEvents := rfl
@[simp] theorem State.takeFree_mboxTime (s : State) : (s.takeFree).mboxTime = s.mboxTime := rfl
@[simp] theorem State.takeFree_linkUp (s : State) : (s.takeFree).linkUp = s.linkUp := rfl
@[simp] theorem State.takeFree_linkWidth (s : State) : (s.takeFree).linkWidth = s.linkWidth := rfl
@[simp] theorem State.takeFree_linkRate (s : State) : (s.takeFree).linkRate = s.linkRate := rfl
@[simp] theorem State.takeFree_linkCxl (s : State) : (s.takeFree).linkCxl = s.linkCxl := rfl
@[simp] theorem State.takeFree_ckpQ (s : State) : (s.takeFree).ckpQ = s.ckpQ := rfl
@[simp] theorem State.takeFree_ckpRun (s : State) : (s.takeFree).ckpRun = s.ckpRun := rfl
@[simp] theorem State.takeFree_pktTx (s : State) : (s.takeFree).pktTx = s.pktTx := rfl
@[simp] theorem State.takeFree_pktRx (s : State) : (s.takeFree).pktRx = s.pktRx := rfl
@[simp] theorem State.takeFree_summaries (s : State) : (s.takeFree).summaries = s.summaries := rfl
@[simp] theorem State.takeFree_announced (s : State) : (s.takeFree).announced = s.announced := rfl
@[simp] theorem State.takeFree_ckpAll (s : State) : (s.takeFree).ckpAll = s.ckpAll := rfl
@[simp] theorem State.takeFree_ckpNewest (s : State) : (s.takeFree).ckpNewest = s.ckpNewest := rfl
@[simp] theorem State.takeFree_restore (s : State) : (s.takeFree).restore = s.restore := rfl
@[simp] theorem State.takeFree_xfer (s : State) : (s.takeFree).xfer = s.xfer := rfl
@[simp] theorem State.takeFree_unitMap (s : State) : (s.takeFree).unitMap = s.unitMap := rfl
@[simp] theorem State.takeFree_physMap (s : State) : (s.takeFree).physMap = s.physMap := rfl
@[simp] theorem State.takeFree_faultLog (s : State) : (s.takeFree).faultLog = s.faultLog := rfl
@[simp] theorem State.takeFree_lastingRes (s : State) : (s.takeFree).lastingRes = s.lastingRes := rfl
@[simp] theorem State.takeFree_parked (s : State) : (s.takeFree).parked = s.parked := rfl
@[simp] theorem State.takeFree_test (s : State) : (s.takeFree).test = s.test := rfl
@[simp] theorem State.takeFree_seamNow (s : State) : (s.takeFree).seamNow = s.seamNow := rfl
@[simp] theorem State.takeFree_fuseKeyHash (s : State) : (s.takeFree).fuseKeyHash = s.fuseKeyHash := rfl
@[simp] theorem State.takeFree_fuseSerial (s : State) : (s.takeFree).fuseSerial = s.fuseSerial := rfl
@[simp] theorem State.takeFree_fuseRevoke (s : State) : (s.takeFree).fuseRevoke = s.fuseRevoke := rfl
@[simp] theorem State.takeFree_fuseSvn (s : State) : (s.takeFree).fuseSvn = s.fuseSvn := rfl
@[simp] theorem State.takeFree_fuseLifecycle (s : State) : (s.takeFree).fuseLifecycle = s.fuseLifecycle := rfl
@[simp] theorem State.takeFree_flash (s : State) : (s.takeFree).flash = s.flash := rfl
@[simp] theorem State.takeFree_staging (s : State) : (s.takeFree).staging = s.staging := rfl
@[simp] theorem State.takeFree_recordLen (s : State) : (s.takeFree).recordLen = s.recordLen := rfl
@[simp] theorem State.takeFree_imageLen (s : State) : (s.takeFree).imageLen = s.imageLen := rfl
@[simp] theorem State.takeFree_fwRuns (s : State) : (s.takeFree).fwRuns = s.fwRuns := rfl
@[simp] theorem State.takeFree_dbgRefusals (s : State) : (s.takeFree).dbgRefusals = s.dbgRefusals := rfl
@[simp] theorem State.takeFree_sessions (s : State) : (s.takeFree).sessions = s.sessions := rfl
@[simp] theorem State.takeFree_nextSession (s : State) : (s.takeFree).nextSession = s.nextSession := rfl
@[simp] theorem State.takeFree_spdmOut (s : State) : (s.takeFree).spdmOut = s.spdmOut := rfl
@[simp] theorem State.takeFree_ide (s : State) : (s.takeFree).ide = s.ide := rfl
@[simp] theorem State.takeFree_ideOut (s : State) : (s.takeFree).ideOut = s.ideOut := rfl
@[simp] theorem State.takeFree_ideBad (s : State) : (s.takeFree).ideBad = s.ideBad := rfl
@[simp] theorem State.takeFree_hubUp (s : State) : (s.takeFree).hubUp = s.hubUp := rfl
@[simp] theorem State.takeFree_refBad (s : State) : (s.takeFree).refBad = s.refBad := rfl
@[simp] theorem State.takeFree_powerHold (s : State) : (s.takeFree).powerHold = s.powerHold := rfl
@[simp] theorem State.takeFree_upWaits (s : State) : (s.takeFree).upWaits = s.upWaits := rfl
@[simp] theorem State.takeFree_bistDue (s : State) : (s.takeFree).bistDue = s.bistDue := rfl
@[simp] theorem State.takeFree_memEpoch (s : State) : (s.takeFree).memEpoch = s.memEpoch := rfl
@[simp] theorem State.takeFree_failedMarks (s : State) : (s.takeFree).failedMarks = s.failedMarks := rfl
@[simp] theorem State.takeFree_swLevel (s : State) : (s.takeFree).swLevel = s.swLevel := rfl
@[simp] theorem State.takeFree_i3cStrap (s : State) : (s.takeFree).i3cStrap = s.i3cStrap := rfl
@[simp] theorem State.takeFree_i3cDyn (s : State) : (s.takeFree).i3cDyn = s.i3cDyn := rfl
@[simp] theorem State.takeFree_i3cOff (s : State) : (s.takeFree).i3cOff = s.i3cOff := rfl
@[simp] theorem State.takeFree_ibiOut (s : State) : (s.takeFree).ibiOut = s.ibiOut := rfl
@[simp] theorem State.takeFree_jtag (s : State) : (s.takeFree).jtag = s.jtag := rfl
@[simp] theorem State.takeFree_pending (s : State) : (s.takeFree).pending = s.pending := rfl

/-! ## Storing a program changes `progs` alone -/

@[simp] theorem State.setProg_grade (s : State) (u : VUnit) (p : Option Prog) : (s.setProg u p).grade = s.grade := rfl
@[simp] theorem State.setProg_regs (s : State) (u : VUnit) (p : Option Prog) : (s.setProg u p).regs = s.regs := rfl
@[simp] theorem State.setProg_held (s : State) (u : VUnit) (p : Option Prog) : (s.setProg u p).held = s.held := rfl
@[simp] theorem State.setProg_latched (s : State) (u : VUnit) (p : Option Prog) : (s.setProg u p).latched = s.latched :=
    rfl
@[simp] theorem State.setProg_mem (s : State) (u : VUnit) (p : Option Prog) : (s.setProg u p).mem = s.mem := rfl
@[simp] theorem State.setProg_poison (s : State) (u : VUnit) (p : Option Prog) : (s.setProg u p).poison = s.poison :=
    rfl
@[simp] theorem State.setProg_busOut (s : State) (u : VUnit) (p : Option Prog) : (s.setProg u p).busOut = s.busOut :=
    rfl
@[simp] theorem State.setProg_busPoison (s : State) (u : VUnit) (p : Option Prog) : (s.setProg u p).busPoison = s.busPoison :=
    rfl
@[simp] theorem State.setProg_msixOut (s : State) (u : VUnit) (p : Option Prog) : (s.setProg u p).msixOut = s.msixOut :=
    rfl
@[simp] theorem State.setProg_freeCtr (s : State) (u : VUnit) (p : Option Prog) : (s.setProg u p).freeCtr = s.freeCtr :=
    rfl
@[simp] theorem State.setProg_sync (s : State) (u : VUnit) (p : Option Prog) : (s.setProg u p).sync = s.sync := rfl
@[simp] theorem State.setProg_acts (s : State) (u : VUnit) (p : Option Prog) : (s.setProg u p).acts = s.acts := rfl
@[simp] theorem State.setProg_nextAct (s : State) (u : VUnit) (p : Option Prog) : (s.setProg u p).nextAct = s.nextAct :=
    rfl
@[simp] theorem State.setProg_owed (s : State) (u : VUnit) (p : Option Prog) : (s.setProg u p).owed = s.owed := rfl
@[simp] theorem State.setProg_sq (s : State) (u : VUnit) (p : Option Prog) : (s.setProg u p).sq = s.sq := rfl
@[simp] theorem State.setProg_cq (s : State) (u : VUnit) (p : Option Prog) : (s.setProg u p).cq = s.cq := rfl
@[simp] theorem State.setProg_time (s : State) (u : VUnit) (p : Option Prog) : (s.setProg u p).time = s.time := rfl
@[simp] theorem State.setProg_tileQ (s : State) (u : VUnit) (p : Option Prog) : (s.setProg u p).tileQ = s.tileQ := rfl
@[simp] theorem State.setProg_tileRun (s : State) (u : VUnit) (p : Option Prog) : (s.setProg u p).tileRun = s.tileRun :=
    rfl
@[simp] theorem State.setProg_tileHeld (s : State) (u : VUnit) (p : Option Prog) : (s.setProg u p).tileHeld = s.tileHeld :=
    rfl
@[simp] theorem State.setProg_monHi (s : State) (u : VUnit) (p : Option Prog) : (s.setProg u p).monHi = s.monHi := rfl
@[simp] theorem State.setProg_monNow (s : State) (u : VUnit) (p : Option Prog) : (s.setProg u p).monNow = s.monNow :=
    rfl
@[simp] theorem State.setProg_coreQ (s : State) (u : VUnit) (p : Option Prog) : (s.setProg u p).coreQ = s.coreQ := rfl
@[simp] theorem State.setProg_engQ (s : State) (u : VUnit) (p : Option Prog) : (s.setProg u p).engQ = s.engQ := rfl
@[simp] theorem State.setProg_shares (s : State) (u : VUnit) (p : Option Prog) : (s.setProg u p).shares = s.shares :=
    rfl
@[simp] theorem State.setProg_batches (s : State) (u : VUnit) (p : Option Prog) : (s.setProg u p).batches = s.batches :=
    rfl
@[simp] theorem State.setProg_nextBatch (s : State) (u : VUnit) (p : Option Prog) : (s.setProg u p).nextBatch = s.nextBatch :=
    rfl
@[simp] theorem State.setProg_genWords (s : State) (u : VUnit) (p : Option Prog) : (s.setProg u p).genWords = s.genWords :=
    rfl
@[simp] theorem State.setProg_chkCache (s : State) (u : VUnit) (p : Option Prog) : (s.setProg u p).chkCache = s.chkCache :=
    rfl
@[simp] theorem State.setProg_pageTrack (s : State) (u : VUnit) (p : Option Prog) : (s.setProg u p).pageTrack = s.pageTrack :=
    rfl
@[simp] theorem State.setProg_pinTrack (s : State) (u : VUnit) (p : Option Prog) : (s.setProg u p).pinTrack = s.pinTrack :=
    rfl
@[simp] theorem State.setProg_erasedPin (s : State) (u : VUnit) (p : Option Prog) : (s.setProg u p).erasedPin = s.erasedPin :=
    rfl
@[simp] theorem State.setProg_retireDue (s : State) (u : VUnit) (p : Option Prog) : (s.setProg u p).retireDue = s.retireDue :=
    rfl
@[simp] theorem State.setProg_retiring (s : State) (u : VUnit) (p : Option Prog) : (s.setProg u p).retiring = s.retiring :=
    rfl
@[simp] theorem State.setProg_memHeld (s : State) (u : VUnit) (p : Option Prog) : (s.setProg u p).memHeld = s.memHeld :=
    rfl
@[simp] theorem State.setProg_scrubPos (s : State) (u : VUnit) (p : Option Prog) : (s.setProg u p).scrubPos = s.scrubPos :=
    rfl
@[simp] theorem State.setProg_refRate (s : State) (u : VUnit) (p : Option Prog) : (s.setProg u p).refRate = s.refRate :=
    rfl
@[simp] theorem State.setProg_refreshed (s : State) (u : VUnit) (p : Option Prog) : (s.setProg u p).refreshed = s.refreshed :=
    rfl
@[simp] theorem State.setProg_hostLines (s : State) (u : VUnit) (p : Option Prog) : (s.setProg u p).hostLines = s.hostLines :=
    rfl
@[simp] theorem State.setProg_bisnps (s : State) (u : VUnit) (p : Option Prog) : (s.setProg u p).bisnps = s.bisnps :=
    rfl
@[simp] theorem State.setProg_bisnpOut (s : State) (u : VUnit) (p : Option Prog) : (s.setProg u p).bisnpOut = s.bisnpOut :=
    rfl
@[simp] theorem State.setProg_hostErrs (s : State) (u : VUnit) (p : Option Prog) : (s.setProg u p).hostErrs = s.hostErrs :=
    rfl
@[simp] theorem State.setProg_dataOut (s : State) (u : VUnit) (p : Option Prog) : (s.setProg u p).dataOut = s.dataOut :=
    rfl
@[simp] theorem State.setProg_dataPoison (s : State) (u : VUnit) (p : Option Prog) : (s.setProg u p).dataPoison = s.dataPoison :=
    rfl
@[simp] theorem State.setProg_dropKey (s : State) (u : VUnit) (p : Option Prog) : (s.setProg u p).dropKey = s.dropKey :=
    rfl
@[simp] theorem State.setProg_out (s : State) (u : VUnit) (p : Option Prog) : (s.setProg u p).out = s.out := rfl
@[simp] theorem State.setProg_outst (s : State) (u : VUnit) (p : Option Prog) : (s.setProg u p).outst = s.outst := rfl
@[simp] theorem State.setProg_flows (s : State) (u : VUnit) (p : Option Prog) : (s.setProg u p).flows = s.flows := rfl
@[simp] theorem State.setProg_reqs (s : State) (u : VUnit) (p : Option Prog) : (s.setProg u p).reqs = s.reqs := rfl
@[simp] theorem State.setProg_reqQ (s : State) (u : VUnit) (p : Option Prog) : (s.setProg u p).reqQ = s.reqQ := rfl
@[simp] theorem State.setProg_wroteTo (s : State) (u : VUnit) (p : Option Prog) : (s.setProg u p).wroteTo = s.wroteTo :=
    rfl
@[simp] theorem State.setProg_accesses (s : State) (u : VUnit) (p : Option Prog) : (s.setProg u p).accesses = s.accesses :=
    rfl
@[simp] theorem State.setProg_nextTag (s : State) (u : VUnit) (p : Option Prog) : (s.setProg u p).nextTag = s.nextTag :=
    rfl
@[simp] theorem State.setProg_rxFlows (s : State) (u : VUnit) (p : Option Prog) : (s.setProg u p).rxFlows = s.rxFlows :=
    rfl
@[simp] theorem State.setProg_replies (s : State) (u : VUnit) (p : Option Prog) : (s.setProg u p).replies = s.replies :=
    rfl
@[simp] theorem State.setProg_chunksRx (s : State) (u : VUnit) (p : Option Prog) : (s.setProg u p).chunksRx = s.chunksRx :=
    rfl
@[simp] theorem State.setProg_chunksTx (s : State) (u : VUnit) (p : Option Prog) : (s.setProg u p).chunksTx = s.chunksTx :=
    rfl
@[simp] theorem State.setProg_chunkQ (s : State) (u : VUnit) (p : Option Prog) : (s.setProg u p).chunkQ = s.chunkQ :=
    rfl
@[simp] theorem State.setProg_replHeld (s : State) (u : VUnit) (p : Option Prog) : (s.setProg u p).replHeld = s.replHeld :=
    rfl
@[simp] theorem State.setProg_laneEv (s : State) (u : VUnit) (p : Option Prog) : (s.setProg u p).laneEv = s.laneEv :=
    rfl
@[simp] theorem State.setProg_laneLast (s : State) (u : VUnit) (p : Option Prog) : (s.setProg u p).laneLast = s.laneLast :=
    rfl
@[simp] theorem State.setProg_rotate (s : State) (u : VUnit) (p : Option Prog) : (s.setProg u p).rotate = s.rotate :=
    rfl
@[simp] theorem State.setProg_linkTx (s : State) (u : VUnit) (p : Option Prog) : (s.setProg u p).linkTx = s.linkTx :=
    rfl
@[simp] theorem State.setProg_linkRx (s : State) (u : VUnit) (p : Option Prog) : (s.setProg u p).linkRx = s.linkRx :=
    rfl
@[simp] theorem State.setProg_linkBuf (s : State) (u : VUnit) (p : Option Prog) : (s.setProg u p).linkBuf = s.linkBuf :=
    rfl
@[simp] theorem State.setProg_linkFail (s : State) (u : VUnit) (p : Option Prog) : (s.setProg u p).linkFail = s.linkFail :=
    rfl
@[simp] theorem State.setProg_unfreed (s : State) (u : VUnit) (p : Option Prog) : (s.setProg u p).unfreed = s.unfreed :=
    rfl
@[simp] theorem State.setProg_arb (s : State) (u : VUnit) (p : Option Prog) : (s.setProg u p).arb = s.arb := rfl
@[simp] theorem State.setProg_portQ (s : State) (u : VUnit) (p : Option Prog) : (s.setProg u p).portQ = s.portQ := rfl
@[simp] theorem State.setProg_drainQ (s : State) (u : VUnit) (p : Option Prog) : (s.setProg u p).drainQ = s.drainQ :=
    rfl
@[simp] theorem State.setProg_freed (s : State) (u : VUnit) (p : Option Prog) : (s.setProg u p).freed = s.freed := rfl
@[simp] theorem State.setProg_colQ (s : State) (u : VUnit) (p : Option Prog) : (s.setProg u p).colQ = s.colQ := rfl
@[simp] theorem State.setProg_colRun (s : State) (u : VUnit) (p : Option Prog) : (s.setProg u p).colRun = s.colRun :=
    rfl
@[simp] theorem State.setProg_colLists (s : State) (u : VUnit) (p : Option Prog) : (s.setProg u p).colLists = s.colLists :=
    rfl
@[simp] theorem State.setProg_colClear (s : State) (u : VUnit) (p : Option Prog) : (s.setProg u p).colClear = s.colClear :=
    rfl
@[simp] theorem State.setProg_colRx (s : State) (u : VUnit) (p : Option Prog) : (s.setProg u p).colRx = s.colRx := rfl
@[simp] theorem State.setProg_colTx (s : State) (u : VUnit) (p : Option Prog) : (s.setProg u p).colTx = s.colTx := rfl
@[simp] theorem State.setProg_colCredits (s : State) (u : VUnit) (p : Option Prog) : (s.setProg u p).colCredits = s.colCredits :=
    rfl
@[simp] theorem State.setProg_hellos (s : State) (u : VUnit) (p : Option Prog) : (s.setProg u p).hellos = s.hellos :=
    rfl
@[simp] theorem State.setProg_aborts (s : State) (u : VUnit) (p : Option Prog) : (s.setProg u p).aborts = s.aborts :=
    rfl
@[simp] theorem State.setProg_substGone (s : State) (u : VUnit) (p : Option Prog) : (s.setProg u p).substGone = s.substGone :=
    rfl
@[simp] theorem State.setProg_takes (s : State) (u : VUnit) (p : Option Prog) : (s.setProg u p).takes = s.takes := rfl
@[simp] theorem State.setProg_substAsks (s : State) (u : VUnit) (p : Option Prog) : (s.setProg u p).substAsks = s.substAsks :=
    rfl
@[simp] theorem State.setProg_relays (s : State) (u : VUnit) (p : Option Prog) : (s.setProg u p).relays = s.relays :=
    rfl
@[simp] theorem State.setProg_dmas (s : State) (u : VUnit) (p : Option Prog) : (s.setProg u p).dmas = s.dmas := rfl
@[simp] theorem State.setProg_nextDma (s : State) (u : VUnit) (p : Option Prog) : (s.setProg u p).nextDma = s.nextDma :=
    rfl
@[simp] theorem State.setProg_mboxRet (s : State) (u : VUnit) (p : Option Prog) : (s.setProg u p).mboxRet = s.mboxRet :=
    rfl
@[simp] theorem State.setProg_mboxOut (s : State) (u : VUnit) (p : Option Prog) : (s.setProg u p).mboxOut = s.mboxOut :=
    rfl
@[simp] theorem State.setProg_mboxEvents (s : State) (u : VUnit) (p : Option Prog) : (s.setProg u p).mboxEvents = s.mboxEvents :=
    rfl
@[simp] theorem State.setProg_mboxTime (s : State) (u : VUnit) (p : Option Prog) : (s.setProg u p).mboxTime = s.mboxTime :=
    rfl
@[simp] theorem State.setProg_linkUp (s : State) (u : VUnit) (p : Option Prog) : (s.setProg u p).linkUp = s.linkUp :=
    rfl
@[simp] theorem State.setProg_linkWidth (s : State) (u : VUnit) (p : Option Prog) : (s.setProg u p).linkWidth = s.linkWidth :=
    rfl
@[simp] theorem State.setProg_linkRate (s : State) (u : VUnit) (p : Option Prog) : (s.setProg u p).linkRate = s.linkRate :=
    rfl
@[simp] theorem State.setProg_linkCxl (s : State) (u : VUnit) (p : Option Prog) : (s.setProg u p).linkCxl = s.linkCxl :=
    rfl
@[simp] theorem State.setProg_ckpQ (s : State) (u : VUnit) (p : Option Prog) : (s.setProg u p).ckpQ = s.ckpQ := rfl
@[simp] theorem State.setProg_ckpRun (s : State) (u : VUnit) (p : Option Prog) : (s.setProg u p).ckpRun = s.ckpRun :=
    rfl
@[simp] theorem State.setProg_pktTx (s : State) (u : VUnit) (p : Option Prog) : (s.setProg u p).pktTx = s.pktTx := rfl
@[simp] theorem State.setProg_pktRx (s : State) (u : VUnit) (p : Option Prog) : (s.setProg u p).pktRx = s.pktRx := rfl
@[simp] theorem State.setProg_summaries (s : State) (u : VUnit) (p : Option Prog) : (s.setProg u p).summaries = s.summaries :=
    rfl
@[simp] theorem State.setProg_announced (s : State) (u : VUnit) (p : Option Prog) : (s.setProg u p).announced = s.announced :=
    rfl
@[simp] theorem State.setProg_ckpAll (s : State) (u : VUnit) (p : Option Prog) : (s.setProg u p).ckpAll = s.ckpAll :=
    rfl
@[simp] theorem State.setProg_ckpNewest (s : State) (u : VUnit) (p : Option Prog) : (s.setProg u p).ckpNewest = s.ckpNewest :=
    rfl
@[simp] theorem State.setProg_restore (s : State) (u : VUnit) (p : Option Prog) : (s.setProg u p).restore = s.restore :=
    rfl
@[simp] theorem State.setProg_xfer (s : State) (u : VUnit) (p : Option Prog) : (s.setProg u p).xfer = s.xfer := rfl
@[simp] theorem State.setProg_unitMap (s : State) (u : VUnit) (p : Option Prog) : (s.setProg u p).unitMap = s.unitMap :=
    rfl
@[simp] theorem State.setProg_physMap (s : State) (u : VUnit) (p : Option Prog) : (s.setProg u p).physMap = s.physMap :=
    rfl
@[simp] theorem State.setProg_faultLog (s : State) (u : VUnit) (p : Option Prog) : (s.setProg u p).faultLog = s.faultLog :=
    rfl
@[simp] theorem State.setProg_lastingRes (s : State) (u : VUnit) (p : Option Prog) : (s.setProg u p).lastingRes = s.lastingRes :=
    rfl
@[simp] theorem State.setProg_parked (s : State) (u : VUnit) (p : Option Prog) : (s.setProg u p).parked = s.parked :=
    rfl
@[simp] theorem State.setProg_test (s : State) (u : VUnit) (p : Option Prog) : (s.setProg u p).test = s.test := rfl
@[simp] theorem State.setProg_seamNow (s : State) (u : VUnit) (p : Option Prog) : (s.setProg u p).seamNow = s.seamNow :=
    rfl
@[simp] theorem State.setProg_fuseKeyHash (s : State) (u : VUnit) (p : Option Prog) : (s.setProg u p).fuseKeyHash = s.fuseKeyHash :=
    rfl
@[simp] theorem State.setProg_fuseSerial (s : State) (u : VUnit) (p : Option Prog) : (s.setProg u p).fuseSerial = s.fuseSerial :=
    rfl
@[simp] theorem State.setProg_fuseRevoke (s : State) (u : VUnit) (p : Option Prog) : (s.setProg u p).fuseRevoke = s.fuseRevoke :=
    rfl
@[simp] theorem State.setProg_fuseSvn (s : State) (u : VUnit) (p : Option Prog) : (s.setProg u p).fuseSvn = s.fuseSvn :=
    rfl
@[simp] theorem State.setProg_fuseLifecycle (s : State) (u : VUnit) (p : Option Prog) : (s.setProg u p).fuseLifecycle = s.fuseLifecycle :=
    rfl
@[simp] theorem State.setProg_flash (s : State) (u : VUnit) (p : Option Prog) : (s.setProg u p).flash = s.flash := rfl
@[simp] theorem State.setProg_staging (s : State) (u : VUnit) (p : Option Prog) : (s.setProg u p).staging = s.staging :=
    rfl
@[simp] theorem State.setProg_recordLen (s : State) (u : VUnit) (p : Option Prog) : (s.setProg u p).recordLen = s.recordLen :=
    rfl
@[simp] theorem State.setProg_imageLen (s : State) (u : VUnit) (p : Option Prog) : (s.setProg u p).imageLen = s.imageLen :=
    rfl
@[simp] theorem State.setProg_fwRuns (s : State) (u : VUnit) (p : Option Prog) : (s.setProg u p).fwRuns = s.fwRuns :=
    rfl
@[simp] theorem State.setProg_dbgRefusals (s : State) (u : VUnit) (p : Option Prog) : (s.setProg u p).dbgRefusals = s.dbgRefusals :=
    rfl
@[simp] theorem State.setProg_sessions (s : State) (u : VUnit) (p : Option Prog) : (s.setProg u p).sessions = s.sessions :=
    rfl
@[simp] theorem State.setProg_nextSession (s : State) (u : VUnit) (p : Option Prog) : (s.setProg u p).nextSession = s.nextSession :=
    rfl
@[simp] theorem State.setProg_spdmOut (s : State) (u : VUnit) (p : Option Prog) : (s.setProg u p).spdmOut = s.spdmOut :=
    rfl
@[simp] theorem State.setProg_ide (s : State) (u : VUnit) (p : Option Prog) : (s.setProg u p).ide = s.ide := rfl
@[simp] theorem State.setProg_ideOut (s : State) (u : VUnit) (p : Option Prog) : (s.setProg u p).ideOut = s.ideOut :=
    rfl
@[simp] theorem State.setProg_ideBad (s : State) (u : VUnit) (p : Option Prog) : (s.setProg u p).ideBad = s.ideBad :=
    rfl
@[simp] theorem State.setProg_hubUp (s : State) (u : VUnit) (p : Option Prog) : (s.setProg u p).hubUp = s.hubUp := rfl
@[simp] theorem State.setProg_refBad (s : State) (u : VUnit) (p : Option Prog) : (s.setProg u p).refBad = s.refBad :=
    rfl
@[simp] theorem State.setProg_powerHold (s : State) (u : VUnit) (p : Option Prog) : (s.setProg u p).powerHold = s.powerHold :=
    rfl
@[simp] theorem State.setProg_upWaits (s : State) (u : VUnit) (p : Option Prog) : (s.setProg u p).upWaits = s.upWaits :=
    rfl
@[simp] theorem State.setProg_bistDue (s : State) (u : VUnit) (p : Option Prog) : (s.setProg u p).bistDue = s.bistDue :=
    rfl
@[simp] theorem State.setProg_memEpoch (s : State) (u : VUnit) (p : Option Prog) : (s.setProg u p).memEpoch = s.memEpoch :=
    rfl
@[simp] theorem State.setProg_failedMarks (s : State) (u : VUnit) (p : Option Prog) : (s.setProg u p).failedMarks = s.failedMarks :=
    rfl
@[simp] theorem State.setProg_swLevel (s : State) (u : VUnit) (p : Option Prog) : (s.setProg u p).swLevel = s.swLevel :=
    rfl
@[simp] theorem State.setProg_i3cStrap (s : State) (u : VUnit) (p : Option Prog) : (s.setProg u p).i3cStrap = s.i3cStrap :=
    rfl
@[simp] theorem State.setProg_i3cDyn (s : State) (u : VUnit) (p : Option Prog) : (s.setProg u p).i3cDyn = s.i3cDyn :=
    rfl
@[simp] theorem State.setProg_i3cOff (s : State) (u : VUnit) (p : Option Prog) : (s.setProg u p).i3cOff = s.i3cOff :=
    rfl
@[simp] theorem State.setProg_ibiOut (s : State) (u : VUnit) (p : Option Prog) : (s.setProg u p).ibiOut = s.ibiOut :=
    rfl
@[simp] theorem State.setProg_jtag (s : State) (u : VUnit) (p : Option Prog) : (s.setProg u p).jtag = s.jtag := rfl
@[simp] theorem State.setProg_pending (s : State) (u : VUnit) (p : Option Prog) : (s.setProg u p).pending = s.pending :=
    rfl

/-- Supplying a free value advances the counter of free values. -/
@[simp] theorem State.takeFree_freeCtr (s : State) : s.takeFree.freeCtr = s.freeCtr + 1 := rfl

end Sys2Proof.Machine
end

