-- ==== Sys2Proof/Laws/Event.lean ====
section
/-! SUPPORT. What an event, a unit's store and an address event can change: registers, memory with its poison, and the
messages sent. Said once here, and cited in place of unfolding them. -/
namespace Sys2Proof.Machine

/-- `t` is `s` but for its registers, its memory with the poison, and the interrupts raised. -/
def EventFrame (s t : State) : Prop :=
  t = { s with regs := t.regs, mem := t.mem, poison := t.poison, msixOut := t.msixOut, ibiOut := t.ibiOut }

theorem EventFrame.refl (s : State) : EventFrame s s := rfl

theorem EventFrame.trans {s t u : State} (h1 : EventFrame s t) (h2 : EventFrame t u) : EventFrame s u := by
  unfold EventFrame at *
  rw [h2, h1]

theorem State.setReg_frame (s : State) (o : Nat) (v : W64) : EventFrame s (s.setReg o v) := rfl

theorem State.count64_frame (s : State) (o k : Nat) : EventFrame s (s.count64 o k) := rfl

theorem State.storeBytes_frame (s : State) (a : Nat) (bs : List Byte) : EventFrame s (s.storeBytes a bs) := rfl

theorem State.poisonBytes_frame (s : State) (a n : Nat) : EventFrame s (s.poisonBytes a n) := rfl

theorem State.raiseVector_frame (s : State) (v : Nat) : EventFrame s (s.raiseVector v) := by
  unfold State.raiseVector; split <;> rfl

theorem State.powerIbi_frame (s : State) : EventFrame s s.powerIbi := rfl

theorem State.setEvent_frame (s : State) (blk ev bit : Nat) : EventFrame s (s.setEvent blk ev bit) := by
  have h0 : EventFrame s (s.setRegB ev bit true) := s.setReg_frame ev _
  unfold State.setEvent
  dsimp only
  split <;> split
  · exact .trans (.trans h0 (State.powerIbi_frame _)) (State.raiseVector_frame _ _)
  · exact .trans h0 (State.powerIbi_frame _)
  · exact .trans h0 (State.raiseVector_frame _ _)
  · exact h0

theorem State.putLogRecord_frame (s : State) (blk bit : Nat) (unit detail : Option Nat) :
    EventFrame s (s.putLogRecord blk bit unit detail) := by
  have h (a : Nat) (bs : List Byte) (c : Prop) [Decidable c] : EventFrame s (if c then s.storeBytes a bs else s) := by
    split
    · exact s.storeBytes_frame a bs
    · exact .refl s
  exact .trans (h _ _ _) (State.setReg_frame _ _ _)

theorem State.logRecord_frame (s : State) (blk bit : Nat) (unit detail : Option Nat) :
    EventFrame s (s.logRecord blk bit unit detail) := by
  unfold State.logRecord
  split
  · exact .refl s
  · split
    · exact .trans (.trans (.trans (.trans (State.putLogRecord_frame _ _ _ _ _) (State.count64_frame _ _ _))
        (State.setEvent_frame _ _ _ _)) (State.putLogRecord_frame _ _ _ _ _)) (State.count64_frame _ _ _)
    · exact State.putLogRecord_frame _ _ _ _ _

/-- An event changes registers, the event log in memory, and the interrupts raised, and nothing else (R341, R343). -/
theorem State.event_frame (s : State) (blk ev bit : Nat) (unit detail : Option Nat) :
    EventFrame s (s.event blk ev bit unit detail) :=
  .trans (State.setEvent_frame _ _ _ _) (State.logRecord_frame _ _ _ _ _)

theorem State.addressEvent_frame (s : State) (r : Req) (a : Nat) : EventFrame s (s.addressEvent r a) :=
  .trans (.trans (State.setReg_frame _ _ _) (State.setReg_frame _ _ _)) (State.event_frame _ _ _ _ _ _)

theorem State.mergeEvent_frame (s : State) (g : Nat) : EventFrame s (s.mergeEvent g) := by
  unfold State.mergeEvent
  split
  · exact .trans (State.setReg_frame _ _ _) (State.event_frame _ _ _ _ _ _)
  · exact .trans (State.setReg_frame _ _ _) (State.event_frame _ _ _ _ _ _)
  · exact .refl s
  · exact State.event_frame _ _ _ _ _ _

theorem State.hostBytes_frame (s : State) (k a n : Nat) : EventFrame s (s.hostBytes k a n) := by
  unfold State.hostBytes
  split
  · exact State.count64_frame _ _ _
  · exact .refl s

theorem State.mergeEvents_frame (s : State) (gs : List Nat) : EventFrame s (gs.foldl State.mergeEvent s) := by
  induction gs generalizing s with
  | nil => exact .refl s
  | cons g gs ih => exact .trans (s.mergeEvent_frame g) (ih _)

theorem State.storeNow_frame (s : State) (a : Nat) (bs : List Byte) : EventFrame s (s.storeNow a bs) :=
  .trans (.trans (State.storeBytes_frame _ _ _) (State.hostBytes_frame _ _ _ _)) (State.mergeEvents_frame _ _)

theorem State.poisonNow_frame (s : State) (a n : Nat) : EventFrame s (s.poisonNow a n) :=
  .trans (State.poisonBytes_frame _ _ _) (State.hostBytes_frame _ _ _ _)

theorem State.hostError_frame (s : State) (a : Nat) : EventFrame s (s.hostError a) := State.event_frame _ _ _ _ _ _

/-- `t` is `s` but for what an event changes, the requests that wait at their controllers and the back-invalidates asked for. -/
def StoreFrame (s t : State) : Prop :=
  t = { s with regs := t.regs, mem := t.mem, poison := t.poison, msixOut := t.msixOut, ibiOut := t.ibiOut,
               memHeld := t.memHeld, bisnps := t.bisnps, bisnpOut := t.bisnpOut }

theorem EventFrame.store {s t : State} (h : EventFrame s t) : StoreFrame s t := by
  unfold EventFrame at h
  unfold StoreFrame
  rw [h]

theorem StoreFrame.trans {s t u : State} (h1 : StoreFrame s t) (h2 : StoreFrame t u) : StoreFrame s u := by
  unfold StoreFrame at *
  rw [h2, h1]

theorem State.askBack_frame (s : State) (line : Nat) (inv : Bool) : StoreFrame s (s.askBack line inv) := by
  unfold State.askBack
  split <;> rfl

/-- A store in part holds what meets a line that is not free, and performs the rest. -/
theorem State.storeParts_frame (s : State) (r : Req) (a : Nat) (bs : List Byte) (poison : Bool) :
    StoreFrame s (s.storeParts r a bs poison) := by
  unfold State.storeParts
  generalize granules a bs.length = gs
  induction gs generalizing s with
  | nil => rfl
  | cons g gs ih =>
    rw [List.foldl_cons]
    refine .trans ?_ (ih _)
    dsimp only
    split
    · exact .trans (t := { s with memHeld := _ }) rfl (State.askBack_frame _ _ _)
    · split
      · exact (State.poisonNow_frame _ _ _).store
      · exact (State.storeNow_frame _ _ _).store

/-- A unit's store changes registers, memory with its poison, the interrupts raised, and what waits for the lines it meets, and
nothing else (R23, R322). -/
theorem State.store_frame (s : State) (r : Req) (a : Nat) (bs : List Byte) : StoreFrame s (s.store r a bs) := by
  unfold State.store
  split
  · exact (s.addressEvent_frame r _).store
  · split
    · exact (s.hostError_frame _).store
    · split
      · exact s.storeParts_frame _ _ _ _
      · exact (s.storeNow_frame _ _).store

theorem State.storePoison_frame (s : State) (r : Req) (a n : Nat) : StoreFrame s (s.storePoison r a n) := by
  unfold State.storePoison
  split
  · exact (s.addressEvent_frame r _).store
  · split
    · exact (s.hostError_frame _).store
    · split
      · exact s.storeParts_frame _ _ _ _
      · exact (s.poisonNow_frame _ _).store

/-! ## Registers of an event -/

/-- Setting an event bit leaves every register but the event register and the pending bits of MSI-X (R341). -/
theorem State.setEvent_reg_other (s : State) (blk ev bit o : Nat) (h1 : o ≠ ev) (h2 : ∀ k, o ≠ Reg.msixPba k) :
    (s.setEvent blk ev bit).reg o = s.reg o := by
  have hv (t : State) (v : Nat) : (t.raiseVector v).reg o = t.reg o := by
    unfold State.raiseVector
    split
    · exact State.reg_setReg_other _ _ (h2 _)
    · rfl
  have h0 : (s.setRegB ev bit true).reg o = s.reg o := State.reg_setReg_other _ _ h1
  unfold State.setEvent
  dsimp only
  split <;> split <;> try rw [hv]
  all_goals exact h0

/-- An event with the event log disabled leaves memory (R343). -/
theorem State.event_mem (s : State) (blk ev bit : Nat) (unit detail : Option Nat) (h1 : Reg.hubEvlogCfg ≠ ev)
    (h2 : ∀ k, Reg.hubEvlogCfg ≠ Reg.msixPba k) (h : s.regB Reg.hubEvlogCfg 0 = false) :
    s.event blk ev bit unit detail = s.setEvent blk ev bit := by
  have e : (s.setEvent blk ev bit).regB Reg.hubEvlogCfg 0 = false := by
    unfold State.regB State.regF at *
    rw [State.setEvent_reg_other s blk ev bit _ h1 h2]; exact h
  unfold State.event State.logRecord
  rw [if_pos e]

/-! ## The canonical form of memory is kept -/

/-- Memory and the poison marks are in canonical form. -/
def MemWf (s : State) : Prop :=
  Tbl.wf (fun _ => (0 : Byte)) s.mem = true ∧ Tbl.wf (fun _ => false) s.poison = true

theorem MemWf.setReg {s : State} (h : MemWf s) (o : Nat) (v : W64) : MemWf (s.setReg o v) := h

theorem MemWf.storeBytes {s : State} (h : MemWf s) (a : Nat) (bs : List Byte) : MemWf (s.storeBytes a bs) :=
  ⟨wf_writeBytes _ _ _ _ h.1, wf_setPoison _ _ _ h.2⟩

theorem MemWf.poisonBytes {s : State} (h : MemWf s) (a n : Nat) : MemWf (s.poisonBytes a n) :=
  ⟨h.1, wf_setPoison _ _ _ h.2⟩

theorem MemWf.raiseVector {s : State} (h : MemWf s) (v : Nat) : MemWf (s.raiseVector v) := by
  unfold State.raiseVector; split <;> exact h

theorem MemWf.setEvent {s : State} (h : MemWf s) (blk ev bit : Nat) : MemWf (s.setEvent blk ev bit) := by
  have h0 : MemWf (s.setRegB ev bit true) := h
  unfold State.setEvent
  dsimp only
  split <;> split
  · exact MemWf.raiseVector (s := (s.setRegB ev bit true).powerIbi) h0 _
  · exact h0
  · exact h0.raiseVector _
  · exact h0

theorem MemWf.putLogRecord {s : State} (h : MemWf s) (blk bit : Nat) (unit detail : Option Nat) :
    MemWf (s.putLogRecord blk bit unit detail) := by
  have hs (a : Nat) (bs : List Byte) (c : Prop) [Decidable c] : MemWf (if c then s.storeBytes a bs else s) := by
    split
    · exact h.storeBytes a bs
    · exact h
  exact MemWf.setReg (hs _ _ _) _ _

theorem MemWf.logRecord {s : State} (h : MemWf s) (blk bit : Nat) (unit detail : Option Nat) :
    MemWf (s.logRecord blk bit unit detail) := by
  unfold State.logRecord
  split
  · exact h
  · split
    · exact MemWf.setReg (MemWf.putLogRecord (MemWf.setEvent (MemWf.setReg (h.putLogRecord _ _ _ _) _ _) _ _ _) _ _ _ _)
        _ _
    · exact h.putLogRecord _ _ _ _

theorem MemWf.event {s : State} (h : MemWf s) (blk ev bit : Nat) (unit detail : Option Nat) : MemWf (s.event blk ev bit unit detail) :=
  (h.setEvent blk ev bit).logRecord blk bit unit detail

theorem MemWf.addressEvent {s : State} (h : MemWf s) (r : Req) (a : Nat) : MemWf (s.addressEvent r a) :=
  MemWf.event ((h.setReg _ _).setReg _ _) _ _ _ _ _

theorem MemWf.mergeEvent {s : State} (h : MemWf s) (g : Nat) : MemWf (s.mergeEvent g) := by
  unfold State.mergeEvent
  split
  · exact (h.setReg _ _).event _ _ _ _ _
  · exact (h.setReg _ _).event _ _ _ _ _
  · exact h
  · exact h.event _ _ _ _ _

theorem MemWf.hostBytes {s : State} (h : MemWf s) (k a n : Nat) : MemWf (s.hostBytes k a n) := by
  unfold State.hostBytes; split <;> exact h

theorem MemWf.mergeEvents {s : State} (h : MemWf s) (gs : List Nat) : MemWf (gs.foldl State.mergeEvent s) := by
  induction gs generalizing s with
  | nil => exact h
  | cons g gs ih => exact ih (h.mergeEvent g)

theorem MemWf.storeNow {s : State} (h : MemWf s) (a : Nat) (bs : List Byte) : MemWf (s.storeNow a bs) :=
  ((h.storeBytes a bs).hostBytes 5 a _).mergeEvents _

theorem MemWf.poisonNow {s : State} (h : MemWf s) (a n : Nat) : MemWf (s.poisonNow a n) := (h.poisonBytes _ _).hostBytes 5 a _

theorem MemWf.askBack {s : State} (h : MemWf s) (line : Nat) (inv : Bool) : MemWf (s.askBack line inv) := by
  unfold State.askBack; split <;> exact h

theorem MemWf.storeParts {s : State} (h : MemWf s) (r : Req) (a : Nat) (bs : List Byte) (poison : Bool) :
    MemWf (s.storeParts r a bs poison) := by
  unfold State.storeParts
  generalize granules a bs.length = gs
  induction gs generalizing s with
  | nil => exact h
  | cons g gs ih =>
    rw [List.foldl_cons]
    refine ih ?_
    dsimp only
    split
    · exact MemWf.askBack (s := { s with memHeld := s.memHeld ++ _ }) h _ _
    · split
      · exact h.poisonNow _ _
      · exact h.storeNow _ _

/-- A unit's store keeps the canonical form. -/
theorem MemWf.store {s : State} (h : MemWf s) (r : Req) (a : Nat) (bs : List Byte) : MemWf (s.store r a bs) := by
  unfold State.store
  split
  · exact h.addressEvent r _
  · split
    · exact h.event _ _ _ _ _
    · split
      · exact h.storeParts _ _ _ _
      · exact h.storeNow _ _

theorem MemWf.storePoison {s : State} (h : MemWf s) (r : Req) (a n : Nat) : MemWf (s.storePoison r a n) := by
  unfold State.storePoison
  split
  · exact h.addressEvent r _
  · split
    · exact h.event _ _ _ _ _
    · split
      · exact h.storeParts _ _ _ _
      · exact h.poisonNow _ _

end Sys2Proof.Machine
end

