-- ==== Sys2Proof/Laws/Access.lean ====
section
/-! SUPPORT. What a unit's aligned load from its own package answers and leaves; host accesses that do not reach their
block; and the tables of the fabric, the solver and the link streams. -/
namespace Sys2Proof.Machine

/-! ## Aligned accesses lie in one granule -/

/-- An access of a size that divides 32, at a multiple of that size, touches one granule. -/
theorem granules_aligned (d n : Nat) (hn : 0 < n) (h32 : 32 % n = 0) (h : d % n = 0) : granules d n = [d / 32] := by
  have : (d + n - 1) / 32 = d / 32 := by
    obtain ⟨q, rfl⟩ := Nat.dvd_of_mod_eq_zero h
    obtain ⟨r, hr⟩ := Nat.dvd_of_mod_eq_zero h32
    have e1 : n * q / 32 = q / r := by rw [hr]; exact Nat.mul_div_mul_left _ _ hn
    have e2 : (n * q + n - 1) / n = q := by
      rw [Nat.div_eq_iff hn, Nat.mul_comm q n]; constructor <;> omega
    rw [e1, hr, ← Nat.div_div_eq_div_mul, e2]
  unfold granules
  rw [if_neg (by omega), this]
  simp [upFrom]

/-- Such an access to an accessible address is not refused. -/
theorem firstRefused_aligned (ok : Nat → Bool) (d n : Nat) (hn : 0 < n) (h32 : 32 % n = 0) (h : d % n = 0)
    (ha : ok d = true) : firstRefused ok d n = none := by
  have e : max d (32 * (d / 32)) = d := by omega
  simp [firstRefused, granules_aligned d n hn h32 h, e, ha]

/-- The device address of an aligned address is aligned. -/
theorem devAddr_aligned (a n : Nat) (h32 : 32 % n = 0) (h : a % n = 0) : devAddr a % n = 0 := by
  have : n ∣ 2 ^ 48 := Nat.dvd_trans (Nat.dvd_of_mod_eq_zero h32) ⟨2 ^ 43, by norm_num⟩
  rw [devAddr, Nat.mod_mod_of_dvd _ this, h]

/-- Such an access lies in one page. -/
theorem pageParts_aligned (a n : Nat) (h32 : 32 % n = 0) (h : a % n = 0) : pageParts a n = [(a, n)] := by
  have hd : n ∣ 4096 := Nat.dvd_trans (Nat.dvd_of_mod_eq_zero h32) ⟨128, by norm_num⟩
  have hm : a % 4096 % n = 0 := by rw [Nat.mod_mod_of_dvd _ hd, h]
  obtain ⟨q, hq⟩ := Nat.dvd_of_mod_eq_zero hm
  obtain ⟨k, hk⟩ := hd
  have hlt : a % 4096 < 4096 := Nat.mod_lt _ (by norm_num)
  have hqk : q < k := by
    rw [hq, hk] at hlt
    exact Nat.lt_of_mul_lt_mul_left hlt
  have : a % 4096 + n ≤ 4096 := by
    rw [hq]
    calc n * q + n = n * (q + 1) := by ring
      _ ≤ n * k := Nat.mul_le_mul_left _ hqk
      _ = 4096 := hk.symm
  unfold pageParts
  rw [if_pos this]

/-- An aligned load from the unit's own package, of a page without a replica, from an accessible address without poison that the
host answers, returns the bytes in memory (R23, R24). -/
theorem State.gload_own (s : State) (r : Req) (a n : Nat) (hr : s.replLoad a = none) (hl : s.isLocal a = true) (hn : 0 < n)
    (h32 : 32 % n = 0) (h : a % n = 0) (ha : s.accessible (devAddr a) = true)
    (hp : s.poisoned (devAddr a / 32) = false) (hf : s.readFails (devAddr a) n = false) :
    s.gload r a n = (s.bytes (devAddr a) n, false) := by
  have hd := devAddr_aligned a n h32 h
  unfold State.gload
  rw [pageParts_aligned a n h32 h]
  simp only [State.loadPart, State.loadTarget, hr, hl, if_true]
  unfold State.load
  rw [firstRefused_aligned _ _ n hn h32 hd ha]
  simp [State.poisonIn, granules_aligned _ n hn h32 hd, hp, hf]

/-- Such a load of a line that is free leaves everything but the count of bytes read from the host. -/
theorem State.gloadSt_own (s : State) (r : Req) (a n : Nat) (hr : s.replLoad a = none) (hl : s.isLocal a = true)
    (hn : 0 < n) (h32 : 32 % n = 0) (h : a % n = 0) (ha : s.accessible (devAddr a) = true)
    (hf : s.readFails (devAddr a) n = false) (hb : s.lineBusy (32 * (devAddr a / 32)) false = false) :
    s.gloadSt r a n = s.hostBytes 4 (devAddr a) n := by
  have hd := devAddr_aligned a n h32 h
  have hb' : (s.hostBytes 4 (devAddr a) n).lineBusy (32 * (devAddr a / 32)) false = false := by
    refine Eq.trans ?_ hb
    unfold State.hostBytes
    split <;> rfl
  unfold State.gloadSt
  rw [pageParts_aligned a n h32 h]
  simp only [List.foldl_cons, List.foldl_nil, State.loadPartSt, State.loadTarget, hr, Bool.false_eq_true, if_false, hl, if_true]
  unfold State.loadEvent
  rw [firstRefused_aligned _ _ n hn h32 hd ha]
  simp only [hf, if_true]
  unfold State.needOwn
  rw [granules_aligned _ n hn h32 hd]
  simp [hb']

/-! ## Host accesses -/

/-- A host write that does not reach its block changes nothing (R319, R391). -/
theorem State.bar_unreached (s : State) (off : Nat) (f : State → State) (h : s.reaches off = false) : s.bar off f = s := by
  simp [State.bar, h]

/-- A host write that reaches its block has its effect. -/
theorem State.bar_reached (s : State) (off : Nat) (f : State → State) (h : s.reaches off = true) :
    s.bar off f = f s := by
  simp [State.bar, h]

/-- The HUB block is always reached (R319, R391). -/
theorem State.reaches_hub (s : State) (off : Nat) (h : off < 0x400000) : s.reaches off = true := by
  simp [State.reaches, h]

/-! ## Tables -/

@[simp] theorem State.flow_setFlow (s : State) (d v : Nat) (f : FlowTx) : (s.setFlow d v f).flow d v = f := by
  simp [State.setFlow, State.flow]
theorem State.flow_setFlow_other (s : State) {d v d' v' : Nat} (f : FlowTx) (h : d' * 8 + v' ≠ d * 8 + v) :
    (s.setFlow d v f).flow d' v' = s.flow d' v' := by
  simp only [State.setFlow, State.flow]; exact Tbl.get_set_other _ _ h
@[simp] theorem State.rxFlow_setRxFlow (s : State) (k : Nat) (r : FlowRx) : (s.setRxFlow k r).rxFlow k = r := by
  simp [State.setRxFlow, State.rxFlow]
@[simp] theorem State.runOn_setRunOn (s : State) (ch : Nat) (r : Option CollRun) : (s.setRunOn ch r).runOn ch = r := by
  simp [State.setRunOn, State.runOn]
theorem State.runOn_setRunOn_other (s : State) {ch c : Nat} (r : Option CollRun) (h : c ≠ ch) :
    (s.setRunOn ch r).runOn c = s.runOn c := by
  simp only [State.setRunOn, State.runOn]; exact Tbl.get_set_other _ _ h
@[simp] theorem State.ideDir_setIdeDir (s : State) (c d : Bool) (x : IdeDir) : (s.setIdeDir c d x).ideDir c d = x := by
  simp [State.setIdeDir, State.ideDir]
theorem State.ideDir_setIdeDir_other (s : State) {c d c' d' : Bool} (x : IdeDir) (h : (c', d') ≠ (c, d)) :
    (s.setIdeDir c d x).ideDir c' d' = s.ideDir c' d' := by
  simp only [State.setIdeDir, State.ideDir]
  refine Tbl.get_set_other _ _ fun e => h ?_
  revert e; cases c <;> cases d <;> cases c' <;> cases d' <;> decide
@[simp] theorem State.coreQueue_setCoreQueue (s : State) (c : Nat) (q : List CoreEnt) :
    (s.setCoreQueue c q).coreQueue c = q := by
  simp [State.setCoreQueue, State.coreQueue]
theorem State.coreQueue_setCoreQueue_other (s : State) {c c' : Nat} (q : List CoreEnt) (h : c' ≠ c) :
    (s.setCoreQueue c q).coreQueue c' = s.coreQueue c' := by
  simp only [State.setCoreQueue, State.coreQueue]; exact Tbl.get_set_other _ _ h
@[simp] theorem State.engQueue_setEngQueue (s : State) (e : Nat) (q : List (Nat × Bool)) :
    (s.setEngQueue e q).engQueue e = q := by
  simp [State.setEngQueue, State.engQueue]
theorem State.engQueue_setEngQueue_other (s : State) {e e' : Nat} (q : List (Nat × Bool)) (h : e' ≠ e) :
    (s.setEngQueue e q).engQueue e' = s.engQueue e' := by
  simp only [State.setEngQueue, State.engQueue]; exact Tbl.get_set_other _ _ h
@[simp] theorem State.shareOf_setShare (s : State) (k : Nat) (v : Option Share) : (s.setShare k v).shareOf k = v := by
  simp [State.setShare, State.shareOf]
theorem State.shareOf_setShare_other (s : State) {k k' : Nat} (v : Option Share) (h : k' ≠ k) :
    (s.setShare k v).shareOf k' = s.shareOf k' := by
  simp only [State.setShare, State.shareOf]; exact Tbl.get_set_other _ _ h
@[simp] theorem State.batchOf_setBatch (s : State) (b : Nat) (v : Option Batch) : (s.setBatch b v).batchOf b = v := by
  simp [State.setBatch, State.batchOf]
theorem State.batchOf_setBatch_other (s : State) {b b' : Nat} (v : Option Batch) (h : b' ≠ b) :
    (s.setBatch b v).batchOf b' = s.batchOf b' := by
  simp only [State.setBatch, State.batchOf]; exact Tbl.get_set_other _ _ h

end Sys2Proof.Machine
end

