-- ==== Sys2Proof/Laws/Bits.lean ====
section
/-! SUPPORT. Fields of words and of registers: what a field reads after a field was stored, and which fields are left. -/
namespace Sys2Proof.Machine

/-- Bit `i` of a word after a field was stored: the field's own bits come from the value, the others stay. -/
theorem getLsbD_setFld {w : Nat} (v : BitVec w) (lo len x i : Nat) (hi : i < w) :
    (setFld v lo len x).getLsbD i = if lo ≤ i ∧ i < lo + len then x.testBit (i - lo) else v.getLsbD i := by
  have h1 : ((2 ^ len - 1) * 2 ^ lo).testBit i = decide (lo ≤ i ∧ i < lo + len) := by
    rw [Nat.testBit_mul_two_pow, Nat.testBit_two_pow_sub_one, ← Bool.decide_and]
    exact decide_eq_decide.mpr ⟨fun h => ⟨h.1, by omega⟩, fun h => ⟨h.1, by omega⟩⟩
  have h2 : (x % 2 ^ len * 2 ^ lo).testBit i = (decide (lo ≤ i ∧ i < lo + len) && x.testBit (i - lo)) := by
    rw [Nat.testBit_mul_two_pow, Nat.testBit_mod_two_pow]
    by_cases a : lo ≤ i <;> by_cases b : i < lo + len <;> simp [a, b] <;> omega
  simp only [setFld, BitVec.getLsbD_or, BitVec.getLsbD_and, BitVec.getLsbD_not, BitVec.getLsbD_ofNat, h1, h2, hi]
  by_cases c : lo ≤ i ∧ i < lo + len <;> simp [c]

/-- A field reads what was stored in it. -/
theorem fld_setFld_same {w : Nat} (v : BitVec w) (lo len x : Nat) (h : lo + len ≤ w) :
    fld (setFld v lo len x) lo len = x % 2 ^ len := by
  apply Nat.eq_of_testBit_eq
  intro i
  rw [fld, Nat.testBit_mod_two_pow, Nat.testBit_div_two_pow, Nat.testBit_mod_two_pow]
  by_cases hi : i < len
  · have := getLsbD_setFld v lo len x (i + lo) (by omega)
    rw [BitVec.getLsbD] at this
    rw [this]
    simp [hi]; intro; omega
  · simp [hi]

/-- Storing a field leaves a field that does not meet it. -/
theorem fld_setFld_other {w : Nat} (v : BitVec w) (lo len x lo' len' : Nat) (h : lo' + len' ≤ lo ∨ lo + len ≤ lo') :
    fld (setFld v lo len x) lo' len' = fld v lo' len' := by
  apply Nat.eq_of_testBit_eq
  intro i
  rw [fld, fld, Nat.testBit_mod_two_pow, Nat.testBit_div_two_pow, Nat.testBit_mod_two_pow, Nat.testBit_div_two_pow]
  by_cases hi : i < len'
  · by_cases hw : i + lo' < w
    · have := getLsbD_setFld v lo len x (i + lo') hw
      rw [if_neg (by omega)] at this
      rw [BitVec.getLsbD, BitVec.getLsbD] at this
      rw [this]
    · have hb (u : BitVec w) : u.toNat.testBit (i + lo') = false :=
        Nat.testBit_lt_two_pow (Nat.lt_of_lt_of_le u.isLt (Nat.pow_le_pow_right (by omega) (by omega)))
      rw [hb, hb]
  · simp [hi]

/-! ## Fields of registers -/

theorem State.regF_setRegF_same (s : State) (o lo len x : Nat) (h : lo + len ≤ 64) :
    (s.setRegF o lo len x).regF o lo len = x % 2 ^ len := by
  rw [State.regF, State.setRegF, State.reg_setReg_same, fld_setFld_same _ _ _ _ h]

theorem State.regF_setRegF_field (s : State) (o lo len x lo' len' : Nat) (h : lo' + len' ≤ lo ∨ lo + len ≤ lo') :
    (s.setRegF o lo len x).regF o lo' len' = s.regF o lo' len' := by
  rw [State.regF, State.setRegF, State.reg_setReg_same, fld_setFld_other _ _ _ _ _ _ h, State.regF]

theorem State.regF_setReg_other (s : State) {o o' : Nat} (v : W64) (lo len : Nat) (h : o' ≠ o) :
    (s.setReg o v).regF o' lo len = s.regF o' lo len := by
  rw [State.regF, State.reg_setReg_other _ _ h, State.regF]

theorem State.regF_setRegF_other (s : State) {o o' : Nat} (lo len x lo' len' : Nat) (h : o' ≠ o) :
    (s.setRegF o lo len x).regF o' lo' len' = s.regF o' lo' len' := State.regF_setReg_other s _ _ _ h

theorem State.regB_setRegB_same (s : State) (o i : Nat) (b : Bool) (h : i < 64) :
    (s.setRegB o i b).regB o i = b := by
  rw [State.regB, State.setRegB, State.regF_setRegF_same _ _ _ _ _ (by omega)]
  cases b <;> rfl

theorem State.regB_setRegB_bit (s : State) (o i j : Nat) (b : Bool) (h : j ≠ i) :
    (s.setRegB o i b).regB o j = s.regB o j := by
  rw [State.regB, State.setRegB, State.regF_setRegF_field _ _ _ _ _ _ _ (by omega), State.regB]

theorem State.regB_setReg_other (s : State) {o o' : Nat} (v : W64) (j : Nat) (h : o' ≠ o) :
    (s.setReg o v).regB o' j = s.regB o' j := by
  rw [State.regB, State.regF_setReg_other _ _ _ _ h, State.regB]

end Sys2Proof.Machine
end

