-- ==== Sys2Proof/Laws/Bytes.lean ====
section
/-! SUPPORT. Numbers as bytes, CRC-64 and SHA-256: their lengths and ranges, and that a sealed record is whole. -/
namespace Sys2Proof.Machine

@[simp] theorem natBytes_length (n v : Nat) : (natBytes n v).length = n := by
  induction n generalizing v with
  | zero => rfl
  | succ n ih => simp [natBytes, ih]

/-- Reading back the bytes of a number. -/
theorem bytesNat_natBytes (n v : Nat) : bytesNat (natBytes n v) = v % 256 ^ n := by
  induction n generalizing v with
  | zero => simp [natBytes, bytesNat, Nat.mod_one]
  | succ n ih =>
    rw [natBytes, bytesNat, ih, BitVec.toNat_ofNat, show 256 ^ (n + 1) = 256 * 256 ^ n from Nat.pow_succ', Nat.mod_mul]

theorem crcBits_lt (n r : Nat) (h : r < 2 ^ 64) : crcBits n r < 2 ^ 64 := by
  induction n generalizing r with
  | zero => exact h
  | succ n ih =>
    unfold crcBits
    split
    · exact ih _ (by omega)
    · exact ih _ (Nat.xor_lt_two_pow (Nat.mod_lt _ (by decide)) (by decide))

/-- A CRC-64 is a number of 64 bits. -/
theorem crc64_lt (l : List Byte) : crc64 l < 2 ^ 64 := by
  unfold crc64
  generalize hf : (fun r (b : Byte) => crcBits 8 (r ^^^ (b.toNat * 2 ^ 56))) = f
  have step (r : Nat) (b : Byte) (h : r < 2 ^ 64) : f r b < 2 ^ 64 := by
    rw [← hf]
    exact crcBits_lt _ _ (Nat.xor_lt_two_pow h (by have := b.isLt; omega))
  have key : ∀ (l : List Byte) (r : Nat), r < 2 ^ 64 → l.foldl f r < 2 ^ 64 := by
    intro l
    induction l with
    | nil => exact fun _ h => h
    | cons b l ih => exact fun r h => ih _ (step r b h)
  exact key l 0 (by decide)

theorem shaRound_length (h : List W32) (kw : W32 × W32) : (shaRound h kw).length = h.length := by
  unfold shaRound
  split <;> rfl

theorem shaBlock_length (h : List W32) (b : List Byte) : (shaBlock h b).length = h.length := by
  have key : ∀ (l : List (W32 × W32)) (h : List W32), (l.foldl shaRound h).length = h.length := by
    intro l
    induction l with
    | nil => exact fun _ => rfl
    | cons x l ih => exact fun h => (ih _).trans (shaRound_length h x)
  simp [shaBlock, List.length_zipWith, key]

theorem shaFold_length (k : Nat) (h : List W32) (b : List Byte) : (shaFold k h b).length = h.length := by
  induction k generalizing h b with
  | zero => rfl
  | succ k ih => rw [shaFold, ih, shaBlock_length]

/-- A digest has 32 bytes. -/
@[simp] theorem sha256_length (b : List Byte) : (sha256 b).length = 32 := by
  have key : ∀ l : List W32, (l.flatMap fun w =>
      [w.extractLsb' 24 8, w.extractLsb' 16 8, w.extractLsb' 8 8, w.extractLsb' 0 8]).length = 4 * l.length := by
    intro l
    induction l with
    | nil => rfl
    | cons w l ih => simp only [List.flatMap_cons, List.length_append, ih, List.length_cons, List.length_nil]; omega
  unfold sha256
  rw [key, shaFold_length]
  rfl

@[simp] theorem shardDigest_length (l : List (List (Granule × Bool))) : (shardDigest l).length = 32 := sha256_length _

/-- A sealed record has 4 KiB. -/
theorem sealRecord_length (b : List Byte) (h : b.length ≤ 4088) : (sealRecord b).length = 4096 := by
  simp only [sealRecord, List.length_append, List.length_replicate, natBytes_length]; omega

/-- A sealed record of the known format is whole (R346). -/
theorem recordOk_sealRecord (b : List Byte) (h : b.length ≤ 4088) (h4 : 4 ≤ b.length) (hv : recNum b 0 4 = 1) :
    recordOk (sealRecord b) = true := by
  have hl : (b ++ List.replicate (4088 - b.length) (0 : Byte)).length = 4088 := by
    simp only [List.length_append, List.length_replicate]; omega
  unfold recordOk sealRecord recNum at *
  rw [List.take_left' hl, List.drop_left' hl, List.take_of_length_le (by simp), bytesNat_natBytes,
    Nat.mod_eq_of_lt (by have := crc64_lt (b ++ List.replicate (4088 - b.length) 0); simpa using this)]
  simp only [beq_self_eq_true, Bool.true_and, List.drop_zero, beq_iff_eq] at *
  rw [List.append_assoc, List.take_append_of_le_length h4]
  exact hv

/-- What a sealed record holds at an offset is what was sealed. -/
theorem sealRecord_slice (b : List Byte) (o n : Nat) (h : o + n ≤ b.length) :
    ((sealRecord b).drop o).take n = (b.drop o).take n := by
  unfold sealRecord
  rw [List.append_assoc, List.drop_append_of_le_length (by omega), List.take_append_of_le_length (by simp; omega)]

end Sys2Proof.Machine
end

