-- ==== Sys2Proof/Laws/Prog.lean ====
section
/-! SUPPORT. The laws of programs and of the tables of units: what a program's registers read after a write, that each
unit has one program of its own, and what completing an instruction leaves. -/
namespace Sys2Proof.Machine

/-! ## Registers of a program (R176) -/

/-- A write to x0 is ignored. -/
@[simp] theorem Prog.setX_zero (p : Prog) (v : W64) : p.setX 0 v = p := rfl

/-- A register other than x0 reads what was written. -/
theorem Prog.xr_setX_same (p : Prog) (i : Nat) (v : W64) (h : i ≠ 0) : (p.setX i v).xr i = v := by
  simp [Prog.setX, Prog.xr, h]

/-- Writing a register leaves the others. -/
theorem Prog.xr_setX_other (p : Prog) {i j : Nat} (v : W64) (h : j ≠ i) : (p.setX i v).xr j = p.xr j := by
  by_cases hi : i = 0
  · simp [Prog.setX, hi]
  · by_cases hj : j = 0
    · simp [Prog.xr, hj]
    · simp [Prog.setX, Prog.xr, hi, hj, Tbl.get_set_other _ _ h]

@[simp] theorem Prog.xr_zero (p : Prog) : p.xr 0 = 0 := rfl

@[simp] theorem Prog.fr_setF_same (p : Prog) (i : Nat) (v : W64) : (p.setF i v).fr i = v := by
  simp [Prog.setF, Prog.fr]
theorem Prog.fr_setF_other (p : Prog) {i j : Nat} (v : W64) (h : j ≠ i) : (p.setF i v).fr j = p.fr j := by
  simp [Prog.setF, Prog.fr, Tbl.get_set_other _ _ h]
@[simp] theorem Prog.vr_setV_same (p : Prog) (i : Nat) (v : VWord) : (p.setV i v).vr i = v := by
  simp [Prog.setV, Prog.vr]
theorem Prog.vr_setV_other (p : Prog) {i j : Nat} (v : VWord) (h : j ≠ i) : (p.setV i v).vr j = p.vr j := by
  simp [Prog.setV, Prog.vr, Tbl.get_set_other _ _ h]
@[simp] theorem Prog.mr_setM_same (p : Prog) (i : Nat) (v : MWord) : (p.setM i v).mr i = v := by
  simp [Prog.setM, Prog.mr]
theorem Prog.mr_setM_other (p : Prog) {i j : Nat} (v : MWord) (h : j ≠ i) : (p.setM i v).mr j = p.mr j := by
  simp [Prog.setM, Prog.mr, Tbl.get_set_other _ _ h]

/-- A write of an x register changes the x registers alone. -/
theorem Prog.setX_frame (p : Prog) (i : Nat) (v : W64) : p.setX i v = { p with x := (p.setX i v).x } := by
  unfold Prog.setX; split <;> rfl

/-! ## One program per unit (R155, R181) -/

/-- Each unit has a key of its own. -/
theorem progKey_inj (u v : VUnit) (h : progKey u = progKey v) : u = v := by
  cases u <;> cases v <;> simp [progKey] at h ⊢ <;> first | exact Fin.ext h | exact h | omega

@[simp] theorem State.progOf_setProg (s : State) (u : VUnit) (p : Option Prog) : (s.setProg u p).progOf u = p := by
  simp [State.setProg, State.progOf]

theorem State.progOf_setProg_other (s : State) (u v : VUnit) (p : Option Prog) (h : v ≠ u) :
    (s.setProg u p).progOf v = s.progOf v := by
  simp only [State.setProg, State.progOf]
  exact Tbl.get_set_other s.progs _ fun e => h (progKey_inj _ _ e)

@[simp] theorem State.setReg_progOf (s : State) (o : Nat) (v : W64) (u : VUnit) :
    (s.setReg o v).progOf u = s.progOf u := rfl
@[simp] theorem State.takeFree_progOf (s : State) (u : VUnit) : s.takeFree.progOf u = s.progOf u := rfl
@[simp] theorem State.takeFree_reg (s : State) (o : Nat) : s.takeFree.reg o = s.reg o := rfl
@[simp] theorem State.setProg_reg (s : State) (u : VUnit) (p : Option Prog) (o : Nat) :
    (s.setProg u p).reg o = s.reg o := rfl

/-- The three registers of a unit that completing an instruction writes are different. -/
theorem ve_regs_differ (u : VUnit) : vePc u ≠ veInstr u ∧ vePc u ≠ veBusy u ∧ veInstr u ≠ veBusy u := by
  cases u <;> simp [vePc, veInstr, veBusy] <;> omega

/-! ## Completing an instruction -/

/-- Completing an instruction leaves the program. -/
@[simp] theorem State.instrDone_progOf (s : State) (u : VUnit) (pc : W64) (v : VUnit) :
    (s.instrDone u pc).progOf v = s.progOf v := rfl

/-- The unit's pc register shows the pc (R160, R211). -/
theorem State.instrDone_pc (s : State) (u : VUnit) (pc : W64) : (s.instrDone u pc).reg (vePc u) = pc := by
  obtain ⟨d1, d2, -⟩ := ve_regs_differ u
  simp only [State.instrDone, State.countFree, State.count64]
  rw [State.reg_setReg_other _ _ d2, State.reg_setReg_other _ _ d1, State.reg_setReg_same]

/-- The unit's instruction counter advances by 1. -/
theorem State.instrDone_count (s : State) (u : VUnit) (pc : W64) :
    (s.instrDone u pc).reg (veInstr u) = BitVec.ofNat 64 (satAdd 64 (s.reg (veInstr u)).toNat 1) := by
  obtain ⟨d1, -, d3⟩ := ve_regs_differ u
  simp only [State.instrDone, State.countFree, State.count64]
  rw [State.reg_setReg_other _ _ d3, State.reg_setReg_same, State.reg_setReg_other _ _ d1.symm]

/-- Every other register is left. -/
theorem State.instrDone_reg_other (s : State) (u : VUnit) (pc : W64) (o : Nat) (h1 : o ≠ vePc u) (h2 : o ≠ veInstr u)
    (h3 : o ≠ veBusy u) : (s.instrDone u pc).reg o = s.reg o := by
  simp only [State.instrDone, State.countFree, State.count64]
  rw [State.reg_setReg_other _ _ h3, State.reg_setReg_other _ _ h2, State.reg_setReg_other _ _ h1]

/-- Completing an instruction changes registers alone. -/
theorem State.instrDone_frame (s : State) (u : VUnit) (pc : W64) :
    s.instrDone u pc = { s with regs := (s.instrDone u pc).regs } := by
  simp only [State.instrDone, State.countFree, State.count64, State.setReg]

/-- What an instruction of a ready program does: it waits for what it lacks, or what its body answers takes effect. -/
theorem State.instr_of_ready {s : State} {u : VUnit} {p : Prog} (hp : s.progOf u = some p) (hr : s.progReady u p = true)
    (mf : Nat) (body : State → Prog → IRes) : s.instr u mf body =
    if (body s { p with wait := .no }).st.lacks (progReq u) then s.stall (body s { p with wait := .no }).st u p mf
    else (State.commit u p mf (body s { p with wait := .no })).dropAccesses (progReq u) := by
  unfold State.instr
  rw [hp]
  dsimp only
  rw [if_neg (by simp [hr])]

/-- An instruction that lacks nothing takes effect at once. -/
theorem State.instr_of_whole {s : State} {u : VUnit} {p : Prog} (hp : s.progOf u = some p) (hr : s.progReady u p = true)
    {mf : Nat} {body : State → Prog → IRes} (hl : (body s { p with wait := .no }).st.lacks (progReq u) = false) :
    s.instr u mf body = (State.commit u p mf (body s { p with wait := .no })).dropAccesses (progReq u) := by
  rw [State.instr_of_ready hp hr, hl, if_neg Bool.false_ne_true]

/-- A command that is what the word at the PC spells is executed (R157, R176). -/
theorem State.issue_of_word {s : State} {u : VUnit} {i : Instr}
    (h : ∀ w, s.fetchWord u = some w → decodeVirulax u w = some i) (f : State → State) : s.issue u i f = f s := by
  unfold State.issue
  split
  · rfl
  · rename_i w hw
    rw [h w hw]
    simp

/-- A command other than the one that the word at the PC spells does nothing. -/
theorem State.issue_of_other {s : State} {u : VUnit} {i j : Instr} {w : W32} (hw : s.fetchWord u = some w)
    (hd : decodeVirulax u w = some j) (h : j ≠ i) (f : State → State) : s.issue u i f = s := by
  unfold State.issue
  simp [hw, hd, h]

/-- An encoding that no table lists ends the program with VP_ILLEGAL, whatever is commanded (R158, R177). -/
theorem State.issue_illegal {s : State} {u : VUnit} {i : Instr} {w : W32} (hw : s.fetchWord u = some w)
    (hd : decodeVirulax u w = none) (f : State → State) :
    s.issue u i f = s.instr u (wf w 24 8) fun s _ => .fault s 0x30 [] := by
  unfold State.issue
  simp [hw, hd]

/-- An instruction commanded on a unit that is not ready for it changes nothing. -/
theorem State.instr_not_ready {s : State} {u : VUnit} (h : ∀ p, s.progOf u = some p → s.progReady u p = false)
    (mf : Nat) (body : State → Prog → IRes) : s.instr u mf body = s := by
  unfold State.instr
  split
  · rfl
  · rename_i p hp
    rw [if_pos (by simp [h p hp])]

/-! ## Tables of units -/

@[simp] theorem State.queueOf_setQueue (s : State) (t : Nat) (q : List TaskRef) : (s.setQueue t q).queueOf t = q := by
  simp [State.setQueue, State.queueOf]
theorem State.queueOf_setQueue_other (s : State) {t t' : Nat} (q : List TaskRef) (h : t' ≠ t) :
    (s.setQueue t q).queueOf t' = s.queueOf t' := by
  simp only [State.setQueue, State.queueOf]; exact Tbl.get_set_other _ _ h
@[simp] theorem State.runOf_setRun (s : State) (t : Nat) (r : Option RunTask) : (s.setRun t r).runOf t = r := by
  simp [State.setRun, State.runOf]
theorem State.runOf_setRun_other (s : State) {t t' : Nat} (r : Option RunTask) (h : t' ≠ t) :
    (s.setRun t r).runOf t' = s.runOf t' := by
  simp only [State.setRun, State.runOf]; exact Tbl.get_set_other _ _ h
@[simp] theorem State.heldOf_setHeld (s : State) (t : Nat) (b : Option HeldBlock) : (s.setHeld t b).heldOf t = b := by
  simp [State.setHeld, State.heldOf]
theorem State.heldOf_setHeld_other (s : State) {t t' : Nat} (b : Option HeldBlock) (h : t' ≠ t) :
    (s.setHeld t b).heldOf t' = s.heldOf t' := by
  simp only [State.setHeld, State.heldOf]; exact Tbl.get_set_other _ _ h
@[simp] theorem State.cqOf_setCq (s : State) (i : Nat) (c : CqSt) : (s.setCq i c).cqOf i = c := by
  simp [State.setCq, State.cqOf]
theorem State.cqOf_setCq_other (s : State) {i j : Nat} (c : CqSt) (h : j ≠ i) : (s.setCq i c).cqOf j = s.cqOf j := by
  simp only [State.setCq, State.cqOf]; exact Tbl.get_set_other _ _ h
@[simp] theorem State.sqOf_setSq (s : State) (i : Nat) (c : SqSt) : (s.setSq i c).sqOf i = c := by
  simp [State.setSq, State.sqOf]
theorem State.sqOf_setSq_other (s : State) {i j : Nat} (c : SqSt) (h : j ≠ i) : (s.setSq i c).sqOf j = s.sqOf j := by
  simp only [State.setSq, State.sqOf]; exact Tbl.get_set_other _ _ h
/-- An increment of a sync counter saturates at 65,535 and leaves the other counters (R111). -/
@[simp] theorem State.syncCtr_bumpSync (s : State) (i : Nat) :
    (s.bumpSync i).syncCtr i = satAdd 16 (s.syncCtr i) 1 := by
  simp [State.bumpSync, State.syncCtr]
theorem State.syncCtr_bumpSync_other (s : State) {i j : Nat} (h : j ≠ i) :
    (s.bumpSync i).syncCtr j = s.syncCtr j := by
  simp only [State.bumpSync, State.syncCtr]; exact Tbl.get_set_other _ _ h

end Sys2Proof.Machine
end

