-- ==== Sys2Proof/Tests/Slice0.lean ====
section
/-! SUPPORT. Tests: the well-formedness smoke, worked examples of the spec, and for every statement that has hypotheses a
witness that meets them, clause by clause. The expected values come from the spec or from hand calculation. -/
namespace Sys2Proof.Tests
open Sys2Proof Sys2Proof.Machine Sys2Proof.Claims
set_option Elab.async false
set_option maxRecDepth 1000000

/-- The state after reset with some registers written. -/
def withRegs (l : List (Nat × W64)) : State := l.foldl (fun s p => s.setReg p.1 p.2) State.reset

/-- What a command answers. -/
def after (c : Instr) (s : State) : State := match exec c s with
  | .next t => t
  | _ => s

/-- The package with its memory open. -/
def opened : State := withRegs [(Reg.memStatus, 8)]

/-- A program: x1 names byte 64 of the package's own working memory, x2 is 4, x3 is −1, and x4 byte 64 of node 5. -/
def prog0 : Prog where
  pc := 0x1000
  x := [(1, 0xFFFF000000000040), (2, 4), (3, -1), (4, 0x5000000000040)]
  f := [(1, 0x3FF8000000000000)]
  v := []
  m := []
  pois := []
  vl := 4
  vtype := 0
  vstream := 0
  vdraw := 0
  vebase := 0
  vestep := 1
  vmonid := 0
  vsmbeta := 0x3F800000
  vcatt := 0
  ctx := 0xFFFF000000000000
  desc := 0x2000
  act := 0
  idx := 0
  signal := 0xFF
  seed := 0
  stitch := 0
  start := 0
  dests := []
  wait := .no
  saved := false
  ended := none

/-- A tile's vector engine that runs a program. -/
def running (p : Prog) : State := opened.setProg (.tile 0) (some p)
def u0 : VUnit := .tile 0
def s0 : State := running prog0

/-- The unit's program may execute; the word at its PC is another node's, and is not judged. -/
def Idle (s : State) (u : VUnit) (p : Prog) : Prop :=
  (s.progOf u = some p ∧ p.ended = none ∧ p.saved = false ∧ p.wait = .no) ∧ s.unitParked u = false ∧ s.accesses = [] ∧
    s.fetchWord u = none
theorem ready_of {s : State} {u : VUnit} {p : Prog} (h : Idle s u p) (i : Instr) : Ready s u p i := by
  obtain ⟨⟨h1, h2, h3, h4⟩, h5, h6, h7⟩ := h
  exact ⟨h1, h2, h3, h4, h5, by simp [h6], by simp [h7]⟩
theorem vready_of {s : State} {u : VUnit} {p : Prog} (h : Idle s u p) (hb : p.vbad = false) (hl : p.vl ≤ 8192 / p.ew) (i : Instr) :
    VReady s u p i := ⟨ready_of h i, hb, hl⟩
theorem idle0 : Idle s0 u0 prog0 := by unfold Idle; decide +kernel
theorem witness_ready (i : Instr) : Ready s0 u0 prog0 i := ready_of idle0 i
/-- A program whose PC lies in the package's own memory, where a word is. -/
def fetched (w : List Byte) : State := (running { prog0 with pc := 0xFFFF000000001000 }).storeBytes 0x1000 w
/-- ADD x5, x1, x2 by Table 7-2: MAJ 0, FN 0, D 5 in bits 9:5, A 1 in 14:10, B 2 in 19:15. -/
theorem witness_ready_word : Ready (fetched (natBytes 4 (5 * 2 ^ 5 + 1 * 2 ^ 10 + 2 * 2 ^ 15))) u0 { prog0 with pc := 0xFFFF000000001000 } (.add u0 5 1 2) := by
  refine ⟨by decide +kernel, by decide, by decide, by decide, by decide +kernel, by decide +kernel, ?_⟩
  intro w h
  have e : (fetched (natBytes 4 (5 * 2 ^ 5 + 1 * 2 ^ 10 + 2 * 2 ^ 15))).fetchWord u0 = some (BitVec.ofNat 32 (5 * 2 ^ 5 + 1 * 2 ^ 10 + 2 * 2 ^ 15)) := by decide +kernel
  rw [e] at h
  cases h
  decide +kernel

theorem witness_scalar_load : s0.replLoad (addrOf prog0 1 0) = none ∧ OwnRead s0 (addrOf prog0 1 0) 8 := by
  unfold OwnRead OwnClean; decide +kernel
theorem witness_scalar_remote : addrOf prog0 4 0 % 8 = 0 ∧ s0.replLoad (addrOf prog0 4 0) = none ∧
    s0.isLocal (addrOf prog0 4 0) = false ∧ devAddr (addrOf prog0 4 0) < 2 ^ 41 := by decide +kernel
/-- What the program asked node 5 for has come. -/
def answeredState (k : AccKind) : State :=
  { running { prog0 with wait := .remote 0 } with accesses := [⟨progReq u0, 0x5000000000040, k, true, some (5, false)⟩] }
theorem answered_unjudged : ∀ k ∈ [AccKind.read false, .atomic 0 0 0], (answeredState k).fetchWord u0 = none := by decide +kernel
theorem witness_scalar_answered (i : Instr) : ∀ k ∈ [AccKind.read false, .atomic 0 0 0], Awaiting (answeredState k) u0
    { prog0 with wait := .remote 0 } i ⟨progReq u0, addrOf prog0 4 0 / 32 * 32, k, true, some (5, false)⟩ := by
  intro k hk
  simp only [List.mem_cons, List.not_mem_nil, or_false] at hk
  rcases hk with rfl | rfl <;>
  · refine ⟨by decide +kernel, rfl, rfl, ⟨0, rfl⟩, by decide +kernel, by decide +kernel, fun w h => ?_⟩
    rw [answered_unjudged _ (by decide)] at h
    cases h
theorem witness_scalar_store : NotHeld s0 u0 (addrOf prog0 1 0) ∧ OwnWrite s0 (addrOf prog0 1 0) 8 ∧
    s0.readFails (devAddr (addrOf prog0 1 0)) 8 = false := by unfold NotHeld OwnWrite OwnClean; decide +kernel
theorem witness_jumpr : (prog0.xr 2).toNat % 4 = 0 := by decide +kernel
theorem test_add : ((after (.add u0 5 1 2) s0).progOf u0).map (fun p => (p.xr 5, p.pc)) =
    some (0xFFFF000000000044, 0x1004) := by decide +kernel
theorem test_store : (after (.stH u0 1 3 2) s0).bytes 64 6 = [0, 0, 0xFF, 0xFF, 0, 0] := by decide +kernel
theorem test_x0 : ((after (.add u0 0 1 2) s0).progOf u0).map (fun p => p.xr 0) = some 0 := by decide +kernel
theorem test_fadd : ((after (.fadd u0 2 1 1 false) s0).progOf u0).map (fun p => p.fr 2) =
    some 0x4008000000000000 := by decide +kernel

/-! ## Vector instructions: witnesses -/

def fields0 : VFields := ⟨false, 0, 0, 4, 0, false, false⟩
def fp32 : Prog := { prog0 with vtype := 6 }
def fp64 : Prog := { prog0 with vtype := 3 }

theorem witness_vready (i : Instr) : VReady s0 u0 prog0 i ∧ VReady (running fp32) u0 fp32 i :=
  ⟨vready_of idle0 (by decide) (by decide) i, vready_of (by unfold Idle; decide +kernel) (by decide) (by decide) i⟩
theorem witness_vector_integer : fields0.m1 = false ∧ fields0.d.val % 2 = 0 ∧ prog0.ew ≠ 64 := by decide +kernel
theorem witness_vector_fp : fp32.fpFmt = some .b32 ∧ wideFmt .b32 = some .b64 ∧ fp32.ew = 32 := by decide +kernel
theorem witness_vector_unary : fields0.sc = false ∧ fields0.b = 0 ∧ fields0.a = 0 ∧ (0 : Nat) < 3 := by decide +kernel
theorem witness_vector_compare : fields0.d.val < 8 ∧
    (∀ k, Claims.Act prog0 fields0 k → poisEl prog0 fields0.b prog0.ew k = false ∧ poisA prog0 fields0 prog0.ew k = false) ∧
    ∀ k, Claims.Act fp32 fields0 k → poisEl fp32 fields0.b 32 k = false ∧ poisA fp32 fields0 32 k = false :=
  ⟨by decide, fun _ _ => ⟨rfl, rfl⟩, fun _ _ => ⟨rfl, rfl⟩⟩
theorem witness_vfupd : fp32.fpFmt = some .b32 ∧
    (⟨false, 3, 2, 4, 0, false, false⟩ : VFields).a ≠ 4 ∧ (⟨false, 3, 2, 4, 0, false, false⟩ : VFields).a ≠ 3 := by
  decide +kernel
theorem witness_vfcvt : cvtFmt fp32.fmtCode = some (.plain .b32) ∧ cvtFmt 2 = some (.plain .b16) ∧
    (32 * fp32.vl ≤ 8192 ∧ (4 : Fin 32).val % 2 = 0 ∧ (4 : Fin 32).val < 31) := by decide +kernel
theorem witness_reductions (i : Instr) : prog0.vl ≠ 0 ∧ VReady (running { prog0 with vl := 0 }) u0 { prog0 with vl := 0 } i :=
  ⟨by decide, vready_of (by unfold Idle; decide +kernel) (by decide) (by decide) i⟩
theorem witness_args : fields0.a = 0 ∧ (∀ k, Claims.Act prog0 fields0 k → poisEl prog0 fields0.b prog0.ew k = false) ∧
    (∃ k, Claims.Act prog0 fields0 k) ∧ ∀ k, Claims.Act fp32 fields0 k → poisEl fp32 fields0.b fp32.ew k = false :=
  ⟨rfl, fun _ _ => rfl, ⟨0, by unfold Claims.Act; decide +kernel⟩, fun _ _ => rfl⟩
theorem witness_clean : Clean prog0 fields0.a ∧ Clean prog0 fields0.b ∧ Clean prog0 fields0.d := by unfold Clean; decide +kernel

/-- The address of a unit-stride and of an indexed access is byte 64, the indices being zeros. -/
def fields1 : VFields := ⟨false, 0, 1, 4, 0, false, false⟩

theorem witness_elems : (∀ ok ∈ [OwnRead, OwnWrite], ElemsOk ok s0 prog0 fields1 0 ∧ ElemsOk ok s0 prog0 fields1 2 ∧
    ElemsOk ok s0 prog0 fields1 6) ∧ fields1.z = false ∧ Clean prog0 fields1.d := by
  have h : ∀ fn ∈ [(0 : BitVec 3), 2, 6], ∀ k, k < 4 →
      OwnRead s0 (vaddr prog0 fields1 fn k) (prog0.ew / 8) ∧ OwnWrite s0 (vaddr prog0 fields1 fn k) (prog0.ew / 8) ∧
        (fn.toNat % 4 = 2 → (if fn.getLsbD 2 then 64 else 32) * (k + 1) ≤ 8192 ∧
          poisEl prog0 fields1.b (if fn.getLsbD 2 then 64 else 32) k = false) := by
    unfold OwnRead OwnWrite OwnClean; decide +kernel
  refine ⟨fun ok hk => ?_, rfl, by unfold Clean; decide +kernel⟩
  have g (fn) (hf : fn ∈ [(0 : BitVec 3), 2, 6]) (k : Nat) (hl : k < 4) : ok s0 (vaddr prog0 fields1 fn k) (prog0.ew / 8) := by
    simp only [List.mem_cons, List.not_mem_nil, or_false] at hk
    rcases hk with rfl | rfl
    · exact (h fn hf k hl).1
    · exact (h fn hf k hl).2.1
  exact ⟨⟨by decide, rfl, fun _ => rfl, fun k a => ⟨g 0 (by decide) k a.1, (h 0 (by decide) k a.1).2.2⟩⟩,
    ⟨by decide, rfl, fun _ => rfl, fun k a => ⟨g 2 (by decide) k a.1, (h 2 (by decide) k a.1).2.2⟩⟩,
    ⟨by decide, rfl, fun _ => rfl, fun k a => ⟨g 6 (by decide) k a.1, (h 6 (by decide) k a.1).2.2⟩⟩⟩
theorem witness_elems_free : ∀ fn ∈ [(0 : BitVec 3), 2, 6], ∀ k, k < 4 → s0.replLoad (vaddr prog0 fields1 fn k) = none ∧
    NotHeld s0 u0 (vaddr prog0 fields1 fn k) := by unfold NotHeld; decide +kernel
theorem witness_whole : WholeOk OwnRead s0 prog0 fields1 ∧ WholeOk OwnWrite s0 prog0 fields1 ∧ prog0.vl ≠ 0 ∧ (∀ g, g < 32 → s0.replLoad ((prog0.xr fields1.a).toNat + 32 * g) = none) ∧
    ∀ g, g < 32 → NotHeld s0 u0 ((prog0.xr fields1.a).toNat + 32 * g) := by
  unfold WholeOk OwnRead OwnWrite OwnClean NotHeld; decide +kernel
theorem witness_scatter : prog0.fpFmt = none ∧ ∀ k, k < 4 → ∀ j, j < 4 →
    devAddr (vaddr prog0 fields1 2 k) = devAddr (vaddr prog0 fields1 2 j) →
    vaddr prog0 fields1 2 k = vaddr prog0 fields1 2 j := by decide +kernel
theorem witness_config : (prog0.xr 3).extractLsb' 7 2 = 3 ∧ (prog0.xr 2).extractLsb' 7 2 ≠ 3 ∧
    (prog0.xr 2).extractLsb' 11 20 = 0 := by decide +kernel

/-- A tile that holds a block. -/
def heldState (p : Prog) : State := (running p).setHeld 0 (some ⟨0, [[⟨5, 0, 0, false⟩]]⟩)
theorem witness_vaccr (i : Instr) : VReady (heldState fp32) u0 fp32 i ∧ (heldState fp32).heldOf 0 = some ⟨0, [[⟨5, 0, 0, false⟩]]⟩ ∧
    (fp32.xr 2).toNat ≤ 127 ∧ fp32.fpFmt = some .b32 ∧ VReady (heldState fp64) u0 fp64 i ∧ fp64.ew = 64 :=
  ⟨vready_of (by unfold Idle; decide +kernel) (by decide) (by decide) i, by decide +kernel, by decide, by decide +kernel,
    vready_of (by unfold Idle; decide +kernel) (by decide) (by decide) i, by decide⟩
theorem witness_rows : (fp32.xr 2).toNat ≠ 0 ∧ (decodeNum .b32 fp32.vsmbeta.toNat).isFin = true ∧
    Machine.Num.lt .zero (decodeNum .b32 fp32.vsmbeta.toNat) = true ∧ (fp32.xr 2).toNat ≤ 8192 / fp32.ew ∧
    (decodeNum .b32 fp32.vcatt.toNat).isFin = true ∧ (decodeNum .b32 fp32.vcatt.toNat).isNeg = false := by decide +kernel
theorem witness_draws : fp32.ew = 32 ∧ 0x10 ≤ (fp32.xr 1).toNat % 256 := by decide +kernel

theorem test_vadd_lanes : ((after (.vadd u0 ⟨true, 2, 2, 4, 0, false, false⟩ ) (running fp32)).progOf u0).map
    (fun p => (el p 4 32 0, el p 4 32 3, el p 4 32 4)) = some (4, 4, 0) := by decide +kernel
theorem test_vcrrd_vl : ((after (.vcrrd u0 ⟨false, 0, 0, 5, 0, false, false⟩) s0).progOf u0).map (fun p => p.xr 5) =
    some 4 := by decide +kernel

/-! ## Programs, tiles, solver and blocks: witnesses -/

/-- A program that wrote to node 5, a request to which is outstanding. -/
def prog5 : Prog := { prog0 with dests := [5] }
def state5 : State := { running prog5 with outst := [(5, 1)] }
theorem witness_fence (i : Instr) : Fenced s0 u0 prog0 ∧ Ready state5 u0 prog5 i ∧ ¬ Fenced state5 u0 prog5 :=
  ⟨by unfold Fenced; decide +kernel, ready_of (by unfold Idle; decide +kernel) i, by unfold Fenced; decide +kernel⟩
theorem witness_fence_complete : (running { prog0 with wait := .fence }).progOf u0 = some { prog0 with wait := .fence } ∧
    Fenced (running { prog0 with wait := .fence }) u0 { prog0 with wait := .fence } := by unfold Fenced; decide +kernel
def coreState (p : Prog) : State := opened.setProg (.core 0) (some p)
theorem witness_waitsc (i : Instr) : (prog0.xr 2).toNat < 256 ∧ (prog0.xr 0).toNat ≤ s0.syncCtr (prog0.xr 2).toNat ∧
    Ready (coreState prog0) (.core 0) prog0 i ∧ (coreState prog0).syncCtr (prog0.xr 2).toNat < (prog0.xr 2).toNat :=
  ⟨by decide, by decide +kernel, ready_of (by unfold Idle; decide +kernel) i, by decide +kernel⟩
theorem witness_wait_satisfied : let q := { prog0 with wait := .waitsc 4 1 }
    let t := { coreState q with sync := [(4, 1)] }
    t.progOf (.core 0) = some q ∧ q.saved = false ∧ q.ended = none ∧ 1 ≤ t.syncCtr 4 := by decide +kernel
theorem witness_program_ends (i : Instr) : prog0.vbad = false ∧ VUnit.tile 0 = u0 ∧
    Ready (running { prog0 with vtype := 0x80000000 }) u0 { prog0 with vtype := 0x80000000 } i ∧
    ({ prog0 with vtype := 0x80000000 } : Prog).vbad = true ∧ addrOf prog0 1 1 % 8 ≠ 0 :=
  ⟨by decide, rfl, ready_of (by unfold Idle; decide +kernel) i, by decide, by decide⟩
theorem witness_interrupt : s0.dbgLevel < 2 ∧ 2 ≤ (s0.setRegF Reg.secStatus 6 2 2).dbgLevel ∧
    (s0.setRegF Reg.secStatus 6 2 2).progOf u0 = some prog0 := by decide +kernel

/-- A saved program, and its context: its format is 1, and everything else that its CRC covers is 0. -/
def progS : Prog := { prog0 with saved := true }
def stateBad : State := running progS
def stateCtx : State := { running progS with mem := [(0, 1)] }
theorem ctx_byte (a : Nat) (h : 0 < a) : stateCtx.byte a = 0 := by
  show (if a = 0 then (1 : Byte) else 0) = 0
  exact if_neg (by omega)
theorem crc_step_zero : crcBits 8 (0 ^^^ ((0 : Byte).toNat * 2 ^ 56)) = 0 := by decide +kernel
theorem crc_zeros (l : List Byte) (h : ∀ b ∈ l, b = 0) : crc64 l = 0 := by
  unfold crc64
  induction l with
  | nil => rfl
  | cons b l ih => rw [List.foldl_cons, h b (by simp), crc_step_zero]; exact ih fun c hc => h c (by simp [hc])
theorem mem_upFrom (a n x : Nat) (h : x ∈ upFrom a n) : x < a + n := by
  induction n generalizing a with
  | zero => simp [upFrom] at h
  | succ n ih =>
    simp only [upFrom, List.mem_cons] at h
    rcases h with h | h
    · omega
    · have := ih _ h; omega
/-- The first 296,960 bytes of memory may be read, and nothing of the memory waits. -/
structure LowFree (s : State) : Prop where
  access : ∀ a, a < 296960 → s.accessible a = true ∧ s.region a ≠ .host
  noRepl : s.replEntries = []
  noLines : s.hostLines = [] ∧ s.retiring = [] ∧ s.memHeld = []
  noErrs : s.hostErrs = [] ∧ s.ideBad = []
theorem low_accessible (s : State) (d n : Nat) (hn : 0 < n) (h : ∀ a, a < d + n → s.accessible a = true) :
    firstRefused s.accessible d n = none := by
  unfold firstRefused
  rw [List.find?_eq_none]
  intro x hx
  obtain ⟨g, hg, rfl⟩ := List.mem_map.mp hx
  have := mem_upFrom _ _ _ (by simpa [granules, Nat.pos_iff_ne_zero.mp hn] using hg)
  simp [h (max d (32 * g)) (by omega)]
/-- The pages of the context area. -/
theorem ctx_pages : pageParts progS.ctx 296960 = (List.range 73).map fun k => (progS.ctx + 4096 * k, min 4096 (296960 - 4096 * k)) := by
  decide +kernel
theorem page_addr (s : State) (hl : s.isLocal progS.ctx = true) : ∀ k, k < 73 → devAddr (progS.ctx + 4096 * k) = 4096 * k ∧
    s.isLocal (progS.ctx + 4096 * k) = true := by
  intro k hk
  have h : ∀ k, k < 73 → devAddr (progS.ctx + 4096 * k) = 4096 * k ∧
    (progS.ctx + 4096 * k) / 2 ^ 48 = progS.ctx / 2 ^ 48 := by decide +kernel
  refine ⟨(h k hk).1, ?_⟩
  unfold State.isLocal at hl ⊢
  rw [(h k hk).2]
  exact hl
theorem bytes_join (s : State) (a n m : Nat) : s.bytes a n ++ s.bytes (a + n) m = s.bytes a (n + m) := by
  apply List.ext_getElem
  · simp [State.bytes]
  · intro i h1 h2
    simp only [State.bytes, List.getElem_append, List.length_map, List.length_range, List.getElem_map, List.getElem_range]
    split
    · rfl
    · congr 1; simp at h1; omega
theorem bytes_pages (s : State) (m : Nat) : ((List.range m).flatMap fun k => s.bytes (4096 * k) 4096) = s.bytes 0 (4096 * m) := by
  induction m with
  | zero => simp [State.bytes]
  | succ m ih =>
    rw [List.range_succ, List.flatMap_append, ih]
    simpa [Nat.mul_succ] using bytes_join s 0 (4096 * m) 4096
theorem page_target (s : State) (h : LowFree s) (ga : Nat) : s.loadTarget ga = (ga, false) := by
  have : s.replLoad ga = none := by unfold State.replLoad; rw [h.noRepl]; rfl
  unfold State.loadTarget
  rw [this]
theorem page_clean (s : State) (h : LowFree s) (a n : Nat) (hn : 0 < n) (ha : a + n ≤ 296960) :
    firstRefused s.accessible a n = none ∧ s.readFails a n = false := by
  refine ⟨low_accessible s a n hn fun x hx => (h.access x (by omega)).1, ?_⟩
  have hr := (h.access a (by omega)).2
  unfold State.readFails State.streamFails
  simp [hr]
theorem page_size (k : Nat) (hk : k < 73) : 0 < min 4096 (296960 - 4096 * k) ∧ 4096 * k + min 4096 (296960 - 4096 * k) ≤ 296960 := by
  omega
theorem page_load (s : State) (r : Req) (h : LowFree s) (hl : s.isLocal progS.ctx = true) (k : Nat) (hk : k < 73) :
    (s.loadPart r (progS.ctx + 4096 * k, min 4096 (296960 - 4096 * k))).1 = s.bytes (4096 * k) (min 4096 (296960 - 4096 * k)) ∧
    s.loadPartSt r (progS.ctx + 4096 * k, min 4096 (296960 - 4096 * k)) = s := by
  obtain ⟨ha, hi⟩ := page_addr s hl k hk
  obtain ⟨hn, hm⟩ := page_size k hk
  obtain ⟨hf, he⟩ := page_clean s h _ _ hn hm
  constructor
  · simp only [State.loadPart, page_target s h, hi, if_true, ha, State.load, hf]
  · have hb (a : Nat) (w : Bool) : s.lineBusy a w = false := by
      unfold State.lineBusy
      rw [h.noLines.1, h.noLines.2.1, h.noLines.2.2]
      rfl
    have hr := (h.access (4096 * k) (by omega)).2
    simp only [State.loadPartSt, page_target s h, Bool.false_eq_true, if_false, hi, if_true, ha, State.loadEvent, hf, he, State.hostBytes,
      if_neg hr, State.needOwn]
    generalize granules _ _ = l
    induction l with
    | nil => rfl
    | cons g l ih => rw [List.foldl_cons]; simpa [hb] using ih
theorem flat_congr {α β : Type} (l : List α) (f g : α → List β) (h : ∀ k ∈ l, f k = g k) : l.flatMap f = l.flatMap g := by
  induction l with
  | nil => rfl
  | cons k l ih => simp [List.flatMap_cons, h k (by simp), ih fun j hj => h j (by simp [hj])]
theorem gload_parts (s : State) (r : Req) (ga n : Nat) (l : List (Nat × Nat)) (h : pageParts ga n = l) (h1 : l.length ≠ 1) :
    (s.gload r ga n).1 = l.flatMap fun p => (s.loadPart r p).1 := by
  unfold State.gload
  rw [h]
  split
  · simp at h1
  · rfl
theorem bytes_parts (s : State) (n m : Nat) (h : 4096 * m ≤ n) (h1 : n ≤ 4096 * (m + 1)) :
    ((List.range (m + 1)).flatMap fun k => s.bytes (4096 * k) (min 4096 (n - 4096 * k))) = s.bytes 0 n := by
  have e := flat_congr (List.range m) (fun k => s.bytes (4096 * k) (min 4096 (n - 4096 * k))) (fun k => s.bytes (4096 * k) 4096)
    fun k hk => by
      have : k < m := by simpa using hk
      rw [Nat.min_eq_left (by omega)]
  rw [List.range_succ, List.flatMap_append, e, bytes_pages, List.flatMap_singleton, Nat.min_eq_right (by omega),
    show s.bytes (4096 * m) _ = s.bytes (0 + 4096 * m) _ from by rw [Nat.zero_add], bytes_join, Nat.add_sub_cancel' h]
theorem ctx_load (s : State) (h : LowFree s) (hl : s.isLocal progS.ctx = true) : ctxOf s u0 progS = s.bytes 0 296960 := by
  unfold ctxOf
  rw [gload_parts _ _ _ _ _ ctx_pages (by rw [List.length_map, List.length_range]; decide), List.flatMap_map,
    flat_congr _ _ _ fun k hk => (page_load s _ h hl k (List.mem_range.mp hk)).1]
  exact bytes_parts s 296960 72 (by decide) (by decide)
theorem ctx_there (s : State) (h : LowFree s) (hl : s.isLocal progS.ctx = true) (hs : s.accesses = []) : CtxThere s u0 progS := by
  have e : s.gloadSt (progReq u0) progS.ctx 296960 = s := by
    unfold State.gloadSt
    rw [ctx_pages, List.foldl_map]
    have (l : List Nat) (hk : ∀ k ∈ l, k < 73) : l.foldl (fun t k => t.loadPartSt (progReq u0) (progS.ctx + 4096 * k, min 4096 (296960 - 4096 * k))) s = s := by
      induction l with
      | nil => rfl
      | cons k l ih =>
        rw [List.foldl_cons, (page_load s _ h hl k (hk k (by simp))).2]
        exact ih fun j hj => hk j (by simp [hj])
    exact this _ fun k hk => List.mem_range.mp hk
  unfold CtxThere
  rw [e, hs]
  intro _ hm
  cases hm
theorem bytes_take (s : State) (k n : Nat) (h : k ≤ n) : (s.bytes 0 n).take k = s.bytes 0 k := by
  simp [State.bytes, ← List.map_take, List.take_range, Nat.min_eq_left h]
theorem bytes_slice (s : State) (j k n : Nat) (h : j + k ≤ n) : ((s.bytes 0 n).drop j).take k = s.bytes j k := by
  apply List.ext_getElem
  · simp [State.bytes]; omega
  · intro i h1 h2; simp [State.bytes]
theorem low_open (s : State) (hs : s.regB Reg.memStatus 3 = true) (hu : 296960 ≤ usable s.grade) (hp : 296960 ≤ s.pocketBase) :
    ∀ a, a < 296960 → s.accessible a = true := by
  intro a ha
  unfold State.accessible State.region
  rw [if_pos (by omega), hs, if_neg (by decide), if_pos (by omega)]
theorem low_free (s : State) (hs : s.regB Reg.memStatus 3 = true) (hu : 296960 ≤ usable s.grade) (hp : 296960 ≤ s.pocketBase)
    (hr : s.replEntries = [] ∧ s.hostErrs = [] ∧ s.ideBad = []) (hl : s.hostLines = [] ∧ s.retiring = [] ∧ s.memHeld = []) : LowFree s where
  access a ha := ⟨low_open s hs hu hp a ha, by
    unfold State.region
    rw [if_pos (by omega), hs, if_neg (by decide), if_pos (by omega)]
    decide⟩
  noRepl := hr.1
  noLines := hl
  noErrs := hr.2
theorem ctx_free : LowFree stateCtx ∧ LowFree stateBad :=
  ⟨low_free _ (by decide +kernel) (by decide +kernel) (by decide +kernel) (by decide +kernel) (by decide +kernel),
    low_free _ (by decide +kernel) (by decide +kernel) (by decide +kernel) (by decide +kernel) (by decide +kernel)⟩
theorem witness_context : (progS.saved = true ∧ stateCtx.unitParked u0 = false) ∧ (stateCtx.gload (progReq u0) progS.ctx 0x8800).2 = false ∧
    CtxThere stateCtx u0 progS ∧ le (ctxOf stateCtx u0 progS) 0 4 = 1 ∧
    crc64 ((ctxOf stateCtx u0 progS).drop 0x40) = le (ctxOf stateCtx u0 progS) 0x20 8 := by
  have e := ctx_load stateCtx ctx_free.1 (by decide +kernel)
  refine ⟨by decide +kernel, by decide +kernel, ctx_there _ ctx_free.1 (by decide +kernel) (by decide +kernel), ?_, ?_⟩
  · rw [e, le, bytes_slice _ _ _ _ (by decide)]; decide +kernel
  · rw [e, crc_zeros]
    · rw [le, bytes_slice _ _ _ _ (by decide)]; decide +kernel
    · intro b hb
      obtain ⟨i, hi, rfl⟩ := List.getElem_of_mem hb
      simp only [State.bytes, List.getElem_drop, List.getElem_map, List.getElem_range]
      exact ctx_byte _ (by omega)
theorem witness_bad_context : (stateBad.gload (progReq u0) progS.ctx 0x8800).2 = false ∧ CtxThere stateBad u0 progS ∧
    le (ctxOf stateBad u0 progS) 0 4 ≠ 1 := by
  refine ⟨by decide +kernel, ctx_there _ ctx_free.2 (by decide +kernel) (by decide +kernel), ?_⟩
  rw [ctx_load stateBad ctx_free.2 (by decide +kernel), le, bytes_slice _ _ _ _ (by decide)]
  decide +kernel
/-- A word that spells ADD x0, x0, x0, where the command is SUB's, and a word that no table lists. -/
theorem witness_fetch : (fetched []).fetchWord u0 = some 0 ∧ decodeVirulax u0 0 = some (.add u0 0 0 0) ∧
    (Instr.add u0 0 0 0 ≠ .sub u0 0 0 0) ∧ (fetched (natBytes 4 0x28000000)).fetchWord u0 = some 0x28000000 ∧
    decodeVirulax u0 0x28000000 = none ∧ (fetched []).accesses = [] := by decide +kernel

/-- A descriptor of `n` bytes from its fields: offset, size and value. -/
def desc (n : Nat) (l : List (Nat × Nat × Nat)) : List Byte :=
  l.foldl (fun b f => b.take f.1 ++ natBytes f.2.1 f.2.2 ++ b.drop (f.1 + f.2.1)) (List.replicate n 0)

/-- The addresses of A, B and C, the pitches of 64 bytes, and no signal. -/
def abc : List (Nat × Nat × Nat) := [(21, 1, 0xFF), (24, 8, 0xFFFF000000000000), (32, 8, 0xFFFF000000001000),
  (40, 8, 0xFFFF000000200000)]
def pitches : List (Nat × Nat × Nat) := [(48, 4, 64), (52, 4, 64), (56, 4, 64)]
def mnk : List (Nat × Nat × Nat) := [(8, 2, 1), (10, 2, 1), (12, 4, 1)]
def taskBody : Nat → List Byte
  | 1 => desc 128 ([(0, 4, 1), (6, 1, 2), (7, 1, 2), (16, 4, 1)] ++ mnk ++ abc ++ pitches)
  | 2 => desc 128 ([(0, 4, 2 + 5 * 256)] ++ mnk ++ abc ++ pitches)
  | 3 => desc 128 ([(0, 4, 3), (6, 1, 2), (7, 1, 2)] ++ mnk ++ abc.take 3 ++ pitches.take 2)
  | 4 => desc 128 ([(0, 4, 4), (6, 1, 0x1F), (7, 1, 0x1F), (16, 4, 1)] ++ mnk ++ abc ++ [(48, 4, 64), (56, 4, 64)])
  | 5 => desc 128 ([(0, 4, 5)] ++ mnk ++ abc)
  | _ => desc 128 [(0, 4, 1)]
def taskRef (k : Nat) : TaskRef := ⟨0, 0, 0x8000, taskBody k, false⟩
def tasked (k : Nat) : State := opened.setQueue 0 [taskRef k]
theorem witness_tasks : ∀ k ∈ [1, 2, 3, 4, 5], TaskReady (tasked k) 0 k (taskRef k) ∧ (tasked k).accesses = [] := by
  unfold TaskReady; decide +kernel
theorem witness_task_data : ((tasked 1).runProduct 0 (taskRef 1) (tdescOf (taskBody 1)) []).lacks (tileReq 0) = false ∧
    ((tasked 2).runProduct 0 (taskRef 2) (tdescOf (taskBody 2)) []).lacks (tileReq 0) = false ∧
    ((tasked 3).runExponent 0 (taskRef 3) (tdescOf (taskBody 3))).lacks (tileReq 0) = false ∧
    ((tasked 4).runCombine 0 (taskRef 4) (tdescOf (taskBody 4))).lacks (tileReq 0) = false := by decide +kernel
/-- The tasks with A in node 5's memory, which they must ask for. -/
def farTask (k : Nat) : TaskRef := ⟨0, 0, 0x8000, ((taskBody k).take 30) ++ [5, 0] ++ ((taskBody k).drop 32), false⟩
def farTasked (k : Nat) : State := opened.setQueue 0 [farTask k]
theorem witness_task_lacks : (∀ k ∈ [1, 2, 3, 4], TaskReady (farTasked k) 0 k (farTask k)) ∧
    ((farTasked 1).runProduct 0 (farTask 1) (tdescOf (farTask 1).body) []).lacks (tileReq 0) = true ∧
    ((farTasked 2).runProduct 0 (farTask 2) (tdescOf (farTask 2).body) []).lacks (tileReq 0) = true ∧
    ((farTasked 3).runExponent 0 (farTask 3) (tdescOf (farTask 3).body)).lacks (tileReq 0) = true ∧
    ((farTasked 4).runCombine 0 (farTask 4) (tdescOf (farTask 4).body)).lacks (tileReq 0) = true := by
  unfold TaskReady; decide +kernel
theorem witness_bad_task : (tasked 6).readyTask 0 1 = some (taskRef 6) ∧ (tasked 6).tdescJudge (tdescOf (taskRef 6).body) = 0x20 := by
  decide +kernel
def taskRun (k : Nat) : State := opened.setRun 0 (some ⟨taskRef k, false, 0⟩)
theorem witness_complete : (taskRun 1).runOf 0 = some ⟨taskRef 1, false, 0⟩ ∧ (∀ q ∈ (taskRun 1).wroteTo, q.1 ≠ tileReq 0) ∧
    (∀ r ∈ (taskRun 1).heldReqs, r ≠ tileReq 0) ∧ PlainByte (taskRun 1) ((taskRef 1).addr + 3) := by
  unfold PlainByte; decide +kernel
/-- Six tasks in the queue of tile 0, and load balancing on. -/
def crowded : State := (opened.setReg Reg.detCfg 1).setQueue 0 (List.replicate 6 (taskRef 1))
theorem witness_migrate : crowded.regB Reg.detCfg 0 = true ∧ (0 : Fin 256) ≠ 1 ∧ (0 : Fin 256).val / 64 = (1 : Fin 256).val / 64 ∧ (1 : Fin 256).val < numTiles crowded.grade ∧
    crowded.queueOf 1 = [] ∧ crowded.heldOf 1 = none ∧ crowded.runOf 1 = none ∧ crowded.migrant (crowded.queueOf 0) = some 4 ∧
    (crowded.queueOf 0)[4]? = some (taskRef 1) := by decide +kernel
theorem witness_partials : [Machine.Num.fin 3 0, .fin (-1) 0].Perm [.fin (-1) 0, .fin 3 0] ∧
    -2 ^ 95 ≤ (accOf 0 ([Machine.Num.fin 3 0] ++ [.fin (-1) 0])).acc ∧
    (accOf 0 ([Machine.Num.fin 3 0] ++ [.fin (-1) 0])).acc < 2 ^ 95 :=
  ⟨List.Perm.swap _ _ _, by decide +kernel, by decide +kernel⟩

/-- Batches: an LU of one item on engine 0, a PCG of one item on core 0, and one that is malformed. -/
def luBatch : Batch := ⟨0x8000, desc 128 [(0, 4, 1), (6, 2, 1), (8, 4, 2), (12, 2, 1), (17, 1, 0xFF), (24, 8, 0xFFFF000000000000),
  (32, 8, 0xFFFF000000000000), (56, 8, 0xFFFF000000010000), (64, 8, 0xFFFF000000020000), (72, 4, 64), (80, 4, 64),
  (88, 4, 64)], 0, 0, [0], false⟩
def pcgBatch : Batch := ⟨0x8000, desc 128 [(0, 4, 9), (6, 2, 1), (8, 4, 1), (12, 2, 1), (14, 2, 1), (17, 1, 0xFF), (20, 4, 10),
  (24, 8, 0xFFFF000000000000), (40, 8, 0xFFFF000000010000), (48, 8, 0xFFFF000000020000), (56, 8, 0xFFFF000000030000),
  (64, 8, 0xFFFF000000040000), (72, 4, 64), (76, 4, 64), (80, 4, 64), (84, 4, 64), (88, 4, 64)], 0, 0, [256], false⟩
def badBatch : Batch := ⟨0x8000, desc 128 [(0, 4, 1), (6, 2, 1)], 0, 0, [0], false⟩
def batched (b : Batch) : State := ((opened.setBatch 1 (some b)).setEngQueue 0 [(1, false)]).setCoreQueue 0 [.share 1 false]
theorem witness_lu : (batched luBatch).engHead 0 1 = some 1 ∧ (batched luBatch).batchOf 1 = some luBatch ∧
    (batched luBatch).batchJudge (bdescOf luBatch.body) = 0 ∧ shareOfUnit (bdescOf luBatch.body) 0 ≠ [] := by decide +kernel
theorem witness_bad_batch : (batched badBatch).engHead 0 1 = some 1 ∧
    (batched badBatch).batchJudge (bdescOf badBatch.body) ≠ 0 := by decide +kernel
theorem witness_pcg : (batched pcgBatch).coreQueue 0 = [.share 1 false] ∧ (bdescOf pcgBatch.body).op = 9 ∧
    (batched pcgBatch).coreBusy 0 = false ∧ (batched pcgBatch).isParked 1 0 = false ∧
    (batched pcgBatch).waitMet (bdescOf pcgBatch.body).waitId (bdescOf pcgBatch.body).waitCount = true ∧
    (batched pcgBatch).batchJudge (bdescOf pcgBatch.body) = 0 ∧ shareOfUnit (bdescOf pcgBatch.body) 0 ≠ [] := by decide +kernel
def launched (l : CoreLaunch) : State := opened.setCoreQueue 0 [.launch l false]
theorem witness_launch : (ldescOf (desc 64 [])).bad = false ∧ (ldescOf (desc 64 [(16, 8, 2)])).bad = true ∧
    (launched ⟨0, 0, 0, desc 64 []⟩).coreQueue 0 = [.launch ⟨0, 0, 0, desc 64 []⟩ false] := by decide +kernel
/-- A unit's share of an LU batch, each item the matrix of the number 1. -/
def sharing (items : List Nat) : State := ((opened.storeBytes 0 (natBytes 8 0x3FF0000000000000)).setBatch 1 (some luBatch)).setShare 0 (some ⟨1, items, [], []⟩)
theorem witness_items : (sharing [0, 1]).shareOf 0 = some ⟨1, [0, 1], [], []⟩ ∧ (sharing [0]).shareOf 0 = some ⟨1, [0], [], []⟩ ∧
    (sharing [0]).batchOf 1 = some luBatch ∧ (sharing [0]).isParked 2 0 = false ∧
    ((sharing [0, 1]).runItem 0 luBatch 1 0 0 0).lacks (keyReq 0) = false ∧
    ((sharing [0]).runItem 0 luBatch 1 0 0 0).lacks (keyReq 0) = false := by decide +kernel
/-- Two items of a group of core 0. -/
def grouping : State := (opened.setBatch 1 (some pcgBatch)).setShare 256 (some ⟨1, [], [0, 1], []⟩)
theorem witness_group : grouping.shareOf (256 + (0 : Fin 256)) = some ⟨1, [], [0, 1], []⟩ ∧ grouping.batchOf 1 = some pcgBatch ∧
    grouping.isParked 1 0 = false ∧ grouping.accesses = [] := by decide +kernel
theorem witness_batch_end : let b := { luBatch with left := [] }
    (opened.setBatch 1 (some b)).batchOf 1 = some b ∧ (∀ k ∈ (bdescOf b.body).unitKeys,
      (opened.setBatch 1 (some b)).unitOwes (keyReq k) = false) ∧ PlainByte (opened.setBatch 1 (some b)) (b.addr + 3) := by
  unfold PlainByte; decide +kernel

/-! ## The bobbin block, locks and monitors -/

theorem witness_seed : opened.reaches Reg.bobSeed = true ∧ opened.running = false ∧ opened.regB Reg.bobCtrl 0 = false ∧
    (withRegs [(Reg.bobCtrl, 1)]).regB Reg.bobCtrl 0 = true ∧ (withRegs [(Reg.bobCtrl, 1)]).reaches Reg.bobSeed = true := by
  decide +kernel
/-- A fill of two words at byte 64 of working memory. -/
def filling : State := withRegs [(Reg.memStatus, 8), (Reg.bobFillAddr, 0xFFFF000000000040), (Reg.bobFillCount, 2)]
theorem witness_fill : filling.reaches Reg.bobFillCtrl = true ∧ filling.regB Reg.bobStatus 1 = false ∧
    (filling.reg Reg.bobFillAddr).toNat % 64 = 0 ∧ (filling.reg Reg.bobFillCount).toNat = 2 ∧ filling.replHeld = [] ∧
    (filling.reg Reg.bobFillAddr).toNat + 4 * (filling.reg Reg.bobFillCount).toNat ≤ 2 ^ 64 ∧
    ∀ n, n < 2 → OwnWrite filling ((filling.reg Reg.bobFillAddr).toNat + 4 * n) 4 ∧
      filling.replStore ((filling.reg Reg.bobFillAddr).toNat + 4 * n) = false ∧
      devAddr ((filling.reg Reg.bobFillAddr).toNat + 4 * n) = devAddr (filling.reg Reg.bobFillAddr).toNat + 4 * n := by
  unfold OwnWrite OwnClean; decide +kernel
theorem witness_fill_refused : (opened.reg Reg.bobFillCount).toNat = 0 ∧ opened.reaches Reg.bobFillCtrl = true := by decide +kernel
theorem witness_fill_done : (withRegs [(Reg.bobStatus, 2)]).regB Reg.bobStatus 1 = true ∧
    (withRegs [(Reg.bobStatus, 2)]).reqs = [] ∧ (withRegs [(Reg.bobStatus, 2)]).reqQ = [] ∧
    (withRegs [(Reg.bobStatus, 2)]).heldReqs = [] := by decide +kernel
theorem witness_gen : opened.regB Reg.bobStatus 2 = false ∧ opened.reaches Reg.bobGenCtrl = true ∧
    (withRegs [(Reg.bobStatus, 4)]).regB Reg.bobStatus 2 = true := by decide +kernel
theorem witness_locks : opened.regB Reg.detCfg 31 = false ∧ (withRegs [(Reg.detCfg, 0x80000000)]).regB Reg.detCfg 31 = true ∧
    opened.reaches (Reg.tnsCfg 0) = true ∧ (0 : Fin 256).val < numTiles opened.grade ∧ opened.reaches Reg.fabCfg = true ∧
    opened.reaches Reg.colCfg = true := by decide +kernel
theorem witness_monitor : opened.regB (Reg.monCfg 0) 0 = false ∧ (1 : BitVec 32).getLsbD 0 = true ∧
    (withRegs [(Reg.monCfg 0, 1)]).regB (Reg.monCfg 0) 0 = true ∧ (0 : BitVec 32).getLsbD 0 = false := by decide +kernel

theorem test_task_matmul : ((after (.taskMatmul 0 []) (tasked 1)).runOf 0).map (fun r => r.status) = some 0 := by decide +kernel
theorem test_seed_write : (after (.seedWrite 77) opened).reg Reg.bobSeed = 77 := by decide +kernel

/-! ## Registers -/

theorem regAt_of {s : State} {off : Nat} {w : Bool}
    (h : (s.regAt off).map (fun e => (e.2, e.1.wide)) = some (off, w)) : ∃ r, s.regAt off = some (r, off) ∧ r.wide = w := by
  cases hr : s.regAt off with
  | none => simp [hr] at h
  | some e =>
    obtain ⟨r, o⟩ := e
    simp only [hr, Option.map_some, Option.some.injEq, Prod.mk.injEq] at h
    exact ⟨r, by rw [h.1], h.2⟩
/-- A 32-bit register, a 64-bit pair, and an offset with no register. -/
theorem witness_register : (∃ r, opened.regAt Reg.timCinchMargin = some (r, Reg.timCinchMargin) ∧ r.wide = false) ∧
    opened.reaches Reg.timCinchMargin = true ∧ plainOff Reg.timCinchMargin = true ∧ Reg.timCinchMargin % 4 = 0 :=
  ⟨regAt_of (by decide +kernel), by decide +kernel, by decide +kernel, by decide⟩
theorem witness_register_pair : (∃ r, opened.regAt (Reg.timPleat 63) = some (r, Reg.timPleat 63) ∧ r.wide = true) ∧
    (∃ r, opened.regAt (Reg.timPleat 63 + 4) = some (r, Reg.timPleat 63)) ∧
    opened.reaches (Reg.timPleat 63) = true ∧ opened.reaches (Reg.timPleat 63 + 4) = true ∧
    plainOff (Reg.timPleat 63) = true ∧ Reg.timPleat 63 % 8 = 0 ∧ Reg.timPleat 63 < dblBase := by
  refine ⟨regAt_of (by decide +kernel), ?_, by decide +kernel, by decide +kernel, by decide +kernel, by decide, by decide +kernel⟩
  cases h : opened.regAt (Reg.timPleat 63 + 4) with
  | none => exact absurd h (by decide +kernel)
  | some e =>
    obtain ⟨r, o⟩ := e
    have : (opened.regAt (Reg.timPleat 63 + 4)).map (·.2) = some (Reg.timPleat 63) := by decide +kernel
    rw [h] at this
    have e : o = Reg.timPleat 63 := Option.some.inj this
    exact ⟨r, by rw [e]⟩
theorem witness_no_register : opened.regAt 0x40FFFC = none ∧ opened.reaches 0x40FFFC = true ∧ plainOff 0x40FFFC = true ∧
    0x40FFFC % 4 = 0 := by decide +kernel
/-- A pair whose high word is latched. -/
theorem witness_latched : Tbl.get none ({ opened with latched := [(Reg.timPleat 63, some 7)] } : State).latched
    (Reg.timPleat 63) = some 7 ∧ Tbl.get none opened.latched (Reg.timPleat 63) = none := by decide +kernel
theorem witness_bad_access : ((3 : Nat) ≠ 4 ∧ (3 : Nat) ≠ 8) ∧ (0x400002 % 4 ≠ 0) ∧ 0x400008 % 8 = 0 := by decide
/-- The first and last absent unit of each kind in the smaller grade. -/
theorem witness_absent : numTiles Grade.lcv4 = 64 ∧ numEngines Grade.lcv4 = 16 ∧ numCores Grade.lcv4 = 128 ∧
    ({ opened with grade := .lcv4 } : State).grade = .lcv4 ∧ 0x3000000 + 0x10000 * 64 ≤ 0x3400000 ∧
    0x400FFF8 < 0x3010000 + 0x10000 * 255 + 0x10000 := by decide +kernel
theorem test_register_write : (after (.registerWrite Reg.timCinchMargin false 900) opened).reg Reg.timCinchMargin = 900 := by
  decide +kernel
theorem test_pair_write : (after (.pairHighWordWrite (Reg.timPleat 63 + 4) 5)
    (after (.pairLowWordWrite (Reg.timPleat 63) 1) opened)).reg (Reg.timPleat 63) = 0x500000001 := by decide +kernel
theorem test_pair_read : (after (.pairLowWordRead ⟨Reg.timPleat 63 + 4, false⟩) (after (.pairLowWordRead ⟨Reg.timPleat 63, false⟩)
    (withRegs [(Reg.timPleat 63, 0x500000001)]))).busOut = 5 := by decide +kernel
theorem test_bad_size : (after (.badSizeAccess 0x400002 4 false) opened).reg Reg.hubRegErr = 0x400002 := by decide +kernel

/-! ## Time, stitches, pleats and actions -/

def timed (l : List (Nat × W64)) (f : TimeSt → TimeSt) : State :=
  { withRegs ((Reg.memStatus, 8) :: (Reg.fabNode, 3) :: l) with time := f TimeSt.init }
/-- Synchronising: UNLOCKED, LOCKING with 15 good exchanges, LOCKED, and HOLDOVER with 3. -/
theorem witness_sync : ∀ k ∈ [(0, 0), (1, 15), (2, 16), (3, 3)],
    let s := timed [(Reg.timStatus, BitVec.ofNat 64 k.1)] fun t => { t with good := k.2, missed := 8 }
    s.regB Reg.timSyncCfg 0 = false ∧ s.node ≠ 0xFFFF ∧ s.regF Reg.timStatus 0 2 = k.1 ∧ s.time.good = k.2 ∧ 8 ≤ s.time.missed := by
  decide +kernel
theorem witness_master : opened.reaches Reg.timSyncCfg = true ∧ (1 : BitVec 64).getLsbD 0 = true := by decide +kernel
theorem witness_run : opened.reaches Reg.timCtrl = true ∧ opened.regB Reg.timCtrl 0 = false ∧ (1 : BitVec 32).getLsbD 0 = true ∧
    (9 : BitVec 32).getLsbD 3 = true ∧ (1 : BitVec 32).getLsbD 3 = false ∧ opened.regB Reg.timStatus 13 = false ∧
    (withRegs [(Reg.timCinchCfg, 0)]).regB Reg.timCinchCfg 0 = false := by decide +kernel
/-- At a cinch whose one child has arrived, with RUN set, not a root. -/
def cinched : State := timed [(Reg.timCtrl, 1), (Reg.timCinchCfg, 2)] fun t => { t with atCinch := true, arrived := [(5, 0)] }
theorem witness_may_arrive : MayArrive cinched ∧ cinched.time.sent = false ∧ cinched.time.faulted = false ∧
    cinched.regB Reg.timCtrl 0 = true ∧ cinched.regB Reg.timCtrl 3 = false ∧ cinched.regB Reg.timStatus 13 = false ∧
    cinched.regB Reg.timCinchCfg 0 = false ∧ cinched.reaches Reg.timCtrl = true ∧
    cinched.time.profiles = [] ∧ MayArrive (withRegs [(Reg.fabNode, 3), (Reg.timCinchCfg, 0)]) := by
  unfold MayArrive; decide +kernel
theorem witness_run_clear : (withRegs [(Reg.timCtrl, 1), (Reg.timStatus, 8)]).regB Reg.timStatus 3 = true ∧
    (withRegs [(Reg.timCtrl, 1), (Reg.timStatus, 0x2000)]).regB Reg.timStatus 13 = true ∧
    (withRegs [(Reg.timCtrl, 1)]).regB Reg.timStatus 3 = false ∧ (withRegs [(Reg.timCtrl, 1)]).regB Reg.timCtrl 0 = true ∧
    (0 : BitVec 32).getLsbD 0 = false := by decide +kernel
theorem test_run_set : (after (.runSet 1) (withRegs [(Reg.fabNode, 3), (Reg.timCinchCfg, 0)])).out.length = 1 := by decide +kernel

/-- Pleat 63 is due; its entries are of bank 0: a telemetry sample behind a host signal, both firing on every stitch. -/
def pleatDue : State := timed [] fun t => { t with due := some 63 }
theorem witness_pleat_begin : pleatDue.time.due = some 63 ∧ pleatDue.regB Reg.timStatus 13 = false ∧
    pleatDue.time.pocketFire = false ∧ ∀ e ∈ pleatDue.entriesOf 63, e.unjudged = false ∧ pleatDue.malformed e = false := by
  decide +kernel
def inPleat (f : TimeSt → TimeSt) : State := timed [] fun t => f { t with inPleat := true }
theorem witness_pleat_end : (inPleat id).time.inPleat = true ∧ (inPleat id).pleatClear = true ∧
    (inPleat id).regB Reg.timStatus 13 = false ∧ (inPleat id).time.isOpen = false ∧ (inPleat id).time.planned ≤ (inPleat id).ft ∧
    (inPleat id).time.overrun = false := by
  decide +kernel
/-- An action of the pleat, of LENGTH 1 µs, runs; fabric time is 1 µs. -/
def busyAct : Act := ⟨2, 1, none, false, 0, true, 0, 0, 0, 0, true, none, false⟩
def busyPleat : State := { inPleat fun t => { t with isOpen := true, length := 1, acc := BitVec.ofNat 82 (64000 * 2 ^ 18) } with acts := [(1, some busyAct)] }
theorem witness_pleat_busy : busyPleat.pleatDone = false ∧ busyPleat.time.isOpen = true ∧ busyPleat.time.length ≠ 0 ∧
    busyPleat.time.watched = false ∧ (busyPleat.reg Reg.timPleatStart).toNat + 64000 * busyPleat.time.length ≤ busyPleat.ft ∧
    ({ inPleat id with acts := [(1, some busyAct)] } : State).pleatDone = false := by decide +kernel
theorem witness_stitch_complete : (timed [] fun t => { t with lastEnded := true }).time.lastEnded = true := by decide

/-- A launch of the table: one descriptor at byte 0x8000 of working memory. -/
def launch (typ : Nat) : Launch where
  typ := typ
  desc := 0x8000
  count := 1
  deadline := none
  tset := 15
  compl := false
  cring := 0
  table := true
  sring := 0
  sidx := 0
  period := 1
  body := []
/-- The head of the launch queue, its descriptor in memory. -/
def launching (typ : Nat) (b : List Byte) : State :=
  ({ opened with time := { TimeSt.init with launchQ := [launch typ] } } : State).storeBytes 0x8000 b
def dmaB : List Byte := desc 64 [(0, 4, 1), (16, 8, 0xFFFF000000000000), (24, 8, 0xFFFF000000001000), (32, 4, 64)]
theorem witness_action_dma : Launching (launching 1 dmaB) 1 64 (launch 1) [] ∧
    descBytes (launching 1 dmaB) (launch 1) 64 = dmaB ∧ at_ dmaB 0 3 = 1 ∧ at_ dmaB 8 8 = 0 ∧
    (launching 1 dmaB).dmaMalformed dmaB = false := by unfold Launching; decide +kernel
theorem witness_action_task : Launching (launching 2 (taskBody 5)) 2 128 (launch 2) [] ∧
    descBytes (launching 2 (taskBody 5)) (launch 2) 128 = taskBody 5 ∧ (tdescOf (taskBody 5)).tile < numTiles .lcv8 ∧
    (tdescOf (taskBody 5)).kind = 5 := by unfold Launching; decide +kernel
theorem witness_action_batch : Launching (launching 3 luBatch.body) 3 128 (launch 3) [] ∧
    descBytes (launching 3 luBatch.body) (launch 3) 128 = luBatch.body ∧ (launch 3).deadline = none ∧
    (launching 3 luBatch.body).batchPresent (bdescOf luBatch.body) = true ∧ (bdescOf luBatch.body).opOk = true ∧
    (bdescOf luBatch.body).nunits ≠ 0 := by unfold Launching; decide +kernel
theorem witness_action_core : Launching (launching 4 (desc 64 [(4, 2, 255)])) 4 64 (launch 4) [] ∧
    (ldescOf (descBytes (launching 4 (desc 64 [(4, 2, 255)])) (launch 4) 64)).core = 255 ∧ 255 < numCores .lcv8 := by
  unfold Launching; decide +kernel
theorem witness_action_collective : Launching (launching 5 (desc 64 [])) 5 64 (launch 5) [] := by
  unfold Launching; decide +kernel
theorem witness_action_checkpoint : Launching (launching 7 (desc 64 [])) 7 64 (launch 7) [] ∧ (launching 7 []).restore = none ∧
    (launching 7 []).ckpQ.length < 4 := by unfold Launching; decide +kernel
theorem witness_action_at_once : (∀ k ∈ [6, 8], (launching k []).time.launchQ = launch k :: [] ∧ (launch k).typ = k ∧
    (launch k).count = 1 ∧ (launch k).table = true ∧ (launching k []).pendStore + 1 < 4096 ∧
    (launching k []).regB Reg.timStatus 13 = false) ∧
    (launch 6).tset < 16 ∧ Storable (launching 6 []) 0x8000 544 ∧
    (launching 6 []).poisonIn 0x8000 544 = false := by unfold Storable; decide +kernel
/-- A throttle descriptor of level 4 for engine 31. -/
def thrB : List Byte := desc 32 [(0, 4, 4 + 16 * 2), (4, 2, 31), (6, 2, 1)]
theorem witness_action_throttle : Launching (launching 9 thrB) 9 32 (launch 9) [] ∧
    descBytes (launching 9 thrB) (launch 9) 32 = thrB ∧ throttleBad thrB = false ∧
    Storable (launching 9 thrB) 0x8003 1 := by unfold Launching Storable; decide +kernel
theorem test_throttle : (Tbl.get 8 (after .actionThrottle (launching 9 thrB)).swLevel (256 * 2 + 31),
    Tbl.get 8 (after .actionThrottle (launching 9 thrB)).swLevel (256 * 2 + 30)) = (4, 8) := by decide +kernel
def act1 : Act where
  typ := 2
  left := 1
  bad := none
  compl := false
  cring := 0
  table := true
  sring := 0
  sidx := 0
  stitch := 0
  pleat := 0
  inPleat := true
  deadline := some 3
  signalled := false
def acting : State := { opened with acts := [(1, some act1)] }
/-- The same with a deadline 4,000 units on, at its lead and before it. -/
def actFar (d : Nat) : State := { opened with acts := [(1, some { act1 with deadline := some d })] }
theorem witness_deadline : acting.actOf 1 = some act1 ∧ act1.deadline = some 3 ∧ acting.batches = [] ∧
    3 ≤ acting.ft + 64 * (acting.reg Reg.timDeadlineLead).toNat ∧
    (actFar 128000).ft + 64 * ((actFar 128000).reg Reg.timDeadlineLead).toNat = 128000 ∧
    (actFar 128001).ft + 64 * ((actFar 128001).reg Reg.timDeadlineLead).toNat < 128001 := by decide +kernel

/-! ## The cinch -/

def arrival : ArriveMsg := ⟨7, 0, 0, 0, 0, 5, false⟩
theorem witness_arrival : cinched.node ≠ 0xFFFF ∧ arrival.pkey.toNat = cinched.regF Reg.timCinchPkey 0 16 ∧ arrival.stitch = cinched.stitch ∧
    (∀ c ∈ cinched.time.arrived, c.1 ≠ arrival.src.toNat) ∧ ({ arrival with start := true } : ArriveMsg).start = true ∧
    arrival.det.toNat = cinched.regF Reg.detCfg 0 3 := by decide +kernel
/-- Its arrival was sent. -/
def awaiting : State := timed [(Reg.timCinchCfg, 2)] fun t => { t with atCinch := true, sent := true, arrived := [(5, 0)] }
theorem witness_release : let m : ReleaseMsg := ⟨1, 100, false⟩
    awaiting.node ≠ 0xFFFF ∧ awaiting.time.lastRelease ≠ some (m.stitch, m.t.toNat) ∧ awaiting.regB Reg.timCinchCfg 0 = false ∧
    awaiting.time.sent = true ∧ awaiting.time.faulted = false ∧ awaiting.time.release = none ∧
    awaiting.regB Reg.timStatus 13 = false ∧
    m.stitch = (if awaiting.time.startCinch then awaiting.stitch else awaiting.stitch + 1) ∧ awaiting.ft ≤ m.t.toNat := by
  decide +kernel
/-- A release is scheduled, and a bank switch armed for its stitch, or for the next one. -/
def releasing (n : Nat) : State := timed [(Reg.timBankCtrl, 3), (Reg.timBankSwitch, BitVec.ofNat 64 n)] fun t => { t with release := some (1, 100), acc := BitVec.ofNat 82 (100 * 2 ^ 18) }
theorem witness_stitch_begin : ∀ n ∈ [1, 2], (releasing n).time.release = some (1, 100) ∧
    (releasing n).regB Reg.timStatus 13 = false ∧ 100 ≤ (releasing n).ft ∧ (releasing n).regB Reg.timBankCtrl 0 = true ∧
    ((releasing n).reg Reg.timBankSwitch).toNat = n ∧ (releasing n).reaches Reg.timBankCtrl = true := by decide +kernel
theorem test_stitch_begin : ((after .stitchBegin (releasing 1)).regF Reg.timStatus 12 1, (after .stitchBegin (releasing 2)).regF
    Reg.timStatus 12 1) = (1, 0) := by decide +kernel
/-- A child is missing. -/
def missing : State := timed [(Reg.timCtrl, 1), (Reg.timCinchCfg, 2), (Reg.timCinchTimeout, 0)] fun t => { t with atCinch := true }
theorem witness_cinch_timeout : missing.regB Reg.timCtrl 0 = true ∧ missing.time.atCinch = true ∧ missing.time.sent = false ∧
    missing.time.faulted = false ∧ missing.time.arrived.length < min 27 (missing.regF Reg.timCinchCfg 1 5) ∧
    missing.time.dueAt + 64000 * (missing.reg Reg.timCinchTimeout).toNat ≤ missing.ft := by decide +kernel
def rooted (st : Nat) : State := withRegs [(Reg.timCinchCfg, 1), (Reg.timCtrl, 3), (Reg.timStatus, BitVec.ofNat 64 st)]
theorem witness_stitch_in : ∀ st ∈ [0x800, 0], (rooted st).regB Reg.timCinchCfg 0 = true ∧
    (rooted st).regF Reg.timCtrl 1 2 = 1 ∧ (rooted st).regB Reg.timCtrl 0 = true ∧ (rooted st).time.sent = false ∧
    (rooted st).regB Reg.timStatus 11 = st.testBit 11 := by decide +kernel
theorem witness_stitch_out : (timed [] id).time.outEnd ≤ (timed [] id).ft ∧
    (timed [] fun t => { t with outEnd := 1 }).ft < (timed [] fun t => { t with outEnd := 1 }).time.outEnd := by decide +kernel

/-! ## Memory -/

theorem witness_bring_up : opened.reaches Reg.memCtrl = true ∧ opened.regB Reg.memCtrl 1 = false ∧
    opened.regB Reg.memCtrl 2 = false ∧ (withRegs [(Reg.memStatus, 1)]).regB Reg.memStatus 0 = true ∧
    (withRegs [(Reg.memStatus, 1)]).regB Reg.memCtrl 1 = false ∧ State.reset.regB Reg.memStatus 0 = false ∧
    (withRegs [(Reg.memCtrl, 2)]).regB Reg.memCtrl 1 = true ∧ (withRegs [(Reg.memCtrl, 2)]).regB Reg.memStatus 2 = false ∧
    (withRegs [(Reg.memStatus, 4)]).regB Reg.memStatus 2 = true ∧ (withRegs [(Reg.memStatus, 4)]).fwRuns = false ∧
    (withRegs [(Reg.memCtrl, 1)]).regB Reg.memCtrl 0 = true ∧ (withRegs [(Reg.memCtrl, 1)]).regB Reg.memStatus 0 = false ∧
    (withRegs [(Reg.memCtrl, 1)]).regB Reg.memStatus 1 = false := by decide +kernel
theorem test_init_done : ((after .memInitDone (({ withRegs [(Reg.memStatus, 4)] with poison := [(2, true)] } : State).storeBytes 64
    [7])).byte 64, (after .memInitDone ({ withRegs [(Reg.memStatus, 4)] with poison := [(2, true)] } : State)).poisoned 2) =
    (0, false) := by decide +kernel

/-- The last sector of working memory, poisoned or not. -/
def lastSector : Nat := 0x0196FFFFFFE0
def poisonedLast : State := { opened with poison := [(lastSector / 32, true)] }
theorem witness_controller : AtController opened lastSector ⟨7, 0⟩ ∧ AtController opened opened.pocketBase ⟨6, 0⟩ ∧ CleanHops [[], []] ∧ opened.pocketBase = lastSector + 32 ∧
    AtController poisonedLast lastSector ⟨7, 0⟩ ∧ opened.poisoned (lastSector / 32) = false ∧
    poisonedLast.poisoned (lastSector / 32) = true ∧ poisonedLast.regB Reg.hubEvlogCfg 0 = false := by
  unfold AtController CleanHops; decide +kernel
/-- An integer addition and a swap of the last doubleword of a sector, and an addition of binary64 numbers. -/
def addLast : AtomOp := ⟨0, 3, 24, 0, 5, 0⟩
theorem witness_atomic : addLast.off.val % 2 ^ addLast.size.val = 0 ∧
    ({ addLast with op := 2 } : AtomOp).op = 2 ∧ ({ addLast with op := 7 } : AtomOp).op = 7 ∧
    (atomNew { addLast with op := 3 } 9).isSome = true := by decide +kernel
theorem test_partial_write : ((after (.memPartialWrite 64 0x80000001 (BitVec.allOnes 256) false ⟨7, 0⟩ [] []) opened)).bytes 64 32 =
    255 :: List.replicate 30 0 ++ [255] := by decide +kernel
theorem test_atomic : ((after (.memAtomic 64 addLast ⟨7, 0⟩ ⟨[], []⟩) (opened.storeBytes 88 [255])).num 88 8) = 260 := by decide +kernel

theorem witness_retire_add : opened.reaches Reg.memRetireAdd = true ∧ (4096 : BitVec 64).toNat < usable opened.grade ∧
    opened.slotOf (homePkg opened.grade 4096) 1 = none ∧ opened.freeSlot (homePkg opened.grade 4096) = some 0 ∧
    opened.regB Reg.memCtrl 1 = false ∧ (withRegs [(Reg.memCtrl, 2)]).regB Reg.memCtrl 1 = true ∧
    1 ∉ (withRegs [(Reg.memCtrl, 2)]).retireDue ∧ (withRegs [(Reg.memCtrl, 2)]).retiring = [] ∧
    ((withRegs [(Reg.memCtrl, 2)]).freeSlot (homePkg .lcv8 4096)).isSome = true := by decide +kernel
theorem witness_retire : (1 : Nat) ∈ ({ opened with retireDue := [1] } : State).retireDue ∧
    ({ opened with retireDue := [1] } : State).freeSlot (homePkg .lcv8 4096) = some 0 ∧
    ((1 : Nat), (0 : Nat)) ∈ ({ opened with retiring := [(1, 0)] } : State).retiring ∧
    ({ opened with retiring := [(1, 0)] } : State).memHeld = [] ∧ opened.chunkQ = [] ∧ opened.rxFlows = [] := by decide +kernel
/-- Bank 0 of channel 3 of the last package was refreshed. -/
def refreshedBank : State := { withRegs [(Reg.memCtrl, 2)] with refreshed := [(255, some 0)] }
theorem witness_upkeep : (63 : Fin 64).val < numPkgs opened.grade ∧ refreshedBank.regB Reg.memCfg 2 = true ∧
    refreshedBank.regB Reg.memCtrl 1 = true ∧ refreshedBank.regB Reg.memStatus 2 = false ∧ refreshedBank.memHeld = [] ∧
    Tbl.get none refreshedBank.refreshed (4 * (63 : Fin 64) + (3 : Fin 4)) =
      some (bankOf (dramSector (8 * (Tbl.get 0 refreshedBank.scrubPos 255 % groupsPerChannel)))) := by decide +kernel
/-- The worked example of R249 at 40000000H: package 32 and channel 0 of LCV8, sector S 147456 and check sector 147464, column 0,
bank 0, row 144; package 9 and channel 3 of LCV4. -/
theorem test_placement : (homePkg .lcv8 0x40000000, chanOf .lcv8 0x40000000, dramSector (dataSector .lcv8 0x40000000),
    checkSector (dataSector .lcv8 0x40000000)) = (32, 0, 147456, 147464) ∧
    (dramCol 147456, dramBank 147456, dramRow 147456) = (0, 0, 144) ∧
    (homePkg .lcv4 0x40000000, chanOf .lcv4 0x40000000) = (9, 3) := by decide +kernel
/-- The temperatures at which the levels meet: 85, 82 and 95 are the thresholds that this register value gives. -/
theorem witness_temperature : let s := withRegs [(Reg.memTherm, 0x5F5255)]
    (s.regF Reg.memTherm 0 8, s.regF Reg.memTherm 8 8, s.regF Reg.memTherm 16 8) = (85, 82, 95) ∧
    ((95 : Int) ≤ (95 : BitVec 8).toInt) ∧ (81 : BitVec 8).toInt < 82 ∧ (85 : Int) ≤ (85 : BitVec 8).toInt ∧
    (82 : Int) ≤ (82 : BitVec 8).toInt ∧ (84 : BitVec 8).toInt < 85 := by decide +kernel
theorem test_poll : ((after (.mr4Poll 63 105 1 0) opened).regF (Reg.memCStatus 63) 4 2,
    (after (.mr4Poll 63 20 1 0) opened).regF (Reg.memCStatus 63) 4 2) = (2, 0) := by decide +kernel

/-! ## Links and lanes -/

/-- Node 32, whose ports 5 and 31 are up, joined to node 37 on port 5. -/
def meshed : State := withRegs [(Reg.memStatus, 8), (Reg.fabNode, 32), (Reg.fabPkey, 9), (Reg.fabPStatus 5, 0x250002),
  (Reg.fabPStatus 31, 2)]
/-- A flit of node 37 to the package. -/
def flitOf (typ : Nat) (a : Nat) (ws : List FWord) (trailer : Nat) : Flit where
  pkey := 9
  dst := 32
  src := 37
  typ := BitVec.ofNat 7 typ
  start := false
  vc := BitVec.ofNat 3 ((vcOfType typ).getD 0)
  last := true
  replica := false
  tag := 3
  seq := 0
  addr := BitVec.ofNat 36 a
  words := ws
  trailer := BitVec.ofNat 64 trailer
def lpart (f : Flit) (lseq : BitVec 12) : LinkPart :=
  let l : LinkPart := ⟨lseq, 0, false, 0, 0, 0⟩
  { l with crc := BitVec.ofNat 64 (crc64 (linkBytes f l)) }
theorem witness_link_crc (f : Flit) (n : BitVec 12) : linkCrcOk f (lpart f n) = true := by
  have h := crc64_lt (linkBytes f ⟨n, 0, false, 0, 0, 0⟩)
  unfold linkCrcOk lpart
  rw [beq_iff_eq, BitVec.toNat_ofNat, Nat.mod_eq_of_lt h]
  rfl
theorem witness_link : meshed.portReady (5 : Fin 32) = true ∧ meshed.node ≠ 0xFFFF ∧
    (∀ k ∈ [1, 2, 3, 4, 5, 6, 7, 8, 9, 10, 16, 23, 24, 25, 28, 29, 30], (flitOf k 2 [] 0).dst.toNat = meshed.node ∧
      flitOk (flitOf k 2 [] 0) = true ∧ (flitOf k 2 [] 0).typ.toNat = k) ∧
    flitOk { flitOf 22 0 [] 5 with vc := 5 } = true ∧
    (lpart (flitOf 1 2 [] 1) 0).lseq.toNat = Tbl.get 0 meshed.linkRx 5 ∧ (lpart (flitOf 1 2 [] 1) 0).nack = false ∧
    (lpart (flitOf 1 2 [] 1) 4095).lseq.toNat ≠ Tbl.get 0 meshed.linkRx 5 := by decide +kernel
/-- Port 31 keeps two flits, 4095 and 0; what port 30 hears acknowledges the first. -/
def buffered : State := { meshed with linkBuf := [(31, [(4095, flitOf 1 2 [] 1), (0, flitOf 3 2 [] 1)])] }
theorem witness_link_nack : revPort 30 = 31 ∧ buffered.portReady 31 = true ∧
    ackBuf (4095 : BitVec 12).toNat (Tbl.get [] buffered.linkBuf 31) = [(0, flitOf 3 2 [] 1)] ∧
    Tbl.get (0, 0) buffered.linkFail 31 = (0, 0) := by decide +kernel
theorem witness_link_ctrl : (flitOf 0x1F 0 [] 0).typ.toNat = 0x1F ∧ (flitOf 0x1F 0 [] 0).vc = 0 ∧
    (flitOf 0x1F 0 [] 0).words = cleanWords [] := by decide +kernel
/-- Port 31 may train: its ring is joined and its optical group on; with eight lanes of nine, or with seven. -/
def trainable (bad : List (Nat × Bool)) : State :=
  { withRegs [(Reg.fabPCfg 31, 0x8001), (Reg.fabRingCtrl, 3), (Reg.pwrDom 71, 1)] with laneLast := bad }
theorem witness_train : (trainable []).canTrain (31 : Fin 32) = true ∧ (trainable []).portReady (31 : Fin 32) = false ∧
    4 ≤ ((trainable []).healthyLanes 31 false).length ∧ Tbl.get [] (trainable []).portQ 31 = [] ∧
    ((trainable [(laneKey 31 false 0, true), (laneKey 31 false 1, true)]).healthyLanes 31 false).length = 7 := by decide +kernel
theorem test_train : (after (.linkTrainDone 31 64) (trainable [])).portState 31 = 2 ∧
    (after (.linkTrainDone 31 64) (trainable [(laneKey 31 false 0, true), (laneKey 31 false 1, true)])).portState 31 = 3 := by
  decide +kernel
theorem witness_lane_event : fourth (Tbl.get [] meshed.laneEv (laneKey 5 true 8)) meshed.ft = false ∧
    fourth [0, 1, 2] day = true ∧ fourth [0, 1, 2] (day + 1) = false ∧ meshed.isLasting 5 true 8 = false ∧
    let s : State := { meshed with laneEv := [(laneKey 5 true 8, [0, 0, 0])] }
    fourth (Tbl.get [] s.laneEv (laneKey 5 true 8)) s.ft = true := by decide +kernel
/-- What a millisecond of corrections must exceed to be an event: four times the port's limit. -/
theorem witness_corrections : (∀ n, LaneCause.corrections 1 = .corrections n → 4 * (withRegs [(Reg.fabPCfg 5, 3)]).regF (Reg.fabPCfg 5) 2 30 < n) ∧
    (4 : Nat) ≤ 4 * (withRegs [(Reg.fabPCfg 5, 7)]).regF (Reg.fabPCfg 5) 2 30 := by
  have h : (withRegs [(Reg.fabPCfg 5, 3)]).regF (Reg.fabPCfg 5) 2 30 = 0 := by decide +kernel
  refine ⟨fun n e => ?_, by decide +kernel⟩
  cases e
  rw [h]
  decide
/-- Lane 0 of port 5's receiver is lasting, and its logical lane moves to physical lane 8, the spare, at flit 7. -/
def rotatable (last : Bool) : State :=
  { withRegs [(Reg.fabPStatus 5, 2), (Reg.fabPRxmap 5, 0x76543210)] with
    laneLast := if last then [(laneKey 5 true 0, true)] else [], rotate := [(11, some (0, 7))], linkRx := [(5, 7)] }
theorem witness_rotate : (rotatable true).portState (5 : Fin 32) = 2 ∧ (rotatable true).rotation 5 true = some (0, 7) ∧
    (rotatable true).lseqReached 5 true 7 = true ∧ (rotatable true).spareLane 5 true = some 8 := by decide +kernel
theorem witness_notice : (∀ k : Fin 9, (rotatable false).isLasting 5 true k = false) ∧ (rotatable false).regB (Reg.fabPCfg 5) 1 = false ∧
    (rotatable false).portState 5 = 2 ∧ (rotatable false).logicalLane 5 true 0 = some 0 := by decide +kernel

/-! ## Requests of and to other nodes -/

theorem witness_turn : RouteTo meshed (flitOf 1 2 [] 1).src.toNat 2 5 ∧ InTurn meshed (flitOf 1 2 [] 1) ∧
    NoneEnding meshed ∧ NoneWaiting meshed := by
  refine ⟨by unfold RouteTo; decide +kernel, by unfold InTurn; decide +kernel, (fun _ he => nomatch he), by unfold NoneWaiting; decide +kernel⟩
theorem witness_turns : InTurn meshed (flitOf 3 2 (cleanWords [5]) 1) ∧ InTurn meshed (flitOf 8 2 [] 31) ∧ InTurn meshed (flitOf 9 2 [] 0) := by
  unfold InTurn; decide +kernel
theorem witness_accepted : ∀ k ∈ [1, 2, 3, 4, 5, 6, 7, 8, 9, 10, 23, 24, 25, 28, 30], Accepted meshed (flitOf k 2 [] 1) k := by
  unfold Accepted; decide +kernel
theorem witness_read_write : meshed.remoteTarget 64 32 = none ∧ meshed.remoteTarget 3904 192 = none ∧ 3904 % 4096 + 32 * 6 = 4096 ∧
    (flitOf 1 122 [] 6).addr.toNat * 32 = 3904 ∧ (flitOf 3 2 (cleanWords [5]) 1).words = cleanWords [5] ∧
    meshed.poisoned 2 = false ∧ (meshed.region 64 == .working) = true := by decide +kernel
/-- An addition of 1 to the doubleword at byte 24 of sector 2. -/
def atomF : Flit := flitOf 5 2 (cleanWords [1]) (8 * 3 + 32 * 24)
theorem witness_remote_atomic : InTurn meshed atomF ∧ atomF.words = cleanWords [1] ∧ meshed.replies.length < 64 ∧ (flitAtom atomF 1).off.val = 24 ∧
    meshed.remoteTarget (64 + 24) 8 = none ∧ 24 % 8 = 0 ∧ meshed.poisoned (64 / 32) = false ∧
    (meshed.region (32 * ((64 + 24) / 32)) == .working) = true ∧ atomNew (flitAtom atomF 1) (meshed.num 88 8) = some 1 := by
  unfold InTurn; decide +kernel
theorem test_remote_atomic : (after (.atomReq atomF) meshed).num 88 8 = 1 := by decide +kernel
theorem witness_one_chunk (f : Flit) : OneChunk meshed f := fun _ h => nomatch h
theorem line_free (s : State) (h : s.hostLines = [] ∧ s.retiring = [] ∧ s.memHeld = []) (a : Nat) (w : Bool) : s.lineBusy a w = false := by
  unfold State.lineBusy
  rw [h.1, h.2.1, h.2.2]
  rfl
theorem page_working (s : State) (hs : s.regB Reg.memStatus 3 = true) (hu : 4096 ≤ usable s.grade) (hp : 4096 ≤ s.pocketBase) (x : Nat)
    (hx : x / 4096 = 0) : s.region x = .working := by
  unfold State.region
  rw [if_pos (by omega), hs, if_neg (by decide), if_pos (by omega)]
theorem witness_chunk : meshed.chunksTx = [] ∧ meshed.chunkQ = [] ∧ meshed.chunksRx = [] ∧ meshed.replHeld = [] ∧
    ({ flitOf 9 2 [] 0 with last := false } : Flit).last = false ∧ 64 % 4096 + 32 * 6 ≤ 4096 ∧
    RouteTo meshed 37 6 5 := by unfold RouteTo; decide +kernel
theorem witness_chunk_page (x : Nat) (h : x / 4096 = 64 / 4096) :
    meshed.region x = .working ∧ meshed.lineBusy x true = false ∧ meshed.poisoned (x / 32) = false :=
  ⟨page_working _ (by decide +kernel) (by decide +kernel) (by decide +kernel) x h, line_free _ (by decide +kernel) _ _, rfl⟩
/-- A chunk whose first words `a` have come, at 64, and the flit of the others: the last one, or one before it. -/
def partChunk (typ addr : Nat) (a : List Granule) : State := { meshed with chunksRx := [⟨37, 3, typ, addr, cleanWords a, false⟩] }
theorem chunk_goes_on (s : State) (c : ChunkRx) (f : Flit) (h : s.chunksRx = [c])
    (hk : c.src = f.src.toNat ∧ c.tag = f.tag.toNat ∧ c.typ = f.typ.toNat) :
    chunkOf s f = c ∧ otherChunks s f = [] ∧ OneChunk s f := by
  have e : chunkOf s f = c := by simp [chunkOf, h, hk]
  have o : otherChunks s f = [] := by rw [otherChunks, e, h]; simp
  exact ⟨e, o, by intro d hd; rw [o] at hd; exact nomatch hd⟩
theorem witness_chunk_last (a b : List Granule) :
    let f := flitOf 9 8 (cleanWords b) (crc64 (wordBytes (a ++ b)))
    let s := partChunk 9 64 a
    f.last = true ∧ OneChunk s f ∧ (chunkOf s f).addr = 64 ∧ (chunkOf s f).words ++ f.words = cleanWords (a ++ b) ∧
      f.trailer.toNat = crc64 (wordBytes (a ++ b)) ∧ flitAddr f ≠ (chunkOf s f).addr ∧ wordsWith s f = cleanWords (a ++ b) := by
  intro f s
  obtain ⟨e, -, o⟩ := chunk_goes_on s ⟨37, 3, 9, 64, cleanWords a, false⟩ f rfl ⟨rfl, rfl, rfl⟩
  have w : (chunkOf s f).words ++ f.words = cleanWords (a ++ b) := by rw [e]; exact (List.map_append ..).symm
  have n : flitAddr f ≠ (chunkOf s f).addr := by rw [e]; show (8#36).toNat * 32 ≠ 64; decide
  exact ⟨rfl, o, by rw [e], w, Nat.mod_eq_of_lt (crc64_lt _), n, by unfold wordsWith; rw [if_neg n, w]⟩
theorem witness_no_replica (x : Nat) : meshed.replStore x = false := by
  have h : meshed.replEntries = [] := by decide +kernel
  unfold State.replStore
  rw [h]
  rfl
/-- The atomic of tag 3 was performed. -/
def performed : State := { meshed with replies := [(37, [⟨3, 7, false, 0, 0⟩])], rxFlows := [(flowKey atomF, ⟨1, [], 0⟩)] }
theorem witness_duplicate : RouteTo performed 37 2 5 ∧ Accepted performed atomF 5 ∧ atomF.start = false ∧
    2048 ≤ (atomF.seq.toNat + 4096 - (performed.rxFlow (flowKey atomF)).expected) % 4096 ∧
    (performed.freshReplies 37).find? (fun q => q.tag == atomF.tag.toNat) = some ⟨3, 7, false, 0, 0⟩ := by
  unfold RouteTo Accepted; decide +kernel
/-- An outstanding request of type `typ` of the package to node 37, of the hub or of a unit, and an outstanding chunk. -/
def outReq (typ : Nat) (r : Req) : OutReq := ⟨37, 1, 0, { flitOf typ 2 [] 1 with dst := 37, src := 32, vc := 1 }, 0, 0, r, false⟩
def asking (typ : Nat) : State := { meshed with reqs := [outReq typ ⟨0, 0⟩], outst := [(37, 1)] }
def chunk5 : ChunkTx := ⟨37, 3, false, 0, 0, 32, none, none, [], false, false, 0, 0⟩
def chunking : State := { meshed with chunksTx := [chunk5], outst := [(37, 1)] }
theorem witness_responses : (∀ k ∈ [(2, 1), (6, 5), (4, 3), (7, 5)], Accepted (asking k.2) (flitOf k.1 2 (cleanWords [5]) 1) k.1 ∧
    (asking k.2).answered (flitOf k.1 2 (cleanWords [5]) 1) k.2 = some (outReq k.2 ⟨0, 0⟩)) ∧ reqUnit ⟨0, 0⟩ = none ∧
    (flitOf 7 2 [] 2).trailer.toNat % 256 = 2 ∧ (flitOf 7 2 [] 1).trailer.toNat % 256 = 1 := by
  unfold Accepted; decide +kernel
theorem witness_chunk_acked : chunking.colTx = [] ∧ (flitOf 10 2 [] 0).trailer.toNat / 65536 % 256 = 0 ∧
    (chunking.sentChunks (flitOf 10 2 [] 0).src.toNat).find? (fun c => !c.read && c.tag == (flitOf 10 2 [] 0).tag.toNat && c.seq == (flitOf 10 2 [] 0).seq.toNat) =
      some chunk5 ∧ chunk5.owner = none ∧ chunk5.pocket = false ∧
    ({ chunking with time := { TimeSt.init with acc := BitVec.ofNat 82 (2 ^ 60) } } : State).sentChunks (37 : BitVec 16).toNat = [chunk5] ∧
    chunk5.since + ({ chunking with time := { TimeSt.init with acc := BitVec.ofNat 82 (2 ^ 60) } } : State).loadTimeout ≤
      ({ chunking with time := { TimeSt.init with acc := BitVec.ofNat 82 (2 ^ 60) } } : State).ft := by
  decide +kernel
theorem witness_reissue : ∀ k ∈ [1, 3, 5], (asking k).openRequest (37 : BitVec 16).toNat (0 : BitVec 12).toNat =
    some (outReq k ⟨0, 0⟩) ∧ RouteTo (asking k) 37 1 5 ∧ (outReq k ⟨0, 0⟩).timedOut = false ∧
    (let s : State := { asking k with time := { TimeSt.init with acc := BitVec.ofNat 82 (2 ^ 60) } }
     (outReq k ⟨0, 0⟩).last + usec * s.regF Reg.fabReissue 0 16 ≤ s.ft ∧ (outReq k ⟨0, 0⟩).first + s.loadTimeout ≤ s.ft) := by
  unfold RouteTo; decide +kernel
theorem witness_noneEnding : NoneEnding (asking 1) ∧ NoneEnding (asking 3) ∧ NoneEnding (asking 5) ∧
    NoneEnding chunking ∧ NoneWaiting chunking ∧ NoneWaiting (asking 1) := by unfold NoneEnding; refine ⟨?_, ?_, ?_, ?_, by unfold NoneWaiting; decide +kernel, by unfold NoneWaiting; decide +kernel⟩ <;> exact fun _ h => nomatch h

/-! ## Flows, rings, quench -/

theorem witness_drain : Accepted meshed { flitOf 0x16 0 [] 5 with vc := 5 } 0x16 ∧ RouteTo meshed 37 2 5 ∧
    Accepted meshed (flitOf 0x17 0 [] 5) 0x17 := by unfold Accepted RouteTo; decide +kernel
def draining : State := meshed.setFlow 37 5 ⟨0, true, true, 6, 8, 0, 0⟩
theorem witness_draining : (draining.flow (37 : BitVec 16).toNat 5).drain = true ∧ Tbl.get [] draining.drainQ (37 * 8 + 5) = [] ∧
    (flitOf 0x17 0 [] 5).trailer.toNat % 8 = 5:= by decide +kernel
/-- Fabric time is past every limit. -/
def late (s : State) : State := { s with time := { TimeSt.init with acc := BitVec.ofNat 82 (2 ^ 60) } }
/-- 513 flits wait at port 5, none at port 7. -/
def congested : State :=
  { withRegs [(Reg.fabNode, 32), (Reg.fabPkey, 9), (Reg.fabPStatus 5, 2), (Reg.fabPStatus 7, 2)] with
    portQ := [(5, List.replicate 513 (flitOf 1 2 [] 1))] }
theorem witness_repath : congested.pathOk (37 : BitVec 16).toNat (7 : Fin 32) = true ∧ RouteTo congested 37 1 5 ∧
    congested.portReady 5 = true ∧ congested.portReady 7 = true ∧ congested.regB Reg.detCfg 1 = false ∧
    512 < congested.egress 5 ∧ congested.egress 7 < congested.egress 5 ∧
    RouteTo (withRegs [(Reg.fabNode, 32)]) 37 1 5 ∧ (withRegs [(Reg.fabNode, 32)]).portReady 5 = false ∧
    (withRegs [(Reg.fabNode, 32)]).pathOk (37 : BitVec 16).toNat (7 : Fin 32) = true := by unfold RouteTo; decide +kernel
/-- A flow that left port 5 returns to it once DET_CFG bit 1 is set. -/
def returning : State := (withRegs [(Reg.fabNode, 32), (Reg.detCfg, 2), (Reg.fabPStatus 5, 2), (Reg.fabPStatus 7, 2)]).setFlow 37 1 ⟨0, true, false, 8, 8, 0, 0⟩
theorem witness_return : RouteTo returning 37 1 7 ∧ returning.pathOk (37 : BitVec 16).toNat (5 : Fin 32) = true ∧
    returning.portReady 7 = true ∧ returning.portReady 5 = true ∧ returning.regB Reg.detCfg 1 = true ∧
    returning.staticPort (37 : BitVec 16).toNat = some 5 := by unfold RouteTo; decide +kernel
theorem witness_drain_timeout : ((late draining).flow (37 : BitVec 16).toNat (5 : Fin 8)).drain = true ∧
    ((late draining).flow (37 : BitVec 16).toNat (5 : Fin 8)).since + usec * (late draining).regF Reg.fabDrainTimeout 0 16 ≤ (late draining).ft := by decide +kernel
theorem witness_idle_restart : meshed.reqs = [] ∧ meshed.reqQ = [] ∧ meshed.chunksTx = [] ∧ ((late meshed).flow (37 : BitVec 16).toNat (1 : Fin 8)).drain = false ∧
    ((late meshed).flow (37 : BitVec 16).toNat (1 : Fin 8)).busyAt + msec ≤ (late meshed).ft := by decide +kernel
def holding : State := { meshed with replHeld := [⟨⟨0x0C, 0⟩, 0xFFFF000000000FF8, [1, 2, 3, 4, 5, 6, 7, 8], false⟩] }
theorem witness_release_held : meshed.reaches Reg.fabReplRelease = true ∧ (1 : BitVec 32).getLsbD 0 = true ∧
    meshed.replHeld = [] ∧ (∀ h ∈ holding.replHeld, holding.replStore h.addr = false ∧ h.poison = false ∧
      h.data.length ∈ [1, 2, 4, 8]) ∧ OwnWrite holding 0xFFFF000000000FF8 8 ∧ holding.replHeld.length = 1 := by
  unfold OwnWrite OwnClean; decide +kernel
theorem witness_join : meshed.reaches Reg.fabRingCtrl = true ∧ (1 : BitVec 32).getLsbD (3 / 2) = false ∧
    meshed.portReady (28 + 3) = true := by decide +kernel
/-- A fabric manager whose list names node 37. -/
def manager (n : Nat) : State := (withRegs [(Reg.memStatus, 8), (Reg.fabNode, 32), (Reg.fabPkey, 9), (Reg.fabCfg, 1),
  (Reg.fabQuenchCount, BitVec.ofNat 64 n), (Reg.fabQuenchList, 0x100), (Reg.fabQuenchKey, 9),
  (Reg.fabFmNodes, 0xFFFF0025)]).storeBytes 0x100 [37]
theorem witness_manager : ∀ n ∈ [0, 1], (manager n).reaches Reg.fabCtrl = true ∧ (manager n).regB Reg.fabCfg 0 = true ∧
    ((manager n).reg Reg.fabQuenchCount).toNat % 65536 = n ∧
    ((manager n).region ((manager n).reg Reg.fabQuenchList).toNat == .host) = false := by decide +kernel
theorem witness_quench : (manager 1).quenchNodes = [37] ∧ 37 < 0xFFFF ∧ RouteTo (manager 1) 37 7 5 ∧
    Accepted (manager 1) (flitOf 0x1C 0 [] 0) 0x1C ∧ (manager 1).isFm (flitOf 0x1C 0 [] 0).src.toNat = true ∧
    (manager 1).node ≠ 0xFFFF ∧ flitOk (flitOf 0x1D 0 [] 0) = true ∧
    (flitOf 0x1D 0 [] 0).pkey.toNat = (manager 1).regF Reg.fabQuenchKey 0 16 ∧
    ((manager 1).reg Reg.fabQuenchAcked).toNat + 1 = ((manager 1).reg Reg.fabQuenchCount).toNat % 65536 ∧
    Accepted (manager 1) (flitOf 0x1E 0 (cleanWords [5]) 0) 0x1E := by unfold RouteTo Accepted; decide +kernel

/-! ## Collectives -/

/-- Node 32 with the lists of group 255 in memory: the members 32 and 37, and the backup 40 of rank 1. -/
def grouped (cfg rsv : Nat) (l : List (Nat × W64)) : State :=
  ((withRegs ([(Reg.memStatus, 8), (Reg.fabNode, 32), (Reg.fabPkey, 9), (Reg.fabPStatus 5, 0x250002), (Reg.colGSize 255, 2),
    (Reg.colGList 255, 0x200), (Reg.colGBackup 255, 0x240), (Reg.colGCfg 255, BitVec.ofNat 64 cfg),
    (Reg.colRsvTotal, BitVec.ofNat 64 rsv)] ++ l)).storeBytes 0x200 [32, 0, 37, 0]).storeBytes 0x240 [255, 255, 40, 0]
theorem witness_group_empty : State.reset.reaches (Reg.colGCfg 255) = true ∧ State.reset.grpSize (255 : Fin 256) = 0 ∧
    State.reset.grpValid (255 : Fin 256) = false ∧ (1 : BitVec 32).getLsbD 0 = true := by decide +kernel
/-- The last 64 slots of the reservations are free: a reservation of 64 is accepted. -/
theorem witness_group_valid : let s := grouped 0 11200 []
    s.grpSize 255 = 2 ∧ s.nodeList (s.reg (Reg.colGList 255)).toNat 2 = [32, 37] ∧ backupList s 255 = [65535, 40] ∧
    firstRefused s.accessible 0x200 4 = none ∧ s.poisonIn 0x200 4 = false ∧ s.readFails 0x200 4 = false ∧
    s.readFails 0x240 4 = false ∧ firstRefused s.accessible 0x240 4 = none ∧
    s.poisonIn 0x240 4 = false ∧ [32, 37].Nodup ∧ 0xFFFF ∉ [32, 37] ∧ (∀ x ∈ [65535, 40], x = 0xFFFF ∨ x ∉ [32, 37]) ∧
    s.grpRank 255 < 2 ∧ [32, 37].getD (s.grpRank 255) 0xFFFF = s.node ∧ max 4 ((0x400001 : BitVec 32).toNat / 2 ^ 16 % 2 ^ 13) = 64 ∧
    (s.reg Reg.colRsvTotal).toNat + 64 = 11264 := by decide +kernel
theorem witness_group_clear : (grouped 0x400001 64 []).grpValid (255 : Fin 256) = true ∧
    (grouped 0x400001 64 []).grpBusy 255 = false ∧ (0 : BitVec 32).getLsbD 0 = false ∧
    ({ grouped 0x400001 64 [] with colQ := [(0, [⟨0, 0, 0, desc 64 [(4, 1, 255)], false⟩])] } : State).grpBusy 255 = true := by
  decide +kernel
theorem test_group_valid : (after (.groupValidSet 255 0x400001) (grouped 0 11200 [])).reg Reg.colRsvTotal = 11264 := by
  decide +kernel

/-- The descriptor of a collective of 64 binary32 sums of group 255, of one tile. -/
def colB (op : Nat) : List Byte := desc 64 [(0, 1, op), (4, 1, 255), (5, 1, 1), (9, 1, 0xFF), (12, 4, 64), (16, 8, 0xFFFF000000000000),
  (24, 8, 0xFFFF000000001000), (40, 2, 1), (46, 2, 1)]
def cref (op : Nat) : CollRef := ⟨0, 0, 0x8000, colB op, false⟩
def queued (op cfg : Nat) : State :=
  { grouped cfg 64 [] with colQ := [(15, [cref op])], colLists := [(255, ([32, 37], [0xFFFF, 40]))] }
/-- Its sources may be read at once. -/
theorem witness_sources : ∀ op ∈ [1, 2, 3, 4, 5, 6], ∀ cfg ∈ [0, 0x400001], SourcesThere (queued op cfg) 15 := by
  intro op ho cfg hc
  have h : (queued op cfg).replEntries = [] := by revert op cfg; decide +kernel
  refine ⟨fun x => line_free _ ⟨rfl, rfl, rfl⟩ x false, fun x => ?_, fun _ h => nomatch h⟩
  unfold State.replLoad
  rw [h]
  rfl
theorem witness_collective : ∀ op ∈ [1, 2, 3, 4, 5, 6], colOp (cref op).body = op ∧
    Tbl.get [] (queued op 0x400001).colQ (15 : Fin 16) = [cref op] ∧ (queued op 0x400001).runOn (15 : Fin 16) = none ∧
    (queued op 0x400001).waitMet (cfld (cref op).body 8 1) (cfld (cref op).body 10 2) = true ∧
    (queued op 0x400001).colMalformed (cref op).body = false ∧ (queued op 0x400001).regB (Reg.colGSeq 255) 16 = false ∧
    colSeqExpl (cref op).body = false ∧ (queued op 0x400001).aborts = [] ∧ (queued op 0x400001).hellos = [] ∧
    (queued op 0x400001).substGone = [] ∧
    (queued op 0).colMalformed (cref op).body = true ∧ (queued op 0).grpValid 255 = false := by decide +kernel
/-- The group is halted. -/
theorem witness_halted : let s : State := { grouped 0x400001 64 [(Reg.colGSeq 255, 0x10000)] with colQ := [(15, [cref 1])], colLists := [(255, ([32, 37], [0xFFFF, 40]))] }
    s.regB (Reg.colGSeq 255) 16 = true ∧ s.colMalformed (cref 1).body = false ∧ s.runOn 15 = none := by decide +kernel
theorem witness_explicit_seq : let b := (colB 1).set 1 8
    colSeqExpl b = true ∧ colSeqField b = (queued 1 0x400001).regF (Reg.colGSeq 255) 0 16 := by decide +kernel

/-- A collective of a group of three, in a step that adds 32 elements of three slots: rank 0 is the package. -/
def addStep : CollStep := ⟨0, .reduce, [], [⟨1, [(0, 32)]⟩, ⟨2, [(0, 32)]⟩]⟩
def crun (todo : List CollStep) : CollRun where
  ref := cref 1
  group := 255
  seq := 7
  rank := 0
  role := false
  members := [32, 37, 38]
  backups := [0xFFFF, 40, 0xFFFF]
  alg := 1
  binned := false
  shadow := false
  todo := todo
  past := []
  since := 0
  acc := []
  raw := []
  sums := []
  emax := []
  part := []
  doneAt := []
  copied := []
  late := []
  held := []
  released := []
  subst := []
  gone := false
  take := false
  delivered := false
  slots := []
  want := []
  hot := []
  inexact := 0
  overflow := 0
  poisoned := 1
  sdc := false
  anchorBad := false
  failed := none
def addStep2 : CollStep := ⟨0, .reduce, [], [⟨1, [(0, 2048)]⟩]⟩
def rx (node : Nat) (n : Nat) : CollChunk := ⟨node, 255, 7, 0, 0, [], false, some (List.replicate n (0x3F800000, false)), 0⟩
def runningCol (r : CollRun) : State :=
  { grouped 0x400001 64 [] with colRun := [(15, some r)], colRx := [rx 37 4, rx 38 4] }
theorem slots_three : (crun [addStep]).slotsAt addStep 0 = [(0, none), (1, some 0), (2, some 0)] := by
  simp only [CollRun.slotsAt]
  rw [show (addStep.recvs.filterMap fun x => (((crun [addStep]).chunksOf addStep x).findIdx? fun c => c.1 == 0).map fun i =>
    (x.peer, some i)) ++ [((crun [addStep]).rank, none)] = [(1, some 0), (2, some 0), (0, none)] from by decide +kernel]
  simp [List.mergeSort, List.MergeSort.Internal.splitInTwo]
theorem slots_two : (crun [addStep2]).slotsAt addStep2 0 = [(0, none), (1, some 0)] := by
  simp only [CollRun.slotsAt]
  rw [show (addStep2.recvs.filterMap fun x => (((crun [addStep2]).chunksOf addStep2 x).findIdx? fun c => c.1 == 0).map fun i =>
    (x.peer, some i)) ++ [((crun [addStep2]).rank, none)] = [(1, some 0), (0, none)] from by decide +kernel]
  simp [List.mergeSort, List.MergeSort.Internal.splitInTwo]
theorem witness_addition : let r := crun [addStep]
    let s := runningCol r
    s.runOn (15 : Fin 16) = some r ∧ r.todo = [addStep] ∧ (addStep.kind == .reduce) = true ∧ 0 ∉ r.doneAt ∧
    (addStep.recvs.flatMap (r.chunksOf addStep)).find? (fun c => c.1 == 0) = some (0, 32) ∧
    (Tbl.get (0, []) r.part 0).1 = 0 ∧ (s.slotData r addStep 0 32 (0, none)).isSome = true ∧
    (s.slotData r addStep 0 32 (1, some 0)).isSome = true := by decide +kernel
/-- Two slots only, and two chunks: the second is not done. -/
theorem witness_addition_last : let r := crun [addStep2]
    (runningCol r).runOn (15 : Fin 16) = some r ∧
    (addStep2.recvs.flatMap (r.chunksOf addStep2)).find? (fun c => c.1 == 0) = some (0, 1024) ∧
    ((runningCol r).slotData r addStep2 0 1024 (1, some 0)).isSome = true ∧
    ∃ c ∈ addStep2.recvs.flatMap (r.chunksOf addStep2), c.1 ∉ r.doneAt ∧ c.1 ≠ 0 :=
  ⟨by decide +kernel, by decide +kernel, by decide +kernel, (1024, 1024), by decide +kernel, by decide, by decide⟩
/-- Without the chunk of rank 2, which has no backup, or of rank 1, which has. -/
def lagging (node : Nat) : State := { runningCol (crun [addStep]) with colRx := [rx node 4] }
theorem witness_laggard : let r := crun [addStep]
    (∀ k ∈ [(37, 2), (38, 1)], (lagging k.1).runOn (15 : Fin 16) = some r ∧ k.2 ∉ r.subst ∧
      (∃ x ∈ addStep.recvs, x.peer = k.2 ∧ ∃ c ∈ r.chunksOf addStep x, (k.2, c.1) ∉ r.late ∧
        ∃ t0, (lagging k.1).lagsSince r addStep c.1 k.2 = some t0 ∧
          t0 + usec * ((late (lagging k.1)).reg Reg.colLagTimeout).toNat ≤ (late (lagging k.1)).ft) ∧
      (lagging k.1).awaitsChunk r = true) ∧
    r.backupOf 2 = none ∧ (r.backupOf 1).isSome = true ∧ (lagging 37).reg Reg.colWatchdog ≠ 0 ∧
    r.since + usec * ((late (lagging 37)).reg Reg.colWatchdog).toNat ≤ (late (lagging 37)).ft := by
  refine ⟨?_, by decide +kernel, by decide +kernel, by decide +kernel, by decide +kernel⟩
  intro k hk
  simp only [List.mem_cons, List.not_mem_nil, or_false] at hk
  rcases hk with rfl | rfl
  · refine ⟨by decide +kernel, by decide, ⟨⟨2, [(0, 32)]⟩, by decide, rfl, (0, 32), by decide +kernel, by decide, 0, ?_, by decide +kernel⟩,
      by decide +kernel⟩
    simp only [State.lagsSince, slots_three]
    decide +kernel
  · refine ⟨by decide +kernel, by decide, ⟨⟨1, [(0, 32)]⟩, by decide, rfl, (0, 32), by decide +kernel, by decide, 0, ?_, by decide +kernel⟩,
      by decide +kernel⟩
    simp only [State.lagsSince, slots_three]
    decide +kernel
/-- Five flits wait for the mesh, of a threshold of 4; node 64's level, the spine, is free. -/
def relaying : State :=
  { grouped 0 0 [(Reg.colRepathThresh, 4)] with
    portQ := [(5, List.replicate 5 (flitOf 1 2 [] 1))], colTx := [{ dst := 37, group := 255, seq := 7, step := 0, chunk := 0, words := [], len := 0, sent := false, via := none }] }
theorem witness_repath_collective : relaying.mayRelay { crun [addStep] with members := [32, 37, 64] } 64 0 = true ∧
    ∃ c ∈ relaying.colTx, c.group = (crun [addStep]).group ∧ c.seq = (crun [addStep]).seq ∧ c.sent = false ∧ c.via = none ∧
      c.dst ≠ 64 ∧ relaying.levelOf c.dst = some 0 := by decide +kernel
theorem witness_collective_complete : let r := crun []
    (runningCol r).runOn (15 : Fin 16) = some r ∧ r.role = false ∧ (runningCol r).collOver (15 : Fin 16) r = true ∧
    colRec r.ref.body = 0 ∧ r.poisoned ≠ 0 ∧ PlainByte (runningCol r) (r.ref.addr + 3) := by unfold PlainByte; decide +kernel
theorem test_collective_complete : (after (.collectiveComplete 15) (runningCol (crun []))).regB Reg.colStatus 15 = false := by
  decide +kernel

/-- A COLL_CTRL flit of a kind, of tag 7 and group 255, from node 37. -/
def ctrlF (kind : Nat) (ws : List FWord) : Flit := { flitOf 0x11 0 ws kind with tag := 7, seq := 255 }
theorem witness_ctrl : (∀ k ∈ [0, 1, 2, 3, 4], CtrlAccepted meshed (ctrlF k []) k ∧
    CtrlAccepted (runningCol (crun [addStep])) (ctrlF k []) k) ∧ meshed.chanOfTag (flitGroup (ctrlF 0 [])) 7 = none ∧
    meshed.tagPassed (flitGroup (ctrlF 0 [])) 7 = false ∧
    flitGroup (ctrlF 0 []) = 255 ∧ (runningCol (crun [addStep])).chanOfTag 255 7 = some 15 ∧
    (runningCol (crun [addStep])).colTx = [] ∧ (crun [addStep]).gone = false ∧ (crun [addStep]).failed = none ∧ (crun [addStep]).todo ≠ [] := by
  unfold CtrlAccepted Accepted; decide +kernel
theorem witness_hello (w : Granule) : (ctrlF 0 (cleanWords [w])).words = cleanWords [w] := rfl
/-- A word whose low half is the signature `x`, and one whose low half is another. -/
theorem witness_hello_signature (x : W64) : (BitVec.setWidth 256 x).setWidth 64 = x ∧ ∃ w : Granule, w.setWidth 64 ≠ x := by
  refine ⟨BitVec.setWidth_setWidth_of_le x (by decide), BitVec.setWidth 256 (x + 1), ?_⟩
  rw [BitVec.setWidth_setWidth_of_le _ (by decide)]
  bv_omega
theorem witness_subst : (ctrlF 2 []).trailer.toNat / 65536 % 65536 = meshed.grpRank 255 ∧
    meshed.regB (Reg.colGCfg 255) 5 = false ∧ (withRegs [(Reg.colGCfg 255, 0x20)]).regB (Reg.colGCfg 255) 5 = true ∧
    let s := { grouped 0x400021 64 [] with colRun := [(15, some (crun [addStep]))] }
    s.regB (Reg.colGCfg 255) 5 = true ∧ s.chanOfTag 255 7 = some 15 ∧ s.runOn 15 = some (crun [addStep]) ∧
    (ctrlF 2 []).trailer.toNat / 65536 % 65536 = s.grpRank 255 := by decide +kernel
/-- Data of one word, of which the step expects 128 bytes. -/
def dataF (ws : List FWord) (crc : Nat) (last : Bool) : Flit := { flitOf 0x10 0 ws crc with tag := 7, seq := 255, last := last }
theorem witness_coll_data : let s := lagging 38
    let r := crun [addStep]
    (∀ l ∈ [true, false], Accepted s (dataF [] 0 l) 0x10 ∧ (dataF [] 0 l).last = l ∧ s.expecting (dataF [] 0 l) = some (15, r, 1, 128)) ∧
    otherColl s (dataF [] 0 true) = s.colRx ∧ (∀ c ∈ s.colRx, c.src ≠ 37) ∧
    collChunkOf s (dataF [] 0 true) = ⟨37, 255, 7, 0, 0, [], false, none, 0⟩ ∧ RouteTo s 37 2 5 ∧
    r.stepDone addStep = false ∧ r.shadow = false ∧ r.used (flitStep (dataF [] 0 true)) 1 (flitChunk (dataF [] 0 true)) = false := by
  unfold Accepted RouteTo; decide +kernel
/-- A chunk that is not expected: of tag 6, which its group has passed, and whose lists name no other node; and of a group that names
node 41, where the free reading of the flit says that it is for that node. -/
def passed (l : List Nat) : State := { grouped 0x400001 64 [(Reg.colGSeq 255, 7)] with colLists := [(255, (l, []))] }
def strayF : Flit := { dataF [] 0 true with tag := 6, vc := 3 }
theorem witness_stray : Accepted (passed []) strayF 0x10 ∧ (passed []).expecting strayF = none ∧ (passed []).tagPassed (flitGroup strayF) 6 = true ∧
    RouteTo (passed []) 37 2 5 := by unfold Accepted RouteTo; decide +kernel
theorem witness_stray_own : (passed []).relayDst strayF = none := by
  have h : Tbl.get ([], []) (passed []).colLists (flitGroup strayF) = (([] : List Nat), ([] : List Nat)) := by decide +kernel
  unfold State.relayDst
  rw [h]
  cases Config.relayTo strayF.src.toNat strayF.tag.toNat (flitHead strayF) <;> simp
theorem witness_relayed (h : Config.relayTo strayF.src.toNat strayF.tag.toNat (flitHead strayF) = some 41) :
    (passed [41]).relayDst strayF = some 41 ∧ (passed [41]).relays = [] ∧ strayF.vc = 3 := by
  refine ⟨?_, rfl, rfl⟩
  unfold State.relayDst
  rw [h]
  decide +kernel
theorem witness_coll_data_crc (gs : List Granule) : (dataF (cleanWords gs) (crc64 ((wordBytes gs).take 128)) true).trailer.toNat =
    crc64 ((wordBytes gs).take 128) ∧
    ∃ n : Nat, (dataF (cleanWords gs) n true).trailer.toNat ≠ crc64 ((wordBytes gs).take 128) := by
  refine ⟨Nat.mod_eq_of_lt (crc64_lt _), ?_⟩
  by_cases h : crc64 ((wordBytes gs).take 128) = 0
  · exact ⟨1, by rw [h]; exact Nat.one_ne_zero⟩
  · exact ⟨0, fun e => h e.symm⟩

/-! ## Rings -/

/-- Ring 1023 of 64 entries with completion ring 1023, the base of both at 0x2000. -/
def ringed (sq cq : Nat) (l : List (Nat × W64)) : State := withRegs ([(Reg.memStatus, 8), (Reg.sqCfg 1023, BitVec.ofNat 64 sq),
  (Reg.cqCfg 1023, BitVec.ofNat 64 cq), (Reg.sqBase 1023, 0x2000), (Reg.cqBase 1023, 0x2000)] ++ l)
def sqOn : Nat := 1 + 2 * 6 + 64 * 1023
def cqOn : Nat := 1 + 2 * 6 + 64 * 2047 + 2 ^ 17
/-- The last tail that fits, the first that does not; heads that free no slot, every slot, and one more than there are. -/
theorem witness_doorbells : let s := ringed sqOn cqOn []
    s.reaches dblBase = true ∧ s.regB (Reg.sqCfg (1023 : Fin 1024)) 0 = true ∧ (63 : BitVec 32).toNat < 2 ^ s.regF (Reg.sqCfg 1023) 1 5 ∧
    2 ^ s.regF (Reg.sqCfg 1023) 1 5 ≤ (64 : BitVec 32).toNat ∧ s.regB (Reg.cqCfg (1023 : Fin 1024)) 0 = true ∧
    2 ^ s.regF (Reg.cqCfg 1023) 1 5 = 64 ∧
    let c : State := { s with cq := [(1023, { CqSt.init with head := 1, used := 3 })] }
    ((4 : BitVec 32).toNat + 64 - (c.cqOf 1023).head) % 64 ≤ (c.cqOf 1023).used ∧
    (c.cqOf 1023).used < ((5 : BitVec 32).toNat + 64 - (c.cqOf 1023).head) % 64 := by decide +kernel
/-- Values that enable a submission ring: of 64 entries, and of 32 and 131,072, which are refused. -/
theorem witness_sq_enable : let s := ringed 0 cqOn []
    (BitVec.ofNat 32 sqOn).getLsbD 0 = true ∧ s.regB (Reg.sqCfg 1023) 0 = false ∧ (BitVec.ofNat 32 sqOn).toNat / 2 % 32 = 6 ∧
    (s.reg (Reg.sqBase 1023)).toNat % 4096 = 0 ∧ firstRefused s.accessible 0x2000 (64 * 2 ^ 6) = none ∧
    s.regB (Reg.cqCfg ((BitVec.ofNat 32 sqOn).toNat / 64 % 1024)) 0 = true ∧ (11 : BitVec 32).toNat / 2 % 32 < 6 ∧
    16 < (35 : BitVec 32).toNat / 2 % 32 ∧ (0 : BitVec 32).getLsbD 0 = false ∧
    (ringed sqOn 0 []).regB (Reg.sqCfg 1023) 0 = true := by decide +kernel
theorem witness_cq_enable : let s := ringed 0 0 []
    (BitVec.ofNat 32 cqOn).getLsbD 0 = true ∧ s.regB (Reg.cqCfg 1023) 0 = false ∧ (BitVec.ofNat 32 cqOn).toNat / 2 % 32 = 6 ∧
    (s.reg (Reg.cqBase 1023)).toNat % 4096 = 0 ∧ firstRefused s.accessible 0x2000 (32 * 2 ^ 6) = none ∧
    (ringed 0 cqOn []).regB (Reg.cqCfg 1023) 0 = true ∧ (ringed 0 cqOn []).cqBusy 1023 = false ∧
    (ringed sqOn cqOn []).cqBusy 1023 = true := by decide +kernel
theorem witness_coalesce : let s : State := { ringed sqOn cqOn [(Reg.cqCoal 1023, 0x10002)] with
      cq := [(1023, { CqSt.init with since := 1 })], time := { TimeSt.init with acc := BitVec.ofNat 82 (64000 * 2 ^ 18) } }
    s.regB (Reg.cqCfg 1023) 0 = true ∧ s.regB (Reg.cqCfg 1023) 17 = true ∧ s.regF (Reg.cqCoal 1023) 16 16 ≠ 0 ∧
    (s.cqOf 1023).since ≠ 0 ∧ (s.cqOf 1023).fired = false ∧
    (s.cqOf 1023).first + usec * s.regF (Reg.cqCoal 1023) 16 16 ≤ s.ft := by decide +kernel
theorem test_sq_enable : (after (.sqEnable 1023 (BitVec.ofNat 32 sqOn)) (ringed 0 cqOn [])).regB (Reg.sqCfg 1023) 0 = true := by
  decide +kernel
theorem test_cq_enable_refused : (after (.cqEnable 1023 11) (ringed 0 0 [])).regF (Reg.cqStatus 1023) 24 8 = 2 := by decide +kernel

/-- The entries of a host signal and of a DMA, OPs 0x8 and 0x1. -/
def sigEntry : List Byte := desc 64 [(0, 1, 8)]
def dmaEntry : List Byte := dmaB
/-- A host signal lies at the head of the ring, which is entry 63; the ring's base in host memory, for the other. -/
def fetchable : State := ({ ringed sqOn cqOn [(Reg.sqStatus 1023, 63)] with sq := [(1023, { SqSt.init with tail := 1 })] } : State).storeBytes
  (0x2000 + 64 * 63) sigEntry
def fetchHost : State := { ringed sqOn cqOn [(Reg.sqBase 1023, 0x800000000000)] with sq := [(1023, { SqSt.init with tail := 1 })] }
theorem witness_ring_fetch : fetchable.regB (Reg.sqCfg 1023) 0 = true ∧ fetchable.regB (Reg.sqStatus 1023) 16 = false ∧
    fetchable.regF (Reg.sqStatus 1023) 0 16 = 63 ∧ (fetchable.sqOf 1023).tail = 1 ∧ fetchable.regF (Reg.sqCfg 1023) 6 10 = 1023 ∧
    fetchable.regB (Reg.cqCfg 1023) 0 = true ∧ fetchable.slotFree 1023 = true ∧ 63 < 2 ^ fetchable.regF (Reg.sqCfg 1023) 1 5 ∧
    CleanAt fetchable (0x2000 + 64 * 63) 64 ∧ fetchable.readFails (0x2000 + 64 * 63) 64 = false ∧ fetchable.entryBad (fetchable.bytes (0x2000 + 64 * 63) 64) = false ∧
    fetchable.entryLate (fetchable.bytes (0x2000 + 64 * 63) 64) = false ∧ (fetchable.reg (Reg.sqBase 1023)).toNat = 0x2000 := by
  unfold CleanAt; decide +kernel
theorem witness_ring_fetch_host : (fetchHost.region (fetchHost.reg (Reg.sqBase 1023)).toNat == .host) = true ∧
    fetchHost.regB (Reg.sqCfg 1023) 0 = true ∧ fetchHost.regF (Reg.sqStatus 1023) 0 16 ≠ (fetchHost.sqOf 1023).tail ∧
    fetchHost.slotFree 1023 = true := by decide +kernel
def waitingEntry (e : List Byte) (bad : Option Nat) : State :=
  { ringed sqOn cqOn [] with sq := [(1023, { SqSt.init with waiting := [⟨e, 0, 0, 0, bad⟩] })] }
theorem witness_entry_launch : (∀ k ∈ [(sigEntry, none), (dmaEntry, none), (sigEntry, some 0x60)],
      (waitingEntry k.1 k.2).sqOf 1023 = { SqSt.init with waiting := [⟨k.1, 0, 0, 0, k.2⟩] } ∧ entFence k.1 = false ∧
      (waitingEntry k.1 k.2).pendStore + 1 < 4096) ∧ entOp sigEntry = 8 ∧ entOp dmaEntry = 1 := by decide +kernel
def owedC : Compl where
  cring := 1023
  status := 0
  action := true
  sring := 0
  sidx := 0
  stitch := 0
  pleat := 0
  failed := 0
  info := 0
  hold := false
/-- The entry goes to the ring's last slot, after which the phase turns. -/
def owing : State := { ringed sqOn cqOn [(Reg.cqStatus 1023, 0x1003F)] with owed := [owedC] }
theorem witness_completion : owing.nextCompl 1023 = some owedC ∧ owing.regB (Reg.cqCfg 1023) 0 = true ∧
    owing.regF (Reg.cqStatus 1023) 24 8 = 0 ∧ owing.regF (Reg.cqStatus 1023) 0 16 = 63 ∧
    CleanAt owing (0x2000 + 32 * 63) 32 ∧ HostWell owing ∧ owing.rangeBusy (0x2000 + 32 * 63) 32 true = false ∧ (63 + 1) % 2 ^ owing.regF (Reg.cqCfg 1023) 1 5 = 0 := by
  unfold CleanAt HostWell; decide +kernel
theorem test_completion : let t := after (.completionWrite 1023 false) owing
    t.regF (Reg.cqStatus 1023) 0 16 = 0 ∧ t.regB (Reg.cqStatus 1023) 16 = false ∧ t.owed = [] := by decide +kernel

/-! ## DMA, the mailbox and the host -/

def fillB : List Byte := desc 64 [(0, 4, 1), (24, 8, 0xFFFF000000001003), (32, 4, 9), (36, 1, 1), (56, 8, 0x0807060504030201)]
def dmaOf (b : List Byte) (running : Bool) : State :=
  { opened with dmas := [(1, some ⟨0, 0, some 0x8000, b, false, running, [], 0⟩)] }
theorem witness_dma : (∀ b ∈ [fillB, dmaB], Tbl.get none (dmaOf b false).dmas 1 = some ⟨0, 0, some 0x8000, b, false, false, [], 0⟩ ∧
      (dmaOf b false).waitMet (at_ b 37 1) (at_ b 40 2) = true ∧ 0 < dmaLen b ∧ (dmaOf b false).isLocal (dmaDst b) = true ∧
      CleanAt (dmaOf b false) (devAddr (dmaDst b)) (dmaLen b) ∧ devAddr (dmaDst b) + dmaLen b ≤ 2 ^ 48 ∧
      (dmaOf b false).replEntries = [] ∧ (dmaOf b false).replHeld = [] ∧ HostWell (dmaOf b false) ∧
      (dmaOf b false).rangeBusy (devAddr (dmaDst b)) (dmaLen b) true = false ∧ (dmaOf b false).accesses = []) ∧ dmaFill fillB = true ∧ dmaFill dmaB = false ∧
    (dmaOf dmaB false).isLocal (dmaSrc dmaB) = true ∧ CleanAt (dmaOf dmaB false) (devAddr (dmaSrc dmaB)) (dmaLen dmaB) ∧
    devAddr (dmaSrc dmaB) + dmaLen dmaB ≤ 2 ^ 48 ∧ dmaSrc dmaB / 2 ^ 48 < 65536 ∧ (dmaOf dmaB false).dmaOverlap dmaB = false ∧
    (dmaOf dmaB false).rangeBusy (devAddr (dmaSrc dmaB)) (dmaLen dmaB) false = false := by
  unfold CleanAt HostWell; decide +kernel
theorem test_fill_dma : (after (.dmaStart 1 []) (dmaOf fillB false)).bytes 0x1003 9 = [4, 5, 6, 7, 8, 1, 2, 3, 4] := by decide +kernel
theorem witness_dma_complete : Tbl.get none (dmaOf dmaB true).dmas 1 = some ⟨0, 0, some 0x8000, dmaB, false, true, [], 0⟩ ∧
    (dmaOf dmaB true).unitOwes (dmaReq 1) = false ∧ ((dmaOf dmaB true).region 0x8003 == .host) = false ∧
    PlainByte (dmaOf dmaB true) 0x8003 := by unfold PlainByte; decide +kernel
theorem witness_mailbox : opened.regF Reg.secStatus 0 4 ≠ 14 ∧ (4096 : Nat) ≤ 4096 ∧ 0x7FFFFF + [(1 : Byte)].length ≤ 0x800000 ∧
    ({ opened with mboxTime := some (5, 0) } : State).mboxTime = some (5, opened.ft) ∧
    opened.reaches Reg.hubEvlogRp = true := by decide +kernel
theorem test_vector_masked : (after .identify opened).msixOut.length = if opened.regB (Reg.msix3 0) 0 then 0 else 1 := by decide +kernel
theorem witness_host_memory : ({ opened with linkUp := true, linkCxl := true } : State).cxlMem = true ∧ (opened.region lastSector == .working) = true ∧ opened.memHeld = [] ∧ opened.retiring = [] ∧
    opened.hostLines.length < 524288 ∧ [(1 : Byte)] ≠ [] ∧ lastSector % 64 + (List.replicate 32 (1 : Byte)).length ≤ 64 ∧
    opened.poisonIn lastSector 32 = false := by decide +kernel
theorem witness_bisnp : ∀ inv ∈ [true, false], let s : State := { opened with bisnps := [(7, inv)], hostLines := [(7, true)] }
    s.bisnps.find? (fun e => e.1 == 7) = some (7, inv) ∧ s.memHeld = [] ∧ NoneWaiting s := by
  unfold NoneWaiting; decide +kernel

/-! ## Checkpoint pockets -/

/-- Two members, nodes 32 and 37, of which the package is the first or the second. -/
def pair (idx : Nat) (l : List (Nat × W64)) : State :=
  (withRegs ([(Reg.memStatus, 8), (Reg.fabNode, 32), (Reg.fabPkey, 9), (Reg.fabPStatus 5, 0x250002), (Reg.ckpGrpList, 0x100),
    (Reg.ckpGrp, BitVec.ofNat 64 (2 + 256 * idx))] ++ l)).storeBytes 0x100 (if idx = 0 then [32, 0, 37, 0] else [37, 0, 32, 0])
/-- A descriptor of one segment, of 64 bytes at 0, whose list lies at 0x10000, and one of no segment. -/
def ckpB (n : Nat) : List Byte := desc 64 [(4, 4, n), (8, 8, 0x10000), (16, 8, 4096 * 65), (33, 1, 0xFF)]
def ckpRef (n : Nat) : CkpRef := ⟨0, 0, 0x8000, ckpB n, false⟩
def cap (stage n : Nat) : Capture := ⟨ckpRef n, stage, 1, 1, 5, 0, 65, 65, List.replicate 32 0, [], some 0⟩
def capturing (stage n : Nat) : State :=
  ({ opened with ckpRun := some (cap stage n) } : State).storeBytes 0x10000 (natBytes 8 0 ++ natBytes 8 64)
theorem witness_gate : (∀ n ∈ [0, 1], (capturing 0 n).ckpRun = some (cap 0 n) ∧ (cap 0 n).waits (capturing 0 n) = false ∧
      (capturing 0 n).ckpQ = []) ∧ (capturing 0 0).captureStatus (ckpB 0) = 0x70 ∧ (capturing 0 1).captureStatus (ckpB 1) = 0 ∧
    (capturing 0 1).poisonIn (recNum (ckpB 1) 8 8) (16 * recNum (ckpB 1) 4 4) = false ∧ (capturing 0 1).gateHeld = false ∧
    (∀ p ∈ (capturing 0 1).captureSpans (ckpB 1), (capturing 0 1).rangeBusy p.1 p.2 false = false) ∧
    segsOf (capturing 0 1) (ckpB 1) = [(0, 64)] ∧ (capturing 0 1).ckpG = 1 := by decide +kernel
theorem witness_exchange : (cap 1 1).stage = 1 ∧ (capturing 1 1).summaries = [] ∧ (cap 1 1).slot < 2 := by decide +kernel
theorem witness_commit : (capturing 2 1).ckpRun = some (cap 2 1) ∧ (capturing 2 1).commitReady (cap 2 1) = true ∧
    (cap 2 1).digest.length = 32 ∧ (capturing 2 1).ckpQ = [] ∧ (cap 2 1).slot < 2 := by decide +kernel
theorem witness_peer_timeout : let s : State := late { pair 0 [] with ckpRun := some (cap 2 1) }
    s.restore = none ∧ (∃ p ∈ s.ckpOthers, s.summaryFrom p.2 = []) ∧ s.ckpQ = [] ∧ (cap 2 1).since = some 0 ∧ s.peerLate 0 = true :=
  ⟨by decide +kernel, ⟨(1, 37), by decide +kernel, by decide +kernel⟩, by decide +kernel⟩
/-- The gate waits for the other member, which did not announce the generation that slot 0 holds. -/
theorem witness_gate_timeout : let s : State := late (({ pair 0 [(Reg.ckpSlotState 0, 3), (Reg.ckpSlotGen 0, 4)] with
      ckpRun := some (cap 0 1), ckpNewest := some 0 } : State).storeBytes 0x10000 (natBytes 8 0 ++ natBytes 8 64))
    (cap 0 1).waits s = false ∧ s.captureStatus (ckpB 1) = 0 ∧ s.gateOpen = false ∧ s.restore = none ∧ s.peerLate 0 = true := by
  decide +kernel
theorem witness_action_checkpoint_queued : let s : State := { launching 7 (ckpB 1) with ckpRun := some (cap 1 1) }
    Launching s 7 64 (launch 7) [] ∧ s.restore = none ∧ s.ckpRun.isSome = true ∧ s.ckpQ.length < 4 := by
  unfold Launching; decide +kernel
theorem test_gate_refused : (after .captureGateOpen (capturing 0 0)).byte 0x8003 = 0x70 := by decide +kernel

/-- Messages of every kind, number 0, and the acknowledgements. -/
theorem witness_pocket_message : (∀ k ∈ [0, 1, 2, 3, 4, 5], Accepted meshed (flitOf 0x18 (k * 2 ^ 33) [] 0) 0x18 ∧
      meshed.chunkRoom (flitOf 0x18 (k * 2 ^ 33) [] 0) = true ∧ pktKind (chunkOf meshed (flitOf 0x18 (k * 2 ^ 33) [] 0)).addr = k) ∧ RouteTo meshed 37 2 5 ∧ meshed.ckpRun = none := by
  unfold Accepted RouteTo; decide +kernel
/-- The words of a parity chunk: 126 that came before and the last two; the member's capture expects it. -/
def parityState : State := { pair 0 [] with
  ckpRun := some { cap 1 1 with cmax := 1 }
  chunksRx := [⟨37, 3, 0x18, 0, cleanWords (List.replicate 126 5), false⟩] }
theorem witness_parity : let gs : List Granule := List.replicate 128 5
    let f := flitOf 0x18 4 (cleanWords (List.replicate 2 5)) (crc64 (wordBytes gs))
    OneChunk parityState f ∧ (chunkOf parityState f).words ++ f.words = cleanWords gs ∧ f.trailer.toNat = crc64 (wordBytes gs) ∧
    (chunkOf parityState f).addr = 0 ∧ gs.length = 128 := by
  intro gs f
  obtain ⟨e, -, o⟩ := chunk_goes_on parityState ⟨37, 3, 0x18, 0, cleanWords (List.replicate 126 5), false⟩ f rfl ⟨rfl, rfl, rfl⟩
  refine ⟨o, ?_, Nat.mod_eq_of_lt (crc64_lt _), by rw [e], List.length_replicate ..⟩
  rw [e]
  show cleanWords (List.replicate 126 5) ++ cleanWords (List.replicate 2 5) = cleanWords gs
  unfold cleanWords
  rw [← List.map_append, List.replicate_append_replicate]
theorem witness_parity_member : Accepted parityState (flitOf 0x18 4 [] 0) 0x18 ∧ parityState.chunkRoom (flitOf 0x18 4 [] 0) = true ∧ RouteTo parityState 37 2 5 ∧
    parityState.ckpOthers.find? (fun q => q.2 == 37) = some (1, 37) ∧ parityState.ckpG = 2 ∧
    (parityState.ckpRun.map fun c => (c.stage, c.got, ceilDiv c.cmax 1)) = some (1, [], 1) := by
  unfold Accepted RouteTo; decide +kernel
def sent : PktTx := ⟨37, 3, 0, [(5, false)]⟩
theorem witness_pocket_ack : let s : State := { meshed with pktTx := [sent] }
    (∀ c ∈ [0, 1, 2], Accepted s (flitOf 0x19 0 [] (c * 65536)) 0x19 ∧ (flitOf 0x19 0 [] (c * 65536)).trailer.toNat / 65536 % 256 = c) ∧
    s.pktTx.find? (fun x => x.dst == 37 && x.tag == 3) = some sent ∧ sent.words.length ≤ 6 ∧ RouteTo s sent.dst 5 5 := by
  unfold Accepted RouteTo; decide +kernel

/-! ## Restores -/

theorem witness_restore_go : opened.reaches Reg.ckpRstCtrl = true ∧ opened.restore = none ∧ opened.running = false ∧
    (∀ g, g < 256 → opened.grpValid g = false) ∧ opened.ckpIdx < opened.ckpG ∧ opened.ckpG = 1 ∧
    (withRegs [(Reg.timCtrl, 1)]).running = true ∧ (withRegs [(Reg.colGCfg 255, 1)]).grpValid 255 = true := by decide +kernel
/-- The first bytes of a record of stitch 5: its member, the group's size, whether its parity is complete, the digests of
shards without chunks. -/
def rec5 (idx g : Nat) : List Byte := desc 64 [(0, 4, 1), (4, 1, 3), (5, 1, g), (6, 1, idx), (7, 1, 1), (8, 8, 5), (16, 8, 1),
  (32, 8, 4096)] ++ (List.replicate g (sha256 [])).flatten
/-- The granules of bytes. -/
def packs (n : Nat) (b : List Byte) : List (Granule × Bool) :=
  (List.range n).map fun k => (BitVec.ofNat 256 (bytesNat ((b.drop (32 * k)).take 32)), false)
/-- A package alone that holds a generation of no data in slot 0. -/
def alone : State := ({ withRegs [(Reg.memStatus, 8), (Reg.ckpSlotState 0, 3), (Reg.ckpSlotStitch 0, 5)] with
  restore := some ⟨false, 0, 0, none, false, 0⟩ } : State).storeBytes 0x019700000000 (rec5 0 1)
theorem witness_choose_own : alone.allAnswered = true ∧ alone.ckpG = 1 ∧
    usableSet 1 (ofStitch (restoreRecords alone) 5) = some none ∧ Chooses alone 5 ∧
    (∀ x ∈ ofStitch (restoreRecords alone) 5, recNum x 5 1 = 1) ∧ Holds alone 0 5 := by
  unfold Chooses Holds; decide +kernel
/-- The second member without its shard: the first one's record of the stitch has come, and nothing in its other slot. -/
def survivor : List PktMsg := [⟨37, 3, 0, packs 128 (rec5 0 2)⟩, ⟨37, 3, 1, packs 128 []⟩]
def lacking : State := { pair 1 [] with restore := some ⟨false, 0, 0, none, false, 0⟩, pktRx := survivor }
theorem witness_choose_missing : lacking.allAnswered = true ∧ lacking.ckpG = 2 ∧ lacking.ckpIdx = 1 ∧
    usableSet 2 (ofStitch (restoreRecords lacking) 5) = some (some 1) ∧ Chooses lacking 5 ∧
    (∀ x ∈ ofStitch (restoreRecords lacking) 5, recNum x 5 1 = 2) ∧ ¬ Holds lacking 0 5 ∧ ¬ Holds lacking 1 5 := by
  unfold Chooses Holds; decide +kernel
def without : State := { opened with restore := some ⟨false, 0, 0, none, false, 0⟩ }
theorem witness_choose_none : without.allAnswered = true ∧ ∀ t0, usableSet without.ckpG (ofStitch (restoreRecords without) t0) = none := by
  refine ⟨by decide +kernel, fun t0 => ?_⟩
  rw [show restoreRecords without = [] from by decide +kernel]
  rfl
theorem witness_restore_timeout : ({ lacking with pktRx := [] } : State).allAnswered = false ∧ (late lacking).peerLate 0 = true := by decide +kernel
/-- The rebuild: the survivor, which sends; the member that lacks its shard, once the chunks have come; and its record with
another digest. -/
def rebuilding (digest : List Byte) : State := { pair 1 [] with
  restore := some ⟨true, 5, 0, some 1, false, 0⟩
  pktRx := [⟨37, 3, 0, packs 128 ((rec5 0 2).take 96 ++ digest)⟩, ⟨37, 3, 1, packs 128 []⟩, ⟨37, 4, 0, packs 128 []⟩,
    ⟨37, 5, 0, packs 128 []⟩] }
theorem witness_rebuild_send : let s : State := { pair 0 [] with restore := some ⟨true, 5, 0, some 1, false, 0⟩ }
    s.ckpIdx ≠ 1 ∧ s.restore = some ⟨true, 5, 0, some 1, false, 0⟩ := by decide +kernel
theorem witness_rebuild : ∀ d ∈ [sha256 [], List.replicate 32 7], let s := rebuilding d
    let rs := ofStitch ((s.ckpOthers.flatMap fun p => s.recordsFrom p.2).filter fun x => decide (3 ≤ recNum x 4 1)) 5
    s.ckpIdx = 1 ∧ rs.length = 1 ∧ (rs.headD []).length = 4096 ∧ recNum (rs.headD []) 32 8 / 4096 = 1 ∧
    s.rebuildReady 1 (ceilDiv 1 (s.ckpG - 1)) = true ∧ shardChunks (s.rebuilt 1 0) = 0 ∧ (∀ m ∈ s.pktRx, m.words.length = 128) ∧
    s.regB Reg.hubEvlogCfg 0 = false ∧
    (shardDigest ((List.range 0).map (s.rebuilt 1)) = ((rs.headD []).drop (64 + 32 * 1)).take 32 ↔ d = sha256 []) := by decide +kernel
/-- A shard of one segment of 64 bytes at 0x4000, its seed 77, ready to be written back to a package whose seed is its own,
or is locked. -/
def writing (lock : W64) : State := (((({ withRegs [(Reg.memStatus, 8), (Reg.bobCtrl, lock)] with
  restore := some ⟨true, 5, 0, none, true, 0⟩ } : State).storeBytes (0x019700010000 + 4) [1]).storeBytes (0x019700010000 + 0x50) [77]).storeBytes
  (0x019700010000 + 0x2000) (natBytes 8 0x4000 ++ natBytes 8 64))
theorem witness_write_back : (writing 0).slotData0 0 = 0x019700010000 ∧ (writing 0).num (0x019700010000 + 0x50) 8 = 77 ∧
    (writing 0).regB Reg.bobCtrl 0 = false ∧ (writing 0).regB Reg.detCfg 31 = false ∧ (writing 1).regB Reg.bobCtrl 0 = true ∧
    ((writing 1).reg Reg.bobSeed).toNat ≠ (writing 1).num (0x019700010000 + 0x50) 8 ∧
    segPairs ((writing 0).bytes (0x019700010000 + 0x2000) (16 * (writing 0).num (0x019700010000 + 4) 4))
      ((writing 0).num (0x019700010000 + 4) 4) = [(0x4000, 64)] ∧ CleanAt (writing 0) 0x4000 64 ∧
    0x4000 + 64 ≤ (writing 0).pocketBase ∧ (writing 0).poisonIn (0x019700010000 + 0x40000) 64 = false ∧
    (writing 0).regB Reg.hubEvlogCfg 0 = false ∧ (writing 0).running = false ∧ (writing 0).rangeBusy 0x4000 64 true = false := by
  unfold CleanAt; decide +kernel

/-! ## Transfers -/

def xferring (st ga : W64) : State := withRegs [(Reg.memStatus, 8), (Reg.ckpSlotState 1, st), (Reg.ckpXferAddr, ga)]
theorem witness_xfer_go : XferGo opened 3 false ∧ XferGo opened 7 true ∧ opened.pocketSize ≠ 0 ∧ opened.xfer = none ∧
    (xferring 2 0).slotValid 1 = false ∧ (xferring 3 0).slotValid 1 = true ∧ (xferring 4 0).slotValid 1 = true ∧
    (xferring 3 0x25000000000000).isLocal 0x25000000000000 = false ∧ (xferring 3 0xFFFF000000000000).isLocal 0xFFFF000000000000 = true ∧
    (withRegs [(Reg.timCtrl, 1)]).running = true ∧ opened.running = false ∧ opened.ckpRun = none ∧ opened.restore = none := by
  unfold XferGo; decide +kernel
theorem witness_xfer_refused : (xferring 2 0).regF (Reg.ckpSlotState ((3 : BitVec 32).toNat / 2 % 2)) 0 3 ≠ 3 ∧
    (xferring 2 0).regF (Reg.ckpSlotState ((3 : BitVec 32).toNat / 2 % 2)) 0 3 ≠ 4 ∧
    let s : State := { capturing 0 1 with xfer := some ⟨0, false, 0, 1, 0, 1, []⟩ }
    (nextSlot s).1 = 0 ∧ s.captureStatus (ckpB 1) = 0 ∧ s.poisonIn 0x10000 16 = false ∧ XferGo s 1 false ∧ XferGo s 5 true := by
  unfold XferGo; decide +kernel
theorem test_xfer_refused : (after (.xferDrain 3) (xferring 2 0)).regF Reg.ckpXferCtrl 24 8 = 0x74 := by decide +kernel
theorem witness_xfer_drained : ∀ n ∈ [0, 3], let x : PktXfer := ⟨1, false, 0, 2, n, 0, []⟩
    x.left = 0 ∧ x.slot < 2 ∧ x.load = false ∧ x.failed = n ∧ opened.unitOwes ckpReq = false := by decide +kernel
/-- A load from the package's own memory. -/
theorem witness_xfer_local : let s := opened
    (∀ a, s.lineBusy a false = false) ∧ (∀ a, s.replLoad a = none) ∧ s.accesses = [] ∧ s.isLocal 0xFFFF000000010000 = true := by
  refine ⟨fun a => line_free _ (by decide +kernel) a false, fun a => ?_, by decide +kernel, by decide +kernel⟩
  have h : opened.replEntries = [] := by decide +kernel
  unfold State.replLoad
  rw [h]
  rfl
/-- A loaded image of one chunk whose record holds the digest of what was loaded, and one whose record is zeros. -/
def loadedRecord (s : State) : List Byte := sealRecord (desc 64 [(0, 4, 1), (4, 1, 3), (5, 1, 1), (8, 8, 5), (16, 8, 9)] ++
  shardDigest (s.slotShard 1 1))
theorem witness_xfer_loaded (s : State) : recordOk (loadedRecord s) = true ∧ (loadedRecord s).length = 4096 ∧
    ((loadedRecord s).drop (64 + 32 * recNum (loadedRecord s) 6 1)).take 32 = shardDigest (s.slotShard 1 1) ∧
    1 ≤ opened.slotChunks := by
  have hd : (desc 64 [(0, 4, 1), (4, 1, 3), (5, 1, 1), (8, 8, 5), (16, 8, 9)]).length = 64 := by decide +kernel
  have hl : (desc 64 [(0, 4, 1), (4, 1, 3), (5, 1, 1), (8, 8, 5), (16, 8, 9)] ++ shardDigest (s.slotShard 1 1)).length = 96 := by
    rw [List.length_append, hd, shardDigest_length]
  have h6 : recNum (loadedRecord s) 6 1 = 0 := by
    unfold recNum loadedRecord
    rw [sealRecord_slice _ _ _ (by rw [hl] <;> decide), List.drop_append_of_le_length (by rw [hd]; decide),
      List.take_append_of_le_length (by rw [List.length_drop, hd]; decide)]
    decide +kernel
  refine ⟨recordOk_sealRecord _ (by rw [hl] <;> decide) (by rw [hl] <;> decide) ?_, sealRecord_length _ (by rw [hl] <;> decide), ?_, by decide +kernel⟩
  · unfold recNum
    rw [List.drop_append_of_le_length (by rw [hd]; decide), List.take_append_of_le_length (by rw [List.length_drop, hd]; decide)]
    decide +kernel
  · rw [h6]
    unfold loadedRecord
    rw [sealRecord_slice _ _ _ (by rw [hl] <;> decide), List.drop_left' hd, List.take_of_length_le (by rw [shardDigest_length] <;> decide)]
theorem witness_xfer_bad : ¬ recordOk (List.replicate 4096 0) = true ∧ (List.replicate 4096 (0 : Byte)).length = 4096 := by
  refine ⟨?_, List.length_replicate ..⟩
  have h : (recNum (List.replicate 4096 0) 0 4 == 1) = false := by decide +kernel
  unfold recordOk
  rw [h, Bool.and_false]
  decide

/-! ## Signed objects: a key of our own, whose hash the fuses of the witness hold, signs an image, a record and a token -/


/-- The modulus, a prime: the signatures were computed outside Lean from it, by RSASSA-PSS as R383 names it. -/
def tstModulus : Nat := 2 ^ 3071 + 2291
/-- A number from its parts of 384 bits, highest first. -/
def wide (l : List Nat) : Nat := l.foldl (fun a b => a * 2 ^ 384 + b) 0
/-- An object: the header fields of Table 16-2, the modulus, the signature, the body. -/
def signed (l : List (Nat × Nat × Nat)) (sig : List Nat) (body : List Byte) : List Byte :=
  desc 64 ([(0, 4, 0x4C435331), (8, 4, body.length), (48, 4, 65537)] ++ l) ++ beBytes 384 tstModulus ++
    beBytes 384 (wide sig) ++ List.replicate 192 0 ++ body
/-- SHA-256 of bytes 48 to 447, as the fuse holds it. -/
def tstKey : BitVec 256 := 0x457c61ce119f9c6111ca8e558fccc85390cf77c1773ef5035d7222d49816f610
def imgSig : List Nat := 
  [0x576c4b4b92f052aee435a8924797592cd164562b4b49e16dc32af63ee32b76165a7c898e32874fbf18df99681ed33e05,
   0xf23f05af8de54d2c225e6db93a4cc02a91628146351497b6ac6eeac07cde553a71141fc9b28d4745baadf5ab250b257f,
   0x865d0d571e8d3f78a26d28caa3ae0e661f50866ebcb88be5a0a3809165f21830ee58623d1ecafd30662157892ffebc50,
   0x8fafa60ee31b8b051ba55e76a6c1f662c3ed514d65394b20305f6f438e4f377db8935dd0320c6893e117294a5cb7d1f1,
   0xab3143c3486904fefe3d651dd2290c2a146e28bfd243f260e22ebc8d133ece0f9959c350fa7e5593c2edb574a4bfe386,
   0x4b8608c3f1eca9e63417ce36a090ffb9064ab1cb4f1cff15574ca7203a7bc028991464ff71e76bbb72a4cc25b95702a4,
   0xd7f81f492de0b03f02929c31e756ac052dfd0f3cbe056056f99e055eec38c5559d1edff7f094e419bf2776a4b16f17e5,
   0xaad270972f0fa0db9f17fa653b6b313371510d06cc673b51f869369e5c7d3f4130bcee36907357fb6e707e4b4cd6f76c]
def recSig : List Nat := 
  [0x69bb91924374aa1229fa65a0bbcd955717b01cbabbc7176b9bf7edcc7044353973b83e337eadcd07fce51d460a161d66,
   0x752789e3aa2c9c45923b415e954ca965a30b44557b95b37668d40a2b8adde293e64c47bf731bcb0666ab32314f66c029,
   0x902a86193599e3a59b7739a9df40c9423eac28fa74406b019173a15cd373a00f48381f41f88c5165530c9a23a5d85894,
   0x5ff8ded3421fe18d264033f573fff3fce1ce7f5b33ecb8868aa59aec843eebf896fcfeebd66a638a50a334e60f3b93f7,
   0x7a66d1a55b364df4ea0d8a4e1ae4495f0fe0451582879c9831bdc957b1382e937dec022f5e7739501bb43cf905243ff1,
   0x9330588fbbe623fd3441c40a04d611831238b56905055ed79c054ccfa592c07d0a21f640b992634614774627bf0975b4,
   0x5af3f14190beac0e0176f3b72a9df36349e8e672aad68e360a7d33a66187c186dfb3fe003431e4bb74c8fd87ca1849c7,
   0x3c8c0bad5746bd6486426f34d6c8c84aa13344a4974e567e76c2771dffc879e5393acdc4a9fee8410940969d6c356140]
def tokSig : List Nat := 
  [0x2b4304ea1af0092af5d490ee2c28fffb148b500ea22a603338e24336a19e007bf7b183bba8feb7638f146a1ebfdd744d,
   0xb5f48653448d7d7213a0c965c20ebaae682c3740343207f12fe40081ba9d31cb582d7cf83ce5de16afbe209625e0f215,
   0x007d07c4536b810f84ade94bc2623911a981a4c7a38b1ee6f808f5242bd886758db2e093ce24d76e0a9712868e1b05e9,
   0x43e8ad32cf70096673ee1027bb2ed827e5037307d26c275ebab6d75954d24d2392b7d104e756a3e81709f8369bc8d82c,
   0xf3098fc15f7b6a2c9c618f15fa9d7e076bd92adc77e100cd600fc9a44059b30c62ed1c3c0cf9de7fae31a835c5d9b7a7,
   0x1b5f52e42107a54cb3a1e27617c7aafc7934e712137b4026c0fbb02ccfc4a97f211d02a5b1ea02cc92cef8a734d3ffb5,
   0xc7255aab2d42e59689447f7baec8a22c75f0f9f75f90e1eca2e2dd59ef059aeedeff58bd3b72555292b85e2da91dd76f,
   0xc4157c51798cb068743b7c71427f14c23ed328d929ebfb28a2a759fd95522d0c76abc8f7a99d42e0e152d65628e18763]
/-- An image of one byte: SVN 3, COMMIT_SVN, LC_SET 2, version 5. -/
def tstImage : List Byte := signed [(4, 2, 1), (12, 1, 3), (13, 1, 5), (16, 8, 5)] imgSig [7]
/-- A list of the record: of `n` units the first `on` are ENABLED and the others SPARE. -/
def unitList (n on : Nat) : List Byte :=
  natBytes ((2 * n + 7) / 8) ((List.range n).foldl (fun a u => a + (if u < on then 1 else 2) * 4 ^ u) 0)
def laneList : List Byte :=
  natBytes 72 ((List.range 288).foldl (fun a u => a + (if u % 9 < 8 then 1 else 2) * 4 ^ u) 0)
def recBody : List Byte := natBytes 8 0 ++ [8] ++ List.replicate 55 0 ++
  (List.replicate 4 (unitList 72 64)).flatten ++ (List.replicate 2 (unitList 136 128 ++ unitList 17 16)).flatten ++ laneList
def tstRecord : List Byte := signed [(4, 2, 2), (6, 2, 1), (24, 8, 9)] recSig recBody
/-- A token that opens level 2, for serial 9 and nonce 77. -/
def tstToken : List Byte := signed [(4, 2, 3), (6, 2, 3), (24, 8, 9), (32, 16, 77)] tokSig (2 :: List.replicate 15 0)
def keys : List (BitVec 256) := [tstKey, tstKey, tstKey, tstKey]
theorem image_ok : objCheck (fun k => keys.getD k 0) 0 0 9 77 [1] tstImage = 0 := by decide +kernel
theorem record_ok : objCheck (fun k => keys.getD k 0) 0 0 9 77 [2] tstRecord = 0 := by decide +kernel
theorem token_ok : objCheck (fun k => keys.getD k 0) 0 0 9 77 [3] tstToken = 0 := by decide +kernel

/-- A table that holds a list from key `a` on. -/
def tblFrom {α : Type} : Nat → List α → Tbl α
  | _, [] => []
  | a, x :: l => (a, x) :: tblFrom (a + 1) l
theorem get_tblFrom {α : Type} (d : α) (l : List α) (t : Tbl α) (a k : Nat) (h : k < l.length) :
    Tbl.get d (tblFrom a l ++ t) (a + k) = l[k] := by
  induction l generalizing a k with
  | nil => exact absurd h (Nat.not_lt_zero _)
  | cons x l ih =>
    cases k with
    | zero => simp [tblFrom, Tbl.get]
    | succ k =>
      have e := ih (a + 1) k (Nat.lt_of_succ_lt_succ h)
      simp only [tblFrom, List.cons_append, Tbl.get, List.getElem_cons_succ]
      rw [if_neg (by omega), ← e]
      congr 1
      omega
theorem get_tblFrom_above {α : Type} (d : α) (l : List α) (t : Tbl α) (a k : Nat) (h : a + l.length ≤ k) :
    Tbl.get d (tblFrom a l ++ t) k = Tbl.get d t k := by
  induction l generalizing a with
  | nil => rfl
  | cons x l ih =>
    simp only [List.length_cons] at h
    simp only [tblFrom, List.cons_append, Tbl.get]
    rw [if_neg (by omega), ih _ (by omega)]
theorem read_tblFrom {α : Type} (d : α) (l : List α) (t : Tbl α) (a j n : Nat) (h : j + n ≤ l.length) :
    (List.range n).map (fun k => Tbl.get d (tblFrom a l ++ t) (a + j + k)) = (l.drop j).take n := by
  apply List.ext_getElem
  · simp; omega
  · intro i h1 h2
    simp only [List.length_map, List.length_range] at h1
    simp only [List.getElem_map, List.getElem_range, List.getElem_take, List.getElem_drop]
    rw [Nat.add_assoc, get_tblFrom d l t a (j + i) (by omega)]
/-- An object is read back by its header and the length that the header names. -/
theorem read_object (d : Byte) (l : List Byte) (t : Tbl Byte) (a m : Nat) (h : l.length = 1024 + hdr (l.take 1024) 8 4)
    (hm : hdr (l.take 1024) 8 4 ≤ m) :
    let hd := (List.range 1024).map (fun k => Tbl.get d (tblFrom a l ++ t) (a + k))
    hd ++ (List.range (min m (hdr hd 8 4))).map (fun k => Tbl.get d (tblFrom a l ++ t) (a + 1024 + k)) = l := by
  have e1 : (List.range 1024).map (fun k => Tbl.get d (tblFrom a l ++ t) (a + k)) = l.take 1024 :=
    read_tblFrom d l t a 0 1024 (by omega)
  intro hd
  have e2 : hd = l.take 1024 := e1
  rw [e2, Nat.min_eq_right hm, read_tblFrom d l t a 1024 _ (by omega),
    List.take_of_length_le (l := l.drop 1024) (by rw [List.length_drop]; omega), List.take_append_drop]

/-- A package whose fuses hold the key and serial 9, with the record and the image in its flash, the image staged, and the
nonce 77. -/
def signedState : State := { withRegs [(Reg.memStatus, 8), (Reg.secDbgNonce 0, 77)] with
  hubUp := true
  fuseKeyHash := keys
  fuseSerial := 9
  flash := tblFrom 0 tstRecord ++ (tblFrom 0x100000 tstImage ++ [])
  staging := tblFrom 0 tstImage ++ [] }
theorem record_shape : tstRecord.length = 1024 + hdr (tstRecord.take 1024) 8 4 ∧
    hdr (tstRecord.take 1024) 8 4 ≤ bodyLimit 2 ∧ tstRecord.length = 1310 := by decide +kernel
theorem image_shape : tstImage.length = 1024 + hdr (tstImage.take 1024) 8 4 ∧
    hdr (tstImage.take 1024) 8 4 ≤ bodyLimit 1 := by decide +kernel
theorem record_read : signedState.flashObject 0 (bodyLimit 2) = tstRecord := by
  have h := read_object 0xFF tstRecord (tblFrom 0x100000 tstImage ++ []) 0 (bodyLimit 2) record_shape.1 record_shape.2.1
  exact h
theorem image_read : signedState.flashObject 0x100000 (bodyLimit 1) = tstImage := by
  have h := read_object 0xFF tstImage [] 0x100000 (bodyLimit 1) image_shape.1 image_shape.2
  have e (k : Nat) : Tbl.get 0xFF signedState.flash (0x100000 + k) = Tbl.get 0xFF (tblFrom 0x100000 tstImage ++ []) (0x100000 + k) :=
    get_tblFrom_above _ _ _ _ _ (by have := record_shape.2.2; omega)
  simp only [State.flashObject, State.flashBytes, e, Nat.add_assoc 0x100000] at h ⊢
  exact h
theorem image_staged : signedState.stagedObject = tstImage := by
  have h := read_object 0 tstImage [] 0 8387584 image_shape.1 image_shape.2
  exact h

theorem signed_nonce : signedState.dbgNonce = 77 := by decide +kernel
theorem witness_activate : signedState.regF Reg.secStatus 0 4 ≠ 14 ∧ signedState.regB Reg.secStatus 11 = false ∧
    signedState.regB Reg.secStatus 9 = false ∧ signedState.checkObject [1] signedState.stagedObject = 0 ∧
    hdr signedState.stagedObject 4 2 = 1 ∧ hdr signedState.stagedObject 13 1 % 2 = 1 := by
  refine ⟨by decide +kernel, by decide +kernel, by decide +kernel, ?_, ?_, ?_⟩
  · have hk : signedState.fuseKeyHash = keys := by unfold signedState; rfl
    have hs : signedState.fuseSerial = 9 := by unfold signedState; rfl
    have hv : signedState.fuseSvn = 0 := by decide +kernel
    have hr : signedState.fuseRevoke = 0 := by decide +kernel
    have hl : ¬ signedState.fuseLifecycle = 3 := by decide +kernel
    unfold State.checkObject
    rw [if_neg hl, hk, hs, hv, hr, image_staged, signed_nonce]
    exact image_ok
  · rw [image_staged]; decide +kernel
  · rw [image_staged]; decide +kernel
theorem bootCode_of (s : State) (b : BootInputs) (r i : List Byte) (hr : s.flashObject 0 (bodyLimit 2) = r)
    (hi : s.flashObject 0x100000 (bodyLimit 1) = i)
    (cr : objCheck (fun k => s.fuseKeyHash.getD k 0) s.fuseRevoke s.fuseSvn s.fuseSerial b.nonce.toNat [2] r = 0)
    (ci : objCheck (fun k => s.fuseKeyHash.getD k 0) s.fuseRevoke s.fuseSvn s.fuseSerial b.nonce.toNat [1] i = 0)
    (hm : mapBad s.grade (r.drop 1024) = false) : bootCode s b = none := by
  unfold bootCode
  simp only [hr, hi, cr, ci, hm]
  rfl
theorem witness_boot_good (u : Bool) : signedState.hubUp = true ∧ signedState.stage = 0 ∧ signedState.fuseLifecycle = 1 ∧
    bootCode signedState ⟨true, true, u, 77⟩ = none := by
  have hk : signedState.fuseKeyHash = keys := by unfold signedState; rfl
  have hs : signedState.fuseSerial = 9 := by unfold signedState; rfl
  have hv : signedState.fuseSvn = 0 := by decide +kernel
  have hr : signedState.fuseRevoke = 0 := by decide +kernel
  have hn : (77 : BitVec 128).toNat = 77 := by decide
  refine ⟨by decide +kernel, by decide +kernel, by decide +kernel, bootCode_of _ _ tstRecord tstImage record_read image_read ?_ ?_ ?_⟩
  · rw [hk, hs, hv, hr, hn]; exact record_ok
  · rw [hk, hs, hv, hr, hn]; exact image_ok
  · decide +kernel
/-- With its flash erased a package has no record: 0x10. -/
theorem witness_boot_bad : let s := ({ State.reset with hubUp := true } : State)
    s.hubUp = true ∧ s.stage = 0 ∧ s.fuseLifecycle < 3 ∧ bootCode s ⟨true, true, true, 77⟩ = some 0x10 ∧
    ({ State.reset with fuseLifecycle := 3 } : State).fuseLifecycle = 3 := by decide +kernel
def tokenState : State := { signedState with mem := tblFrom 0 tstToken ++ [] }
theorem token_level (s : State) (h : s.dbgNonce = 77) (hk : s.fuseKeyHash = keys) (hs : s.fuseSerial = 9) (hl : s.fuseLifecycle = 1)
    (hr : s.fuseRevoke = 0) (hv : s.fuseSvn = 0) (he : s.inError = false) (hd : s.dbgRefusals = 0) (hg : s.dbgLevel = 0)
    (hb : s.regB Reg.secStatus 14 = false) : s.tokenLevel tstToken = some 2 := by
  have hc : s.checkObject [3] tstToken = 0 := by
    unfold State.checkObject
    rw [if_neg (by rw [hl] <;> decide), hk, hr, hv, hs, h]
    exact token_ok
  have h1 : hdr (tstToken.drop 1024) 0 1 = 2 := by decide +kernel
  have h2 : hdr (tstToken.drop 1024) 1 15 = 0 := by decide +kernel
  unfold State.tokenLevel
  rw [if_neg, h1]
  simp [hb, he, hd, h1, h2, hg, hc]
theorem token_shape : tstToken.length = 1040 := by decide +kernel
theorem token_read : tokenState.tokenAt = tstToken := by
  have hb : tokenState.bytes 0 1040 = tstToken := by
    have h := read_tblFrom 0 tstToken [] 0 0 1040 (by rw [token_shape] <;> decide)
    rw [List.drop_zero, List.take_of_length_le (by rw [token_shape] <;> decide)] at h
    exact h
  have ha : firstRefused tokenState.accessible 0 1040 = none := low_accessible _ 0 _ (by decide) fun a h =>
    low_open tokenState (by decide +kernel) (by decide +kernel) (by decide +kernel) a (by omega)
  have hz : (tokenState.reg Reg.secDbgAddr).toNat / 64 * 64 = 0 := by decide +kernel
  unfold State.tokenAt State.load
  rw [hz, ha, hb]
  rw [show tokenState.poisonIn 0 1040 = false from by decide +kernel]
  rfl
theorem witness_token : SecBit tokenState 2 1 ∧ tokenState.tokenLevel tokenState.tokenAt = some 2 ∧
    SecBit opened 2 1 ∧ opened.tokenLevel [] = none := by
  refine ⟨by unfold SecBit; decide +kernel, ?_, by unfold SecBit; decide +kernel, by decide +kernel⟩
  rw [token_read]
  exact token_level _ (by decide +kernel) rfl rfl (by decide +kernel) (by decide +kernel) (by decide +kernel) (by decide +kernel)
    (by decide +kernel) (by decide +kernel) (by decide +kernel)

/-! ## Reliability -/

/-- Seam 10 with 16 words corrected in this interval; and the events before: none, or three within a day. -/
def seamed (n : Nat) (times : List Nat) : State := { opened with seamNow := [(10, n)], faultLog := [(3010, times)], time := { TimeSt.init with acc := 3 * 2 ^ 18 } }
theorem witness_seam : Tbl.get 0 (seamed 64 []).seamNow (10 : Fin 11) ≤ (seamed 64 []).regF Reg.relCfg 8 8 ∧
    (seamed 65 []).regF Reg.relCfg 8 8 < Tbl.get 0 (seamed 65 []).seamNow (10 : Fin 11) ∧ (seamed 65 []).ft = 3 ∧
    (Tbl.get [] (seamed 65 []).faultLog 3010).length < 3 ∧ (Tbl.get [] (seamed 65 [0, 1, 2]).faultLog 3010).length = 3 ∧
    (seamed 65 [0, 1, 2]).ft - [0, 1, 2].headD 0 ≤ day ∧ [0, 1, 2].getLast? ≠ some (seamed 65 [0, 1, 2]).ft := by decide +kernel
/-- Every spare tile of die 3 is FAILED. -/
def spent : State := { opened with unitMap := (List.range 8).map fun k => (physKey 0 3 (64 + k), 0) }
theorem witness_remap : (∀ k ∈ [(0, 255), (1, 255), (2, 31)], k.2 < unitsOf .lcv8 k.1 ∧
      opened.physState k.1 (dieOf k.1 k.2) (opened.physOf k.1 k.2) = 1 ∧
      LowestSpare opened k.1 (dieOf k.1 k.2) (logPerDie k.1)) ∧ opened.test = none ∧ unitsOf opened.grade 2 ≤ 32 ∧
    (BitVec.ofNat 32 (6 + 16 + 65536 * 32)).toNat % 16 = 4 + 2 ∧ (BitVec.ofNat 32 (6 + 16 + 65536 * 32)).getLsbD 4 = true ∧
    (BitVec.ofNat 32 (6 + 16 + 65536 * 32)).toNat / 65536 % 256 = 32 := by unfold LowestSpare; decide +kernel
theorem witness_no_spare : NoSpare spent 0 3 ∧ spent.physState 0 (dieOf 0 255) (spent.physOf 0 255) = 1 ∧ spent.test = none := by
  unfold NoSpare; decide +kernel
/-- REL_UNIT_FAIL of the last spare of die 3, of the tile of logical unit 255, and of that one without a spare. -/
theorem witness_unit_fail : (withRegs [(Reg.timCtrl, 1)]).running = true ∧ opened.running = false ∧ 71 < physPerDie 0 ∧
    3 * logPerDie 0 < unitsOf .lcv8 0 ∧ opened.logicalOf 0 3 71 = none ∧ opened.logicalOf 0 3 63 = some 255 ∧
    LowestSpare opened 0 3 64 ∧ spent.logicalOf 0 3 63 = some 255 := by unfold LowestSpare; decide +kernel
/-- The physical unit of tile 255 is lasting, and a program runs on the tile. -/
def worn : State := { opened.setProg (.tile 255) (some prog0) with lastingRes := [(physKey 0 3 63, true)] }
theorem witness_remap_lasting : worn.remapDue 0 255 = true ∧ opened.remapDue 0 255 = false ∧ worn.test = none ∧
    worn.physState 0 (dieOf 0 255) (worn.physOf 0 255) = 1 ∧ LowestSpare worn 0 3 64 ∧ worn.progOf (.tile 255) = some prog0 ∧
    prog0.ended = none := by unfold LowestSpare; decide +kernel
theorem test_remap : ((after (.remap .tile 255 true) { worn with progs := [] }).physOf 0 255,
    (after (.remap .tile 255 true) { worn with progs := [] }).physState 0 3 63) =
    (64, 0) := by decide +kernel
/-- The last groups of each kind, and the first that is none. -/
theorem witness_test_groups : (∀ k ∈ [(0, 3, 8), (1, 1, 7), (2, 1, 1), (3, 0, 3)], groupPresent .lcv8 k.1 k.2.1 k.2.2 = true) ∧
    (∀ k ∈ [(0, 4, 0), (0, 3, 9), (1, 1, 8), (2, 2, 0), (3, 0, 4)], groupPresent .lcv8 k.1 k.2.1 k.2.2 = false) ∧
    opened.test = none ∧ opened.dieParked 3 = false ∧
    ({ opened with parked := [(unitKey 0 255, true)] } : State).dieParked 3 = true ∧ (BitVec.ofNat 32 (16 + 256 * 3 + 65536 * 8)).getLsbD 4 = true ∧
    ({ opened with test := some ⟨0, 3, 8, [], [], 0⟩ } : State).test.isSome = true := by decide +kernel
/-- The end of a test of the last cluster, of spares, of a unit that was moved, and of a parked one. -/
def tested (moved : List (Nat × Nat)) (parked : List Nat) (s : State) : State := { s with test := some ⟨0, 3, 7, moved, parked, 0⟩ }
theorem witness_test_done : groupPresent (tested [] [] opened).grade 0 3 7 = true ∧ (7 : Nat) < (groupUnits 0 7).2 ∧
    opened.physState 0 3 63 ≠ 0 ∧ (∃ i ∈ [7], i < (groupUnits 0 7).2) ∧
    let s : State := tested [] [255] { spent with parked := [(unitKey 0 255, true)] }
    s.physOf 0 255 = (groupUnits 0 7).1 + 7 ∧ NoSpare s 0 3 ∧ s.isParked 0 255 = true ∧
    (tested [] [255] opened).physState 0 3 ((tested [] [255] opened).physOf 0 255) ≠ 0 := by unfold NoSpare; decide +kernel
/-- The end of a test of the optical group of the rings. -/
theorem witness_test_done_optical : groupPresent opened.grade 3 0 3 = true ∧
    ({ opened with test := some ⟨3, 0, 3, [], [], 3⟩ } : State).test = some ⟨3, 0, 3, [], [], 3⟩ := by decide +kernel

/-! ## Security -/

theorem witness_module : SecBit opened 1 0 ∧ SecBit opened 4 2 ∧ SecBit opened 8 3 ∧ SecBit opened 16 4 ∧ opened.inError = false ∧
    (withRegs [(Reg.secStatus, 7), (Reg.memStatus, 1)]).stage = 7 ∧ (withRegs [(Reg.secStatus, 7), (Reg.memStatus, 1)]).regB Reg.memStatus 0 = true ∧
    SecBit (withRegs [(Reg.secStatus, 7), (Reg.memStatus, 1)]) 16 4 ∧
    (withRegs [(Reg.secStatus, 7), (Reg.memStatus, 1)]).regB Reg.memCtrl 1 = false ∧
    ({ State.reset with hubUp := true } : State).hubUp = true ∧ (withRegs [(Reg.pwrDom 76, 1)]).domOn 76 = true := by
  unfold SecBit; decide +kernel
/-- A responder that serves, with `n` sessions of which the first handshakes or is up. -/
def serving (n : Nat) (up : Bool) : State := { withRegs [(Reg.secStatus, 0x500)] with
  hubUp := true
  nextSession := n
  sessions := (List.range n).map fun k => ⟨k, up, false⟩ }
theorem witness_spdm : (∀ n ∈ [0, 3, 4], (serving n true).spdmServes = true ∧ (serving n true).sessions.length = n ∧
      (serving n true).spdmSession ⟨none⟩ = true) ∧ (serving 4 true).spdmSession ⟨some 3⟩ = true ∧
    (serving 4 true).sessionOf ⟨some 3⟩ = some ⟨3, true, false⟩ ∧ (serving 4 false).sessionOf ⟨some 3⟩ = some ⟨3, false, false⟩ ∧
    (serving 4 true).inSession ⟨some 3⟩ = true ∧ (serving 4 true).identityOk = true := by decide +kernel
/-- A key set that is active, another that is not, and one that was programmed. -/
def keyed (set : Bool) : IdeKey := ⟨3, true, false, set, 7⟩
def streaming : State := { serving 4 true with ide := [(ideKey true false, ⟨some 7, none, some false⟩)] }
theorem witness_ide : (streaming.ideDir true false).active = some (keyed false).set ∧ (streaming.ideDir true false).active ≠ some (keyed true).set ∧
    (streaming.ideDir true false).keyOf (keyed true).set = none ∧ (streaming.ideDir true false).keyOf (keyed false).set ≠ none ∧
    streaming.inSession ⟨some (keyed true).session⟩ = true ∧ streaming.spdmServes = true ∧
    (withRegs [(Reg.secStatus, 0x2000)]).regB Reg.secStatus (if true then 13 else 12) = true := by decide +kernel

/-! ## Power, clocks and the management ports -/

theorem witness_power_up : State.reset.hubUp = false ∧ State.reset.powerHold = false ∧ 44000 < (44001 : BitVec 16).toNat ∧
    State.reset.refBad = false ∧ ({ State.reset with refBad := true } : State).refBad = true := by decide +kernel
/-- A package that is powered, with all domains on. -/
def powered (l : List (Nat × W64)) : State :=
  { withRegs ((Reg.pwrVin, 44000) :: (List.range 80).map (fun n => (Reg.pwrDom n, 1 + 8 * (8 + 128 + 2048))) ++ l) with hubUp := true }
/-- The same at the level 1 of every cause. -/
def lowered : State := powered ((List.range 80).map fun n => (Reg.pwrDom n, 1 + 8 * (1 + 16 + 256)))
theorem witness_pwr_ctrl : (powered []).reaches Reg.pwrCtrl = true ∧ (powered []).domOn 77 = true ∧ (1 : BitVec 32).getLsbD 0 = true ∧
    (1 : BitVec 32).getLsbD 1 = false ∧ (1 : BitVec 32).getLsbD 2 = false ∧ (powered []).regB Reg.pwrStatus 0 = false ∧
    44000 ≤ (powered []).regF Reg.pwrVin 0 16 ∧ (powered [(Reg.pwrVin, 43999)]).regF Reg.pwrVin 0 16 < 44000 ∧
    (∀ v ∈ [0xC302, 0xC304 + 8, 0xC304 + 16, 0xC304 + 8 + 32], KeyWrite (powered []) (BitVec.ofNat 32 v)) ∧
    (BitVec.ofNat 32 0xC302).getLsbD 1 = true ∧ (BitVec.ofNat 32 0xC30C).getLsbD 2 = true ∧ (BitVec.ofNat 32 0xC30C).toNat / 8 % 4 = 1 ∧
    (BitVec.ofNat 32 0xC314).toNat / 8 % 4 = 2 := by unfold KeyWrite; decide +kernel
/-- A request that a controller holds, and a test in progress, at a reset. -/
theorem witness_reset_busy : (powered []).memHeld = [] ∧
    (tested [] [255] (powered [])).test = some ⟨0, 3, 7, [], [255], 0⟩ ∧ groupPresent (powered []).grade 0 3 7 = true := by decide +kernel
theorem witness_power_loss : (38000 : BitVec 16).toNat ≤ 38000 ∧ domPresent (powered []).grade (79 : Fin 80) = true ∧
    (false && true && true) = false ∧ State.reset.domOn 77 = false := by decide +kernel
/-- Ports 24 to 31 disabled and out of the ring; or port 31 still enabled; or the group switched off. -/
theorem witness_off_req : let off := (List.range 32).map fun n => (Reg.fabPCfg n, (0 : W64))
    (∀ k : Fin 8, (powered (off ++ [(Reg.fabRingCtrl, 0)])).regB (Reg.fabPCfg (8 * (3 : Fin 4) + k)) 0 = false) ∧
    (powered (off ++ [(Reg.fabRingCtrl, 0)])).regF Reg.fabRingCtrl 0 2 = 0 ∧
    (powered (off ++ [(Reg.fabPCfg 31, 1)])).regB (Reg.fabPCfg (8 * (3 : Fin 4) + (7 : Fin 8))) 0 = true ∧
    (4 : BitVec 32).getLsbD 2 = true ∧ (powered [(Reg.pwrDom 71, 4), (Reg.pwrStatus, 1)]).regB (Reg.pwrDom 71) 2 = true ∧
    (powered [(Reg.pwrDom 71, 4), (Reg.pwrStatus, 1)]).regB Reg.pwrStatus 0 = true := by decide +kernel
theorem witness_throttling : (41999 : BitVec 16).toNat < 42000 ∧ 42000 ≤ (42000 : BitVec 16).toNat ∧
    (powered [(Reg.pwrStatus, 6)]).regB Reg.pwrStatus 2 = true ∧ (powered [(Reg.pwrStatus, 6)]).regB Reg.pwrStatus 1 = true ∧
    ({ powered [] with upWaits := true } : State).upWaits = true ∧ 44000 < (44001 : BitVec 16).toNat ∧
    (∃ n ∈ tileDomains .lcv8, lowered.level 11 n < 7) ∧ (∀ n ∈ tileDomains .lcv8, 7 ≤ (powered []).level 11 n) ∧
    diePresent (powered []).grade (7 : Fin 8) = true ∧ (110 : Int) ≤ (110 : BitVec 8).toInt ∧ (109 : BitVec 8).toInt < 110 := by
  refine ⟨by decide, by decide, by decide +kernel, by decide +kernel, rfl, by decide, ⟨0, by decide +kernel, by decide +kernel⟩, by decide +kernel,
    by decide +kernel, by decide, by decide⟩
theorem witness_cap : (powered []).domOn 77 = true ∧ (powered []).powerCap < (65535 : BitVec 16).toNat ∧
    (∃ n ∈ computeDomains .lcv8, 1 < (powered [(Reg.pwrDom 0, 1 + 8 * (8 + 128 + 2048))]).level 7 n) :=
  ⟨by decide +kernel, by decide +kernel, ⟨0, by decide +kernel, by decide +kernel⟩⟩
theorem test_cap : (after (.capTick 2401 5) (powered [(Reg.pwrDom 0, 1 + 8 * (8 + 128 + 2048))])).level 7 0 = 7 := by decide +kernel
theorem witness_ports : (powered [(Reg.secStatus, 9)]).stage ≠ 0 ∧ (powered []).domOn 76 = true ∧ (powered []).domOn 75 = true ∧ (powered []).i3cDyn = none ∧
    (BitVec.ofNat 32 Reg.pwrTherm).toNat ∈ [Reg.pwrCap, Reg.pwrBrownCfg, Reg.pwrTherm] ∧
    ((powered []).regAt (BitVec.ofNat 32 Reg.pwrTherm).toNat).isSome = true ∧ (0xBFFFFF : BitVec 32).toNat < 0xC00000 ∧
    0x1000000 ≤ (0x1000000 : BitVec 32).toNat ∧ (0xC00002 : BitVec 32).toNat % 4 ≠ 0 ∧
    (4 : Nat) ∈ [16, 8, 4] ∧ (8 : Nat) ∈ [64, 32, 16, 8] := by decide +kernel

/-! ## The queue, and well-formed commands -/

theorem witness_idle : State.reset.pending = [] := rfl
theorem test_step : step { State.reset with pending := [.seedWrite 1, .hostSnoop 0] } =
    exec (.seedWrite 1) { State.reset with pending := [.hostSnoop 0] } := rfl
theorem test_idle : (match step (powered []) with
    | .next t => t.time.acc
    | _ => 0) = 0x06666666 := by decide +kernel
/-- A unit slowed by a throttle descriptor. -/
theorem witness_slowed : ({ powered [] with swLevel := [(0, 4)] } : State).slowed 5 = true ∧ (powered []).slowed 5 = false := by decide +kernel
/-- One ill-formed command for each check of `Instr.wf`, and one that is well-formed beside it. -/
theorem test_wf_access : (Instr.registerWrite 2 false 0).wf = false ∧ (Instr.registerWrite 4 true 0).wf = false ∧
    (Instr.registerWrite 0x8000000 false 0).wf = false ∧ (Instr.registerWrite 0x7FFFFF8 true 0).wf = true ∧
    (Instr.pairLowWordRead ⟨6, false⟩).wf = false ∧ (Instr.pairLowWordRead ⟨4, true⟩).wf = false ∧
    (Instr.pairLowWordRead ⟨4, false⟩).wf = true ∧ (Instr.pairLowWordRead ⟨8, true⟩).wf = true ∧ (Instr.pairLowWordWrite 4 0).wf = false ∧
    (Instr.pairLowWordWrite 8 0).wf = true ∧ (Instr.pairHighWordWrite 8 0).wf = false ∧ (Instr.pairHighWordWrite 12 0).wf = true ∧
    (Instr.badSizeAccess 8 8 true).wf = false ∧ (Instr.badSizeAccess 4 8 true).wf = true := by decide
theorem test_wf_memory : (Instr.memRead 31 ⟨7, 0⟩ [] []).wf = false ∧ (Instr.memWrite 33 0 false ⟨7, 0⟩ []).wf = false ∧
    (Instr.memPartialWrite 1 0 0 false ⟨7, 0⟩ [] []).wf = false ∧ (Instr.memRead 32 ⟨7, 0⟩ [] []).wf = true ∧
    (Instr.hostMemRead 32 false).wf = false ∧ (Instr.hostMemRead 64 false).wf = true ∧
    (Instr.memAtomic 1 addLast ⟨7, 0⟩ ⟨[], []⟩).wf = false ∧ (Instr.memAtomic 32 addLast ⟨7, 0⟩ ⟨[], []⟩).wf = true ∧
    (Instr.memAtomic 32 { addLast with off := 25 } ⟨7, 0⟩ ⟨[], []⟩).wf = false ∧ (Instr.refreshDue 0 4 0 0 0).wf = false ∧
    (Instr.refreshDue 0 0 2 0 0).wf = false ∧ (Instr.refreshDue 63 3 1 15 9).wf = true := by decide
theorem test_wf_messages : (Instr.rdReq (flitOf 1 2 (cleanWords (List.replicate 7 0)) 1)).wf = false ∧
    (Instr.rdReq (flitOf 1 2 (cleanWords (List.replicate 6 0)) 1)).wf = true ∧
    (Instr.transferFw 0 (List.replicate 4097 0)).wf = false ∧ (Instr.transferFw 0 (List.replicate 4096 0)).wf = true ∧
    (Instr.hostMemWrite 63 [1, 2] false).wf = false ∧ (Instr.hostMemWrite 64 [] false).wf = false ∧
    (Instr.hostMemWrite 63 [1] false).wf = true ∧ (Instr.cxlLinkUp 12 64 true).wf = false ∧ (Instr.cxlLinkUp 16 5 true).wf = false ∧
    (Instr.cxlLinkUp 16 64 true).wf = true := by decide +kernel
/-- The table of operations gives no row any bits, so no word spells a command. -/
theorem test_decode (n w : Nat) : decodeTableWord n w = none ∧ State.reset.withFetchWord n w = State.reset := ⟨rfl, rfl⟩

/-! ## Worked examples of the spec (chapter 10): the check field of a granule -/

theorem test_check_zeros : selvedgeCheck 0 = 0 ∧ writtenCheck 0 true = 0xA5C33C5A := by decide +kernel
theorem test_check_byte : selvedgeCheck (BitVec.ofNat 256 (2 ^ 248)) = 0x4078360F ∧
    writtenCheck (BitVec.ofNat 256 (2 ^ 248)) true = 0xE5BB0A55 := by decide +kernel

/-! ## Instruction words (R157, R158, R176, R177): words written out from Tables 5-8 to 5-10, 7-2 and 7-3 -/

/-- VADD of v9 and v8 to v4: MAJ 0x30, FN 0, the sources in bits 19:15 and 14:10, the destination in 9:5. -/
theorem test_word_vadd : decodeVirulax u0 (BitVec.ofNat 32 (0x30 * 2 ^ 26 + 9 * 2 ^ 15 + 8 * 2 ^ 10 + 4 * 2 ^ 5)) =
    some (.vadd u0 ⟨false, 9, 8, 4, 0, false, false⟩) := by decide +kernel
/-- VLSETI of the worked example; END; an unlisted word. -/
theorem test_words : decodeVirulax u0 0xDC3018A6#32 = some (.vlseti u0 true ⟨false, 0, 6, 5, 1, true, false⟩) ∧
    decodeVirulax u0 0x24000002#32 = some (.endp u0) ∧ decodeVirulax u0 0x28000000#32 = none := by decide +kernel

end Sys2Proof.Tests
end

section
/-! PROOFS. Register writes (R10, R11) and the accesses of BAR0 (R13): what a write by the field types leaves, bit by bit,
and what each of the five accesses does to a word, a pair or an offset without a register. -/
namespace Sys2Proof.Machine
open Sys2Proof.Claims

/-! ## Bits of registers -/

theorem State.regB_eq_getLsbD (s : State) (o i : Nat) : s.regB o i = (s.reg o).getLsbD i := by
  rw [State.regB, State.regF, fld, BitVec.getLsbD, Nat.testBit_eq_decide_div_mod_eq, Nat.pow_one]
  rfl

/-- A field is known by its bits. -/
theorem fld_eq_mod_of_bits {w : Nat} {v : BitVec w} {lo len x : Nat}
    (h : ∀ i, i < len → v.getLsbD (i + lo) = x.testBit i) : fld v lo len = x % 2 ^ len := by
  apply Nat.eq_of_testBit_eq
  intro i
  rw [fld, Nat.testBit_mod_two_pow, Nat.testBit_div_two_pow, Nat.testBit_mod_two_pow]
  by_cases hi : i < len
  · simpa [hi, BitVec.getLsbD] using h i hi
  · simp [hi]

/-! ## The register map -/

/-- No bit of the register is of two field types that a write would treat in different ways. -/
def RegRow.typesApart (r : RegRow) : Bool := (r.rw ||| r.rwl) &&& r.w1c == 0 && r.w1c &&& r.w1s == 0

/-- The rows of every block have at most one field type for each bit (Table 0-5). -/
theorem regBlock_typesApart (off : Nat) : ∀ r ∈ regBlock off, r.typesApart = true := by
  unfold regBlock
  split <;> decide

theorem findReg_mem_regBlock {off o : Nat} {r : RegRow} (h : findReg off = some (r, o)) : r ∈ regBlock off := by
  obtain ⟨r', hr', h'⟩ := List.exists_of_findSome?_eq_some h
  obtain ⟨o', -, ho'⟩ := Option.map_eq_some_iff.mp h'
  rw [← (Prod.mk.inj ho').1]
  exact hr'

theorem findReg_typesApart {off o : Nat} {r : RegRow} (h : findReg off = some (r, o)) : r.typesApart = true :=
  regBlock_typesApart off r (findReg_mem_regBlock h)

theorem State.findReg_of_regAt {s : State} {off : Nat} {p : RegRow × Nat} (h : s.regAt off = some p) :
    findReg off = some p := by
  unfold State.regAt at h
  split at h
  · cases h
  · exact h

/-! ## Writes by the field types -/

/-- A write changes each bit by its field type alone (R10, R11). -/
theorem RegRow.getLsbD_written (r : RegRow) (hr : r.typesApart = true) (locked : Bool) (old new : W64) (i : Nat)
    (hi : i < 64) :
    (r.written locked old new).getLsbD i = bitWritten r locked (old.getLsbD i) (new.getLsbD i) i := by
  simp only [RegRow.typesApart, Bool.and_eq_true, beq_iff_eq] at hr
  obtain ⟨hrw, hw1⟩ := hr
  have apart {x y : Nat} (h : x &&& y = 0) : ¬ (x.testBit i = true ∧ y.testBit i = true) := by
    rw [← Bool.and_eq_true, ← Nat.testBit_and, h, Nat.zero_testBit]; decide
  have hrw' := apart hrw
  have hw1' := apart hw1
  rw [Nat.testBit_or] at hrw'
  have hl : (if locked then 0 else r.rwl).testBit i = (r.rwl.testBit i && !locked) := by cases locked <;> simp
  simp only [RegRow.written, bitWritten, BitVec.getLsbD_or, BitVec.getLsbD_and, BitVec.getLsbD_not, BitVec.getLsbD_ofNat,
    Nat.testBit_or, hl, hi, decide_true, Bool.true_and]
  clear hl
  generalize r.rw.testBit i = rw at *
  generalize r.rwl.testBit i = rwl at *
  generalize r.w1c.testBit i = w1c at *
  generalize r.w1s.testBit i = w1s at *
  generalize old.getLsbD i = old
  generalize new.getLsbD i = new
  revert hrw' hw1'
  revert rw rwl w1c w1s locked old new
  decide

theorem State.plainWrite_of_findReg (s : State) {off o : Nat} {r : RegRow} (new : W64) (h : findReg off = some (r, o)) :
    s.plainWrite off new = s.setReg o (r.written (decide (r.rwl ≠ 0) && s.lockedReg o) (s.reg o) new) := by
  unfold State.plainWrite
  rw [h]

/-- Storing a register changes no other. -/
theorem State.setReg_onlyRegs (s : State) (o : Nat) (v : W64) : OnlyRegs s (s.setReg o v) [o] := fun _ ho =>
  State.reg_setReg_other _ _ (List.ne_of_not_mem_cons ho)

/-- A write by the field types changes no other register. -/
theorem State.plainWrite_onlyRegs (s : State) {off : Nat} {r : RegRow} (new : W64) (h : findReg off = some (r, off)) :
    OnlyRegs s (s.plainWrite off new) [off] := by
  rw [s.plainWrite_of_findReg new h]
  exact s.setReg_onlyRegs _ _

/-- A write by the field types changes the register file alone. -/
theorem State.plainWrite_frame (s : State) (off : Nat) (new : W64) :
    s.plainWrite off new = { s with regs := (s.plainWrite off new).regs } := by
  unfold State.plainWrite
  split <;> rfl

/-- What a write by the field types leaves in its register, bit by bit. -/
theorem State.getLsbD_plainWrite (s : State) {off : Nat} {r : RegRow} (new : W64) (h : findReg off = some (r, off))
    (i : Nat) (hi : i < 64) : ((s.plainWrite off new).reg off).getLsbD i =
      bitWritten r (decide (r.rwl ≠ 0) && s.lockedReg off) ((s.reg off).getLsbD i) (new.getLsbD i) i := by
  rw [s.plainWrite_of_findReg new h, State.reg_setReg_same, RegRow.getLsbD_written r (findReg_typesApart h) _ _ _ i hi]

theorem plainOff_lt_dblBase {off : Nat} (h : plainOff off = true) : off < dblBase := by
  simp only [plainOff, Bool.or_eq_true, Bool.and_eq_true, decide_eq_true_eq] at h
  unfold dblBase
  omega

/-- The registers of `plainOff` have no rule of their own: a write goes by the field types. -/
theorem State.regWrite_of_plainOff (s : State) {off : Nat} (v : W64) (h : plainOff off = true) :
    s.regWrite off v = s.plainWrite off v := by
  simp only [plainOff, Bool.or_eq_true, Bool.and_eq_true, decide_eq_true_eq, bne_iff_ne, Bool.not_eq_true',
    List.contains_eq_mem, decide_eq_false_iff_not, List.mem_cons, List.not_mem_nil, or_false, not_or, Reg.hubEvlogRp,
    Reg.timCtrl, Reg.timStitch, Reg.timSyncCfg, Reg.secCtrl, Reg.memCfg, Reg.memCtrl, Reg.memRetireAdd, Reg.fabCtrl,
    Reg.fabPkey, Reg.fabReplRelease, Reg.fabRingCtrl] at h
  simp only [State.regWrite, Reg.timCtrl, Reg.timStitch, Reg.timSyncCfg, Reg.secCtrl, Reg.pwrCtrl, Reg.pwrDom]
  rcases h with ((((hub | tim) | sec) | mem) | fab) | slv
  · simp only [State.writeHub, Reg.hubEvlogRp, Reg.detCfg, Reg.relTestCtrl, Reg.relUnitFail,
      if_pos (show off < 0x400000 by omega)]
    repeat rw [if_neg (by omega)]
  · repeat rw [if_neg (by omega)]
  · repeat rw [if_neg (by omega)]
  · simp only [State.writeMem, Reg.memCfg, Reg.memCtrl, Reg.memRetireAdd,
      if_pos (show 0x1000000 ≤ off ∧ off < 0x1800000 by omega)]
    repeat rw [if_neg (by omega)]
  · simp only [State.writeFab, Reg.fabCtrl, Reg.fabPkey, Reg.fabReplRelease, Reg.fabRingCtrl,
      if_pos (show 0x2000000 ≤ off ∧ off < 0x3000000 by omega)]
    repeat rw [if_neg (by omega)]
  · repeat rw [if_neg (by omega)]

end Sys2Proof.Machine
end

section
/-! PROOFS. The accesses of BAR0 (R13, R14): what each does to a word, to a pair, and at an offset without a register. -/
namespace Sys2Proof.Machine

theorem goodAccess_iff (off n : Nat) : goodAccess off n = true ↔ (n = 4 ∨ n = 8) ∧ off % n = 0 := by
  simp [goodAccess]

theorem goodAccess_word {off : Nat} (h : off % 4 = 0) : goodAccess off 4 = true := (goodAccess_iff off 4).mpr ⟨.inl rfl, h⟩

theorem goodAccess_pair {off : Nat} (h : off % 8 = 0) : goodAccess off 8 = true := (goodAccess_iff off 8).mpr ⟨.inr rfl, h⟩

/-! ## The commands at an aligned offset of a block that is reached -/

theorem exec_registerWrite_word {s : State} {off : Nat} (v : BitVec 64) (hr : s.reaches off = true) (h : off % 4 = 0) :
    exec (.registerWrite off false v) s = .next (s.write32 off (v.truncate 32)) := by
  change execRegisterWrite off false v s = _
  simp [execRegisterWrite, goodAccess_word h, s.bar_reached _ _ hr]

theorem exec_registerWrite_pair {s : State} {off : Nat} (v : BitVec 64) (hr : s.reaches off = true) (h : off % 8 = 0) :
    exec (.registerWrite off true v) s = .next (s.write64 off v) := by
  change execRegisterWrite off true v s = _
  simp [execRegisterWrite, goodAccess_pair h, s.bar_reached _ _ hr]

theorem exec_pairLowWordRead_word {s : State} {off : Nat} (h : off % 4 = 0) :
    exec (.pairLowWordRead ⟨off, false⟩) s = .next (s.hostRead off false) := by
  change execPairLowWordRead ⟨off, false⟩ s = _
  simp [execPairLowWordRead, goodAccess_word h]

theorem exec_pairLowWordRead_pair {s : State} {off : Nat} (h : off % 8 = 0) :
    exec (.pairLowWordRead ⟨off, true⟩) s = .next (s.hostRead off true) := by
  change execPairLowWordRead ⟨off, true⟩ s = _
  simp [execPairLowWordRead, goodAccess_pair h]

theorem exec_pairLowWordWrite {s : State} {off : Nat} (v : BitVec 32) (hr : s.reaches off = true) (h : off % 4 = 0) :
    exec (.pairLowWordWrite off v) s = .next (s.write32 off v) := by
  change execPairLowWordWrite off v s = _
  simp [execPairLowWordWrite, goodAccess_word h, s.bar_reached _ _ hr]

theorem exec_pairHighWordWrite {s : State} {off : Nat} (v : BitVec 32) (hr : s.reaches off = true) (h : off % 4 = 0) :
    exec (.pairHighWordWrite off v) s = .next (s.write32 off v) := by
  change execPairHighWordWrite off v s = _
  simp [execPairHighWordWrite, goodAccess_word h, s.bar_reached _ _ hr]

/-! ## What an answer to the host leaves -/

@[simp] theorem State.answerWord_busOut (s : State) (w : W32) : (s.answerWord w).busOut = w.zeroExtend 64 := rfl
@[simp] theorem State.answerWord_busPoison (s : State) (w : W32) : (s.answerWord w).busPoison = false := rfl
@[simp] theorem State.answerWord_latched (s : State) (w : W32) : (s.answerWord w).latched = s.latched := rfl

/-! ## What an access does to the word or the pair at its offset -/

section
variable {s : State} {off o : Nat} {r : RegRow} (hd : off < dblBase)
include hd

theorem State.write32_none (v : W32) (h : s.regAt off = none) : s.write32 off v = s := by
  simp [State.write32, Nat.not_le.mpr hd, h]

theorem State.write32_word (v : W32) (h : s.regAt off = some (r, o)) (hw : r.wide = false) :
    s.write32 off v = s.regWrite o (v.zeroExtend 64) := by
  simp [State.write32, Nat.not_le.mpr hd, h, hw]

theorem State.write32_low (v : W32) (h : s.regAt off = some (r, off)) (hw : r.wide = true) :
    s.write32 off v = s.holdWord off (some v) := by
  simp [State.write32, Nat.not_le.mpr hd, h, hw]

theorem State.write32_high (v : W32) (h : s.regAt off = some (r, o)) (hw : r.wide = true) (ho : off ≠ o) :
    s.write32 off v = (s.regWrite o (pairOf ((s.heldAt o).getD ((s.reg o).truncate 32)) v)).holdWord o none := by
  simp [State.write32, Nat.not_le.mpr hd, h, hw, ho]

theorem State.write64_pair (v : W64) (h : s.regAt off = some (r, o)) (hw : r.wide = true) :
    s.write64 off v = (s.regWrite o v).holdWord o none := by
  simp [State.write64, Nat.not_le.mpr hd, h, hw]

/-- A 64-bit read of a pair returns it at once and latches nothing. -/
theorem State.hostRead_pair (hr : s.reaches off = true) (h : s.regAt off = some (r, o)) (hw : r.wide = true) :
    s.hostRead off true = s.answerPair (s.regView o) := by
  simp [State.hostRead, State.readLatch64, State.read64, hr, Nat.not_le.mpr hd, h, hw]

/-- A read of the low word of a pair latches its high word. -/
theorem State.hostRead_low (hr : s.reaches off = true) (h : s.regAt off = some (r, off)) (hw : r.wide = true) :
    s.hostRead off false =
      { s with latched := Tbl.set none s.latched off (some ((s.regView off >>> 32).truncate 32)) }.answerWord
        ((s.regView off).truncate 32) := by
  simp [State.hostRead, State.readLatch, State.read32, hr, Nat.not_le.mpr hd, h, hw]

/-- A read of the high word of a pair returns the latched word where there is one, and empties the latch. -/
theorem State.hostRead_high (hr : s.reaches off = true) (h : s.regAt off = some (r, o)) (hw : r.wide = true)
    (ho : off ≠ o) : s.hostRead off false =
      { s with latched := Tbl.set none s.latched o none }.answerWord
        ((Tbl.get none s.latched o).getD ((s.regView o >>> 32).truncate 32)) := by
  simp [State.hostRead, State.readLatch, State.read32, hr, Nat.not_le.mpr hd, h, hw, ho]

end

/-! ## Held words and pairs of words -/

@[simp] theorem State.heldAt_holdWord (s : State) (o : Nat) (w : Option W32) : (s.holdWord o w).heldAt o = w := by
  simp [State.heldAt, State.holdWord]

theorem State.heldAt_holdWord_other (s : State) {o o' : Nat} (w : Option W32) (h : o' ≠ o) :
    (s.holdWord o w).heldAt o' = s.heldAt o' := Tbl.get_set_other _ _ h

theorem pairOf_eq_append (lo hi : W32) : pairOf lo hi = hi ++ lo := by
  apply BitVec.eq_of_toNat_eq
  rw [pairOf, BitVec.toNat_ofNat, BitVec.toNat_append, ← Nat.shiftLeft_add_eq_or_of_lt lo.isLt, Nat.shiftLeft_eq]
  omega

end Sys2Proof.Machine
end

section
/-! PROOFS. The configuration registers that lock, register writes and pairs of words (R10, R11, R13). -/
namespace Sys2Proof.Proofs
open Sys2Proof.Machine Sys2Proof.Claims

/-! ## The configuration registers that lock -/

theorem findReg_detCfg :
    findReg Reg.detCfg = some (⟨0x340000, 1, 4, 1, 0, false, .pkg, 0, 0, 0, 2 ^ 31, 2 ^ 3 - 1⟩, Reg.detCfg) := by decide

theorem findReg_fabCfg :
    findReg Reg.fabCfg = some (⟨0x2000000, 1, 4, 1, 0, false, .pkg, 0, 0, 0, 2 ^ 31, 2 ^ 0⟩, Reg.fabCfg) := by decide

theorem findReg_colCfg :
    findReg Reg.colCfg = some (⟨0x2800000, 1, 4, 1, 0, false, .pkg, 0, 0, 0, 2 ^ 31, 2 ^ 0⟩, Reg.colCfg) := by decide

theorem regBlock_tns {off : Nat} (h : 0x3000000 ≤ off) (h' : off < 0x4000000) : regBlock off = regRowsTns := by
  have hq : off / 0x400000 = 12 ∨ off / 0x400000 = 13 ∨ off / 0x400000 = 14 ∨ off / 0x400000 = 15 := by omega
  rcases hq with hq | hq | hq | hq <;> simp [regBlock, hq]

theorem findReg_tnsCfg (i : Fin 256) : findReg (Reg.tnsCfg i) =
    some (⟨0x3000000, 1, 4, 256, 0x10000, false, .pkg, 0, 2 ^ 1, 0, 2 ^ 31, 2 ^ 0⟩, Reg.tnsCfg i) := by
  have hi := i.isLt
  have hq : 0x10000 * i.val / 0x10000 = i := Nat.mul_div_cancel_left _ (by decide)
  unfold findReg
  rw [regBlock_tns (by unfold Reg.tnsCfg; omega) (by unfold Reg.tnsCfg; omega)]
  simp [regRowsTns, RegRow.hit, Reg.tnsCfg, hq, Nat.not_le.mpr hi]

/-- A row whose RWL bit 0 is locked by its own bit 31, a W1S bit; bit 1 may be RW (R10). -/
def LockRow (r : RegRow) : Prop :=
  (r.rw = 0 ∨ r.rw = 2 ^ 1) ∧ r.w1c = 0 ∧ r.w1s = 2 ^ 31 ∧ r.rwl = 2 ^ 0

/-- The lock bit of such a register is its own bit 31. -/
def OwnLock (off : Nat) : Prop := off ≠ Reg.bobSeed ∧ off ≠ Reg.fabNode ∧ off ≠ Reg.fabFmNodes

theorem lockedReg_of_ownLock {s : State} {off : Nat} (h : OwnLock off) : s.lockedReg off = (s.reg off).getLsbD 31 := by
  obtain ⟨hseed, hnode, hfm⟩ := h
  rw [State.lockedReg, if_neg hseed, if_neg (by tauto), State.regB_eq_getLsbD]

/-- A write sets the RWL bit 0 of such a row while it is not locked, sets its LOCK bit, and leaves the reserved bits. -/
theorem bitWritten_lockRow {r : RegRow} (hr : LockRow r) (locked old new : Bool) {i : Nat} (hi : i ≠ 1) :
    bitWritten r locked old new i =
      if i = 0 ∧ locked = false then new else if i = 31 then old || new else old := by
  obtain ⟨hrw, hw1c, hw1s, hrwl⟩ := hr
  have rwBit : r.rw.testBit i = false := by
    rcases hrw with e | e
    · rw [e, Nat.zero_testBit]
    · rw [e, Nat.testBit_two_pow_of_ne hi.symm]
  have w1cBit : r.w1c.testBit i = false := by rw [hw1c, Nat.zero_testBit]
  have w1sBit : r.w1s.testBit i = decide (i = 31) := by
    rw [hw1s, Nat.testBit_two_pow]
    exact decide_eq_decide.mpr eq_comm
  have rwlBit : r.rwl.testBit i = decide (i = 0) := by
    rw [hrwl, Nat.testBit_two_pow]
    exact decide_eq_decide.mpr eq_comm
  simp [bitWritten, rwBit, w1cBit, w1sBit, rwlBit]

/-- A write to a configuration register that locks. -/
theorem plainWrite_lockWritten {s : State} {off : Nat} {r : RegRow} (h : findReg off = some (r, off)) (hr : LockRow r)
    (ho : OwnLock off) (v : BitVec 32) : LockWritten s (s.plainWrite off (v.zeroExtend 64)) off v := by
  have hrwl : r.rwl ≠ 0 := by
    obtain ⟨-, -, -, e⟩ := hr
    rw [e]
    decide
  have bits {i : Nat} (hi : i < 32) (h1 : i ≠ 1) : ((s.plainWrite off (v.zeroExtend 64)).reg off).getLsbD i =
      if i = 0 ∧ (s.reg off).getLsbD 31 = false then v.getLsbD i
      else if i = 31 then (s.reg off).getLsbD i || v.getLsbD i else (s.reg off).getLsbD i := by
    have hv : (v.zeroExtend 64).getLsbD i = v.getLsbD i := by
      rw [BitVec.getLsbD_setWidth, decide_eq_true (by omega), Bool.true_and]
    rw [s.getLsbD_plainWrite _ h i (by omega), bitWritten_lockRow hr _ _ _ h1, lockedReg_of_ownLock ho, hv,
      decide_eq_true hrwl, Bool.true_and]
  refine ⟨bits (by decide) (by decide), ?_, fun i h2 h31 => ?_, s.plainWrite_onlyRegs _ h, s.plainWrite_frame _ _⟩
  · rw [bits (by decide) (by decide)]
    cases (s.reg off).getLsbD 31 <;> rfl
  · rw [bits (by omega) (by omega), if_neg (by omega), if_neg (by omega)]

/-- A write to DET_CFG while no job runs and LOCK is 0 is taken. -/
theorem detCfgWrite_unlocked (s : State) (v : BitVec 32) (hrun : s.running = false)
    (hlock : s.regB Reg.detCfg 31 = false) :
    (s.detCfgWrite (v.zeroExtend 64)).regF Reg.detCfg 0 3 = v.toNat % 8 ∧
      (s.detCfgWrite (v.zeroExtend 64)).regB Reg.detCfg 31 = v.getLsbD 31 ∧
      OnlyRegs s (s.detCfgWrite (v.zeroExtend 64)) [Reg.detCfg] ∧
      s.detCfgWrite (v.zeroExtend 64) = { s with regs := (s.detCfgWrite (v.zeroExtend 64)).regs } := by
  have e : s.detCfgWrite (v.zeroExtend 64) = s.plainWrite Reg.detCfg (v.zeroExtend 64) := by
    simp [State.detCfgWrite, hrun, hlock]
  have bits := s.getLsbD_plainWrite (v.zeroExtend 64) findReg_detCfg
  have hl : s.lockedReg Reg.detCfg = false := hlock
  simp only [hl, Bool.and_false] at bits
  rw [e]
  have hv {i : Nat} (hi : i < 64) : (v.zeroExtend 64).getLsbD i = v.getLsbD i := by
    rw [BitVec.getLsbD_setWidth, decide_eq_true hi, Bool.true_and]
  refine ⟨fld_eq_mod_of_bits fun i hi => ?_, ?_, s.plainWrite_onlyRegs _ findReg_detCfg, s.plainWrite_frame _ _⟩
  · have rwlBit : (2 ^ 3 - 1 : Nat).testBit i = true := by rw [Nat.testBit_two_pow_sub_one, decide_eq_true hi]
    rw [Nat.add_zero, bits i (by omega), hv (by omega), bitWritten, rwlBit, Bool.not_false, Bool.and_true, Bool.or_true, if_pos rfl]
    rfl
  · rw [State.regB_eq_getLsbD] at hlock ⊢
    have rwlBit : (2 ^ 3 - 1 : Nat).testBit 31 = false := by decide
    have w1sBit : (2 ^ 31 : Nat).testBit 31 = true := Nat.testBit_two_pow_self
    rw [bits 31 (by decide), hv (by decide), hlock, bitWritten, rwlBit, w1sBit]
    rfl

/-- DET_CFG keeps its value while a job runs or LOCK is 1. -/
theorem detCfgWrite_locked (s : State) (v : W64) (h : s.running = true ∨ s.regB Reg.detCfg 31 = true) :
    s.detCfgWrite v = s := by
  rcases h with h | h <;> simp [State.detCfgWrite, h]

theorem lockingRegisters : Parts.LockingRegisters := by
  refine ⟨fun v s => ⟨fun hrun hlock => ?_, fun h => ?_⟩, fun i v s hr hi => ?_, fun v s hr => ?_, fun v s hr => ?_⟩
  · exact ⟨⟨_, rfl, detCfgWrite_unlocked s v hrun hlock⟩, ⟨_, rfl, detCfgWrite_unlocked s v hrun hlock⟩⟩
  · have e := detCfgWrite_locked s (v.zeroExtend 64) h
    exact ⟨congrArg Host.Outcome.next e, congrArg Host.Outcome.next e⟩
  · refine ⟨_, rfl, ?_⟩
    rw [s.bar_reached _ _ hr, State.tnsCfgWrite, if_neg (Nat.not_le.mpr hi)]
    refine plainWrite_lockWritten (findReg_tnsCfg i) ⟨.inr rfl, rfl, rfl, rfl⟩ ⟨?_, ?_, ?_⟩ v <;>
      simp only [Reg.tnsCfg, Reg.bobSeed, Reg.fabNode, Reg.fabFmNodes] <;> omega
  · refine ⟨_, rfl, ?_⟩
    rw [s.bar_reached _ _ hr]
    exact plainWrite_lockWritten findReg_fabCfg ⟨.inl rfl, rfl, rfl, rfl⟩ (by unfold OwnLock; decide) v
  · refine ⟨_, rfl, ?_⟩
    rw [s.bar_reached _ _ hr]
    exact plainWrite_lockWritten findReg_colCfg ⟨.inl rfl, rfl, rfl, rfl⟩ (by unfold OwnLock; decide) v

/-! ## Register writes -/

theorem registerWrites : Parts.RegisterWrites := by
  intro off v s hr hp
  have hd := plainOff_lt_dblBase hp
  refine ⟨fun r h hw ha => ?_, fun r h hw ha => ?_, fun h ha => ?_⟩
  · have hf := State.findReg_of_regAt h
    refine ⟨_, exec_registerWrite_word v hr ha, ?_⟩
    rw [State.write32_word hd _ h hw, s.regWrite_of_plainOff _ hp]
    refine ⟨s.plainWrite_onlyRegs _ hf, s.plainWrite_frame _ _, fun i hi => ?_⟩
    have hv : ((v.truncate 32).zeroExtend 64).getLsbD i = v.getLsbD i := by simp [hi]; omega
    rw [s.getLsbD_plainWrite _ hf i (by omega), hv]
  · have hf := State.findReg_of_regAt h
    refine ⟨_, exec_registerWrite_pair v hr ha, ?_⟩
    rw [State.write64_pair hd v h hw, s.regWrite_of_plainOff _ hp]
    refine ⟨s.plainWrite_onlyRegs v hf, State.heldAt_holdWord _ _ _, fun o ho => ?_, ?_,
      s.getLsbD_plainWrite v hf⟩
    · rw [State.heldAt_holdWord_other _ _ ho, s.plainWrite_frame]
      rfl
    · rw [s.plainWrite_frame]
      rfl
  · rw [exec_registerWrite_word v hr ha, State.write32_none hd _ h]

/-! ## Pairs of words -/

theorem pairAccesses : Parts.PairAccesses := by
  intro off r v s hd ha hw hlo hhi hr hr4
  have ha4 : off % 4 = 0 := by omega
  have ha4' : (off + 4) % 4 = 0 := by omega
  have hd' : off + 4 < dblBase := by unfold dblBase at *; omega
  have hne : off + 4 ≠ off := by omega
  refine ⟨?_, ⟨_, exec_pairLowWordRead_word ha4, ?_⟩, ⟨_, exec_pairLowWordRead_word ha4', ?_⟩,
    ⟨_, exec_pairLowWordWrite v hr ha4, ?_⟩, _, exec_pairHighWordWrite v hr4 ha4', ?_, ?_⟩
  · rw [exec_pairLowWordRead_pair ha, State.hostRead_pair hd hr hlo hw]
    rfl
  · rw [State.hostRead_low hd hr hlo hw]
    exact ⟨rfl, by simp, rfl⟩
  · rw [State.hostRead_high hd' hr4 hhi hw hne]
    refine ⟨by simp, fun h hl => ?_, fun hl => ?_, rfl⟩ <;> simp [hl]
  · rw [State.write32_low hd v hlo hw]
    exact ⟨State.heldAt_holdWord _ _ _, fun o ho => State.heldAt_holdWord_other _ _ ho, rfl⟩
  · rw [State.write32_high hd' v hhi hw hne, State.heldAt_holdWord]
  · rw [exec_registerWrite_pair _ hr ha, State.write64_pair hd _ hlo hw, State.write32_high hd' v hhi hw hne,
      pairOf_eq_append]

/-- Settles O29: the locks by the bits that a write by the field types leaves, plain writes by the register's block, pairs
by the equation of each access. -/
theorem registerAccesses : Obligations.RegisterAccesses := ⟨lockingRegisters, registerWrites, pairAccesses⟩

end Sys2Proof.Proofs
end

section
/-! PROOFS. What an event of a block changes (R341, R343): the registers, the slots of the event log, and the interrupts. -/
namespace Sys2Proof.Machine
open Sys2Proof.Claims

/-! ## The steps of an event -/

/-- Setting an event bit sets the bit, raises the in-band interrupt of a power event, and raises a vector: what each step
keeps is kept. -/
theorem State.setEvent_induction {P : State → Prop} {s : State} {blk ev bit : Nat} (hbit : P (s.setRegB ev bit true))
    (hibi : blk = 3 → ∀ t : State, P t → P t.powerIbi) (hvec : ∀ (t : State) (v : Nat), P t → P (t.raiseVector v)) :
    P (s.setEvent blk ev bit) := by
  unfold State.setEvent
  dsimp only
  split
  case isTrue h =>
    have hp := hibi h.1 _ hbit
    split
    · exact hvec _ _ hp
    · exact hp
  case isFalse =>
    split
    · exact hvec _ _ hbit
    · exact hbit

/-- Logging an event writes records, counts those lost, and sets EVLOG_WRAP: what each step keeps is kept. -/
theorem State.logRecord_induction {P : State → Prop} {s : State} {blk bit : Nat} {unit detail : Option Nat} (hs : P s)
    (hput : ∀ (t : State) (blk bit : Nat) (unit detail : Option Nat), P t → P (t.putLogRecord blk bit unit detail))
    (hlost : ∀ t : State, P t → P (t.count64 Reg.hubEvlogLost 1))
    (hwrap : ∀ t : State, P t → P (t.setEvent 0 Reg.hubEvent 5)) : P (s.logRecord blk bit unit detail) := by
  unfold State.logRecord
  split
  · exact hs
  · split
    · exact hlost _ (hput _ _ _ _ _ (hwrap _ (hlost _ (hput _ _ _ _ _ hs))))
    · exact hput _ _ _ _ _ hs

/-! ## The event bit and its vector (R341) -/

/-- Registers below the pending bits of MSI-X are none of them. -/
theorem ne_msixPba {o : Nat} (h : o < Reg.msixPba 0) (k : Nat) : o ≠ Reg.msixPba k := by
  simp only [Reg.msixPba] at *
  omega

@[simp] theorem State.raiseVector_mem (s : State) (v : Nat) : (s.raiseVector v).mem = s.mem := by
  unfold State.raiseVector; split <;> rfl

@[simp] theorem State.raiseVector_poison (s : State) (v : Nat) : (s.raiseVector v).poison = s.poison := by
  unfold State.raiseVector; split <;> rfl

@[simp] theorem State.raiseVector_ibiOut (s : State) (v : Nat) : (s.raiseVector v).ibiOut = s.ibiOut := by
  unfold State.raiseVector; split <;> rfl

theorem State.raiseVector_reg_other (s : State) (v : Nat) {o : Nat} (h : ∀ k, o ≠ Reg.msixPba k) :
    (s.raiseVector v).reg o = s.reg o := by
  unfold State.raiseVector
  split
  · exact State.reg_setReg_other _ _ (h _)
  · rfl

@[simp] theorem State.setEvent_mem (s : State) (blk ev bit : Nat) : (s.setEvent blk ev bit).mem = s.mem :=
  State.setEvent_induction (P := fun t => t.mem = s.mem) rfl (fun _ _ h => h) fun t v h => (t.raiseVector_mem v).trans h

@[simp] theorem State.setEvent_poison (s : State) (blk ev bit : Nat) : (s.setEvent blk ev bit).poison = s.poison :=
  State.setEvent_induction (P := fun t => t.poison = s.poison) rfl (fun _ _ h => h)
    fun t v h => (t.raiseVector_poison v).trans h

/-- Only a power event raises an in-band interrupt (R430). -/
theorem State.setEvent_ibiOut (s : State) {blk : Nat} (ev bit : Nat) (h : blk ≠ 3) :
    (s.setEvent blk ev bit).ibiOut = s.ibiOut :=
  State.setEvent_induction (P := fun t => t.ibiOut = s.ibiOut) rfl (fun h3 => absurd h3 h)
    fun t v h => (t.raiseVector_ibiOut v).trans h

/-- The event register after its bit was set, vectors raised or not. -/
theorem State.setEvent_reg_event (s : State) (blk : Nat) {ev : Nat} (bit : Nat) (h : ∀ k, ev ≠ Reg.msixPba k) :
    (s.setEvent blk ev bit).reg ev = (s.setRegB ev bit true).reg ev :=
  State.setEvent_induction (P := fun t => t.reg ev = (s.setRegB ev bit true).reg ev) rfl (fun _ _ h => h)
    fun t v ht => (t.raiseVector_reg_other v h).trans ht

/-- The event's own bit is set. -/
theorem State.setEvent_regB_event (s : State) (blk : Nat) {ev bit : Nat} (h : ∀ k, ev ≠ Reg.msixPba k) (hb : bit < 64) :
    (s.setEvent blk ev bit).regB ev bit = true := by
  rw [← s.regB_setRegB_same ev bit true hb, State.regB, State.regF, s.setEvent_reg_event blk bit h, State.regB, State.regF]

/-- An event clears no bit of a register that is not one of pending bits. -/
theorem State.setEvent_keeps_bit (s : State) (blk ev bit : Nat) {o b : Nat} (h : ∀ k, o ≠ Reg.msixPba k) (hb : b < 64)
    (hs : s.regB o b = true) : (s.setEvent blk ev bit).regB o b = true := by
  by_cases ho : o = ev
  · subst ho
    by_cases hbit : b = bit
    · subst hbit
      exact s.setEvent_regB_event blk h hb
    · rw [State.regB, State.regF, s.setEvent_reg_event blk bit h]
      exact (s.regB_setRegB_bit o bit b true hbit).trans hs
  · rw [State.regB, State.regF, State.setEvent_reg_other s blk ev bit o ho h]
    exact hs

/-! ## One record of the event log (R343) -/

@[simp] theorem State.record_length (s : State) (blk bit : Nat) (unit detail : Option Nat) :
    (s.record blk bit unit detail).length = 32 := by
  simp [State.record]

theorem State.putLogRecord_reg_other (s : State) (blk bit : Nat) (unit detail : Option Nat) {o : Nat}
    (h : o ≠ Reg.hubEvlogWp) : (s.putLogRecord blk bit unit detail).reg o = s.reg o := by
  unfold State.putLogRecord
  dsimp only
  rw [State.reg_setReg_other _ _ h]
  split <;> rfl

theorem State.putLogRecord_reg_wp (s : State) (blk bit : Nat) (unit detail : Option Nat) :
    (s.putLogRecord blk bit unit detail).reg Reg.hubEvlogWp = BitVec.ofNat 64 ((s.reg Reg.hubEvlogWp).toNat + 1) := by
  unfold State.putLogRecord
  exact State.reg_setReg_same _ _ _

theorem State.putLogRecord_ibiOut (s : State) (blk bit : Nat) (unit detail : Option Nat) :
    (s.putLogRecord blk bit unit detail).ibiOut = s.ibiOut := by
  unfold State.putLogRecord
  dsimp only
  split <;> rfl

/-- A record changes no byte outside its slot. -/
theorem State.putLogRecord_byte (s : State) (blk bit : Nat) (unit detail : Option Nat) {a : Nat}
    (h : a < logSlot s 0 ∨ logSlot s 0 + 32 ≤ a) : (s.putLogRecord blk bit unit detail).byte a = s.byte a := by
  unfold State.putLogRecord
  dsimp only
  split
  · exact State.byte_storeBytes_other _ _ _ _ (by rw [State.record_length]; exact h)
  · rfl

theorem logSlot_mod (s : State) (k : Nat) : logSlot s k % 32 = 0 := by
  unfold logSlot
  omega

/-- A record changes the poison of no granule but its slot's. -/
theorem State.putLogRecord_poisoned (s : State) (blk bit : Nat) (unit detail : Option Nat) {g : Nat}
    (h : 32 * g ≠ logSlot s 0) : (s.putLogRecord blk bit unit detail).poisoned g = s.poisoned g := by
  have hm := logSlot_mod s 0
  have hg : granules (logSlot s 0) 32 = [logSlot s 0 / 32] := granules_aligned _ _ (by decide) (by decide) hm
  have hne : ¬ g = logSlot s 0 / 32 := by omega
  unfold State.putLogRecord
  dsimp only
  split
  · change Tbl.get false (setPoison false s.poison ((granules (logSlot s 0) (State.record s blk bit unit detail).length).filter
      _)) g = _
    rw [State.record_length, hg, get_setPoison, if_neg fun hmem => hne (List.mem_singleton.mp (List.mem_of_mem_filter hmem))]
    rfl
  · rfl

/-! ## The slots that an event writes -/

/-- The registers that say where the event log's records go. -/
def logOffs : List Nat := [Reg.hubEvlogBase, Reg.hubEvlogCfg, Reg.hubEvlogWp, Reg.hubEvlogRp]

theorem evlogSize_dvd (s : State) : s.evlogSize ∣ 2 ^ 64 := by
  unfold State.evlogSize
  refine Nat.pow_dvd_pow 2 ?_
  split <;> omega

theorem evlogSize_congr {s t : State} (h : t.reg Reg.hubEvlogCfg = s.reg Reg.hubEvlogCfg) : t.evlogSize = s.evlogSize := by
  rw [State.evlogSize, State.regF, h]
  rfl

/-- The slots depend on the log's own registers alone. -/
theorem logRecords_congr {s t : State} (h : ∀ o ∈ logOffs, t.reg o = s.reg o) : logRecords t = logRecords s := by
  simp only [logOffs, List.mem_cons, List.not_mem_nil, or_false, forall_eq_or_imp, forall_eq] at h
  obtain ⟨hbase, hcfg, hwp, hrp⟩ := h
  have hslot (k : Nat) : logSlot t k = logSlot s k := by rw [logSlot, hbase, hwp, evlogSize_congr hcfg]; rfl
  rw [logRecords, State.regB, State.regF, hcfg, evlogSize_congr hcfg, hwp, hrp, hslot, hslot]
  rfl

/-- After a record, the next slot is the second. -/
theorem logSlot_next {s t : State} (hbase : t.reg Reg.hubEvlogBase = s.reg Reg.hubEvlogBase)
    (hcfg : t.reg Reg.hubEvlogCfg = s.reg Reg.hubEvlogCfg)
    (hwp : t.reg Reg.hubEvlogWp = BitVec.ofNat 64 ((s.reg Reg.hubEvlogWp).toNat + 1)) : logSlot t 0 = logSlot s 1 := by
  rw [logSlot, logSlot, hbase, hwp, evlogSize_congr hcfg, BitVec.toNat_ofNat, Nat.add_zero,
    Nat.mod_mod_of_dvd _ (evlogSize_dvd s)]

/-- A record that overwrites an unread one: the state in which EVLOG_WRAP's own record is written. -/
def State.logWrapped (s : State) (blk bit : Nat) (unit detail : Option Nat) : State :=
  ((s.putLogRecord blk bit unit detail).count64 Reg.hubEvlogLost 1).setEvent 0 Reg.hubEvent 5

theorem logSlot_logWrapped (s : State) (blk bit : Nat) (unit detail : Option Nat) :
    logSlot (s.logWrapped blk bit unit detail) 0 = logSlot s 1 := by
  have key (o : Nat) (h : o ≠ Reg.hubEvent ∧ o < Reg.msixPba 0 ∧ o ≠ Reg.hubEvlogLost) :
      (s.logWrapped blk bit unit detail).reg o = (s.putLogRecord blk bit unit detail).reg o := by
    obtain ⟨hev, hpba, hlost⟩ := h
    rw [State.logWrapped, State.setEvent_reg_other _ _ _ _ _ hev (ne_msixPba hpba), State.count64,
      State.reg_setReg_other _ _ hlost]
  have other {o : Nat} (ho : o ∈ [Reg.hubEvlogBase, Reg.hubEvlogCfg]) :
      (s.logWrapped blk bit unit detail).reg o = s.reg o := by
    rw [key o (by revert o; decide), s.putLogRecord_reg_other _ _ _ _ (by revert o; decide)]
  refine logSlot_next (other (by simp)) (other (by simp)) ?_
  rw [key _ (by decide)]
  exact s.putLogRecord_reg_wp _ _ _ _

/-- Logging writes records in the slots of `logRecords` and changes memory and poison nowhere else: what a record in one of
these slots keeps, and what memory and poison alone decide, is kept. -/
theorem State.logRecord_slots_induction {P : State → Prop} {s : State} {blk bit : Nat} {unit detail : Option Nat} (hs : P s)
    (hput : ∀ (t : State) (blk bit : Nat) (unit detail : Option Nat), logSlot t 0 ∈ logRecords s → P t →
      P (t.putLogRecord blk bit unit detail))
    (hsame : ∀ t u : State, u.mem = t.mem → u.poison = t.poison → P t → P u) : P (s.logRecord blk bit unit detail) := by
  unfold logRecords at hput
  unfold State.logRecord
  split
  case isTrue => exact hs
  case isFalse hon =>
    rw [if_neg hon] at hput
    split
    case isTrue hwrap =>
      rw [if_pos hwrap] at hput
      have h0 := hput s blk bit unit detail (by simp) hs
      have h1 : P (s.logWrapped blk bit unit detail) :=
        hsame (s.putLogRecord blk bit unit detail) _ (State.setEvent_mem _ _ _ _) (State.setEvent_poison _ _ _ _) h0
      have h2 := hput _ 0 5 none none (by rw [logSlot_logWrapped]; simp) h1
      exact hsame ((s.logWrapped blk bit unit detail).putLogRecord 0 5 none none) _ rfl rfl h2
    case isFalse hwrap =>
      rw [if_neg hwrap] at hput
      exact hput s blk bit unit detail (by simp) hs

/-- Logging changes no byte outside the slots of its records. -/
theorem State.logRecord_byte (s : State) (blk bit : Nat) (unit detail : Option Nat) {a : Nat}
    (h : ∀ x ∈ logRecords s, a < x ∨ x + 32 ≤ a) : (s.logRecord blk bit unit detail).byte a = s.byte a :=
  State.logRecord_slots_induction (P := fun t => t.byte a = s.byte a) rfl
    (fun t _ _ _ _ hx ht => (t.putLogRecord_byte _ _ _ _ (h _ hx)).trans ht)
    fun _ _ hm _ ht => (congrArg (Tbl.get 0 · a) hm).trans ht

/-- Logging changes the poison of no granule but those of its records' slots. -/
theorem State.logRecord_poisoned (s : State) (blk bit : Nat) (unit detail : Option Nat) {g : Nat}
    (h : ∀ x ∈ logRecords s, 32 * g ≠ x) : (s.logRecord blk bit unit detail).poisoned g = s.poisoned g :=
  State.logRecord_slots_induction (P := fun t => t.poisoned g = s.poisoned g) rfl
    (fun t _ _ _ _ hx ht => (t.putLogRecord_poisoned _ _ _ _ (h _ hx)).trans ht)
    fun _ _ _ hp ht => (congrArg (Tbl.get false · g) hp).trans ht

/-! ## The whole event -/

/-- Logging changes WP, the count of lost records, HUB_EVENT and pending bits alone among the registers. -/
theorem State.logRecord_reg_other (s : State) (blk bit : Nat) (unit detail : Option Nat) {o : Nat}
    (h : o ∉ [Reg.hubEvlogWp, Reg.hubEvlogLost, Reg.hubEvent]) (hp : ∀ k, o ≠ Reg.msixPba k) :
    (s.logRecord blk bit unit detail).reg o = s.reg o := by
  simp only [List.mem_cons, List.not_mem_nil, or_false, not_or] at h
  obtain ⟨hwp, hlost, hev⟩ := h
  exact State.logRecord_induction (P := fun t => t.reg o = s.reg o) rfl
    (fun t _ _ _ _ ht => (t.putLogRecord_reg_other _ _ _ _ hwp).trans ht)
    (fun t ht => (t.reg_setReg_other _ hlost).trans ht)
    fun t ht => (t.setEvent_reg_other _ _ _ _ hev hp).trans ht

/-- The event's own bit is set, and the log's records leave it so. -/
theorem State.event_regB_event (s : State) (blk : Nat) {ev bit : Nat} (unit detail : Option Nat)
    (hp : ∀ k, ev ≠ Reg.msixPba k) (hwp : ev ≠ Reg.hubEvlogWp) (hlost : ev ≠ Reg.hubEvlogLost) (hb : bit < 64) :
    (s.event blk ev bit unit detail).regB ev bit = true :=
  State.logRecord_induction (P := fun t => t.regB ev bit = true) (s.setEvent_regB_event blk hp hb)
    (fun t b i u d ht => by rw [State.regB, State.regF, t.putLogRecord_reg_other b i u d hwp]; exact ht)
    (fun t ht => (t.regB_setReg_other _ _ hlost).trans ht)
    fun t ht => t.setEvent_keeps_bit _ _ _ hp hb ht

/-- An event of another block than PWR raises no in-band interrupt (R430). -/
theorem State.event_ibiOut (s : State) {blk : Nat} (ev bit : Nat) (unit detail : Option Nat) (h : blk ≠ 3) :
    (s.event blk ev bit unit detail).ibiOut = s.ibiOut :=
  State.logRecord_induction (P := fun t => t.ibiOut = s.ibiOut) (s.setEvent_ibiOut ev bit h)
    (fun t _ _ _ _ ht => (t.putLogRecord_ibiOut _ _ _ _).trans ht) (fun _ ht => ht)
    fun t ht => (t.setEvent_ibiOut _ _ (by decide)).trans ht

/-- An event touches its own register, the registers and the slots of the event log, and the pending bits. -/
theorem State.event_touches (s : State) (blk : Nat) {ev : Nat} (bit : Nat) (unit detail : Option Nat)
    (hev : ev ∉ logOffs) : Claims.EventFrame s (s.event blk ev bit unit detail) [ev] := by
  have hslots : logRecords (s.setEvent blk ev bit) = logRecords s := by
    have below : ∀ o ∈ logOffs, o < Reg.msixPba 0 := by decide
    exact logRecords_congr fun o ho =>
      s.setEvent_reg_other _ _ _ _ (fun e => hev (e ▸ ho)) (ne_msixPba (below o ho))
  refine ⟨fun o ho hlog hp => ?_, fun a ha => ?_, fun g hg => ?_⟩
  · exact (State.logRecord_reg_other _ _ _ _ _ hlog hp).trans
      (s.setEvent_reg_other _ _ _ _ (List.ne_of_not_mem_cons ho) hp)
  · rw [← hslots] at ha
    exact (State.logRecord_byte _ _ _ _ _ ha).trans (congrArg (Tbl.get 0 · a) (s.setEvent_mem _ _ _))
  · rw [← hslots] at hg
    exact (State.logRecord_poisoned _ _ _ _ _ hg).trans (congrArg (Tbl.get false · g) (s.setEvent_poison _ _ _))

/-- What an event touches after a register was stored that does not say where its records go. -/
theorem eventFrame_of_setReg {s t : State} {o : Nat} {v : W64} {offs : List Nat} (ho : o ∉ logOffs)
    (h : Claims.EventFrame (s.setReg o v) t offs) : Claims.EventFrame s t (o :: offs) := by
  have hslots : logRecords (s.setReg o v) = logRecords s :=
    logRecords_congr fun o' ho' => State.reg_setReg_other _ _ fun e => ho (e ▸ ho')
  obtain ⟨hreg, hbyte, hpoison⟩ := h
  refine ⟨fun o' ho' hlog hp => ?_, fun a ha => hbyte a (hslots ▸ ha), fun g hg => hpoison g (hslots ▸ hg)⟩
  exact (hreg o' (List.not_mem_of_not_mem_cons ho') hlog hp).trans
    (State.reg_setReg_other _ _ (List.ne_of_not_mem_cons ho'))

/-- HUB_EVENT need not be listed: any event may touch it (R343). -/
theorem eventFrame_drop_hubEvent {s t : State} {o : Nat} (h : Claims.EventFrame s t [o, Reg.hubEvent]) :
    Claims.EventFrame s t [o] := by
  obtain ⟨hreg, hmem⟩ := h
  refine ⟨fun o' ho' hlog hp => hreg o' ?_ hlog hp, hmem⟩
  simp only [List.mem_cons, List.not_mem_nil, or_false, not_or] at ho' hlog ⊢
  obtain ⟨-, -, hev⟩ := hlog
  exact ⟨ho', hev⟩

end Sys2Proof.Machine
end

section
/-! PROOFS. Accesses of another size or alignment (R14). -/
namespace Sys2Proof.Proofs
open Sys2Proof.Machine Sys2Proof.Claims

theorem exec_badSizeAccess_good {s : State} {off n : Nat} (write : Bool) (h : goodAccess off n = true) :
    exec (.badSizeAccess off n write) s = .next (if write then s else s.hostRead off (n == 8)) := by
  change execBadSizeAccess off n write s = _
  rw [execBadSizeAccess, if_pos h]

theorem exec_badSizeAccess_bad {s : State} {off n : Nat} (write : Bool) (h : goodAccess off n = false) :
    exec (.badSizeAccess off n write) s =
      .next (if write then s.badAccess off else (s.badAccess off).answerWord 0) := by
  change execBadSizeAccess off n write s = _
  rw [execBadSizeAccess, h]
  rfl

/-- HUB_REG_ERR is none of the registers that an event touches. -/
theorem badAccess_regErr (s : State) (off : Nat) :
    (s.badAccess off).reg Reg.hubRegErr = BitVec.ofNat 64 (off % 2 ^ 32) := by
  have hp : ∀ k, Reg.hubRegErr ≠ Reg.msixPba k := ne_msixPba (by decide)
  rw [State.badAccess, State.event, State.logRecord_reg_other _ _ _ _ _ (by decide) hp,
    State.setEvent_reg_other _ _ _ _ _ (by decide) hp, State.reg_setReg_same]

theorem badAccess_event (s : State) (off : Nat) : (s.badAccess off).regB Reg.hubEvent 0 = true :=
  State.event_regB_event _ _ _ _ (ne_msixPba (by decide)) (by decide) (by decide) (by decide)

theorem badAccess_touches (s : State) (off : Nat) : Claims.EventFrame s (s.badAccess off) [Reg.hubRegErr] :=
  eventFrame_drop_hubEvent (eventFrame_of_setReg (by decide) (State.event_touches _ _ _ _ _ (by decide)))

theorem badAccess_frame (s : State) (off : Nat) : s.badAccess off =
    { s with regs := (s.badAccess off).regs, mem := (s.badAccess off).mem, poison := (s.badAccess off).poison,
             msixOut := (s.badAccess off).msixOut } := by
  have hf : Machine.EventFrame s (s.badAccess off) := .trans (s.setReg_frame _ _) (State.event_frame _ _ _ _ _ _)
  have hi : (s.badAccess off).ibiOut = s.ibiOut := State.event_ibiOut _ _ _ _ _ (by decide)
  rw [Machine.EventFrame, hi] at hf
  exact hf

/-- Settles O30, by whether the access is of an accepted size. -/
theorem badSizedAccess : Obligations.BadSizedAccess := by
  refine ⟨fun off wide s ha => ?_, fun off n write s hbad => ?_⟩
  · cases wide with
    | false =>
      have hg := goodAccess_word ha
      exact ⟨(exec_badSizeAccess_good false hg).trans (exec_pairLowWordRead_word ha).symm, exec_badSizeAccess_good true hg⟩
    | true =>
      have hg := goodAccess_pair ha
      exact ⟨(exec_badSizeAccess_good false hg).trans (exec_pairLowWordRead_pair ha).symm, exec_badSizeAccess_good true hg⟩
  · have hg : goodAccess off n = false := by
      rw [← Bool.not_eq_true, goodAccess_iff]
      omega
    refine ⟨_, exec_badSizeAccess_bad write hg, ?_⟩
    have hf := badAccess_frame s off
    cases write with
    | true =>
      refine ⟨nofun, fun _ => ?_, badAccess_regErr s off, badAccess_event s off, badAccess_touches s off, ?_⟩
      · rw [if_pos rfl, hf]
        exact ⟨rfl, rfl⟩
      · rw [if_pos rfl, hf]
    | false =>
      refine ⟨fun _ => ⟨rfl, rfl⟩, nofun, badAccess_regErr s off, badAccess_event s off, badAccess_touches s off, ?_⟩
      rw [if_neg Bool.false_ne_true, hf]
      rfl

end Sys2Proof.Proofs
end

section
/-! PROOFS. The windows of what the grade lacks (R29, R261): no register stands there, so that a write changes nothing and a
read returns 0. -/
namespace Sys2Proof.Machine

/-! ## Where the grade lacks a unit -/

theorem absentWindow_tile {g : Grade} {t off : Nat} (habs : numTiles g ≤ t) (ht : t < 256)
    (hlo : 0x3000000 + 0x10000 * t ≤ off) (hhi : off < 0x3010000 + 0x10000 * t) : absentWindow g off = true := by
  have hunit : (off - 0x3000000) / 0x10000 = t := by omega
  rw [absentWindow, if_neg (by omega), if_pos (by omega), hunit, decide_eq_true habs]

theorem absentWindow_engine {g : Grade} {e off : Nat} (habs : numEngines g ≤ e) (he : e < 32)
    (hlo : 0x4100000 + 0x10000 * e ≤ off) (hhi : off < 0x4110000 + 0x10000 * e) : absentWindow g off = true := by
  have hunit : (off - 0x4100000) / 0x10000 = e := by omega
  rw [absentWindow, if_neg (by omega), if_neg (by omega), if_pos (by omega), hunit, decide_eq_true habs]

theorem absentWindow_core {g : Grade} {c off : Nat} (habs : numCores g ≤ c) (hc : c < 256)
    (hlo : 0x4800000 + 0x4000 * c ≤ off) (hhi : off < 0x4804000 + 0x4000 * c) : absentWindow g off = true := by
  have hunit : (off - 0x4800000) / 0x4000 = c := by omega
  rw [absentWindow, if_neg (by omega), if_neg (by omega), if_neg (by omega), if_pos (by omega), hunit,
    decide_eq_true habs]

theorem absentWindow_lt_dblBase {g : Grade} {off : Nat} (h : absentWindow g off = true) : off < dblBase := by
  unfold dblBase
  by_contra hge
  rw [absentWindow, if_neg (by omega), if_neg (by omega), if_neg (by omega), if_neg (by omega)] at h
  cases h

/-- Both words of a pair lie in one window. -/
theorem absentWindow_add_four (g : Grade) {off : Nat} (h : off % 8 = 0) :
    absentWindow g (off + 4) = absentWindow g off := by
  have bound {lo hi : Nat} (hlo : lo % 8 = 0) (hhi : hi % 8 = 0) :
      (lo ≤ off + 4 ∧ off + 4 < hi) = (lo ≤ off ∧ off < hi) := propext (by omega)
  have unit {lo : Nat} (hlo : lo % 8 = 0) (hle : lo ≤ off) :
      (off + 4 - lo) / 0x10000 = (off - lo) / 0x10000 ∧ (off + 4 - lo) / 0x4000 = (off - lo) / 0x4000 := by omega
  unfold absentWindow
  simp only [bound]
  split_ifs with hmem htile heng hcore
  · rw [(unit (by decide) hmem.1).1]
  · rw [(unit (by decide) htile.1).1]
  · rw [(unit (by decide) heng.1).1]
  · rw [(unit (by decide) hcore.1).2]
  · rfl

/-! ## Accesses at an offset without a register -/

theorem State.regAt_absent {s : State} {off : Nat} (h : absentWindow s.grade off = true) : s.regAt off = none := if_pos h

/-- A write that would change nothing changes nothing, whether it reaches its block or not. -/
theorem State.bar_of_fixed {s : State} {off : Nat} {f : State → State} (h : f s = s) : s.bar off f = s := by
  unfold State.bar
  split
  · exact h
  · rfl

section
variable {s : State} {off : Nat} (hd : off < dblBase) (h : s.regAt off = none)
include hd h

theorem State.read32_none : s.read32 off = 0 := by
  simp [State.read32, Nat.not_le.mpr hd, h]

theorem State.readLatch_none : s.readLatch off = s := by
  simp [State.readLatch, Nat.not_le.mpr hd, h]

theorem State.hostRead_word_none : s.hostRead off false = s.answerWord 0 := by
  simp [State.hostRead, State.readLatch_none hd h, State.read32_none hd h]

variable (hd' : off + 4 < dblBase) (h' : s.regAt (off + 4) = none)
include hd' h'

theorem State.write64_none (v : W64) : s.write64 off v = s := by
  simp [State.write64, Nat.not_le.mpr hd, h, State.write32_none hd _ h, State.write32_none hd' _ h']

theorem State.read64_none : s.read64 off = 0 := by
  simp [State.read64, Nat.not_le.mpr hd, h, State.read32_none hd h, State.read32_none hd' h', pairOf]

theorem State.readLatch64_none : s.readLatch64 off = s := by
  simp [State.readLatch64, h, State.readLatch_none hd h, State.readLatch_none hd' h']

theorem State.hostRead_pair_none : s.hostRead off true = s.answerWord 0 := by
  unfold State.hostRead
  rw [State.read64_none hd h hd' h', State.readLatch64_none hd h hd' h']
  split <;> rfl

end

theorem exec_registerWrite_word_none {s : State} {off : Nat} (v : BitVec 64) (ha : off % 4 = 0) (hd : off < dblBase)
    (h : s.regAt off = none) : exec (.registerWrite off false v) s = .next s := by
  change execRegisterWrite off false v s = _
  have hbar : (s.bar off fun s => s.write32 off (v.truncate 32)) = s := State.bar_of_fixed (State.write32_none hd _ h)
  simpa [execRegisterWrite, goodAccess_word ha] using hbar

theorem exec_registerWrite_pair_none {s : State} {off : Nat} (v : BitVec 64) (ha : off % 8 = 0) (hd : off < dblBase)
    (h : s.regAt off = none) (hd' : off + 4 < dblBase) (h' : s.regAt (off + 4) = none) :
    exec (.registerWrite off true v) s = .next s := by
  change execRegisterWrite off true v s = _
  have hbar : (s.bar off fun s => s.write64 off v) = s := State.bar_of_fixed (State.write64_none hd h hd' h' v)
  simpa [execRegisterWrite, goodAccess_pair ha] using hbar

end Sys2Proof.Machine
end

section
/-! PROOFS. The windows of units that the grade lacks (R29). -/
namespace Sys2Proof.Proofs
open Sys2Proof.Machine

/-- Settles O31: the window of an absent unit holds no register, and the other word of a pair lies in the same window. -/
theorem absentUnits : Obligations.AbsentUnits := by
  intro off s hunit
  have habs : absentWindow s.grade off = true := by
    rcases hunit with ⟨t, hlack, ht, hlo, hhi⟩ | ⟨e, hlack, he, hlo, hhi⟩ | ⟨c, hlack, hc, hlo, hhi⟩
    · exact absentWindow_tile hlack ht hlo hhi
    · exact absentWindow_engine hlack he hlo hhi
    · exact absentWindow_core hlack hc hlo hhi
  have hd := absentWindow_lt_dblBase habs
  have hreg := State.regAt_absent habs
  refine ⟨fun ha => ⟨fun v => exec_registerWrite_word_none v ha hd hreg, ?_⟩, fun ha => ?_⟩
  · rw [exec_pairLowWordRead_word ha, State.hostRead_word_none hd hreg]
    rfl
  · have habs' : absentWindow s.grade (off + 4) = true := (absentWindow_add_four _ ha).trans habs
    have hd' := absentWindow_lt_dblBase habs'
    have hreg' := State.regAt_absent habs'
    refine ⟨fun v => exec_registerWrite_pair_none v ha hd hreg hd' hreg', ?_⟩
    rw [exec_pairLowWordRead_pair ha, State.hostRead_pair_none hd hreg hd' hreg']
    rfl

end Sys2Proof.Proofs
end

section
/-! PROOFS. Counters (R344, R420): what counting leaves in the counter and elsewhere, and the counters of throttled cycles that
a tick of the fabric reference advances. -/
namespace Sys2Proof.Machine
open Sys2Proof.Claims

/-! ## Counting -/

theorem State.toNat_reg_count64 (s : State) (o k : Nat) :
    ((s.count64 o k).reg o).toNat = min ((s.reg o).toNat + k) (2 ^ 64 - 1) := by
  rw [State.count64, State.reg_setReg_same, BitVec.toNat_ofNat, satAdd]
  omega

theorem State.toNat_reg_count32 (s : State) (o k : Nat) :
    ((s.count32 o k).reg o).toNat = min ((s.reg o).toNat + k) (2 ^ 32 - 1) := by
  rw [State.count32, State.reg_setReg_same, BitVec.toNat_ofNat, satAdd]
  omega

/-- A 64-bit counter never goes down. -/
theorem State.le_reg_count64 (s : State) (o k off : Nat) : (s.reg off).toNat ≤ ((s.count64 o k).reg off).toNat := by
  by_cases h : off = o
  · subst h
    rw [s.toNat_reg_count64]
    have := (s.reg off).isLt
    omega
  · rw [State.count64, State.reg_setReg_other _ _ h]

/-! ## The counters of throttled cycles -/

theorem State.countSlow_frame (s : State) (k : Nat) : s.countSlow k = { s with regs := (s.countSlow k).regs } := by
  unfold State.countSlow
  split <;> rfl

theorem State.countSlow_reg_other (s : State) {k off : Nat} (h : off ≠ Reg.pwrCnt k) :
    (s.countSlow k).reg off = s.reg off := by
  unfold State.countSlow
  split
  · exact State.reg_setReg_other _ _ h
  · rfl

theorem State.le_reg_countSlow (s : State) (k off : Nat) : (s.reg off).toNat ≤ ((s.countSlow k).reg off).toNat := by
  unfold State.countSlow
  split
  · exact s.le_reg_count64 _ _ _
  · exact le_rfl

/-- Counting the throttled cycles of several causes changes their counters alone, and none of them goes down. -/
theorem State.countSlows (ks : List Nat) (s : State) : let t := ks.foldl State.countSlow s
    t = { s with regs := t.regs } ∧ (∀ off, (∀ k ∈ ks, off ≠ Reg.pwrCnt k) → t.reg off = s.reg off) ∧
      ∀ off, (s.reg off).toNat ≤ (t.reg off).toNat := by
  induction ks generalizing s with
  | nil => exact ⟨rfl, fun _ _ => rfl, fun _ => le_rfl⟩
  | cons k ks ih =>
    obtain ⟨hframe, hother, hle⟩ := ih (s.countSlow k)
    rw [List.foldl_cons]
    refine ⟨?_, fun off h => ?_, fun off => (s.le_reg_countSlow k off).trans (hle off)⟩
    · rw [hframe, s.countSlow_frame k]
    · exact (hother off fun k' hk' => h k' (List.mem_cons_of_mem _ hk')).trans
        (s.countSlow_reg_other (h k List.mem_cons_self))

/-! ## One cycle of the fabric reference -/

theorem State.tickFt_acc (s : State) : s.tickFt.time.acc =
    if s.ftRuns then s.time.acc + BitVec.ofNat 82 (s.reg Reg.timFtRate).toNat else s.time.acc := by
  unfold State.tickFt
  split <;> rfl

theorem State.tickFt_frame (s : State) : s.tickFt = { s with time := { s.time with acc := s.tickFt.time.acc } } := by
  unfold State.tickFt
  split <;> rfl

end Sys2Proof.Machine
end

section
/-! PROOFS. The step of the block (R31). -/
namespace Sys2Proof.Proofs
open Sys2Proof.Machine

/-- Settles O25: on an empty queue, fabric time first and then the counters of the four causes. -/
theorem stepRunsFront : Obligations.StepRunsFront := by
  refine ⟨fun c q s => rfl, fun s hq => ⟨s.tick, ?_, ?_⟩⟩
  · rw [step, hq]
  · obtain ⟨hframe, hother, hle⟩ := State.countSlows (upFrom 2 4) s.tickFt
    have hreg (off : Nat) : s.tickFt.reg off = s.reg off := congrArg (Tbl.get (regReset off) · off) (by rw [s.tickFt_frame])
    have hacc : s.tick.time.acc = s.tickFt.time.acc := by rw [State.tick, hframe]
    refine ⟨?_, fun off hoff => ?_, fun off _ => ?_, hacc.trans s.tickFt_acc⟩
    · rw [hacc, State.tick, hframe, s.tickFt_frame]
    · refine (hother off fun k hk e => hoff ?_).trans (hreg off)
      subst e
      revert k
      decide
    · rw [← hreg off]
      exact hle off

end Sys2Proof.Proofs
end

section
/-! PROOFS. Events of the time base (R57, R341): they reach no register above the pending bits of MSI-X but TIM_EVENT, and
no other part of the time base. -/
namespace Sys2Proof.Machine
open Sys2Proof.Claims

/-! ## Registers above the pending bits of MSI-X -/

/-- A vector number has 11 bits, so that its pending bit lies in the first 32 words (R344). -/
theorem State.raiseVector_reg_of_ge (s : State) {v o : Nat} (hv : v < 2048) (h : Reg.msixPba 32 ≤ o) :
    (s.raiseVector v).reg o = s.reg o := by
  unfold State.raiseVector
  split
  · refine State.reg_setReg_other _ _ ?_
    simp only [Reg.msixPba] at *
    omega
  · rfl

theorem State.setEvent_reg_of_ge (s : State) (blk ev bit : Nat) {o : Nat} (h : Reg.msixPba 32 ≤ o) :
    (s.setEvent blk ev bit).reg o = (s.setRegB ev bit true).reg o := by
  have hv (t : State) : t.regF (Reg.hubEvVec blk) 0 11 < 2048 := Nat.mod_lt _ (by decide)
  unfold State.setEvent
  dsimp only
  split <;> split
  · exact State.raiseVector_reg_of_ge _ (hv _) h
  · rfl
  · exact State.raiseVector_reg_of_ge _ (hv _) h
  · rfl

/-- An event leaves every such register but its own. -/
theorem State.event_reg_of_ge (s : State) (blk ev bit : Nat) (unit detail : Option Nat) {o : Nat} (h : Reg.msixPba 32 ≤ o)
    (hev : o ≠ ev) : (s.event blk ev bit unit detail).reg o = s.reg o := by
  have hlog {o' : Nat} (ho' : o' < Reg.msixPba 32) : o ≠ o' := by omega
  exact State.logRecord_induction (P := fun t => t.reg o = s.reg o)
    ((s.setEvent_reg_of_ge blk ev bit h).trans (State.reg_setReg_other _ _ hev))
    (fun t _ _ _ _ ht => (t.putLogRecord_reg_other _ _ _ _ (hlog (by decide))).trans ht)
    (fun t ht => (t.reg_setReg_other _ (hlog (by decide))).trans ht)
    fun t ht => (t.setEvent_reg_of_ge _ _ _ h).trans ((t.reg_setReg_other _ (hlog (by decide))).trans ht)

/-- The event register itself has the event's bit set. -/
theorem State.event_reg_self (s : State) (blk : Nat) {ev : Nat} (bit : Nat) (unit detail : Option Nat)
    (h : Reg.msixPba 32 ≤ ev) : (s.event blk ev bit unit detail).reg ev = (s.setRegB ev bit true).reg ev := by
  have hlog {o' : Nat} (ho' : o' < Reg.msixPba 32) : ev ≠ o' := by omega
  exact State.logRecord_induction (P := fun t => t.reg ev = (s.setRegB ev bit true).reg ev)
    (s.setEvent_reg_of_ge blk ev bit h)
    (fun t _ _ _ _ ht => (t.putLogRecord_reg_other _ _ _ _ (hlog (by decide))).trans ht)
    (fun t ht => (t.reg_setReg_other _ (hlog (by decide))).trans ht)
    fun t ht => (t.setEvent_reg_of_ge _ _ _ h).trans ((t.reg_setReg_other _ (hlog (by decide))).trans ht)

/-! ## Fields of registers that are known to be equal -/

theorem State.regF_congr {s t : State} {o : Nat} (h : t.reg o = s.reg o) (lo len : Nat) : t.regF o lo len = s.regF o lo len :=
  congrArg (fld · lo len) h

theorem State.regB_congr {s t : State} {o : Nat} (h : t.reg o = s.reg o) (i : Nat) : t.regB o i = s.regB o i :=
  congrArg (fld · i 1 == 1) h

/-! ## The events of the TIM block -/

theorem State.timEv_frame (s : State) (b : Nat) : Machine.EventFrame s (s.timEv b) := s.event_frame _ _ _ _ _

theorem State.timEv_ibiOut (s : State) (b : Nat) : (s.timEv b).ibiOut = s.ibiOut := s.event_ibiOut _ _ _ _ (by decide)

@[simp] theorem State.timEv_time (s : State) (b : Nat) : (s.timEv b).time = s.time := by rw [s.timEv_frame b]

@[simp] theorem State.timEv_out (s : State) (b : Nat) : (s.timEv b).out = s.out := by rw [s.timEv_frame b]

theorem State.timEv_reg_other (s : State) (b : Nat) {o : Nat} (h : Reg.msixPba 32 ≤ o) (hev : o ≠ Reg.timEvent) :
    (s.timEv b).reg o = s.reg o := s.event_reg_of_ge _ _ _ _ _ h hev

theorem State.timEv_regB (s : State) {b : Nat} (h : b < 64) : (s.timEv b).regB Reg.timEvent b = true :=
  (State.regB_congr (s.event_reg_self _ _ _ _ (by decide)) b).trans (s.regB_setRegB_same _ _ _ h)

theorem State.timEv_touches (s : State) (b : Nat) : Claims.EventFrame s (s.timEv b) [Reg.timEvent] :=
  s.event_touches _ _ _ _ (by decide)

/-- An event of the TIM block touches TIM_EVENT and what every event touches. -/
theorem State.timEv_eventOnly (s : State) (b : Nat) : EventOnly s (s.timEv b) [Reg.timEvent] := by
  refine ⟨s.timEv_touches b, ?_⟩
  have h := s.timEv_frame b
  rw [Machine.EventFrame, s.timEv_ibiOut] at h
  exact h

/-- The same after a counter was counted that does not say where the log's records go. -/
theorem State.count32_timEv_eventOnly (s : State) {o : Nat} (k b : Nat) (h : o ∉ logOffs) :
    EventOnly s ((s.count32 o k).timEv b) [o, Reg.timEvent] := by
  obtain ⟨hf, he⟩ := (s.count32 o k).timEv_eventOnly b
  refine ⟨eventFrame_of_setReg h hf, ?_⟩
  rw [he]
  rfl

/-- Which order the registers are listed in does not matter. -/
theorem eventOnly_swap {s t : State} {a b : Nat} (h : EventOnly s t [a, b]) : EventOnly s t [b, a] := by
  obtain ⟨⟨hreg, hmem⟩, he⟩ := h
  exact ⟨⟨fun o ho => hreg o (by simpa [and_comm] using ho), hmem⟩, he⟩

end Sys2Proof.Machine
end

section
/-! PROOFS. Storing the time base: every register, memory and the rest of the state are left. -/
namespace Sys2Proof.Machine
open Sys2Proof.Claims

/-- The state with another time base. -/
def State.setTime (s : State) (x : TimeSt) : State := { s with time := x }

@[simp] theorem State.setTime_time (s : State) (x : TimeSt) : (s.setTime x).time = x := rfl
@[simp] theorem State.setTime_out (s : State) (x : TimeSt) : (s.setTime x).out = s.out := rfl
@[simp] theorem State.setTime_regs (s : State) (x : TimeSt) : (s.setTime x).regs = s.regs := rfl
@[simp] theorem State.setTime_reg (s : State) (x : TimeSt) (o : Nat) : (s.setTime x).reg o = s.reg o := rfl
@[simp] theorem State.setTime_regF (s : State) (x : TimeSt) (o lo len : Nat) :
    (s.setTime x).regF o lo len = s.regF o lo len := rfl
@[simp] theorem State.setTime_regB (s : State) (x : TimeSt) (o i : Nat) : (s.setTime x).regB o i = s.regB o i := rfl

theorem logRecords_setTime (s : State) (x : TimeSt) : logRecords (s.setTime x) = logRecords s :=
  logRecords_congr fun _ _ => rfl

/-- What an event touches, seen from the state with another time base. -/
theorem eventFrame_of_setTime {s t : State} {x : TimeSt} {offs : List Nat} (h : Claims.EventFrame (s.setTime x) t offs) :
    Claims.EventFrame s t offs := by
  obtain ⟨hreg, hbyte, hpoison⟩ := h
  rw [logRecords_setTime] at hbyte hpoison
  exact ⟨hreg, hbyte, hpoison⟩

end Sys2Proof.Machine
end

section
/-! PROOFS. Synchronisation (R31 to R34): the messages, the rate word and the state that an exchange leaves. -/
namespace Sys2Proof.Machine
open Sys2Proof.Claims

/-! ## Messages over the fabric (R264) -/

/-- Sending over the fabric changes the messages sent alone. -/
theorem State.sendFab_eq (s : State) (m : OutMsg) :
    s.sendFab m = { s with out := if s.node = 0xFFFF then s.out else s.out ++ [m] } := by
  unfold State.sendFab State.send
  split <;> rfl

theorem State.sendFab_of_node {s : State} (m : OutMsg) (h : s.node ≠ 0xFFFF) :
    s.sendFab m = { s with out := s.out ++ [m] } := by
  rw [s.sendFab_eq, if_neg h]

/-! ## The rate word (R31, R32) -/

/-- The rate word stays within 200 ppm of nominal, on the side that drives the offset to zero. -/
theorem toNat_slewedRate (off : Int) : 107352708 ≤ (slewedRate off).toNat ∧ (slewedRate off).toNat ≤ 107395656 ∧
    (off = 0 → (slewedRate off).toNat = 107374182) ∧ (0 < off → (slewedRate off).toNat < 107374182) ∧
    (off < 0 → 107374182 < (slewedRate off).toNat) := by
  have hstep : Config.rateStep off % rateSlew < rateSlew := Nat.mod_lt _ (by decide)
  unfold slewedRate
  rw [BitVec.toNat_ofNat]
  simp only [rateSlew, rateNominal] at *
  split_ifs <;> omega

/-- The offset is recorded modulo 2^32. -/
theorem toNat_unsigned32 (off : Int) : ((BitVec.ofNat 64 (unsigned 32 off)).toNat : Int) = off % 2 ^ 32 := by
  rw [BitVec.toNat_ofNat, unsigned]
  omega

/-! ## The synchronisation state (R33) -/

theorem syncNext_unlocked (good : Nat) (ok : Bool) : (syncNext 0 good ok).1 = 1 := rfl

theorem syncNext_locking (good : Nat) (ok : Bool) : (syncNext 1 good ok).1 = if ok ∧ good = 15 then 2 else 1 := by
  cases ok <;> simp only [syncNext] <;> split_ifs <;> simp_all

theorem syncNext_locked (good : Nat) (ok : Bool) : (syncNext 2 good ok).1 = 2 := rfl

theorem syncNext_holdover (good : Nat) (ok : Bool) :
    (syncNext 3 good ok).1 = if ok ∧ good = 3 then 2 else if good = 4 ∧ ok = false then 2 else 3 := by
  cases ok <;> simp only [syncNext] <;> split_ifs <;> simp_all

/-- The next state is one of the four. -/
theorem syncNext_lt (st good : Nat) (ok : Bool) (h : st < 4) : (syncNext st good ok).1 < 4 := by
  unfold syncNext
  dsimp only
  split_ifs <;> omega

/-! ## The step of fabric time (R34) -/

/-- The step changes fabric time and its own mark alone. -/
theorem State.syncStep_frame (s : State) (off : Int) : s.syncStep off =
    { s with time := { s.time with acc := (s.syncStep off).time.acc, stepped := (s.syncStep off).time.stepped } } := by
  unfold State.syncStep
  split <;> rfl

theorem State.syncStep_acc (s : State) (off : Int) : (s.syncStep off).time.acc =
    if s.syncState = 1 ∧ s.running = false ∧ s.time.stepped = false then s.time.acc - BitVec.ofInt 82 (off * 2 ^ 18)
    else s.time.acc := by
  unfold State.syncStep
  split <;> rfl

@[simp] theorem State.syncStep_reg (s : State) (off : Int) (o : Nat) : (s.syncStep off).reg o = s.reg o :=
  congrArg (Tbl.get (regReset o) · o) (by rw [s.syncStep_frame off])

/-! ## What an exchange leaves (R32 to R34) -/

/-- Is an offset within 2 ns, which is 128 in units of 1/64 ns (R33)? -/
def offsetGood (off : Int) : Bool := decide (off.natAbs ≤ 128)

/-- The registers that an exchange stores. -/
def State.exchangedRegs (s : State) (off : Int) : State :=
  ((s.setReg Reg.timFtOffset (BitVec.ofNat 64 (unsigned 32 off))).setReg Reg.timFtRate (slewedRate off)).setRegF
    Reg.timStatus 0 2 (syncNext s.syncState s.time.good (offsetGood off)).1

/-- The time base after an exchange, before the one step of fabric time. -/
def State.exchangedTime (s : State) (off delay : Int) : TimeSt :=
  { s.time with good := (syncNext s.syncState s.time.good (offsetGood off)).2, missed := 0, linkDelay := delay,
                stepped := s.time.stepped && decide (s.syncState ≠ 0) }

/-- The state after an exchange, before the one step of fabric time. -/
def State.exchanged (s : State) (off delay : Int) : State :=
  (s.exchangedRegs off).setTime (s.exchangedTime off delay)

theorem exec_syncRsp {s : State} (t1 t2 t3 t4 : W64) (hm : s.isMaster = false) (hn : s.node ≠ 0xFFFF) :
    exec (.syncRsp t1 t2 t3 t4) s =
      .next ((s.exchanged (syncOffset t1 t2 t3 t4) (syncDelay t1 t2 t3 t4)).syncStep (syncOffset t1 t2 t3 t4)) := by
  change execSyncRsp t1 t2 t3 t4 s = _
  rw [execSyncRsp, if_neg (by simp [hm, hn])]
  rfl

section
variable (s : State) (off delay : Int)

theorem State.exchanged_offset : (s.exchanged off delay).reg Reg.timFtOffset = BitVec.ofNat 64 (unsigned 32 off) := by
  rw [State.exchanged, State.setTime_reg, State.exchangedRegs, State.setRegF, State.reg_setReg_other _ _ (by decide),
    State.reg_setReg_other _ _ (by decide), State.reg_setReg_same]

theorem State.exchanged_rate : (s.exchanged off delay).reg Reg.timFtRate = slewedRate off := by
  rw [State.exchanged, State.setTime_reg, State.exchangedRegs, State.setRegF, State.reg_setReg_other _ _ (by decide),
    State.reg_setReg_same]

/-- The state shown in TIM_STATUS is the next one of R33. -/
theorem State.exchanged_state : (s.exchanged off delay).regF Reg.timStatus 0 2 =
    (syncNext s.syncState s.time.good (offsetGood off)).1 := by
  have hlt : s.syncState < 4 := Nat.mod_lt _ (by decide)
  rw [State.exchanged, State.setTime_regF, State.exchangedRegs, State.regF_setRegF_same _ _ _ _ _ (by decide)]
  exact Nat.mod_eq_of_lt (syncNext_lt _ _ _ hlt)

theorem State.exchanged_onlyRegs :
    OnlyRegs s (s.exchanged off delay) [Reg.timFtOffset, Reg.timFtRate, Reg.timStatus] := by
  intro o ho
  simp only [List.mem_cons, List.not_mem_nil, or_false, not_or] at ho
  obtain ⟨hoff, hrate, hst⟩ := ho
  rw [State.exchanged, State.setTime_reg, State.exchangedRegs, State.setRegF, State.reg_setReg_other _ _ hst,
    State.reg_setReg_other _ _ hrate, State.reg_setReg_other _ _ hoff]

theorem State.exchanged_frame : s.exchanged off delay =
    { s with regs := (s.exchangedRegs off).regs, time := s.exchangedTime off delay } := rfl

end

end Sys2Proof.Machine
end

section
/-! PROOFS. The synchronisation exchange (R31 to R34, R264). -/
namespace Sys2Proof.Proofs
open Sys2Proof.Machine Sys2Proof.Claims

/-- A response to a package that is not the master and has its node number. -/
theorem syncRsp_exchange (s : State) (t1 t2 t3 t4 : W64) (hm : s.regB Reg.timSyncCfg 0 = false) (hn : s.node ≠ 0xFFFF) :
    let off := ((t1 - t2) + (t4 - t3)).toInt / 2
    let good : Bool := decide (-128 ≤ off ∧ off ≤ 128)
    ∃ t, exec (.syncRsp t1 t2 t3 t4) s = .next t ∧
      ((t.reg Reg.timFtOffset).toNat : Int) = off % 2 ^ 32 ∧
      107352708 ≤ (t.reg Reg.timFtRate).toNat ∧ (t.reg Reg.timFtRate).toNat ≤ 107395656 ∧
      (off = 0 → (t.reg Reg.timFtRate).toNat = 107374182) ∧ (0 < off → (t.reg Reg.timFtRate).toNat < 107374182) ∧
      (off < 0 → 107374182 < (t.reg Reg.timFtRate).toNat) ∧
      t.time = { s.time with acc := t.time.acc, good := t.time.good, missed := 0, stepped := t.time.stepped,
                             linkDelay := ((t4 - t1) - (t3 - t2)).toInt / 2 } ∧
      t.time.acc = (if t.regF Reg.timStatus 0 2 = 1 ∧ s.regB Reg.timCtrl 0 = false ∧
          (s.time.stepped = false ∨ s.regF Reg.timStatus 0 2 = 0)
        then s.time.acc - BitVec.ofInt 82 (off * 2 ^ 18) else s.time.acc) ∧
      OnlyRegs s t [Reg.timFtOffset, Reg.timFtRate, Reg.timStatus] ∧ t = { s with regs := t.regs, time := t.time } ∧
      (s.regF Reg.timStatus 0 2 = 0 → t.regF Reg.timStatus 0 2 = 1) ∧
      (s.regF Reg.timStatus 0 2 = 1 → t.regF Reg.timStatus 0 2 = if good ∧ s.time.good = 15 then 2 else 1) ∧
      (s.regF Reg.timStatus 0 2 = 2 → t.regF Reg.timStatus 0 2 = 2) ∧
      (s.regF Reg.timStatus 0 2 = 3 → t.regF Reg.timStatus 0 2 = if good ∧ s.time.good = 3 then 2 else
        if s.time.good = 4 ∧ good = false then 2 else 3) := by
  intro off good
  have hoff : syncOffset t1 t2 t3 t4 = off := rfl
  have hgood : offsetGood off = good := decide_eq_decide.mpr (by omega)
  refine ⟨_, exec_syncRsp t1 t2 t3 t4 hm hn, ?_⟩
  have hst := s.exchanged_state off (syncDelay t1 t2 t3 t4)
  have hon := s.exchanged_onlyRegs off (syncDelay t1 t2 t3 t4)
  have hrate := toNat_slewedRate off
  rw [hgood] at hst
  rw [hoff]
  simp only [State.syncStep_reg, State.exchanged_offset, State.exchanged_rate]
  have he := s.exchanged_frame off (syncDelay t1 t2 t3 t4)
  set e := s.exchanged off (syncDelay t1 t2 t3 t4)
  have hst' : (e.syncStep off).regF Reg.timStatus 0 2 = (syncNext s.syncState s.time.good good).1 :=
    (State.regF_congr (e.syncStep_reg off _) 0 2).trans hst
  obtain ⟨hlo, hhi, hzero, hpos, hneg⟩ := hrate
  refine ⟨toNat_unsigned32 off, hlo, hhi, hzero, hpos, hneg, ?_, ?_, ?_, ?_, ?_, ?_, ?_, ?_⟩
  · rw [e.syncStep_frame, he]
    rfl
  · have hrun : e.running = s.regB Reg.timCtrl 0 := State.regB_congr (hon _ (by decide)) 0
    have hstepped : e.time.stepped = (s.time.stepped && decide (s.regF Reg.timStatus 0 2 ≠ 0)) := rfl
    have hacc : e.time.acc = s.time.acc := rfl
    have hsame : e.syncState = (e.syncStep off).regF Reg.timStatus 0 2 := hst.trans hst'.symm
    rw [e.syncStep_acc, hrun, hstepped, hacc, hsame]
    simp only [Bool.and_eq_false_iff, decide_eq_false_iff_not, ne_eq, Decidable.not_not]
  · exact fun o ho => (e.syncStep_reg off o).trans (hon o ho)
  · rw [e.syncStep_frame, he]
  · intro h
    rw [hst', State.syncState, h, syncNext_unlocked]
  · intro h
    rw [hst', State.syncState, h, syncNext_locking]
  · intro h
    rw [hst', State.syncState, h, syncNext_locked]
  · intro h
    rw [hst', State.syncState, h, syncNext_holdover]

theorem findReg_timSyncCfg : findReg Reg.timSyncCfg =
    some (⟨0x400018, 1, 4, 1, 0, false, .hub, 0x100000, 0xFFFF003F, 0, 0, 0⟩, Reg.timSyncCfg) := by decide

/-- A write to TIM_SYNC_CFG that makes the package the master. -/
theorem syncCfgWrite_master (s : State) (v : W64) (hv : v.getLsbD 0 = true) :
    (s.syncCfgWrite v).regB Reg.timSyncCfg 0 = true ∧ (s.syncCfgWrite v).reg Reg.timFtRate = 0x06666666 ∧
      OnlyRegs s (s.syncCfgWrite v) [Reg.timSyncCfg, Reg.timFtRate] ∧
      s.syncCfgWrite v = { s with regs := (s.syncCfgWrite v).regs } := by
  have hbit : (s.plainWrite Reg.timSyncCfg v).regB Reg.timSyncCfg 0 = true := by
    rw [State.regB_eq_getLsbD, s.getLsbD_plainWrite v findReg_timSyncCfg 0 (by decide), bitWritten, hv]
    rfl
  have he : s.syncCfgWrite v = (s.plainWrite Reg.timSyncCfg v).setReg Reg.timFtRate (BitVec.ofNat 64 rateNominal) :=
    if_pos hbit
  rw [he]
  refine ⟨(State.regB_setReg_other _ _ _ (by decide)).trans hbit, State.reg_setReg_same _ _ _, fun o ho => ?_, ?_⟩
  · simp only [List.mem_cons, List.not_mem_nil, or_false, not_or] at ho
    obtain ⟨hcfg, hrate⟩ := ho
    exact (State.reg_setReg_other _ _ hrate).trans
      (s.plainWrite_onlyRegs v findReg_timSyncCfg _ (by simpa using hcfg))
  · rw [s.plainWrite_frame]
    rfl

theorem exec_registerWrite_syncCfg {s : State} (v : W64) (hr : s.reaches Reg.timSyncCfg = true) :
    exec (.registerWrite Reg.timSyncCfg false v) s = .next (s.syncCfgWrite ((v.truncate 32).zeroExtend 64)) := by
  have hat : absentWindow s.grade Reg.timSyncCfg = false := by cases s.grade <;> decide
  have h : s.regAt Reg.timSyncCfg = _ := (if_neg (by simp [hat])).trans findReg_timSyncCfg
  rw [exec_registerWrite_word v hr (by decide), State.write32_word (by decide) _ h rfl]
  rfl

theorem synchronisation : Parts.Synchronisation := by
  refine ⟨fun s hm => ?_, fun src t1 t2 s hn => ?_, fun t1 t2 t3 t4 s hm hn => syncRsp_exchange s t1 t2 t3 t4 hm hn,
    fun v s hr hv => ?_, fun s hst hmiss => ?_⟩
  · refine ⟨_, if_neg (by simpa [State.isMaster] using hm), ?_⟩
    rw [s.sendFab_eq]
    exact ⟨rfl, rfl⟩
  · change execSyncReq src t1 t2 s = _
    rw [execSyncReq, State.sendFab_of_node _ hn]
  · exact ⟨_, exec_registerWrite_syncCfg v hr, syncCfgWrite_master s _ (by simpa using hv)⟩
  · refine ⟨(((s.setTime { s.time with good := 0 }).setRegF Reg.timStatus 0 2 3).timEv 8), if_pos ⟨hst, hmiss⟩, ?_,
      State.timEv_regB _ (by decide), ?_, State.timEv_time _ _⟩
    · rw [State.regF_congr (State.timEv_reg_other _ _ (by decide) (by decide)),
        State.regF_setRegF_same _ _ _ _ _ (by decide)]
      rfl
    · exact eventFrame_of_setTime (eventFrame_of_setReg (by decide) (State.timEv_touches _ _))

end Sys2Proof.Proofs
end

section
/-! PROOFS. The cinch (R37, R38, R51 to R55): what an attempt to arrive and the release of a root can do, and what writes to
TIM_CTRL leave. -/
namespace Sys2Proof.Machine
open Sys2Proof.Claims

/-! ## What a move at the cinch can change -/

/-- `t` is `s` but for TIM_STATUS, messages sent, and the package's own part in the cinch: its arrival, M, and the release. -/
def CinchMove (s t : State) : Prop :=
  (∀ o, o ≠ Reg.timStatus → t.reg o = s.reg o) ∧
  t = { s with regs := t.regs, out := t.out, time := { s.time with
    sent := t.time.sent, m := t.time.m, release := t.time.release, lastRelease := t.time.lastRelease,
    pocketReq := t.time.pocketReq, timerFrom := t.time.timerFrom } }

theorem CinchMove.refl (s : State) : CinchMove s s := ⟨fun _ _ => rfl, rfl⟩

theorem CinchMove.trans {s t u : State} (h1 : CinchMove s t) (h2 : CinchMove t u) : CinchMove s u := by
  obtain ⟨hreg1, he1⟩ := h1
  obtain ⟨hreg2, he2⟩ := h2
  refine ⟨fun o ho => (hreg2 o ho).trans (hreg1 o ho), ?_⟩
  rw [he2, he1]

theorem State.setStatusBit_cinchMove (s : State) (i : Nat) (b : Bool) : CinchMove s (s.setRegB Reg.timStatus i b) :=
  ⟨fun _ ho => State.reg_setReg_other _ _ ho, rfl⟩

theorem State.sendFab_cinchMove (s : State) (m : OutMsg) : CinchMove s (s.sendFab m) := by
  rw [s.sendFab_eq]
  exact ⟨fun _ _ => rfl, rfl⟩

/-- The release goes to every child in the order of their arrival. -/
theorem State.sendRelease_eq (s : State) (m : ReleaseMsg) : s.sendRelease m = { s with
    out := if s.node = 0xFFFF then s.out else s.out ++ s.time.arrived.map fun c => .release c.1 m } := by
  unfold State.sendRelease
  generalize s.time.arrived = l
  induction l generalizing s with
  | nil => simp
  | cons c l ih =>
    have hnode : (s.sendFab (.release c.1 m)).node = s.node := by rw [s.sendFab_eq]; rfl
    rw [List.foldl_cons, ih, hnode, s.sendFab_eq]
    split <;> simp

theorem State.scheduleRelease_eq (s : State) (m : ReleaseMsg) : s.scheduleRelease m = { s with
    out := if s.node = 0xFFFF then s.out else s.out ++ s.time.arrived.map fun c => .release c.1 m
    time := { s.time with release := some (m.stitch, m.t.toNat), lastRelease := some (m.stitch, m.t.toNat),
                          pocketReq := m.pocket } } := by
  unfold State.scheduleRelease
  rw [s.sendRelease_eq]

theorem State.scheduleRelease_cinchMove (s : State) (m : ReleaseMsg) : CinchMove s (s.scheduleRelease m) := by
  rw [s.scheduleRelease_eq]
  exact ⟨fun _ _ => rfl, rfl⟩

theorem State.timerFrom_cinchMove (s : State) (n : Nat) :
    CinchMove s { s with time := { s.time with timerFrom := n } } := ⟨fun _ _ => rfl, rfl⟩

theorem State.rootRelease_cinchMove (s : State) : CinchMove s s.rootRelease := by
  have hpulse := s.setStatusBit_cinchMove 11 false
  unfold State.rootRelease
  dsimp only
  split_ifs
  · exact .trans hpulse (.trans (State.timerFrom_cinchMove _ _) (State.scheduleRelease_cinchMove _ _))
  · exact .trans (s.timerFrom_cinchMove _) (State.scheduleRelease_cinchMove _ _)
  · exact .trans hpulse (State.scheduleRelease_cinchMove _ _)
  · exact s.scheduleRelease_cinchMove _
  · exact .refl s

theorem State.rootRelease_of_not_sent {s : State} (h : s.time.sent = false) : s.rootRelease = s := by
  simp [State.rootRelease, h]

theorem State.rootRelease_of_not_root {s : State} (h : s.isRoot = false) : s.rootRelease = s := by
  simp [State.rootRelease, h]

/-! ## Arriving (R38, R51) -/

/-- A package that runs, is at the cinch, has not arrived and is not stopped. -/
def State.awaitsCinch (s : State) : Bool := s.running && s.time.atCinch && !s.time.sent && !s.stopped

/-- M of R52, as the package's own arrival fixes it. -/
def State.ownM (s : State) : Nat :=
  if s.time.startCinch then (if s.nChild = 0 then 0 else maxLat s.time.arrived + 6400) else s.time.m

/-- The package has arrived itself. -/
def State.ownArrived (s : State) : State :=
  (s.setTime { s.time with sent := true, m := s.ownM }).setRegB Reg.timStatus 10 true

/-- The package arrives: the root may release, and another member sends its arrival to its parent. -/
def State.arrive (s : State) : State :=
  if s.ownArrived.isRoot then s.ownArrived.rootRelease
  else s.ownArrived.sendFab (ownArrival s.ownArrived s.time.startCinch)

theorem State.tryArrive_of_idle {s : State} (h : s.awaitsCinch = false) : s.tryArrive = s := by
  rw [State.awaitsCinch] at h
  rw [State.tryArrive, h]
  rfl

theorem State.tryArrive_withheld {s : State} (h : s.awaitsCinch = true) (hhold : s.regB Reg.timCtrl 3 = true) :
    s.tryArrive = s.setRegB Reg.timStatus 3 true := by
  rw [State.awaitsCinch] at h
  rw [State.tryArrive, h, hhold]
  rfl

/-- Do the conditions of R51 hold: every child has arrived, the stores are drained, and no fault ended the cinch? -/
def State.cinchReady (s : State) : Bool := s.allChildren && s.drained && !s.time.faulted

theorem State.setStatusBit_cinchReady (s : State) (i : Nat) (b : Bool) :
    (s.setRegB Reg.timStatus i b).cinchReady = s.cinchReady := by
  have hn : (s.setRegB Reg.timStatus i b).nChild = s.nChild :=
    congrArg (min 27) (State.regF_setRegF_other _ _ _ _ _ _ (by decide))
  rw [State.cinchReady, State.allChildren, hn]
  rfl

theorem State.tryArrive_waits {s : State} (h : s.awaitsCinch = true) (hhold : s.regB Reg.timCtrl 3 = false)
    (hall : s.cinchReady = false) : s.tryArrive = s.setRegB Reg.timStatus 3 false := by
  rw [← s.setStatusBit_cinchReady 3 false, State.cinchReady] at hall
  rw [State.awaitsCinch] at h
  rw [State.tryArrive, if_pos h, hhold, if_neg Bool.false_ne_true]
  dsimp only
  rw [hall, if_neg Bool.false_ne_true]

theorem latestChild_eq (s : State) : latestChild s = maxLat s.time.arrived := by
  rw [latestChild, List.foldl_map]
  rfl

theorem State.tryArrive_ready {s : State} (h : s.awaitsCinch = true) (hhold : s.regB Reg.timCtrl 3 = false)
    (hall : s.cinchReady = true) : s.tryArrive = (s.setRegB Reg.timStatus 3 false).arrive := by
  have hlat : latestChild (s.setRegB Reg.timStatus 3 false).ownArrived =
    maxLat (s.setRegB Reg.timStatus 3 false).time.arrived := latestChild_eq _
  rw [← s.setStatusBit_cinchReady 3 false, State.cinchReady] at hall
  rw [State.awaitsCinch] at h
  rw [State.tryArrive, if_pos h, hhold, if_neg Bool.false_ne_true, State.arrive, ownArrival, hlat]
  dsimp only
  rw [hall, if_pos rfl]
  rfl

theorem State.ownArrived_cinchMove (s : State) : CinchMove s s.ownArrived :=
  .trans (t := s.setTime { s.time with sent := true, m := s.ownM }) ⟨fun _ _ => rfl, rfl⟩ (State.setStatusBit_cinchMove _ _ _)

theorem State.arrive_cinchMove (s : State) : CinchMove s s.arrive := by
  unfold State.arrive
  split
  · exact .trans s.ownArrived_cinchMove (State.rootRelease_cinchMove _)
  · exact .trans s.ownArrived_cinchMove (State.sendFab_cinchMove _ _)

/-- An attempt to arrive moves the package at the cinch and changes nothing else. -/
theorem State.tryArrive_cinchMove (s : State) : CinchMove s s.tryArrive := by
  by_cases h : s.awaitsCinch = true
  · by_cases hhold : s.regB Reg.timCtrl 3 = true
    · rw [State.tryArrive_withheld h hhold]
      exact s.setStatusBit_cinchMove _ _
    · rw [Bool.not_eq_true] at hhold
      by_cases hall : s.cinchReady = true
      · rw [State.tryArrive_ready h hhold hall]
        exact .trans (s.setStatusBit_cinchMove _ _) (State.arrive_cinchMove _)
      · rw [Bool.not_eq_true] at hall
        rw [State.tryArrive_waits h hhold hall]
        exact s.setStatusBit_cinchMove _ _
  · rw [Bool.not_eq_true] at h
    rw [State.tryArrive_of_idle h]
    exact .refl s

/-! ### The arrival of a member that is not the root -/

/-- The arrival names registers and times that a move at the cinch leaves. -/
theorem CinchMove.ownArrival {s t : State} (h : CinchMove s t) (start : Bool) : ownArrival t start = ownArrival s start := by
  obtain ⟨hreg, he⟩ := h
  have hcfg := State.regF_congr (hreg Reg.timCinchCfg (by decide))
  have hkey := State.regF_congr (hreg Reg.timCinchPkey (by decide))
  have hdet := State.regF_congr (hreg Reg.detCfg (by decide))
  have hnode : t.node = s.node := State.regF_congr (hreg Reg.fabNode (by decide)) 0 16
  have hstitch : t.stitch = s.stitch := hreg _ (by decide)
  have hft : t.ft = s.ft := by rw [State.ft, he]; rfl
  have hlat : latestChild t = latestChild s := by rw [latestChild, he]; rfl
  rw [Claims.ownArrival, hcfg, hkey, hdet, hnode, hstitch, hft, hlat]
  rfl

theorem State.cinchReady_of_mayArrive {s : State} (h : MayArrive s) : s.cinchReady = true := by
  obtain ⟨hchildren, hwrote, hheld, hfault, -⟩ := h
  have hall : s.allChildren = true := decide_eq_true hchildren
  rw [State.cinchReady, hall, State.drained, hwrote, hheld, hfault]
  rfl

theorem State.arrive_member {s : State} (hroot : s.isRoot = false) (hnode : s.node ≠ 0xFFFF) :
    s.arrive = s.ownArrived.send (ownArrival s s.time.startCinch) := by
  have hmove := s.ownArrived_cinchMove
  have hown := hmove.ownArrival s.time.startCinch
  obtain ⟨hreg, -⟩ := hmove
  have hroot' : s.ownArrived.isRoot = false := (State.regB_congr (hreg _ (by decide)) 0).trans hroot
  have hnode' : s.ownArrived.node ≠ 0xFFFF := (State.regF_congr (hreg _ (by decide)) 0 16).trans_ne hnode
  rw [State.arrive, hroot', if_neg Bool.false_ne_true, State.sendFab, if_neg hnode', hown]

@[simp] theorem State.send_reg (s : State) (m : OutMsg) (o : Nat) : (s.send m).reg o = s.reg o := rfl
@[simp] theorem State.send_regB (s : State) (m : OutMsg) (o i : Nat) : (s.send m).regB o i = s.regB o i := rfl
@[simp] theorem State.send_time (s : State) (m : OutMsg) : (s.send m).time = s.time := rfl
@[simp] theorem State.send_out (s : State) (m : OutMsg) : (s.send m).out = s.out ++ [m] := rfl

theorem State.ownArrived_out (s : State) : s.ownArrived.out = s.out := rfl
theorem State.ownArrived_sent (s : State) : s.ownArrived.time.sent = true := rfl
theorem State.ownArrived_wait (s : State) : s.ownArrived.regB Reg.timStatus 10 = true :=
  State.regB_setRegB_same _ _ _ _ (by decide)
theorem State.ownArrived_held (s : State) : s.ownArrived.regB Reg.timStatus 3 = s.regB Reg.timStatus 3 :=
  State.regB_setRegB_bit _ _ _ _ _ (by decide)

/-- What a member that may arrive sends and shows. -/
theorem State.tryArrive_member {s : State} (h : s.awaitsCinch = true) (hhold : s.regB Reg.timCtrl 3 = false)
    (hroot : s.isRoot = false) (hmay : MayArrive s) :
    s.tryArrive.regB Reg.timStatus 3 = false ∧ s.tryArrive.regB Reg.timStatus 10 = true ∧ s.tryArrive.time.sent = true ∧
      s.tryArrive.out = s.out ++ [ownArrival s s.time.startCinch] := by
  have hready := State.cinchReady_of_mayArrive hmay
  obtain ⟨-, -, -, -, hnode⟩ := hmay
  have hmove := s.setStatusBit_cinchMove 3 false
  have hown := hmove.ownArrival s.time.startCinch
  obtain ⟨hreg, -⟩ := hmove
  have hroot' : (s.setRegB Reg.timStatus 3 false).isRoot = false :=
    (State.regB_congr (hreg Reg.timCinchCfg (by decide)) 0).trans hroot
  have hnode' : (s.setRegB Reg.timStatus 3 false).node ≠ 0xFFFF :=
    (State.regF_congr (hreg Reg.fabNode (by decide)) 0 16).trans_ne hnode
  have h3 : (s.setRegB Reg.timStatus 3 false).regB Reg.timStatus 3 = false := s.regB_setRegB_same _ _ _ (by decide)
  rw [State.tryArrive_ready h hhold hready, State.arrive_member hroot' hnode', State.setRegB_time, hown]
  simp only [State.send_regB, State.send_time, State.send_out, State.ownArrived_held, State.ownArrived_wait,
    State.ownArrived_sent, State.ownArrived_out, State.setRegB_out, h3, and_self]

end Sys2Proof.Machine
end

section
/-! PROOFS. Writes to TIM_CTRL (R37, R38): what the register then holds, and which of the three moves follows. -/
namespace Sys2Proof.Machine
open Sys2Proof.Claims

/-- What a write of `v` leaves in TIM_CTRL, where RUN becomes `run`. -/
def timCtrlWord (v : BitVec 32) (run : Bool) : W64 := setBit (v.zeroExtend 64 &&& 0x1F) 0 run

theorem getLsbD_timCtrlWord (v : BitVec 32) (run : Bool) {i : Nat} (hi : i < 5) :
    (timCtrlWord v run).getLsbD i = if i = 0 then run else v.getLsbD i := by
  have hmask : (0x1F : W64).getLsbD i = true := by revert i; decide
  rw [timCtrlWord, setBit, getLsbD_setFld _ _ _ _ _ (by omega)]
  by_cases h0 : i = 0
  · subst h0
    cases run <;> rfl
  · rw [if_neg (by omega), if_neg h0, BitVec.getLsbD_and, hmask, BitVec.getLsbD_setWidth, decide_eq_true (by omega),
      Bool.true_and, Bool.and_true]

section
variable (s : State) (v : BitVec 32) (run : Bool)

/-- The state with TIM_CTRL written. -/
def State.ctrlWritten : State := s.setReg Reg.timCtrl (timCtrlWord v run)

theorem State.ctrlWritten_bit {i : Nat} (hi : i < 5) :
    (s.ctrlWritten v run).regB Reg.timCtrl i = if i = 0 then run else v.getLsbD i := by
  rw [State.regB_eq_getLsbD, State.ctrlWritten, State.reg_setReg_same, getLsbD_timCtrlWord v run hi]

theorem State.ctrlWritten_reg_other {o : Nat} (h : o ≠ Reg.timCtrl) : (s.ctrlWritten v run).reg o = s.reg o :=
  State.reg_setReg_other _ _ h

/-- A write whose RUN takes effect is stored whole. -/
theorem State.ctrlWritten_field (h : v.getLsbD 0 = run) : (s.ctrlWritten v run).regF Reg.timCtrl 0 5 = v.toNat % 32 := by
  rw [State.regF, State.ctrlWritten, State.reg_setReg_same]
  refine fld_eq_mod_of_bits fun i hi => ?_
  rw [Nat.add_zero, getLsbD_timCtrlWord v run hi]
  split
  case isTrue h0 => rw [h0, ← h]; rfl
  case isFalse => rfl

end

section
variable {s : State} {v : BitVec 32} (hr : s.reaches Reg.timCtrl = true)
include hr

/-- RUN is set: the package joins the start cinch. -/
theorem exec_runSet (hv : v.getLsbD 0 = true) (hrun : s.regB Reg.timCtrl 0 = false) :
    exec (.runSet v) s = .next (s.ctrlWritten v true).joinStart := by
  change Host.Outcome.next (s.bar _ _) = _
  have hbit : bit (v.zeroExtend 64) 0 = true := by simpa [bit] using hv
  rw [s.bar_reached _ _ hr, State.timCtrlWrite, hbit, State.running, hrun]
  rfl

/-- RUN is cleared while HELD or STOPPED: the package leaves the cinch. -/
theorem exec_runClear_leaves (hv : v.getLsbD 0 = false) (hrun : s.regB Reg.timCtrl 0 = true)
    (hheld : s.regB Reg.timStatus 3 = true ∨ s.regB Reg.timStatus 13 = true) :
    exec (.runClear v) s = .next (s.ctrlWritten v false).leaveCinch := by
  change Host.Outcome.next (s.bar _ _) = _
  have hbit : bit (v.zeroExtend 64) 0 = false := by simpa [bit] using hv
  have hheld' : (s.held? || s.stopped) = true := Bool.or_eq_true_iff.mpr hheld
  rw [s.bar_reached _ _ hr, State.timCtrlWrite, hbit, hheld', State.running, hrun]
  rfl

/-- RUN stays 1: the package may arrive, and a root release. -/
theorem timCtrlWrite_stays (hrun : s.regB Reg.timCtrl 0 = true)
    (hv : v.getLsbD 0 = true ∨ s.regB Reg.timStatus 3 = false ∧ s.regB Reg.timStatus 13 = false) :
    s.bar Reg.timCtrl (fun s => s.timCtrlWrite (v.zeroExtend 64)) = (s.ctrlWritten v true).tryArrive.rootRelease := by
  have hstay : (bit (v.zeroExtend 64) 0 || (s.running && !(s.held? || s.stopped))) = true := by
    rcases hv with hv | ⟨hheld, hstop⟩
    · have hbit : bit (v.zeroExtend 64) 0 = true := by simpa [bit] using hv
      rw [hbit, Bool.true_or]
    · rw [State.running, State.held?, State.stopped, hrun, hheld, hstop]
      exact Bool.or_true _
  rw [s.bar_reached _ _ hr, State.timCtrlWrite, hstay, State.running, hrun]
  rfl

end

/-! ## Leaving the cinch (R38) -/

theorem State.leaveCinch_frame (s : State) :
    s.leaveCinch = { s with regs := s.leaveCinch.regs, time := s.leaveCinch.time } := rfl

/-- The four bits of TIM_STATUS that leaving the cinch clears. -/
def State.statusCleared (s : State) : State :=
  (((s.setRegB Reg.timStatus 3 false).setRegB Reg.timStatus 10 false).setRegB Reg.timStatus 11 false).setRegB
    Reg.timStatus 13 false

theorem State.leaveCinch_reg (s : State) (o : Nat) : s.leaveCinch.reg o = s.statusCleared.reg o := rfl

theorem State.statusCleared_reg_other (s : State) {o : Nat} (h : o ≠ Reg.timStatus) : s.statusCleared.reg o = s.reg o := by
  simp only [State.statusCleared, State.setRegB, State.setRegF, State.reg_setReg_other _ _ h]

theorem State.statusCleared_bits (s : State) : ∀ b ∈ [3, 10, 11, 13], s.statusCleared.regB Reg.timStatus b = false := by
  intro b hb
  simp only [List.mem_cons, List.not_mem_nil, or_false] at hb
  unfold State.statusCleared
  rcases hb with rfl | rfl | rfl | rfl
  · rw [State.regB_setRegB_bit _ _ _ _ _ (by decide), State.regB_setRegB_bit _ _ _ _ _ (by decide),
      State.regB_setRegB_bit _ _ _ _ _ (by decide), State.regB_setRegB_same _ _ _ _ (by decide)]
  · rw [State.regB_setRegB_bit _ _ _ _ _ (by decide), State.regB_setRegB_bit _ _ _ _ _ (by decide),
      State.regB_setRegB_same _ _ _ _ (by decide)]
  · rw [State.regB_setRegB_bit _ _ _ _ _ (by decide), State.regB_setRegB_same _ _ _ _ (by decide)]
  · exact State.regB_setRegB_same _ _ _ _ (by decide)

end Sys2Proof.Machine
end

section
/-! PROOFS. Joining the start cinch (R37) and the faults of a cinch (R54). -/
namespace Sys2Proof.Machine
open Sys2Proof.Claims

/-! ## Faults (R54) -/

theorem State.cinchFault_eq (s : State) (b : Nat) :
    s.cinchFault b = (s.setTime { s.time with faulted := s.time.faulted || s.time.release.isNone }).timEv b := rfl

theorem State.cinchFault_time (s : State) (b : Nat) :
    (s.cinchFault b).time = { s.time with faulted := s.time.faulted || s.time.release.isNone } := by
  rw [s.cinchFault_eq, State.timEv_time, State.setTime_time]

theorem State.cinchFault_out (s : State) (b : Nat) : (s.cinchFault b).out = s.out := by
  rw [s.cinchFault_eq, State.timEv_out, State.setTime_out]

theorem State.cinchFault_reg_other (s : State) (b : Nat) {o : Nat} (h : Reg.msixPba 32 ≤ o) (hev : o ≠ Reg.timEvent) :
    (s.cinchFault b).reg o = s.reg o := by
  rw [s.cinchFault_eq, State.timEv_reg_other _ _ h hev, State.setTime_reg]

/-! ## Joining the start cinch (R37) -/

/-- The package is at the start cinch, before it tries to arrive. -/
def State.atStart (s : State) : State :=
  s.setTime { s.time with atCinch := true, startCinch := true, sent := false, dueAt := s.ft }

/-- The same, with the fault of an arrival that came before and carried another stitch or profile. -/
def State.joined (s : State) : State :=
  if s.time.profiles.any fun p => p != s.profile then s.atStart.cinchFault 6 else s.atStart

theorem State.joinStart_eq (s : State) : s.joinStart = s.joined.tryArrive := rfl

theorem State.joined_time (s : State) : s.joined.time =
    { s.time with atCinch := true, startCinch := true, sent := false, dueAt := s.ft, faulted := s.joined.time.faulted } := by
  unfold State.joined
  split
  · rw [State.cinchFault_time]
    rfl
  · rfl

theorem State.joined_out (s : State) : s.joined.out = s.out := by
  unfold State.joined
  split
  · rw [State.cinchFault_out]
    rfl
  · rfl

theorem State.joined_reg_other (s : State) {o : Nat} (h : Reg.msixPba 32 ≤ o) (hev : o ≠ Reg.timEvent) :
    s.joined.reg o = s.reg o := by
  unfold State.joined
  split
  · rw [State.cinchFault_reg_other _ _ h hev]
    rfl
  · rfl

/-- Without such an arrival there is no fault. -/
theorem State.joined_of_profiles {s : State} (h : ∀ q ∈ s.time.profiles, q = s.profile) : s.joined = s.atStart := by
  have hany : (s.time.profiles.any fun p => p != s.profile) = false := by
    rw [List.any_eq_false]
    intro q hq
    rw [h q hq, bne_self_eq_false]
    exact Bool.false_ne_true
  rw [State.joined, hany, if_neg Bool.false_ne_true]

theorem State.joined_awaitsCinch {s : State} (hrun : s.regB Reg.timCtrl 0 = true) (hstop : s.regB Reg.timStatus 13 = false) :
    s.joined.awaitsCinch = true := by
  have hrun' : s.joined.running = true := (State.regB_congr (s.joined_reg_other (by decide) (by decide)) 0).trans hrun
  have hstop' : s.joined.stopped = false := (State.regB_congr (s.joined_reg_other (by decide) (by decide)) 13).trans hstop
  rw [State.awaitsCinch, hrun', hstop', s.joined_time]
  rfl

end Sys2Proof.Machine
end

section
/-! PROOFS. RUN and HOLD (R37, R38). -/
namespace Sys2Proof.Proofs
open Sys2Proof.Machine Sys2Proof.Claims

theorem mayArrive_ctrlWritten {s : State} (v : BitVec 32) (run : Bool) (h : MayArrive s) : MayArrive (s.ctrlWritten v run) := by
  obtain ⟨hchildren, hwrote, hheld, hfault, hnode⟩ := h
  have hcfg := State.regF_congr (s.ctrlWritten_reg_other v run (o := Reg.timCinchCfg) (by decide))
  have hnode' : (s.ctrlWritten v run).node = s.node :=
    State.regF_congr (s.ctrlWritten_reg_other v run (o := Reg.fabNode) (by decide)) 0 16
  refine ⟨?_, hwrote, hheld, hfault, hnode'.trans_ne hnode⟩
  rw [hcfg]
  exact hchildren

/-- The arrival names nothing that a write to TIM_CTRL changes. -/
theorem ownArrival_ctrlWritten (s : State) (v : BitVec 32) (run start : Bool) :
    ownArrival (s.ctrlWritten v run) start = ownArrival s start := by
  have hreg {o : Nat} (ho : o ≠ Reg.timCtrl) := s.ctrlWritten_reg_other v run ho
  have hcfg := State.regF_congr (hreg (o := Reg.timCinchCfg) (by decide))
  have hkey := State.regF_congr (hreg (o := Reg.timCinchPkey) (by decide))
  have hdet := State.regF_congr (hreg (o := Reg.detCfg) (by decide))
  have hnode : (s.ctrlWritten v run).node = s.node := State.regF_congr (hreg (o := Reg.fabNode) (by decide)) 0 16
  have hstitch : (s.ctrlWritten v run).stitch = s.stitch := hreg (by decide)
  rw [ownArrival, hcfg, hkey, hdet, hnode, hstitch]
  rfl

/-- Setting RUN (R37). -/
theorem runSet_joins (s : State) (v : BitVec 32) (hr : s.reaches Reg.timCtrl = true) (hv : v.getLsbD 0 = true)
    (hrun : s.regB Reg.timCtrl 0 = false) :
    ∃ t, exec (.runSet v) s = .next t ∧ t.regF Reg.timCtrl 0 5 = v.toNat % 32 ∧ t.time.atCinch = true ∧
      t.time.startCinch = true ∧ t.time.dueAt = s.ft ∧
      (s.regB Reg.timStatus 13 = false → v.getLsbD 3 = true →
        t.regB Reg.timStatus 3 = true ∧ t.time.sent = false ∧ t.out = s.out) ∧
      (s.regB Reg.timStatus 13 = false → v.getLsbD 3 = false → s.regB Reg.timCinchCfg 0 = false → MayArrive s →
        (∀ q ∈ s.time.profiles, q = (s.stitch, s.regF Reg.detCfg 0 3)) →
        t.regB Reg.timStatus 3 = false ∧ t.regB Reg.timStatus 10 = true ∧ t.time.sent = true ∧
        t.out = s.out ++ [ownArrival s true]) := by
  refine ⟨_, exec_runSet hr hv hrun, ?_⟩
  have hw0 := s.ctrlWritten_bit v true (i := 0) (by decide)
  have hw3 := s.ctrlWritten_bit v true (i := 3) (by decide)
  have hwf := s.ctrlWritten_field v true hv
  have hother {o : Nat} (ho : o ≠ Reg.timCtrl) := s.ctrlWritten_reg_other v true ho
  have hmay := mayArrive_ctrlWritten (s := s) v true
  have hown := ownArrival_ctrlWritten s v true true
  have htime : (s.ctrlWritten v true).time = s.time := rfl
  have hout : (s.ctrlWritten v true).out = s.out := rfl
  generalize s.ctrlWritten v true = w at *
  have hft : w.ft = s.ft := by rw [State.ft, htime, State.ft]
  have hj : w.joined.reg Reg.timCtrl = w.reg Reg.timCtrl := w.joined_reg_other (by decide) (by decide)
  have hmove := w.joined.tryArrive_cinchMove
  obtain ⟨hreg, he⟩ := hmove
  have hatime : w.joined.tryArrive.time.atCinch = true ∧ w.joined.tryArrive.time.startCinch = true ∧
      w.joined.tryArrive.time.dueAt = s.ft := by
    rw [he, w.joined_time, hft]
    exact ⟨rfl, rfl, rfl⟩
  obtain ⟨hat, hstart, hdue⟩ := hatime
  rw [w.joinStart_eq]
  refine ⟨?_, hat, hstart, hdue, fun hstop hhold => ?_, fun hstop hhold hroot hcan hprof => ?_⟩
  · rw [State.regF_congr (hreg _ (by decide)), State.regF_congr hj, hwf]
  · have haw := State.joined_awaitsCinch hw0 ((State.regB_congr (hother (by decide)) 13).trans hstop)
    rw [State.tryArrive_withheld haw ((State.regB_congr hj 3).trans (hw3.trans hhold))]
    refine ⟨State.regB_setRegB_same _ _ _ _ (by decide), ?_, ?_⟩
    · rw [State.setRegB_time, w.joined_time]
    · rw [State.setRegB_out, w.joined_out, hout]
  · have haw := State.joined_awaitsCinch hw0 ((State.regB_congr (hother (by decide)) 13).trans hstop)
    have hprof' : ∀ q ∈ w.time.profiles, q = w.profile := by
      rw [htime, State.profile, State.stitch, hother (by decide), State.regF_congr (hother (by decide))]
      exact hprof
    rw [State.joined_of_profiles hprof'] at haw ⊢
    have h := State.tryArrive_member haw (hw3.trans hhold) ((State.regB_congr (hother (by decide)) 0).trans hroot) (hmay hcan)
    obtain ⟨h3, h10, hsent, hsends⟩ := h
    refine ⟨h3, h10, hsent, hsends.trans ?_⟩
    rw [← hout, ← hown]
    rfl

/-- Clearing RUN while HELD or STOPPED (R38). -/
theorem runClear_leaves (s : State) (v : BitVec 32) (hr : s.reaches Reg.timCtrl = true) (hv : v.getLsbD 0 = false)
    (hrun : s.regB Reg.timCtrl 0 = true) (hheld : s.regB Reg.timStatus 3 = true ∨ s.regB Reg.timStatus 13 = true) :
    ∃ t, exec (.runClear v) s = .next t ∧
      t.regB Reg.timCtrl 0 = false ∧ (∀ b ∈ [3, 10, 11, 13], t.regB Reg.timStatus b = false) ∧
      t.time.atCinch = false ∧ t.time.release = none ∧ t.time.arrived = [] ∧
      OnlyRegs s t [Reg.timCtrl, Reg.timStatus] ∧ t = { s with regs := t.regs, time := t.time } := by
  refine ⟨_, exec_runClear_leaves hr hv hrun hheld, ?_, fun b hb => ?_, rfl, rfl, rfl, fun o ho => ?_, rfl⟩
  · rw [State.regB_congr (State.leaveCinch_reg _ _), State.regB_congr (State.statusCleared_reg_other _ (by decide)),
      State.ctrlWritten_bit _ _ _ (by decide), if_pos rfl]
  · rw [State.regB_congr (State.leaveCinch_reg _ _), State.statusCleared_bits _ b hb]
  · simp only [List.mem_cons, List.not_mem_nil, or_false, not_or] at ho
    obtain ⟨hctrl, hstatus⟩ := ho
    rw [State.leaveCinch_reg, State.statusCleared_reg_other _ hstatus, State.ctrlWritten_reg_other _ _ _ hctrl]

/-- A write to TIM_CTRL with RUN staying 1 leaves RUN 1. -/
theorem runClear_keeps (s : State) (v : BitVec 32) (hr : s.reaches Reg.timCtrl = true)
    (hrun : s.regB Reg.timCtrl 0 = true) (hheld : s.regB Reg.timStatus 3 = false) (hstop : s.regB Reg.timStatus 13 = false) :
    ∃ t, exec (.runClear v) s = .next t ∧ t.regB Reg.timCtrl 0 = true := by
  refine ⟨_, congrArg Host.Outcome.next (timCtrlWrite_stays hr hrun (.inr ⟨hheld, hstop⟩)), ?_⟩
  obtain ⟨hreg, -⟩ := (State.tryArrive_cinchMove (s.ctrlWritten v true)).trans (State.rootRelease_cinchMove _)
  rw [State.regB_congr (hreg _ (by decide)), State.ctrlWritten_bit _ _ _ (by decide), if_pos rfl]

/-- HOLD withholds the next arrival (R38). -/
theorem holdSet_withholds (s : State) (v : BitVec 32) (hr : s.reaches Reg.timCtrl = true) (hv : v.getLsbD 0 = true)
    (hv3 : v.getLsbD 3 = true) (hrun : s.regB Reg.timCtrl 0 = true) (hsent : s.time.sent = false) :
    ∃ t, exec (.holdSet v) s = .next t ∧
      t.regF Reg.timCtrl 0 5 = v.toNat % 32 ∧ t.time = s.time ∧ t.out = s.out ∧
      (s.time.atCinch = true → s.regB Reg.timStatus 13 = false → t.regB Reg.timStatus 3 = true) ∧
      OnlyRegs s t [Reg.timCtrl, Reg.timStatus] ∧ t = { s with regs := t.regs } := by
  refine ⟨_, congrArg Host.Outcome.next (timCtrlWrite_stays hr hrun (.inl hv)), ?_⟩
  have hw0 : (s.ctrlWritten v true).running = true := s.ctrlWritten_bit v true (i := 0) (by decide)
  have hw3 : (s.ctrlWritten v true).regB Reg.timCtrl 3 = true := (s.ctrlWritten_bit v true (by decide)).trans hv3
  have hwf := s.ctrlWritten_field v true hv
  have hwreg : OnlyRegs s (s.ctrlWritten v true) [Reg.timCtrl, Reg.timStatus] := fun o ho =>
    s.ctrlWritten_reg_other v true (List.ne_of_not_mem_cons ho)
  have hwstop : (s.ctrlWritten v true).stopped = s.regB Reg.timStatus 13 :=
    State.regB_congr (s.ctrlWritten_reg_other v true (by decide)) 13
  by_cases haw : (s.ctrlWritten v true).awaitsCinch = true
  · have hsent' : ((s.ctrlWritten v true).setRegB Reg.timStatus 3 true).time.sent = false := hsent
    rw [State.tryArrive_withheld haw hw3, State.rootRelease_of_not_sent hsent']
    refine ⟨?_, rfl, rfl, fun _ _ => State.regB_setRegB_same _ _ _ _ (by decide), fun o ho => ?_, rfl⟩
    · rw [State.setRegB, State.regF_setRegF_other _ _ _ _ _ _ (by decide), hwf]
    · have hst : o ≠ Reg.timStatus := List.ne_of_not_mem_cons (List.not_mem_of_not_mem_cons ho)
      exact (State.reg_setReg_other _ _ hst).trans (hwreg o ho)
  · have hsent' : (s.ctrlWritten v true).time.sent = false := hsent
    rw [Bool.not_eq_true] at haw
    rw [State.tryArrive_of_idle haw, State.rootRelease_of_not_sent hsent']
    refine ⟨hwf, rfl, rfl, fun hat hstop => absurd haw ?_, hwreg, rfl⟩
    have hat' : (s.ctrlWritten v true).time.atCinch = true := hat
    rw [State.awaitsCinch, hw0, hwstop, hstop, hat', hsent']
    decide

/-- Clearing HOLD sends an arrival that was withheld (R38). -/
theorem holdClear_arrives (s : State) (v : BitVec 32) (hr : s.reaches Reg.timCtrl = true) (hv : v.getLsbD 0 = true)
    (hv3 : v.getLsbD 3 = false) (hrun : s.regB Reg.timCtrl 0 = true) (hsent : s.time.sent = false)
    (hat : s.time.atCinch = true) (hstop : s.regB Reg.timStatus 13 = false) (hroot : s.regB Reg.timCinchCfg 0 = false)
    (hmay : MayArrive s) :
    ∃ t, exec (.holdClear v) s = .next t ∧ t.regF Reg.timCtrl 0 5 = v.toNat % 32 ∧ t.regB Reg.timStatus 3 = false ∧
      t.regB Reg.timStatus 10 = true ∧ t.time.sent = true ∧ t.out = s.out ++ [ownArrival s s.time.startCinch] := by
  refine ⟨_, congrArg Host.Outcome.next (timCtrlWrite_stays hr hrun (.inl hv)), ?_⟩
  have hw0 : (s.ctrlWritten v true).running = true := s.ctrlWritten_bit v true (i := 0) (by decide)
  have hwstop : (s.ctrlWritten v true).stopped = false :=
    (State.regB_congr (s.ctrlWritten_reg_other v true (by decide)) 13).trans hstop
  have haw : (s.ctrlWritten v true).awaitsCinch = true := by
    have hat' : (s.ctrlWritten v true).time.atCinch = true := hat
    have hsent' : (s.ctrlWritten v true).time.sent = false := hsent
    rw [State.awaitsCinch, hw0, hwstop, hat', hsent']
    rfl
  have hwroot : (s.ctrlWritten v true).isRoot = false :=
    (State.regB_congr (s.ctrlWritten_reg_other v true (by decide)) 0).trans hroot
  have hsends := State.tryArrive_member haw ((s.ctrlWritten_bit v true (by decide)).trans hv3) hwroot
    (mayArrive_ctrlWritten v true hmay)
  obtain ⟨h3, h10, hsent', hout⟩ := hsends
  obtain ⟨hreg, -⟩ := State.tryArrive_cinchMove (s.ctrlWritten v true)
  have hroot' : (s.ctrlWritten v true).tryArrive.isRoot = false := (State.regB_congr (hreg _ (by decide)) 0).trans hwroot
  rw [State.rootRelease_of_not_root hroot']
  refine ⟨?_, h3, h10, hsent', hout.trans (congrArg (fun m => s.out ++ [m]) (ownArrival_ctrlWritten s v true _))⟩
  rw [State.regF_congr (hreg _ (by decide)), s.ctrlWritten_field v true hv]

theorem runAndHold : Parts.RunAndHold :=
  ⟨fun v s => runSet_joins s v, fun v s hr hv hrun => ⟨runClear_leaves s v hr hv hrun, runClear_keeps s v hr hrun⟩,
    fun v s => holdSet_withholds s v, fun v s => holdClear_arrives s v⟩

/-- Settles O32: an exchange by what each function leaves of the registers and of the time base, RUN and HOLD by the three
moves that a write to TIM_CTRL makes. -/
theorem timeBase : Obligations.TimeBase := ⟨synchronisation, runAndHold⟩

end Sys2Proof.Proofs
end

section
/-! PROOFS. Pleats (R36, R39 to R43, R48): what examining the action table can change, and the state in which a pleat begins. -/
namespace Sys2Proof.Machine
open Sys2Proof.Claims

/-! ## Examining entries (R43, R46) -/

/-- `t` is `s` but for what events and owed completions change, and the launch queue. -/
def Examined (s t : State) : Prop :=
  (∀ o, Reg.msixPba 32 ≤ o → o ≠ Reg.timEvent → t.reg o = s.reg o) ∧
  t = { s with regs := t.regs, mem := t.mem, poison := t.poison, msixOut := t.msixOut, ibiOut := t.ibiOut,
               owed := t.owed, time := { s.time with launchQ := t.time.launchQ } }

theorem Examined.refl (s : State) : Examined s s := ⟨fun _ _ _ => rfl, rfl⟩

theorem Examined.trans {s t u : State} (h1 : Examined s t) (h2 : Examined t u) : Examined s u := by
  obtain ⟨hreg1, he1⟩ := h1
  obtain ⟨hreg2, he2⟩ := h2
  refine ⟨fun o ho hev => (hreg2 o ho hev).trans (hreg1 o ho hev), ?_⟩
  rw [he2, he1]

theorem Examined.time {s t : State} (h : Examined s t) : t.time = { s.time with launchQ := t.time.launchQ } := by
  obtain ⟨-, he⟩ := h
  rw [he]

/-- An event of any block, of which no register but TIM_EVENT lies above the pending bits. -/
theorem State.event_examined (s : State) (blk ev bit : Nat) (unit detail : Option Nat)
    (hev : ev < Reg.msixPba 32 ∨ ev = Reg.timEvent) : Examined s (s.event blk ev bit unit detail) := by
  have he := s.event_frame blk ev bit unit detail
  refine ⟨fun o ho hne => s.event_reg_of_ge _ _ _ _ _ ho ?_, ?_⟩
  · rcases hev with hev | hev
    · omega
    · exact hev ▸ hne
  · rw [Machine.EventFrame] at he
    rw [he]

theorem State.timEv_examined (s : State) (b : Nat) : Examined s (s.timEv b) := s.event_examined _ _ _ _ _ (.inr rfl)

theorem State.owe_examined (s : State) (c : Compl) : Examined s (s.owe c) := by
  refine .trans (t := { s with owed := s.owed ++ [c] }) ⟨fun _ _ _ => rfl, rfl⟩ ?_
  unfold State.owe State.pendFull
  split
  · exact State.event_examined _ _ _ _ _ _ (.inl (by decide))
  · exact .refl _

theorem State.reject_examined (s : State) (e : Entry) : Examined s (s.reject e) := by
  unfold State.reject
  dsimp only
  split
  · exact .trans (s.timEv_examined 2) (State.owe_examined _ _)
  · exact s.timEv_examined 2

theorem State.examine_examined (s : State) (e : Entry) : Examined s (s.examine e) := by
  unfold State.examine
  split_ifs
  · exact s.reject_examined e
  · exact .refl s
  · exact s.reject_examined e
  · exact ⟨fun _ _ _ => rfl, rfl⟩

theorem State.examines_examined (es : List Entry) (s : State) : Examined s (es.foldl State.examine s) := by
  induction es generalizing s with
  | nil => exact .refl s
  | cons e es ih => exact .trans (s.examine_examined e) (ih _)

theorem State.timerFire_examined (s : State) (p : Nat) : Examined s (s.timerFire p) := by
  unfold State.timerFire
  dsimp only
  split
  · exact s.examine_examined _
  · exact .refl s

/-! ## The entries of the active bank (R43) -/

/-- Storing a key outside a filter leaves what the filter keeps. -/
theorem Tbl.filter_set {α : Type} [DecidableEq α] {d : α} (t : Tbl α) {k : Nat} (v : α) {f : Nat × α → Bool}
    (h : ∀ x, f (k, x) = false) : (Tbl.set d t k v).filter f = t.filter f := by
  have herase (t : Tbl α) : (Tbl.erase t k).filter f = t.filter f := by
    induction t with
    | nil => rfl
    | cons p t ih =>
      obtain ⟨j, w⟩ := p
      rw [Tbl.erase]
      split
      case isTrue hj =>
        subst hj
        rw [ih, List.filter_cons_of_neg (by simp [h])]
      case isFalse => rw [List.filter_cons, List.filter_cons, ih]
  have hinsert (t : Tbl α) : (Tbl.insert t k v).filter f = t.filter f := by
    induction t with
    | nil => exact List.filter_cons_of_neg (by simp [h])
    | cons p t ih =>
      obtain ⟨j, w⟩ := p
      rw [Tbl.insert]
      split_ifs with hlt hj
      · exact List.filter_cons_of_neg (by simp [h])
      · subst hj
        rw [List.filter_cons_of_neg (by simp [h]), List.filter_cons_of_neg (by simp [h])]
      · rw [List.filter_cons, List.filter_cons, ih]
  unfold Tbl.set
  split
  · exact herase t
  · exact hinsert t

/-- A register outside the action table is stored: the table's entries stay, where the active bank does. -/
theorem State.entriesOf_setReg (s : State) {o : Nat} (v : W64) (p : Nat) (ho : o < 0x420000)
    (hbank : (s.setReg o v).bank = s.bank) : (s.setReg o v).entriesOf p = s.entriesOf p := by
  have hfilter (base : Nat) (hb : 0x420000 ≤ base) : ((s.setReg o v).regs.filter fun q => decide (base ≤ q.1) &&
      decide (q.1 < base + 0x20000) && (q.1 - base) % 32 == 0 && bit q.2 0) = s.regs.filter fun q => decide (base ≤ q.1) &&
      decide (q.1 < base + 0x20000) && (q.1 - base) % 32 == 0 && bit q.2 0 :=
    Tbl.filter_set _ _ fun x => by simp [show ¬ base ≤ o by omega]
  have hentry (b i : Nat) : (s.setReg o v).entry b i = s.entry b i := by
    have hreg (o' : Nat) (h' : 0x420000 ≤ o') : (s.setReg o v).reg o' = s.reg o' := s.reg_setReg_other v (by omega)
    simp only [State.entry, hreg (Reg.act0 b i) (by unfold Reg.act0; omega), hreg (Reg.act1 b i) (by unfold Reg.act1; omega),
      hreg (Reg.act2 b i) (by unfold Reg.act2; omega), hreg (Reg.act3 b i) (by unfold Reg.act3; omega),
      hreg (Reg.act4 b i) (by unfold Reg.act4; omega), hreg (Reg.act5 b i) (by unfold Reg.act5; omega)]
  unfold State.entriesOf
  dsimp only
  rw [hbank, hfilter _ (by omega)]
  simp only [hentry]

/-! ## Entries that are all well formed -/

/-- What a list of well-formed entries launches on the present stitch. -/
def State.firedOf (s : State) (es : List Entry) : List Launch := (es.filter fun e => e.fires s.stitch).map Entry.launch

theorem State.firedOf_cons (s : State) (e : Entry) (es : List Entry) :
    s.firedOf (e :: es) = if e.fires s.stitch then e.launch :: s.firedOf es else s.firedOf es := by
  rw [State.firedOf, List.filter_cons]
  split <;> rfl

/-- The state with another launch queue. -/
def State.setLaunchQ (s : State) (q : List Launch) : State := s.setTime { s.time with launchQ := q }

/-- Examining well-formed entries queues what fires, and changes nothing else (R43). -/
theorem State.examines_wellFormed (es : List Entry) (s : State)
    (h : ∀ e ∈ es, e.unjudged = false ∧ s.malformed e = false) :
    es.foldl State.examine s = s.setLaunchQ (s.time.launchQ ++ s.firedOf es) := by
  induction es generalizing s with
  | nil =>
    rw [State.firedOf, List.filter_nil, List.map_nil, List.append_nil]
    rfl
  | cons e es ih =>
    obtain ⟨hjudged, hform⟩ := h e List.mem_cons_self
    have hrest := fun e' he' => h e' (List.mem_cons_of_mem e he')
    rw [List.foldl_cons, State.examine, hjudged, hform, s.firedOf_cons]
    cases hf : e.fires s.stitch with
    | true =>
      have hq := ih (s.setLaunchQ (s.time.launchQ ++ [e.launch])) hrest
      have hfire : (s.setLaunchQ (s.time.launchQ ++ [e.launch])).firedOf es = s.firedOf es := rfl
      rw [hfire] at hq
      exact hq.trans (congrArg s.setLaunchQ (List.append_assoc _ [e.launch] _))
    | false => exact ih s hrest

/-! ## The state in which a pleat begins (R39, R43, R111) -/

section
variable (s : State) (p : Nat)

/-- The registers as a pleat begins. -/
def State.pleatRegs : State :=
  ((s.setRegF Reg.timStatus 4 6 p).setRegB Reg.timStatus 2 true).setReg Reg.timPleatStart (BitVec.ofNat 64 s.ft)

/-- The time base as a pleat begins, before its entries are examined. -/
def State.pleatTime : TimeSt :=
  { s.time with inPleat := true, isOpen := s.pleatOpen p, length := s.pleatLength p,
                planned := s.ft + 64 * timedLength (s.pleatLength p), overrun := false, watched := false, lastDone := s.ft,
                launchQ := [], begun := s.time.begun + 1, due := none }

/-- The pleat begins, and no entry is examined yet. -/
def State.pleatEntered : State := { (s.pleatRegs p).setTime (s.pleatTime p) with sync := [] }

/-- The entries of the pleat are examined. -/
def State.pleatExamined : State := (((s.pleatEntered p).entriesOf p).foldl State.examine (s.pleatEntered p)).timerFire p

/-- Telemetry samples launch before everything else (R49). -/
def telemetryFirst (q : List Launch) : List Launch := q.filter (fun l => l.typ == 6) ++ q.filter fun l => l.typ != 6

theorem State.beginPleat_eq : s.beginPleat p = (s.pleatExamined p).setTime { (s.pleatExamined p).time with
    launchQ := telemetryFirst (s.pleatExamined p).time.launchQ, dueRings := (s.pleatExamined p).ringsDue,
    samples := (s.pleatExamined p).ringSamples } := rfl

theorem State.pleatExamined_examined : Examined (s.pleatEntered p) (s.pleatExamined p) :=
  .trans (State.examines_examined _ _) (State.timerFire_examined _ _)

theorem State.beginPleat_time : (s.beginPleat p).time = { s.pleatTime p with
    launchQ := (s.beginPleat p).time.launchQ, dueRings := (s.beginPleat p).time.dueRings,
    samples := (s.beginPleat p).time.samples } := by
  rw [s.beginPleat_eq, State.setTime_time, (s.pleatExamined_examined p).time]
  rfl

theorem State.beginPleat_sync : (s.beginPleat p).sync = [] := by
  obtain ⟨-, he⟩ := s.pleatExamined_examined p
  have hsync : (s.beginPleat p).sync = (s.pleatExamined p).sync := rfl
  rw [hsync, he]
  rfl

theorem State.beginPleat_reg {o : Nat} (h : Reg.msixPba 32 ≤ o) (hev : o ≠ Reg.timEvent) :
    (s.beginPleat p).reg o = (s.pleatRegs p).reg o := by
  obtain ⟨hreg, -⟩ := s.pleatExamined_examined p
  exact hreg o h hev

theorem State.pleatRegs_reg_other {o : Nat} (hst : o ≠ Reg.timStatus) (hps : o ≠ Reg.timPleatStart) :
    (s.pleatRegs p).reg o = s.reg o := by
  rw [State.pleatRegs, State.reg_setReg_other _ _ hps, State.setRegB, State.setRegF, State.reg_setReg_other _ _ hst,
    State.setRegF, State.reg_setReg_other _ _ hst]

theorem State.pleatRegs_start : (s.pleatRegs p).reg Reg.timPleatStart = BitVec.ofNat 64 s.ft := State.reg_setReg_same _ _ _

theorem State.pleatRegs_pleat (hp : p < 64) : (s.pleatRegs p).regF Reg.timStatus 4 6 = p := by
  rw [State.pleatRegs, State.regF_setReg_other _ _ _ _ (by decide), State.setRegB,
    State.regF_setRegF_field _ _ _ _ _ _ _ (by decide), State.regF_setRegF_same _ _ _ _ _ (by decide)]
  exact Nat.mod_eq_of_lt hp

theorem State.pleatRegs_inPleat : (s.pleatRegs p).regB Reg.timStatus 2 = true := by
  rw [State.pleatRegs, State.regB_setReg_other _ _ _ (by decide), State.regB_setRegB_same _ _ _ _ (by decide)]

/-- The fields of TIM_STATUS above the pleat's stay. -/
theorem State.pleatRegs_field {lo len : Nat} (h : 10 ≤ lo) :
    (s.pleatRegs p).regF Reg.timStatus lo len = s.regF Reg.timStatus lo len := by
  rw [State.pleatRegs, State.regF_setReg_other _ _ _ _ (by decide), State.setRegB,
    State.regF_setRegF_field _ _ _ _ _ _ _ (by omega), State.regF_setRegF_field _ _ _ _ _ _ _ (by omega)]

/-! ### The launch queue of a pleat whose entries are well formed -/

theorem State.pleatEntered_entriesOf : (s.pleatEntered p).entriesOf p = s.entriesOf p := by
  have hb1 : (s.setRegF Reg.timStatus 4 6 p).bank = s.bank := State.regF_setRegF_field _ _ _ _ _ _ _ (by decide)
  have hb2 : ((s.setRegF Reg.timStatus 4 6 p).setRegB Reg.timStatus 2 true).bank = (s.setRegF Reg.timStatus 4 6 p).bank :=
    State.regF_setRegF_field _ _ _ _ _ _ _ (by decide)
  have hb3 : (s.pleatRegs p).bank = ((s.setRegF Reg.timStatus 4 6 p).setRegB Reg.timStatus 2 true).bank :=
    State.regF_setReg_other _ _ _ _ (by decide)
  have hregs : (s.pleatEntered p).entriesOf p = (s.pleatRegs p).entriesOf p := rfl
  rw [hregs, State.pleatRegs, State.entriesOf_setReg _ _ _ (by decide) hb3, State.setRegB, State.setRegF,
    State.entriesOf_setReg _ _ _ (by decide) hb2, State.setRegF, State.entriesOf_setReg _ _ _ (by decide) hb1]

/-- The rules of R46 read the registers of the pleats alone. -/
theorem State.pleatEntered_malformed (e : Entry) : (s.pleatEntered p).malformed e = s.malformed e := by
  have hreg {o : Nat} (hst : o ≠ Reg.timStatus) (hps : o ≠ Reg.timPleatStart) : (s.pleatEntered p).reg o = s.reg o :=
    s.pleatRegs_reg_other p hst hps
  have hlast : (s.pleatEntered p).lastPleat = s.lastPleat := State.regF_congr (hreg (by decide) (by decide)) 0 6
  have hopen (d : Nat) : (s.pleatEntered p).pleatOpen d = s.pleatOpen d :=
    State.regB_congr (hreg (by unfold Reg.timPleat Reg.timStatus; omega) (by unfold Reg.timPleat Reg.timPleatStart; omega)) 0
  simp only [State.malformed, State.launchBad, State.deadlineOk, hlast, hopen]

theorem State.beginPleat_launchQ (hpocket : s.time.pocketFire = false)
    (h : ∀ e ∈ s.entriesOf p, e.unjudged = false ∧ s.malformed e = false) :
    (s.beginPleat p).time.launchQ = telemetryFirst (s.firedOf (s.entriesOf p)) := by
  have hstitch : (s.pleatEntered p).stitch = s.stitch := s.pleatRegs_reg_other p (by decide) (by decide)
  have hfired : (s.pleatEntered p).firedOf (s.entriesOf p) = s.firedOf (s.entriesOf p) := by
    rw [State.firedOf, hstitch, State.firedOf]
  have hexam : (s.pleatExamined p).time.launchQ = s.firedOf (s.entriesOf p) := by
    rw [State.pleatExamined, s.pleatEntered_entriesOf, State.examines_wellFormed _ _ fun e he =>
      ⟨(h e he).1, (s.pleatEntered_malformed p e).trans (h e he).2⟩, hfired]
    have hno : ((s.pleatEntered p).setLaunchQ ((s.pleatEntered p).time.launchQ ++ s.firedOf (s.entriesOf p))).time.pocketFire =
      false := hpocket
    rw [State.timerFire, hno]
    rfl
  rw [s.beginPleat_eq, State.setTime_time, hexam]

end

end Sys2Proof.Machine
end

section
/-! PROOFS. The scale unit at stitch completion (R167) leaves the time base: none of its stores reaches it. -/
namespace Sys2Proof.Machine
open Sys2Proof.Claims

/-! ## Sending to other nodes leaves the time base -/

theorem State.transmit_time (s : State) (p : Nat) (f : Flit) : (s.transmit p f).time = s.time := rfl

theorem pumpPort_time (p n : Nat) (s : State) : (pumpPort p n s).time = s.time := by
  induction n generalizing s with
  | zero => rfl
  | succ n ih =>
    unfold pumpPort
    split
    · exact (ih _).trans (State.transmit_time _ _ _)
    · rfl

theorem State.toPort_time (s : State) (p : Nat) (f : Flit) : (s.toPort p f).time = s.time := by
  unfold State.toPort
  split
  · exact s.transmit_time p f
  · exact pumpPort_time _ _ _

theorem State.emit_time (s : State) (f : Flit) : (s.emit f).time = s.time := by
  unfold State.emit
  dsimp only
  split_ifs
  · rfl
  · rfl
  · rfl
  · split
    · exact State.toPort_time _ _ _
    · rfl

theorem State.request_time (s : State) (r : Req) (dst typ vc : Nat) (replica : Bool) (addr : Nat) (words : List FWord)
    (trailer : Nat) : (s.request r dst typ vc replica addr words trailer).time = s.time := by
  unfold State.request
  dsimp only
  split
  · exact State.emit_time _ _
  · rfl

theorem EventFrame.time {s t : State} (h : EventFrame s t) : t.time = s.time := by rw [h]

theorem StoreFrame.time {s t : State} (h : StoreFrame s t) : t.time = s.time := by rw [h]

/-- A fold of steps that each leave the time base leaves it. -/
theorem foldl_time {α : Type} {f : State → α → State} (h : ∀ s a, (f s a).time = s.time) (l : List α) (s : State) :
    (l.foldl f s).time = s.time := by
  induction l generalizing s with
  | nil => rfl
  | cons a l ih => exact (ih _).trans (h s a)

theorem State.remoteStore_time (s : State) (r : Req) (ga : Nat) (bs : List Byte) (poison : Bool) :
    (s.remoteStore r ga bs poison).time = s.time := by
  unfold State.remoteStore
  split
  · exact (s.addressEvent_frame r ga).time
  · exact foldl_time (fun _ _ => State.request_time _ _ _ _ _ _ _ _ _) _ _

theorem State.gstoreNow_time (s : State) (r : Req) (ga : Nat) (bs : List Byte) (poison : Bool) :
    (s.gstoreNow r ga bs poison).time = s.time := by
  unfold State.gstoreNow
  split_ifs
  · exact (s.storePoison_frame _ _ _).time
  · exact (s.store_frame _ _ _).time
  · exact s.remoteStore_time _ _ _ _

/-- A store by global address leaves the time base. -/
theorem State.gstore_time (s : State) (r : Req) (ga : Nat) (bs : List Byte) (poison : Bool) :
    (s.gstore r ga bs poison).time = s.time := by
  unfold State.gstore
  split_ifs
  · rfl
  · exact (State.event_frame _ _ _ _ _ _).time
  · rfl
  · exact s.gstoreNow_time _ _ _ _

/-! ## The scale unit -/

theorem State.fillWords_time (s : State) (ga n : Nat) (k : Int) : (s.fillWords ga n k).time = s.time :=
  foldl_time (fun _ _ => State.gstore_time _ _ _ _ _) _ _

theorem State.scaleUpdate_time (s : State) (n : Nat) : (s.scaleUpdate n).time = s.time := by
  unfold State.scaleUpdate
  split
  · dsimp only
    split
    · rfl
    · exact (State.fillWords_time _ _ _ _).trans (State.fillWords_time _ _ _ _)
  · rfl

theorem State.scaleUnit_time (s : State) : s.scaleUnit.time = s.time := by
  have hupdated := foldl_time State.scaleUpdate_time s.armedSets s
  exact (foldl_time (f := fun s n => s.setReg (Reg.monAmax n) 0) (fun _ _ => rfl) _ _).trans hupdated

/-- With no set armed the scale unit has nothing to do. -/
theorem State.scaleUnit_idle {s : State} (h : s.armedSets = []) : s.scaleUnit = { s with monNow := [] } := by
  simp only [State.scaleUnit, h, List.foldl_nil]

/-! ## The overrun of a timed pleat (R40) -/

/-- The state with the overrun marked. -/
def State.overrunMarked (s : State) : State := s.setTime { s.time with overrun := true }

theorem State.overrun_eq (s : State) : s.overrun = (s.overrunMarked.count32 Reg.timCntPleatOverrun 1).timEv 0 := rfl

theorem State.overrun_time (s : State) : s.overrun.time = { s.time with overrun := true } := by
  rw [s.overrun_eq, State.timEv_time]
  rfl

theorem State.overrun_reg_other (s : State) {o : Nat} (h : Reg.msixPba 32 ≤ o) (hev : o ≠ Reg.timEvent)
    (hcnt : o ≠ Reg.timCntPleatOverrun) : s.overrun.reg o = s.reg o := by
  rw [s.overrun_eq, State.timEv_reg_other _ _ h hev, State.count32, State.reg_setReg_other _ _ hcnt]
  rfl

theorem State.overrun_count (s : State) : (s.overrun.reg Reg.timCntPleatOverrun).toNat =
    min ((s.reg Reg.timCntPleatOverrun).toNat + 1) (2 ^ 32 - 1) := by
  rw [s.overrun_eq, State.timEv_reg_other _ _ (by decide) (by decide), State.toNat_reg_count32]
  rfl

theorem State.overrun_eventOnly (s : State) :
    EventOnly s.overrunMarked s.overrun [Reg.timEvent, Reg.timCntPleatOverrun] :=
  eventOnly_swap (State.count32_timEv_eventOnly _ 1 0 (by decide))

end Sys2Proof.Machine
end

section
/-! PROOFS. Pleats and the completion of a stitch (R36, R39 to R43). -/
namespace Sys2Proof.Proofs
open Sys2Proof.Machine Sys2Proof.Claims

theorem pleatBegin_begins (p : Nat) (s : State) (hp : p < 64) (hdue : s.time.due = some p)
    (hstop : s.regB Reg.timStatus 13 = false) :
    ∃ t, exec .pleatBegin s = .next t ∧ t.regF Reg.timStatus 4 6 = p ∧ t.regB Reg.timStatus 2 = true ∧
      (t.reg Reg.timPleatStart) = BitVec.ofNat 64 s.ft ∧ t.sync = [] ∧ t.time.inPleat = true ∧ t.time.due = none ∧
      t.time.isOpen = s.regB (Reg.timPleat p) 0 ∧ t.time.length = s.regF (Reg.timPleat p) 32 32 ∧
      t.time.planned = s.ft + 64 * max 1000 (s.regF (Reg.timPleat p) 32 32) ∧
      (s.time.pocketFire = false → (∀ e ∈ s.entriesOf p, e.unjudged = false ∧ s.malformed e = false) →
        let fired := ((s.entriesOf p).filter fun e => e.fires s.stitch).map Entry.launch
        t.time.launchQ = (fired.filter fun l => l.typ == 6) ++ fired.filter fun l => l.typ != 6) := by
  refine ⟨s.beginPleat p, ?_, ?_⟩
  · change execPleatBegin s = _
    rw [execPleatBegin, hdue, State.stopped, hstop]
    rfl
  · have hreg {o : Nat} (ho : Reg.msixPba 32 ≤ o) (hev : o ≠ Reg.timEvent) := s.beginPleat_reg p ho hev
    have htime := s.beginPleat_time p
    refine ⟨?_, ?_, (hreg (by decide) (by decide)).trans (s.pleatRegs_start p), s.beginPleat_sync p, ?_, ?_, ?_, ?_, ?_,
      s.beginPleat_launchQ p⟩
    · rw [State.regF_congr (hreg (by decide) (by decide)), s.pleatRegs_pleat p hp]
    · rw [State.regB_congr (hreg (by decide) (by decide)), s.pleatRegs_inPleat p]
    all_goals
      rw [htime]
      rfl

theorem pleatEndTime_overruns (s : State) (hin : s.time.inPleat = true) (hopen : s.time.isOpen = false)
    (hend : s.time.planned ≤ s.ft) (hover : s.time.overrun = false) (hdone : s.pleatDone = false) :
    ∃ t, exec .pleatEndTime s = .next t ∧ t.time = { s.time with overrun := true } ∧ t.regB Reg.timEvent 0 = true ∧
      (t.reg Reg.timCntPleatOverrun).toNat = min ((s.reg Reg.timCntPleatOverrun).toNat + 1) (2 ^ 32 - 1) ∧
      EventOnly { s with time := t.time } t [Reg.timEvent, Reg.timCntPleatOverrun] := by
  refine ⟨s.overrun, ?_, s.overrun_time, ?_, s.overrun_count, ?_⟩
  · have hreached : s.endReached = true := by rw [State.endReached, hopen, decide_eq_true hend]; rfl
    change execPleatEndTime s = _
    rw [execPleatEndTime, hin, hreached, hover, hdone]
    rfl
  · rw [s.overrun_eq]
    exact State.timEv_regB _ (by decide)
  · rw [s.overrun_time]
    exact s.overrun_eventOnly

/-- The pleat ends, and the next one is due or the stitch completes (R39). -/
def pleatEnded (s : State) (last : Bool) (p : Nat) : State :=
  s.setTime { s.time with inPleat := false, lastEnded := last, due := if last then none else some (p + 1) }

/-- A timed pleat whose last action completed after the planned end without an overrun yet. -/
def endsLate (s : State) : Bool := !s.time.isOpen && !s.time.overrun && decide (s.time.planned < s.time.lastDone)

theorem endsLate_of_inTime {s : State} (h : s.time.isOpen = true ∨ s.time.lastDone ≤ s.time.planned) :
    endsLate s = false := by
  rcases h with hopen | hdone
  · rw [endsLate, hopen]
    rfl
  · rw [endsLate, decide_eq_false (by omega), Bool.and_false]

theorem exec_pleatEnd {s : State} (hin : s.time.inPleat = true) (hclear : s.pleatClear = true)
    (hstop : s.regB Reg.timStatus 13 = false) (hend : s.time.isOpen = true ∨ s.time.planned ≤ s.ft) :
    exec .pleatEnd s = .next (pleatEnded (if endsLate s then s.overrun else s)
      (decide (s.regF Reg.timNpleat 0 6 ≤ s.regF Reg.timStatus 4 6)) (s.regF Reg.timStatus 4 6)) := by
  have hends : (s.time.isOpen || s.endReached) = true := by
    rw [State.endReached]
    cases hopen : s.time.isOpen with
    | true => rfl
    | false => simpa [hopen] using hend
  have hmay : (s.time.inPleat && s.pleatClear && !s.stopped && (s.time.isOpen || s.endReached)) = true := by
    rw [hin, hclear, State.stopped, hstop, hends]
    rfl
  have hlast : (if endsLate s then s.overrun else s).lastPleat = s.regF Reg.timNpleat 0 6 := by
    split
    · exact State.regF_congr (s.overrun_reg_other (by decide) (by decide) (by decide)) 0 6
    · rfl
  change execPleatEnd s = _
  rw [execPleatEnd, if_pos hmay, ← hlast]
  rfl

theorem pleatEnd_ends (s : State) (hin : s.time.inPleat = true) (hclear : s.pleatClear = true)
    (hstop : s.regB Reg.timStatus 13 = false) (hend : s.time.isOpen = true ∨ s.time.planned ≤ s.ft) :
    ∃ t, exec .pleatEnd s = .next t ∧ t.time.inPleat = false ∧
      (if s.regF Reg.timNpleat 0 6 ≤ s.regF Reg.timStatus 4 6 then t.time.lastEnded = true ∧ t.time.due = none
       else t.time.lastEnded = false ∧ t.time.due = some (s.regF Reg.timStatus 4 6 + 1)) ∧
      (s.time.isOpen = true ∨ s.time.lastDone ≤ s.time.planned → t = { s with time := t.time }) := by
  refine ⟨_, exec_pleatEnd hin hclear hstop hend, rfl, ?_, fun hnot => ?_⟩
  · split
    case isTrue hlast =>
      rw [decide_eq_true hlast]
      exact ⟨rfl, rfl⟩
    case isFalse hlast =>
      rw [decide_eq_false hlast]
      exact ⟨rfl, rfl⟩
  · rw [endsLate_of_inTime hnot]
    rfl

theorem openPleatWatchdog_signals (s : State) (hin : s.time.inPleat = true) (hopen : s.time.isOpen = true)
    (hlen : s.time.length ≠ 0) (hwatch : s.time.watched = false) (hdone : s.pleatDone = false)
    (hft : (s.reg Reg.timPleatStart).toNat + 64000 * s.time.length ≤ s.ft) :
    ∃ t, exec .openPleatWatchdog s = .next t ∧ t.regB Reg.timEvent 1 = true ∧
      t.time = { s.time with watched := true } ∧ EventOnly { s with time := t.time } t [Reg.timEvent] := by
  refine ⟨(s.setTime { s.time with watched := true }).timEv 1, ?_, State.timEv_regB _ (by decide), State.timEv_time _ _, ?_⟩
  · change execOpenPleatWatchdog s = _
    rw [execOpenPleatWatchdog, hin, hopen, hwatch, hdone, decide_eq_true hft, bne_iff_ne.mpr hlen]
    rfl
  · rw [State.timEv_time]
    exact State.timEv_eventOnly _ _

/-- The stitch is complete: the scale unit has run, and the package is at the cinch. -/
def atCinchOf (s : State) : State :=
  (s.scaleUnit.setRegB Reg.timStatus 2 false).setTime
    { s.time with lastEnded := false, atCinch := true, startCinch := false, sent := false, dueAt := s.ft }

theorem exec_stitchComplete {s : State} (h : s.time.lastEnded = true) :
    exec .stitchComplete s = .next (if (atCinchOf s).regB Reg.timCtrl 3 then (atCinchOf s).tryArrive else atCinchOf s) := by
  have hft : s.scaleUnit.ft = s.ft := by rw [State.ft, s.scaleUnit_time, State.ft]
  change execStitchComplete s = _
  rw [execStitchComplete, if_pos h, atCinchOf, ← hft, ← s.scaleUnit_time]
  rfl

theorem stitchComplete_goesToCinch (s : State) (h : s.time.lastEnded = true) :
    ∃ t, exec .stitchComplete s = .next t ∧ t.time.lastEnded = false ∧
      t.time.atCinch = true ∧ t.time.startCinch = false ∧ t.time.sent = false ∧ t.regB Reg.timStatus 2 = false ∧
      t.time.dueAt = s.ft ∧ (s.armedSets = [] → t.out = s.out ∧ t.mem = s.mem) := by
  refine ⟨_, exec_stitchComplete h, ?_⟩
  have hpleat : (atCinchOf s).regB Reg.timStatus 2 = false := by
    rw [atCinchOf, State.setTime_regB, State.regB_setRegB_same _ _ _ _ (by decide)]
  have hidle : s.armedSets = [] → (atCinchOf s).out = s.out ∧ (atCinchOf s).mem = s.mem := fun hnone => by
    rw [atCinchOf, State.scaleUnit_idle hnone]
    exact ⟨rfl, rfl⟩
  have htime : (atCinchOf s).time =
    { s.time with lastEnded := false, atCinch := true, startCinch := false, sent := false, dueAt := s.ft } := rfl
  generalize atCinchOf s = w at *
  have hheld : (w.setRegB Reg.timStatus 3 true).regB Reg.timStatus 2 = false :=
    (State.regB_setRegB_bit _ _ _ _ _ (by decide)).trans hpleat
  split
  case isTrue hhold =>
    by_cases haw : w.awaitsCinch = true
    · rw [State.tryArrive_withheld haw hhold]
      simp only [State.setRegB_time, State.setRegB_out, State.setRegB_mem, htime, hheld, true_and]
      exact hidle
    · rw [Bool.not_eq_true] at haw
      rw [State.tryArrive_of_idle haw]
      simp only [htime, hpleat, true_and]
      exact hidle
  case isFalse =>
    simp only [htime, hpleat, true_and]
    exact hidle

/-- Settles O33: a pleat by the state in which it begins and the entries examined in it, its ends and the watchdog by their
events, the completed stitch by what the scale unit leaves. -/
theorem pleats : Obligations.Pleats :=
  ⟨pleatBegin_begins, pleatEndTime_overruns, pleatEnd_ends, openPleatWatchdog_signals, stitchComplete_goesToCinch⟩

end Sys2Proof.Proofs
end

section
/-! PROOFS. The start of a stitch (R48, R52, R56): the registers and the time base it leaves, and the armed bank switch. -/
namespace Sys2Proof.Machine
open Sys2Proof.Claims

/-! ## The armed bank switch (R48) -/

/-- The bank switch is armed and its stitch has come. -/
def State.bankDue (s : State) : Bool :=
  s.regB Reg.timBankCtrl 0 && decide ((s.reg Reg.timBankSwitch).toNat ≤ s.stitch.toNat)

/-- The bank is switched and the switch disarmed. -/
def State.bankSwitched (s : State) : State :=
  (s.setRegF Reg.timStatus 12 1 (s.regF Reg.timBankCtrl 1 1)).setRegB Reg.timBankCtrl 0 false

theorem State.bankSwitch_of_due {s : State} (h : s.bankDue = true) :
    s.bankSwitch = if s.stitch = s.reg Reg.timBankSwitch then s.bankSwitched else s.bankSwitched.timEv 3 := by
  rw [State.bankDue] at h
  rw [State.bankSwitch, h]
  rfl

theorem State.bankSwitch_of_not_due {s : State} (h : s.bankDue = false) : s.bankSwitch = s := by
  rw [State.bankDue] at h
  rw [State.bankSwitch, h]
  rfl

theorem State.bankSwitched_reg_other (s : State) {o : Nat} (hst : o ≠ Reg.timStatus) (hctrl : o ≠ Reg.timBankCtrl) :
    s.bankSwitched.reg o = s.reg o := by
  rw [State.bankSwitched, State.setRegB, State.setRegF, State.reg_setReg_other _ _ hctrl, State.setRegF,
    State.reg_setReg_other _ _ hst]

/-- A switch that is due leaves what the switch itself leaves, but for its event. -/
theorem State.bankSwitch_reg_of_due {s : State} (h : s.bankDue = true) {o : Nat} (ho : Reg.msixPba 32 ≤ o)
    (hev : o ≠ Reg.timEvent) : s.bankSwitch.reg o = s.bankSwitched.reg o := by
  rw [State.bankSwitch_of_due h]
  split
  · rfl
  · exact State.timEv_reg_other _ _ ho hev

theorem State.bankSwitch_time (s : State) : s.bankSwitch.time = s.time := by
  by_cases h : s.bankDue = true
  · rw [State.bankSwitch_of_due h]
    split
    · rfl
    · exact State.timEv_time _ _
  · rw [Bool.not_eq_true] at h
    rw [State.bankSwitch_of_not_due h]

theorem State.bankSwitch_reg_other (s : State) {o : Nat} (ho : Reg.msixPba 32 ≤ o) (hev : o ≠ Reg.timEvent)
    (hst : o ≠ Reg.timStatus) (hctrl : o ≠ Reg.timBankCtrl) : s.bankSwitch.reg o = s.reg o := by
  by_cases h : s.bankDue = true
  · rw [State.bankSwitch_reg_of_due h ho hev, s.bankSwitched_reg_other hst hctrl]
  · rw [Bool.not_eq_true] at h
    rw [State.bankSwitch_of_not_due h]

/-- The bits of TIM_STATUS below the bank stay. -/
theorem State.bankSwitch_statusBit (s : State) {i : Nat} (h : i < 12) :
    s.bankSwitch.regB Reg.timStatus i = s.regB Reg.timStatus i := by
  by_cases hdue : s.bankDue = true
  · rw [State.regB_congr (State.bankSwitch_reg_of_due hdue (by decide) (by decide)), State.bankSwitched, State.setRegB,
      State.regB, State.regF_setRegF_other _ _ _ _ _ _ (by decide), State.regF_setRegF_field _ _ _ _ _ _ _ (by omega)]
    rfl
  · rw [Bool.not_eq_true] at hdue
    rw [State.bankSwitch_of_not_due hdue]

/-- The bank and the switch after the start of a stitch (R48). -/
theorem State.bankSwitch_bank (s : State) :
    if s.bankDue then s.bankSwitch.regF Reg.timStatus 12 1 = s.regF Reg.timBankCtrl 1 1 ∧
      s.bankSwitch.regB Reg.timBankCtrl 0 = false
    else s.bankSwitch.regF Reg.timStatus 12 1 = s.regF Reg.timStatus 12 1 ∧
      s.bankSwitch.reg Reg.timBankCtrl = s.reg Reg.timBankCtrl := by
  split
  case isTrue h =>
    rw [State.regF_congr (State.bankSwitch_reg_of_due h (by decide) (by decide)),
      State.regB_congr (State.bankSwitch_reg_of_due h (by decide) (by decide))]
    refine ⟨?_, State.regB_setRegB_same _ _ _ _ (by decide)⟩
    rw [State.bankSwitched, State.setRegB, State.regF_setRegF_other _ _ _ _ _ _ (by decide),
      State.regF_setRegF_same _ _ _ _ _ (by decide)]
    exact Nat.mod_mod _ _
  case isFalse h =>
    rw [Bool.not_eq_true] at h
    rw [State.bankSwitch_of_not_due h]
    exact ⟨rfl, rfl⟩

/-! ## The start of a stitch (R52, R56) -/

section
variable (s : State) (st : W64) (t : Nat)

/-- The registers at the start of stitch `st`, released for fabric time `t`. -/
def State.stitchRegs : State :=
  (((s.setReg Reg.timStitch st).setReg Reg.timStitchStart (BitVec.ofNat 64 t)).setReg Reg.timCinchRelease
    (BitVec.ofNat 64 t)).setRegB Reg.timStatus 10 false

/-- When the pulse on STITCH_OUT ends (R56). -/
def State.stitchOutEnd : Nat :=
  if (s.stitchRegs st t).regB Reg.timCtrl 4 then t + 64 * max 20 ((s.stitchRegs st t).reg Reg.timStitchOutW).toNat
  else s.time.outEnd

/-- The time base at the start of a stitch: the cinch is left. -/
def State.stitchTime : TimeSt :=
  { s.time with atCinch := false, startCinch := false, sent := false, faulted := false, arrived := [], profiles := [],
                release := none, pocketReq := false, pocketFire := s.time.pocketReq,
                stitchOut := s.time.stitchOut || (s.stitchRegs st t).regB Reg.timCtrl 4, outEnd := s.stitchOutEnd st t }

/-- The stitch begins, before the bank switch and its first pleat. -/
def State.stitchEntered : State := (s.stitchRegs st t).setTime (s.stitchTime st t)

theorem State.beginStitch_eq :
    s.beginStitch st t = { (s.stitchEntered st t).bankSwitch.beginPleat 0 with monNow := [] } := rfl

theorem State.stitchRegs_reg_other {o : Nat} (h : o ∉ [Reg.timStitch, Reg.timStitchStart, Reg.timCinchRelease, Reg.timStatus]) :
    (s.stitchRegs st t).reg o = s.reg o := by
  simp only [List.mem_cons, List.not_mem_nil, or_false, not_or] at h
  obtain ⟨hstitch, hstart, hrel, hstatus⟩ := h
  rw [State.stitchRegs, State.setRegB, State.setRegF, State.reg_setReg_other _ _ hstatus, State.reg_setReg_other _ _ hrel,
    State.reg_setReg_other _ _ hstart, State.reg_setReg_other _ _ hstitch]

theorem State.stitchRegs_stitch : (s.stitchRegs st t).reg Reg.timStitch = st := by
  rw [State.stitchRegs, State.setRegB, State.setRegF, State.reg_setReg_other _ _ (by decide),
    State.reg_setReg_other _ _ (by decide), State.reg_setReg_other _ _ (by decide), State.reg_setReg_same]

theorem State.stitchRegs_start : (s.stitchRegs st t).reg Reg.timStitchStart = BitVec.ofNat 64 t := by
  rw [State.stitchRegs, State.setRegB, State.setRegF, State.reg_setReg_other _ _ (by decide),
    State.reg_setReg_other _ _ (by decide), State.reg_setReg_same]

theorem State.stitchRegs_release : (s.stitchRegs st t).reg Reg.timCinchRelease = BitVec.ofNat 64 t := by
  rw [State.stitchRegs, State.setRegB, State.setRegF, State.reg_setReg_other _ _ (by decide), State.reg_setReg_same]

theorem State.stitchRegs_wait : (s.stitchRegs st t).regB Reg.timStatus 10 = false :=
  State.regB_setRegB_same _ _ _ _ (by decide)

theorem State.stitchRegs_bank : (s.stitchRegs st t).regF Reg.timStatus 12 1 = s.regF Reg.timStatus 12 1 := by
  rw [State.stitchRegs, State.setRegB, State.regF_setRegF_field _ _ _ _ _ _ _ (by decide),
    State.regF_setReg_other _ _ _ _ (by decide), State.regF_setReg_other _ _ _ _ (by decide),
    State.regF_setReg_other _ _ _ _ (by decide)]

/-- The registers after the start of a stitch, but TIM_EVENT. -/
theorem State.beginStitch_reg {o : Nat} (h : Reg.msixPba 32 ≤ o) (hev : o ≠ Reg.timEvent) :
    (s.beginStitch st t).reg o = ((s.stitchEntered st t).bankSwitch.pleatRegs 0).reg o := by
  rw [s.beginStitch_eq]
  exact State.beginPleat_reg _ _ h hev

/-- Registers that neither the bank switch nor the pleat touches. -/
theorem State.beginStitch_reg_other {o : Nat} (h : Reg.msixPba 32 ≤ o)
    (hno : o ∉ [Reg.timEvent, Reg.timStatus, Reg.timPleatStart, Reg.timBankCtrl]) :
    (s.beginStitch st t).reg o = (s.stitchRegs st t).reg o := by
  simp only [List.mem_cons, List.not_mem_nil, or_false, not_or] at hno
  obtain ⟨hev, hst, hps, hctrl⟩ := hno
  rw [s.beginStitch_reg st t h hev, State.pleatRegs_reg_other _ _ hst hps, State.bankSwitch_reg_other _ h hev hst hctrl]
  rfl

theorem State.beginStitch_time : (s.beginStitch st t).time =
    { (s.stitchEntered st t).bankSwitch.pleatTime 0 with
      launchQ := (s.beginStitch st t).time.launchQ, dueRings := (s.beginStitch st t).time.dueRings,
      samples := (s.beginStitch st t).time.samples } :=
  State.beginPleat_time _ _

/-- A switch is due at the start of the stitch where it is armed for it or for an earlier one. -/
theorem State.stitchEntered_bankDue : (s.stitchEntered st t).bankDue =
    (s.regB Reg.timBankCtrl 0 && decide ((s.reg Reg.timBankSwitch).toNat ≤ st.toNat)) := by
  have hreg {o : Nat} (h : o ∉ [Reg.timStitch, Reg.timStitchStart, Reg.timCinchRelease, Reg.timStatus]) :
      (s.stitchEntered st t).reg o = s.reg o := s.stitchRegs_reg_other st t h
  have hstitch : (s.stitchEntered st t).stitch = st := s.stitchRegs_stitch st t
  rw [State.bankDue, State.regB_congr (hreg (by decide)), hreg (by decide), hstitch]

/-- The bank in force and the switch after the start of the stitch (R48). -/
theorem State.beginStitch_bank :
    if s.regB Reg.timBankCtrl 0 = true ∧ (s.reg Reg.timBankSwitch).toNat ≤ st.toNat
    then (s.beginStitch st t).regF Reg.timStatus 12 1 = s.regF Reg.timBankCtrl 1 1 ∧
      (s.beginStitch st t).regB Reg.timBankCtrl 0 = false
    else (s.beginStitch st t).regF Reg.timStatus 12 1 = s.regF Reg.timStatus 12 1 ∧
      (s.beginStitch st t).reg Reg.timBankCtrl = s.reg Reg.timBankCtrl := by
  have hbank := (s.stitchEntered st t).bankSwitch_bank
  have hstatus : (s.beginStitch st t).regF Reg.timStatus 12 1 = (s.stitchEntered st t).bankSwitch.regF Reg.timStatus 12 1 :=
    (State.regF_congr (s.beginStitch_reg st t (by decide) (by decide)) 12 1).trans (State.pleatRegs_field _ _ (by decide))
  have hctrl : (s.beginStitch st t).reg Reg.timBankCtrl = (s.stitchEntered st t).bankSwitch.reg Reg.timBankCtrl :=
    (s.beginStitch_reg st t (by decide) (by decide)).trans (State.pleatRegs_reg_other _ _ (by decide) (by decide))
  have hold : (s.stitchEntered st t).reg Reg.timBankCtrl = s.reg Reg.timBankCtrl := s.stitchRegs_reg_other st t (by decide)
  have hold' : (s.stitchEntered st t).regF Reg.timStatus 12 1 = s.regF Reg.timStatus 12 1 := s.stitchRegs_bank st t
  rw [s.stitchEntered_bankDue, State.regF_congr hold, hold, hold', ← hstatus, ← State.regB_congr hctrl, ← hctrl] at hbank
  simpa only [Bool.and_eq_true, decide_eq_true_eq] using hbank

end

end Sys2Proof.Machine
end

section
/-! PROOFS. The cinch (R48, R51, R52, R54 to R56). -/
namespace Sys2Proof.Proofs
open Sys2Proof.Machine Sys2Proof.Claims

theorem arriveSend_arrives (s : State) (hrun : s.regB Reg.timCtrl 0 = true) (hhold : s.regB Reg.timCtrl 3 = false)
    (hsent : s.time.sent = false) (hat : s.time.atCinch = true) (hstop : s.regB Reg.timStatus 13 = false)
    (hroot : s.regB Reg.timCinchCfg 0 = false) (hmay : MayArrive s) :
    ∃ t, exec .arriveSend s = .next t ∧ t.regB Reg.timStatus 10 = true ∧ t.time.sent = true ∧
      t.out = s.out ++ [ownArrival s s.time.startCinch] ∧ OnlyRegs s t [Reg.timStatus] ∧
      t = { s with regs := t.regs, time := t.time, out := t.out } := by
  have haw : s.awaitsCinch = true := by
    rw [State.awaitsCinch, State.running, hrun, hat, hsent, State.stopped, hstop]
    rfl
  obtain ⟨-, h10, hsent', hout⟩ := State.tryArrive_member haw hhold hroot hmay
  obtain ⟨hreg, he⟩ := s.tryArrive_cinchMove
  refine ⟨_, rfl, h10, hsent', hout, fun o ho => hreg o (by simpa using ho), ?_⟩
  rw [he]

/-- An arrival that is recorded (R51, R52). -/
def arrivalRecorded (s : State) (m : ArriveMsg) : State :=
  s.setTime { s.time with
    arrived := s.time.arrived ++ [(m.src.toNat, m.lat.toNat + (BitVec.ofNat 64 s.ft - m.sent).toNat)], lastArrival := s.ft,
    profiles := s.time.profiles ++ (if m.start then [(m.stitch, m.det.toNat)] else []) }

theorem exec_cinchArrive {m : ArriveMsg} {s : State} (hnode : s.node ≠ 0xFFFF)
    (hkey : m.pkey.toNat = s.regF Reg.timCinchPkey 0 16) (hstitch : m.stitch = s.stitch)
    (hnew : ∀ c ∈ s.time.arrived, c.1 ≠ m.src.toNat) (hdet : m.start = true → m.det.toNat = s.regF Reg.detCfg 0 3) :
    exec (.cinchArrive m) s =
      .next (if s.isRoot then (arrivalRecorded s m).tryArrive else arrivalRecorded s m) := by
  have hany : (s.time.arrived.any fun c => c.1 == m.src.toNat) = false := by
    rw [List.any_eq_false]
    exact fun c hc => by simpa using hnew c hc
  change execCinchArrive m s = _
  rw [execCinchArrive, if_neg hnode, if_neg (not_not.mpr hkey), if_neg (not_not.mpr hstitch), hany, if_neg Bool.false_ne_true,
    if_neg fun h => h.2 (hdet h.1)]
  rfl

theorem cinchArrive_records (m : ArriveMsg) (s : State) (hnode : s.node ≠ 0xFFFF)
    (hkey : m.pkey.toNat = s.regF Reg.timCinchPkey 0 16) (hstitch : m.stitch = s.stitch)
    (hnew : ∀ c ∈ s.time.arrived, c.1 ≠ m.src.toNat) (hdet : m.start = true → m.det.toNat = s.regF Reg.detCfg 0 3) :
    ∃ t, exec (.cinchArrive m) s = .next t ∧
      t.time.arrived = s.time.arrived ++ [(m.src.toNat, m.lat.toNat + (BitVec.ofNat 64 s.ft - m.sent).toNat)] ∧
      t.time.lastArrival = s.ft ∧ (s.regB Reg.timCinchCfg 0 = false → t = { s with time := t.time }) := by
  refine ⟨_, exec_cinchArrive hnode hkey hstitch hnew hdet, ?_⟩
  obtain ⟨-, he⟩ := (arrivalRecorded s m).tryArrive_cinchMove
  split
  case isTrue hroot =>
    refine ⟨?_, ?_, fun hno => absurd (hroot.symm.trans hno) (by decide)⟩ <;>
      rw [he] <;> rfl
  case isFalse => exact ⟨rfl, rfl, fun _ => rfl⟩

theorem cinchRelease_schedules (m : ReleaseMsg) (s : State) (hnode : s.node ≠ 0xFFFF)
    (hlast : s.time.lastRelease ≠ some (m.stitch, m.t.toNat)) (hroot : s.regB Reg.timCinchCfg 0 = false)
    (hsent : s.time.sent = true) (hfault : s.time.faulted = false) (hrel : s.time.release = none)
    (hstop : s.regB Reg.timStatus 13 = false) (hstitch : m.stitch = (if s.time.startCinch then s.stitch else s.stitch + 1))
    (hft : s.ft ≤ m.t.toNat) :
    ∃ t, exec (.cinchRelease m) s = .next t ∧ t.out = s.out ++ s.time.arrived.map (fun c => .release c.1 m) ∧
      t.time = { s.time with release := some (m.stitch, m.t.toNat), lastRelease := some (m.stitch, m.t.toNat),
                             pocketReq := m.pocket } ∧ t = { s with out := t.out, time := t.time } := by
  have hroot' : s.isRoot = false := hroot
  have hstop' : s.stopped = false := hstop
  have hstitch' : m.stitch = s.releaseStitch := hstitch
  have hexpected : (s.isRoot || !s.time.sent || m.stitch != s.releaseStitch) = false := by
    rw [hroot', hsent, hstitch', bne_self_eq_false]
    rfl
  have hopen : (s.time.faulted || s.time.release.isSome || s.stopped) = false := by
    rw [hfault, hrel, hstop']
    rfl
  refine ⟨s.scheduleRelease m, ?_, ?_⟩
  · change execCinchRelease m s = _
    rw [execCinchRelease, if_neg (by simp [hnode, hlast]), hexpected, if_neg Bool.false_ne_true, hopen,
      if_neg Bool.false_ne_true]
    exact if_neg (Nat.not_lt.mpr hft)
  · rw [s.scheduleRelease_eq, if_neg hnode]
    exact ⟨rfl, rfl, rfl⟩

theorem stitchBegin_begins (s : State) (st : W64) (at' : Nat) (hrel : s.time.release = some (st, at'))
    (hstop : s.regB Reg.timStatus 13 = false) (hft : at' ≤ s.ft) :
    ∃ t, exec .stitchBegin s = .next t ∧ t.stitch = st ∧ t.reg Reg.timStitchStart = BitVec.ofNat 64 at' ∧
      t.reg Reg.timCinchRelease = BitVec.ofNat 64 at' ∧ t.time.inPleat = true ∧ t.regF Reg.timStatus 4 6 = 0 ∧
      t.regB Reg.timStatus 10 = false ∧ t.time.atCinch = false ∧ t.time.release = none ∧ t.time.arrived = [] ∧
      t.time.stitchOut = (s.time.stitchOut || s.regB Reg.timCtrl 4) ∧ t.sync = [] ∧
      (if s.regB Reg.timBankCtrl 0 = true ∧ (s.reg Reg.timBankSwitch).toNat ≤ st.toNat
       then t.regF Reg.timStatus 12 1 = s.regF Reg.timBankCtrl 1 1 ∧ t.regB Reg.timBankCtrl 0 = false
       else t.regF Reg.timStatus 12 1 = s.regF Reg.timStatus 12 1 ∧
         t.reg Reg.timBankCtrl = s.reg Reg.timBankCtrl) := by
  refine ⟨s.beginStitch st at', ?_, ?_⟩
  · change execStitchBegin s = _
    rw [execStitchBegin, hrel]
    exact if_neg (by simpa [State.stopped, hstop] using hft)
  · have hstatus := s.beginStitch_reg st at' (o := Reg.timStatus) (by decide) (by decide)
    have hsame {o : Nat} (ho : Reg.msixPba 32 ≤ o)
        (hno : o ∉ [Reg.timEvent, Reg.timStatus, Reg.timPleatStart, Reg.timBankCtrl]) :=
      s.beginStitch_reg_other st at' ho hno
    have htime := s.beginStitch_time st at'
    rw [State.pleatTime, State.bankSwitch_time] at htime
    have hctrl : (s.stitchRegs st at').regB Reg.timCtrl 4 = s.regB Reg.timCtrl 4 :=
      State.regB_congr (s.stitchRegs_reg_other st at' (by decide)) 4
    have hwait : ((s.stitchEntered st at').bankSwitch.pleatRegs 0).regB Reg.timStatus 10 = false := by
      have hfield := (s.stitchEntered st at').bankSwitch.pleatRegs_field 0 (lo := 10) (len := 1) (by decide)
      rw [State.regB, hfield]
      exact ((s.stitchEntered st at').bankSwitch_statusBit (by decide)).trans (s.stitchRegs_wait st at')
    refine ⟨(hsame (by decide) (by decide)).trans (s.stitchRegs_stitch st at'),
      (hsame (by decide) (by decide)).trans (s.stitchRegs_start st at'),
      (hsame (by decide) (by decide)).trans (s.stitchRegs_release st at'), ?_, ?_,
      (State.regB_congr hstatus 10).trans hwait, ?_, ?_, ?_, ?_, State.beginPleat_sync _ _, s.beginStitch_bank st at'⟩
    · rw [htime]
    · rw [State.regF_congr hstatus, State.pleatRegs_pleat _ _ (by decide)]
    · rw [htime]; rfl
    · rw [htime]; rfl
    · rw [htime]; rfl
    · rw [htime, ← hctrl]; rfl

theorem findReg_timBankCtrl :
    findReg Reg.timBankCtrl = some (⟨0x400048, 1, 4, 1, 0, false, .hub, 0, 2, 0, 1, 0⟩, Reg.timBankCtrl) := by decide

theorem bankArm_arms (v : BitVec 32) (s : State) (hr : s.reaches Reg.timBankCtrl = true) :
    ∃ t, exec (.bankArm v) s = .next t ∧
      t.regB Reg.timBankCtrl 0 = (s.regB Reg.timBankCtrl 0 || v.getLsbD 0) ∧
      t.regB Reg.timBankCtrl 1 = v.getLsbD 1 ∧ OnlyRegs s t [Reg.timBankCtrl] ∧ t = { s with regs := t.regs } := by
  refine ⟨_, congrArg Host.Outcome.next (s.bar_reached _ _ hr), ?_, ?_, s.plainWrite_onlyRegs _ findReg_timBankCtrl,
    s.plainWrite_frame _ _⟩
  all_goals rw [State.regB_eq_getLsbD, s.getLsbD_plainWrite _ findReg_timBankCtrl _ (by decide), BitVec.getLsbD_setWidth]
  · simp [bitWritten, State.regB_eq_getLsbD]
  · have hrw : (2 : Nat).testBit 1 = true := by decide
    simp [bitWritten, hrw]

theorem cinchTimeout_faults (s : State) (hrun : s.regB Reg.timCtrl 0 = true) (hat : s.time.atCinch = true)
    (hsent : s.time.sent = false) (hfault : s.time.faulted = false)
    (hchild : s.time.arrived.length < min 27 (s.regF Reg.timCinchCfg 1 5))
    (hft : s.time.dueAt + 64000 * (s.reg Reg.timCinchTimeout).toNat ≤ s.ft) :
    ∃ t, exec .cinchTimeout s = .next t ∧ t.regB Reg.timEvent 7 = true ∧
      t.time = { s.time with faulted := s.time.release.isNone } ∧ EventOnly { s with time := t.time } t [Reg.timEvent] := by
  have hall : s.allChildren = false := decide_eq_false (Nat.not_le.mpr hchild)
  have hlimit : decide (s.cinchLimit ≤ s.ft) = true := decide_eq_true hft
  refine ⟨s.cinchFault 7, ?_, State.timEv_regB _ (by decide), ?_, ?_⟩
  · change execCinchTimeout s = _
    rw [execCinchTimeout, State.running, hrun, hat, hsent, hfault, hall, hlimit]
    rfl
  · rw [s.cinchFault_time, hfault, Bool.false_or]
  · rw [s.cinchFault_time]
    exact State.timEv_eventOnly _ _

theorem stitchIn_pulse (s : State) (hroot : s.regB Reg.timCinchCfg 0 = true) (hadv : s.regF Reg.timCtrl 1 2 = 1)
    (hrun : s.regB Reg.timCtrl 0 = true) :
    (s.regB Reg.timStatus 11 = true → ∃ t, exec .stitchIn s = .next t ∧ t.regB Reg.timEvent 4 = true ∧
      (t.reg Reg.timCntStitchOverrun).toNat = min ((s.reg Reg.timCntStitchOverrun).toNat + 1) (2 ^ 32 - 1) ∧
      EventOnly s t [Reg.timEvent, Reg.timCntStitchOverrun]) ∧
    (s.regB Reg.timStatus 11 = false → s.time.sent = false → ∃ t, exec .stitchIn s = .next t ∧
      t.regB Reg.timStatus 11 = true ∧ OnlyRegs s t [Reg.timStatus] ∧ t = { s with regs := t.regs }) := by
  have hexec : exec .stitchIn s = if s.inPending then .next ((s.count32 Reg.timCntStitchOverrun 1).timEv 4)
      else .next (s.setRegB Reg.timStatus 11 true).rootRelease := by
    have hpulse : (s.isRoot && s.advPulse && s.running) = true := by
      rw [State.isRoot, hroot, State.advPulse, hadv, State.running, hrun]
      rfl
    change execStitchIn s = _
    rw [execStitchIn, hpulse]
    rfl
  refine ⟨fun hpend => ?_, fun hpend hsent => ?_⟩
  · refine ⟨_, hexec.trans (if_pos hpend), State.timEv_regB _ (by decide), ?_,
      eventOnly_swap (State.count32_timEv_eventOnly _ 1 4 (by decide))⟩
    rw [State.timEv_reg_other _ _ (by decide) (by decide), State.toNat_reg_count32]
  · have hsent' : (s.setRegB Reg.timStatus 11 true).time.sent = false := hsent
    refine ⟨s.setRegB Reg.timStatus 11 true, ?_, State.regB_setRegB_same _ _ _ _ (by decide), s.setReg_onlyRegs _ _, rfl⟩
    rw [hexec, if_neg (by simp [State.inPending, hpend]), State.rootRelease_of_not_sent hsent']

/-- Settles O35: the arrival by the move it makes at the cinch, a release by the messages it forwards, and the start of a stitch
by the registers and the time base it leaves. -/
theorem cinch : Obligations.Cinch :=
  ⟨arriveSend_arrives, cinchArrive_records, cinchRelease_schedules, stitchBegin_begins, bankArm_arms, cinchTimeout_faults,
    stitchIn_pulse, fun _ => ⟨fun h => if_neg (Nat.not_lt.mpr h), fun h => if_pos h⟩⟩

end Sys2Proof.Proofs
end

section
/-! PROOFS. Where a telemetry sample fills the pending store (R49, R328): the count of WP it stores is at the offset of a
completion ring's status. -/
namespace Sys2Proof.Machine
open Sys2Proof.Claims

/-! ## The pending store (R328) -/

theorem State.pendStore_congr {s t : State} (howed : t.owed = s.owed) (hregs : t.regs = s.regs) :
    t.pendStore = s.pendStore := by
  simp only [State.pendStore, howed, State.regF, State.reg, hregs]

/-- Equal completions wait in the pending store all together or not at all. -/
theorem State.pendStore_replicate {s : State} {n : Nat} {c : Compl} (h : s.owed = List.replicate n c) :
    s.pendStore = if c.action || s.regF (Reg.cqStatus c.cring) 24 8 != 0 then n else 0 := by
  rw [State.pendStore, h, List.filter_replicate]
  split <;> simp

/-- The completion of an action of the table that takes the last place of the pending store sets PEND_FULL. -/
theorem State.owe_pendFull {s : State} {c : Compl} (hact : c.action = true) (hlast : s.pendStore = 4095) :
    (s.owe c).regB Reg.hubEvent 3 = true := by
  have hfull : { s with owed := s.owed ++ [c] }.pendStore = 4096 := by
    change ((s.owed ++ [c]).filter _).length = _
    rw [List.filter_append, List.length_append]
    change s.pendStore + _ = _
    simp [hlast, hact]
  have hcross : s.pendStore < 4096 ∧ 4096 ≤ { s with owed := s.owed ++ [c] }.pendStore := by
    rw [hlast, hfull]
    decide
  rw [State.owe, State.pendFull, if_pos hcross]
  exact State.event_regB_event _ _ _ _ (ne_msixPba (by decide)) (by decide) (by decide) (by decide)

/-! ## The one descriptor of an action (R109) -/

/-- An action of the table that completes with its one descriptor and takes the last place of the pending store sets
PEND_FULL. -/
theorem State.descDone_pendFull {s : State} {n : Nat} {a : Act} (hact : s.actOf n = some a) (hleft : a.left = 1)
    (htable : a.table = true) (hcompl : a.compl = true) (hlast : s.pendStore = 4095) :
    (s.descDone n 0 0 0).regB Reg.hubEvent 3 = true := by
  rw [State.descDone, hact]
  simp only [hleft, Nat.sub_self, ↓reduceIte, State.endAct, htable, hcompl]
  exact State.owe_pendFull rfl ((State.pendStore_congr rfl rfl).trans hlast)

/-- A launched action is in the list under its number, with the descriptors of its launch still to complete. -/
theorem State.startAct_actOf (s : State) (l : Launch) (inPleat : Bool) : ∃ a, (s.startAct l inPleat).actOf s.nextAct = some a ∧
    a.left = l.count ∧ a.table = l.table ∧ a.compl = l.compl := by
  simp only [State.startAct, State.newAct, State.actOf, Tbl.get_set_same]
  exact ⟨_, rfl, rfl, rfl, rfl⟩

theorem State.startAct_owed (s : State) (l : Launch) (inPleat : Bool) : (s.startAct l inPleat).owed = s.owed := by
  unfold State.startAct
  dsimp only
  split <;> rfl

/-! ## The telemetry sample (R49, R50) -/

/-- The state once a telemetry sample of the table has stored its record and WP, its one descriptor still to complete. -/
def State.sampleStored (s : State) (l : Launch) : State :=
  let wp := (s.reg (Reg.timTsetWp l.tset)).toNat
  ((s.startAct l true).store hubReq (l.desc % 2 ^ 48 + 544 * (wp % max 1 l.period)) (s.teleRecord l.tset true)).setReg
    (Reg.timTsetWp l.tset) (BitVec.ofNat 64 (wp + 1))

theorem State.launchTelemetry_of_table {s : State} {l : Launch} (h : l.table = true) :
    s.launchTelemetry l true = (s.sampleStored l).descDone s.nextAct 0 0 0 := by
  have hnone : s.time.samples.find? (fun x => !l.table && true && x.1 == l.sring && x.2.1 == l.sidx) = none := by
    simp [h]
  rw [State.launchTelemetry, hnone]
  rfl

theorem State.sampleStored_frame (s : State) (l : Launch) : StoreFrame (s.startAct l true) (s.sampleStored l) :=
  .trans (State.store_frame _ _ _ _) (State.setReg_frame _ _ _).store

theorem State.sampleStored_owed (s : State) (l : Launch) : (s.sampleStored l).owed = s.owed :=
  (congrArg State.owed (s.sampleStored_frame l)).trans (s.startAct_owed l true)

theorem State.sampleStored_actOf (s : State) (l : Launch) :
    (s.sampleStored l).actOf s.nextAct = (s.startAct l true).actOf s.nextAct := by
  rw [s.sampleStored_frame l]
  rfl

theorem State.sampleStored_reg (s : State) (l : Launch) : (s.sampleStored l).reg (Reg.timTsetWp l.tset) =
    BitVec.ofNat 64 ((s.reg (Reg.timTsetWp l.tset)).toNat + 1) := State.reg_setReg_same _ _ _

/-- A sample of the table that leaves one place in the pending store sets PEND_FULL with its own completion. -/
theorem State.launchTelemetry_pendFull {s : State} {l : Launch} (htable : l.table = true) (hcompl : l.compl = true)
    (hcount : l.count = 1) (hlast : (s.sampleStored l).pendStore = 4095) :
    (s.launchTelemetry l true).regB Reg.hubEvent 3 = true := by
  obtain ⟨a, hact, hleft, htab, hcmp⟩ := s.startAct_actOf l true
  rw [State.launchTelemetry_of_table htable]
  exact State.descDone_pendFull ((s.sampleStored_actOf l).trans hact) (hleft.trans hcount) (htab.trans htable)
    (hcmp.trans hcompl) hlast

end Sys2Proof.Machine

namespace Sys2Proof.Proofs
open Sys2Proof Sys2Proof.Machine Sys2Proof.Claims

/-! ## A sample that fills the pending store

The number of an owed completion's ring is any number in a state of the model, and CQ_STATUS of ring 49344 would be at
0x403020, where TIM_TSET_WP of set 4 is. As its WP passes 2^24, bits 31:24 of that offset are no longer 0, and what is owed to
that ring begins to wait in the pending store. -/

/-- A completion of a host's request that is owed to ring 49344. -/
def strayCompl : Compl where
  cring := 49344
  status := 0
  action := false
  sring := 0
  sidx := 0
  stitch := 0
  pleat := 0
  failed := 0
  info := 0
  hold := false

/-- A telemetry sample of set 4 by the action table, into the cache of tile 0. -/
def sampleLaunch : Launch where
  typ := 6
  desc := 0x01F000000000
  count := 1
  deadline := none
  tset := 4
  compl := true
  cring := 0
  table := true
  sring := 0
  sidx := 0
  period := 1
  body := []

/-- A package after reset, but that WP of set 4 is 2^24 - 1, 4,095 completions are owed to ring 49344, and the queue of launches
is `q`. -/
def strayState (q : List Launch) : State :=
  { State.reset.setReg (Reg.timTsetWp 4) 0xFFFFFF with
    time := { TimeSt.init with launchQ := q }
    owed := List.replicate 4095 strayCompl }

theorem strayState_pendStore (q : List Launch) : (strayState q).pendStore = 0 := by
  have hregs : (strayState q).regF (Reg.cqStatus strayCompl.cring) 24 8 = 0 := by
    rw [State.regF, show (strayState q).reg (Reg.cqStatus strayCompl.cring) = 0xFFFFFF from
       State.reg_setReg_same State.reset (Reg.timTsetWp 4) 0xFFFFFF]
    rfl
  rw [State.pendStore_replicate (n := 4095) (c := strayCompl) rfl, hregs]
  rfl

/-- Once WP is stored, what is owed to ring 49344 waits in the pending store. -/
theorem strayState_sampleStored_pendStore : ((strayState []).sampleStored sampleLaunch).pendStore = 4095 := by
  have hwp : ((strayState []).sampleStored sampleLaunch).reg (Reg.cqStatus strayCompl.cring) = 0x1000000 :=
    State.sampleStored_reg _ _
  rw [State.pendStore_replicate (n := 4095) (c := strayCompl) (State.sampleStored_owed _ _), State.regF, hwp]
  rfl

theorem strayState_exec : exec .actionTelemetrySample (strayState [sampleLaunch]) =
    .next ((strayState []).launchTelemetry sampleLaunch true) := rfl

theorem strayState_storable : Storable (strayState [sampleLaunch]) 0x01F000000000 544 := by
  refine ⟨by decide, by decide, by decide⟩

theorem strayState_clean : (strayState [sampleLaunch]).poisonIn 0x01F000000000 544 = false := by decide

/-- Refutes O34: from `strayState`, a telemetry sample fills the pending store, and sets PEND_FULL of HUB_EVENT, which is none of
the registers the statement lets it change. -/
theorem not_actions : ¬ Obligations.Actions := by
  intro hactions
  obtain ⟨-, hlaunch, -⟩ := hactions
  have hpend : (strayState [sampleLaunch]).pendStore + 1 < 4096 := by rw [strayState_pendStore]; decide
  obtain ⟨-, hsample, -⟩ := hlaunch (strayState [sampleLaunch]) sampleLaunch [] rfl hpend
  obtain ⟨t, hexec, -, -, -, -, -, -, -, -, -, honly⟩ :=
    hsample rfl rfl rfl rfl (by decide) strayState_storable strayState_clean
  have ht : (strayState []).launchTelemetry sampleLaunch true = t := Host.Outcome.next.inj (strayState_exec.symm.trans hexec)
  have hkept : t.reg Reg.hubEvent = (strayState [sampleLaunch]).reg Reg.hubEvent := honly _ (by decide)
  have hset : t.regB Reg.hubEvent 3 = true :=
    ht ▸ State.launchTelemetry_pendFull rfl rfl rfl strayState_sampleStored_pendStore
  have hclear : t.regB Reg.hubEvent 3 = false := State.regB_congr hkept 3
  exact Bool.noConfusion (hset.symm.trans hclear)

end Sys2Proof.Proofs
end

section
/-! PROOFS. Instructions that work in the registers of their program alone (R127, R150): what the unit's state is once such
an instruction completed. -/
namespace Sys2Proof.Machine
open Sys2Proof.Claims

/-! ## Units that await no data -/

theorem State.lacks_of_no_access {s : State} {r : Req} (h : ∀ e ∈ s.accesses, e.req ≠ r) : s.lacks r = false := by
  simp only [State.lacks, List.any_eq_false, Bool.and_eq_true, beq_iff_eq]
  exact fun e he hreq => h e he hreq.1

theorem State.dropAccesses_of_no_access {s : State} {r : Req} (h : ∀ e ∈ s.accesses, e.req ≠ r) :
    s.dropAccesses r = s := by
  have hall : s.accesses.filter (fun e => e.req != r) = s.accesses :=
    List.filter_eq_self.2 fun e he => bne_iff_ne.2 (h e he)
  rw [State.dropAccesses, hall]

/-! ## Completing in registers -/

/-- A condition that holds does not end the program. -/
theorem need_of_true {c : Bool} (h : c = true) (s : State) (r : IRes) : need s c r = r := if_pos h

/-- The state once an instruction of the program `p` of unit `u` completed in registers and left the program `p1`. -/
def State.completed (s : State) (u : VUnit) (p p1 : Prog) : State :=
  (s.setProg u (some { p1 with pc := p.pc + 4 })).instrDone u p.pc

theorem State.completed_accesses (s : State) (u : VUnit) (p p1 : Prog) :
    (s.completed u p p1).accesses = s.accesses := rfl

theorem State.completed_Completed (s : State) (u : VUnit) (p p1 : Prog) :
    Completed s (s.completed u p p1) u p p1 (p.pc + 4) := by
  refine ⟨by simp [State.completed], State.instrDone_pc _ _ _, ?_, fun v hv => ?_⟩
  · rw [State.completed, State.instrDone_count, BitVec.toNat_ofNat, State.setProg_reg, satAdd]
    exact Nat.mod_eq_of_lt (by omega)
  · rw [State.completed, State.instrDone_progOf, State.progOf_setProg_other _ _ _ _ hv]

theorem State.completed_inRegisters (s : State) (u : VUnit) (p p1 : Prog) :
    InRegisters s (s.completed u p p1) u p p1 (p.pc + 4) := by
  refine ⟨s.completed_Completed u p p1, fun off hpc hinstr hbusy _ => ?_, fun _ => rfl, fun _ => rfl, ?_⟩
  · rw [State.completed, State.instrDone_reg_other _ _ _ _ hpc hinstr hbusy, State.setProg_reg]
  · rw [State.completed, State.instrDone_frame]
    rfl

end Sys2Proof.Machine

namespace Sys2Proof.Claims
open Sys2Proof.Machine

/-! ## Programs that are ready -/

section
variable {s : State} {u : VUnit} {p p1 : Prog} {i : Instr}

theorem Ready.progReady (h : Ready s u p i) : s.progReady u p = true := by
  obtain ⟨-, hended, hsaved, hwait, hparked, -, -⟩ := h
  simp [State.progReady, hended, hsaved, hwait, hparked]

/-- A ready program executes the instruction that its word spells. -/
theorem Ready.issue (h : Ready s u p i) (f : State → State) : s.issue u i f = f s := by
  obtain ⟨-, -, -, -, -, -, hword⟩ := h
  exact State.issue_of_word hword f

/-- An instruction of a ready program whose body completes with the program `p1` and the state as it was. -/
theorem Ready.instr_done (h : Ready s u p i) {mf : Nat} {body : State → Prog → IRes} (hbody : body s p = .done s p1) :
    s.instr u mf body = s.completed u p p1 := by
  have hready := h.progReady
  obtain ⟨hprog, -, -, hwait, -, hfree, -⟩ := h
  have hsame : { p with wait := .no } = p := by rw [← hwait]
  have hlacks : (body s { p with wait := .no }).st.lacks (progReq u) = false := by
    rw [hsame, hbody]
    exact State.lacks_of_no_access hfree
  rw [State.instr_of_whole hprog hready hlacks, hsame, hbody]
  exact State.dropAccesses_of_no_access hfree

/-- What an instruction does that a ready program executes and that completes in registers. -/
theorem Ready.exec_completed (h : Ready s u p i) {f : State → State} (hexec : exec i s = .next (s.issue u i f))
    (hf : f s = s.completed u p p1) {written : Prog → Prop} (hp1 : written p1) :
    ∃ t p1, exec i s = .next t ∧ written p1 ∧ InRegisters s t u p p1 (p.pc + 4) :=
  ⟨s.completed u p p1, p1, by rw [hexec, h.issue, hf], hp1, s.completed_inRegisters u p p1⟩

/-- A vector instruction of a ready program, whose fields are right: with VL = 0 it does what `empty` says, and otherwise it
leaves `p1` (R127). -/
theorem VReady.vinstr_done (h : VReady s u p i) {maj fn : Nat} {ok : Bool} {empty : Prog → Prog}
    {body : State → Prog → IRes} (hok : ok = true) (hempty : p.vl = 0 → p1 = empty p)
    (hbody : p.vl ≠ 0 → body s p = .done s p1) : s.vinstr u maj fn ok empty body = s.completed u p p1 := by
  obtain ⟨hready, hvalid, -⟩ := h
  refine hready.instr_done ?_
  rw [hvalid, hok, if_neg (by decide)]
  split
  · next hvl => rw [hempty hvl]
  · next hvl => exact hbody hvl

/-- A vector instruction that does nothing with VL = 0, and otherwise takes the program to `p1`. -/
theorem VReady.vinstr_id (h : VReady s u p i) {maj fn : Nat} {ok : Bool} {body : State → Prog → IRes} (hok : ok = true)
    (hbody : body s p = .done s p1) :
    s.vinstr u maj fn ok id body = s.completed u p (if p.vl = 0 then p else p1) :=
  h.vinstr_done hok (fun hvl => if_pos hvl) fun hvl => by rw [if_neg hvl, hbody]

/-- A floating-point vector instruction under a format that is valid (R121). -/
theorem VReady.vfp_id (h : VReady s u p i) {maj fn : Nat} {ok : Bool} {f : Fmt} {body : State → Prog → Fmt → IRes}
    (hok : ok = true) (hfmt : p.fpFmt = some f) (hbody : body s p f = .done s p1) :
    s.vfp u maj fn ok body = s.completed u p (if p.vl = 0 then p else p1) :=
  h.vinstr_id hok (by rw [hfmt]; exact hbody)

end

end Sys2Proof.Claims
end

section
/-! PROOFS. The lanes of a vector register (R123, R126, R131, R140): what each lane, each granule's poison and each other
register reads after lanes were written. -/
namespace Sys2Proof.Machine
open Sys2Proof.Claims

/-! ## Consecutive numbers -/

theorem mem_upFrom_iff {a n x : Nat} : x ∈ upFrom a n ↔ a ≤ x ∧ x < a + n := by
  induction n generalizing a with
  | zero => simp only [upFrom, List.not_mem_nil, false_iff]; omega
  | succ n ih => simp only [upFrom, List.mem_cons, ih]; omega

theorem upFrom_succ_last (a n : Nat) : upFrom a (n + 1) = upFrom a n ++ [a + n] := by
  induction n generalizing a with
  | zero => rfl
  | succ n ih => rw [upFrom, ih, upFrom, List.cons_append, Nat.add_right_comm a 1 n, Nat.add_assoc a n 1]

/-! ## Words as numbers -/

theorem signed_toNat {w : Nat} (x : BitVec w) : signed w x.toNat = x.toInt := by
  unfold signed BitVec.toInt
  rw [Int.emod_eq_of_lt (by omega) (mod_cast x.isLt), Nat.mod_eq_of_lt x.isLt]
  cases w with
  | zero => simp
  | succ w => simp only [Nat.add_sub_cancel, Nat.pow_succ']; split_ifs <;> grind

theorem toNat_ofInt_eq_unsigned (w : Nat) (v : Int) : (BitVec.ofInt w v).toNat = unsigned w v := by
  rw [BitVec.toNat_ofInt, unsigned]
  norm_cast

theorem toNat_beq {w : Nat} (x y : BitVec w) : (x.toNat == y.toNat) = (x == y) :=
  Bool.eq_iff_iff.2 (by rw [beq_iff_eq, beq_iff_eq, BitVec.toNat_inj])

/-! ## Lanes as numbers -/

theorem lane_lt (w : Nat) (v : VWord) (k : Nat) : lane w v k < 2 ^ w := Nat.mod_lt _ (Nat.two_pow_pos w)

/-- What lane `k` of width `w` holds after the lanes that `new` gives were written over `old`. -/
def laneAfter (w : Nat) (old : Nat → Nat) (new : Nat → LaneOut) (k : Nat) : Nat :=
  (new k).elim (old k) fun x => x.1 % 2 ^ w

theorem laneAfter_lt {w : Nat} {old : Nat → Nat} (hold : ∀ k, old k < 2 ^ w) (new : Nat → LaneOut) (k : Nat) :
    laneAfter w old new k < 2 ^ w := by
  unfold laneAfter
  cases new k with
  | none => exact hold k
  | some x => exact Nat.mod_lt _ (Nat.two_pow_pos w)

theorem joinLanes_succ (w : Nat) (old : Nat → Nat) (new : Nat → LaneOut) (k n : Nat) :
    joinLanes w old new k (n + 1) = laneAfter w old new k + 2 ^ w * joinLanes w old new (k + 1) n := by
  rw [joinLanes, laneAfter]
  cases new k <;> rfl

section
variable {w : Nat} {old : Nat → Nat} (hold : ∀ k, old k < 2 ^ w) (new : Nat → LaneOut)
include hold

theorem joinLanes_lt (k n : Nat) : joinLanes w old new k n < 2 ^ (w * n) := by
  induction n generalizing k with
  | zero => exact Nat.two_pow_pos _
  | succ n ih =>
    rw [joinLanes_succ, Nat.mul_succ, Nat.pow_add, Nat.mul_comm (2 ^ (w * n))]
    calc laneAfter w old new k + 2 ^ w * joinLanes w old new (k + 1) n
        < 2 ^ w + 2 ^ w * joinLanes w old new (k + 1) n := Nat.add_lt_add_right (laneAfter_lt hold new k) _
      _ = 2 ^ w * (joinLanes w old new (k + 1) n + 1) := by rw [Nat.mul_succ, Nat.add_comm]
      _ ≤ 2 ^ w * 2 ^ (w * n) := Nat.mul_le_mul_left _ (ih (k + 1))

theorem joinLanes_lane {n j : Nat} (k : Nat) (hj : j < n) :
    joinLanes w old new k n / 2 ^ (w * j) % 2 ^ w = laneAfter w old new (k + j) := by
  induction n generalizing k j with
  | zero => omega
  | succ n ih =>
    rw [joinLanes_succ]
    cases j with
    | zero => simp [Nat.add_mul_mod_self_left, Nat.mod_eq_of_lt (laneAfter_lt hold new k)]
    | succ j =>
      rw [Nat.mul_succ, Nat.add_comm (w * j), Nat.pow_add, ← Nat.div_div_eq_div_mul,
        Nat.add_mul_div_left _ _ (Nat.two_pow_pos w), Nat.div_eq_of_lt (laneAfter_lt hold new k), Nat.zero_add,
        ih (k + 1) (by omega), Nat.add_right_comm, Nat.add_assoc]

end

/-- A lane below `n` of a number that begins with `n` lanes is one of theirs. -/
theorem lane_of_low {w n k : Nat} (low high : Nat) (hk : k < n) :
    (low + high * 2 ^ (w * n)) / 2 ^ (w * k) % 2 ^ w = low / 2 ^ (w * k) % 2 ^ w := by
  obtain ⟨j, rfl⟩ := Nat.exists_eq_add_of_lt hk
  have hsplit : high * 2 ^ (w * (k + j + 1)) = 2 ^ (w * k) * (2 ^ w * (high * 2 ^ (w * j))) := by
    rw [Nat.mul_succ, Nat.mul_add, Nat.pow_add, Nat.pow_add]
    ac_rfl
  rw [hsplit, Nat.add_mul_div_left _ _ (Nat.two_pow_pos _), Nat.add_mul_mod_self_left]

/-- A lane from `n` on of a number that begins with `n` lanes is one of the rest. -/
theorem lane_of_high {w n k low : Nat} (high : Nat) (hlow : low < 2 ^ (w * n)) (hk : n ≤ k) :
    (low + high * 2 ^ (w * n)) / 2 ^ (w * k) = high / 2 ^ (w * (k - n)) := by
  obtain ⟨j, rfl⟩ := Nat.exists_eq_add_of_le hk
  rw [Nat.mul_add, Nat.pow_add, ← Nat.div_div_eq_div_mul, Nat.add_mul_div_right _ _ (Nat.two_pow_pos _),
    Nat.div_eq_of_lt hlow, Nat.zero_add, Nat.add_sub_cancel_left]

/-! ## Writing the lanes of one register -/

section
variable (p : Prog) (d : Nat) {w n : Nat} (new : Nat → LaneOut)

/-- The number that v`d` holds after its lanes 0 to `n − 1` were written. -/
def Prog.lanesNum (p : Prog) (d w n : Nat) (new : Nat → LaneOut) : Nat :=
  joinLanes w (lane w (p.vr d)) new 0 n + (p.vr d).toNat / 2 ^ (w * n) * 2 ^ (w * n)

/-- The granules that hold a written lane, among those of one register. -/
def writtenGranules (w n : Nat) : List Nat := (List.range 32).filter fun g => decide (256 * g < w * n)

/-- The poison table after lanes 0 to `n − 1` of v`d` were written. -/
def Prog.lanesPois (p : Prog) (d w n : Nat) (new : Nat → LaneOut) : Tbl Bool :=
  (writtenGranules w n).foldl
    (fun t g => Tbl.set false t (32 * d + g) (granAfter w n new (p.granPois d g) g)) p.pois

theorem Prog.writeLanes_eq (hn : w * n ≤ 8192) : p.writeLanes d w n new =
    { p.setV d (BitVec.ofNat 8192 (p.lanesNum d w n new)) with pois := p.lanesPois d w n new } := by
  have htwo : decide (8192 < w * n) = false := decide_eq_false (by omega)
  simp only [Prog.writeLanes, htwo, Bool.false_eq_true, if_false, Nat.add_zero]
  rfl

theorem Prog.lanesNum_lt (hn : w * n ≤ 8192) : p.lanesNum d w n new < 2 ^ 8192 := by
  have hlow : joinLanes w (lane w (p.vr d)) new 0 n < 2 ^ (w * n) := joinLanes_lt (lane_lt w (p.vr d)) new 0 n
  have hhigh : (p.vr d).toNat / 2 ^ (w * n) < 2 ^ (8192 - w * n) := by
    rw [Nat.div_lt_iff_lt_mul (Nat.two_pow_pos _), ← Nat.pow_add, Nat.sub_add_cancel hn]
    exact (p.vr d).isLt
  calc p.lanesNum d w n new
      < ((p.vr d).toNat / 2 ^ (w * n) + 1) * 2 ^ (w * n) := by rw [Prog.lanesNum, Nat.succ_mul]; omega
    _ ≤ 2 ^ (8192 - w * n) * 2 ^ (w * n) := Nat.mul_le_mul_right _ hhigh
    _ = 2 ^ 8192 := pow_sub_mul_pow 2 hn

/-- A written lane reads what `new` gives, or what it held; a lane beyond them reads what it held. -/
theorem Prog.lane_writeLanes (hn : w * n ≤ 8192) (k : Nat) : lane w ((p.writeLanes d w n new).vr d) k =
    if k < n then laneAfter w (lane w (p.vr d)) new k else lane w (p.vr d) k := by
  have hold := lane_lt w (p.vr d)
  have hnum : ((p.writeLanes d w n new).vr d).toNat = p.lanesNum d w n new := by
    rw [p.writeLanes_eq d new hn]
    have hlt := p.lanesNum_lt d new hn
    refine (congrArg BitVec.toNat (p.vr_setV_same d _)).trans ?_
    simp only [BitVec.toNat_ofNat, Nat.mod_eq_of_lt hlt]
  rw [lane, hnum, Prog.lanesNum]
  split
  · next hk => rw [lane_of_low _ _ hk, joinLanes_lane hold new 0 hk, Nat.zero_add]
  · next hk =>
    have hk : n ≤ k := Nat.not_lt.1 hk
    rw [lane_of_high _ (joinLanes_lt hold new 0 n) hk, Nat.div_div_eq_div_mul, ← Nat.pow_add, ← Nat.mul_add,
      Nat.add_sub_cancel' hk, lane]

theorem Prog.vr_writeLanes_other (hn : w * n ≤ 8192) {i : Nat} (hi : i ≠ d) : (p.writeLanes d w n new).vr i = p.vr i := by
  rw [p.writeLanes_eq d new hn]
  exact p.vr_setV_other _ hi

theorem Prog.writeLanes_frame (hn : w * n ≤ 8192) : p.writeLanes d w n new =
    { p with v := (p.writeLanes d w n new).v, pois := (p.writeLanes d w n new).pois } := by
  rw [p.writeLanes_eq d new hn]
  rfl

end

/-! ## Poison of the granules -/

/-- The widths of elements (R121). -/
def IsElementWidth (w : Nat) : Prop := w = 8 ∨ w = 16 ∨ w = 32 ∨ w = 64

theorem IsElementWidth.pos {w : Nat} (hw : IsElementWidth w) : 0 < w := by
  unfold IsElementWidth at hw
  omega

/-- Entries written one after another, each at a place of its own: an entry reads what was written at its place. -/
theorem Tbl.get_foldl_set {α : Type} [DecidableEq α] {dflt : α} (base : Nat) (val : Nat → α) (gs : List Nat) (t : Tbl α)
    (i : Nat) : Tbl.get dflt (gs.foldl (fun t g => Tbl.set dflt t (base + g) (val g)) t) (base + i) =
      if i ∈ gs then val i else Tbl.get dflt t (base + i) := by
  induction gs generalizing t with
  | nil => rfl
  | cons g gs ih =>
    rw [List.foldl_cons, ih]
    by_cases hi : i = g
    · simp [hi]
    · simp [hi, Tbl.get_set_other t (val g) (show base + i ≠ base + g by omega)]

/-- Entries below or above those written are left. -/
theorem Tbl.get_foldl_set_other {α : Type} [DecidableEq α] {dflt : α} (base : Nat) (val : Nat → α) {gs : List Nat} {j : Nat}
    (hj : ∀ g ∈ gs, j ≠ base + g) (t : Tbl α) :
    Tbl.get dflt (gs.foldl (fun t g => Tbl.set dflt t (base + g) (val g)) t) j = Tbl.get dflt t j := by
  induction gs generalizing t with
  | nil => rfl
  | cons g gs ih =>
    obtain ⟨hg, hgs⟩ := List.forall_mem_cons.1 hj
    rw [List.foldl_cons, ih hgs, Tbl.get_set_other t (val g) hg]

section
variable (p : Prog) (d : Nat) {w n : Nat} (new : Nat → LaneOut)

theorem Prog.granPois_writeLanes (hn : w * n ≤ 8192) {g : Nat} (hg : g < 32) : (p.writeLanes d w n new).granPois d g =
    if 256 * g < w * n then granAfter w n new (p.granPois d g) g else p.granPois d g := by
  rw [p.writeLanes_eq d new hn]
  exact (Tbl.get_foldl_set _ _ _ _ _).trans (by simp [writtenGranules, hg, Prog.granPois])

theorem Prog.granPois_writeLanes_other (hn : w * n ≤ 8192) {i g : Nat} (hi : i ≠ d) (hg : g < 32) :
    (p.writeLanes d w n new).granPois i g = p.granPois i g := by
  rw [p.writeLanes_eq d new hn]
  refine Tbl.get_foldl_set_other _ _ (fun h hmem => ?_) _
  have hh : h < 32 := List.mem_range.1 (List.mem_of_mem_filter hmem)
  omega

/-- Whether lane `k` leaves poison in its granule, whose poison was `was`. -/
def lanePoisAfter (n : Nat) (new : Nat → LaneOut) (was : Bool) (k : Nat) : Bool :=
  (if k < n then new k else none).elim was Prod.snd

theorem granAfter_eq_any (was : Bool) (g : Nat) : granAfter w n new was g =
    (upFrom (256 * g / w) ((256 * g + 255) / w + 1 - 256 * g / w)).any (lanePoisAfter n new was) := by
  unfold granAfter
  refine congrArg _ (funext fun k => ?_)
  rw [lanePoisAfter]
  cases (if k < n then new k else none) <;> rfl

/-- A granule is poison afterwards where one of its lanes leaves poison in it. -/
theorem granAfter_iff (hw : IsElementWidth w) (was : Bool) (g : Nat) : granAfter w n new was g = true ↔
    ∃ k, 256 * g ≤ w * k ∧ w * k < 256 * (g + 1) ∧ lanePoisAfter n new was k = true := by
  have hrange (k : Nat) : k ∈ upFrom (256 * g / w) ((256 * g + 255) / w + 1 - 256 * g / w) ↔
      256 * g ≤ w * k ∧ w * k < 256 * (g + 1) := by
    rw [mem_upFrom_iff]
    rcases hw with rfl | rfl | rfl | rfl <;> omega
  rw [granAfter_eq_any, List.any_eq_true]
  exact exists_congr fun k => by rw [hrange, and_assoc]

end

end Sys2Proof.Machine
end

section
/-! PROOFS. Element-wise results (R125 to R127, R140): the elements, sources and formats of a vector instruction as the
statements name them, and an element-wise result under the destination rule. -/
namespace Sys2Proof.Machine

/-! ## Widths (R121 to R123) -/

theorem Prog.isElementWidth_ew (p : Prog) : IsElementWidth p.ew := by
  have hlt : fld p.vtype 0 2 < 4 := Nat.mod_lt _ (by decide)
  unfold IsElementWidth Prog.ew
  interval_cases fld p.vtype 0 2 <;> decide

/-- The format of a floating-point instruction is as wide as an element (R121). -/
theorem Prog.width_of_fpFmt {p : Prog} {f : Fmt} (h : p.fpFmt = some f) : f.width = p.ew := by
  unfold Prog.fpFmt at h
  split at h
  · split at h
    · next hcond =>
      obtain rfl := Option.some.inj h
      simp only [Bool.and_eq_true, beq_iff_eq] at hcond
      exact hcond.2
    · cases h
  · cases h

end Sys2Proof.Machine

namespace Sys2Proof.Claims
open Sys2Proof Sys2Proof.Machine

/-- The elements below VL lie in one register. -/
theorem VReady.ew_mul_vl_le {s : State} {u : VUnit} {p : Prog} {i : Instr} (h : VReady s u p i) : p.ew * p.vl ≤ 8192 := by
  obtain ⟨-, -, hvl⟩ := h
  exact (Nat.mul_le_mul_left _ hvl).trans (Nat.mul_div_le 8192 p.ew)

/-! ## Elements -/

/-- An element that lies in one register is the lane of that register. -/
theorem toNat_el {w k : Nat} (p : Prog) (i : Nat) (h : w * (k + 1) ≤ 8192) : (el p i w k).toNat = lane w (p.vr i) k := by
  have hlow : w * k < 8192 := by
    rcases Nat.eq_zero_or_pos w with rfl | hw
    · simp
    · rw [Nat.mul_succ] at h; omega
  rw [el, Nat.div_eq_of_lt hlow, Nat.mod_eq_of_lt hlow, Nat.add_zero, BitVec.extractLsb'_toNat, Nat.shiftRight_eq_div_pow]
  rfl

/-- The element `k` of `w` bits of a register that holds `n` of them lies in it. -/
theorem element_end_le {w n k : Nat} (hn : w * n ≤ 8192) (hk : k < n) : w * (k + 1) ≤ 8192 :=
  (Nat.mul_le_mul_left w hk).trans hn

theorem signed_lane {w k : Nat} (p : Prog) (i : Nat) (h : w * (k + 1) ≤ 8192) :
    signed w (lane w (p.vr i) k) = (el p i w k).toInt := by
  rw [← toNat_el p i h, signed_toNat]

theorem src1_eq {w k : Nat} (p : Prog) (o : VFields) (h : w * (k + 1) ≤ 8192) : p.src1 o w k = (srcA p o w k).toNat := by
  unfold Prog.src1 srcA
  split
  · exact (BitVec.toNat_setWidth w _).symm
  · exact (toNat_el p o.a h).symm

theorem fsrc1_eq {f : Fmt} {k : Nat} (p : Prog) (o : VFields) (h : f.width * (k + 1) ≤ 8192) :
    p.fsrc1 o f k = fbitsA p o f k := by
  unfold Prog.fsrc1 fbitsA
  split
  · rfl
  · exact (toNat_el p o.a h).symm

theorem decodeNum_lane {f : Fmt} {k : Nat} (p : Prog) (i : Nat) (h : f.width * (k + 1) ≤ 8192) :
    decodeNum f (lane f.width (p.vr i) k) = fel p f i k := by
  rw [fel, toNat_el p i h]

@[simp] theorem lanePois_eq (p : Prog) (i w k : Nat) : p.lanePois i w k = poisEl p i w k := rfl
@[simp] theorem src1Pois_eq (p : Prog) (o : VFields) (w k : Nat) : p.src1Pois o w k = poisA p o w k := rfl

/-! ## Active elements and the destination rule (R125, R126) -/

theorem active_iff {p : Prog} {o : VFields} {k : Nat} : p.active o.msk k = true ↔ Act p o k := by
  simp only [Prog.active, Act, bit, Bool.and_eq_true, Bool.or_eq_true, decide_eq_true_eq, beq_iff_eq,
    Fin.val_eq_zero_iff]

section
variable {p : Prog} {o : VFields} {k : Nat} (x : Nat × Bool)

theorem dest_of_act (h : Act p o k) : p.dest o k x = some x := if_pos (active_iff.2 h)

theorem dest_of_zeroed (hact : ¬ Act p o k) (hk : k < p.vl) (hz : o.z = true) : p.dest o k x = some (0, false) := by
  rw [Prog.dest, if_neg (mt active_iff.1 hact), hz, if_pos (by simpa using hk)]

theorem dest_of_left (hact : ¬ Act p o k) (hz : o.z = false) : p.dest o k x = none := by
  rw [Prog.dest, if_neg (mt active_iff.1 hact), hz, if_neg (by simp)]

end

/-! ## Element-wise results -/

/-- Every granule holds a lane. -/
theorem exists_lane_of_granule {w : Nat} (hw : IsElementWidth w) (g : Nat) :
    ∃ k, 256 * g ≤ w * k ∧ w * k < 256 * (g + 1) := by
  refine ⟨256 * g / w, ?_, ?_⟩ <;> rcases hw with rfl | rfl | rfl | rfl <;> omega

section
variable {p : Prog} {o : VFields} {w : Nat} {out : Nat → Nat × Bool}

/-- With VL = 0 nothing is written. -/
theorem Written.of_vl_zero (hw : IsElementWidth w) (hvl : p.vl = 0) (f : Nat → Nat) (pois : Nat → Bool) :
    Written p p o w 1 p.vl f pois := by
  refine ⟨fun k _ => ⟨by omega, by omega, fun _ => rfl⟩, fun _ _ => ⟨rfl, fun _ _ => rfl⟩, fun g _ => ?_, rfl⟩
  constructor
  · intro hg
    obtain ⟨k, hlo, hhi⟩ := exists_lane_of_granule hw g
    exact ⟨k, hlo, hhi, .inr ⟨.inl (by omega), hg⟩⟩
  · rintro ⟨k, -, -, ⟨-, hk, -⟩ | ⟨-, hg⟩⟩
    · omega
    · exact hg

/-- What lane `k` leaves in its granule's poison: that of its sources where it is written, and the granule's own where it is
left. -/
theorem lanePoisAfter_dest_iff (was : Bool) (k : Nat) :
    lanePoisAfter p.vl (fun k => p.dest o k (out k)) was k = true ↔
      Act p o k ∧ k < p.vl ∧ (out k).2 = true ∨ (p.vl ≤ k ∨ ¬ Act p o k ∧ o.z = false) ∧ was = true := by
  unfold lanePoisAfter
  by_cases hlt : k < p.vl
  · rw [if_pos hlt]
    by_cases hact : Act p o k
    · simp [dest_of_act _ hact, hact, hlt]
    · cases hz : o.z with
      | true => simp [dest_of_zeroed _ hact hlt hz, hact, hlt]
      | false => simp [dest_of_left _ hact hz, hact]
  · simp [hlt, Nat.not_lt.1 hlt]

variable (hn : w * p.vl ≤ 8192)
include hn

/-- The elements of vd after an element-wise result. -/
theorem elementwise_el {k : Nat} (hk : w * (k + 1) ≤ 8192) :
    (Act p o k → (el (p.elementwise o w out) o.d w k).toNat = (out k).1 % 2 ^ w) ∧
    (¬ Act p o k → k < p.vl → o.z = true → el (p.elementwise o w out) o.d w k = 0) ∧
    ((p.vl ≤ k ∨ ¬ Act p o k ∧ o.z = false) → el (p.elementwise o w out) o.d w k = el p o.d w k) := by
  have hel : (el (p.elementwise o w out) o.d w k).toNat = if k < p.vl then
      laneAfter w (lane w (p.vr o.d)) (fun k => p.dest o k (out k)) k else lane w (p.vr o.d) k :=
    (toNat_el _ _ hk).trans (p.lane_writeLanes o.d _ hn k)
  refine ⟨fun hact => ?_, fun hact hlt hz => ?_, fun hleft => BitVec.eq_of_toNat_eq ?_⟩
  · rw [hel, if_pos hact.1, laneAfter, dest_of_act _ hact, Option.elim_some]
  · refine BitVec.eq_of_toNat_eq ?_
    rw [hel, if_pos hlt, laneAfter, dest_of_zeroed _ hact hlt hz, Option.elim_some, Nat.zero_mod]
    rfl
  · rw [hel, toNat_el p o.d hk]
    split
    · next hlt =>
      obtain ⟨hact, hz⟩ := hleft.resolve_left (Nat.not_le.2 hlt)
      rw [laneAfter, dest_of_left _ hact hz, Option.elim_none]
    · rfl

/-- The poison of vd after an element-wise result (R140). -/
theorem elementwise_granPois_iff (hw : IsElementWidth w) {g : Nat} (hg : g < 32) :
    (p.elementwise o w out).granPois o.d g = true ↔ ∃ k, 256 * g ≤ w * k ∧ w * k < 256 * (g + 1) ∧
      (Act p o k ∧ k < p.vl ∧ (out k).2 = true ∨ (p.vl ≤ k ∨ ¬ Act p o k ∧ o.z = false) ∧ p.granPois o.d g = true) := by
  rw [Prog.elementwise, p.granPois_writeLanes o.d _ hn hg]
  split
  · rw [granAfter_iff _ hw]
    exact exists_congr fun k => by rw [lanePoisAfter_dest_iff]
  · next hbeyond =>
    have hleft {k : Nat} (hk : 256 * g ≤ w * k) : p.vl ≤ k :=
      Nat.le_of_mul_le_mul_left ((Nat.not_lt.1 hbeyond).trans hk) hw.pos
    constructor
    · intro hwas
      obtain ⟨k, hlo, hhi⟩ := exists_lane_of_granule hw g
      exact ⟨k, hlo, hhi, .inr ⟨.inl (hleft hlo), hwas⟩⟩
    · rintro ⟨k, hlo, -, ⟨-, hk, -⟩ | ⟨-, hwas⟩⟩
      · exact absurd hk (Nat.not_lt.2 (hleft hlo))
      · exact hwas

/-- An element-wise result is written under the destination rule (R126), with its poison (R140). -/
theorem elementwise_written (hw : IsElementWidth w) {f : Nat → Nat} {pois : Nat → Bool}
    (hout : ∀ k, Act p o k → out k = (f k, pois k)) : Written p (p.elementwise o w out) o w 1 p.vl f pois := by
  refine ⟨fun k hk => ?_, fun i hi => ⟨?_, fun g hg => ?_⟩, fun g hg => ?_, p.writeLanes_frame o.d _ hn⟩
  · obtain ⟨hact, hzero, hleft⟩ := elementwise_el (out := out) (o := o) hn hk
    exact ⟨fun h _ => by rw [hact h, hout k h], hzero, hleft⟩
  · exact p.vr_writeLanes_other o.d _ hn (by omega)
  · exact p.granPois_writeLanes_other o.d _ hn (by omega) hg
  · rw [elementwise_granPois_iff hn hw hg]
    exact exists_congr fun k => and_congr_right fun _ => and_congr_right fun _ =>
      or_congr_left (and_congr_right fun h => by rw [hout k h])

/-- What an element-wise instruction leaves, which does nothing with VL = 0 (R127). -/
theorem elementwise_or_empty_written (hw : IsElementWidth w) {f : Nat → Nat} {pois : Nat → Bool}
    (hout : ∀ k, Act p o k → out k = (f k, pois k)) :
    Written p (if p.vl = 0 then p else p.elementwise o w out) o w 1 p.vl f pois := by
  split
  · next hvl => exact Written.of_vl_zero hw hvl f pois
  · exact elementwise_written hn hw hout

end

end Sys2Proof.Claims
end

section
/-! PROOFS. Floating-point arithmetic and dot products of the vector engine (R81, R129, R132). -/
namespace Sys2Proof.Proofs
open Sys2Proof Sys2Proof.Machine Sys2Proof.Claims

/-! ## Element-wise floating-point arithmetic -/

section
variable {s : State} {u : VUnit} {p : Prog} {i : Instr} {o : VFields}

/-- An element-wise instruction of a ready program under a valid format writes its results to vd. -/
theorem exec_vfp_elementwise (h : VReady s u p i) {fmt : Fmt} (hfmt : p.fpFmt = some fmt) {maj fn : Nat} {ok : Bool}
    (hok : ok = true) {body : State → Prog → Fmt → IRes}
    (hexec : exec i s = .next (s.issue u i fun s => s.vfp u maj fn ok body)) {out : Nat → Nat × Bool}
    (hbody : body s p fmt = .done s (p.elementwise o fmt.width out)) {f : Nat → Nat} {pois : Nat → Bool}
    (hout : ∀ k, Act p o k → fmt.width * (k + 1) ≤ 8192 → out k = (f k, pois k)) :
    ∃ t p1, exec i s = .next t ∧ Written p p1 o fmt.width 1 p.vl f pois ∧ InRegisters s t u p p1 (p.pc + 4) := by
  have hwidth := Prog.width_of_fpFmt hfmt
  have hn : fmt.width * p.vl ≤ 8192 := hwidth ▸ h.ew_mul_vl_le
  exact h.1.exec_completed hexec (h.vfp_id hok hfmt hbody)
    (elementwise_or_empty_written hn (hwidth ▸ p.isElementWidth_ew) fun k hk => hout k hk (element_end_le hn hk.1))

end

/-- The commands of the floating-point arithmetic are `State.vfloat` with the sources and the results of `vfOps`. -/
theorem vfOps_exec : ∀ e ∈ vfOps, ∃ fn, ∀ (u : VUnit) (o : VFields) (s : State),
    exec (e.1 u o) s = .next (s.issue u (e.1 u o) fun s => s.vfloat u fn o e.2.1 e.2.2) := by
  simp only [vfOps, List.forall_mem_cons]
  exact ⟨⟨0x00, fun _ _ _ => rfl⟩, ⟨0x01, fun _ _ _ => rfl⟩, ⟨0x02, fun _ _ _ => rfl⟩, ⟨0x03, fun _ _ _ => rfl⟩,
    ⟨0x04, fun _ _ _ => rfl⟩, ⟨0x05, fun _ _ _ => rfl⟩, ⟨0x06, fun _ _ _ => rfl⟩, ⟨0x07, fun _ _ _ => rfl⟩,
    List.forall_mem_nil _⟩

theorem vectorFloatArithmetic : Parts.VectorFloatArithmetic := by
  intro e he u o s p f h hm1 hfmt
  obtain ⟨fn, hexec⟩ := vfOps_exec e he
  refine exec_vfp_elementwise h hfmt (by simp [hm1]) (hexec u o s) rfl fun k _ hk => ?_
  simp only [decodeNum_lane p _ hk, fsrc1_eq p o hk, lanePois_eq, src1Pois_eq]

/-! ## The dot product of signed bytes -/

/-- The product of bytes `i` of v`b` and v`a`, in 32 bits. -/
def byteProduct (p : Prog) (b a i : Nat) : BitVec 32 := (el p b 8 i).signExtend 32 * (el p a 8 i).signExtend 32

/-- What VDOT4 leaves in element `k` of v`d` (R132). -/
def dot4 (p : Prog) (b a d k : Nat) : BitVec 32 :=
  el p d 32 k + byteProduct p b a (4 * k) + byteProduct p b a (4 * k + 1) + byteProduct p b a (4 * k + 2) +
    byteProduct p b a (4 * k + 3)

theorem ofInt_signed_mul_signed (p : Prog) (b a : Nat) {i : Nat} (hi : 8 * (i + 1) ≤ 8192) :
    BitVec.ofInt 32 (signed 8 (lane 8 (p.vr b) i) * signed 8 (lane 8 (p.vr a) i)) = byteProduct p b a i := by
  rw [signed_lane p b hi, signed_lane p a hi, BitVec.ofInt_mul]
  rfl

/-- The exact sum of VDOT4 modulo 2^32 is the sum in 32 bits. -/
theorem unsigned_dot4 (p : Prog) (b a d : Nat) {k : Nat} (hk : 32 * (k + 1) ≤ 8192) :
    unsigned 32 ((upFrom (4 * k) 4).foldl
      (fun (acc : Int) i => acc + signed 8 (lane 8 (p.vr b) i) * signed 8 (lane 8 (p.vr a) i)) (lane 32 (p.vr d) k)) =
    (dot4 p b a d k).toNat := by
  have hacc : BitVec.ofInt 32 (lane 32 (p.vr d) k) = el p d 32 k := by
    rw [← toNat_el p d hk, BitVec.ofInt_natCast, BitVec.ofNat_toNat, BitVec.setWidth_eq]
  simp only [← toNat_ofInt_eq_unsigned, upFrom, List.foldl_cons, List.foldl_nil, BitVec.ofInt_add, hacc]
  rw [ofInt_signed_mul_signed p b a (by omega), ofInt_signed_mul_signed p b a (by omega),
    ofInt_signed_mul_signed p b a (by omega), ofInt_signed_mul_signed p b a (by omega), dot4]

theorem exec_vdot4 {s : State} {u : VUnit} {p : Prog} {o : VFields} (h : VReady s u p (.vdot4 u o)) (hm1 : o.m1 = false)
    (hsc : o.sc = false) (hew : p.ew = 32) : ∃ t p1, exec (.vdot4 u o) s = .next t ∧
      Written p p1 o 32 1 p.vl (fun k => (dot4 p o.b o.a o.d k).toNat)
        (fun k => poisEl p o.b 32 k || poisEl p o.a 32 k || poisEl p o.d 32 k) ∧
      InRegisters s t u p p1 (p.pc + 4) := by
  have hn : 32 * p.vl ≤ 8192 := hew ▸ h.ew_mul_vl_le
  refine h.1.exec_completed rfl (h.vinstr_id (by simp [hm1, hsc]) (need_of_true (by simp [hew]) _ _))
    (elementwise_or_empty_written hn (hew ▸ p.isElementWidth_ew) fun k hk => ?_)
  exact Prod.ext (unsigned_dot4 p o.b o.a o.d (element_end_le hn hk.1)) rfl

/-! ## The dot products of narrow floats -/

theorem foldl_products {f g : Fmt} (p : Prog) (b a k : Nat) (init : Machine.Num) {n : Nat}
    (hf : f.width * (k + n) ≤ 8192) (hg : g.width * (k + n) ≤ 8192) :
    (upFrom k n).foldl (fun (acc : Machine.Num) i =>
      acc.add ((decodeNum f (lane f.width (p.vr b) i)).mul (decodeNum g (lane g.width (p.vr a) i)))) init =
    dotSum p f g b a k init n := by
  induction n with
  | zero => rfl
  | succ n ih =>
    have hf' := (Nat.mul_le_mul_left f.width (Nat.le_succ (k + n))).trans hf
    have hg' := (Nat.mul_le_mul_left g.width (Nat.le_succ (k + n))).trans hg
    rw [upFrom_succ_last, List.foldl_append, ih hf' hg', List.foldl_cons, List.foldl_nil, decodeNum_lane p b (k := k + n) hf,
      decodeNum_lane p a (k := k + n) hg, dotSum]

theorem exec_vfdot {s : State} {u : VUnit} {p : Prog} {i : Instr} {o : VFields} (h : VReady s u p i)
    (hfmt : p.fpFmt = some .b32) (hsc : o.sc = false) {fn n : Nat} {f g : Fmt} (hf : f.width * n = 32)
    (hg : g.width * n = 32) (hexec : exec i s = .next (s.issue u i fun s => s.vfdot u fn o n f g)) :
    ∃ t p1, exec i s = .next t ∧ Written p p1 o 32 1 p.vl
        (fun k => (p.roundEl .b32 k (dotSum p f g o.b o.a (n * k) (fel p .b32 o.d k) n)).1)
        (fun k => poisEl p o.b 32 k || poisEl p o.a 32 k || poisEl p o.d 32 k) ∧
      InRegisters s t u p p1 (p.pc + 4) := by
  refine exec_vfp_elementwise h hfmt (by simp [hsc]) hexec (need_of_true rfl _ _) fun k _ hk => ?_
  have hbound {w : Nat} (hw : w * n = 32) : w * (n * k + n) ≤ 8192 := by
    rw [← Nat.mul_succ, ← Nat.mul_assoc, hw]
    exact hk
  dsimp only
  rw [foldl_products p o.b o.a (n * k) _ (hbound hf) (hbound hg), ← decodeNum_lane p o.d hk]
  rfl

theorem vectorDotProducts : Parts.VectorDotProducts := by
  refine ⟨fun u o s p h hm1 hsc hew => exec_vdot4 h hm1 hsc hew, fun u alt o s p hsc hfmt => ⟨fun h => ?_, fun h => ?_⟩⟩
  · exact exec_vfdot h hfmt hsc (by split <;> rfl) (by split <;> rfl) rfl
  · exact exec_vfdot h hfmt hsc (by split <;> rfl) (by split <;> rfl) rfl

/-- Settles O8: each floating-point instruction is an element-wise result whose lanes are the exact values of the statement
rounded once, and the dot products are sums over the narrow lanes of one wide element. -/
theorem vectorFloat : Obligations.VectorFloat := ⟨vectorFloatArithmetic, vectorDotProducts⟩

end Sys2Proof.Proofs
end

section
/-! PROOFS. Writes of mask registers under the destination rule (R126), and of x registers (R176). -/
namespace Sys2Proof.Machine

/-! ## The number that bits make -/

section
variable (bits : Nat → Bool) (n : Nat)

theorem foldr_bits_succ : (List.range (n + 1)).foldr (fun k a => bnat (bits k) + 2 * a) 0 =
    bnat (bits 0) + 2 * (List.range n).foldr (fun k a => bnat (bits (k + 1)) + 2 * a) 0 := by
  rw [List.range_succ_eq_map, List.foldr_cons, List.foldr_map]

theorem foldr_bits_lt : (List.range n).foldr (fun k a => bnat (bits k) + 2 * a) 0 < 2 ^ n := by
  induction n generalizing bits with
  | zero => exact Nat.one_pos
  | succ n ih =>
    have hbit : bnat (bits 0) ≤ 1 := by cases bits 0 <;> decide
    have hrest := ih fun k => bits (k + 1)
    rw [foldr_bits_succ, Nat.pow_succ]
    omega

theorem testBit_foldr_bits {i : Nat} (hi : i < n) :
    ((List.range n).foldr (fun k a => bnat (bits k) + 2 * a) 0).testBit i = bits i := by
  induction n generalizing bits i with
  | zero => omega
  | succ n ih =>
    rw [foldr_bits_succ]
    cases i with
    | zero => cases bits 0 <;> simp [bnat, Nat.testBit_zero]
    | succ i =>
      have hhalf (a : Nat) : (bnat (bits 0) + 2 * a) / 2 = a := by unfold bnat; split <;> omega
      rw [Nat.testBit_succ, hhalf, ih (fun k => bits (k + 1)) (by omega)]

end

/-! ## A mask register after a write -/

/-- The bit that the destination rule (R126) gives to element `k` below VL of a mask. -/
def Prog.maskBit (p : Prog) (d : Nat) (o : VFields) (f : Nat → Bool) (k : Nat) : Bool :=
  if p.active o.msk k then f k else if o.z then false else bit (p.mr d) k

theorem Prog.getLsbD_writeMask (p : Prog) (d : Nat) (o : VFields) (f : Nat → Bool) {k : Nat} (hk : k < 1024) :
    ((p.writeMask d o f).mr d).getLsbD k = if k < p.vl then p.maskBit d o f k else (p.mr d).getLsbD k := by
  have hlow := foldr_bits_lt (p.maskBit d o f) p.vl
  have hnum : (p.writeMask d o f).mr d = BitVec.ofNat 1024 (2 ^ p.vl * ((p.mr d).toNat / 2 ^ p.vl) +
      (List.range p.vl).foldr (fun k a => bnat (p.maskBit d o f k) + 2 * a) 0) := by
    rw [Nat.mul_comm, Nat.add_comm]
    exact p.mr_setM_same d _
  rw [hnum, BitVec.getLsbD_ofNat, decide_eq_true hk, Bool.true_and, Nat.testBit_two_pow_mul_add _ hlow]
  split
  · next hlt => exact testBit_foldr_bits _ _ hlt
  · next hge => rw [Nat.testBit_div_two_pow, Nat.sub_add_cancel (Nat.not_lt.1 hge), BitVec.getLsbD]

theorem Prog.mr_writeMask_other (p : Prog) {d i : Nat} (o : VFields) (f : Nat → Bool) (hi : i ≠ d) :
    (p.writeMask d o f).mr i = p.mr i := p.mr_setM_other _ hi

end Sys2Proof.Machine

namespace Sys2Proof.Claims
open Sys2Proof Sys2Proof.Machine

/-! ## Masks and x registers as the statements name them -/

section
variable {p : Prog} {o : VFields} {f g : Nat → Bool}

theorem writeMask_written (h : ∀ k, Act p o k → f k = g k) : MaskWritten p (p.writeMask o.d o f) o g := by
  refine ⟨fun k hk => ?_, fun i hi => p.mr_writeMask_other o f hi, rfl⟩
  rw [p.getLsbD_writeMask o.d o f hk, Prog.maskBit]
  refine ⟨fun hact => ?_, fun hact hlt hz => ?_, fun hleft => ?_⟩
  · rw [if_pos hact.1, if_pos (active_iff.2 hact), h k hact]
  · rw [if_pos hlt, if_neg (mt active_iff.1 hact), if_pos hz]
  · split
    · next hlt =>
      obtain ⟨hact, hz⟩ := hleft.resolve_left (Nat.not_le.2 hlt)
      rw [if_neg (mt active_iff.1 hact), hz]
      rfl
    · rfl

/-- What an instruction to a mask leaves, which does nothing with VL = 0 (R127). -/
theorem writeMask_or_empty_written (h : ∀ k, Act p o k → f k = g k) :
    MaskWritten p (if p.vl = 0 then p else p.writeMask o.d o f) o g := by
  split
  · next hvl =>
    exact ⟨fun k _ => ⟨fun hact => absurd hact.1 (by omega), fun _ hlt => absurd hlt (by omega), fun _ => rfl⟩,
      fun _ _ => rfl, rfl⟩
  · exact writeMask_written h

end

theorem setX_written (p : Prog) (xd : Fin 32) (v : W64) : XWritten p (p.setX xd v) xd v := by
  refine ⟨fun i => ?_, p.setX_frame xd v⟩
  split
  · next h =>
    obtain ⟨rfl, hne⟩ := h
    exact p.xr_setX_same i v (by simpa using hne)
  · next h =>
    by_cases hi : i = xd
    · have hzero : xd = 0 := by simpa [hi] using h
      rw [hzero]
      rfl
    · exact p.xr_setX_other v (by simpa [Fin.ext_iff] using hi)

end Sys2Proof.Claims
end

section
/-! PROOFS. Compares and mask instructions of the vector engine (R80, R126, R140, R143, R158). -/
namespace Sys2Proof.Proofs
open Sys2Proof Sys2Proof.Machine Sys2Proof.Claims

section
variable {s : State} {u : VUnit} {p : Prog} {i : Instr} {o : VFields}

/-! ## Compares -/

/-- A compare none of whose active elements draws on poison completes (R140). -/
theorem compare_done {w : Nat} (hclean : ∀ k, Act p o k → poisEl p o.b w k = false ∧ poisA p o w k = false) (s : State)
    (f : Nat → Bool) : p.compare s o w f = .done s (p.writeMask o.d o f) := by
  have hnone : ((p.actives o.msk).any fun k => p.lanePois o.b w k || p.src1Pois o w k) = false := by
    refine List.any_eq_false.2 fun k hk => ?_
    obtain ⟨hb, ha⟩ := hclean k (active_iff.1 (List.mem_filter.1 hk).2)
    simp [hb, ha]
  rw [Prog.compare, hnone]
  rfl

theorem exec_vicmp (h : VReady s u p i) (hm1 : o.m1 = false) (hd : o.d.val < 8) {fn : Nat} {f : Nat → Nat → Nat → Bool}
    (hexec : exec i s = .next (s.issue u i fun s => s.vicmp u fn o f))
    (hclean : ∀ k, Act p o k → poisEl p o.b p.ew k = false ∧ poisA p o p.ew k = false) :
    ∃ t p1, exec i s = .next t ∧
      MaskWritten p p1 o (fun k => f p.ew (el p o.b p.ew k).toNat (srcA p o p.ew k).toNat) ∧
      InRegisters s t u p p1 (p.pc + 4) := by
  refine h.1.exec_completed hexec (h.vinstr_id (by simp [hm1, hd]) (compare_done hclean _ _))
    (writeMask_or_empty_written fun k hact => ?_)
  have hk := element_end_le h.ew_mul_vl_le hact.1
  rw [toNat_el p o.b hk, src1_eq p o hk]

theorem exec_vfcmp (h : VReady s u p i) (hm1 : o.m1 = false) (hd : o.d.val < 8) {fmt : Fmt} (hfmt : p.fpFmt = some fmt)
    {fn : Nat} {f : Machine.Num → Machine.Num → Bool}
    (hexec : exec i s = .next (s.issue u i fun s => s.vfcmp u fn o f))
    (hclean : ∀ k, Act p o k → poisEl p o.b fmt.width k = false ∧ poisA p o fmt.width k = false) :
    ∃ t p1, exec i s = .next t ∧ MaskWritten p p1 o (fun k => f (fel p fmt o.b k) (decodeNum fmt (fbitsA p o fmt k))) ∧
      InRegisters s t u p p1 (p.pc + 4) := by
  refine h.1.exec_completed hexec (h.vfp_id (by simp [hm1, hd]) hfmt (compare_done hclean _ _))
    (writeMask_or_empty_written fun k hact => ?_)
  have hk : fmt.width * (k + 1) ≤ 8192 := Prog.width_of_fpFmt hfmt ▸ element_end_le h.ew_mul_vl_le hact.1
  rw [decodeNum_lane p o.b hk, fsrc1_eq p o hk]

/-! ## Mask instructions (R143) -/

theorem exec_vmask (h : VReady s u p i) (hm1 : o.m1 = false) (hd : o.d.val < 8) (ha : o.a.val < 8) (hb : o.b.val < 8)
    {fn : Nat} {ok : Bool} (hok : ok = true) {f : Bool → Bool → Bool}
    (hexec : exec i s = .next (s.issue u i fun s => s.vmask u fn o ok f)) : ∃ t p1, exec i s = .next t ∧
      MaskWritten p p1 o (fun k => f ((p.mr o.a).getLsbD k) ((p.mr o.b).getLsbD k)) ∧
      InRegisters s t u p p1 (p.pc + 4) :=
  h.1.exec_completed hexec (h.vinstr_id (by simp [hm1, hd, ha, hb, hok]) rfl)
    (writeMask_or_empty_written fun _ _ => rfl)

theorem setBits_eq_setActive (p : Prog) (o : VFields) : p.setBits o = setActive p o := by
  rw [Prog.setBits, Prog.actives, List.filter_filter, setActive]
  refine List.filter_congr fun k hk => ?_
  have hmsk : (o.msk.val == 0) = (o.msk == 0) := Bool.eq_iff_iff.2 (by simp)
  rw [Prog.active, decide_eq_true (List.mem_range.1 hk), Bool.true_and, hmsk, Bool.and_comm]
  rfl

theorem setActive_of_vl_zero (hvl : p.vl = 0) : setActive p o = [] := by
  rw [setActive, hvl]
  rfl

/-- An instruction that writes to xd a value of the active set bits of mA: with VL = 0 there are none. -/
theorem exec_setBits (h : VReady s u p i) (hm1 : o.m1 = false) (hz : o.z = false) (ha : o.a.val < 8) (hb : o.b = 0)
    {fn : Nat} {val : List Nat → W64}
    (hexec : exec i s = .next (s.issue u i fun s =>
      s.vinstr u 0x36 fn (!o.m1 && !o.z && o.b == 0 && decide (o.a.val < 8)) (fun p => p.setX o.d (val []))
        fun s p => .done s (p.setX o.d (val (p.setBits o))))) :
    ∃ t p1, exec i s = .next t ∧ XWritten p p1 o.d (val (setActive p o)) ∧ InRegisters s t u p p1 (p.pc + 4) :=
  h.1.exec_completed hexec (h.vinstr_done (by simp [hm1, hz, ha, hb]) (fun hvl => by rw [setActive_of_vl_zero hvl])
    fun _ => by rw [setBits_eq_setActive]) (setX_written p o.d _)

/-- What VKLEAD gives for a list of indices: the first, or all ones where there is none. -/
def leadIndex (l : List Nat) : W64 :=
  match l.head? with
  | some k => BitVec.ofNat 64 k
  | none => noIndex

end

/-! ## The commands -/

/-- The commands of the integer compares are `State.vicmp` with the comparisons of `vicmpOps`. -/
theorem vicmpOps_exec : ∀ e ∈ vicmpOps, ∃ fn f, (∀ (u : VUnit) (o : VFields) (s : State),
    exec (e.1 u o) s = .next (s.issue u (e.1 u o) fun s => s.vicmp u fn o f)) ∧
    ∀ w (x y : BitVec w), f w x.toNat y.toNat = e.2 w x y := by
  simp only [vicmpOps, List.forall_mem_cons]
  exact ⟨⟨0x18, _, fun _ _ _ => rfl, fun _ => toNat_beq⟩,
    ⟨0x19, _, fun _ _ _ => rfl, fun _ x y => congrArg (!·) (toNat_beq x y)⟩,
    ⟨0x1A, _, fun _ _ _ => rfl, fun _ _ _ => by simp only [signed_toNat]⟩, ⟨0x1B, _, fun _ _ _ => rfl, fun _ _ _ => rfl⟩,
    ⟨0x1C, _, fun _ _ _ => rfl, fun _ _ _ => by simp only [signed_toNat]⟩, ⟨0x1D, _, fun _ _ _ => rfl, fun _ _ _ => rfl⟩,
    List.forall_mem_nil _⟩

/-- The commands of the floating-point compares are `State.vfcmp` with the comparisons of `vfcmpOps`. -/
theorem vfcmpOps_exec : ∀ e ∈ vfcmpOps, ∃ fn, ∀ (u : VUnit) (o : VFields) (s : State),
    exec (e.1 u o) s = .next (s.issue u (e.1 u o) fun s => s.vfcmp u fn o e.2) := by
  simp only [vfcmpOps, List.forall_mem_cons]
  exact ⟨⟨0x18, fun _ _ _ => rfl⟩, ⟨0x19, fun _ _ _ => rfl⟩, ⟨0x1A, fun _ _ _ => rfl⟩, ⟨0x1B, fun _ _ _ => rfl⟩,
    ⟨0x1C, fun _ _ _ => rfl⟩, List.forall_mem_nil _⟩

/-- The commands of the mask instructions on two masks are `State.vmask` with the operations of `vmaskOps`. -/
theorem vmaskOps_exec : ∀ e ∈ vmaskOps, ∃ fn, ∀ (u : VUnit) (o : VFields) (s : State),
    exec (e.1 u o) s = .next (s.issue u (e.1 u o) fun s => s.vmask u fn o true e.2) := by
  simp only [vmaskOps, List.forall_mem_cons]
  exact ⟨⟨0x00, fun _ _ _ => rfl⟩, ⟨0x01, fun _ _ _ => rfl⟩, ⟨0x02, fun _ _ _ => rfl⟩, ⟨0x03, fun _ _ _ => rfl⟩,
    List.forall_mem_nil _⟩

theorem vectorCompares : Parts.VectorCompares := by
  refine ⟨fun e he u o s p h hm1 hd hclean => ?_, fun e he u o s p f h hm1 hd hfmt hclean => ?_⟩
  · obtain ⟨fn, f, hexec, hf⟩ := vicmpOps_exec e he
    simpa only [hf] using exec_vicmp h hm1 hd (hexec u o s) hclean
  · obtain ⟨fn, hexec⟩ := vfcmpOps_exec e he
    exact exec_vfcmp h hm1 hd hfmt (hexec u o s) hclean

theorem vectorMasks : Parts.VectorMasks := by
  refine ⟨fun e he u o s p h hm1 hd ha hb => ?_, fun u o s p hm1 ha hb =>
    ⟨fun hd h => ?_, fun hz => ⟨fun h => ?_, fun h => ?_⟩⟩⟩
  · obtain ⟨fn, hexec⟩ := vmaskOps_exec e he
    exact exec_vmask h hm1 hd ha hb rfl (hexec u o s)
  · exact exec_vmask (f := fun a _ => !a) h hm1 hd ha (by simp [hb]) (ok := o.b == 0) (by simp [hb]) rfl
  · exact exec_setBits (val := fun l => BitVec.ofNat 64 l.length) h hm1 hz ha hb rfl
  · exact exec_setBits (val := leadIndex) h hm1 hz ha hb rfl

/-- Settles O11: each compare and each operation on masks writes its bits under the destination rule, and VKCOUNT and VKLEAD
read the active set bits in rising order. -/
theorem vectorMasksAndCompares : Obligations.VectorMasksAndCompares := ⟨vectorCompares, vectorMasks⟩

end Sys2Proof.Proofs
end

section
/-! PROOFS. Anchored accumulation (R88, R89): the terms add in any order, and a sum starts from any sum before it. -/
namespace Sys2Proof.Machine
open Sys2Proof.Claims

/-- Two terms may be added in either order: the integers and the counts add, and the class bits join. -/
theorem AccSum.add_right_comm (w : Int) (a : AccSum) (x y : Num) : (a.add w x).add w y = (a.add w y).add w x := by
  simp only [AccSum.add, AccSum.mk.injEq]
  exact ⟨Int.add_right_comm _ _ _, Nat.or_right_comm _ _ _, Nat.add_right_comm _ _ _⟩

/-- The integer of a sum that goes on from `a`. -/
theorem acc_foldl_add (w : Int) (l : List Num) (a : AccSum) :
    (l.foldl (AccSum.add w) a).acc = a.acc + (accOf w l).acc := by
  induction l generalizing a with
  | nil => simp [accOf]
  | cons x l ih => rw [accOf, List.foldl_cons, List.foldl_cons, ih, ih]; simp only [AccSum.add]; omega

/-- The class bits of a sum that goes on from `a`. -/
theorem cls_foldl_add (w : Int) (l : List Num) (a : AccSum) :
    (l.foldl (AccSum.add w) a).cls = a.cls ||| (accOf w l).cls := by
  induction l generalizing a with
  | nil => simp [accOf]
  | cons x l ih => rw [accOf, List.foldl_cons, List.foldl_cons, ih, ih]; simp only [AccSum.add, Nat.zero_or, Nat.or_assoc]

theorem accOf_perm (w : Int) {l l' : List Num} (h : l.Perm l') : accOf w l = accOf w l' :=
  h.foldl_eq' (fun x _ y _ a => a.add_right_comm w x y) _

theorem acc_accOf_append (w : Int) (l l' : List Num) :
    (accOf w (l ++ l')).acc = (accOf w l).acc + (accOf w l').acc := by
  rw [accOf, List.foldl_append, acc_foldl_add]; rfl

theorem cls_accOf_append (w : Int) (l l' : List Num) :
    (accOf w (l ++ l')).cls = (accOf w l).cls ||| (accOf w l').cls := by
  rw [accOf, List.foldl_append, cls_foldl_add]; rfl

/-! ## Combining two anchored partials (R97) -/

/-- Two partials with one anchor and without poison, whose sum lies in 96 bits, combine to the sum of their integers and to
all of their class bits, and no code applies. -/
theorem combineParts_two (a b : Int) (c d : Nat) (ex : Int) (hlo : -2 ^ 95 ≤ a + b) (hhi : a + b < 2 ^ 95) :
    combineParts 16 [⟨a, c, ex, 0, false⟩, ⟨b, d, ex, 0, false⟩] = (⟨a + b, c ||| d, ex, false⟩, 0, 0) := by
  have hfits : ¬ (a + b < -2 ^ 95 ∨ 2 ^ 95 ≤ a + b) := by omega
  have hbad : ([(⟨a, c, ex, 0, false⟩ : Part), ⟨b, d, ex, 0, false⟩].any fun x => x.ex != ex || x.sl != 0) = false := by
    simp
  simp only [combineParts, hbad, List.foldl_cons, List.foldl_nil, Int.zero_add, Nat.zero_or]
  exact if_neg hfits

end Sys2Proof.Machine
end

section
/-! PROOFS. Anchored sums (R88, R97). -/
namespace Sys2Proof.Proofs
open Sys2Proof.Machine Sys2Proof.Claims

/-- Settles O22: terms commute under `AccSum.add`, so that a permutation of them sums to the same; and the sum of `l ++ l'` is
the sum of `l` and that of `l'`, which two partials with one anchor combine to. -/
theorem anchoredSumsExactInAnyOrder : Obligations.AnchoredSumsExactInAnyOrder := by
  refine ⟨fun w l l' h => accOf_perm w h, fun w ex l l' hlo hhi => ?_⟩
  rw [acc_accOf_append] at hlo hhi
  rw [acc_accOf_append, cls_accOf_append]
  exact combineParts_two _ _ _ _ _ hlo hhi

end Sys2Proof.Proofs
end

section
/-! PROOFS. Requests to other nodes (R271 to R283): they change the flows, links and ports, what is outstanding, the counters and
the messages sent, and no part of memory, of the tiles or of the programs. -/
namespace Sys2Proof.Machine

/-! ## Repeating a step -/

/-- Repeating a step that keeps to a reflexive and transitive relation keeps to it. -/
theorem foldl_keeps {α : Type} {R : State → State → Prop} (hrefl : ∀ s, R s s)
    (htrans : ∀ {s t u}, R s t → R t u → R s u) {f : State → α → State} (h : ∀ s a, R s (f s a)) (l : List α)
    (s : State) : R s (l.foldl f s) := by
  induction l generalizing s with
  | nil => exact hrefl s
  | cons a l ih => exact htrans (h s a) (ih _)

/-- The same for a step that also collects what it gives. -/
theorem mapN_keeps {α : Type} {R : State → State → Prop} (hrefl : ∀ s, R s s)
    (htrans : ∀ {s t u}, R s t → R t u → R s u) {f : State → Nat → State × α} (h : ∀ s k, R s (f s k).1) (n k : Nat)
    (s : State) : R s (mapN f n k s).1 := by
  induction n generalizing k s with
  | zero => exact hrefl s
  | succ n ih => exact htrans (h s k) (ih _ _)

/-- What each step gives has a property where every step's answer has it. -/
theorem forall_mem_mapN {α : Type} {P : α → Prop} {f : State → Nat → State × α} (h : ∀ s k, P (f s k).2) (n k : Nat)
    (s : State) : ∀ a ∈ (mapN f n k s).2, P a := by
  induction n generalizing k s with
  | zero => exact List.forall_mem_nil _
  | succ n ih => exact List.forall_mem_cons.2 ⟨h s k, ih _ _⟩

/-! ## Sending requests -/

/-- `t` is `s` but for its registers, its links, ports, flows and messages, what is outstanding, what units' accesses wait for,
and the back-invalidates asked for. -/
def RequestFrame (s t : State) : Prop :=
  t = { s with regs := t.regs, out := t.out, linkTx := t.linkTx, linkBuf := t.linkBuf, unfreed := t.unfreed, arb := t.arb,
               freed := t.freed, portQ := t.portQ, drainQ := t.drainQ, flows := t.flows, nextTag := t.nextTag,
               reqs := t.reqs, reqQ := t.reqQ, outst := t.outst, wroteTo := t.wroteTo, accesses := t.accesses,
               bisnps := t.bisnps, bisnpOut := t.bisnpOut }

theorem RequestFrame.refl (s : State) : RequestFrame s s := rfl

theorem RequestFrame.trans {s t u : State} (h1 : RequestFrame s t) (h2 : RequestFrame t u) : RequestFrame s u := by
  unfold RequestFrame at *
  rw [h2, h1]

theorem RequestFrame.tileQ {s t : State} (h : RequestFrame s t) : t.tileQ = s.tileQ := by rw [h]
theorem RequestFrame.tileRun {s t : State} (h : RequestFrame s t) : t.tileRun = s.tileRun := by rw [h]
theorem RequestFrame.mem {s t : State} (h : RequestFrame s t) : t.mem = s.mem := by rw [h]

theorem State.transmit_frame (s : State) (p : Nat) (f : Flit) : RequestFrame s (s.transmit p f) := rfl

theorem pumpPort_frame (p n : Nat) (s : State) : RequestFrame s (pumpPort p n s) := by
  induction n generalizing s with
  | zero => rfl
  | succ n ih =>
    unfold pumpPort
    split
    · refine .trans ?_ (ih _)
      exact .trans (t := { s with portQ := _ }) rfl (State.transmit_frame _ _ _)
    · rfl

theorem State.toPort_frame (s : State) (p : Nat) (f : Flit) : RequestFrame s (s.toPort p f) := by
  unfold State.toPort
  split
  · exact s.transmit_frame p f
  · exact .trans (t := { s with portQ := _ }) rfl (pumpPort_frame _ _ _)

theorem State.emit_frame (s : State) (f : Flit) : RequestFrame s (s.emit f) := by
  unfold State.emit
  dsimp only
  split_ifs
  · rfl
  · rfl
  · rfl
  · split
    · exact s.toPort_frame _ _
    · rfl

theorem State.issueReq_frame (s : State) (r : Req) (dst typ vc : Nat) (replica : Bool) (addr : Nat) (words : List FWord)
    (trailer : Nat) : RequestFrame s (s.issueReq r dst typ vc replica addr words trailer) :=
  .trans (t := { s with flows := _, nextTag := _, reqs := _ }) rfl (State.emit_frame _ _)

theorem State.owes_frame (s : State) (r : Req) (dst typ : Nat) : RequestFrame s (s.owes r dst typ) := rfl

theorem State.request_frame (s : State) (r : Req) (dst typ vc : Nat) (replica : Bool) (addr : Nat) (words : List FWord)
    (trailer : Nat) : RequestFrame s (s.request r dst typ vc replica addr words trailer) := by
  unfold State.request
  dsimp only
  split
  · exact .trans (s.owes_frame r dst typ) (State.issueReq_frame _ _ _ _ _ _ _ _ _)
  · exact .trans (s.owes_frame r dst typ) rfl

theorem State.askBack_requestFrame (s : State) (line : Nat) (inv : Bool) : RequestFrame s (s.askBack line inv) := by
  unfold State.askBack
  split <;> rfl

theorem State.withAccesses_frame (s : State) (x : List Access) : RequestFrame s { s with accesses := x } := rfl

theorem State.sendAccess_frame (s : State) (e : Access) : RequestFrame s (s.sendAccess e) := by
  unfold State.sendAccess
  dsimp only
  split
  · exact s.request_frame _ _ _ _ _ _ _ _
  · exact s.request_frame _ _ _ _ _ _ _ _
  · exact s.askBack_requestFrame _ _

/-- Asking for what a unit lacks is sending requests. -/
theorem State.issueAccesses_frame (s s1 : State) (r : Req) : RequestFrame s (s.issueAccesses s1 r) := by
  refine foldl_keeps RequestFrame.refl RequestFrame.trans (fun s e => ?_) _ s
  split
  · rfl
  · split
    · exact s.sendAccess_frame e
    · exact (s.withAccesses_frame _).trans (State.sendAccess_frame _ _)

end Sys2Proof.Machine
end

section
/-! PROOFS. The work of a tile task (R83 to R113): its loads, its stores, its reports and its faults change no tile's queue and
no tile's running task. -/
namespace Sys2Proof.Machine

/-- `t` is `s` but for what requests and stores change, the lines of host memory in error, held stores, the counts of monitor
sets, the records of faults, and the blocks that tiles hold. -/
def TileWorkFrame (s t : State) : Prop :=
  t = { s with regs := t.regs, mem := t.mem, poison := t.poison, msixOut := t.msixOut, ibiOut := t.ibiOut,
               memHeld := t.memHeld, bisnps := t.bisnps, bisnpOut := t.bisnpOut, out := t.out, linkTx := t.linkTx,
               linkBuf := t.linkBuf, unfreed := t.unfreed, arb := t.arb, freed := t.freed, portQ := t.portQ,
               drainQ := t.drainQ, flows := t.flows, nextTag := t.nextTag, reqs := t.reqs, reqQ := t.reqQ,
               outst := t.outst, wroteTo := t.wroteTo, accesses := t.accesses, hostErrs := t.hostErrs,
               replHeld := t.replHeld, monNow := t.monNow, faultLog := t.faultLog, lastingRes := t.lastingRes,
               tileHeld := t.tileHeld }

theorem TileWorkFrame.refl (s : State) : TileWorkFrame s s := rfl

theorem TileWorkFrame.trans {s t u : State} (h1 : TileWorkFrame s t) (h2 : TileWorkFrame t u) : TileWorkFrame s u := by
  unfold TileWorkFrame at *
  rw [h2, h1]

theorem StoreFrame.tileWork {s t : State} (h : StoreFrame s t) : TileWorkFrame s t := by
  unfold StoreFrame at h
  unfold TileWorkFrame
  rw [h]

theorem EventFrame.tileWork {s t : State} (h : EventFrame s t) : TileWorkFrame s t := h.store.tileWork

theorem RequestFrame.tileWork {s t : State} (h : RequestFrame s t) : TileWorkFrame s t := by
  unfold RequestFrame at h
  unfold TileWorkFrame
  rw [h]

theorem TileWorkFrame.runOf {s t : State} (h : TileWorkFrame s t) (i : Nat) : t.runOf i = s.runOf i := by rw [h]; rfl

theorem TileWorkFrame.queueOf {s t : State} (h : TileWorkFrame s t) (i : Nat) : t.queueOf i = s.queueOf i := by rw [h]; rfl

theorem TileWorkFrame.foldl {α : Type} {f : State → α → State} (h : ∀ s a, TileWorkFrame s (f s a)) (l : List α)
    (s : State) : TileWorkFrame s (l.foldl f s) := foldl_keeps .refl .trans h l s

theorem TileWorkFrame.mapN {α : Type} {f : State → Nat → State × α} (h : ∀ s k, TileWorkFrame s (f s k).1) (n k : Nat)
    (s : State) : TileWorkFrame s (mapN f n k s).1 := mapN_keeps .refl .trans h n k s

/-! ## Steps that change one field, and events -/

section
variable {s t : State} (h : TileWorkFrame s t)
include h

theorem TileWorkFrame.setReg (o : Nat) (v : W64) : TileWorkFrame s (t.setReg o v) := h.trans rfl
theorem TileWorkFrame.count64 (o k : Nat) : TileWorkFrame s (t.count64 o k) := h.setReg _ _
theorem TileWorkFrame.count32 (o k : Nat) : TileWorkFrame s (t.count32 o k) := h.setReg _ _
theorem TileWorkFrame.setHeld (i : Nat) (b : Option HeldBlock) : TileWorkFrame s (t.setHeld i b) := h.trans rfl
theorem TileWorkFrame.holdStore (r : Req) (ga : Nat) (bs : List Byte) (poison : Bool) :
    TileWorkFrame s (t.holdStore r ga bs poison) := h.trans rfl
theorem TileWorkFrame.withFaultLog (x : Tbl (List Nat)) : TileWorkFrame s { t with faultLog := x } := h.trans rfl
theorem TileWorkFrame.withLastingRes (x : Tbl Bool) : TileWorkFrame s { t with lastingRes := x } := h.trans rfl
theorem TileWorkFrame.withMonNow (x : Tbl (Nat × Nat)) : TileWorkFrame s { t with monNow := x } := h.trans rfl
theorem TileWorkFrame.withHostErrs (x : List Nat) : TileWorkFrame s { t with hostErrs := x } := h.trans rfl
theorem TileWorkFrame.event (blk ev bit : Nat) (unit detail : Option Nat) :
    TileWorkFrame s (t.event blk ev bit unit detail) := h.trans (t.event_frame _ _ _ _ _).tileWork
theorem TileWorkFrame.tnsEv (i b detail : Nat) : TileWorkFrame s (t.tnsEv i b detail) := h.event _ _ _ _ _

end

/-! ## Loads (R24, R137, R322) -/

theorem State.needs_tileWork (s : State) (e : Access) : TileWorkFrame s (s.needs e) := by
  unfold State.needs
  split <;> rfl

theorem State.needOwn_tileWork (s : State) (r : Req) (a n : Nat) (write : Bool) :
    TileWorkFrame s (s.needOwn r a n write) := by
  refine .foldl (fun s g => ?_) _ s
  split
  · exact s.needs_tileWork _
  · rfl

theorem State.remoteLoad_tileWork (s : State) (r : Req) (ga n : Nat) (replica : Bool) :
    TileWorkFrame s (s.remoteLoad r ga n replica) := by
  unfold State.remoteLoad
  split
  · exact (s.addressEvent_frame r ga).tileWork
  · exact .foldl (fun s _ => s.needs_tileWork _) _ s

theorem State.loadEvent_tileWork (s : State) (r : Req) (a n : Nat) : TileWorkFrame s (s.loadEvent r a n) := by
  unfold State.loadEvent
  dsimp only
  split
  · exact (s.addressEvent_frame r _).tileWork
  · have hread := (s.hostBytes_frame 4 a n).tileWork
    split_ifs
    · exact hread
    · exact (hread.withHostErrs _).event _ _ _ _ _
    · exact hread.withHostErrs _

theorem State.loadPartSt_tileWork (r : Req) (s : State) (p : Nat × Nat) : TileWorkFrame s (s.loadPartSt r p) := by
  have hserve (t : State) (ga : Nat) (rep : Bool) : TileWorkFrame t (if t.isLocal ga then
      (t.loadEvent r (devAddr ga) p.2).needOwn r (devAddr ga) p.2 false else t.remoteLoad r ga p.2 rep) := by
    split
    · exact .trans (t.loadEvent_tileWork _ _ _) (State.needOwn_tileWork _ _ _ _ _)
    · exact t.remoteLoad_tileWork _ _ _ _
  unfold State.loadPartSt
  refine .trans ?_ (hserve _ _ _)
  split
  · exact .count64 (.refl s) _ _
  · rfl

theorem State.gloadSt_tileWork (s : State) (r : Req) (ga n : Nat) : TileWorkFrame s (s.gloadSt r ga n) :=
  .foldl (fun s p => s.loadPartSt_tileWork r p) _ s

end Sys2Proof.Machine
end

section
/-! PROOFS. What a tile task reads and writes (R70, R84, R94, R104, R162): each part keeps to the work of a tile task. -/
namespace Sys2Proof.Machine

/-! ## Stores (R24, R286) -/

theorem State.remoteStore_tileWork (s : State) (r : Req) (ga : Nat) (bs : List Byte) (poison : Bool) :
    TileWorkFrame s (s.remoteStore r ga bs poison) := by
  unfold State.remoteStore
  split
  · exact (s.addressEvent_frame r ga).tileWork
  · exact .foldl (fun s _ => (s.request_frame _ _ _ _ _ _ _ _).tileWork) _ s

theorem State.gstoreNow_tileWork (s : State) (r : Req) (ga : Nat) (bs : List Byte) (poison : Bool) :
    TileWorkFrame s (s.gstoreNow r ga bs poison) := by
  unfold State.gstoreNow
  split_ifs
  · exact (s.storePoison_frame _ _ _).tileWork
  · exact (s.store_frame _ _ _).tileWork
  · exact s.remoteStore_tileWork _ _ _ _

theorem State.gstore_tileWork (s : State) (r : Req) (ga : Nat) (bs : List Byte) (poison : Bool) :
    TileWorkFrame s (s.gstore r ga bs poison) := by
  unfold State.gstore
  split_ifs
  · rfl
  · exact .event (.count64 (.setReg (.setReg (.holdStore (.refl s) _ _ _ _) _ _) _ _) _ _) _ _ _ _ _
  · exact .holdStore (.refl s) _ _ _ _
  · exact s.gstoreNow_tileWork _ _ _ _

theorem State.storeElems_tileWork (s : State) (r : Req) (ga w : Nat) (xs : List (Nat × Bool)) :
    TileWorkFrame s (s.storeElems r ga w xs) := by
  unfold State.storeElems
  refine .trans ?_ (.foldl (fun s _ => s.gstore_tileWork _ _ _ _) _ _)
  split
  · rfl
  · exact s.gloadSt_tileWork _ _ _

/-! ## Counters, events and faults -/

theorem TileWorkFrame.classify {s t : State} (h : TileWorkFrame s t) (kind die p : Nat) :
    TileWorkFrame s (t.classify kind die p) :=
  .event (.count64 (.setReg (.withLastingRes h _) _ _) _ _) _ _ _ _ _

theorem TileWorkFrame.fault {s t : State} (h : TileWorkFrame s t) (kind die p : Nat) (atOnce : Bool) :
    TileWorkFrame s (t.fault kind die p atOnce) := by
  have hlog : TileWorkFrame s (t.logPlain 0 kind (some (resWord kind die p))) :=
    h.trans (t.logRecord_frame _ _ _ _).tileWork
  unfold State.fault
  dsimp only
  split
  · exact hlog.classify _ _ _
  · split
    · exact hlog
    · split
      · exact (hlog.withFaultLog _).classify _ _ _
      · exact hlog.withFaultLog _

theorem State.abftFault_tileWork (s : State) (t times addr : Nat) : TileWorkFrame s (s.abftFault t times addr) := by
  have hretry : TileWorkFrame s (((s.count32 (Reg.tnsCntAbftRetry t) 1).tnsEv t 0 addr).unitFault 0 t false) :=
    .fault (.tnsEv (.count32 (.refl s) _ _) _ _ _) _ _ _ _
  unfold State.abftFault
  dsimp only
  split
  · exact hretry
  · exact .fault (.tnsEv (.count32 hretry _ _) _ _ _) _ _ _ _

theorem State.monReport_tileWork (s : State) (set : Option Nat) (xs : List (Num × Ev)) :
    TileWorkFrame s (s.monReport set xs) := by
  unfold State.monReport
  split
  · split
    · exact .withMonNow (.setReg (.count64 (.count64 (.count64 (.count64 (.refl s) _ _) _ _) _ _) _ _) _ _) _
    · exact .count64 (.refl s) _ _
  · exact .count64 (.refl s) _ _

/-! ## What a task reads -/

theorem State.readLine_tileWork (s : State) (r : Req) (code ga k sga : Nat) :
    TileWorkFrame s (s.readLine r code ga k sga).1 := by
  unfold State.readLine
  split
  · rfl
  · dsimp only
    split
    · exact .trans (s.gloadSt_tileWork _ _ _) (State.gloadSt_tileWork _ _ _ _)
    · exact s.gloadSt_tileWork _ _ _

theorem State.readAnchors_tileWork (s : State) (r : Req) (ga n : Nat) : TileWorkFrame s (s.readAnchors r ga n).1 :=
  .mapN (fun s _ => s.gloadSt_tileWork _ _ _) _ _ s

theorem State.readSides_tileWork (s : State) (r : Req) (d : TDesc) : TileWorkFrame s (s.readSides r d).1 := by
  have hlines (s : State) (n : Nat) (code : Nat) (ga sga : Nat → Nat) :
      TileWorkFrame s (mapN (fun s i => s.readLine r code (ga i) d.k (sga i)) n 0 s).1 :=
    .mapN (fun s _ => s.readLine_tileWork _ _ _ _ _) _ _ s
  have hanchors (s : State) (n m ga gb : Nat) : TileWorkFrame s ((s.readAnchors r ga n).1.readAnchors r gb m).1 :=
    .trans (s.readAnchors_tileWork _ _ _) (State.readAnchors_tileWork _ _ _ _)
  unfold State.readSides
  dsimp only
  split
  · exact .trans (.trans (hlines _ _ _ _ _) (hlines _ _ _ _ _)) (hanchors _ _ _ _ _)
  · exact .trans (hlines _ _ _ _ _) (hlines _ _ _ _ _)

theorem State.readEpi_tileWork (s : State) (r : Req) (ga n : Nat) : TileWorkFrame s (s.readEpi r ga n).1 :=
  .mapN (fun s _ => s.gloadSt_tileWork _ _ _) _ _ s

theorem State.readEpis_tileWork (s : State) (r : Req) (d : TDesc) : TileWorkFrame s (s.readEpis r d).1 := by
  have hvec (s : State) (c : Prop) [Decidable c] (ga n : Nat) :
      TileWorkFrame s (if c then s.readEpi r ga n else (s, [])).1 := by
    split
    · exact s.readEpi_tileWork _ _ _
    · rfl
  have hbias (s : State) (ga n : Nat) : TileWorkFrame s (if d.obias = 0 then (s, []) else s.readEpi r ga n).1 := by
    split
    · rfl
    · exact s.readEpi_tileWork _ _ _
  exact .trans (.trans (hvec s d.rscale _ _) (hvec _ d.cscale _ _)) (hbias _ _ _)

theorem State.taskCtx_tileWork (s : State) (t : Nat) (d : TDesc) : TileWorkFrame s (s.taskCtx t d).1 :=
  s.readEpis_tileWork _ _

/-! ## What a task writes -/

theorem State.reportLine_tileWork (s : State) (c : TaskCtx) (d : TDesc) (xs : List (OutEl × Ev)) :
    TileWorkFrame s (s.reportLine c d xs) := by
  unfold State.reportLine
  split
  · exact s.monReport_tileWork _ _
  · rfl

theorem State.emitLine_tileWork (s : State) (c : TaskCtx) (d : TDesc) (slices line k0 : Nat) (xs : List OutEl) :
    TileWorkFrame s (s.emitLine c d slices line k0 xs) := by
  unfold State.emitLine
  dsimp only
  split
  · exact s.storeElems_tileWork _ _ _ _
  · split
    · rfl
    · exact .trans (s.storeElems_tileWork _ _ _ _) (State.reportLine_tileWork _ _ _ _)
    · exact .trans (.trans (s.storeElems_tileWork _ _ _ _) (State.gstore_tileWork _ _ _ _ _))
        (State.reportLine_tileWork _ _ _ _)

theorem State.emitBlock_tileWork (s : State) (c : TaskCtx) (d : TDesc) (slices : Nat) (k : Blk)
    (rows : List (List AccEl)) : TileWorkFrame s (s.emitBlock c d slices k rows) := by
  unfold State.emitBlock
  dsimp only
  split
  · exact .foldl (fun s _ => s.emitLine_tileWork _ _ _ _ _ _) _ s
  · exact .foldl (fun s _ => s.emitLine_tileWork _ _ _ _ _ _) _ s

theorem State.storeAnchors_tileWork (s : State) (r : Req) (ga : Nat) (xs : List OpVec) :
    TileWorkFrame s (s.storeAnchors r ga xs) := s.storeElems_tileWork _ _ _ _

theorem State.readPart_tileWork (s : State) (r : Req) (ga psize : Nat) : TileWorkFrame s (s.readPart r ga psize).1 :=
  s.gloadSt_tileWork _ _ _

theorem State.combineRow_tileWork (s : State) (r : Req) (d : TDesc) (i : Nat) : TileWorkFrame s (s.combineRow r d i).1 := by
  refine .mapN (fun s j => ?_) _ _ s
  exact .mapN (fun s _ => s.readPart_tileWork _ _ _) _ _ s

theorem State.combineLine_tileWork (s : State) (c : TaskCtx) (d : TDesc) (line k0 : Nat) (xs : List (OutEl × Nat)) :
    TileWorkFrame s (s.combineLine c d line k0 xs) := by
  unfold State.combineLine
  split
  · exact s.storeElems_tileWork _ _ _ _
  · exact s.emitLine_tileWork _ _ _ _ _ _

theorem State.combineBlock_tileWork (c : TaskCtx) (d : TDesc) (rows : List (List (AccEl × Nat × Nat))) (s : State)
    (k : Blk) : TileWorkFrame s (s.combineBlock c d rows k) := by
  unfold State.combineBlock
  split
  · exact .foldl (fun s _ => s.combineLine_tileWork _ _ _ _ _) _ s
  · exact .foldl (fun s _ => s.combineLine_tileWork _ _ _ _ _) _ s

/-! ## The event of poison that a task read (R113) -/

theorem State.poisonEv_tileWork (s : State) (poison : Bool) (t addr : Nat) :
    TileWorkFrame s (if poison then s.tnsEv t 3 addr else s) := by
  split
  · exact .tnsEv (.refl s) _ _ _
  · rfl

end Sys2Proof.Machine
end

section
/-! PROOFS. A tile task that runs (R83 to R101, R109): it leaves the head of its tile's queue and is the running task, with one of
the codes of its kind. -/
namespace Sys2Proof.Machine

/-! ## The status of a task (R109) -/

theorem foldl_lowest_mem (l : List Nat) (a : Nat) :
    l.foldl (fun a x => if a = 0 then x else min a x) a ∈ a :: l := by
  induction l generalizing a with
  | nil => exact List.mem_cons_self
  | cons x l ih =>
    rw [List.foldl_cons]
    rcases List.mem_cons.1 (ih (if a = 0 then x else min a x)) with hhead | htail
    · rw [hhead]
      split
      · simp
      · rcases min_choice a x with hmin | hmin <;> simp [hmin]
    · exact List.mem_cons_of_mem _ (List.mem_cons_of_mem _ htail)

/-- The status is TT_OK or one of the codes that may apply. -/
theorem lowestStatus_mem {xs codes : List Nat} (h : ∀ x ∈ xs, x = 0 ∨ x ∈ codes) : lowestStatus xs ∈ 0 :: codes := by
  rcases List.mem_cons.1 (foldl_lowest_mem (xs.filter fun x => x != 0) 0) with hzero | hcode
  · exact List.mem_cons.2 (.inl hzero)
  · exact List.mem_cons.2 (h _ (List.mem_of_mem_filter hcode))

/-- The same where poison adds its code, 0x26. -/
theorem lowestStatus_poison_mem {xs codes : List Nat} (poison : Bool) (hpoison : 0x26 ∈ codes)
    (h : ∀ x ∈ xs, x = 0 ∨ x ∈ codes) : lowestStatus (xs ++ if poison then [0x26] else []) ∈ 0 :: codes := by
  refine lowestStatus_mem fun x hx => ?_
  rcases List.mem_append.1 hx with hx | hx
  · exact h x hx
  · cases poison
    · exact absurd hx List.not_mem_nil
    · exact .inr (List.mem_singleton.1 hx ▸ hpoison)

/-! ## What a task leaves -/

/-- The head of tile `i`'s queue left it, and is the running task with a status of `codes`. -/
def LeavesRunning (s t : State) (i : Nat) (ref : TaskRef) (codes : List Nat) : Prop :=
  ∃ st ∈ codes, t.runOf i = some ⟨ref, false, st⟩ ∧ t.queueOf i = (s.queueOf i).tail

theorem State.taskStatus_leavesRunning {s v : State} {i : Nat} {ref : TaskRef} {st : Nat} {codes : List Nat}
    (hwork : TileWorkFrame (s.popTask i ref) v) (hst : st ∈ codes) :
    LeavesRunning s (v.taskStatus i ref st) i ref codes := by
  refine ⟨st, hst, State.runOf_setRun v i (some ⟨ref, false, st⟩), ?_⟩
  change v.queueOf i = _
  rw [hwork.queueOf]
  exact State.queueOf_setQueue s i (s.queueOf i).tail

/-! ### MATMUL and SLICED (R83 to R104) -/

/-- The blocks done so far kept to the work of a tile task from state `s` on, and only the codes of a product apply. -/
def BlocksRun (s : State) (p : Prog1) : Prop := TileWorkFrame s p.s ∧ ∀ x ∈ p.codes, x ∈ [0x22, 0x25]

theorem mem_codes_append {codes more : List Nat} {x : Nat} (hcodes : ∀ y ∈ codes, y ∈ [0x22, 0x25])
    (hmore : ∀ y ∈ more, y ∈ [0x22, 0x25]) (h : x ∈ codes ++ more) : x ∈ [0x22, 0x25] :=
  (List.mem_append.1 h).elim (hcodes x) (hmore x)

theorem BlocksRun.step {s : State} {p : Prog1} (h : BlocksRun s p) (t addr : Nat) (d : TDesc) (c : TaskCtx) (a b : Side)
    (fs : List ArrayFault) (k : Blk) : BlocksRun s (blockStep t addr d c a b fs p k) := by
  obtain ⟨hwork, hcodes⟩ := h
  have hfault (times : Nat) : TileWorkFrame s (if times = 0 then p.s else p.s.abftFault t times addr) := by
    split
    · exact hwork
    · exact hwork.trans (p.s.abftFault_tileWork _ _ _)
  have hcode (times x : Nat) (hx : x ∈ if 2 ≤ times then p.codes ++ [0x25] else p.codes) : x ∈ [0x22, 0x25] := by
    split at hx
    · exact mem_codes_append hcodes (by simp) hx
    · exact hcodes x hx
  unfold blockStep
  dsimp only
  split
  · exact ⟨hwork, hcodes⟩
  · split
    · exact ⟨hwork, fun x => mem_codes_append hcodes (by simp)⟩
    · refine ⟨?_, hcode _⟩
      dsimp only
      split
      · exact .setHeld (.count64 (.count64 (hfault _) _ _) _ _) _ _
      · exact .trans (.count64 (.count64 (hfault _) _ _) _ _) (State.emitBlock_tileWork _ _ _ _ _ _)

theorem BlocksRun.blocks {s : State} {p : Prog1} (h : BlocksRun s p) (t addr : Nat) (d : TDesc) (c : TaskCtx) (a b : Side)
    (fs : List ArrayFault) (ks : List Blk) : BlocksRun s (ks.foldl (blockStep t addr d c a b fs) p) := by
  induction ks generalizing p with
  | nil => exact h
  | cons k ks ih => exact ih (h.step _ _ _ _ _ _ _ _)

/-- A product ends with TT_OK, an anchor too low (0x22), a failed check (0x25) or poison (0x26). -/
theorem State.runProduct_leavesRunning (s : State) (i : Nat) (ref : TaskRef) (d : TDesc) (fs : List ArrayFault) :
    LeavesRunning s (s.runProduct i ref d fs) i ref [0, 0x22, 0x25, 0x26] := by
  unfold State.runProduct
  extract_lets s0 c x poison p s1
  obtain ⟨hwork, hcodes⟩ : BlocksRun s0 p := by
    refine BlocksRun.blocks ⟨?_, fun y hy => absurd hy List.not_mem_nil⟩ _ _ _ _ _ _ _ _
    exact (s0.taskCtx_tileWork i d).trans (State.readSides_tileWork _ _ _)
  refine State.taskStatus_leavesRunning (hwork.trans (p.s.poisonEv_tileWork poison i ref.addr)) ?_
  exact lowestStatus_poison_mem poison (by decide) fun y hy => .inr (List.mem_append_left [0x26] (hcodes y hy))

/-! ### EXPONENT (R95) -/

theorem State.runExponent_leavesRunning (s : State) (i : Nat) (ref : TaskRef) (d : TDesc) :
    LeavesRunning s (s.runExponent i ref d) i ref [0, 0x26] := by
  unfold State.runExponent
  extract_lets s0 r x s1 poison s2
  have hread : TileWorkFrame s0 x.1 := s0.readSides_tileWork r d
  have hstored : TileWorkFrame s0 s1 :=
    (hread.trans (State.storeAnchors_tileWork _ _ _ _)).trans (State.storeAnchors_tileWork _ _ _ _)
  refine State.taskStatus_leavesRunning (hstored.trans (s1.poisonEv_tileWork poison i ref.addr)) ?_
  cases poison <;> simp

/-! ### COMBINE (R97) -/

/-- The code of an element's partials: none, unequal anchors (0x23) or an overflow (0x24). -/
theorem combineParts_code (psize : Nat) (ps : List Part) :
    (combineParts psize ps).2.2 = 0 ∨ (combineParts psize ps).2.2 ∈ [0x23, 0x24, 0x26] := by
  unfold combineParts
  cases ps with
  | nil => exact .inl rfl
  | cons p ps =>
    dsimp only
    split_ifs <;> simp

theorem State.runCombine_leavesRunning (s : State) (i : Nat) (ref : TaskRef) (d : TDesc) :
    LeavesRunning s (s.runCombine i ref d) i ref [0, 0x23, 0x24, 0x26] := by
  unfold State.runCombine
  extract_lets s0 c x s1 codes poison s2
  have hread : TileWorkFrame s0 x.1 :=
    (s0.taskCtx_tileWork i d).trans (.mapN (fun s _ => s.combineRow_tileWork _ _ _) _ _ _)
  have hstored : TileWorkFrame s0 s1 := hread.trans (.foldl (State.combineBlock_tileWork _ _ _) _ _)
  refine State.taskStatus_leavesRunning (hstored.trans (s1.poisonEv_tileWork poison i ref.addr)) ?_
  refine lowestStatus_poison_mem poison (by decide) fun y hy => ?_
  have hrows : ∀ row ∈ x.2, ∀ e ∈ row, e.2.2 = 0 ∨ e.2.2 ∈ [0x23, 0x24, 0x26] :=
    forall_mem_mapN (fun s k => forall_mem_mapN (fun s j => combineParts_code _ _) _ _ _) _ _ _
  obtain ⟨row, hrow, hy⟩ := List.mem_flatMap.1 hy
  obtain ⟨e, he, rfl⟩ := List.mem_map.1 hy
  exact hrows row hrow e he

end Sys2Proof.Machine
end

section
/-! PROOFS. Starting the task at the head of a tile's queue (R85, R108, R155, R322). -/
namespace Sys2Proof.Machine
open Sys2Proof.Claims

theorem State.startTask_of_ready {s : State} {i : Fin 256} {kind : Nat} {ref : TaskRef} (h : TaskReady s i kind ref)
    (run : State → TaskRef → TDesc → State) :
    s.startTask i kind run = s.whenDone (run s ref (tdescOf ref.body)) (tileReq i) := by
  obtain ⟨hready, hjudge⟩ := h
  simp [State.startTask, hready, hjudge]

theorem State.startTask_of_malformed {s : State} {t kind : Nat} {ref : TaskRef} (hready : s.readyTask t kind = some ref)
    (hjudge : s.tdescJudge (tdescOf ref.body) ≠ 0) (run : State → TaskRef → TDesc → State) :
    s.startTask t kind run = s.refuseTask t ref (s.tdescJudge (tdescOf ref.body)) := by
  simp [State.startTask, hready, hjudge]

theorem State.whenDone_of_lacks {s1 : State} {r : Req} (h : s1.lacks r = true) (s : State) :
    s.whenDone s1 r = s.issueAccesses s1 r := if_pos h

theorem State.whenDone_of_whole {s1 : State} {r : Req} (h : s1.lacks r = false) (s : State) :
    s.whenDone s1 r = s1.dropAccesses r := if_neg (by simp [h])

theorem State.dropAccesses_req (s : State) (r : Req) : ∀ e ∈ (s.dropAccesses r).accesses, e.req ≠ r :=
  fun _ he => bne_iff_ne.1 (List.mem_filter.1 he).2

/-- A task that has the data it reads runs (R85): it leaves the queue, it is the running task with one of its codes, and
nothing is asked for it any longer. -/
theorem exec_task_of_whole {s : State} {i : Fin 256} {kind : Nat} {ref : TaskRef} {codes : List Nat} {ins : Instr}
    {run : State → TaskRef → TDesc → State} (hready : TaskReady s i kind ref)
    (hexec : exec ins s = .next (s.startTask i kind run))
    (hrun : LeavesRunning s (run s ref (tdescOf ref.body)) i ref codes)
    (hwhole : (run s ref (tdescOf ref.body)).lacks (tileReq i) = false) :
    ∃ t st, exec ins s = .next t ∧ t.runOf i = some ⟨ref, false, st⟩ ∧ st ∈ codes ∧
      t.queueOf i = (s.queueOf i).tail ∧ ∀ e ∈ t.accesses, e.req ≠ tileReq i := by
  obtain ⟨st, hst, hrunOf, hqueue⟩ := hrun
  rw [State.startTask_of_ready hready, State.whenDone_of_whole hwhole] at hexec
  exact ⟨_, st, hexec, hrunOf, hst, hqueue, State.dropAccesses_req _ _⟩

/-- A task that lacks data or a line asks for it, and stays at the head of its queue (R85, R322). -/
theorem exec_task_of_lacks {s : State} {i : Fin 256} {kind : Nat} {ref : TaskRef} {ins : Instr}
    {run : State → TaskRef → TDesc → State} (hready : TaskReady s i kind ref)
    (hexec : exec ins s = .next (s.startTask i kind run))
    (hlacks : (run s ref (tdescOf ref.body)).lacks (tileReq i) = true) :
    ∃ t, exec ins s = .next t ∧ t.tileQ = s.tileQ ∧ t.tileRun = s.tileRun ∧ t.mem = s.mem := by
  rw [State.startTask_of_ready hready, State.whenDone_of_lacks hlacks] at hexec
  have hframe := s.issueAccesses_frame (run s ref (tdescOf ref.body)) (tileReq i)
  exact ⟨_, hexec, hframe.tileQ, hframe.tileRun, hframe.mem⟩

/-! ## VPROG (R155) -/

/-- The program that a VPROG descriptor names, before it takes its samples. -/
def TDesc.entry (d : TDesc) : Prog := Prog.entry d.aAddr d.m d.n d.k d.bAddr d.stream d.elemBase d.draw

/-- The program that a VPROG task of state `s` starts (R155). -/
def State.vprogEntry (s : State) (ref : TaskRef) (d : TDesc) : Prog :=
  s.sampled { d.entry with ctx := d.cAddr, desc := ref.addr, act := ref.act, idx := ref.idx, signal := d.signalId }

/-- The registers x1 to x4 hold what the program is passed. -/
theorem TDesc.entry_passed (d : TDesc) : d.entry.xr 1 = BitVec.ofNat 64 d.m ∧ d.entry.xr 2 = BitVec.ofNat 64 d.n ∧
    d.entry.xr 3 = BitVec.ofNat 64 d.k ∧ d.entry.xr 4 = BitVec.ofNat 64 d.bAddr := by
  refine ⟨?_, ?_, ?_, ?_⟩ <;> simp [TDesc.entry, Prog.entry, Prog.xr_setX_same, Prog.xr_setX_other]

/-- The x registers above x7 are 0. -/
theorem TDesc.entry_xr_above (d : TDesc) {k : Nat} (h : 7 < k) : d.entry.xr k = 0 := by
  simp (disch := omega) only [TDesc.entry, Prog.entry, Prog.xr_setX_other]
  exact ite_self _

section
variable (s : State) (ref : TaskRef) (d : TDesc)

/-- The program starts at its entry, without a valid configuration, with its context area and the seed of the moment. -/
theorem State.vprogEntry_config : (s.vprogEntry ref d).pc = BitVec.ofNat 64 d.aAddr ∧ (s.vprogEntry ref d).vl = 0 ∧
    (s.vprogEntry ref d).vbad = true ∧ (s.vprogEntry ref d).ctx = d.cAddr ∧
    (s.vprogEntry ref d).seed = s.reg Reg.bobSeed :=
  ⟨rfl, rfl, show bit (0x80000000 : W32) 31 = true by decide, rfl, rfl⟩

theorem State.vprogEntry_xr (k : Nat) : (s.vprogEntry ref d).xr k = d.entry.xr k := by
  simp only [Prog.xr, State.vprogEntry, State.sampled]

/-- The f and v registers are 0. -/
theorem State.vprogEntry_fr_vr (k : Nat) : (s.vprogEntry ref d).fr k = 0 ∧ (s.vprogEntry ref d).vr k = 0 := ⟨rfl, rfl⟩

end

theorem State.runVprog_eq (s : State) (i : Fin 256) (ref : TaskRef) (d : TDesc) : s.runVprog i ref d =
    ((s.popTask i ref).setRun i (some ⟨ref, true, 0⟩)).setProg (.tile i) (some (s.vprogEntry ref d)) := by
  have hi : Fin.ofNat 256 i.val = i := Fin.ofNat_val_eq_self i
  unfold State.runVprog
  rw [hi]
  rfl

/-- A VPROG task leaves the queue and runs; its tile's program is the one it starts, and it asks for nothing. -/
theorem State.runVprog_leaves (s : State) (i : Fin 256) (ref : TaskRef) (d : TDesc) :
    (s.runVprog i ref d).runOf i = some ⟨ref, true, 0⟩ ∧ (s.runVprog i ref d).queueOf i = (s.queueOf i).tail ∧
      (s.runVprog i ref d).progOf (.tile i) = some (s.vprogEntry ref d) ∧
      (∀ v, v ≠ .tile i → (s.runVprog i ref d).progOf v = s.progOf v) ∧ (s.runVprog i ref d).accesses = s.accesses := by
  have hpop (v : VUnit) : ((s.popTask i ref).setRun i (some ⟨ref, true, 0⟩)).progOf v = s.progOf v := rfl
  rw [s.runVprog_eq, State.runOf, State.queueOf, State.setProg_tileRun, State.setProg_tileQ, State.setProg_accesses]
  exact ⟨(s.popTask i ref).runOf_setRun i _, s.queueOf_setQueue i _, State.progOf_setProg _ _ _,
    fun v hv => (State.progOf_setProg_other _ _ _ _ hv).trans (hpop v), rfl⟩

theorem exec_taskVprog (i : Fin 256) (s : State) :
    exec (.taskVprog i) s = .next (s.startTask i 5 fun s ref d => s.runVprog i ref d) := rfl

/-- A VPROG task starts its program, and asks for nothing. -/
theorem exec_taskVprog_of_ready {s : State} {i : Fin 256} {ref : TaskRef} (hready : TaskReady s i 5 ref)
    (hfree : ∀ e ∈ s.accesses, e.req ≠ tileReq i) :
    exec (.taskVprog i) s = .next (s.runVprog i ref (tdescOf ref.body)) := by
  have haccesses : ∀ e ∈ (s.runVprog i ref (tdescOf ref.body)).accesses, e.req ≠ tileReq i := by
    obtain ⟨-, -, -, -, haccesses⟩ := s.runVprog_leaves i ref (tdescOf ref.body)
    rwa [haccesses]
  rw [exec_taskVprog, State.startTask_of_ready hready, State.whenDone_of_whole (State.lacks_of_no_access haccesses),
    State.dropAccesses_of_no_access haccesses]

end Sys2Proof.Machine
end

section
/-! PROOFS. How a descriptor completes (R109, R111): its status, its signal, and its action. -/
namespace Sys2Proof.Machine
open Sys2Proof.Claims

/-! ## The completion of a descriptor for its action -/

/-- `t` is `s` but for what an event changes, the launched actions with the time of the last completion, the submission rings,
and the completions owed. -/
def DescDoneFrame (s t : State) : Prop :=
  t = { s with regs := t.regs, mem := t.mem, poison := t.poison, msixOut := t.msixOut, ibiOut := t.ibiOut,
               acts := t.acts, time := t.time, sq := t.sq, owed := t.owed }

theorem DescDoneFrame.trans {s t u : State} (h1 : DescDoneFrame s t) (h2 : DescDoneFrame t u) : DescDoneFrame s u := by
  unfold DescDoneFrame at *
  rw [h2, h1]

theorem EventFrame.descDone {s t : State} (h : EventFrame s t) : DescDoneFrame s t := by
  unfold EventFrame at h
  unfold DescDoneFrame
  rw [h]

/-- `t` is `s` but for its launched actions, the time base, the submission rings and the completions owed. -/
def ActionFrame (s t : State) : Prop := t = { s with acts := t.acts, time := t.time, sq := t.sq, owed := t.owed }

theorem ActionFrame.trans {s t u : State} (h1 : ActionFrame s t) (h2 : ActionFrame t u) : ActionFrame s u := by
  unfold ActionFrame at *
  rw [h2, h1]

theorem ActionFrame.descDone {s t : State} (h : ActionFrame s t) : DescDoneFrame s t := by
  unfold ActionFrame at h
  unfold DescDoneFrame
  rw [h]

theorem State.setSq_actionFrame (s : State) (i : Nat) (c : SqSt) : ActionFrame s (s.setSq i c) := rfl

/-- What the completion of a descriptor keeps: what any update of the actions and of the completions owed keeps, and
PEND_FULL. -/
theorem State.descDone_induction {P : State → Prop} {s : State} {n idx status failed : Nat}
    (hact : ∀ t : State, ActionFrame s t → P t)
    (hfull : ∀ (t : State) (cring : Nat), P t → P (t.event 0 Reg.hubEvent 3 cring none)) :
    P (s.descDone n idx status failed) := by
  have howe (t : State) (c : Compl) (ht : ActionFrame s t) : P (t.owe c) := by
    have hp : P { t with owed := t.owed ++ [c] } := hact _ (ht.trans rfl)
    unfold State.owe State.pendFull
    split
    · exact hfull _ _ hp
    · exact hp
  have hend (a : Act) : P (s.endAct n a) := by
    unfold State.endAct
    extract_lets time s1 q s2
    have h1 : ActionFrame s s1 := rfl
    have h2 : ActionFrame s s2 := by
      unfold s2
      split
      · exact h1
      · exact h1.trans (s1.setSq_actionFrame _ _)
    split
    · exact howe _ _ h2
    · exact hact _ h2
  unfold State.descDone
  split
  · exact hact s rfl
  · dsimp only
    split
    · exact hend _
    · exact hact _ rfl

theorem State.descDone_frame (s : State) (n idx status failed : Nat) :
    DescDoneFrame s (s.descDone n idx status failed) :=
  State.descDone_induction (P := DescDoneFrame s) (fun _ h => h.descDone)
    fun _ _ h => h.trans (State.event_frame _ _ _ _ _ _).descDone

theorem State.descDone_reg_of_ge (s : State) (n idx status failed : Nat) {o : Nat} (h : Reg.msixPba 32 ≤ o) :
    (s.descDone n idx status failed).reg o = s.reg o :=
  State.descDone_induction (P := fun t => t.reg o = s.reg o) (fun t ht => by rw [ht]; rfl)
    fun t _ ht => (t.event_reg_of_ge _ _ _ _ _ h (by simp only [Reg.msixPba, Reg.hubEvent] at *; omega)).trans ht

end Sys2Proof.Machine
end

section
/-! PROOFS. The completion of a tile task (R109, R111, R441): what it leaves of the tiles, the counters and memory. -/
namespace Sys2Proof.Machine
open Sys2Proof.Claims

/-! ## Registers above the pending bits of MSI-X that a store leaves -/

theorem homePkg_lt (g : Grade) (a : Nat) : homePkg g a < 64 := by
  cases g
  · exact Nat.mod_lt _ (by decide)
  · exact (Nat.mod_lt _ (by decide)).trans (by decide)

/-- The registers of the tiles and beyond are none of those that stores and their events write. -/
theorem State.mergeEvent_reg_of_tile (s : State) (g : Nat) {o : Nat} (h : 0x3000000 ≤ o) :
    (s.mergeEvent g).reg o = s.reg o := by
  have hlast := homePkg_lt s.grade (32 * g)
  have hne : o ≠ Reg.memCLastErr (homePkg s.grade (32 * g)) := by simp only [Reg.memCLastErr]; omega
  have hmem (t : State) (n : Nat) : (t.event 4 Reg.memEvent 1 n (some (32 * g))).reg o = t.reg o :=
    t.event_reg_of_ge _ _ _ _ _ (by simp only [Reg.msixPba]; omega) (by simp only [Reg.memEvent]; omega)
  unfold State.mergeEvent
  split
  · exact (hmem _ _).trans (State.reg_setReg_other _ _ hne)
  · exact (hmem _ _).trans (State.reg_setReg_other _ _ hne)
  · rfl
  · exact s.event_reg_of_ge _ _ _ _ _ (by simp only [Reg.msixPba]; omega) (by simp only [Reg.relEvent]; omega)

theorem State.hostBytes_reg_other (s : State) (k a n : Nat) {o : Nat} (h : o ≠ Reg.hubCnt k) :
    (s.hostBytes k a n).reg o = s.reg o := by
  unfold State.hostBytes
  split
  · exact State.reg_setReg_other _ _ h
  · rfl

theorem State.storeNow_reg_of_tile (s : State) (a : Nat) (bs : List Byte) {o : Nat} (h : 0x3000000 ≤ o) :
    (s.storeNow a bs).reg o = s.reg o := by
  have hmerge (gs : List Nat) (t : State) : (gs.foldl State.mergeEvent t).reg o = t.reg o := by
    induction gs generalizing t with
    | nil => rfl
    | cons g gs ih => exact (ih _).trans (t.mergeEvent_reg_of_tile g h)
  exact (hmerge _ _).trans (State.hostBytes_reg_other _ _ _ _ (by simp only [Reg.hubCnt]; omega))

theorem State.askBack_reg_other (s : State) (line : Nat) (inv : Bool) {o : Nat} (h : o ≠ Reg.hubCnt 3) :
    (s.askBack line inv).reg o = s.reg o := by
  unfold State.askBack
  split
  · exact State.reg_setReg_other _ _ h
  · rfl

theorem State.storeParts_reg_of_tile (s : State) (r : Req) (a : Nat) (bs : List Byte) {o : Nat} (h : 0x3000000 ≤ o) :
    (s.storeParts r a bs false).reg o = s.reg o := by
  unfold State.storeParts
  generalize granules a bs.length = gs
  induction gs generalizing s with
  | nil => rfl
  | cons g gs ih =>
    rw [List.foldl_cons, ih]
    dsimp only
    split
    · exact State.askBack_reg_other _ _ _ (by simp only [Reg.hubCnt]; omega)
    · exact s.storeNow_reg_of_tile _ _ h

/-- A unit's store of clean bytes leaves the registers of the tiles. -/
theorem State.store_reg_of_tile (s : State) (r : Req) (a : Nat) (bs : List Byte) {o : Nat} (h : 0x3000000 ≤ o) :
    (s.store r a bs).reg o = s.reg o := by
  have hev (t : State) (bit : Nat) (unit detail : Option Nat) :
      (t.event 0 Reg.hubEvent bit unit detail).reg o = t.reg o :=
    t.event_reg_of_ge _ _ _ _ _ (by simp only [Reg.msixPba]; omega) (by simp only [Reg.hubEvent]; omega)
  unfold State.store
  split
  · refine (hev _ _ _ _).trans ((State.reg_setReg_other _ _ ?_).trans (State.reg_setReg_other _ _ ?_))
    · simp only [Reg.hubAddrUnit]; omega
    · simp only [Reg.hubAddrErr]; omega
  · split
    · exact hev _ _ _ _
    · split
      · exact s.storeParts_reg_of_tile _ _ _ h
      · exact s.storeNow_reg_of_tile _ _ h

/-! ## The completion of a tile task's descriptor -/

section
variable (s : State) (r : Req) (ref : TaskRef) (st : Nat)

theorem State.signal_regs (id : Nat) : (s.signal id).regs = s.regs := by unfold State.signal; split <;> rfl
theorem State.signal_tileQ (id : Nat) : (s.signal id).tileQ = s.tileQ := by unfold State.signal; split <;> rfl
theorem State.signal_tileRun (id : Nat) : (s.signal id).tileRun = s.tileRun := by unfold State.signal; split <;> rfl
theorem State.signal_mem (id : Nat) : (s.signal id).mem = s.mem := by unfold State.signal; split <;> rfl

/-- A signal increments its counter, and 0xFF none (R111). -/
theorem State.signal_signalled (id : Nat) : Signalled s (s.signal id) id := by
  intro i
  unfold State.signal
  by_cases hnone : id = 0xFF
  · rw [if_pos hnone, if_neg fun h => h.1 hnone]
  · rw [if_neg hnone]
    by_cases hi : i = id
    · subst hi
      rw [State.syncCtr_bumpSync, if_pos ⟨hnone, rfl⟩]
      rfl
    · rw [State.syncCtr_bumpSync_other _ hi, if_neg fun h => hi h.2]

theorem State.taskDone_eq : s.taskDone r ref st =
    ((s.writeStatus r (ref.addr + 3) st).signal (tdescOf ref.body).signalId).descDone ref.act ref.idx st 0 := rfl

theorem State.taskDone_tileQ : (s.taskDone r ref st).tileQ = s.tileQ := by
  rw [s.taskDone_eq, State.descDone_frame, State.signal_tileQ, State.writeStatus, State.store_frame]

theorem State.taskDone_tileRun : (s.taskDone r ref st).tileRun = s.tileRun := by
  rw [s.taskDone_eq, State.descDone_frame, State.signal_tileRun, State.writeStatus, State.store_frame]

theorem State.taskDone_signalled : Signalled s (s.taskDone r ref st) (tdescOf ref.body).signalId := by
  have hstored : (s.writeStatus r (ref.addr + 3) st).sync = s.sync := by rw [State.writeStatus, State.store_frame]
  have hdone (t : State) : (t.descDone ref.act ref.idx st 0).sync = t.sync := by rw [State.descDone_frame]
  intro i
  have hsignal := State.signal_signalled (s.writeStatus r (ref.addr + 3) st) (tdescOf ref.body).signalId i
  simp only [State.syncCtr, hstored] at hsignal
  rw [State.syncCtr, s.taskDone_eq, hdone]
  exact hsignal

theorem State.taskDone_reg_of_tile {o : Nat} (h : 0x3000000 ≤ o) : (s.taskDone r ref st).reg o = s.reg o := by
  rw [s.taskDone_eq, State.descDone_reg_of_ge _ _ _ _ _ (by simp only [Reg.msixPba]; omega), State.reg, State.signal_regs]
  exact s.store_reg_of_tile _ _ _ h

end

end Sys2Proof.Machine
end

section
/-! PROOFS. The status byte of a descriptor (R109, R441): where it may be stored now, it is stored, and what follows leaves it. -/
namespace Sys2Proof.Machine

theorem State.region_congr {s t : State} (hgrade : t.grade = s.grade) (hcfg : t.reg Reg.memCfg = s.reg Reg.memCfg)
    (hstatus : t.reg Reg.memStatus = s.reg Reg.memStatus) (a : Nat) : t.region a = s.region a := by
  unfold State.region State.pocketBase State.pocketSize
  rw [hgrade, State.regF_congr hcfg, State.regB_congr hstatus]

theorem granules_one (a : Nat) : granules a 1 = [a / 32] := by
  simp [granules, upFrom]

/-- With the event log disabled, the completion of a descriptor for its action leaves memory. -/
theorem State.descDone_mem {s : State} (n idx status failed : Nat) (h : s.regB Reg.hubEvlogCfg 0 = false) :
    (s.descDone n idx status failed).mem = s.mem := by
  refine (State.descDone_induction (P := fun t => t.regB Reg.hubEvlogCfg 0 = false ∧ t.mem = s.mem)
    (fun t ht => ?_) (fun t cring ⟨hlog, hmem⟩ => ?_)).2
  · rw [ht]
    exact ⟨h, rfl⟩
  · rw [t.event_mem _ _ _ _ _ (by decide) (ne_msixPba (by decide)) hlog, State.setEvent_mem,
      State.regB_congr (t.setEvent_reg_other _ _ _ _ (by decide) (ne_msixPba (by decide)))]
    exact ⟨hlog, hmem⟩

end Sys2Proof.Machine

namespace Sys2Proof.Claims
open Sys2Proof.Machine

/-! ## Bytes that may be stored now -/

/-- The registers that say whether a byte may be stored, and that events are logged. -/
def plainOffs : List Nat := [Reg.memCfg, Reg.memStatus, Reg.hubEvlogCfg]

theorem notMem_plainOffs {o : Nat} (h : 0x3000000 ≤ o) : o ∉ plainOffs := by
  simp only [plainOffs, Reg.memCfg, Reg.memStatus, Reg.hubEvlogCfg, List.mem_cons, List.not_mem_nil, or_false, not_or]
  omega

/-- Whether a byte may be stored depends on three registers and on the poison, the lines and the streams. -/
theorem PlainByte.of_eventFrame {s t : State} {a : Nat} (h : PlainByte s a) (hframe : Machine.EventFrame s t)
    (hpoison : t.poison = s.poison) (hregs : ∀ o ∈ plainOffs, t.reg o = s.reg o) : PlainByte t a := by
  obtain ⟨haccess, hclean, hlog, hstream, hbusy⟩ := h
  have hcfg := hregs Reg.memCfg (by simp [plainOffs])
  have hstatus := hregs Reg.memStatus (by simp [plainOffs])
  have hevlog := hregs Reg.hubEvlogCfg (by simp [plainOffs])
  have hgrade : t.grade = s.grade := by rw [hframe]
  have hbad : t.ideBad = s.ideBad := by rw [hframe]
  have hregion := State.region_congr hgrade hcfg hstatus a
  refine ⟨?_, ?_, ?_, ?_, ?_⟩
  · simpa only [State.accessible, hregion] using haccess
  · simpa only [State.poisoned, hpoison] using hclean
  · rwa [State.regB_congr hevlog]
  · simpa only [State.streamFails, hregion, hbad] using hstream
  · rw [hframe]
    exact hbusy

theorem PlainByte.setReg {s : State} {a : Nat} (h : PlainByte s a) {o : Nat} (v : W64) (ho : o ∉ plainOffs) :
    PlainByte (s.setReg o v) a :=
  h.of_eventFrame (s.setReg_frame o v) rfl fun _ ho' => State.reg_setReg_other _ _ fun e => ho (e ▸ ho')

/-- The event log is disabled. -/
theorem PlainByte.evlog {s : State} {a : Nat} (h : PlainByte s a) : s.regB Reg.hubEvlogCfg 0 = false := by
  obtain ⟨-, -, hlog, -, -⟩ := h
  exact hlog

/-- With the event log disabled, an event is its bit and its vector. -/
theorem PlainByte.event_eq {s : State} {a : Nat} (h : PlainByte s a) (blk bit : Nat) {ev : Nat} (unit detail : Option Nat)
    (hev : ev ∉ plainOffs) : s.event blk ev bit unit detail = s.setEvent blk ev bit :=
  s.event_mem _ _ _ _ _ (fun e => hev (by simp [plainOffs, e])) (ne_msixPba (by decide)) h.evlog

theorem PlainByte.event {s : State} {a : Nat} (h : PlainByte s a) (blk bit : Nat) {ev : Nat} (unit detail : Option Nat)
    (hev : ev ∉ plainOffs) : PlainByte (s.event blk ev bit unit detail) a := by
  rw [h.event_eq blk bit unit detail hev]
  refine h.of_eventFrame (s.setEvent_frame _ _ _) (s.setEvent_poison _ _ _) fun o ho => ?_
  have hne : o ≠ ev := fun e => hev (e ▸ ho)
  have hhigh (h : Reg.msixPba 32 ≤ o) : (s.setEvent blk ev bit).reg o = s.reg o :=
    (s.setEvent_reg_of_ge _ _ _ h).trans (State.reg_setReg_other _ _ hne)
  simp only [plainOffs, List.mem_cons, List.not_mem_nil, or_false] at ho
  rcases ho with rfl | rfl | rfl
  · exact hhigh (by decide)
  · exact hhigh (by decide)
  · exact s.setEvent_reg_other _ _ _ _ hne (ne_msixPba (by decide))

/-! ## Storing one byte -/

/-- The store of a byte that may be stored now is performed, and is nothing but the byte and the count of bytes written to the
host (R23, R320). -/
theorem PlainByte.store_eq {s : State} {a : Nat} (h : PlainByte s a) (r : Req) (b : Byte) :
    s.store r a [b] = (s.storeBytes a [b]).hostBytes 5 a 1 := by
  obtain ⟨haccess, hclean, -, hstream, hbusy⟩ := h
  have hmax : max a (32 * (a / 32)) = a := by omega
  have hallowed : firstRefused s.accessible a 1 = none := by simp [firstRefused, granules_one, hmax, haccess]
  have hfree : s.rangeBusy a 1 true = false := by simp [State.rangeBusy, granules_one, hbusy]
  have hwhole : s.merges a 1 = [] := by simp [State.merges, granules_one, hclean]
  simp [State.store, hallowed, hstream, hfree, State.storeNow, hwhole]

theorem PlainByte.store_byte {s : State} {a : Nat} (h : PlainByte s a) (r : Req) (b : Byte) :
    (s.store r a [b]).byte a = b := by
  have hmem (t : State) (k n : Nat) : (t.hostBytes k a n).mem = t.mem := by unfold State.hostBytes; split <;> rfl
  rw [h.store_eq r b, State.byte, hmem]
  obtain ⟨-, hclean, -, -, -⟩ := h
  exact s.byte_storeBytes_same a 0 [b] (by simp) hclean

/-- The event log stays disabled. -/
theorem PlainByte.store_evlog {s : State} {a : Nat} (h : PlainByte s a) (r : Req) (b : Byte) :
    (s.store r a [b]).regB Reg.hubEvlogCfg 0 = false := by
  rw [h.store_eq r b, State.regB_congr (State.hostBytes_reg_other _ _ _ _ (by decide))]
  exact h.evlog

/-! ## What follows the store of the status -/

/-- A status byte that may be stored now holds the status once the descriptor has completed. -/
theorem PlainByte.taskDone_byte {s : State} {ref : TaskRef} (h : PlainByte s (ref.addr + 3)) (r : Req) (st : Nat) :
    (s.taskDone r ref st).byte (ref.addr + 3) = BitVec.ofNat 8 st := by
  have hlog : ((s.writeStatus r (ref.addr + 3) st).signal (tdescOf ref.body).signalId).regB Reg.hubEvlogCfg 0 = false := by
    rw [State.regB, State.regF, State.reg, State.signal_regs]
    exact h.store_evlog r _
  rw [s.taskDone_eq, State.byte, State.descDone_mem _ _ _ _ hlog, State.signal_mem]
  exact h.store_byte r _

end Sys2Proof.Claims
end

section
/-! PROOFS. The end of a tile task (R109, R111, R112). -/
namespace Sys2Proof.Machine
open Sys2Proof.Claims

/-- The registers of tile `i` that the completion of a task writes. -/
def taskRegs (i : Nat) : List Nat :=
  [Reg.tnsCntTasks i, Reg.tnsEvent i, Reg.tnsLastErr i, Reg.tnsCntAnchorLow i, Reg.tnsCntPoisonIn i]

theorem le_of_mem_taskRegs {i o : Nat} (h : o ∈ taskRegs i) : 0x3000000 ≤ o := by
  simp only [taskRegs, List.mem_cons, List.not_mem_nil, or_false] at h
  rcases h with rfl | rfl | rfl | rfl | rfl <;> exact Nat.le_add_right_of_le (by decide)

/-- What the counters and events of a task that completes keep: the count of tasks, a write to another register of the tile,
and an event of the tile each keep it. -/
theorem State.taskCount_induction {P : State → Prop} {s : State} {i addr st : Nat}
    (hcount : P (s.count64 (Reg.tnsCntTasks i) 1))
    (hreg : ∀ (t : State) (o : Nat) (v : W64), o ∈ taskRegs i → o ≠ Reg.tnsCntTasks i → P t → P (t.setReg o v))
    (hev : ∀ (t : State) (b detail : Nat), P t → P (t.tnsEv i b detail)) : P (s.taskCount i addr st) := by
  unfold State.taskCount
  extract_lets s1 s2
  have h2 : P s2 := hreg _ _ _ (by simp [taskRegs]) (by simp) hcount
  split
  · exact hcount
  · split
    · exact hev _ _ _ h2
    · split
      · exact hev _ _ _ (hreg _ _ _ (by simp [taskRegs]) (by simp) h2)
      · split
        · exact hev _ _ _ h2
        · split
          · exact hreg _ _ _ (by simp [taskRegs]) (by simp) h2
          · exact h2

section
variable (s : State) (i addr st : Nat)

theorem State.taskCount_frame : Machine.EventFrame s (s.taskCount i addr st) :=
  State.taskCount_induction (P := Machine.EventFrame s) (s.count64_frame _ _) (fun t o v _ _ h => h.trans (t.setReg_frame o v))
    fun t _ _ h => h.trans (t.event_frame _ _ _ _ _)

/-- The count of tasks advances by 1, and saturates. -/
theorem State.taskCount_tasks : ((s.taskCount i addr st).reg (Reg.tnsCntTasks i)).toNat =
    min ((s.reg (Reg.tnsCntTasks i)).toNat + 1) (2 ^ 64 - 1) := by
  refine State.taskCount_induction (P := fun t => (t.reg (Reg.tnsCntTasks i)).toNat =
    min ((s.reg (Reg.tnsCntTasks i)).toNat + 1) (2 ^ 64 - 1)) (s.toNat_reg_count64 _ _) (fun t o v _ hne h => ?_)
    fun t b detail h => ?_
  · rwa [State.reg_setReg_other _ _ hne.symm]
  · rwa [State.tnsEv, t.event_reg_of_ge _ _ _ _ _ (by simp only [Reg.msixPba, Reg.tnsCntTasks]; omega) (by simp)]

end

/-- The state in which a task's descriptor completes: the task no longer runs, it is counted, and a hold that is not its own has
ended (R112). -/
def State.taskEnded (s : State) (i : Nat) (rt : RunTask) : State :=
  if (tdescOf rt.ref.body).accHold && rt.status != 0x20 && rt.status != 0x21 && rt.status != 0x22 then
    (s.setRun i none).taskCount i rt.ref.addr rt.status
  else ((s.setRun i none).taskCount i rt.ref.addr rt.status).setHeld i none

section
variable (s : State) (i : Nat) (rt : RunTask)

theorem State.finishTask_eq : s.finishTask i rt = (s.taskEnded i rt).taskDone (tileReq i) rt.ref rt.status := rfl

theorem State.taskEnded_frame : s.taskEnded i rt =
    { (s.setRun i none).taskCount i rt.ref.addr rt.status with tileHeld := (s.taskEnded i rt).tileHeld } := by
  unfold State.taskEnded
  split <;> rfl

theorem State.finishTask_runOf : (s.finishTask i rt).runOf i = none := by
  rw [s.finishTask_eq, State.runOf, State.taskDone_tileRun, s.taskEnded_frame, State.taskCount_frame]
  exact State.runOf_setRun s i none

theorem State.finishTask_queueOf (j : Nat) : (s.finishTask i rt).queueOf j = s.queueOf j := by
  rw [s.finishTask_eq, State.queueOf, State.taskDone_tileQ, s.taskEnded_frame, State.taskCount_frame]
  rfl

theorem State.finishTask_signalled : Signalled s (s.finishTask i rt) (tdescOf rt.ref.body).signalId := by
  have hsync : (s.taskEnded i rt).sync = s.sync := by
    rw [s.taskEnded_frame, State.taskCount_frame]
    rfl
  intro k
  have hdone := (s.taskEnded i rt).taskDone_signalled (tileReq i) rt.ref rt.status k
  rwa [State.syncCtr, State.syncCtr, hsync] at hdone

theorem State.finishTask_tasks : ((s.finishTask i rt).reg (Reg.tnsCntTasks i)).toNat =
    min ((s.reg (Reg.tnsCntTasks i)).toNat + 1) (2 ^ 64 - 1) := by
  have hmem : Reg.tnsCntTasks i ∈ taskRegs i := by simp [taskRegs]
  rw [s.finishTask_eq, State.taskDone_reg_of_tile _ _ _ _ (le_of_mem_taskRegs hmem), s.taskEnded_frame]
  exact (s.setRun i none).taskCount_tasks i _ _

end

end Sys2Proof.Machine

namespace Sys2Proof.Claims
open Sys2Proof.Machine

theorem PlainByte.taskCount {s : State} {a : Nat} (h : PlainByte s a) (i addr st : Nat) :
    PlainByte (s.taskCount i addr st) a := by
  have hoffs {o : Nat} (ho : o ∈ taskRegs i) : o ∉ plainOffs := notMem_plainOffs (le_of_mem_taskRegs ho)
  exact State.taskCount_induction (P := fun t => PlainByte t a) (h.setReg _ (hoffs (by simp [taskRegs])))
    (fun t o v ho _ ht => ht.setReg v (hoffs ho)) fun t b detail ht => ht.event _ _ _ _ (hoffs (by simp [taskRegs]))

theorem PlainByte.finishTask_byte {s : State} {i : Nat} {rt : RunTask} (h : PlainByte s (rt.ref.addr + 3)) :
    (s.finishTask i rt).byte (rt.ref.addr + 3) = BitVec.ofNat 8 rt.status := by
  rw [s.finishTask_eq]
  refine PlainByte.taskDone_byte ?_ _ _
  rw [s.taskEnded_frame]
  exact PlainByte.taskCount (s := s.setRun i none) h i _ _

end Sys2Proof.Claims
end

section
/-! PROOFS. Tile tasks: their start, their completion and their migration (R83 to R113, R155, R236, R237). -/
namespace Sys2Proof.Proofs
open Sys2Proof.Machine Sys2Proof.Claims

/-! ## Tasks that start -/

theorem exec_taskMatmul (i : Fin 256) (fs : List ArrayFault) (s : State) :
    exec (.taskMatmul i fs) s = .next (s.startTask i 1 fun s ref d => s.runProduct i ref d fs) := rfl

theorem exec_taskSliced (i : Fin 256) (fs : List ArrayFault) (s : State) :
    exec (.taskSliced i fs) s = .next (s.startTask i 2 fun s ref d => s.runProduct i ref d fs) := rfl

theorem exec_taskExponent (i : Fin 256) (s : State) :
    exec (.taskExponent i) s = .next (s.startTask i 3 fun s ref d => s.runExponent i ref d) := rfl

theorem exec_taskCombine (i : Fin 256) (s : State) :
    exec (.taskCombine i) s = .next (s.startTask i 4 fun s ref d => s.runCombine i ref d) := rfl

/-- A VPROG task leaves the queue and runs its program, which starts in the state of R155. -/
theorem taskVprog_starts (i : Fin 256) (s : State) (ref : TaskRef) (hready : TaskReady s i 5 ref)
    (hfree : ∀ e ∈ s.accesses, e.req ≠ tileReq i) :
    ∃ t q, exec (.taskVprog i) s = .next t ∧ t.runOf i = some ⟨ref, true, 0⟩ ∧
      t.queueOf i = (s.queueOf i).tail ∧ t.progOf (.tile i) = some q ∧
      q.pc = BitVec.ofNat 64 (tdescOf ref.body).aAddr ∧ q.vl = 0 ∧ q.vbad = true ∧ q.ctx = (tdescOf ref.body).cAddr ∧
      q.xr 1 = BitVec.ofNat 64 (tdescOf ref.body).m ∧ q.xr 2 = BitVec.ofNat 64 (tdescOf ref.body).n ∧
      q.xr 3 = BitVec.ofNat 64 (tdescOf ref.body).k ∧ q.xr 4 = BitVec.ofNat 64 (tdescOf ref.body).bAddr ∧
      (∀ k : Fin 32, 7 < k.val → q.xr k = 0) ∧ (∀ k : Fin 32, q.fr k = 0 ∧ q.vr k = 0) ∧ q.seed = s.reg Reg.bobSeed ∧
      ∀ v, v ≠ .tile i → t.progOf v = s.progOf v := by
  obtain ⟨hrun, hqueue, hprog, hothers, -⟩ := s.runVprog_leaves i ref (tdescOf ref.body)
  obtain ⟨hpc, hvl, hvbad, hctx, hseed⟩ := s.vprogEntry_config ref (tdescOf ref.body)
  have hpassed := (tdescOf ref.body).entry_passed
  simp only [← s.vprogEntry_xr ref] at hpassed
  obtain ⟨h1, h2, h3, h4⟩ := hpassed
  exact ⟨_, s.vprogEntry ref (tdescOf ref.body), exec_taskVprog_of_ready hready hfree, hrun, hqueue, hprog, hpc, hvl, hvbad,
    hctx, h1, h2, h3, h4, fun k hk => (s.vprogEntry_xr ref _ k).trans (TDesc.entry_xr_above _ hk),
    fun k => s.vprogEntry_fr_vr ref _ k, hseed, hothers⟩

/-- A malformed task completes at once (R108). -/
theorem taskMatmul_refuses (i : Fin 256) (s : State) (ref : TaskRef) (fs : List ArrayFault) (j : Nat)
    (hready : s.readyTask i 1 = some ref) (hjudge : s.tdescJudge (tdescOf ref.body) = j) (hj : j ≠ 0) :
    ∃ t, exec (.taskMatmul i fs) s = .next t ∧ t.runOf i = none ∧ t.queueOf i = (s.queueOf i).tail ∧
      Signalled s t (tdescOf ref.body).signalId := by
  subst hjudge
  refine ⟨_, by rw [exec_taskMatmul, State.startTask_of_malformed hready hj], ?_⟩
  rw [State.refuseTask]
  refine ⟨State.finishTask_runOf _ _ _, ?_, (s.popTask i ref).finishTask_signalled _ _⟩
  rw [State.finishTask_queueOf]
  exact State.queueOf_setQueue s i _

theorem tileTasksRun : Parts.TileTasksRun := fun i s ref =>
  ⟨fun h fs =>
    ⟨exec_task_of_whole h (exec_taskMatmul i fs s) (s.runProduct_leavesRunning i ref _ fs),
      exec_task_of_lacks h (exec_taskMatmul i fs s)⟩,
  fun h fs =>
    ⟨exec_task_of_whole h (exec_taskSliced i fs s) (s.runProduct_leavesRunning i ref _ fs),
      exec_task_of_lacks h (exec_taskSliced i fs s)⟩,
  fun h =>
    ⟨exec_task_of_whole h (exec_taskExponent i s) (s.runExponent_leavesRunning i ref _),
      exec_task_of_lacks h (exec_taskExponent i s)⟩,
  fun h =>
    ⟨exec_task_of_whole h (exec_taskCombine i s) (s.runCombine_leavesRunning i ref _),
      exec_task_of_lacks h (exec_taskCombine i s)⟩,
  taskVprog_starts i s ref, taskMatmul_refuses i s ref⟩

/-! ## Tasks that complete and tasks that move -/

/-- A task completes once nothing of its tile is outstanding (R109, R283). -/
theorem exec_taskComplete {i : Fin 256} {s : State} {rt : RunTask} (hrun : s.runOf i = some rt) (hprog : rt.prog = false)
    (hacked : ∀ q ∈ s.wroteTo, q.1 ≠ tileReq i) (hheld : ∀ r ∈ s.heldReqs, r ≠ tileReq i) :
    exec (.taskComplete i) s = .next (s.finishTask i rt) := by
  have hnone : s.unitOwes (tileReq i) = false := by
    simp only [State.unitOwes, State.holdsFor, Bool.or_eq_false_iff, List.any_eq_false, beq_iff_eq,
      List.contains_eq_mem, decide_eq_false_iff_not]
    exact ⟨hacked, fun hmem => hheld _ hmem rfl⟩
  change execTaskComplete i s = _
  simp [execTaskComplete, hrun, hprog, hnone]

/-- The first task that may move goes to a tile of the die that is idle and holds nothing (R236, R237). -/
theorem exec_taskMigrate {src dst : Fin 256} {s : State} {n : Nat} {r : TaskRef} (hon : s.regB Reg.detCfg 0 = true)
    (hne : src ≠ dst) (hdie : src.val / 64 = dst.val / 64) (hdst : dst.val < numTiles s.grade) (hqueue : s.queueOf dst = [])
    (hheld : s.heldOf dst = none) (hrun : ∀ rt, s.runOf dst = some rt → (tdescOf rt.ref.body).accHold = false)
    (hfirst : s.migrant (s.queueOf src) = some n) (hat : (s.queueOf src)[n]? = some r) :
    exec (.taskMigrate src dst) s =
      .next (((s.setQueue src ((s.queueOf src).eraseIdx n)).setQueue dst [r]).count64 Reg.detCntMigrate 1) := by
  have hto : s.migrateTo dst = true := by
    simp only [State.migrateTo, hqueue, hheld, List.isEmpty_nil, Option.isNone_none, Bool.true_and]
    split
    · next rt h => simp [hrun rt h]
    · rfl
  have hgo : ¬ (s.regB Reg.detCfg 0 = false ∨ src = dst ∨ src.val / 64 ≠ dst.val / 64 ∨ numTiles s.grade ≤ dst.val ∨
      s.migrateTo dst = false) := by
    simp [hon, hne, hdie, hto, hdst]
  change execTaskMigrate src dst s = _
  simp only [execTaskMigrate, if_neg hgo, hfirst, hat]

theorem tileTasksComplete : Parts.TileTasksComplete := by
  refine ⟨fun i s rt hrun hprog hacked hheld => ?_,
    fun src dst s n r hon hne hdie hdst hqueue hheld hrun hfirst hat => ?_⟩
  · exact ⟨_, exec_taskComplete hrun hprog hacked hheld, s.finishTask_runOf i rt, s.finishTask_signalled i rt,
      s.finishTask_tasks i rt, PlainByte.finishTask_byte⟩
  · have hkeys : (src : Nat) ≠ dst := fun h => hne (Fin.ext h)
    have hcount (t : State) (k : Nat) : (t.count64 Reg.detCntMigrate 1).queueOf k = t.queueOf k := rfl
    refine ⟨_, exec_taskMigrate hon hne hdie hdst hqueue hheld hrun hfirst hat, ?_, ?_, State.toNat_reg_count64 _ _ _, ?_⟩
    · rw [hcount, State.queueOf_setQueue]
    · rw [hcount, State.queueOf_setQueue_other _ _ hkeys, State.queueOf_setQueue]
    · simp only [State.count64, State.setReg, State.setQueue]

/-- Settles O21: a task that starts keeps to the work of a tile task, which leaves the queues and the running tasks, and its
status is the lowest of the codes of its kind; one that completes is counted, stores its status byte and signals. -/
theorem tileTasks : Obligations.TileTasks := ⟨tileTasksRun, tileTasksComplete⟩

end Sys2Proof.Proofs
end

section
/-! PROOFS. Rounding to a floating-point format (R72 to R76): an encoding has no more bits than its format. -/
namespace Sys2Proof.Machine

/-! ## The fields of an encoding -/

section
variable {f : Fmt} (hf : f.isInt = false)
include hf

theorem Fmt.encNan_lt : f.encNan < 2 ^ f.width := by
  revert hf
  cases f <;> decide

theorem Fmt.encMax_lt (neg : Bool) : f.encMax neg < 2 ^ f.width := by
  revert hf neg
  cases f <;> decide

theorem Fmt.encInf_lt (neg : Bool) : f.encInf neg < 2 ^ f.width := by
  revert hf neg
  cases f <;> decide

/-- Below the sign bit there is room for a fraction under each exponent field up to that of emax. -/
theorem Fmt.exponents_le : ((f.emax + f.bias).toNat + 1) * 2 ^ f.t ≤ 2 ^ (f.width - 1) := by
  revert hf
  cases f <;> decide

end

theorem Fmt.signBit_add_lt {f : Fmt} {x : Nat} (neg : Bool) (hx : x < 2 ^ (f.width - 1)) :
    f.signBit neg + x < 2 ^ f.width := by
  have hwidth : 2 ^ f.width = 2 ^ (f.width - 1) * 2 := by cases f <;> rfl
  rw [hwidth, Fmt.signBit]
  split <;> omega

/-! ## The significand (R72) -/

/-- A magnitude whose last `d` binary places are rounded off keeps at most `t + 1` of them, or is 2^(t + 1). -/
theorem roundSig_le {m t : Nat} {d : Int} (hd : (log2 m : Int) - t ≤ d) (rnd : Rnd) (r : Nat) :
    roundSig rnd r m d ≤ 2 ^ (t + 1) := by
  have hm : m < 2 ^ (log2 m + 1) := Nat.lt_log2_self
  unfold roundSig
  split
  · calc m * 2 ^ (-d).toNat ≤ 2 ^ (log2 m + 1) * 2 ^ (-d).toNat := Nat.mul_le_mul_right _ hm.le
      _ = 2 ^ (log2 m + 1 + (-d).toNat) := (Nat.pow_add _ _ _).symm
      _ ≤ 2 ^ (t + 1) := Nat.pow_le_pow_right (by decide) (by omega)
  · have hquot : m / 2 ^ d.toNat < 2 ^ (t + 1) := Nat.div_lt_of_lt_mul <| calc
      m < 2 ^ (log2 m + 1) := hm
      _ ≤ 2 ^ (d.toNat + (t + 1)) := Nat.pow_le_pow_right (by decide) (by omega)
      _ = 2 ^ d.toNat * 2 ^ (t + 1) := Nat.pow_add _ _ _
    have hup (b : Bool) : bnat b ≤ 1 := by cases b <;> decide
    exact (Nat.add_le_add_left (hup _) _).trans hquot

theorem Fmt.le_lsb {f : Fmt} (hf : f.isInt = false) (m : Nat) (e : Int) : (log2 m : Int) - f.t ≤ f.lsb m e - e := by
  rw [Fmt.lsb, hf, if_neg Bool.false_ne_true]
  omega

/-- After the carry a significand has at most `t + 1` bits. -/
theorem carried_lt {t n : Nat} (hn : n ≤ 2 ^ (t + 1)) : (if n = 2 ^ (t + 1) then 2 ^ t else n) < 2 ^ (t + 1) := by
  split
  · exact Nat.pow_lt_pow_right (by decide) (by omega)
  · omega

/-! ## Rounding -/

/-- The encoding of a number with the significand `n` and the last place 2^`l` (R61). -/
theorem encode_normal_lt {f : Fmt} (hf : f.isInt = false) {n : Nat} {l : Int} (neg : Bool) (hn : n < 2 ^ (f.t + 1))
    (hl : l ≤ f.emax - f.t) : f.signBit neg + (l + f.t + f.bias).toNat * 2 ^ f.t + (n - 2 ^ f.t) < 2 ^ f.width := by
  have hexp : (l + f.t + f.bias).toNat * 2 ^ f.t ≤ (f.emax + f.bias).toNat * 2 ^ f.t :=
    Nat.mul_le_mul_right _ (by omega)
  have hroom := Fmt.exponents_le hf
  rw [Nat.succ_mul] at hroom
  rw [Nat.pow_succ] at hn
  rw [Nat.add_assoc]
  have := Nat.two_pow_pos f.t
  exact Fmt.signBit_add_lt neg (by omega)

theorem encode_subnormal_lt {f : Fmt} (hf : f.isInt = false) {n : Nat} (neg : Bool) (hn : n < 2 ^ f.t) :
    f.signBit neg + n < 2 ^ f.width := by
  have hroom := Fmt.exponents_le hf
  rw [Nat.succ_mul] at hroom
  exact Fmt.signBit_add_lt neg (by omega)

/-- A value rounded to a floating-point format is an encoding of that format. -/
theorem roundTo_lt {f : Fmt} (hf : f.isInt = false) (rnd : Rnd) (satinf : Bool) (r : Nat) (v : Num) :
    (roundTo f rnd satinf r v).1 < 2 ^ f.width := by
  cases v with
  | nan => exact Fmt.encNan_lt hf
  | inf neg => exact Fmt.encInf_lt hf neg
  | fin m e =>
    have hn := carried_lt (roundSig_le (Fmt.le_lsb hf m.natAbs e) rnd r)
    simp only [roundTo, hf, Bool.false_eq_true, if_false]
    generalize roundSig rnd r m.natAbs (f.lsb m.natAbs e - e) = n0 at hn ⊢
    generalize (if n0 = 2 ^ (f.t + 1) then 2 ^ f.t else n0) = n at hn ⊢
    generalize (if n0 = 2 ^ (f.t + 1) then f.lsb m.natAbs e + 1 else f.lsb m.natAbs e) = l
    split
    · exact Nat.two_pow_pos _
    split
    · exact Nat.two_pow_pos _
    split
    · split
      · exact Fmt.encInf_lt hf _
      · exact Fmt.encMax_lt hf _
    next hfits =>
    split
    · exact encode_normal_lt hf _ hn (by omega)
    · exact encode_subnormal_lt hf _ (by omega)

theorem Prog.roundEl_lt {f : Fmt} (hf : f.isInt = false) (p : Prog) (k : Nat) (v : Num) :
    (p.roundEl f k v).1 < 2 ^ f.width :=
  roundTo_lt hf _ _ _ _

theorem encRne_lt {f : Fmt} (hf : f.isInt = false) (v : Num) : encRne f v < 2 ^ f.width :=
  roundTo_lt hf _ _ _ _

end Sys2Proof.Machine
end

section
/-! PROOFS. Instructions that report to a monitor set (R163): a report leaves the program as it completed. -/
namespace Sys2Proof.Machine

theorem State.monReport_accesses (s : State) (set : Option Nat) (xs : List (Num × Ev)) :
    (s.monReport set xs).accesses = s.accesses := by
  unfold State.monReport
  split
  · split <;> rfl
  · rfl

end Sys2Proof.Machine

namespace Sys2Proof.Claims
open Sys2Proof.Machine

theorem completed_finished (s : State) (u : VUnit) (p p1 : Prog) : Finished (s.completed u p p1) u p p1 := by
  obtain ⟨hprog, -⟩ := s.completed_Completed u p p1
  exact hprog

section
variable {s s1 : State} {u : VUnit} {p p1 : Prog} {i : Instr}

/-- An instruction of a ready program whose body completes with the program `p1` and a state `s1` in which no unit awaits
more than before. -/
theorem Ready.instr_done_of_accesses (h : Ready s u p i) {mf : Nat} {body : State → Prog → IRes}
    (hbody : body s p = .done s1 p1) (haccesses : s1.accesses = s.accesses) :
    s.instr u mf body = s1.completed u p p1 := by
  have hready := h.progReady
  obtain ⟨hprog, -, -, hwait, -, hfree, -⟩ := h
  rw [← haccesses] at hfree
  have hsame : { p with wait := .no } = p := by rw [← hwait]
  have hlacks : (body s { p with wait := .no }).st.lacks (progReq u) = false := by
    rw [hsame, hbody]
    exact State.lacks_of_no_access hfree
  rw [State.instr_of_whole hprog hready hlacks, hsame, hbody]
  exact State.dropAccesses_of_no_access hfree

/-- A floating-point vector instruction under a valid format whose body completes, where VL is not 0. -/
theorem VReady.vfp_done_of_accesses (h : VReady s u p i) {maj fn : Nat} {ok : Bool} {f : Fmt}
    {body : State → Prog → Fmt → IRes} (hok : ok = true) (hfmt : p.fpFmt = some f) (hvl : p.vl ≠ 0)
    (hbody : body s p f = .done s1 p1) (haccesses : s1.accesses = s.accesses) :
    s.vfp u maj fn ok body = s1.completed u p p1 := by
  obtain ⟨hready, hvalid, -⟩ := h
  unfold State.vfp State.vinstr
  refine hready.instr_done_of_accesses ?_ haccesses
  rw [hvalid, hok, if_neg (by decide), if_neg hvl]
  dsimp only
  rw [hfmt]
  exact hbody

end

end Sys2Proof.Claims
end

section
/-! PROOFS. The update with remainder (R171, R172): its two destinations hold the rounded sum and the remainder of each
active element. -/
namespace Sys2Proof.Machine

/-! ## What VFUPD leaves -/

/-- A destination that takes `out` in its active lanes and is left in the others. -/
def Prog.activeLanes (p : Prog) (o : VFields) (out : Nat → Nat × Bool) (k : Nat) : LaneOut :=
  if p.active o.msk k then some (out k) else none

/-- Does element `k` of VFUPD draw on poison (R140)? -/
def Prog.updPois (p : Prog) (o : VFields) (f : Fmt) (k : Nat) : Bool :=
  p.lanePois o.d f.width k || p.lanePois o.b f.width k || p.lanePois o.a 16 k

/-- The program after VFUPD wrote the weights. -/
def Prog.weighed (p : Prog) (o : VFields) (f : Fmt) : Prog :=
  p.writeLanes o.d f.width p.vl (p.activeLanes o fun k => ((p.updEl o f k).2.1, p.updPois o f k))

/-- The program after VFUPD wrote the weights and the remainders. -/
def Prog.updated (p : Prog) (o : VFields) (f : Fmt) : Prog :=
  (p.weighed o f).writeLanes o.a 16 p.vl (p.activeLanes o fun k => ((p.updEl o f k).2.2.1, p.updPois o f k))

/-- The state after VFUPD reported its active elements, where VTYPE.MON is 1 (R172). -/
def State.updReported (s : State) (p : Prog) (o : VFields) (f : Fmt) : State :=
  if p.mon then s.monReport (some p.vmonid.toNat)
    (((p.actives o.msk).filter fun k => !p.updPois o f k).map fun k => ((p.updEl o f k).1, (p.updEl o f k).2.2.2))
  else s

theorem State.updReported_of_silent {p : Prog} (h : p.mon = false) (s : State) (o : VFields) (f : Fmt) :
    s.updReported p o f = s := by
  rw [State.updReported, h, if_neg Bool.false_ne_true]

theorem State.updReported_accesses (s : State) (p : Prog) (o : VFields) (f : Fmt) :
    (s.updReported p o f).accesses = s.accesses := by
  unfold State.updReported
  split
  · exact s.monReport_accesses _ _
  · rfl

theorem exec_vfupd (u : VUnit) (o : VFields) (s : State) : exec (.vfupd u o) s =
    .next (s.issue u (.vfupd u o) fun s => s.vfp u 0x32 0x22 (!o.sc && !o.m1) fun s p f =>
      need s ((f == .b32 || f == .b16 || f == .bf16) && !o.z && o.a != o.d && o.a != o.b)
        (.done (s.updReported p o f) (p.updated o f))) := rfl

end Sys2Proof.Machine

namespace Sys2Proof.Claims
open Sys2Proof Sys2Proof.Machine

/-! ## Active lanes alone -/

section
variable {p q : Prog} {o : VFields} {w k : Nat} {out : Nat → Nat × Bool}

theorem activeLanes_of_act (h : Act p o k) : p.activeLanes o out k = some (out k) := if_pos (active_iff.2 h)
theorem activeLanes_of_not_act (h : ¬ Act p o k) : p.activeLanes o out k = none := if_neg (mt active_iff.1 h)

/-- An element that lies in one register depends on that register alone. -/
theorem el_congr {i : Nat} (hreg : q.vr i = p.vr i) (hk : w * (k + 1) ≤ 8192) : el q i w k = el p i w k :=
  BitVec.eq_of_toNat_eq (by rw [toNat_el q i hk, toNat_el p i hk, hreg])

variable (d : Nat) (hn : w * p.vl ≤ 8192)
include hn

theorem el_writeLanes_of_act (hact : Act p o k) (hout : (out k).1 < 2 ^ w) :
    (el (q.writeLanes d w p.vl (p.activeLanes o out)) d w k).toNat = (out k).1 := by
  rw [toNat_el _ _ (element_end_le hn hact.1), q.lane_writeLanes d _ hn, if_pos hact.1, laneAfter, activeLanes_of_act hact,
    Option.elim_some, Nat.mod_eq_of_lt hout]

theorem el_writeLanes_of_not_act (hact : ¬ Act p o k) (hk : w * (k + 1) ≤ 8192) :
    el (q.writeLanes d w p.vl (p.activeLanes o out)) d w k = el q d w k := by
  refine BitVec.eq_of_toNat_eq ?_
  rw [toNat_el _ _ hk, toNat_el _ _ hk, q.lane_writeLanes d _ hn, laneAfter, activeLanes_of_not_act hact, Option.elim_none,
    ite_self]

end

/-! ## The destinations of VFUPD -/

theorem updRem_lt (f : Fmt) (x : Machine.Num) (w : Nat × Ev) : updRem f x w < 2 ^ 16 := by
  unfold updRem
  split
  · exact encRne_lt (f := .bf16) rfl _
  · exact Nat.two_pow_pos 16

section
variable {p : Prog} {o : VFields} {f : Fmt}

/-- What VFUPD computes for one element, by the exact sum of the statement. -/
theorem updEl_eq {k : Nat} (hk : f.width * (k + 1) ≤ 8192) (hrem : 16 * (k + 1) ≤ 8192) : p.updEl o f k =
    (updSum p o f k, (p.roundEl f k (updSum p o f k)).1, updRem f (updSum p o f k) (p.roundEl f k (updSum p o f k)),
      (p.roundEl f k (updSum p o f k)).2) := by
  have hsum : ((decodeNum f (lane f.width (p.vr o.d) k)).add (decodeNum f (lane f.width (p.vr o.b) k))).add
      (decodeNum .bf16 (lane 16 (p.vr o.a) k)) = updSum p o f k := by
    rw [decodeNum_lane p o.d hk, decodeNum_lane p o.b hk]
    exact congrArg _ (decodeNum_lane (f := .bf16) p o.a hrem)
  simp only [Prog.updEl, hsum, updRem, Machine.Num.sub, Bool.and_eq_true, bne_iff_ne]

variable (hw : f.width * p.vl ≤ 8192) (hr : 16 * p.vl ≤ 8192)
include hr

theorem vr_updated_weight (hne : o.a ≠ o.d) : (p.updated o f).vr o.d = (p.weighed o f).vr o.d :=
  Prog.vr_writeLanes_other _ _ _ hr (Fin.val_ne_of_ne hne.symm)

include hw

theorem vr_updated_other {i : Fin 32} (hd : i ≠ o.d) (ha : i ≠ o.a) : (p.updated o f).vr i = p.vr i :=
  (Prog.vr_writeLanes_other _ _ _ hr (Fin.val_ne_of_ne ha)).trans (Prog.vr_writeLanes_other _ _ _ hw (Fin.val_ne_of_ne hd))

theorem updated_frame : p.updated o f = { p with v := (p.updated o f).v, pois := (p.updated o f).pois } := by
  rw [Prog.updated, Prog.writeLanes_frame _ _ _ hr, Prog.weighed, Prog.writeLanes_frame _ _ _ hw]

/-- An active element holds the rounded sum and its remainder (R171). -/
theorem updated_of_act (hne : o.a ≠ o.d) (hf : f.isInt = false) {k : Nat} (hact : Act p o k) :
    (el (p.updated o f) o.d f.width k).toNat = (p.roundEl f k (updSum p o f k)).1 ∧
      (el (p.updated o f) o.a 16 k).toNat = updRem f (updSum p o f k) (p.roundEl f k (updSum p o f k)) := by
  have hk := element_end_le hw hact.1
  have hel := updEl_eq (p := p) (o := o) hk (element_end_le hr hact.1)
  have hweight : (p.updEl o f k).2.1 = (p.roundEl f k (updSum p o f k)).1 := by rw [hel]
  have hrem : (p.updEl o f k).2.2.1 = updRem f (updSum p o f k) (p.roundEl f k (updSum p o f k)) := by rw [hel]
  constructor
  · rw [el_congr (vr_updated_weight hr hne) hk, ← hweight]
    exact el_writeLanes_of_act _ hw hact (hweight ▸ p.roundEl_lt hf k _)
  · rw [← hrem]
    exact el_writeLanes_of_act _ hr hact (hrem ▸ updRem_lt _ _ _)

/-- An inactive element is left in both destinations (R171). -/
theorem updated_of_not_act (hne : o.a ≠ o.d) {k : Nat} (hact : ¬ Act p o k) :
    (f.width * (k + 1) ≤ 8192 → el (p.updated o f) o.d f.width k = el p o.d f.width k) ∧
      (16 * (k + 1) ≤ 8192 → el (p.updated o f) o.a 16 k = el p o.a 16 k) := by
  constructor
  · intro hk
    exact (el_congr (vr_updated_weight hr hne) hk).trans (el_writeLanes_of_not_act _ hw hact hk)
  · intro hk
    have hkept : (p.weighed o f).vr o.a = p.vr o.a := Prog.vr_writeLanes_other _ _ _ hw (Fin.val_ne_of_ne hne)
    exact (el_writeLanes_of_not_act _ hr hact hk).trans (el_congr hkept hk)

end

end Sys2Proof.Claims

namespace Sys2Proof.Proofs
open Sys2Proof Sys2Proof.Machine Sys2Proof.Claims

section
variable {s : State} {u : VUnit} {p : Prog} {o : VFields} {f : Fmt} (h : VReady s u p (.vfupd u o)) (hsc : o.sc = false)
  (hm1 : o.m1 = false)
include h hsc hm1

theorem exec_vfupd_of_vl_zero (hvl : p.vl = 0) : exec (.vfupd u o) s = .next (s.completed u p p) := by
  obtain ⟨hready, -, -⟩ := id h
  rw [exec_vfupd, hready.issue]
  exact congrArg _ (h.vinstr_done (by rw [hsc, hm1]; rfl) (fun _ => rfl) fun hne => absurd hvl hne)

theorem exec_vfupd_of_vl_ne_zero (hvl : p.vl ≠ 0) (hfmt : p.fpFmt = some f) (hf : f = .b32 ∨ f = .b16 ∨ f = .bf16)
    (hz : o.z = false) (had : o.a ≠ o.d) (hab : o.a ≠ o.b) :
    exec (.vfupd u o) s = .next ((s.updReported p o f).completed u p (p.updated o f)) := by
  obtain ⟨hready, -, -⟩ := id h
  have hlegal : ((f == .b32 || f == .b16 || f == .bf16) && !o.z && o.a != o.d && o.a != o.b) = true := by
    rcases hf with rfl | rfl | rfl <;> simp [hz, had, hab]
  rw [exec_vfupd, hready.issue]
  exact congrArg _ (h.vfp_done_of_accesses (by rw [hsc, hm1]; rfl) hfmt hvl (need_of_true hlegal _ _)
    (s.updReported_accesses p o f))

end

/-- Settles O9: with VL = 0 nothing is written, and otherwise the weights and the remainders are written to two different
registers; each fits its lane, since an encoding has no more bits than its format. -/
theorem vectorUpdateWithRemainder : Obligations.VectorUpdateWithRemainder := by
  intro u o s p f h hfmt hf hsc hm1 hz had hab
  have hfloat : f.isInt = false ∧ 16 ≤ f.width := by rcases hf with rfl | rfl | rfl <;> decide
  obtain ⟨hfloat, hwide⟩ := hfloat
  have hw : f.width * p.vl ≤ 8192 := Prog.width_of_fpFmt hfmt ▸ h.ew_mul_vl_le
  have hr : 16 * p.vl ≤ 8192 := (Nat.mul_le_mul_right _ hwide).trans hw
  by_cases hvl : p.vl = 0
  · have hnone (k : Nat) : ¬ Act p o k := fun hact => by
      obtain ⟨hlt, -⟩ := hact
      omega
    exact ⟨s.completed u p p, p, exec_vfupd_of_vl_zero h hsc hm1 hvl, completed_finished s u p p, rfl,
      fun k hact => absurd hact (hnone k), fun _ _ => ⟨fun _ => rfl, fun _ => rfl⟩, fun _ _ _ => rfl,
      fun _ => s.completed_inRegisters u p p⟩
  · refine ⟨(s.updReported p o f).completed u p (p.updated o f), p.updated o f,
      exec_vfupd_of_vl_ne_zero h hsc hm1 hvl hfmt hf hz had hab, completed_finished _ u p _, updated_frame hw hr,
      fun k hact => updated_of_act hw hr had hfloat hact, fun k hact => updated_of_not_act hw hr had hact,
      fun i hd ha => vr_updated_other hw hr hd ha, fun hmon => ?_⟩
    rw [State.updReported_of_silent hmon]
    exact s.completed_inRegisters u p _

end Sys2Proof.Proofs
end

section
/-! PROOFS. The integer arithmetic of the scalar base (R177, R178): the functions of the model are the operations of two's
complement that the statement names. -/
namespace Sys2Proof.Machine
open Sys2Proof.Claims

/-! ## Products and quotients -/

theorem extractLsb'_ofInt (z : Int) : (BitVec.ofInt 128 z).extractLsb' 64 64 = BitVec.ofInt 64 (z / 2 ^ 64) := by
  refine BitVec.eq_of_toNat_eq ?_
  rw [BitVec.extractLsb'_toNat, BitVec.toNat_ofInt, BitVec.toNat_ofInt, Nat.shiftRight_eq_div_pow]
  omega

/-- The high half of a signed product. -/
theorem ofInt_mulhi (a b : W64) : BitVec.ofInt 64 (a.toInt * b.toInt / 2 ^ 64) =
    (a.signExtend 128 * b.signExtend 128).extractLsb' 64 64 := by
  rw [BitVec.signExtend, BitVec.signExtend, ← BitVec.ofInt_mul, extractLsb'_ofInt]

/-- The high half of an unsigned product. -/
theorem ofNat_mulhi (a b : W64) : BitVec.ofNat 64 (a.toNat * b.toNat / 2 ^ 64) =
    (a.zeroExtend 128 * b.zeroExtend 128).extractLsb' 64 64 := by
  have hlt : a.toNat * b.toNat < 2 ^ 128 := (Nat.mul_lt_mul'' a.isLt b.isLt).trans_eq (by decide)
  refine BitVec.eq_of_toNat_eq ?_
  rw [BitVec.extractLsb'_toNat, BitVec.toNat_mul, BitVec.toNat_setWidth_of_le (by decide),
    BitVec.toNat_setWidth_of_le (by decide), Nat.mod_eq_of_lt hlt, Nat.shiftRight_eq_div_pow, BitVec.toNat_ofNat]

theorem ofInt_tdiv (a b : W64) : BitVec.ofInt 64 (a.toInt.tdiv b.toInt) = if b = 0 then 0 else a.sdiv b := by
  split
  · next h => rw [h]; simp
  · refine BitVec.eq_of_toInt_eq ?_
    rw [BitVec.toInt_ofInt, BitVec.toInt_sdiv]

theorem ofNat_div (a b : W64) : BitVec.ofNat 64 (a.toNat / b.toNat) = if b = 0 then 0 else a.udiv b := by
  split
  · next h => rw [h]; simp
  · exact BitVec.udiv_def.symm

theorem ofInt_tmod (a b : W64) : BitVec.ofInt 64 (a.toInt.tmod b.toInt) = if b = 0 then a else a.srem b := by
  split
  · next h => rw [h]; simp
  · rw [← BitVec.toInt_srem, BitVec.ofInt_toInt]

theorem ofNat_mod (a b : W64) : BitVec.ofNat 64 (a.toNat % b.toNat) = if b = 0 then a else a.umod b := by
  split
  · next h => rw [h]; simp
  · exact BitVec.umod_def.symm

/-! ## Compares -/

theorem b64_slt (a b : W64) : b64 (a.slt b) = if a.toInt < b.toInt then 1 else 0 := by
  rw [b64, BitVec.slt_eq_decide]
  exact if_congr decide_eq_true_iff rfl rfl

theorem b64_ult (a b : W64) : b64 (a.ult b) = if a.toNat < b.toNat then 1 else 0 := by
  rw [b64, BitVec.ult_eq_decide]
  exact if_congr decide_eq_true_iff rfl rfl

theorem min_slt (a b : W64) : (if b.slt a then b else a) = if a.toInt ≤ b.toInt then a else b := by
  rw [BitVec.slt_eq_decide]
  simp only [decide_eq_true_eq]
  split_ifs with hlt hle hle
  · omega
  · rfl
  · rfl
  · omega

theorem max_slt (a b : W64) : (if a.slt b then b else a) = if a.toInt ≤ b.toInt then b else a := by
  rw [BitVec.slt_eq_decide]
  simp only [decide_eq_true_eq]
  split_ifs with hlt hle hle
  · rfl
  · omega
  · exact BitVec.eq_of_toInt_eq (by omega)
  · rfl

/-! ## Counting bits -/

theorem lzcFrom_eq (x : W64) (n : Nat) :
    lzcFrom x n = ((List.range n).reverse.takeWhile fun i => !x.getLsbD i).length := by
  induction n with
  | zero => rfl
  | succ n ih =>
    rw [List.range_succ, List.reverse_append, List.reverse_singleton, List.singleton_append, List.takeWhile_cons, lzcFrom, bit]
    cases x.getLsbD n
    · exact congrArg (· + 1) ih
    · rfl

theorem popBelow_eq (x : W64) (n : Nat) : popBelow x n = ((List.range n).filter fun i => x.getLsbD i).length := by
  induction n with
  | zero => rfl
  | succ n ih =>
    rw [List.range_succ, List.filter_append, List.length_append, popBelow, bit, ih, Nat.add_comm]
    cases h : x.getLsbD n <;> simp [bnat, h]

/-! ## Shifts -/

theorem shl_sixteen (x : W64) : x <<< 16 = x * 65536#64 := BitVec.shiftLeft_eq_mul_twoPow x 16

theorem shl_or (x : W64) (imm : BitVec 16) : (x <<< 16) ||| imm.zeroExtend 64 = x * 65536#64 + imm.zeroExtend 64 := by
  have hapart : (x <<< 16) &&& imm.zeroExtend 64 = 0#64 := by
    refine BitVec.eq_of_getLsbD_eq fun i _ => ?_
    rw [BitVec.getLsbD_and, BitVec.getLsbD_shiftLeft, BitVec.getLsbD_setWidth]
    by_cases hi : i < 16
    · simp [hi]
    · simp [BitVec.getLsbD_of_ge imm i (by omega)]
  rw [← shl_sixteen, BitVec.add_eq_or_of_and_eq_zero _ _ hapart]

theorem toNat_signExtend_of_small {imm : BitVec 11} (h : imm.toNat < 64) : (imm.signExtend 64).toNat = imm.toNat := by
  have hpos : imm.msb = false := BitVec.msb_eq_false_iff_two_mul_lt.2 (by omega)
  rw [BitVec.signExtend_eq_setWidth_of_msb_false hpos, BitVec.toNat_setWidth_of_le (by decide)]

end Sys2Proof.Machine
end

section
/-! PROOFS. The integer instructions of the scalar base (R176 to R178). -/
namespace Sys2Proof.Proofs
open Sys2Proof Sys2Proof.Machine Sys2Proof.Claims

/-- The 3R integer commands are `State.alu` with the operations of `aluOps`. -/
theorem aluOps_exec : ∀ e ∈ aluOps, ∃ fn f, (∀ (u : VUnit) (xd xs1 xs2 : Fin 32) (s : State),
    exec (e.1 u xd xs1 xs2) s = .next (s.issue u (e.1 u xd xs1 xs2) fun s => s.alu u fn xd xs1 xs2 f)) ∧
    ∀ a b, f a b = e.2 a b := by
  simp only [aluOps, List.cons_append, List.nil_append, List.forall_mem_cons]
  exact ⟨⟨0x00, _, fun _ _ _ _ _ => rfl, fun _ _ => rfl⟩, ⟨0x01, _, fun _ _ _ _ _ => rfl, fun _ _ => rfl⟩,
    ⟨0x02, _, fun _ _ _ _ _ => rfl, fun _ _ => rfl⟩, ⟨0x03, _, fun _ _ _ _ _ => rfl, ofInt_mulhi⟩,
    ⟨0x04, _, fun _ _ _ _ _ => rfl, ofNat_mulhi⟩, ⟨0x05, _, fun _ _ _ _ _ => rfl, ofInt_tdiv⟩,
    ⟨0x06, _, fun _ _ _ _ _ => rfl, ofNat_div⟩, ⟨0x07, _, fun _ _ _ _ _ => rfl, ofInt_tmod⟩,
    ⟨0x08, _, fun _ _ _ _ _ => rfl, ofNat_mod⟩, ⟨0x09, _, fun _ _ _ _ _ => rfl, fun _ _ => rfl⟩,
    ⟨0x0A, _, fun _ _ _ _ _ => rfl, fun _ _ => rfl⟩, ⟨0x0B, _, fun _ _ _ _ _ => rfl, fun _ _ => rfl⟩,
    ⟨0x0F, _, fun _ _ _ _ _ => rfl, b64_slt⟩, ⟨0x10, _, fun _ _ _ _ _ => rfl, b64_ult⟩,
    ⟨0x11, _, fun _ _ _ _ _ => rfl, min_slt⟩, ⟨0x12, _, fun _ _ _ _ _ => rfl, max_slt⟩,
    ⟨0x13, _, fun _ _ _ _ _ => rfl, fun a _ => congrArg _ (lzcFrom_eq a 64)⟩,
    ⟨0x14, _, fun _ _ _ _ _ => rfl, fun a _ => congrArg _ (popBelow_eq a 64)⟩, List.forall_mem_nil _⟩

/-- The RI integer commands are `State.aluI` with the operations of `aluImmOps`. -/
theorem aluImmOps_exec : ∀ e ∈ aluImmOps, ∃ f, (∀ (u : VUnit) (xd xs1 : Fin 32) (imm : BitVec 11) (s : State),
    exec (e.1 u xd xs1 imm) s = .next (s.issue u (e.1 u xd xs1 imm) fun s => s.aluI u xd xs1 imm f)) ∧
    ∀ a b, f a b = e.2 a b := by
  simp only [aluImmOps, List.forall_mem_cons]
  exact ⟨⟨_, fun _ _ _ _ _ => rfl, fun _ _ => rfl⟩, ⟨_, fun _ _ _ _ _ => rfl, fun _ _ => rfl⟩,
    ⟨_, fun _ _ _ _ _ => rfl, fun _ _ => rfl⟩, ⟨_, fun _ _ _ _ _ => rfl, fun _ _ => rfl⟩,
    ⟨_, fun _ _ _ _ _ => rfl, b64_slt⟩, List.forall_mem_nil _⟩

/-- The shift commands are `State.shift` with the operations of `shiftOps`. -/
theorem shiftOps_exec : ∀ e ∈ shiftOps, ∃ mf, ∀ (u : VUnit) (xd xs1 xs2 : Fin 32) (s : State),
    exec (e.1 u xd xs1 xs2) s =
      .next (s.issue u (e.1 u xd xs1 xs2) fun s => s.shift u mf xd xs1 (fun p => p.xr xs2) e.2) := by
  simp only [shiftOps, List.forall_mem_cons]
  exact ⟨⟨majFn 0x00 0x0C, fun _ _ _ _ _ => rfl⟩, ⟨majFn 0x00 0x0D, fun _ _ _ _ _ => rfl⟩,
    ⟨majFn 0x00 0x0E, fun _ _ _ _ _ => rfl⟩, List.forall_mem_nil _⟩

theorem shiftImmOps_exec : ∀ e ∈ shiftImmOps, ∀ (u : VUnit) (xd xs1 : Fin 32) (imm : BitVec 11) (s : State),
    exec (e.1 u xd xs1 imm) s = .next (s.issue u (e.1 u xd xs1 imm) fun s =>
      s.shift u (majFn 0x01 (imm.toNat / 32)) xd xs1 (fun _ => imm.signExtend 64) e.2) := by
  simp only [shiftImmOps, List.forall_mem_cons]
  exact ⟨fun _ _ _ _ _ => rfl, fun _ _ _ _ _ => rfl, fun _ _ _ _ _ => rfl, List.forall_mem_nil _⟩

section
variable {s : State} {u : VUnit} {p : Prog} {i : Instr} (h : Ready s u p i)
include h

/-- An instruction that writes a value to xd and does nothing else. -/
theorem exec_toX {mf : Nat} {body : State → Prog → IRes} (hexec : exec i s = .next (s.issue u i fun s => s.instr u mf body))
    {xd : Fin 32} {v w : W64} (hbody : body s p = .done s (p.setX xd v)) (hv : v = w) :
    ∃ t p1, exec i s = .next t ∧ XWritten p p1 xd w ∧ InRegisters s t u p p1 (p.pc + 4) :=
  h.exec_completed hexec (h.instr_done hbody) (hv ▸ setX_written p xd v)

/-- A shift by less than 64 shifts; by more it writes a free value. -/
theorem exec_shift {mf : Nat} {xd xs1 : Fin 32} {count : Prog → W64} {f : W64 → Nat → W64}
    (hexec : exec i s = .next (s.issue u i fun s => s.shift u mf xd xs1 count f)) :
    ∃ t p1 v, exec i s = .next t ∧ XWritten p p1 xd v ∧
      ((count p).toNat < 64 → v = f (p.xr xs1) (count p).toNat) ∧ InRegisters s t u p p1 (p.pc + 4) := by
  obtain ⟨t, p1, hnext, hwritten, hregs⟩ := exec_toX h hexec rfl rfl
  exact ⟨t, p1, _, hnext, hwritten, fun hlt => if_pos hlt, hregs⟩

end

theorem scalarIntegerResults : Parts.ScalarIntegerResults := by
  refine ⟨fun e he u xd xs1 xs2 s p h => ?_, fun e he u xd xs1 imm s p h => ?_, fun u xd imm s p h => ?_,
    fun u xd imm s p h => ?_⟩
  · obtain ⟨fn, f, hexec, hf⟩ := aluOps_exec e he
    exact exec_toX h (hexec u xd xs1 xs2 s) rfl (hf _ _)
  · obtain ⟨f, hexec, hf⟩ := aluImmOps_exec e he
    exact exec_toX h (hexec u xd xs1 imm s) rfl (hf _ _)
  · exact exec_toX h rfl rfl (shl_sixteen _)
  · exact exec_toX h rfl rfl (shl_or _ _)

theorem scalarShiftResults : Parts.ScalarShiftResults := by
  refine ⟨fun e he u xd xs1 xs2 s p h => ?_, fun e he u xd xs1 imm s p h => ?_⟩
  · obtain ⟨mf, hexec⟩ := shiftOps_exec e he
    exact exec_shift h (hexec u xd xs1 xs2 s)
  · obtain ⟨t, p1, v, hnext, hwritten, hv, hregs⟩ := exec_shift h (shiftImmOps_exec e he u xd xs1 imm s)
    refine ⟨t, p1, v, hnext, hwritten, fun hlt => ?_, hregs⟩
    rw [toNat_signExtend_of_small hlt] at hv
    exact hv hlt

/-- Settles O1: each integer instruction writes to xd what the operation of two's complement gives, and a shift by less than 64
shifts by its count. -/
theorem scalarInteger : Obligations.ScalarInteger := ⟨scalarIntegerResults, scalarShiftResults⟩

end Sys2Proof.Proofs
end

section
/-! PROOFS. Completing an instruction at any PC and with any effect on the rest of the state (R150, R177). -/
namespace Sys2Proof.Machine
open Sys2Proof.Claims

/-- The state `s` once an instruction of the program `p` of unit `u` completed and left the program `p1` at `next`. -/
def State.completedAt (s : State) (u : VUnit) (p p1 : Prog) (next : W64) : State :=
  (s.setProg u (some { p1 with pc := next })).instrDone u p.pc

/-- Completing is completing at the next instruction. -/
theorem State.completed_eq (s : State) (u : VUnit) (p p1 : Prog) :
    s.completed u p p1 = s.completedAt u p p1 (p.pc + 4) := rfl

section
variable (s : State) (u : VUnit) (p p1 : Prog) (next : W64)

theorem State.completedAt_reg_other {off : Nat} (hpc : off ≠ vePc u) (hinstr : off ≠ veInstr u) (hbusy : off ≠ veBusy u) :
    (s.completedAt u p p1 next).reg off = s.reg off :=
  (State.instrDone_reg_other _ _ _ _ hpc hinstr hbusy).trans (s.setProg_reg _ _ _)

theorem State.completedAt_frame : s.completedAt u p p1 next =
    { s with progs := (s.completedAt u p p1 next).progs, regs := (s.completedAt u p p1 next).regs } := by
  rw [State.completedAt, State.instrDone_frame]
  rfl

/-- An instruction whose effect left the programs and the count of instructions completes. -/
theorem State.completedAt_Completed {s s1 : State} (hprogs : s1.progs = s.progs)
    (hcount : s1.reg (veInstr u) = s.reg (veInstr u)) : Completed s (s1.completedAt u p p1 next) u p p1 next := by
  refine ⟨by simp [State.completedAt], State.instrDone_pc _ _ _, ?_, fun v hv => ?_⟩
  · rw [State.completedAt, State.instrDone_count, BitVec.toNat_ofNat, State.setProg_reg, hcount, satAdd]
    exact Nat.mod_eq_of_lt (by omega)
  · rw [State.completedAt, State.instrDone_progOf, State.progOf_setProg_other _ _ _ _ hv, State.progOf, hprogs]
    rfl

theorem State.completedAt_inRegisters : InRegisters s (s.completedAt u p p1 next) u p p1 next :=
  ⟨State.completedAt_Completed u p p1 next rfl rfl,
    fun _ hpc hinstr hbusy _ => s.completedAt_reg_other u p p1 next hpc hinstr hbusy,
    fun _ => rfl, fun _ => rfl, s.completedAt_frame u p p1 next⟩

end

end Sys2Proof.Machine

namespace Sys2Proof.Claims
open Sys2Proof.Machine

/-- An instruction of a ready program whose body jumps to `next` with the program `p1` and the state as it was. -/
theorem Ready.instr_jump {s : State} {u : VUnit} {p p1 : Prog} {i : Instr} (h : Ready s u p i) {mf : Nat}
    {body : State → Prog → IRes} {next : W64} (hbody : body s p = .jump s p1 next) :
    s.instr u mf body = s.completedAt u p p1 next := by
  have hready := h.progReady
  obtain ⟨hprog, -, -, hwait, -, hfree, -⟩ := h
  have hsame : { p with wait := .no } = p := by rw [← hwait]
  have hlacks : (body s { p with wait := .no }).st.lacks (progReq u) = false := by
    rw [hsame, hbody]
    exact State.lacks_of_no_access hfree
  rw [State.instr_of_whole hprog hready hlacks, hsame, hbody]
  exact State.dropAccesses_of_no_access hfree

end Sys2Proof.Claims
end

section
/-! PROOFS. Branches, jumps and calls (R177). -/
namespace Sys2Proof.Proofs
open Sys2Proof Sys2Proof.Machine Sys2Proof.Claims

/-- The branch commands are `State.branch` with the comparisons of `branchOps`. -/
theorem branchOps_exec : ∀ e ∈ branchOps, ∃ f, (∀ (u : VUnit) (xs1 xs2 : Fin 32) (imm : BitVec 11) (s : State),
    exec (e.1 u xs1 xs2 imm) s = .next (s.issue u (e.1 u xs1 xs2 imm) fun s => s.branch u xs1 xs2 imm f)) ∧
    ∀ a b, f a b = e.2 a b := by
  have hle (x y : Int) : (!decide (x < y)) = decide (y ≤ x) := by rw [← decide_not]; exact decide_eq_decide.2 Int.not_lt
  have hleu (x y : Nat) : (!decide (x < y)) = decide (y ≤ x) := by rw [← decide_not]; exact decide_eq_decide.2 Nat.not_lt
  simp only [branchOps, List.forall_mem_cons]
  exact ⟨⟨_, fun _ _ _ _ _ => rfl, fun _ _ => rfl⟩, ⟨_, fun _ _ _ _ _ => rfl, fun _ _ => rfl⟩,
    ⟨_, fun _ _ _ _ _ => rfl, fun _ _ => BitVec.slt_eq_decide⟩,
    ⟨_, fun _ _ _ _ _ => rfl, fun a b => by rw [BitVec.slt_eq_decide, hle]⟩,
    ⟨_, fun _ _ _ _ _ => rfl, fun _ _ => BitVec.ult_eq_decide⟩,
    ⟨_, fun _ _ _ _ _ => rfl, fun a b => by rw [BitVec.ult_eq_decide, hleu]⟩, List.forall_mem_nil _⟩

section
variable {s : State} {u : VUnit} {p p1 : Prog} {i : Instr} (h : Ready s u p i)
include h

/-- A jump that leaves the program `p1`. -/
theorem exec_jump {mf : Nat} {body : State → Prog → IRes} (hexec : exec i s = .next (s.issue u i fun s => s.instr u mf body))
    {next : W64} (hbody : body s p = .jump s p1 next) : ∃ t, exec i s = .next t ∧ InRegisters s t u p p1 next :=
  ⟨s.completedAt u p p1 next, by rw [hexec, h.issue, h.instr_jump hbody], s.completedAt_inRegisters u p p1 next⟩

/-- A jump that writes the return address to x31. -/
theorem exec_call {mf : Nat} {body : State → Prog → IRes} (hexec : exec i s = .next (s.issue u i fun s => s.instr u mf body))
    {next : W64} (hbody : body s p = .jump s (p.setX 31 (p.pc + 4)) next) :
    ∃ t p1, exec i s = .next t ∧ XWritten p p1 31 (p.pc + 4) ∧ InRegisters s t u p p1 next := by
  obtain ⟨t, hnext, hregs⟩ := exec_jump h hexec hbody
  exact ⟨t, _, hnext, setX_written p 31 _, hregs⟩

theorem exec_branch {xs1 xs2 : Fin 32} {imm : BitVec 11} {f : W64 → W64 → Bool}
    (hexec : exec i s = .next (s.issue u i fun s => s.branch u xs1 xs2 imm f)) : ∃ t, exec i s = .next t ∧
      InRegisters s t u p p (if f (p.xr xs1) (p.xr xs2) then p.pc + 4 * imm.signExtend 64 else p.pc + 4) := by
  cases htaken : f (p.xr xs1) (p.xr xs2) with
  | true => exact exec_jump h hexec (if_pos htaken)
  | false =>
    refine ⟨s.completed u p p, ?_, s.completed_inRegisters u p p⟩
    rw [hexec, h.issue]
    exact congrArg _ (h.instr_done (if_neg (Bool.eq_false_iff.1 htaken)))

end

/-- A register jump to a multiple of 4 stays at one (R177). -/
theorem jumpTarget_aligned {x : W64} (h : x.toNat % 4 = 0) (d : W64) : (x + 4 * d).toNat % 4 = 0 := by
  bv_omega

/-- Settles O5: a branch completes at its target or at the next instruction, as its comparison says, and a jump at its target. -/
theorem branchesAndJumps : Obligations.BranchesAndJumps := by
  refine ⟨fun e he u xs1 xs2 imm s p h => ?_, fun u imm s p => ⟨fun h => ?_, fun h => ?_⟩,
    fun u xs1 imm s p hal => ⟨fun h => ?_, fun h => ?_⟩⟩
  · obtain ⟨f, hexec, hf⟩ := branchOps_exec e he
    rw [← hf]
    exact exec_branch h (hexec u xs1 xs2 imm s)
  · exact exec_jump h rfl rfl
  · exact exec_call h rfl rfl
  · exact exec_jump h rfl (if_neg fun hne => hne (jumpTarget_aligned hal _))
  · exact exec_call h rfl (if_neg fun hne => hne (jumpTarget_aligned hal _))

end Sys2Proof.Proofs
end

section
/-! PROOFS. Writes of f registers (R176), and the bits of an f register in a format. -/
namespace Sys2Proof.Claims
open Sys2Proof Sys2Proof.Machine

theorem setF_written (p : Prog) (fd : Fin 32) (v : W64) : FWritten p (p.setF fd v) fd v := by
  refine ⟨fun i => ?_, rfl⟩
  split
  · next hi => rw [hi, p.fr_setF_same]
  · next hi => exact p.fr_setF_other v (Fin.val_ne_of_ne hi)

theorem scalarFmt_eq (single : Bool) : scalarFmt single = fmtOfSub single := rfl

/-- A format of the scalar core has a sign bit and fits an f register. -/
theorem width_fmtOfSub (single : Bool) : 0 < (fmtOfSub single).width ∧ (fmtOfSub single).width ≤ 64 := by
  cases single <;> decide

section
variable (p : Prog) (single : Bool) (i : Fin 32)

/-- The bits below the sign. -/
theorem fbits_mod_sign : p.fbits single i % 2 ^ ((fmtOfSub single).width - 1) =
    (p.fr i).toNat % 2 ^ ((fmtOfSub single).width - 1) :=
  Nat.mod_mod_of_dvd _ (pow_dvd_pow 2 (Nat.sub_le _ 1))

/-- The sign as a number. -/
theorem fbits_div_sign : p.fbits single i / 2 ^ ((fmtOfSub single).width - 1) = bnat (signBit p single i) := by
  obtain ⟨hpos, -⟩ := width_fmtOfSub single
  obtain ⟨k, hk⟩ := Nat.exists_eq_add_of_lt hpos
  rw [Nat.zero_add] at hk
  rw [Prog.fbits, scalarFmt_eq, signBit, hk, Nat.add_sub_cancel, Nat.pow_succ, Nat.mod_mul_right_div_self, BitVec.getLsbD,
    Nat.testBit_eq_decide_div_mod_eq]
  rcases Nat.mod_two_eq_zero_or_one ((p.fr i).toNat / 2 ^ k) with h | h <;> simp [h, bnat]

/-- The bits of a format, as a word. -/
theorem ofNat_fbits (x : W64) : BitVec.ofNat 64 (x.toNat % 2 ^ (scalarFmt single).width) =
    if single then (x.extractLsb' 0 32).zeroExtend 64 else x := by
  cases single with
  | true =>
    refine BitVec.eq_of_toNat_eq ?_
    rw [if_pos rfl, BitVec.toNat_setWidth_of_le (by decide), BitVec.extractLsb'_toNat, BitVec.toNat_ofNat]
    change x.toNat % 2 ^ 32 % 2 ^ 64 = _
    rw [Nat.shiftRight_zero]
    omega
  | false =>
    refine BitVec.eq_of_toNat_eq ?_
    rw [if_neg Bool.false_ne_true, BitVec.toNat_ofNat]
    change x.toNat % 2 ^ 64 % 2 ^ 64 = _
    omega

end

theorem toI64_eq (x : Machine.Num) : toI64 x = towardZero x := by
  cases x <;> rfl

end Sys2Proof.Claims
end

section
/-! PROOFS. Floating-point arithmetic, compares, moves and conversions of the scalar core (R176 to R178). -/
namespace Sys2Proof.Proofs
open Sys2Proof Sys2Proof.Machine Sys2Proof.Claims

/-- The floating-point commands are `State.fpu` with the exact results of `fpuOps`. -/
theorem fpuOps_exec : ∀ e ∈ fpuOps, ∃ fn, ∀ (u : VUnit) (fd fs1 fs2 : Fin 32) (single : Bool) (s : State),
    exec (e.1 u fd fs1 fs2 single) s =
      .next (s.issue u (e.1 u fd fs1 fs2 single) fun s => s.fpu u fn fd fs1 fs2 single e.2) := by
  simp only [fpuOps, List.forall_mem_cons]
  exact ⟨⟨0x00, fun _ _ _ _ _ _ => rfl⟩, ⟨0x01, fun _ _ _ _ _ _ => rfl⟩, ⟨0x02, fun _ _ _ _ _ _ => rfl⟩,
    ⟨0x03, fun _ _ _ _ _ _ => rfl⟩, ⟨0x05, fun _ _ _ _ _ _ => rfl⟩, ⟨0x06, fun _ _ _ _ _ _ => rfl⟩,
    ⟨0x07, fun _ _ _ _ _ _ => rfl⟩, ⟨0x08, fun _ _ _ _ _ _ => rfl⟩, List.forall_mem_nil _⟩

/-- The commands of the compares are `State.fcmp` with the comparisons of `fcmpOps`. -/
theorem fcmpOps_exec : ∀ e ∈ fcmpOps, ∃ fn, ∀ (u : VUnit) (xd fs1 fs2 : Fin 32) (single : Bool) (s : State),
    exec (e.1 u xd fs1 fs2 single) s =
      .next (s.issue u (e.1 u xd fs1 fs2 single) fun s => s.fcmp u fn xd fs1 fs2 single e.2) := by
  simp only [fcmpOps, List.forall_mem_cons]
  exact ⟨⟨0x0B, fun _ _ _ _ _ _ => rfl⟩, ⟨0x0C, fun _ _ _ _ _ _ => rfl⟩, ⟨0x0D, fun _ _ _ _ _ _ => rfl⟩,
    List.forall_mem_nil _⟩

section
variable {s : State} {u : VUnit} {p : Prog} {i : Instr} (h : Ready s u p i)
include h

/-- An instruction that writes a value to fd and does nothing else. -/
theorem exec_toF {mf : Nat} {body : State → Prog → IRes} (hexec : exec i s = .next (s.issue u i fun s => s.instr u mf body))
    {fd : Fin 32} {v w : W64} (hbody : body s p = .done s (p.setF fd v)) (hv : v = w) :
    ∃ t p1, exec i s = .next t ∧ FWritten p p1 fd w ∧ InRegisters s t u p p1 (p.pc + 4) :=
  h.exec_completed hexec (h.instr_done hbody) (hv ▸ setF_written p fd v)

/-- A copy of the bits of fs1 with the sign of fs2 or its inverse (R177). -/
theorem exec_fsign {fn : Nat} {fd fs1 fs2 : Fin 32} {single inv : Bool}
    (hexec : exec i s = .next (s.issue u i fun s => s.fsign u fn fd fs1 fs2 single inv)) :
    ∃ t p1, exec i s = .next t ∧ FWritten p p1 fd (withSign p single fs1 (signBit p single fs2 ^^ inv)) ∧
      InRegisters s t u p p1 (p.pc + 4) := by
  refine exec_toF h hexec rfl ?_
  rw [scalarFmt_eq, fbits_mod_sign, fbits_div_sign, withSign]
  cases inv <;> cases signBit p single fs2 <;> simp [bnat]

end

theorem scalarFloatArithmetic : Parts.ScalarFloatArithmetic := by
  refine ⟨fun e he u fd fs1 fs2 single s p h => ?_, fun u fd fs1 single s p h => exec_toF h rfl rfl rfl⟩
  obtain ⟨fn, hexec⟩ := fpuOps_exec e he
  exact exec_toF h (hexec u fd fs1 fs2 single s) rfl rfl

theorem scalarFloatMoves : Parts.ScalarFloatMoves := by
  refine ⟨fun e he u xd fs1 fs2 single s p h => ?_, fun u a b c single s p => ⟨fun h => ?_, fun h => ?_, fun h => ?_,
    fun h => ?_, fun h => ?_, fun h => ?_, fun h => ?_⟩⟩
  · obtain ⟨fn, hexec⟩ := fcmpOps_exec e he
    exact exec_toX h (hexec u xd fs1 fs2 single s) rfl rfl
  · simpa only [Bool.xor_false] using exec_fsign (inv := false) h rfl
  · simpa only [Bool.xor_true] using exec_fsign (inv := true) h rfl
  · exact exec_toF h rfl rfl rfl
  · exact exec_toX h rfl rfl (congrArg _ (toI64_eq _))
  · exact exec_toF h rfl rfl rfl
  · exact exec_toX h rfl rfl (ofNat_fbits single _)
  · exact exec_toF h rfl rfl (ofNat_fbits single _)

/-- Settles O6: each floating-point instruction completes in registers with the rounded exact result, the comparison, or the
bits that the statement names. -/
theorem scalarFloat : Obligations.ScalarFloat := ⟨scalarFloatArithmetic, scalarFloatMoves⟩

end Sys2Proof.Proofs
end

section
/-! PROOFS. Numbers as bytes (R9): the single bytes of a number, its parts, and the number that bytes make. -/
namespace Sys2Proof.Machine

theorem getElem_natBytes (n v k : Nat) (h : k < (natBytes n v).length) :
    (natBytes n v)[k] = BitVec.ofNat 8 (v / 256 ^ k) := by
  induction n generalizing v k with
  | zero => simp at h
  | succ n ih =>
    cases k with
    | zero => simp [natBytes]
    | succ k =>
      simp only [natBytes, List.getElem_cons_succ, ih, Nat.div_div_eq_div_mul]
      rw [Nat.pow_succ']

/-- Byte `k` of a number, of a word that begins with it. -/
theorem getElem_natBytes_word {n k : Nat} (v : Nat) (hn : n ≤ 8) (h : k < (natBytes n v).length) :
    (natBytes n v)[k] = (BitVec.ofNat 64 v).extractLsb' (8 * k) 8 := by
  have hk : k < 8 := by rw [natBytes_length] at h; omega
  refine BitVec.eq_of_toNat_eq ?_
  rw [getElem_natBytes, BitVec.extractLsb'_toNat, BitVec.toNat_ofNat, BitVec.toNat_ofNat, Nat.shiftRight_eq_div_pow]
  interval_cases k <;> omega

theorem drop_natBytes (n v k : Nat) : (natBytes n v).drop k = natBytes (n - k) (v / 256 ^ k) := by
  induction k generalizing n v with
  | zero => simp
  | succ k ih =>
    cases n with
    | zero => simp [natBytes]
    | succ n =>
      rw [natBytes, List.drop_succ_cons, ih, Nat.div_div_eq_div_mul, ← Nat.pow_succ', Nat.succ_sub_succ]

theorem take_natBytes {n k : Nat} (v : Nat) (h : k ≤ n) : (natBytes n v).take k = natBytes k v := by
  induction k generalizing n v with
  | zero => rfl
  | succ k ih =>
    obtain ⟨n, rfl⟩ := Nat.exists_eq_succ_of_ne_zero (by omega : n ≠ 0)
    rw [natBytes, List.take_succ_cons, ih _ (by omega), natBytes]

/-- The number that `n` bytes of a granule make. -/
theorem bytesNat_granuleBytes (g : Granule) {o n : Nat} (h : o + n ≤ 32) :
    bytesNat (((granuleBytes g).drop o).take n) = (g.extractLsb' (8 * o) (8 * n)).toNat := by
  rw [granuleBytes, drop_natBytes, take_natBytes _ (by omega), bytesNat_natBytes, BitVec.extractLsb'_toNat,
    Nat.shiftRight_eq_div_pow, Nat.pow_mul, Nat.pow_mul]

theorem bytesNat_lt (bs : List Byte) : bytesNat bs < 256 ^ bs.length := by
  induction bs with
  | nil => exact Nat.one_pos
  | cons b bs ih =>
    have hb := b.isLt
    rw [bytesNat, List.length_cons, Nat.pow_succ']
    omega

theorem State.num_lt (s : State) (a n : Nat) : s.num a n < 256 ^ n := by
  simpa [State.num, State.bytes] using bytesNat_lt (s.bytes a n)

/-- A number of `w` bits read as two's complement, extended to 64 bits. -/
theorem ofInt_signed (w v : Nat) : BitVec.ofInt 64 (signed w v) = (BitVec.ofNat w v).signExtend 64 := by
  have hmod : signed w (v % 2 ^ w) = signed w v := by
    unfold signed
    rw [Int.natCast_mod, Int.natCast_pow]
    push_cast
    rw [Int.emod_emod_of_dvd _ (dvd_refl _), Nat.mod_mod]
  rw [← hmod, ← BitVec.toNat_ofNat, signed_toNat]
  rfl

end Sys2Proof.Machine
end

section
/-! PROOFS. Aligned accesses of the package's own memory (R23, R178, R252, R320): what a load and a store of a unit leave. -/
namespace Sys2Proof.Machine
open Sys2Proof.Claims

/-! ## The sizes of scalar accesses (R178) -/

/-- A scalar access has 1, 2, 4 or 8 bytes. -/
def IsAccessSize (n : Nat) : Prop := n = 1 ∨ n = 2 ∨ n = 4 ∨ n = 8

theorem IsAccessSize.bounds {n : Nat} (h : IsAccessSize n) : 0 < n ∧ n ≤ 8 ∧ 32 % n = 0 := by
  rcases h with rfl | rfl | rfl | rfl <;> decide

/-- An aligned access ends in the granule in which it begins. -/
theorem IsAccessSize.end_le {n : Nat} (h : IsAccessSize n) {d : Nat} (hd : d % n = 0) : d % 32 + n ≤ 32 := by
  rcases h with rfl | rfl | rfl | rfl <;> omega

theorem IsAccessSize.granules {n : Nat} (h : IsAccessSize n) {d : Nat} (hd : d % n = 0) : granules d n = [d / 32] := by
  obtain ⟨hpos, -, hdvd⟩ := h.bounds
  exact granules_aligned d n hpos hdvd hd

theorem IsAccessSize.devAddr {n : Nat} (h : IsAccessSize n) {a : Nat} (ha : a % n = 0) : devAddr a % n = 0 := by
  obtain ⟨-, -, hdvd⟩ := h.bounds
  exact devAddr_aligned a n hdvd ha

/-! ## What an access leaves -/

/-- `t` is `s` but for memory with its poison, the programs and the registers. -/
def AccessFrame (s t : State) : Prop :=
  t = { s with mem := t.mem, poison := t.poison, progs := t.progs, regs := t.regs }

theorem AccessFrame.trans {s t u : State} (h1 : AccessFrame s t) (h2 : AccessFrame t u) : AccessFrame s u := by
  unfold AccessFrame at *
  rw [h2, h1]

theorem AccessFrame.accesses {s t : State} (h : AccessFrame s t) : t.accesses = s.accesses := by rw [h]

theorem State.hostBytes_accessFrame (s : State) (k a n : Nat) : AccessFrame s (s.hostBytes k a n) := by
  unfold State.hostBytes
  split <;> rfl

theorem State.storeBytes_accessFrame (s : State) (a : Nat) (bs : List Byte) : AccessFrame s (s.storeBytes a bs) := rfl

theorem State.completedAt_accessFrame (s : State) (u : VUnit) (p p1 : Prog) (next : W64) :
    AccessFrame s (s.completedAt u p p1 next) := by
  unfold AccessFrame
  rw [s.completedAt_frame]

/-- What is left but for memory, where memory is left too. -/
theorem AccessFrame.noStore {s t : State} (h : AccessFrame s t) (hmem : t.mem = s.mem) (hpoison : t.poison = s.poison) :
    NoStore s t := by
  refine ⟨fun a => by rw [State.byte, hmem]; rfl, fun g => by rw [State.poisoned, hpoison]; rfl, ?_⟩
  unfold AccessFrame at h
  rw [hmem, hpoison] at h
  exact h

section
variable (s : State) (k a n : Nat)

theorem State.hostBytes_mem : (s.hostBytes k a n).mem = s.mem := by unfold State.hostBytes; split <;> rfl
theorem State.hostBytes_poison : (s.hostBytes k a n).poison = s.poison := by unfold State.hostBytes; split <;> rfl
theorem State.hostBytes_accesses : (s.hostBytes k a n).accesses = s.accesses := (s.hostBytes_accessFrame k a n).accesses
theorem State.hostBytes_progs : (s.hostBytes k a n).progs = s.progs := by unfold State.hostBytes; split <;> rfl

/-- The bytes of an access are counted where the address lies in host memory (Table 13-7). -/
theorem State.hostBytes_hostCount : HostCount s (s.hostBytes k (devAddr a) n) k a n := by
  unfold HostCount State.hostBytes
  split
  · exact s.toNat_reg_count64 _ _
  · rfl

end

/-- The registers that completing an instruction writes lie above those of the hub. -/
theorem le_ve_regs (u : VUnit) : 0x3000000 ≤ vePc u ∧ 0x3000000 ≤ veInstr u ∧ 0x3000000 ≤ veBusy u := by
  have above {base : Nat} (hbase : 0x3000000 ≤ base) (k : Nat) : 0x3000000 ≤ base + k := Nat.le_add_right_of_le hbase
  cases u <;> exact ⟨above (by decide) _, above (by decide) _, above (by decide) _⟩

theorem State.completedAt_reg_of_hub (s : State) (u : VUnit) (p p1 : Prog) (next : W64) {off : Nat} (h : off < 0x3000000) :
    (s.completedAt u p p1 next).reg off = s.reg off := by
  obtain ⟨hpc, hinstr, hbusy⟩ := le_ve_regs u
  exact s.completedAt_reg_other u p p1 next (by omega) (by omega) (by omega)

/-! ## Loads -/

/-- An instruction that completes after a load of the package's own memory. -/
theorem State.hostBytes_loaded (s : State) (u : VUnit) (p p1 : Prog) (a n : Nat) :
    Loaded s ((s.hostBytes 4 (devAddr a) n).completed u p p1) u p p1 a n := by
  obtain ⟨-, hinstr, -⟩ := le_ve_regs u
  have hcnt : Reg.hubCnt 4 < 0x3000000 := by decide
  rw [State.completed_eq]
  refine ⟨State.completedAt_Completed _ _ _ _ (s.hostBytes_progs _ _ _) (s.hostBytes_reg_other _ _ _ (by omega)),
    fun off hpc hin hbusy hoff => ?_, ?_, ?_⟩
  · rw [State.completedAt_reg_other _ _ _ _ _ hpc hin hbusy]
    exact s.hostBytes_reg_other _ _ _ (by simpa using hoff)
  · rw [HostCount, State.completedAt_reg_of_hub _ _ _ _ _ hcnt]
    exact s.hostBytes_hostCount 4 a n
  · exact ((s.hostBytes_accessFrame _ _ _).trans (State.completedAt_accessFrame _ _ _ _ _)).noStore
      (s.hostBytes_mem _ _ _) (s.hostBytes_poison _ _ _)

/-! ## Stores -/

section
variable (s1 : State) (u : VUnit) (p p1 : Prog) (d x : Nat) {n : Nat}

/-- The state once an instruction completed that stored `n` bytes of `x` at `d` in state `s1`. -/
def State.storedNum (n : Nat) : State :=
  ((s1.storeBytes d (natBytes n x)).hostBytes 5 d n).completed u p p1

theorem State.storedNum_mem : (s1.storedNum u p p1 d x n).mem = (s1.storeBytes d (natBytes n x)).mem :=
  State.hostBytes_mem _ _ _ _

theorem State.storedNum_poison : (s1.storedNum u p p1 d x n).poison = (s1.storeBytes d (natBytes n x)).poison :=
  State.hostBytes_poison _ _ _ _

theorem State.storedNum_accessFrame : AccessFrame s1 (s1.storedNum u p p1 d x n) :=
  ((s1.storeBytes_accessFrame _ _).trans (State.hostBytes_accessFrame _ _ _ _)).trans (State.completedAt_accessFrame _ _ _ _ _)

theorem State.storedNum_reg_other {off : Nat} (hpc : off ≠ vePc u) (hinstr : off ≠ veInstr u) (hbusy : off ≠ veBusy u)
    (hcnt : off ≠ Reg.hubCnt 5) : (s1.storedNum u p p1 d x n).reg off = s1.reg off :=
  (State.completedAt_reg_other _ _ _ _ _ hpc hinstr hbusy).trans (State.hostBytes_reg_other _ _ _ _ hcnt)

theorem State.storedNum_hostCount (a : Nat) : HostCount s1 (s1.storedNum u p p1 (devAddr a) x n) 5 a n := by
  have hreg : (s1.storedNum u p p1 (devAddr a) x n).reg (Reg.hubCnt 5) =
      ((s1.storeBytes (devAddr a) (natBytes n x)).hostBytes 5 (devAddr a) n).reg (Reg.hubCnt 5) :=
    State.completedAt_reg_of_hub _ _ _ _ _ (by decide)
  rw [HostCount, hreg]
  exact (s1.storeBytes (devAddr a) (natBytes n x)).hostBytes_hostCount 5 a n

/-- Exactly the low bytes of `x` are stored, over a memory that reads as that of `s`. -/
theorem State.storedNum_storedAt {s : State} (hframe : AccessFrame s s1) (hmem : s1.mem = s.mem)
    (hpoison : s1.poison = s.poison) (hn : IsAccessSize n) (hd : d % n = 0) (hclean : s.poisoned (d / 32) = false) :
    StoredAt s (s1.storedNum u p p1 d x n) d n (BitVec.ofNat 64 x) := by
  obtain ⟨hpos, hle, -⟩ := hn.bounds
  have hend := hn.end_le hd
  have hpart : partly d n (d / 32) = true := by
    simp only [partly, Bool.not_eq_true', Bool.and_eq_false_iff, decide_eq_false_iff_not]
    omega
  have hkept : (s1.storeBytes d (natBytes n x)).poison = s1.poison := by
    simp [State.storeBytes, hn.granules hd, hpart, setPoison]
  refine ⟨fun k hk => ?_, fun b hb => ?_, fun g => ?_, ?_⟩
  · have hlen : k < (natBytes n x).length := by rwa [natBytes_length]
    have hgran : s1.poisoned ((d + k) / 32) = false := by
      rw [show (d + k) / 32 = d / 32 by omega, State.poisoned, hpoison]
      exact hclean
    rw [State.byte, State.storedNum_mem]
    exact (s1.byte_storeBytes_same d k _ hlen hgran).trans (getElem_natBytes_word x hle hlen)
  · rw [State.byte, State.storedNum_mem]
    refine (s1.byte_storeBytes_other d b _ (by rwa [natBytes_length])).trans ?_
    rw [State.byte, hmem]
    rfl
  · rw [State.poisoned, State.storedNum_poison, hkept, hpoison]
    rfl
  · exact hframe.trans (s1.storedNum_accessFrame u p p1 d x)

end

end Sys2Proof.Machine

namespace Sys2Proof.Claims
open Sys2Proof.Machine

section
variable {s : State} {a n : Nat}

/-! ## Bytes that may be read or written now -/

theorem OwnRead.load_eq (h : OwnRead s a n) (hn : IsAccessSize n) (hrepl : s.replLoad a = none) (r : Req) :
    s.gload r a n = (s.bytes (devAddr a) n, false) ∧ s.gloadSt r a n = s.hostBytes 4 (devAddr a) n := by
  obtain ⟨⟨halign, hlocal, haccess, hclean⟩, hread, hbusy⟩ := h
  obtain ⟨hpos, -, hdvd⟩ := hn.bounds
  exact ⟨s.gload_own r a n hrepl hlocal hpos hdvd halign haccess hclean hread,
    s.gloadSt_own r a n hrepl hlocal hpos hdvd halign haccess hread hbusy⟩

/-- A store that may be made now is performed, and is nothing but its bytes and the count of bytes written to the host. -/
theorem OwnWrite.store_eq (h : OwnWrite s a n) (hn : IsAccessSize n) (r : Req) (x : Nat) :
    s.store r (devAddr a) (natBytes n x) = (s.storeBytes (devAddr a) (natBytes n x)).hostBytes 5 (devAddr a) n := by
  obtain ⟨⟨halign, -, haccess, hclean⟩, hstream, hbusy⟩ := h
  obtain ⟨hpos, -, hdvd⟩ := hn.bounds
  have hd := hn.devAddr halign
  have hallowed := firstRefused_aligned s.accessible _ _ hpos hdvd hd haccess
  have hfree : s.rangeBusy (devAddr a) n true = false := by simp [State.rangeBusy, hn.granules hd, hbusy]
  have hwhole : s.merges (devAddr a) n = [] := by simp [State.merges, hn.granules hd, hclean]
  simp [State.store, hallowed, hstream, hfree, State.storeNow, hwhole]

/-- A store of a unit none of whose stores is held is performed at once (R286). -/
theorem NotHeld.gstore_eq {u : VUnit} (h : NotHeld s u a) {bs : List Byte} (hbs : bs ≠ []) (poison : Bool) :
    s.gstore (progReq u) a bs poison = s.gstoreNow (progReq u) a bs poison := by
  obtain ⟨hrepl, hheld⟩ := h
  have hnone : (s.replHeld.any fun h => h.req == progReq u) = false := by
    simpa [List.any_eq_false] using hheld
  rw [State.gstore, hrepl, hnone]
  simp [hbs]

end

end Sys2Proof.Claims
end

section
/-! PROOFS. Scalar loads and stores of the package's own memory (R178). -/
namespace Sys2Proof.Proofs
open Sys2Proof Sys2Proof.Machine Sys2Proof.Claims

/-- The address of a scalar access as the model forms it. -/
theorem addrOf_eq (p : Prog) (xs1 : Fin 32) (imm : BitVec 11) :
    ((p.xr xs1).toNat + (imm.signExtend 64).toNat) % 2 ^ 64 = addrOf p xs1 imm := (BitVec.toNat_add _ _).symm

/-! ## The commands -/

/-- The integer load commands are `State.loadInstr` with the sizes and extensions of `loadOps`. -/
theorem loadOps_exec : ∀ e ∈ loadOps, IsAccessSize e.2.1 ∧ ∃ ext : Nat → W64, (∀ (u : VUnit) (xd xs1 : Fin 32)
    (imm : BitVec 11) (s : State), exec (e.1 u xd xs1 imm) s = .next (s.issue u (e.1 u xd xs1 imm) fun s =>
      s.loadInstr u xs1 imm e.2.1 fun p v => p.setX xd (ext v))) ∧ ∀ v, ext v = e.2.2 v := by
  simp only [loadOps, List.forall_mem_cons]
  exact ⟨⟨.inl rfl, _, fun _ _ _ _ _ => rfl, ofInt_signed 8⟩,
    ⟨.inr (.inl rfl), _, fun _ _ _ _ _ => rfl, ofInt_signed 16⟩,
    ⟨.inr (.inr (.inl rfl)), _, fun _ _ _ _ _ => rfl, ofInt_signed 32⟩,
    ⟨.inr (.inr (.inr rfl)), _, fun _ _ _ _ _ => rfl, fun _ => rfl⟩, ⟨.inl rfl, _, fun _ _ _ _ _ => rfl, fun _ => rfl⟩,
    ⟨.inr (.inl rfl), _, fun _ _ _ _ _ => rfl, fun _ => rfl⟩,
    ⟨.inr (.inr (.inl rfl)), _, fun _ _ _ _ _ => rfl, fun _ => rfl⟩, List.forall_mem_nil _⟩

theorem loadFOps_exec : ∀ e ∈ loadFOps, IsAccessSize e.2 ∧ ∀ (u : VUnit) (fd xs1 : Fin 32) (imm : BitVec 11) (s : State),
    exec (e.1 u fd xs1 imm) s = .next (s.issue u (e.1 u fd xs1 imm) fun s =>
      s.loadInstr u xs1 imm e.2 fun p v => p.setF fd (BitVec.ofNat 64 v)) := by
  simp only [loadFOps, List.forall_mem_cons]
  exact ⟨⟨.inr (.inr (.inl rfl)), fun _ _ _ _ _ => rfl⟩, ⟨.inr (.inr (.inr rfl)), fun _ _ _ _ _ => rfl⟩,
    List.forall_mem_nil _⟩

/-- The store commands are `State.storeInstr` with the sizes and registers of `storeOps`. -/
theorem storeOps_exec : ∀ e ∈ storeOps, IsAccessSize e.2.1 ∧ ∀ (u : VUnit) (xs1 r2 : Fin 32) (imm : BitVec 11) (s : State),
    exec (e.1 u xs1 r2 imm) s = .next (s.issue u (e.1 u xs1 r2 imm) fun s =>
      s.storeInstr u xs1 imm e.2.1 fun p => (e.2.2 p r2).toNat) := by
  simp only [storeOps, List.forall_mem_cons]
  exact ⟨⟨.inl rfl, fun _ _ _ _ _ => rfl⟩, ⟨.inr (.inl rfl), fun _ _ _ _ _ => rfl⟩,
    ⟨.inr (.inr (.inl rfl)), fun _ _ _ _ _ => rfl⟩, ⟨.inr (.inr (.inr rfl)), fun _ _ _ _ _ => rfl⟩,
    ⟨.inr (.inr (.inl rfl)), fun _ _ _ _ _ => rfl⟩, ⟨.inr (.inr (.inr rfl)), fun _ _ _ _ _ => rfl⟩, List.forall_mem_nil _⟩

/-! ## What they do -/

section
variable {s : State} {u : VUnit} {p : Prog} {i : Instr} (h : Ready s u p i) {xs1 : Fin 32} {imm : BitVec 11} {n : Nat}
  (hn : IsAccessSize n)
include h hn

/-- A load of the package's own memory completes with the number that its bytes make. -/
theorem exec_load {put : Prog → Nat → Prog}
    (hexec : exec i s = .next (s.issue u i fun s => s.loadInstr u xs1 imm n put))
    (hrepl : s.replLoad (addrOf p xs1 imm) = none) (hown : OwnRead s (addrOf p xs1 imm) n) :
    ∃ t, exec i s = .next t ∧
      Loaded s t u p (put p (s.num (devAddr (addrOf p xs1 imm)) n)) (addrOf p xs1 imm) n := by
  obtain ⟨hload, hafter⟩ := hown.load_eq hn hrepl (progReq u)
  obtain ⟨⟨halign, -⟩, -⟩ := id hown
  refine ⟨_, ?_, s.hostBytes_loaded u p _ _ n⟩
  rw [hexec, h.issue]
  refine congrArg _ (h.instr_done_of_accesses ?_ (s.hostBytes_accesses _ _ _))
  dsimp only
  rw [addrOf_eq, if_neg fun hne => hne halign, hload, hafter]
  rfl

/-- A store to the package's own memory stores the low bytes of its register. -/
theorem exec_store {get : Prog → Nat}
    (hexec : exec i s = .next (s.issue u i fun s => s.storeInstr u xs1 imm n get))
    (hheld : NotHeld s u (addrOf p xs1 imm)) (hown : OwnWrite s (addrOf p xs1 imm) n) :
    exec i s = .next (s.storedNum u p p (devAddr (addrOf p xs1 imm)) (get p) n) := by
  obtain ⟨hpos, -⟩ := hn.bounds
  obtain ⟨⟨halign, hlocal, -⟩, -⟩ := id hown
  have hne : natBytes n (get p) ≠ [] := List.ne_nil_of_length_pos (by rwa [natBytes_length])
  have hsame : s.wrote (addrOf p xs1 imm) p = p := if_pos (.inl hlocal)
  rw [hexec, h.issue]
  refine congrArg _ (h.instr_done_of_accesses ?_ (State.hostBytes_accesses _ _ _ _))
  dsimp only
  rw [addrOf_eq, if_neg fun hne => hne halign, hheld.gstore_eq hne, State.gstoreNow, hlocal, hsame]
  exact congrArg (IRes.done · p) (hown.store_eq hn (progReq u) (get p))

end

theorem scalarLoadResults : Parts.ScalarLoadResults := by
  refine ⟨fun e he u xd xs1 imm s p h hrepl hown => ?_, fun e he u fd xs1 imm s p h hrepl hown => ?_⟩
  · obtain ⟨hn, ext, hexec, hext⟩ := loadOps_exec e he
    obtain ⟨t, hnext, hloaded⟩ := exec_load h hn (hexec u xd xs1 imm s) hrepl hown
    rw [hext] at hloaded
    exact ⟨t, _, hnext, setX_written p xd _, hloaded⟩
  · obtain ⟨hn, hexec⟩ := loadFOps_exec e he
    obtain ⟨t, hnext, hloaded⟩ := exec_load h hn (hexec u fd xs1 imm s) hrepl hown
    exact ⟨t, _, hnext, setF_written p fd _, hloaded⟩

/-- Settles O3: a store that may be made now is the store of its bytes and the count of bytes written to the host. -/
theorem scalarStoreResults : Obligations.ScalarStoreResults := by
  intro e he u xs1 r2 imm s p h hheld hown
  obtain ⟨hn, hexec⟩ := storeOps_exec e he
  obtain ⟨⟨halign, -, -, hclean⟩, -⟩ := id hown
  refine ⟨_, exec_store h hn (hexec u xs1 r2 imm s) hheld hown, ?_, ?_, ?_, s.storedNum_hostCount u p p _ _⟩
  · simpa using s.storedNum_storedAt u p p _ (e.2.2 p r2).toNat rfl rfl rfl hn (hn.devAddr halign) hclean
  · obtain ⟨-, hinstr, -⟩ := le_ve_regs u
    exact State.completedAt_Completed u p p _ (State.hostBytes_progs _ _ _ _)
      (State.hostBytes_reg_other _ _ _ _ (by simp only [Reg.hubCnt]; omega))
  · exact fun off hpc hin hbusy hoff => s.storedNum_reg_other u p p _ _ hpc hin hbusy (by simpa using hoff)

end Sys2Proof.Proofs
end

section
/-! PROOFS. Scalar atomics on the package's own memory (R139, R178). -/
namespace Sys2Proof.Claims
open Sys2Proof.Machine

/-- Counting bytes of the host leaves where a store may be made. -/
theorem OwnWrite.hostBytes {s : State} {a n : Nat} (h : OwnWrite s a n) {k : Nat} (hk : k < 8) (b m : Nat) :
    OwnWrite (s.hostBytes k b m) a n := by
  obtain ⟨⟨halign, hlocal, haccess, hclean⟩, hstream, hbusy⟩ := h
  have hframe := s.hostBytes_accessFrame k b m
  have hreg {o : Nat} (ho : 0x200 ≤ o) : (s.hostBytes k b m).reg o = s.reg o :=
    s.hostBytes_reg_other _ _ _ (by simp only [Reg.hubCnt]; omega)
  have hregion := State.region_congr (s := s) (t := s.hostBytes k b m) (by rw [hframe]) (hreg (by decide)) (hreg (by decide))
  refine ⟨⟨halign, ?_, ?_, ?_⟩, ?_, ?_⟩
  · simpa only [State.isLocal, State.node, State.regF_congr (hreg (o := Reg.fabNode) (by decide))] using hlocal
  · simpa only [State.accessible, hregion] using haccess
  · simpa only [State.poisoned, s.hostBytes_poison] using hclean
  · rw [State.streamFails, hregion, hframe]
    exact hstream
  · rw [hframe]
    exact hbusy

end Sys2Proof.Claims

namespace Sys2Proof.Proofs
open Sys2Proof Sys2Proof.Machine Sys2Proof.Claims

/-! ## What memory takes -/

theorem ofNat_sMax (old x : W64) :
    BitVec.ofNat 64 (sMax 64 old.toNat x.toNat) = if old.toInt ≤ x.toInt then x else old := by
  rw [sMax, signed_toNat, signed_toNat]
  split_ifs with hlt hle hle
  · exact BitVec.ofNat_toNat _ _
  · omega
  · rw [BitVec.ofNat_toNat]
    exact BitVec.eq_of_toInt_eq (by simp; omega)
  · exact BitVec.ofNat_toNat _ _

theorem ofNat_sMin (old x : W64) :
    BitVec.ofNat 64 (sMin 64 old.toNat x.toNat) = if old.toInt ≤ x.toInt then old else x := by
  rw [sMin, signed_toNat, signed_toNat]
  split_ifs with hlt hle hle
  · omega
  · exact BitVec.ofNat_toNat _ _
  · exact BitVec.ofNat_toNat _ _
  · omega

theorem ofNat_cas (old x d : W64) :
    BitVec.ofNat 64 (if old.toNat = d.toNat then x.toNat else old.toNat) = if old = d then x else old := by
  by_cases heq : old = d
  · rw [if_pos heq, if_pos (congrArg _ heq), BitVec.ofNat_toNat]
    exact BitVec.setWidth_eq x
  · rw [if_neg heq, if_neg fun h => heq (BitVec.eq_of_toNat_eq h), BitVec.ofNat_toNat]
    exact BitVec.setWidth_eq old

/-- The atomic commands are `State.atomInstr` with the operations of `atomOps`. -/
theorem atomOps_exec : ∀ e ∈ atomOps, ∀ (u : VUnit) (xd xs1 xs2 : Fin 32), ∃ fn op f operand cmp,
    (∀ s : State, exec (e.1 u xd xs1 xs2) s =
      .next (s.issue u (e.1 u xd xs1 xs2) fun s => s.atomInstr u fn op xd xs1 f operand cmp)) ∧
    ∀ (p : Prog) (old : W64), BitVec.ofNat 64 (f p old.toNat) = e.2 old (p.xr xs2) (p.xr xd) := by
  simp only [atomOps, List.forall_mem_cons]
  exact ⟨fun u xd xs1 xs2 => ⟨0, 0, _, _, _, fun _ => rfl, fun _ _ => by simp [BitVec.ofNat_add]⟩,
    fun u xd xs1 xs2 => ⟨1, 2, _, _, _, fun _ => rfl, fun _ _ => by simp⟩,
    fun u xd xs1 xs2 => ⟨2, 3, _, _, _, fun _ => rfl, fun _ _ => ofNat_sMax _ _⟩,
    fun u xd xs1 xs2 => ⟨3, 5, _, _, _, fun _ => rfl, fun _ _ => ofNat_sMin _ _⟩,
    fun u xd xs1 xs2 => ⟨4, 7, _, _, _, fun _ => rfl, fun _ _ => ofNat_cas _ _ _⟩, List.forall_mem_nil _⟩

/-! ## What an atomic does -/

theorem rmwHeld_of_notHeld {s : State} {u : VUnit} {a : Nat} (h : NotHeld s u a) : s.rmwHeld (progReq u) a = false := by
  obtain ⟨hrepl, hheld⟩ := h
  simpa [State.rmwHeld, hrepl, List.any_eq_false] using hheld

/-- The body of `State.atomInstr`: what an atomic answers where it is misaligned, held, of the package's own memory, or of
another node's (R139, R178, R282, R286). -/
def atomBody (u : VUnit) (op : Nat) (xd xs1 : Fin 32) (f : Prog → Nat → Nat) (operand cmp : Prog → Nat) (s : State)
    (p : Prog) : IRes :=
  let a := (p.xr xs1).toNat
  if a % 8 ≠ 0 then misaligned s
  else if s.rmwHeld (progReq u) a then .hold (s.rmwHold (progReq u) a) { p with wait := .held }
  else if s.isLocal a then
    let s1 := (s.needRmw (progReq u) a 8).loadEvent (progReq u) (devAddr a) 8
    consume s1 (s.load (devAddr a) 8).2
      (.done (s1.localRmw (progReq u) a 8 false (f p)) (p.setX xd (BitVec.ofNat 64 (bytesNat (s.load (devAddr a) 8).1))))
  else if remoteOk a = false then .fault (s.addressEvent (progReq u) a) 0x33 []
  else match s.oldValue (progReq u) a with
    | some v => consume s v.2 (.done s (s.wrote a (p.setX xd (BitVec.ofNat 64 v.1))))
    | none => .done (s.needs
        ⟨progReq u, sectorOf a (devAddr a), .atomic (atomTrailer a 8 op 0) (operand p) (cmp p), false, none⟩) p

theorem atomInstr_eq (s : State) (u : VUnit) (fn op : Nat) (xd xs1 : Fin 32) (f : Prog → Nat → Nat)
    (operand cmp : Prog → Nat) :
    s.atomInstr u fn op xd xs1 f operand cmp = s.instr u (majFn 0x08 fn) (atomBody u op xd xs1 f operand cmp) := rfl

section
variable {s : State} {u : VUnit} {p : Prog} (op : Nat) (xd : Fin 32) {xs1 : Fin 32} (f : Prog → Nat → Nat)
  (operand cmp : Prog → Nat)

/-- An atomic on eight bytes of the package's own memory reads them, stores what its operation gives, and writes the old value
to xd. -/
theorem atomBody_own (hheld : NotHeld s u (p.xr xs1).toNat) (hown : OwnWrite s (p.xr xs1).toNat 8)
    (hread : s.readFails (devAddr (p.xr xs1).toNat) 8 = false) :
    atomBody u op xd xs1 f operand cmp s p =
      .done ((s.hostBytes 4 (devAddr (p.xr xs1).toNat) 8).store (progReq u) (devAddr (p.xr xs1).toNat)
        (natBytes 8 (f p (s.num (devAddr (p.xr xs1).toNat) 8))))
      (p.setX xd (BitVec.ofNat 64 (s.num (devAddr (p.xr xs1).toNat) 8))) := by
  have hn : IsAccessSize 8 := .inr (.inr (.inr rfl))
  obtain ⟨⟨halign, hlocal, haccess, hclean⟩, hstream, hbusy⟩ := id hown
  unfold atomBody
  generalize (p.xr xs1).toNat = a at *
  have hd := hn.devAddr halign
  have hallowed := firstRefused_aligned s.accessible _ 8 (by decide) (by decide) hd haccess
  have hneed : s.needRmw (progReq u) a 8 = s := by
    simp [State.needRmw, hlocal, State.needOwn, hn.granules hd, hbusy]
  have hload : s.load (devAddr a) 8 = (s.bytes (devAddr a) 8, false) := by
    simp [State.load, hallowed, State.poisonIn, hn.granules hd, hclean, hread]
  have hafter : s.loadEvent (progReq u) (devAddr a) 8 = s.hostBytes 4 (devAddr a) 8 := by
    simp [State.loadEvent, hallowed, hread]
  have hnum : (s.hostBytes 4 (devAddr a) 8).num (devAddr a) 8 = s.num (devAddr a) 8 := by
    simp only [State.num, State.bytes, State.byte, State.hostBytes_mem]
  dsimp only
  rw [if_neg fun hne => hne halign, rmwHeld_of_notHeld hheld, if_neg Bool.false_ne_true, hlocal, if_pos rfl, hneed, hload,
    hafter, consume, if_neg Bool.false_ne_true, State.localRmw, if_neg Bool.false_ne_true, hnum]
  rfl

end

/-- An atomic on the package's own memory completes with its store. -/
theorem exec_atomic {s : State} {u : VUnit} {p : Prog} {i : Instr} (h : Ready s u p i) {fn op : Nat} {xd xs1 : Fin 32}
    {f : Prog → Nat → Nat} {operand cmp : Prog → Nat}
    (hexec : exec i s = .next (s.issue u i fun s => s.atomInstr u fn op xd xs1 f operand cmp))
    (hheld : NotHeld s u (p.xr xs1).toNat) (hown : OwnWrite s (p.xr xs1).toNat 8)
    (hread : s.readFails (devAddr (p.xr xs1).toNat) 8 = false) :
    exec i s = .next ((s.hostBytes 4 (devAddr (p.xr xs1).toNat) 8).storedNum u p
      (p.setX xd (BitVec.ofNat 64 (s.num (devAddr (p.xr xs1).toNat) 8))) (devAddr (p.xr xs1).toNat)
      (f p (s.num (devAddr (p.xr xs1).toNat) 8)) 8) := by
  have hbody := atomBody_own op xd f operand cmp hheld hown hread
  rw [(hown.hostBytes (k := 4) (by decide) _ _).store_eq (.inr (.inr (.inr rfl)))] at hbody
  rw [hexec, h.issue, atomInstr_eq,
    h.instr_done_of_accesses hbody ((State.hostBytes_accesses _ _ _ _).trans (s.hostBytes_accesses _ _ _))]
  rfl

/-- Settles O4: an atomic counts its read, stores the new value, counts its write, and completes with the old value in xd. -/
theorem scalarAtomicResults : Obligations.ScalarAtomicResults := by
  intro e he u xd xs1 xs2 s p h hheld hown hread
  obtain ⟨fn, op, f, operand, cmp, hexec, hf⟩ := atomOps_exec e he u xd xs1 xs2
  have hn : IsAccessSize 8 := .inr (.inr (.inr rfl))
  obtain ⟨⟨halign, -, -, hclean⟩, -⟩ := id hown
  obtain ⟨-, hinstr, -⟩ := le_ve_regs u
  have hnext := exec_atomic h (hexec s) hheld hown hread
  generalize (p.xr xs1).toNat = a at *
  have hold : s.num (devAddr a) 8 = (BitVec.ofNat 64 (s.num (devAddr a) 8)).toNat :=
    (BitVec.toNat_ofNat _ _).symm ▸ (Nat.mod_eq_of_lt (s.num_lt _ 8)).symm
  have hread4 {o : Nat} (ho : o ≠ Reg.hubCnt 4) : (s.hostBytes 4 (devAddr a) 8).reg o = s.reg o :=
    s.hostBytes_reg_other _ _ _ ho
  refine ⟨_, _, _, hnext, rfl, setX_written p xd _, ?_, ?_, ?_, ?_, ?_⟩
  · rw [← hf, ← hold]
    exact State.storedNum_storedAt _ _ _ _ _ _ (s.hostBytes_accessFrame _ _ _) (s.hostBytes_mem _ _ _)
      (s.hostBytes_poison _ _ _) hn (hn.devAddr halign) hclean
  · exact State.completedAt_Completed u p _ _ ((State.hostBytes_progs _ _ _ _).trans (s.hostBytes_progs _ _ _))
      ((State.hostBytes_reg_other _ _ _ _ (by simp only [Reg.hubCnt]; omega)).trans (hread4 (by simp only [Reg.hubCnt]; omega)))
  · intro off hpc hin hbusy hoff
    obtain ⟨h4, h5⟩ : off ≠ Reg.hubCnt 4 ∧ off ≠ Reg.hubCnt 5 := by simpa using hoff
    exact (State.storedNum_reg_other _ _ _ _ _ _ hpc hin hbusy h5).trans (hread4 h4)
  · have hkept (x : Nat) (q : Prog) : ((s.hostBytes 4 (devAddr a) 8).storedNum u p q (devAddr a) x 8).reg (Reg.hubCnt 4) =
        (s.hostBytes 4 (devAddr a) 8).reg (Reg.hubCnt 4) :=
      (State.completedAt_reg_of_hub _ _ _ _ _ (by decide)).trans (State.hostBytes_reg_other _ _ _ _ (by decide))
    rw [HostCount, hkept]
    exact s.hostBytes_hostCount 4 a 8
  · have hcount := (s.hostBytes 4 (devAddr a) 8).storedNum_hostCount u p (p.setX xd (BitVec.ofNat 64 (s.num (devAddr a) 8)))
      (f p (s.num (devAddr a) 8)) (n := 8) a
    have hregion := State.region_congr (s := s) (t := s.hostBytes 4 (devAddr a) 8) (by rw [s.hostBytes_accessFrame])
      (hread4 (by decide)) (hread4 (by decide)) (devAddr a)
    rwa [HostCount, hregion, hread4 (by decide)] at hcount

end Sys2Proof.Proofs
end

section
/-! PROOFS. Accesses of another node's working memory (R24, R137, R270, R282, R283): what a load and an atomic find to need, and
what is left once it was asked for. -/
namespace Sys2Proof.Machine
open Sys2Proof.Claims

/-! ## Sending leaves what is outstanding -/

/-- What is outstanding to each node and what units' accesses wait for are the same. -/
def SameOwed (s t : State) : Prop := t.outst = s.outst ∧ t.accesses = s.accesses

theorem SameOwed.trans {s t u : State} (h1 : SameOwed s t) (h2 : SameOwed t u) : SameOwed s u :=
  ⟨h2.1.trans h1.1, h2.2.trans h1.2⟩

theorem pumpPort_sameOwed (p n : Nat) (s : State) : SameOwed s (pumpPort p n s) := by
  induction n generalizing s with
  | zero => exact ⟨rfl, rfl⟩
  | succ n ih =>
    unfold pumpPort
    split
    · exact SameOwed.trans ⟨rfl, rfl⟩ (ih _)
    · exact ⟨rfl, rfl⟩

theorem State.emit_sameOwed (s : State) (f : Flit) : SameOwed s (s.emit f) := by
  have hport (t : State) (p : Nat) : SameOwed t (t.toPort p f) := by
    unfold State.toPort
    split
    · exact ⟨rfl, rfl⟩
    · exact SameOwed.trans ⟨rfl, rfl⟩ (pumpPort_sameOwed _ _ _)
  unfold State.emit
  dsimp only
  split_ifs
  · exact ⟨rfl, rfl⟩
  · exact ⟨rfl, rfl⟩
  · exact ⟨rfl, rfl⟩
  · split
    · exact hport _ _
    · exact ⟨rfl, rfl⟩

/-- A request counts as outstanding at once (R283), and nothing else is. -/
theorem State.request_sameOwed (s : State) (r : Req) (dst typ vc : Nat) (replica : Bool) (addr : Nat) (words : List FWord)
    (trailer : Nat) : SameOwed (s.owes r dst typ) (s.request r dst typ vc replica addr words trailer) := by
  unfold State.request
  dsimp only
  split
  · exact SameOwed.trans ⟨rfl, rfl⟩ (State.emit_sameOwed _ _)
  · exact ⟨rfl, rfl⟩

/-! ## What an access needs -/

/-- Must another node answer an access? -/
def AccKind.remote : AccKind → Bool
  | .own _ => false
  | _ => true

/-- Asking for an access of another node keeps the access, and counts one more request to the node. -/
theorem State.sendAccess_remote (s : State) {e : Access} (h : e.kind.remote = true) :
    (s.sendAccess e).outstTo (e.addr / 2 ^ 48 % 65536) = s.outstTo (e.addr / 2 ^ 48 % 65536) + 1 ∧
      (s.sendAccess e).accesses = s.accesses := by
  have hreq (typ vc : Nat) (replica : Bool) (addr : Nat) (words : List FWord) (trailer : Nat) :
      (s.request e.req (e.addr / 2 ^ 48 % 65536) typ vc replica addr words trailer).outstTo (e.addr / 2 ^ 48 % 65536) =
        s.outstTo (e.addr / 2 ^ 48 % 65536) + 1 ∧
      (s.request e.req (e.addr / 2 ^ 48 % 65536) typ vc replica addr words trailer).accesses = s.accesses := by
    obtain ⟨houtst, hacc⟩ := s.request_sameOwed e.req (e.addr / 2 ^ 48 % 65536) typ vc replica addr words trailer
    exact ⟨by rw [State.outstTo, houtst, State.owes, Tbl.get_set_same (d := 0)], hacc⟩
  obtain ⟨r, addr, kind, sent, data⟩ := e
  cases kind with
  | read rep => exact hreq _ _ _ _ _ _
  | atomic t a b => exact hreq _ _ _ _ _ _
  | own w => cases h

theorem foldl_of_fixed {α β : Type} {f : α → β → α} {a : α} {l : List β} (h : ∀ b ∈ l, f a b = a) :
    l.foldl f a = a := by
  induction l with
  | nil => rfl
  | cons b l ih => rw [List.foldl_cons, h b (by simp), ih fun c hc => h c (by simp [hc])]

/-- A unit lacks the data of an access that it needs of another node. -/
theorem State.lacks_of_needed {s : State} {r : Req} {e : Access} (he : e.req = r) (hdata : e.data = none)
    (hkind : e.kind.remote = true) : { s with accesses := s.accesses ++ [e] }.lacks r = true := by
  obtain ⟨req, addr, kind, sent, data⟩ := e
  obtain rfl : data = none := hdata
  cases kind with
  | read rep => simp [State.lacks, ← he]
  | atomic t a b => simp [State.lacks, ← he]
  | own w => cases hkind

section
variable {s : State} {r : Req} (hfree : ∀ e ∈ s.accesses, e.req ≠ r)
include hfree

/-- A unit that awaits nothing finds one access to need. -/
theorem State.needs_of_free {e : Access} (he : e.req = r) : s.needs e = { s with accesses := s.accesses ++ [e] } := by
  have hnone : (s.accesses.any fun x => x.req == e.req && x.addr == e.addr && x.kind == e.kind) = false := by
    rw [List.any_eq_false]
    intro x hx hmatch
    simp only [Bool.and_eq_true, beq_iff_eq] at hmatch
    obtain ⟨⟨hreq, -⟩, -⟩ := hmatch
    exact hfree x hx (hreq.trans he)
  rw [State.needs, hnone, if_neg Bool.false_ne_true]

/-- The one access that a unit needs of another node is kept as sent, and asked for. -/
theorem State.issueAccesses_one {e : Access} (he : e.req = r) (hsent : e.sent = false) (hkind : e.kind.remote = true) :
    s.issueAccesses { s with accesses := s.accesses ++ [e] } r =
      { s with accesses := s.accesses ++ [{ e with sent := true }] }.sendAccess e := by
  unfold State.issueAccesses
  rw [List.foldl_append, foldl_of_fixed (l := s.accesses) fun x hx => by simp [hfree x hx]]
  have hgo : ¬ ((e.req != r || e.sent) = true) := by simp [he, hsent]
  rw [List.foldl_cons, List.foldl_nil, if_neg hgo]
  cases hk : e.kind with
  | read rep => rfl
  | atomic t a b => rfl
  | own w => rw [hk] at hkind; cases hkind

end

theorem State.accessAt_of_free {s : State} {r : Req} (hfree : ∀ e ∈ s.accesses, e.req ≠ r) (ga : Nat) (isAtomic : Bool) :
    s.accessAt r ga isAtomic = none := by
  refine List.find?_eq_none.2 fun e he h => hfree e he ?_
  simp only [Bool.and_eq_true, beq_iff_eq] at h
  obtain ⟨⟨hreq, -⟩, -⟩ := h
  exact hreq

section
variable (s : State) (r : Req)

theorem State.dropAccesses_progOf (u : VUnit) : (s.dropAccesses r).progOf u = s.progOf u := rfl
theorem State.dropAccesses_reg (o : Nat) : (s.dropAccesses r).reg o = s.reg o := rfl
theorem State.dropAccesses_mem : (s.dropAccesses r).mem = s.mem := rfl
theorem State.dropAccesses_poison : (s.dropAccesses r).poison = s.poison := rfl

end

/-! ## Loads of another node -/

/-- An aligned access lies in one sector. -/
theorem IsAccessSize.sectors {n : Nat} (h : IsAccessSize n) {d : Nat} (hd : d % n = 0) : sectors d n = [(d, 0, n)] := by
  have hend := h.end_le hd
  have hlo : max d (32 * (d / 32)) = d := by omega
  have hhi : min (d + n) (32 * (d / 32) + 32) = d + n := by omega
  simp [Machine.sectors, h.granules hd, hlo, hhi]

theorem sectorOf_devAddr (a : Nat) : sectorOf a (devAddr a) = a / 32 * 32 := by
  unfold sectorOf devAddr
  omega

theorem devAddr_mod (a : Nat) : devAddr a % 32 = a % 32 := by
  unfold devAddr
  omega

section
variable {s : State} {a n : Nat} (hn : IsAccessSize n) (halign : a % n = 0) (hrepl : s.replLoad a = none)
  (hlocal : s.isLocal a = false) (hreach : devAddr a < 2 ^ 41)
include hn halign hrepl hlocal hreach

/-- A load of another node returns what has come of its sector (R24, R270). -/
theorem State.gload_remote (r : Req) : s.gload r a n =
    (((granuleBytes (s.sectorData r (a / 32 * 32)).1).drop (a % 32)).take n, (s.sectorData r (a / 32 * 32)).2) := by
  obtain ⟨-, -, hdvd⟩ := hn.bounds
  have hok : remoteOk a = true := decide_eq_true hreach
  simp [State.gload, pageParts_aligned a n hdvd halign, State.loadPart, State.loadTarget, hrepl, hlocal, hok,
    State.remoteData, hn.sectors (hn.devAddr halign), sectorOf_devAddr, devAddr_mod]

/-- Such a load needs its sector. -/
theorem State.gloadSt_remote (r : Req) :
    s.gloadSt r a n = s.needs ⟨r, a / 32 * 32, .read false, false, none⟩ := by
  obtain ⟨-, -, hdvd⟩ := hn.bounds
  have hok : remoteOk a = true := decide_eq_true hreach
  simp [State.gloadSt, pageParts_aligned a n hdvd halign, State.loadPartSt, State.loadTarget, hrepl, hlocal, hok,
    State.remoteLoad, hn.sectors (hn.devAddr halign), sectorOf_devAddr]

end

end Sys2Proof.Machine

namespace Sys2Proof.Claims
open Sys2Proof.Machine

/-! ## Programs that await what another node answers -/

section
variable {s : State} {u : VUnit} {p p1 : Prog} {i : Instr} {e : Access} (h : Awaiting s u p i e)
include h

theorem Awaiting.issue (f : State → State) : s.issue u i f = f s := by
  obtain ⟨-, -, -, -, -, -, hword⟩ := h
  exact State.issue_of_word hword f

theorem Awaiting.progReady : s.progReady u p = true := by
  obtain ⟨-, hended, hsaved, ⟨mf, hwait⟩, hparked, -, -⟩ := h
  simp [State.progReady, hended, hsaved, hwait, hparked]

/-- The unit's one access is the one found for it. -/
theorem Awaiting.find {q : Access → Bool} (hq : ∀ x, q x = true → x.req = progReq u) (he : q e = true) :
    s.accesses.find? q = some e := by
  obtain ⟨-, -, -, -, -, hone, -⟩ := h
  have hfilter := List.find?_filter (xs := s.accesses) (p := fun x => x.req == progReq u) (q := q)
  have hsame : (fun x : Access => decide ((x.req == progReq u) = true ∧ q x = true)) = q :=
    funext fun x => Bool.eq_iff_iff.2 (by simpa using hq x)
  rw [hone, List.find?_singleton, if_pos he, hsame] at hfilter
  exact hfilter.symm

/-- A unit whose access was answered lacks nothing. -/
theorem Awaiting.lacks (hdata : e.data.isSome = true) (hkind : e.kind.remote = true) : s.lacks (progReq u) = false := by
  obtain ⟨-, -, -, -, -, hone, -⟩ := h
  refine List.any_eq_false.2 fun x hx hlacks => ?_
  obtain ⟨hreq, hmatch⟩ := Bool.and_eq_true_iff.1 hlacks
  have hx : x ∈ s.accesses.filter fun x => x.req == progReq u := List.mem_filter.2 ⟨hx, hreq⟩
  rw [hone, List.mem_singleton] at hx
  subst hx
  obtain ⟨req, addr, kind, sent, data⟩ := x
  cases kind with
  | read rep => simp_all
  | atomic t a b => simp_all
  | own w => cases hkind

/-- An instruction that has what it waited for completes, and its unit awaits nothing more. -/
theorem Awaiting.instr_done {mf : Nat} {body : State → Prog → IRes} (hdata : e.data.isSome = true)
    (hkind : e.kind.remote = true) (hbody : body s { p with wait := .no } = .done s p1) :
    s.instr u mf body = (s.completed u p p1).dropAccesses (progReq u) := by
  have hready := h.progReady
  have hlacks : (body s { p with wait := .no }).st.lacks (progReq u) = false := by
    rw [hbody]
    exact h.lacks hdata hkind
  obtain ⟨hprog, -⟩ := h
  rw [State.instr_of_whole hprog hready hlacks, hbody]
  rfl

end

theorem completed_answered (s : State) (u : VUnit) (p p1 : Prog) :
    Answered s ((s.completed u p p1).dropAccesses (progReq u)) u p p1 := by
  obtain ⟨⟨hprog, hpc, hcount, hothers⟩, hregs, -⟩ := s.completed_inRegisters u p p1
  have hmem : (s.completed u p p1).mem = s.mem ∧ (s.completed u p p1).poison = s.poison := by
    rw [State.completed_eq, State.completedAt_frame]
    exact ⟨rfl, rfl⟩
  simp only [Answered, Completed, OtherRegs, State.dropAccesses_progOf, State.dropAccesses_reg, State.dropAccesses_mem,
    State.dropAccesses_poison]
  exact ⟨⟨hprog, hpc, hcount, hothers⟩, hregs, State.dropAccesses_req _ _, hmem⟩

/-! ## Programs that ask another node -/

/-- The state once the program of a unit asked for an access of another node and waits. -/
def askedState (s : State) (u : VUnit) (p : Prog) (mf : Nat) (e : Access) : State :=
  (({ s with accesses := s.accesses ++ [{ e with sent := true }] }.sendAccess e).setProg u
    (some { p with wait := .remote mf })).setReg (vePc u) p.pc

theorem askedState_askedFor (s : State) (u : VUnit) (p : Prog) (mf : Nat) {e : Access} {a : Nat} {k : AccKind → Prop}
    (hreq : e.req = progReq u) (haddr : e.addr = a / 32 * 32) (hdata : e.data = none) (hkind : e.kind.remote = true)
    (hk : k e.kind) : AskedFor s (askedState s u p mf e) u p a k := by
  obtain ⟨houtst, haccesses⟩ := State.sendAccess_remote { s with accesses := s.accesses ++ [{ e with sent := true }] } hkind
  have hframe := State.sendAccess_frame { s with accesses := s.accesses ++ [{ e with sent := true }] } e
  have hnode : e.addr / 2 ^ 48 % 65536 = a / 2 ^ 48 % 65536 := by rw [haddr]; omega
  rw [hnode] at houtst
  refine ⟨⟨mf, ?_⟩, State.reg_setReg_same _ _ _, houtst,
    ⟨{ e with sent := true }, ?_, hreq, haddr, hk, hdata⟩, ?_, ?_⟩
  · rw [askedState, State.setReg_progOf, State.progOf_setProg]
  · rw [askedState, State.setReg_accesses, State.setProg_accesses, haccesses]
    exact List.mem_append_right _ (List.mem_singleton_self _)
  · rw [askedState, State.setReg_mem, State.setProg_mem, hframe]
  · rw [askedState, State.setReg_poison, State.setProg_poison, hframe]

/-- An instruction of a ready program that finds an access of another node to need asks for it and waits (R137, R150). -/
theorem Ready.instr_asks {s : State} {u : VUnit} {p : Prog} {i : Instr} (h : Ready s u p i) {mf : Nat}
    {body : State → Prog → IRes} {e : Access} (hreq : e.req = progReq u) (hsent : e.sent = false) (hdata : e.data = none)
    (hkind : e.kind.remote = true) (hbody : (body s p).st = s.needs e) : s.instr u mf body = askedState s u p mf e := by
  have hready := h.progReady
  obtain ⟨hprog, -, -, hwait, -, hfree, -⟩ := h
  have hsame : { p with wait := .no } = p := by rw [← hwait]
  rw [State.instr_of_ready hprog hready, hsame, hbody, State.needs_of_free hfree hreq, State.lacks_of_needed hreq hdata hkind,
    if_pos rfl, State.stall, State.issueAccesses_one hfree hreq hsent hkind]
  rfl

end Sys2Proof.Claims
end

section
/-! PROOFS. Scalar loads and atomics of another node (R24, R137, R178, R270, R282, R283). -/
namespace Sys2Proof.Proofs
open Sys2Proof Sys2Proof.Machine Sys2Proof.Claims

/-! ## Loads -/

section
variable {s : State} {u : VUnit} {p : Prog} {i : Instr} {xs1 : Fin 32} {imm : BitVec 11} {n : Nat}
  {put : Prog → Nat → Prog} (hexec : exec i s = .next (s.issue u i fun s => s.loadInstr u xs1 imm n put))
  (hn : IsAccessSize n) (halign : addrOf p xs1 imm % n = 0) (hrepl : s.replLoad (addrOf p xs1 imm) = none)
  (hlocal : s.isLocal (addrOf p xs1 imm) = false) (hreach : devAddr (addrOf p xs1 imm) < 2 ^ 41)
include hexec hn halign hrepl hlocal hreach

/-- A load of another node asks for its sector. -/
theorem exec_load_asks (h : Ready s u p i) : ∃ t, exec i s = .next t ∧
    AskedFor s t u p (addrOf p xs1 imm) (fun k => k = .read false) := by
  refine ⟨_, ?_, askedState_askedFor s u p (majFn 0x03 (imm.toNat / 32))
    (e := ⟨progReq u, addrOf p xs1 imm / 32 * 32, .read false, false, none⟩) rfl rfl rfl rfl rfl⟩
  rw [hexec, h.issue]
  refine congrArg _ (h.instr_asks rfl rfl rfl rfl ?_)
  dsimp only
  rw [addrOf_eq, if_neg fun hne => hne halign, State.gloadSt_remote hn halign hrepl hlocal hreach, consume]
  split <;> rfl

/-- Once the sector has come clean, the load completes with the number that its bytes make. -/
theorem exec_load_answered {g : Granule}
    (h : Awaiting s u p i ⟨progReq u, addrOf p xs1 imm / 32 * 32, .read false, true, some (g, false)⟩) :
    ∃ t, exec i s = .next t ∧ Answered s t u p (put { p with wait := .no }
      (g.extractLsb' (8 * (addrOf p xs1 imm % 32)) (8 * n)).toNat) := by
  have hend := hn.end_le halign
  have hfind : s.accessAt (progReq u) (addrOf p xs1 imm / 32 * 32) false =
      some ⟨progReq u, addrOf p xs1 imm / 32 * 32, .read false, true, some (g, false)⟩ :=
    h.find (fun x hx => by simp_all) (by simp)
  have hdata : s.sectorData (progReq u) (addrOf p xs1 imm / 32 * 32) = (g, false) := by rw [State.sectorData, hfind]; rfl
  have hneeds : s.needs ⟨progReq u, addrOf p xs1 imm / 32 * 32, .read false, false, none⟩ = s := by
    refine if_pos (List.any_eq_true.2 ⟨_, List.mem_of_find?_eq_some hfind, by simp⟩)
  refine ⟨_, ?_, completed_answered s u p _⟩
  rw [hexec, h.issue]
  refine congrArg _ (h.instr_done rfl rfl ?_)
  have ha : ((({ p with wait := .no } : Prog).xr xs1).toNat + (imm.signExtend 64).toNat) % 2 ^ 64 =
      addrOf p xs1 imm := addrOf_eq p xs1 imm
  dsimp only
  rw [ha, if_neg fun hne => hne halign, State.gloadSt_remote hn halign hrepl hlocal hreach, hneeds,
    State.gload_remote hn halign hrepl hlocal hreach, hdata, bytesNat_granuleBytes _ hend]
  rfl

end

/-! ## Atomics -/

/-- Remembering that a node was written leaves the registers. -/
theorem wrote_setX_written (s : State) (a : Nat) (p : Prog) (xd : Fin 32) (v : W64) :
    XWritten { p with dests := (s.wrote a (p.setX xd v)).dests } (s.wrote a (p.setX xd v)) xd v := by
  have hframe : s.wrote a (p.setX xd v) = { p.setX xd v with dests := (s.wrote a (p.setX xd v)).dests } := by
    unfold State.wrote
    dsimp only
    split <;> rfl
  obtain ⟨hregs, hrest⟩ := setX_written p xd v
  rw [hframe]
  exact ⟨hregs, by rw [hrest]⟩

section
variable {s : State} {u : VUnit} {p : Prog} {i : Instr} {fn op : Nat} {xd xs1 : Fin 32} {f : Prog → Nat → Nat}
  {operand cmp : Prog → Nat}
  (hexec : exec i s = .next (s.issue u i fun s => s.atomInstr u fn op xd xs1 f operand cmp))
  (halign : (p.xr xs1).toNat % 8 = 0) (hheld : NotHeld s u (p.xr xs1).toNat)
  (hlocal : s.isLocal (p.xr xs1).toNat = false) (hreach : devAddr (p.xr xs1).toNat < 2 ^ 41)

section
include halign hheld hlocal hreach

/-- An atomic on another node whose old value has not come needs it (R282). -/
theorem atomBody_asks (hnone : s.oldValue (progReq u) (p.xr xs1).toNat = none) :
    atomBody u op xd xs1 f operand cmp s p = .done (s.needs ⟨progReq u, (p.xr xs1).toNat / 32 * 32,
      .atomic (atomTrailer (p.xr xs1).toNat 8 op 0) (operand p) (cmp p), false, none⟩) p := by
  have hok : remoteOk (p.xr xs1).toNat = true := decide_eq_true hreach
  unfold atomBody
  dsimp only
  rw [if_neg fun hne => hne halign, rmwHeld_of_notHeld hheld, if_neg Bool.false_ne_true, hlocal, if_neg Bool.false_ne_true,
    hok, if_neg (by decide), sectorOf_devAddr, hnone]

/-- One whose old value has come clean completes with it (R139). -/
theorem atomBody_answered {v : Nat} (hold : s.oldValue (progReq u) (p.xr xs1).toNat = some (v, false)) :
    atomBody u op xd xs1 f operand cmp s p =
      .done s (s.wrote (p.xr xs1).toNat (p.setX xd (BitVec.ofNat 64 v))) := by
  have hok : remoteOk (p.xr xs1).toNat = true := decide_eq_true hreach
  unfold atomBody
  dsimp only
  rw [if_neg fun hne => hne halign, rmwHeld_of_notHeld hheld, if_neg Bool.false_ne_true, hlocal, if_neg Bool.false_ne_true,
    hok, if_neg (by decide), hold]
  rfl

end

include hexec halign hheld hlocal hreach

/-- An atomic on another node asks for its old value. -/
theorem exec_atomic_asks (h : Ready s u p i) : ∃ t, exec i s = .next t ∧
    AskedFor s t u p (p.xr xs1).toNat (fun k => ∃ o x y, k = .atomic o x y) := by
  have hfree : ∀ e ∈ s.accesses, e.req ≠ progReq u := by
    obtain ⟨-, -, -, -, -, hfree, -⟩ := id h
    exact hfree
  have hnone : s.oldValue (progReq u) (p.xr xs1).toNat = none := by
    rw [State.oldValue, State.accessAt_of_free hfree]
  refine ⟨_, ?_, askedState_askedFor s u p (majFn 0x08 fn)
    (e := ⟨progReq u, (p.xr xs1).toNat / 32 * 32,
      .atomic (atomTrailer (p.xr xs1).toNat 8 op 0) (operand p) (cmp p), false, none⟩) rfl rfl rfl rfl ⟨_, _, _, rfl⟩⟩
  rw [hexec, h.issue, atomInstr_eq]
  refine congrArg _ (h.instr_asks rfl rfl rfl rfl ?_)
  rw [atomBody_asks halign hheld hlocal hreach hnone]
  rfl

/-- Once the old value has come clean, the atomic completes with it. -/
theorem exec_atomic_answered {g : Granule} {o x y : Nat}
    (h : Awaiting s u p i ⟨progReq u, (p.xr xs1).toNat / 32 * 32, .atomic o x y, true, some (g, false)⟩) :
    ∃ t, exec i s = .next t ∧ Answered s t u p
      (s.wrote (p.xr xs1).toNat (({ p with wait := .no } : Prog).setX xd (g.extractLsb' 0 64))) := by
  have hfind : s.accessAt (progReq u) ((p.xr xs1).toNat / 32 * 32) true =
      some ⟨progReq u, (p.xr xs1).toNat / 32 * 32, .atomic o x y, true, some (g, false)⟩ :=
    h.find (fun x hx => by simp_all) (by simp)
  have hword : g.extractLsb' 0 64 = BitVec.ofNat 64 (g.toNat % 2 ^ 64) :=
    BitVec.eq_of_toNat_eq (by simp [BitVec.extractLsb'_toNat])
  have hold : s.oldValue (progReq u) (p.xr xs1).toNat = some (g.toNat % 2 ^ 64, false) := by
    rw [State.oldValue, sectorOf_devAddr, hfind]
    rfl
  refine ⟨_, ?_, completed_answered s u p _⟩
  rw [hexec, h.issue, atomInstr_eq, hword]
  refine congrArg _ (h.instr_done rfl rfl ?_)
  exact atomBody_answered (p := { p with wait := .no }) halign hheld hlocal hreach hold

end

theorem scalarRemoteLoads : Parts.ScalarRemoteLoads := by
  refine ⟨fun e he u xd xs1 imm s p halign hrepl hlocal hreach => ?_,
    fun e he u xd xs1 xs2 s p halign hheld hlocal hreach => ?_⟩
  · obtain ⟨hn, ext, hexec, hext⟩ := loadOps_exec e he
    refine ⟨exec_load_asks (hexec u xd xs1 imm s) hn halign hrepl hlocal hreach, fun g h => ?_⟩
    obtain ⟨t, hnext, hanswered⟩ := exec_load_answered (hexec u xd xs1 imm s) hn halign hrepl hlocal hreach h
    rw [hext] at hanswered
    exact ⟨t, _, hnext, hanswered, setX_written _ xd _⟩
  · obtain ⟨fn, op, f, operand, cmp, hexec, -⟩ := atomOps_exec e he u xd xs1 xs2
    refine ⟨exec_atomic_asks (hexec s) halign hheld hlocal hreach, fun g o x y h => ?_⟩
    obtain ⟨t, hnext, hanswered⟩ := exec_atomic_answered (hexec s) halign hheld hlocal hreach h
    exact ⟨t, _, hnext, hanswered, wrote_setX_written _ _ _ _ _⟩

/-- Settles O2: a load of the package's own memory completes with what its bytes make; one of another node, or an atomic there,
asks and waits, and completes with what has come. -/
theorem scalarLoads : Obligations.ScalarLoads := ⟨scalarLoadResults, scalarRemoteLoads⟩

end Sys2Proof.Proofs
end

section
/-! PROOFS. How a descriptor that names its status byte, its signal and its action completes (R109, R111, R181, R185). -/
namespace Sys2Proof.Machine
open Sys2Proof.Claims

/-- A descriptor completes: its status byte at `a`, its signal, and its action. -/
def State.descEnd (s : State) (r : Req) (a st id act idx : Nat) : State :=
  ((s.writeStatus r a st).signal id).descDone act idx st 0

/-- `t` is `s` but for what a store, a signal and the completion of a descriptor for its action change. -/
def DescEndFrame (s t : State) : Prop :=
  t = { s with regs := t.regs, mem := t.mem, poison := t.poison, msixOut := t.msixOut, ibiOut := t.ibiOut,
               memHeld := t.memHeld, bisnps := t.bisnps, bisnpOut := t.bisnpOut, sync := t.sync,
               acts := t.acts, time := t.time, sq := t.sq, owed := t.owed }

theorem DescEndFrame.trans {s t u : State} (h1 : DescEndFrame s t) (h2 : DescEndFrame t u) : DescEndFrame s u := by
  unfold DescEndFrame at *
  rw [h2, h1]

theorem StoreFrame.descEnd {s t : State} (h : StoreFrame s t) : DescEndFrame s t := by
  unfold StoreFrame at h
  unfold DescEndFrame
  rw [h]

theorem EventFrame.descEnd {s t : State} (h : EventFrame s t) : DescEndFrame s t := h.store.descEnd

theorem DescDoneFrame.descEnd {s t : State} (h : DescDoneFrame s t) : DescEndFrame s t := by
  unfold DescDoneFrame at h
  unfold DescEndFrame
  rw [h]

theorem State.signal_descEndFrame (s : State) (id : Nat) : DescEndFrame s (s.signal id) := by
  unfold State.signal
  split <;> rfl

theorem DescEndFrame.batchOf {s t : State} (h : DescEndFrame s t) (n : Nat) : t.batchOf n = s.batchOf n := by rw [h]; rfl
theorem DescEndFrame.shareOf {s t : State} (h : DescEndFrame s t) (k : Nat) : t.shareOf k = s.shareOf k := by rw [h]; rfl
theorem DescEndFrame.coreQueue {s t : State} (h : DescEndFrame s t) (c : Nat) : t.coreQueue c = s.coreQueue c := by
  rw [h]; rfl
theorem DescEndFrame.progs {s t : State} (h : DescEndFrame s t) : t.progs = s.progs := by rw [h]

section
variable (s : State) (r : Req) (a st id act idx : Nat)

theorem State.descEnd_frame : DescEndFrame s (s.descEnd r a st id act idx) :=
  ((s.store_frame _ _ _).descEnd.trans (State.signal_descEndFrame _ _)).trans (State.descDone_frame _ _ _ _ _).descEnd

/-- The counter that the descriptor names signals, and no other (R111). -/
theorem State.descEnd_signalled : Signalled s (s.descEnd r a st id act idx) id := by
  have hstored : (s.writeStatus r a st).sync = s.sync := by rw [State.writeStatus, State.store_frame]
  have hdone (t : State) : (t.descDone act idx st 0).sync = t.sync := by rw [State.descDone_frame]
  intro i
  have hsignal := State.signal_signalled (s.writeStatus r a st) id i
  simp only [State.syncCtr, hstored] at hsignal
  rw [State.syncCtr, State.descEnd, hdone]
  exact hsignal

theorem State.descEnd_reg_of_tile {o : Nat} (h : 0x3000000 ≤ o) : (s.descEnd r a st id act idx).reg o = s.reg o := by
  rw [State.descEnd, State.descDone_reg_of_ge _ _ _ _ _ (by simp only [Reg.msixPba]; omega), State.reg, State.signal_regs]
  exact s.store_reg_of_tile _ _ _ h

end

/-- A step that leaves the sync counters leaves what signals after it. -/
theorem signalled_of_sync {s t u : State} {id : Nat} (h : Signalled t u id) (hsync : t.sync = s.sync) : Signalled s u id := by
  intro i
  have hi := h i
  rwa [State.syncCtr, State.syncCtr, hsync] at hi

end Sys2Proof.Machine

namespace Sys2Proof.Claims
open Sys2Proof.Machine

/-- A status byte that may be stored now holds the status once the descriptor has completed. -/
theorem PlainByte.descEnd_byte {s : State} {a : Nat} (h : PlainByte s a) (r : Req) (st id act idx : Nat) :
    (s.descEnd r a st id act idx).byte a = BitVec.ofNat 8 st := by
  have hlog : ((s.writeStatus r a st).signal id).regB Reg.hubEvlogCfg 0 = false := by
    rw [State.regB, State.regF, State.reg, State.signal_regs]
    exact h.store_evlog r _
  rw [State.descEnd, State.byte, State.descDone_mem _ _ _ _ hlog, State.signal_mem]
  exact h.store_byte r _

end Sys2Proof.Claims
end

section
/-! PROOFS. The completion of a batch (R185, R186, R203): what it leaves of the counters, the queues and memory. -/
namespace Sys2Proof.Machine
open Sys2Proof.Claims

/-- The state in which a batch's descriptor completes: the batch is counted, and the registers and the event of a batch that is
not OK are written. -/
def State.batchCounted (s : State) (b : Batch) (st : Nat) : State :=
  let d := bdescOf b.body
  let s1 := s.count64 Reg.slvCntBatches 1
  let s2 := if st = 0 then s1 else (upFrom d.unit0 (min d.nunits 256)).foldl (fun s u =>
    if d.onCores then (if u < numCores s.grade then s.setReg (Reg.slvCoreLastErr u) (BitVec.ofNat 64 b.addr) else s)
    else if u < numEngines s.grade then s.setReg (Reg.slvFeLastErr u) (BitVec.ofNat 64 b.addr) else s) s1
  if st = 0x41 ∨ st = 0x42 then s2.event 0x10 Reg.slvEvent 9 (some (d.unit0 % 256)) b.addr else s2

theorem State.batchEnd_eq (s : State) (b : Batch) (st : Nat) : s.batchEnd b st =
    (s.batchCounted b st).descEnd hubReq (b.addr + 3) st (bdescOf b.body).signalId b.act b.idx := rfl

/-- What the counters and the event of a batch that completes keep: the count of batches, a write to a register of a unit, and
an event of the solver each keep it. -/
theorem State.batchCounted_induction {P : State → Prop} {s : State} {b : Batch} {st : Nat}
    (hcount : P (s.count64 Reg.slvCntBatches 1))
    (hreg : ∀ (t : State) (o : Nat) (v : W64), Reg.slvCntBatches < o → P t → P (t.setReg o v))
    (hev : ∀ (t : State) (unit detail : Option Nat), P t → P (t.event 0x10 Reg.slvEvent 9 unit detail)) :
    P (s.batchCounted b st) := by
  have hunits : P (if st = 0 then s.count64 Reg.slvCntBatches 1 else
      (upFrom (bdescOf b.body).unit0 (min (bdescOf b.body).nunits 256)).foldl (fun s u =>
        if (bdescOf b.body).onCores then
          (if u < numCores s.grade then s.setReg (Reg.slvCoreLastErr u) (BitVec.ofNat 64 b.addr) else s)
        else if u < numEngines s.grade then s.setReg (Reg.slvFeLastErr u) (BitVec.ofNat 64 b.addr) else s)
        (s.count64 Reg.slvCntBatches 1)) := by
    split
    · exact hcount
    · refine List.foldlRecOn _ _ hcount fun t ht u _ => ?_
      split_ifs
      · exact hreg _ _ _ (by simp only [Reg.slvCntBatches, Reg.slvCoreLastErr]; omega) ht
      · exact ht
      · exact hreg _ _ _ (by simp only [Reg.slvCntBatches, Reg.slvFeLastErr]; omega) ht
      · exact ht
  unfold State.batchCounted
  dsimp only
  split
  · exact hev _ _ _ hunits
  · exact hunits

section
variable (s : State) (b : Batch) (st : Nat)

theorem State.batchCounted_frame : Machine.EventFrame s (s.batchCounted b st) :=
  State.batchCounted_induction (P := Machine.EventFrame s) (s.count64_frame _ _) (fun t o v _ h => h.trans (t.setReg_frame o v))
    fun t _ _ h => h.trans (t.event_frame _ _ _ _ _)

/-- The count of batches advances by 1, and saturates. -/
theorem State.batchCounted_batches : ((s.batchCounted b st).reg Reg.slvCntBatches).toNat =
    min ((s.reg Reg.slvCntBatches).toNat + 1) (2 ^ 64 - 1) := by
  refine State.batchCounted_induction (P := fun t => (t.reg Reg.slvCntBatches).toNat =
    min ((s.reg Reg.slvCntBatches).toNat + 1) (2 ^ 64 - 1)) (s.toNat_reg_count64 _ _) (fun t o v hlt h => ?_)
    fun t unit detail h => ?_
  · rwa [State.reg_setReg_other _ _ hlt.ne]
  · rwa [t.event_reg_of_ge _ _ _ _ _ (by decide) (by decide)]

theorem State.batchEnd_frame : DescEndFrame s (s.batchEnd b st) :=
  (s.batchCounted_frame b st).descEnd.trans (State.descEnd_frame _ _ _ _ _ _ _)

theorem State.batchEnd_signalled : Signalled s (s.batchEnd b st) (bdescOf b.body).signalId := by
  rw [s.batchEnd_eq]
  refine signalled_of_sync (t := s.batchCounted b st) (State.descEnd_signalled _ _ _ _ _ _ _) ?_
  rw [s.batchCounted_frame b st]

theorem State.batchEnd_batches : ((s.batchEnd b st).reg Reg.slvCntBatches).toNat =
    min ((s.reg Reg.slvCntBatches).toNat + 1) (2 ^ 64 - 1) := by
  rw [s.batchEnd_eq, State.descEnd_reg_of_tile _ _ _ _ _ _ _ (by decide)]
  exact s.batchCounted_batches b st

end

/-- Taking the shares of a batch out of the queues changes the queues alone. -/
theorem State.dropShares_frame (s : State) (n : Nat) (keys : List Nat) :
    s.dropShares n keys = { s with coreQ := (s.dropShares n keys).coreQ, engQ := (s.dropShares n keys).engQ } := by
  refine foldl_keeps (R := fun s t => t = { s with coreQ := t.coreQ, engQ := t.engQ }) (fun _ => rfl)
    (fun h1 h2 => by rw [h2, h1]) (fun s k => ?_) keys s
  split <;> rfl

end Sys2Proof.Machine

namespace Sys2Proof.Claims
open Sys2Proof.Machine

theorem PlainByte.batchEnd_byte {s : State} {b : Batch} (h : PlainByte s (b.addr + 3)) (st : Nat) :
    (s.batchEnd b st).byte (b.addr + 3) = BitVec.ofNat 8 st := by
  have hcounted : PlainByte (s.batchCounted b st) (b.addr + 3) :=
    State.batchCounted_induction (P := fun t => PlainByte t (b.addr + 3)) (h.setReg _ (by decide))
      (fun t o v hlt ht => ht.setReg v (notMem_plainOffs ((by decide : 0x3000000 ≤ Reg.slvCntBatches).trans hlt.le)))
      fun t unit detail ht => ht.event _ _ _ _ (by decide)
  rw [s.batchEnd_eq]
  exact hcounted.descEnd_byte _ _ _ _ _

end Sys2Proof.Claims
end

section
/-! PROOFS. How the solver dies take and complete their work (R181 to R207, O23). -/
namespace Sys2Proof.Machine
open Sys2Proof.Claims

/-! ## Starting a share (R185) -/

/-- The items of an engine's share are those that R185 gives its number. -/
theorem BDesc.shareItems_engine (d : BDesc) (e : Fin 32) : d.shareItems e = shareOfUnit d e := by
  have hkey : ¬ 256 ≤ e.val := by omega
  simp only [BDesc.shareItems, shareOfUnit, if_neg hkey, beq_eq_decide, nf, Nat.pow_zero, Nat.div_one]

/-- The items of a core's share are those that R185 gives its number. -/
theorem BDesc.shareItems_core (d : BDesc) (c : Nat) : d.shareItems (256 + c) = shareOfUnit d c := by
  have hkey : 256 ≤ 256 + c := by omega
  simp only [BDesc.shareItems, shareOfUnit, if_pos hkey, Nat.add_sub_cancel_left, beq_eq_decide, nf, Nat.pow_zero, Nat.div_one]

/-- A share of a batch that is well formed starts with its items. -/
theorem State.startShare_of_wellFormed {s : State} {k n : Nat} {b : Batch} (hbatch : s.batchOf n = some b)
    (hjudge : s.batchJudge (bdescOf b.body) = 0) (hitems : (bdescOf b.body).shareItems k ≠ []) :
    s.startShare k n = s.setShare k (some ⟨n, (bdescOf b.body).shareItems k, [], []⟩) := by
  simp [State.startShare, hbatch, hjudge, hitems]

/-- A share of a batch that is not ends the batch. -/
theorem State.startShare_of_malformed {s : State} {k n : Nat} {b : Batch} (hbatch : s.batchOf n = some b)
    (hjudge : s.batchJudge (bdescOf b.body) ≠ 0) :
    s.startShare k n = s.refuseBatch n b (s.batchJudge (bdescOf b.body)) := by
  simp [State.startShare, hbatch, hjudge]

/-- A batch that is refused is gone; it signals, and no unit's share changes. -/
theorem State.refuseBatch_leaves (s : State) (n : Nat) (b : Batch) (st : Nat) :
    (s.refuseBatch n b st).batchOf n = none ∧ (∀ k, (s.refuseBatch n b st).shareOf k = s.shareOf k) ∧
      Signalled s (s.refuseBatch n b st) (bdescOf b.body).signalId := by
  have hend := ((s.dropShares n b.left).setBatch n none).batchEnd_frame b st
  have hdrop := s.dropShares_frame n b.left
  refine ⟨(hend.batchOf n).trans (State.batchOf_setBatch _ _ _), fun k => (hend.shareOf k).trans ?_, ?_⟩
  · show (s.dropShares n b.left).shareOf k = s.shareOf k
    rw [hdrop]
    rfl
  · refine signalled_of_sync (State.batchEnd_signalled _ b st) ?_
    show (s.dropShares n b.left).sync = s.sync
    rw [hdrop]

/-- A unit whose queue's head may start runs no share yet. -/
theorem State.shareOf_of_engHead {s : State} {e op n : Nat} (h : s.engHead e op = some n) : s.shareOf e = none := by
  unfold State.engHead at h
  split at h
  case h_2 => exact absurd h (by simp)
  split at h
  case h_2 => exact absurd h (by simp)
  dsimp only at h
  split at h
  next hmay =>
    obtain ⟨-, hfree, -⟩ := hmay
    exact hfree
  next => exact absurd h (by simp)

theorem State.batchOnEngine_of_head {s : State} {e op n : Nat} (h : s.engHead e op = some n) :
    s.batchOnEngine e op = (s.setEngQueue e (s.engQueue e).tail).startShare e n := by
  simp [State.batchOnEngine, h]

theorem exec_engOps : ∀ e ∈ engOps, ∀ (i : Fin 32) (s : State), exec (e.1 i) s = .next (s.batchOnEngine i e.2) := by
  simp only [engOps, List.forall_mem_cons]
  exact ⟨fun _ _ => rfl, fun _ _ => rfl, fun _ _ => rfl, fun _ _ => rfl, fun _ _ => rfl, fun _ _ => rfl, fun _ _ => rfl,
    by simp⟩

theorem exec_coreOps : ∀ e ∈ coreOps, ∀ (i : Fin 256) (s : State), exec (e.1 i) s = .next (s.batchOnCore i e.2) := by
  simp only [coreOps, List.forall_mem_cons]
  exact ⟨fun _ _ => rfl, fun _ _ => rfl, by simp⟩

/-! ## Core programs (R155, R181) -/

/-- The program that a launch descriptor names, before it takes its samples. -/
def LDesc.entryProg (d : LDesc) : Prog := Prog.entry d.entry d.p1 d.p2 d.p3 d.arg d.stream d.elem d.draw

/-- The program that a launch starts in state `s` (R181). -/
def State.coreEntry (s : State) (l : CoreLaunch) (d : LDesc) : Prog :=
  s.sampled { d.entryProg with ctx := d.ctx, desc := l.addr, act := l.act, idx := l.idx, signal := d.signalId }

/-- The registers x1 to x7 hold what the program is passed. -/
theorem LDesc.entryProg_passed (d : LDesc) : d.entryProg.xr 1 = BitVec.ofNat 64 d.p1 ∧
    d.entryProg.xr 2 = BitVec.ofNat 64 d.p2 ∧ d.entryProg.xr 3 = BitVec.ofNat 64 d.p3 ∧
    d.entryProg.xr 4 = BitVec.ofNat 64 d.arg ∧ d.entryProg.xr 5 = BitVec.ofNat 64 d.stream ∧
    d.entryProg.xr 6 = BitVec.ofNat 64 d.elem ∧ d.entryProg.xr 7 = BitVec.ofNat 64 d.draw := by
  refine ⟨?_, ?_, ?_, ?_, ?_, ?_, ?_⟩ <;> simp [LDesc.entryProg, Prog.entry, Prog.xr_setX_same, Prog.xr_setX_other]

/-- The x registers above x7 are 0. -/
theorem LDesc.entryProg_xr_above (d : LDesc) {k : Nat} (h : 7 < k) : d.entryProg.xr k = 0 := by
  simp (disch := omega) only [LDesc.entryProg, Prog.entry, Prog.xr_setX_other]
  exact ite_self _

section
variable (s : State) (l : CoreLaunch) (d : LDesc)

/-- The program starts at its entry, without a valid configuration, with its context area and its signal. -/
theorem State.coreEntry_config : (s.coreEntry l d).pc = BitVec.ofNat 64 d.entry ∧ (s.coreEntry l d).vl = 0 ∧
    (s.coreEntry l d).vbad = true ∧ (s.coreEntry l d).ctx = d.ctx ∧ (s.coreEntry l d).signal = d.signalId ∧
    (s.coreEntry l d).ended = none :=
  ⟨rfl, rfl, show bit (0x80000000 : W32) 31 = true by decide, rfl, rfl, rfl⟩

theorem State.coreEntry_xr (k : Nat) : (s.coreEntry l d).xr k = d.entryProg.xr k := by
  simp only [Prog.xr, State.coreEntry, State.sampled]

end

/-- A well-formed launch leaves the queue, and its core runs the program. -/
theorem State.startLaunch_of_wellFormed {s : State} {l : CoreLaunch} (hgood : (ldescOf l.body).bad = false) (c : Fin 256) :
    s.startLaunch c l = (s.setCoreQueue c (s.coreQueue c).tail).setProg (.core c)
      (some (s.coreEntry l (ldescOf l.body))) := by
  have hc : Fin.ofNat 256 c.val = c := Fin.ofNat_val_eq_self c
  simp only [State.startLaunch, hgood, hc]
  rfl

theorem State.startLaunch_of_malformed {s : State} {l : CoreLaunch} (hbad : (ldescOf l.body).bad = true) (c : Nat) :
    s.startLaunch c l = (s.setCoreQueue c (s.coreQueue c).tail).coreInvalid l.act l.idx l.addr (ldescOf l.body) := by
  simp only [State.startLaunch, hbad, if_true]

/-- What a launch descriptor that completes SB_INVALID leaves: the queues and the programs as they were, and its signal. -/
theorem State.coreInvalid_leaves (s : State) (act idx addr : Nat) (d : LDesc) :
    DescEndFrame s (s.coreInvalid act idx addr d) ∧ Signalled s (s.coreInvalid act idx addr d) d.signalId := by
  have hlast : EventFrame s (if d.core < numCores s.grade then
      s.setReg (Reg.slvCoreLastErr d.core) (BitVec.ofNat 64 addr) else s) := by
    split
    · exact s.setReg_frame _ _
    · rfl
  have hevent := hlast.trans (State.event_frame _ 0x10 Reg.slvEvent 9 (some d.core) (some addr))
  refine ⟨hevent.descEnd.trans (State.descEnd_frame _ (coreReq d.core) (addr + 3) 0x41 d.signalId act idx), ?_⟩
  refine signalled_of_sync (State.descEnd_signalled _ (coreReq d.core) (addr + 3) 0x41 d.signalId act idx) ?_
  rw [hevent]

/-- A launch at the head of a free core's queue that need not wait starts. -/
theorem exec_coreProgramStart_of_head {c : Fin 256} {s : State} {l : CoreLaunch} {rel : Bool} {q : List CoreEnt}
    (hqueue : s.coreQueue c = .launch l rel :: q) (hbusy : s.coreBusy c = false) (hparked : s.isParked 1 c = false)
    (hmet : rel = true ∨ s.waitMet (ldescOf l.body).waitId (ldescOf l.body).waitCount = true) :
    exec (.coreProgramStart c) s = .next (s.startLaunch c l) := by
  have hgo : (rel || s.waitMet (ldescOf l.body).waitId (ldescOf l.body).waitCount) = true := Bool.or_eq_true_iff.2 hmet
  change execCoreProgramStart c s = _
  simp [execCoreProgramStart, hqueue, hbusy, hparked, hgo]

/-! ## The end of an item (R207) -/

/-- A unit that has finished its share runs none. -/
theorem State.shareOf_shareDone (s : State) (k n : Nat) : (s.shareDone k n).shareOf k = none := by
  unfold State.shareDone
  split
  · exact s.shareOf_setShare k none
  · exact s.shareOf_setShare k none

theorem State.dropAccesses_shareOf (s : State) (r : Req) (k : Nat) : (s.dropAccesses r).shareOf k = s.shareOf k := rfl

/-- Going on with the rest of a share asks for no data. -/
theorem State.setShare_lacks (s : State) (k : Nat) (v : Option Share) (r : Req) : (s.setShare k v).lacks r = s.lacks r := rfl

/-- Finishing a share asks for no data. -/
theorem State.shareDone_lacks (s : State) (k n : Nat) (r : Req) : (s.shareDone k n).lacks r = s.lacks r := by
  unfold State.shareDone
  split <;> rfl

/-- Work that asks for no data is done. -/
theorem State.whenDone_of_no_access {s1 : State} {r : Req} (h : ∀ e ∈ s1.accesses, e.req ≠ r) (s : State) :
    s.whenDone s1 r = s1 :=
  (State.whenDone_of_whole (State.lacks_of_no_access h) s).trans (State.dropAccesses_of_no_access h)

section
variable {s : State} {sh : Share} {b : Batch}

/-- The first item of an engine's share ends: the engine goes on with the rest, or has finished after the last. -/
theorem exec_solverItemEnd_engine {e : Fin 32} {k : Nat} {rest : List Nat} (hshare : s.shareOf e = some sh)
    (hbatch : s.batchOf sh.batch = some b) (hitems : sh.items = k :: rest) (hparked : s.isParked 2 e = false)
    (iters fails : Nat) :
    exec (.solverItemEnd (.engine e) iters fails) s = .next (s.whenDone
      (if rest.isEmpty then (s.runItem e b sh.batch k iters fails).shareDone e sh.batch
        else (s.runItem e b sh.batch k iters fails).setShare e (some { sh with items := rest })) (keyReq e)) := by
  have hkey : ¬ 256 ≤ e.val := by omega
  have hmod : e.val % 256 = e.val := by omega
  change execSolverItemEnd (.engine e) iters fails s = _
  simp [execSolverItemEnd, hshare, hbatch, hitems, hkey, hmod, hparked]

/-- An item of a core's group ends, once the core is not parked. -/
theorem exec_solverItemEnd_core {c : Fin 256} (hshare : s.shareOf (256 + c) = some sh)
    (hbatch : s.batchOf sh.batch = some b) (hparked : s.isParked 1 c = false) (iters fails : Nat) :
    exec (.solverItemEnd (.core c) iters fails) s =
      .next (s.whenDone (s.groupItem (256 + c) sh b iters) (keyReq (256 + c))) := by
  have hmod : (256 + c.val) % 256 = c.val := by omega
  change execSolverItemEnd (.core c) iters fails s = _
  simp [execSolverItemEnd, hshare, hbatch, hmod, hparked]

/-- An item of a group that is not its last waits for the others. -/
theorem State.groupItem_of_more {k t t' : Nat} {rest : List Nat} (hgroup : sh.group = t :: t' :: rest) (s : State)
    (b : Batch) (iters : Nat) : s.groupItem k sh b iters =
      s.setShare k (some { sh with group := t' :: rest, ended := sh.ended ++ [(t, iters)] }) := by
  simp [State.groupItem, hgroup]

end

/-! ## The completion of a batch (R185, R203) -/

/-- A batch that every unit has finished, and whose stores are acknowledged, completes. -/
theorem exec_batchComplete_of_done {n : Nat} {s : State} {b : Batch} (hbatch : s.batchOf n = some b) (hleft : b.left = [])
    (howes : ∀ k ∈ (bdescOf b.body).unitKeys, s.unitOwes (keyReq k) = false) :
    exec (.batchComplete n) s = .next ((s.setBatch n none).batchEnd b (if b.notOk then 0x40 else 0)) := by
  have hall : ((bdescOf b.body).unitKeys.all fun k => !s.unitOwes (keyReq k)) = true :=
    List.all_eq_true.2 fun k hk => by simp [howes k hk]
  change execBatchComplete n s = _
  simp [execBatchComplete, hbatch, hleft, hall]

end Sys2Proof.Machine

namespace Sys2Proof.Proofs
open Sys2Proof Sys2Proof.Machine Sys2Proof.Claims

theorem solverSharesStart : Parts.SolverSharesStart := by
  refine ⟨fun e he i s n b hhead hbatch => ?_,
    fun e he i s n rel q b hqueue hbatch hop hbusy hparked hmet hjudge hitems => ?_⟩
  · have hexec := (exec_engOps e he i s).trans (by rw [State.batchOnEngine_of_head hhead])
    refine ⟨fun hjudge hitems => ?_, fun hjudge => ?_⟩
    · rw [← BDesc.shareItems_engine] at hitems ⊢
      rw [State.startShare_of_wellFormed (s := s.setEngQueue i (s.engQueue i).tail) hbatch hjudge hitems] at hexec
      exact ⟨_, hexec, State.shareOf_setShare _ _ _, s.engQueue_setEngQueue i _, rfl⟩
    · rw [State.startShare_of_malformed (s := s.setEngQueue i (s.engQueue i).tail) hbatch hjudge] at hexec
      obtain ⟨hgone, hshares, hsignalled⟩ := (s.setEngQueue i (s.engQueue i).tail).refuseBatch_leaves n b
        (s.batchJudge (bdescOf b.body))
      have hfree : s.shareOf i = none := State.shareOf_of_engHead hhead
      exact ⟨_, hexec, hgone, (hshares i).trans hfree, signalled_of_sync hsignalled rfl⟩
  · have hgo : (rel || s.waitMet (bdescOf b.body).waitId (bdescOf b.body).waitCount) = true := Bool.or_eq_true_iff.2 hmet
    have hstart : s.batchOnCore i e.2 = (s.setCoreQueue i q).startShare (256 + i) n := by
      simp [State.batchOnCore, hqueue, hbatch, hop, hbusy, hparked, hgo]
    have hexec := (exec_coreOps e he i s).trans (by rw [hstart])
    rw [← BDesc.shareItems_core] at hitems ⊢
    rw [State.startShare_of_wellFormed (s := s.setCoreQueue i q) hbatch hjudge hitems] at hexec
    exact ⟨_, hexec, State.shareOf_setShare _ _ _, s.coreQueue_setCoreQueue i q, rfl⟩

theorem coreProgramsStart : Parts.CoreProgramsStart := by
  intro c s l rel q hqueue hbusy hparked hmet
  have hexec := exec_coreProgramStart_of_head hqueue hbusy hparked hmet
  have htail : (s.coreQueue c).tail = q := by rw [hqueue, List.tail_cons]
  refine ⟨fun hgood => ?_, fun hbad => ?_⟩
  · rw [State.startLaunch_of_wellFormed hgood, htail] at hexec
    obtain ⟨hpc, hvl, hvbad, hctx, hsignal, hended⟩ := s.coreEntry_config l (ldescOf l.body)
    have hpassed := (ldescOf l.body).entryProg_passed
    simp only [← s.coreEntry_xr l] at hpassed
    obtain ⟨h1, h2, h3, h4, h5, h6, h7⟩ := hpassed
    exact ⟨_, _, hexec, s.coreQueue_setCoreQueue c q, State.progOf_setProg _ _ _, hpc, hvl, hvbad, h1, h2, h3, h4, h5, h6, h7,
      fun k hk => (s.coreEntry_xr l _ k).trans (LDesc.entryProg_xr_above _ hk), hctx, hsignal, hended, rfl⟩
  · rw [State.startLaunch_of_malformed hbad, htail] at hexec
    obtain ⟨hframe, hsignalled⟩ := (s.setCoreQueue c q).coreInvalid_leaves l.act l.idx l.addr (ldescOf l.body)
    exact ⟨_, hexec, (hframe.coreQueue c).trans (s.coreQueue_setCoreQueue c q), hframe.progs,
      signalled_of_sync hsignalled rfl⟩

theorem solverItemsAndBatchesEnd : Parts.SolverItemsAndBatchesEnd := by
  refine ⟨fun e s sh b k k' rest iters fails hshare hbatch hitems hparked hwhole => ?_,
    fun e s sh b k iters fails hshare hbatch hitems hparked hwhole => ?_,
    fun c s sh b k k' rest iters fails hshare hbatch hgroup hparked hfree => ?_,
    fun n s b hbatch hleft howes => ?_⟩
  · have hexec := exec_solverItemEnd_engine hshare hbatch hitems hparked iters fails
    rw [List.isEmpty_cons, if_neg Bool.false_ne_true,
      State.whenDone_of_whole ((State.setShare_lacks _ _ _ _).trans hwhole)] at hexec
    exact ⟨_, hexec, (State.dropAccesses_shareOf _ _ _).trans (State.shareOf_setShare _ _ _)⟩
  · have hexec := exec_solverItemEnd_engine hshare hbatch hitems hparked iters fails
    have hdone := ((s.runItem e b sh.batch k iters fails).shareDone_lacks e sh.batch (keyReq e)).trans hwhole
    rw [List.isEmpty_nil, if_pos rfl, State.whenDone_of_whole hdone] at hexec
    exact ⟨_, hexec, (State.dropAccesses_shareOf _ _ _).trans (State.shareOf_shareDone _ _ _)⟩
  · have hexec := exec_solverItemEnd_core hshare hbatch hparked iters fails
    rw [State.groupItem_of_more hgroup, State.whenDone_of_no_access (s1 := s.setShare _ _) hfree] at hexec
    exact ⟨_, hexec, State.shareOf_setShare _ _ _, rfl⟩
  · have hexec := exec_batchComplete_of_done hbatch hleft howes
    have hend := (s.setBatch n none).batchEnd_frame b (if b.notOk then 0x40 else 0)
    refine ⟨_, hexec, (hend.batchOf n).trans (s.batchOf_setBatch n none),
      signalled_of_sync (State.batchEnd_signalled _ _ _) rfl, State.batchEnd_batches _ _ _, fun hplain => ?_⟩
    have hbyte := PlainByte.batchEnd_byte (s := s.setBatch n none) hplain (if b.notOk then 0x40 else 0)
    rw [hbyte]
    split <;> rfl

/-- Settles O23: the head of a queue starts on its unit, items leave the share one by one, and what is left of a batch ends it. -/
theorem solverWork : Obligations.SolverWork := ⟨solverSharesStart, coreProgramsStart, solverItemsAndBatchesEnd⟩

end Sys2Proof.Proofs
end

section
/-! PROOFS. The events of the BOB block (R227), and registers that a command sets together. -/
namespace Sys2Proof.Machine
open Sys2Proof.Claims

/-- Bit 0 of a written word, as the model reads it. -/
theorem bit_zeroExtend (v : BitVec 32) : bit (v.zeroExtend 64) 0 = v.getLsbD 0 := by
  simp [bit]

theorem State.bobEv_reg_other (s : State) (b : Nat) {o : Nat} (h : Reg.msixPba 32 ≤ o) (hev : o ≠ Reg.bobEvent) :
    (s.bobEv b).reg o = s.reg o := s.event_reg_of_ge _ _ _ _ _ h hev

theorem State.bobEv_regB (s : State) {b : Nat} (h : b < 64) : (s.bobEv b).regB Reg.bobEvent b = true :=
  (State.regB_congr (s.event_reg_self _ _ _ _ (by decide)) b).trans (s.regB_setRegB_same _ _ _ h)

/-- Setting two bits, each of its own register, sets both and changes no other register. -/
theorem State.setRegB_two (s : State) {o o' i j : Nat} (b c : Bool) (ho : o ≠ o') (hi : i < 64) (hj : j < 64) :
    ((s.setRegB o i b).setRegB o' j c).regB o i = b ∧ ((s.setRegB o i b).setRegB o' j c).regB o' j = c ∧
      OnlyRegs s ((s.setRegB o i b).setRegB o' j c) [o, o'] := by
  refine ⟨?_, State.regB_setRegB_same _ _ _ _ hj, fun off hoff => ?_⟩
  · exact (State.regB_setReg_other _ _ _ ho).trans (s.regB_setRegB_same _ _ _ hi)
  · obtain ⟨h, h'⟩ : off ≠ o ∧ off ≠ o' := by simpa using hoff
    exact (State.reg_setReg_other _ _ h').trans (State.reg_setReg_other _ _ h)

/-- The state once every register of a list was set to 0. -/
def State.clearRegs (s : State) (offs : List Nat) : State := offs.foldl (fun s o => s.setReg o 0) s

theorem State.clearRegs_reg (s : State) (offs : List Nat) (o : Nat) :
    (s.clearRegs offs).reg o = if o ∈ offs then 0 else s.reg o := by
  induction offs generalizing s with
  | nil => rfl
  | cons x offs ih =>
    rw [State.clearRegs, List.foldl_cons, ← State.clearRegs, ih]
    by_cases hx : o = x
    · subst hx
      simp [State.reg_setReg_same]
    · simp [hx, State.reg_setReg_other _ _ hx]

theorem State.clearRegs_frame (s : State) (offs : List Nat) :
    s.clearRegs offs = { s with regs := (s.clearRegs offs).regs } := by
  induction offs generalizing s with
  | nil => rfl
  | cons x offs ih => exact ih (s.setReg x 0)

end Sys2Proof.Machine
end

section
/-! PROOFS. The monitor sets (R165). -/
namespace Sys2Proof.Proofs
open Sys2Proof Sys2Proof.Machine Sys2Proof.Claims

theorem findReg_monCfg (n : Fin 1024) : findReg (Reg.monCfg n) =
    some (⟨0x300000, 1, 4, 1024, 0x80, false, .pkg, 0x20400, 2 ^ 18 - 1, 0, 0, 0⟩, Reg.monCfg n) := by
  have hn := n.isLt
  have hq : 0x80 * n.val / 0x80 = n := Nat.mul_div_cancel_left _ (by decide)
  have hblock : regBlock (Reg.monCfg n) = regRowsHub := by
    have hblk : Reg.monCfg n / 0x400000 = 0 := Nat.div_eq_of_lt (by simp only [Reg.monCfg]; omega)
    simp [regBlock, hblk]
  unfold findReg
  rw [hblock]
  simp [regRowsHub, RegRow.hit, Reg.monCfg, hq, Nat.not_le.mpr hn]

/-- `t` is `s` but for the registers and the words of histories that no register shows. -/
def MonFrame (s t : State) : Prop := t = { s with regs := t.regs, monHi := t.monHi }

theorem MonFrame.trans {s t u : State} (h1 : MonFrame s t) (h2 : MonFrame t u) : MonFrame s u := by
  unfold MonFrame at *
  rw [h2, h1]

theorem plainWrite_monFrame (s : State) (off : Nat) (new : W64) : MonFrame s (s.plainWrite off new) := by
  unfold MonFrame
  rw [s.plainWrite_frame]

theorem setMonHistory_monFrame (s : State) (n : Nat) (h : List (BitVec 16)) : MonFrame s (s.setMonHistory n h) := rfl

/-- Putting a history in place stores the two words that MON_HIST shows and the two that it does not. -/
theorem setMonHistory_onlyRegs (s : State) (n : Nat) (h : List (BitVec 16)) :
    OnlyRegs s (s.setMonHistory n h) [Reg.monHist n 0, Reg.monHist n 1] := by
  intro off hoff
  obtain ⟨h0, h1⟩ : off ≠ Reg.monHist n 0 ∧ off ≠ Reg.monHist n 1 := by simpa using hoff
  exact (State.reg_setReg_other _ _ h1).trans (State.reg_setReg_other _ _ h0)

/-- A write to MON_CFG that is not ignored stores all its fields, and besides at most drops entries of the history. -/
theorem monCfgWrite_taken (n : Fin 1024) (v : BitVec 32) (s : State)
    (h : (s.regB (Reg.monCfg n) 0 && bit (v.zeroExtend 64) 0) = false) :
    (s.monCfgWrite n (v.zeroExtend 64)).regF (Reg.monCfg n) 0 18 = v.toNat % 2 ^ 18 ∧
      OnlyRegs s (s.monCfgWrite n (v.zeroExtend 64)) [Reg.monCfg n, Reg.monHist n 0, Reg.monHist n 1] ∧
      MonFrame s (s.monCfgWrite n (v.zeroExtend 64)) := by
  have hfields : (s.plainWrite (Reg.monCfg n) (v.zeroExtend 64)).regF (Reg.monCfg n) 0 18 = v.toNat % 2 ^ 18 := by
    refine fld_eq_mod_of_bits fun i hi => ?_
    have rwBit : (2 ^ 18 - 1 : Nat).testBit i = true := by rw [Nat.testBit_two_pow_sub_one, decide_eq_true hi]
    rw [Nat.add_zero, s.getLsbD_plainWrite _ (findReg_monCfg n) i (by omega), bitWritten, rwBit, Bool.true_or, if_pos rfl,
      BitVec.getLsbD_setWidth, decide_eq_true (by omega), Bool.true_and]
    rfl
  have honly := s.plainWrite_onlyRegs (v.zeroExtend 64) (findReg_monCfg n)
  have hframe := plainWrite_monFrame s (Reg.monCfg n) (v.zeroExtend 64)
  rw [State.monCfgWrite, h, if_neg Bool.false_ne_true]
  generalize s.plainWrite (Reg.monCfg n) (v.zeroExtend 64) = s1 at *
  dsimp only
  split
  · exact ⟨hfields, fun off hoff => honly off (mt List.mem_singleton.1 (List.ne_of_not_mem_cons hoff)), hframe⟩
  · have hhist := setMonHistory_onlyRegs s1 n (trimHistory (s1.monHistLen n) (s1.monHistory n))
    have hcfg : Reg.monCfg n ∉ [Reg.monHist n 0, Reg.monHist n 1] := by
      simp only [Reg.monCfg, Reg.monHist, List.mem_cons, List.not_mem_nil, or_false]
      omega
    exact ⟨(State.regF_congr (hhist _ hcfg) 0 18).trans hfields, fun off hoff =>
      (hhist off (List.not_mem_of_not_mem_cons hoff)).trans
        (honly off (mt List.mem_singleton.1 (List.ne_of_not_mem_cons hoff))), hframe.trans (setMonHistory_monFrame _ _ _)⟩

theorem monitorSets : Parts.MonitorSets := by
  intro n v s
  refine ⟨fun hfree _ => ?_, fun harmed hv => ?_, fun hv => ?_, fun hv => ?_⟩
  · exact ⟨_, rfl, monCfgWrite_taken n v s (by rw [hfree, Bool.false_and])⟩
  · have hignored : s.monCfgWrite n (v.zeroExtend 64) = s := by
      rw [State.monCfgWrite, harmed, bit_zeroExtend, hv]
      rfl
    exact congrArg Host.Outcome.next hignored
  · exact ⟨_, rfl, monCfgWrite_taken n v s (by rw [bit_zeroExtend, hv, Bool.and_false])⟩
  · have hclear : s.monCtrlWrite n (v.zeroExtend 64) = s.clearRegs [Reg.monCntElems n, Reg.monCntZero n, Reg.monCntSat n,
        Reg.monCntNonfinite n, Reg.monCntEmptyRow n, Reg.monAmax n] := by
      rw [State.monCtrlWrite, bit_zeroExtend, hv, if_neg Bool.noConfusion]
      rfl
    have hexec : exec (.monClear n v) s = .next (s.monCtrlWrite n (v.zeroExtend 64)) := rfl
    refine ⟨_, hexec.trans (congrArg _ hclear), fun off hoff => ?_, fun off hoff => ?_, s.clearRegs_frame _⟩
    · exact (s.clearRegs_reg _ _).trans (if_pos hoff)
    · exact (s.clearRegs_reg _ _).trans (if_neg hoff)

end Sys2Proof.Proofs
end

section
/-! PROOFS. The output of the generator port (R226), and when the stores of a fill are performed (R225). -/
namespace Sys2Proof.Machine
open Sys2Proof.Claims

/-- Word `w` of the draw goes to its register (R226). -/
def State.putGenWord (s : State) (w : Nat) : State := s.setReg (Reg.bobGenOut w) (BitVec.ofNat 64 (s.genWords.getD w 0).toNat)

/-- The output registers once `n` words of the draw were put in them. -/
theorem State.putGenWords_reg (s : State) (n : Nat) : (foldN n s State.putGenWord).genWords = s.genWords ∧
    ∀ w, w < n → ((foldN n s State.putGenWord).reg (Reg.bobGenOut w)).toNat = (s.genWords.getD w 0).toNat := by
  induction n with
  | zero => exact ⟨rfl, fun w hw => absurd hw (Nat.not_lt_zero w)⟩
  | succ n ih =>
    obtain ⟨hwords, hout⟩ := ih
    have hstep : foldN (n + 1) s State.putGenWord = (foldN n s State.putGenWord).putGenWord n := by
      simp only [foldN, List.range_succ, List.foldl_append, List.foldl_cons, List.foldl_nil]
    rw [hstep]
    refine ⟨hwords, fun w hw => ?_⟩
    rcases Nat.lt_succ_iff_lt_or_eq.1 hw with hlt | rfl
    · have hne : Reg.bobGenOut w ≠ Reg.bobGenOut n := by simp only [Reg.bobGenOut]; omega
      rw [State.putGenWord, State.reg_setReg_other _ _ hne]
      exact hout w hlt
    · have hword := (s.genWords.getD w 0).isLt
      rw [State.putGenWord, State.reg_setReg_same, hwords, BitVec.toNat_ofNat, Nat.mod_eq_of_lt (by omega)]

/-- A unit awaits nothing where no request is its own and none of its stores is held. -/
theorem State.awaits_eq_false {s : State} {r : Req} (hreqs : ∀ q ∈ s.reqs, q.req ≠ r) (hqueue : ∀ q ∈ s.reqQ, q.req ≠ r)
    (hheld : ∀ q ∈ s.heldReqs, q ≠ r) : s.awaits r = false := by
  have hnone : r ∉ s.heldReqs := fun hmem => hheld r hmem rfl
  simpa [State.awaits, State.holdsFor, hnone] using ⟨hreqs, hqueue⟩

end Sys2Proof.Machine
end

section
/-! PROOFS. The memory that a fill leaves (R225): its stores are performed at once, and each word holds its draw. -/
namespace Sys2Proof.Machine
open Sys2Proof.Claims

/-! ## Words as bytes -/

/-- Byte `i` of a row of words of 4 bytes. -/
def wordsByte (w : Nat → Nat) (i : Nat) : Byte := BitVec.ofNat 8 (w (i / 4) / 256 ^ (i % 4))

theorem map_wordsByte_word (w : Nat → Nat) (n : Nat) :
    ((List.range 4).map fun k => wordsByte w (4 * n + k)) = natBytes 4 (w n) := by
  refine List.ext_getElem (by simp) fun k hk _ => ?_
  have hk4 : k < 4 := by simpa using hk
  rw [getElem_natBytes, List.getElem_map, List.getElem_range, wordsByte, show (4 * n + k) / 4 = n by omega,
    show (4 * n + k) % 4 = k by omega]

theorem flatten_natBytes_words (w : Nat → Nat) (j n : Nat) :
    ((List.range n).map fun i => natBytes 4 (w (j + i))).flatten =
      (List.range (4 * n)).map fun k => wordsByte w (4 * j + k) := by
  induction n with
  | zero => rfl
  | succ n ih =>
    rw [List.range_succ, List.map_append, List.flatten_append, ih, List.map_singleton, List.flatten_singleton,
      ← map_wordsByte_word, Nat.mul_succ, List.range_add, List.map_append, List.map_map]
    simp only [Function.comp_def, Nat.mul_add, Nat.add_assoc]

/-! ## Stores within one granule -/

theorem granules_within {d n : Nat} (hn : 0 < n) (h : d % 32 + n ≤ 32) : granules d n = [d / 32] := by
  have hlast : (d + n - 1) / 32 = d / 32 := by omega
  simp [granules, hn.ne', hlast, upFrom]

/-- A store of a part of one granule leaves the poison marks. -/
theorem State.storeBytes_poison_within (s : State) {d : Nat} {bs : List Byte} (hpos : 0 < bs.length) (hlen : bs.length < 32)
    (hend : d % 32 + bs.length ≤ 32) : (s.storeBytes d bs).poison = s.poison := by
  have hpart : partly d bs.length (d / 32) = true := by
    simp only [partly, Bool.not_eq_true', Bool.and_eq_false_iff, decide_eq_false_iff_not]
    omega
  simp [State.storeBytes, granules_within hpos hend, hpart, setPoison]

/-- Memory after a store of bytes in a clean granule. -/
theorem State.byte_storeBytes_map (s : State) {d m : Nat} (f : Nat → Byte) (hend : d % 32 + m ≤ 32)
    (hclean : s.poisoned (d / 32) = false) (b : Nat) :
    (s.storeBytes d ((List.range m).map f)).byte b = if d ≤ b ∧ b < d + m then f (b - d) else s.byte b := by
  split
  case isTrue h =>
    obtain ⟨hle, -⟩ := id h
    obtain ⟨k, rfl⟩ := Nat.exists_eq_add_of_le hle
    have hk : k < ((List.range m).map f).length := by simp; omega
    rw [s.byte_storeBytes_same d k _ hk (by rwa [show (d + k) / 32 = d / 32 by omega])]
    simp
  case isFalse h => exact s.byte_storeBytes_other d b _ (by simp; omega)

/-! ## What a store leaves of the stores that may be made -/

/-- The entries of the replication table stand in its own registers. -/
theorem State.replEntries_setReg (s : State) {o : Nat} (v : W64) (h : o < 0x02010000) :
    (s.setReg o v).replEntries = s.replEntries := by
  have hentries : ((s.setReg o v).regs.filter fun p => decide (0x02010000 ≤ p.1) && decide (p.1 < 0x02020000) &&
      p.1 % 16 == 0 && bit p.2 0) = s.regs.filter fun p => decide (0x02010000 ≤ p.1) && decide (p.1 < 0x02020000) &&
      p.1 % 16 == 0 && bit p.2 0 :=
    Tbl.filter_set _ _ fun w => by simp [Nat.not_le.2 h]
  unfold State.replEntries
  rw [hentries]
  refine List.map_congr_left fun p hp => ?_
  have hge : 0x02010000 ≤ p.1 := by
    have hkey := List.of_mem_filter hp
    simp only [Bool.and_eq_true, decide_eq_true_eq] at hkey
    omega
  dsimp only
  rw [s.reg_setReg_other v (by omega)]

/-- The registers that say which addresses are the package's own and may be stored to. -/
def ownOffs : List Nat := [Reg.memCfg, Reg.memStatus, Reg.fabNode]

/-- `t` is `s` but for registers and memory, and a store that may be made at once in `s` may be made at once in `t`. -/
def StoresAlike (s t : State) : Prop :=
  t = { s with regs := t.regs, mem := t.mem } ∧ t.replEntries = s.replEntries ∧ ∀ o ∈ ownOffs, t.reg o = s.reg o

theorem StoresAlike.refl (s : State) : StoresAlike s s := ⟨rfl, rfl, fun _ _ => rfl⟩

theorem StoresAlike.trans {s t u : State} (h1 : StoresAlike s t) (h2 : StoresAlike t u) : StoresAlike s u := by
  obtain ⟨hframe1, hrepl1, hreg1⟩ := h1
  obtain ⟨hframe2, hrepl2, hreg2⟩ := h2
  refine ⟨?_, hrepl2.trans hrepl1, fun o ho => (hreg2 o ho).trans (hreg1 o ho)⟩
  rw [hframe2, hframe1]

theorem StoresAlike.setReg (s : State) {o : Nat} (v : W64) (h : o < 0x02010000) (hown : o ∉ ownOffs) :
    StoresAlike s (s.setReg o v) :=
  ⟨rfl, s.replEntries_setReg v h, fun _ ho => State.reg_setReg_other _ _ fun e => hown (e ▸ ho)⟩

theorem StoresAlike.hostBytes (s : State) (a n : Nat) : StoresAlike s (s.hostBytes 5 a n) := by
  unfold State.hostBytes
  split
  · exact StoresAlike.setReg s _ (by decide) (by decide)
  · exact .refl s

theorem StoresAlike.storeBytes (s : State) {d : Nat} {bs : List Byte} (hpos : 0 < bs.length) (hlen : bs.length < 32)
    (hend : d % 32 + bs.length ≤ 32) : StoresAlike s (s.storeBytes d bs) := by
  have hpoison := s.storeBytes_poison_within hpos hlen hend
  exact ⟨congrArg (fun p => { s with mem := (s.storeBytes d bs).mem, poison := p }) hpoison, rfl, fun _ _ => rfl⟩

section
variable {s t : State} (h : StoresAlike s t)
include h

theorem StoresAlike.node : t.node = s.node := by
  obtain ⟨-, -, hreg⟩ := h
  exact State.regF_congr (hreg Reg.fabNode (by simp [ownOffs])) 0 16

theorem StoresAlike.isLocal (a : Nat) : t.isLocal a = s.isLocal a := by
  unfold State.isLocal
  rw [h.node]

theorem StoresAlike.replStore (a : Nat) : t.replStore a = s.replStore a := by
  obtain ⟨-, hrepl, -⟩ := id h
  unfold State.replStore State.canonAddr
  rw [hrepl, h.isLocal, h.node]

theorem StoresAlike.ownWrite {a n : Nat} (hown : OwnWrite s a n) : OwnWrite t a n := by
  obtain ⟨⟨halign, hlocal, haccess, hclean⟩, hstream, hbusy⟩ := hown
  obtain ⟨hframe, -, hreg⟩ := id h
  have hregion := State.region_congr (s := s) (t := t) (by rw [hframe]) (hreg _ (by simp [ownOffs])) (hreg _ (by simp [ownOffs]))
  refine ⟨⟨halign, (h.isLocal a).trans hlocal, ?_, ?_⟩, ?_, ?_⟩
  · simpa only [State.accessible, hregion] using haccess
  · rw [hframe]
    exact hclean
  · rw [State.streamFails, hregion, hframe]
    exact hstream
  · rw [hframe]
    exact hbusy

end

/-! ## Stores of several words (R24, R286) -/

/-- A store within one granule that may be made now is its bytes and the count of bytes written to the host. -/
theorem ownWrite_store_within {s : State} {a n : Nat} (h : OwnWrite s a n) (r : Req) {bs : List Byte} (hpos : 0 < bs.length)
    (hend : devAddr a % 32 + bs.length ≤ 32) :
    s.store r (devAddr a) bs = (s.storeBytes (devAddr a) bs).hostBytes 5 (devAddr a) bs.length := by
  obtain ⟨⟨-, -, haccess, hclean⟩, hstream, hbusy⟩ := h
  have hgran := granules_within hpos hend
  have hmax : max (devAddr a) (32 * (devAddr a / 32)) = devAddr a := by omega
  have hallowed : firstRefused s.accessible (devAddr a) bs.length = none := by simp [firstRefused, hgran, hmax, haccess]
  have hfree : s.rangeBusy (devAddr a) bs.length true = false := by simp [State.rangeBusy, hgran, hbusy]
  have hwhole : s.merges (devAddr a) bs.length = [] := by simp [State.merges, hgran, hclean]
  simp [State.store, hallowed, hstream, hfree, State.storeNow, hwhole]

/-- Such a store of a unit, of a page that is not replicated, while no store is held. -/
theorem ownWrite_gstore_within {s : State} {a n : Nat} (h : OwnWrite s a n) (r : Req) {bs : List Byte} (hpos : 0 < bs.length)
    (hend : devAddr a % 32 + bs.length ≤ 32) (hrepl : s.replStore a = false) (hheld : s.replHeld = []) :
    s.gstore r a bs false = (s.storeBytes (devAddr a) bs).hostBytes 5 (devAddr a) bs.length := by
  have hne : bs ≠ [] := List.ne_nil_of_length_pos hpos
  obtain ⟨⟨-, hlocal, -⟩, -⟩ := id h
  rw [← ownWrite_store_within h r hpos hend]
  simp [State.gstore, State.gstoreNow, hne, hrepl, hheld, hlocal]

/-! ## The stores of a fill (R225) -/

/-- Store `j` of a fill whose words are `w`: at most four words. -/
def State.fillChunk (w : Nat → Nat) (addr count : Nat) (s : State) (j : Nat) : State :=
  s.gstore fillReq ((addr + 16 * j) % 2 ^ 64)
    (((List.range (min 4 (count - 4 * j))).map fun i => natBytes 4 (w (4 * j + i))).flatten) false

theorem State.fillStores_eq (s : State) (k : DrawKey) (index addr count : Nat) :
    s.fillStores k index addr count = foldN (ceilDiv count 4) s (State.fillChunk (fillWord k index) addr count) := rfl

/-- Every word of a fill may be stored now. -/
def FillOpen (s : State) (addr count : Nat) : Prop :=
  addr % 64 = 0 ∧ addr + 4 * count ≤ 2 ^ 64 ∧ s.replHeld = [] ∧
  ∀ n, n < count → OwnWrite s (addr + 4 * n) 4 ∧ s.replStore (addr + 4 * n) = false ∧
    devAddr (addr + 4 * n) = devAddr addr + 4 * n

theorem FillOpen.alike {s t : State} {addr count : Nat} (h : FillOpen s addr count) (hst : StoresAlike s t) :
    FillOpen t addr count := by
  obtain ⟨halign, hend, hheld, hwords⟩ := h
  refine ⟨halign, hend, ?_, fun n hn => ?_⟩
  · obtain ⟨hframe, -, -⟩ := hst
    rw [hframe]
    exact hheld
  · obtain ⟨hown, hrepl, hdev⟩ := hwords n hn
    exact ⟨hst.ownWrite hown, (hst.replStore _).trans hrepl, hdev⟩

/-- `t` is `s` once the first `m` bytes of the row of words `w` were stored at `d`. -/
def RowStored (s t : State) (w : Nat → Nat) (d m : Nat) : Prop :=
  StoresAlike s t ∧ OnlyRegs s t [Reg.hubCnt 5] ∧
    ∀ b, t.byte b = if d ≤ b ∧ b < d + m then wordsByte w (b - d) else s.byte b

theorem RowStored.refl (s : State) (w : Nat → Nat) (d : Nat) : RowStored s s w d 0 :=
  ⟨.refl s, fun _ _ => rfl, fun b => (if_neg (by omega)).symm⟩

/-- Storing the next bytes of the row within one clean granule. -/
theorem RowStored.step {s t : State} {w : Nat → Nat} {d m n : Nat} (h : RowStored s t w d m) (hn : 0 < n)
    (hn32 : n < 32) (hend : (d + m) % 32 + n ≤ 32) (hclean : t.poisoned ((d + m) / 32) = false) {bs : List Byte}
    (hbs : bs = (List.range n).map fun k => wordsByte w (m + k)) :
    RowStored s ((t.storeBytes (d + m) bs).hostBytes 5 (d + m) bs.length) w d (m + n) := by
  obtain ⟨halike, honly, hbytes⟩ := h
  have hlen : bs.length = n := by simp [hbs]
  have hstore : StoresAlike t (t.storeBytes (d + m) bs) := .storeBytes t (by omega) (by omega) (by omega)
  refine ⟨(halike.trans hstore).trans (.hostBytes _ _ _), fun off hoff => ?_, fun b => ?_⟩
  · exact (State.hostBytes_reg_other _ _ _ _ (List.ne_of_not_mem_cons hoff)).trans (honly off hoff)
  · have hmem : ((t.storeBytes (d + m) bs).hostBytes 5 (d + m) bs.length).byte b = (t.storeBytes (d + m) bs).byte b := by
      rw [State.byte, State.hostBytes_mem]
      rfl
    rw [hmem, hbs, t.byte_storeBytes_map _ hend hclean, hbytes]
    by_cases hnew : d + m ≤ b ∧ b < d + m + n
    · rw [if_pos hnew, if_pos (by omega)]
      exact congrArg (wordsByte w) (by omega)
    · rw [if_neg hnew]
      by_cases hold : d ≤ b ∧ b < d + m
      · rw [if_pos hold, if_pos (by omega)]
      · rw [if_neg hold, if_neg (by omega)]

theorem FillOpen.fillChunk {s t : State} {w : Nat → Nat} {addr count j : Nat} (h : FillOpen t addr count) (hj : 4 * j < count)
    (hst : RowStored s t w (devAddr addr) (16 * j)) :
    RowStored s (t.fillChunk w addr count j) w (devAddr addr) (16 * j + 4 * min 4 (count - 4 * j)) := by
  obtain ⟨halign, hend, hheld, hwords⟩ := h
  obtain ⟨hown, hrepl, hdev⟩ := hwords (4 * j) hj
  have hd : devAddr addr % 16 = 0 := devAddr_aligned addr 16 (by decide) (by omega)
  have haddr : (addr + 16 * j) % 2 ^ 64 = addr + 16 * j := by omega
  have hrow := flatten_natBytes_words w (4 * j) (min 4 (count - 4 * j))
  rw [show 4 * (4 * j) = 16 * j by omega] at hown hrepl hdev hrow
  rw [State.fillChunk, haddr]
  generalize (List.map _ _).flatten = bs at hrow ⊢
  have hlen : bs.length = 4 * min 4 (count - 4 * j) := by simp [hrow]
  rw [ownWrite_gstore_within hown fillReq (by omega) (by omega) hrepl hheld, hdev]
  obtain ⟨⟨-, -, -, hclean⟩, -⟩ := hown
  exact hst.step (by omega) (by omega) (by omega) (hdev ▸ hclean) hrow

/-- A fill all of whose words may be stored now stores them. -/
theorem FillOpen.fillStores {s : State} {addr count : Nat} (h : FillOpen s addr count) (k : DrawKey) (index : Nat) :
    RowStored s (s.fillStores k index addr count) (fillWord k index) (devAddr addr) (4 * count) := by
  have hstored (j : Nat) (hj : j ≤ ceilDiv count 4) :
      RowStored s (foldN j s (State.fillChunk (fillWord k index) addr count)) (fillWord k index) (devAddr addr)
        (min (16 * j) (4 * count)) := by
    induction j with
    | zero => exact .refl s _ _
    | succ j ih =>
      have hlt : 4 * j < count := by
        simp only [ceilDiv] at hj
        omega
      have hst := ih (by omega)
      rw [show min (16 * j) (4 * count) = 16 * j by omega] at hst
      obtain ⟨halike, -⟩ := id hst
      have hnext := (h.alike halike).fillChunk hlt hst
      rw [show min (16 * (j + 1)) (4 * count) = 16 * j + 4 * min 4 (count - 4 * j) by omega]
      simpa only [foldN, List.range_succ, List.foldl_append, List.foldl_cons, List.foldl_nil] using hnext
  have hall := hstored _ le_rfl
  rwa [State.fillStores_eq, ← show min (16 * ceilDiv count 4) (4 * count) = 4 * count by simp only [ceilDiv]; omega]

/-- A word of a row that was stored reads as its low 32 bits. -/
theorem RowStored.num {s t : State} {w : Nat → Nat} {d m n : Nat} (h : RowStored s t w d m) (hn : 4 * n + 4 ≤ m) :
    t.num (d + 4 * n) 4 = w n % 2 ^ 32 := by
  obtain ⟨-, -, hbytes⟩ := h
  have hword : t.bytes (d + 4 * n) 4 = natBytes 4 (w n) := by
    rw [← map_wordsByte_word]
    refine List.map_congr_left fun k hk => ?_
    have hk4 : k < 4 := List.mem_range.1 hk
    rw [hbytes, if_pos (by omega), show d + 4 * n + k - d = 4 * n + k by omega]
  rw [State.num, hword, bytesNat_natBytes, show 256 ^ 4 = 2 ^ 32 by decide]

theorem RowStored.byte_outside {s t : State} {w : Nat → Nat} {d m b : Nat} (h : RowStored s t w d m) (hb : b < d ∨ d + m ≤ b) :
    t.byte b = s.byte b := by
  obtain ⟨-, -, hbytes⟩ := h
  rw [hbytes, if_neg (by omega)]

end Sys2Proof.Machine
end

section
/-! PROOFS. The bobbin block and the monitor sets (R165, R214, R225, R226). -/
namespace Sys2Proof.Proofs
open Sys2Proof Sys2Proof.Machine Sys2Proof.Claims

/-! ## The seed (R214) -/

theorem seedWrite_taken {v : BitVec 64} {s : State} (hreach : s.reaches Reg.bobSeed = true) (hstop : s.running = false)
    (hopen : s.regB Reg.bobCtrl 0 = false) :
    exec (.seedWrite v) s = .next ((s.setReg Reg.bobSeed v).holdWord Reg.bobSeed none) := by
  change Host.Outcome.next (s.bar _ fun s => (s.bobSeedWrite v).holdWord _ none) = _
  rw [s.bar_reached _ _ hreach, State.bobSeedWrite, hstop, hopen]
  rfl

theorem seedWrite_ignored {v : BitVec 64} {s : State} (hreach : s.reaches Reg.bobSeed = true)
    (h : s.running = true ∨ s.regB Reg.bobCtrl 0 = true) :
    exec (.seedWrite v) s = .next ((s.bobEv 2).holdWord Reg.bobSeed none) := by
  change Host.Outcome.next (s.bar _ fun s => (s.bobSeedWrite v).holdWord _ none) = _
  rw [s.bar_reached _ _ hreach, State.bobSeedWrite, if_pos (Bool.or_eq_true_iff.2 h)]

theorem exec_bobCtrlLock {v : BitVec 32} {s : State} (hreach : s.reaches Reg.bobCtrl = true) :
    exec (.bobCtrlLock v) s = .next (if v.getLsbD 0 = true then
      (s.setRegB Reg.bobCtrl 0 true).setRegB Reg.bobStatus 0 true else s) := by
  change Host.Outcome.next (s.bar _ _) = _
  rw [s.bar_reached _ _ hreach, State.bobCtrlWrite, bit_zeroExtend]

/-! ## The fill engine (R225) -/

/-- The state in which a fill's stores begin: GO and FILL_BUSY are 1. -/
def fillBegun (s : State) : State := (s.setRegB Reg.bobFillCtrl 0 true).setRegB Reg.bobStatus 1 true

theorem fillBegun_alike (s : State) : StoresAlike s (fillBegun s) :=
  (StoresAlike.setReg s _ (by decide) (by decide)).trans (StoresAlike.setReg _ _ (by decide) (by decide))

theorem exec_fillGo_started {v : BitVec 32} {s : State} (hreach : s.reaches Reg.bobFillCtrl = true) (hgo : v.getLsbD 0 = true)
    (hidle : s.regB Reg.bobStatus 1 = false) (halign : (s.reg Reg.bobFillAddr).toNat % 64 = 0)
    (hcount : (s.reg Reg.bobFillCount).toNat ≠ 0) :
    exec (.fillGo v) s = .next ((fillBegun s).fillStores s.fillKey (s.reg Reg.bobFillIndex).toNat
      (s.reg Reg.bobFillAddr).toNat (s.reg Reg.bobFillCount).toNat) := by
  change Host.Outcome.next (s.bar _ _) = _
  rw [s.bar_reached _ _ hreach, State.fillCtrlWrite, bit_zeroExtend, hgo, hidle]
  simp [halign, hcount, fillBegun]

theorem exec_fillGo_refused {v : BitVec 32} {s : State} (hreach : s.reaches Reg.bobFillCtrl = true) (hgo : v.getLsbD 0 = true)
    (h : s.regB Reg.bobStatus 1 = true ∨ (s.reg Reg.bobFillAddr).toNat % 64 ≠ 0 ∨ (s.reg Reg.bobFillCount).toNat = 0) :
    exec (.fillGo v) s = .next (s.bobEv 1) := by
  change Host.Outcome.next (s.bar _ _) = _
  rw [s.bar_reached _ _ hreach, State.fillCtrlWrite, bit_zeroExtend, hgo, if_neg Bool.noConfusion]
  dsimp only
  split
  · rfl
  case isFalse hidle => rw [if_pos (h.resolve_left hidle)]

/-- Word `n` of a fill is the draw of R225. -/
theorem fillWord_fillKey (s : State) (n : Nat) : fillWord s.fillKey (s.reg Reg.bobFillIndex).toNat n = fillDraw s n := rfl

theorem fillGo_stores {v : BitVec 32} {s : State} (hreach : s.reaches Reg.bobFillCtrl = true) (hgo : v.getLsbD 0 = true)
    (hidle : s.regB Reg.bobStatus 1 = false) (hcount : (s.reg Reg.bobFillCount).toNat ≠ 0)
    (hopen : FillOpen s (s.reg Reg.bobFillAddr).toNat (s.reg Reg.bobFillCount).toNat) :
    ∃ t, exec (.fillGo v) s = .next t ∧ t.regB Reg.bobStatus 1 = true ∧ t.regB Reg.bobFillCtrl 0 = true ∧
      (∀ n, n < (s.reg Reg.bobFillCount).toNat →
        t.num (devAddr (s.reg Reg.bobFillAddr).toNat + 4 * n) 4 = fillDraw s n % 2 ^ 32) ∧
      ∀ b, (b < devAddr (s.reg Reg.bobFillAddr).toNat ∨
        devAddr (s.reg Reg.bobFillAddr).toNat + 4 * (s.reg Reg.bobFillCount).toNat ≤ b) → t.byte b = s.byte b := by
  obtain ⟨halign, -⟩ := id hopen
  obtain ⟨hctrl, hbusy, -⟩ := s.setRegB_two (o := Reg.bobFillCtrl) (o' := Reg.bobStatus) (i := 0) (j := 1) true true
    (by decide) (by decide) (by decide)
  have hrow := (hopen.alike (fillBegun_alike s)).fillStores s.fillKey (s.reg Reg.bobFillIndex).toNat
  obtain ⟨-, honly, -⟩ := id hrow
  refine ⟨_, exec_fillGo_started hreach hgo hidle halign hcount, ?_, ?_, fun n hn => ?_, fun b hb => hrow.byte_outside hb⟩
  · exact (State.regB_congr (honly _ (by decide)) 1).trans hbusy
  · exact (State.regB_congr (honly _ (by decide)) 0).trans hctrl
  · rw [hrow.num (by omega), fillWord_fillKey]

theorem exec_fillDone {s : State} (hbusy : s.regB Reg.bobStatus 1 = true) (hdone : s.awaits fillReq = false) :
    exec .fillDone s = .next (((s.setRegB Reg.bobStatus 1 false).setRegB Reg.bobFillCtrl 0 false).bobEv 0) := by
  change execFillDone s = _
  rw [execFillDone, hbusy, hdone]
  rfl

/-! ## The generator port (R226) -/

theorem exec_genGo {v : BitVec 32} {s : State} (hreach : s.reaches Reg.bobGenCtrl = true) (hgo : v.getLsbD 0 = true)
    (hidle : s.regB Reg.bobStatus 2 = false) :
    exec (.genGo v) s = .next { (s.setRegB Reg.bobGenCtrl 0 true).setRegB Reg.bobStatus 2 true with
      genWords := bobbin (genKey s) (s.reg Reg.bobGenIndex).toNat } := by
  change Host.Outcome.next (s.bar _ _) = _
  rw [s.bar_reached _ _ hreach, State.genCtrlWrite, bit_zeroExtend, hgo, hidle, if_neg (by decide)]
  rfl

theorem exec_genDone {s : State} (hbusy : s.regB Reg.bobStatus 2 = true) :
    exec .genDone s = .next { ((foldN 4 s State.putGenWord).setRegB Reg.bobStatus 2 false).setRegB Reg.bobGenCtrl 0 false with
      genWords := [] } := by
  change execGenDone s = _
  rw [execGenDone, hbusy]
  rfl

/-! ## The block -/

theorem bobbinBlock : Parts.BobbinBlock := by
  refine ⟨fun v s hreach => ⟨fun hstop hopen => ?_, fun h => ?_⟩, fun v s hreach => ⟨fun hlock => ?_, fun hlock => ?_⟩,
    fun v s hreach hgo => ⟨fun hidle halign hcount hheld hend hwords => ?_, fun h => ?_⟩, fun s hbusy hreqs hqueue hheld => ?_,
    fun v s hreach hgo hidle => ?_, fun s hbusy => ?_⟩
  · exact ⟨_, seedWrite_taken hreach hstop hopen, s.reg_setReg_same _ _, s.setReg_onlyRegs _ _, rfl⟩
  · exact ⟨_, seedWrite_ignored hreach h, s.bobEv_reg_other 2 (by decide) (by decide), s.bobEv_regB (by decide)⟩
  · obtain ⟨hctrl, hstatus, honly⟩ := s.setRegB_two (o := Reg.bobCtrl) (o' := Reg.bobStatus) (i := 0) (j := 0) true true
      (by decide) (by decide) (by decide)
    exact ⟨_, (exec_bobCtrlLock hreach).trans (congrArg _ (if_pos hlock)), hctrl, hstatus, honly, rfl⟩
  · rw [exec_bobCtrlLock hreach, hlock, if_neg Bool.false_ne_true]
  · exact fillGo_stores hreach hgo hidle hcount ⟨halign, hend, hheld, hwords⟩
  · exact ⟨_, exec_fillGo_refused hreach hgo h, s.bobEv_regB (by decide),
      State.regB_congr (s.bobEv_reg_other 1 (by decide) (by decide)) 1⟩
  · obtain ⟨hstatus, hctrl, -⟩ := s.setRegB_two (o := Reg.bobStatus) (o' := Reg.bobFillCtrl) (i := 1) (j := 0) false false
      (by decide) (by decide) (by decide)
    exact ⟨_, exec_fillDone hbusy (State.awaits_eq_false hreqs hqueue hheld),
      (State.regB_congr (State.bobEv_reg_other _ 0 (by decide) (by decide)) 1).trans hstatus,
      (State.regB_congr (State.bobEv_reg_other _ 0 (by decide) (by decide)) 0).trans hctrl, State.bobEv_regB _ (by decide)⟩
  · obtain ⟨hctrl, hstatus, honly⟩ := s.setRegB_two (o := Reg.bobGenCtrl) (o' := Reg.bobStatus) (i := 0) (j := 2) true true
      (by decide) (by decide) (by decide)
    exact ⟨_, exec_genGo hreach hgo hidle, hstatus, hctrl, rfl, honly⟩
  · obtain ⟨-, hout⟩ := s.putGenWords_reg 4
    obtain ⟨hstatus, hctrl, honly⟩ := (foldN 4 s State.putGenWord).setRegB_two (o := Reg.bobStatus) (o' := Reg.bobGenCtrl)
      (i := 2) (j := 0) false false (by decide) (by decide) (by decide)
    refine ⟨_, exec_genDone hbusy, hstatus, hctrl, fun w hw => ?_⟩
    have hother : Reg.bobGenOut w ∉ [Reg.bobStatus, Reg.bobGenCtrl] := by
      simp only [Reg.bobGenOut, Reg.bobStatus, Reg.bobGenCtrl, List.mem_cons, List.not_mem_nil, or_false]
      omega
    exact (congrArg BitVec.toNat (honly _ hother)).trans (hout w hw)

/-- Settles O24: each command of the block is an equation of the state it leaves; a fill's stores are performed in turn, and
none of them changes where the next may be made. -/
theorem bobbinAndMonitors : Obligations.BobbinAndMonitors := ⟨bobbinBlock, monitorSets⟩

end Sys2Proof.Proofs
end

section
/-! PROOFS. Writes to MEM_CTRL, and the ends of training and of the fill (R247, R251): what each leaves of the registers and
of memory. -/
namespace Sys2Proof.Machine
open Sys2Proof.Claims

/-! ## Writes to MEM_CTRL -/

/-- The four commands of MEM_CTRL are the one write of the register. -/
theorem exec_memCtrl (v : BitVec 32) {c : Instr} {s t : State}
    (hc : c ∈ [.memTrain v, .memInit v, .memOpen v, .memFlush v]) (hreach : s.reaches Reg.memCtrl = true)
    (ht : s.memCtrlWrite (v.zeroExtend 64) = t) : exec c s = .next t := by
  subst ht
  simp only [List.mem_cons, List.not_mem_nil, or_false] at hc
  rcases hc with rfl | rfl | rfl | rfl <;> exact congrArg Host.Outcome.next (s.bar_reached _ _ hreach)

/-- The write of one bit is the action of that bit alone. -/
theorem State.memCtrlWrite_train (s : State) : s.memCtrlWrite 1 = s.setRegB Reg.memCtrl 0 true := rfl
theorem State.memCtrlWrite_init (s : State) : s.memCtrlWrite 2 = s.memInit 2 := rfl
theorem State.memCtrlWrite_open (s : State) : s.memCtrlWrite 4 = s.memOpen 4 := rfl
theorem State.memCtrlWrite_flush (s : State) : s.memCtrlWrite 8 = (s.setRegB Reg.memCtrl 3 true).cleanChecks := rfl

theorem State.memInit_started {s : State} (htrained : s.regB Reg.memStatus 0 = true) (hfirst : s.regB Reg.memCtrl 1 = false) :
    s.memInit 2 = (s.setRegB Reg.memCtrl 1 true).setRegB Reg.memStatus 2 true := if_pos ⟨rfl, htrained, hfirst⟩

theorem State.memInit_untrained {s : State} (h : s.regB Reg.memStatus 0 = false) : s.memInit 2 = s :=
  if_neg fun ⟨_, htrained, _⟩ => Bool.false_ne_true (h.symm.trans htrained)

theorem State.memOpen_opened {s : State} (hinit : s.regB Reg.memCtrl 1 = true) (hdone : s.regB Reg.memStatus 2 = false)
    (hfirst : s.regB Reg.memCtrl 2 = false) :
    s.memOpen 4 = ((s.setRegB Reg.memCtrl 2 true).setRegB Reg.memStatus 3 true).readRecords :=
  if_pos ⟨rfl, hinit, hdone, hfirst⟩

theorem State.memOpen_unfilled {s : State} (h : s.regB Reg.memCtrl 1 = false ∨ s.regB Reg.memStatus 2 = true) :
    s.memOpen 4 = s :=
  if_neg fun ⟨_, hinit, hdone, _⟩ => h.elim (fun h => Bool.false_ne_true (h.symm.trans hinit))
    fun h => Bool.false_ne_true (hdone.symm.trans h)

/-- Showing the record of a slot leaves memory, and every register below those of the slots. -/
theorem State.showSlot_leaves (s : State) (k : Nat) (r : List Byte) :
    (s.showSlot k r).mem = s.mem ∧ ∀ o, o < Reg.ckpSlotState 0 → (s.showSlot k r).reg o = s.reg o := by
  refine ⟨rfl, fun o ho => ?_⟩
  obtain ⟨hstate, hstitch, hgen⟩ : o ≠ Reg.ckpSlotState k ∧ o ≠ Reg.ckpSlotStitch k ∧ o ≠ Reg.ckpSlotGen k := by
    simp only [Reg.ckpSlotState, Reg.ckpSlotStitch, Reg.ckpSlotGen] at *
    omega
  rw [State.showSlot, State.reg_setReg_other _ _ hgen, State.reg_setReg_other _ _ hstitch, State.reg_setReg_other _ _ hstate]

/-- So does reading the records of both slots (R346). -/
theorem State.readRecords_leaves (s : State) :
    s.readRecords.mem = s.mem ∧ ∀ o, o < Reg.ckpSlotState 0 → s.readRecords.reg o = s.reg o := by
  unfold State.readRecords
  split
  · exact ⟨rfl, fun _ _ => rfl⟩
  · refine List.foldlRecOn (motive := fun t : State => t.mem = s.mem ∧ ∀ o, o < Reg.ckpSlotState 0 → t.reg o = s.reg o) _ _
      ⟨rfl, fun _ _ => rfl⟩ ?_
    rintro t ⟨hmem, hreg⟩ k -
    obtain ⟨hmem', hreg'⟩ := t.showSlot_leaves k (t.getRecord k)
    exact ⟨hmem'.trans hmem, fun o ho => (hreg' o ho).trans (hreg o ho)⟩

/-- After the flush no check sector is dirty. -/
theorem State.cleanChecks_clean (s : State) : ∀ p ∈ s.cleanChecks.chkCache, ∀ e ∈ p.2, e.2 = false := by
  intro p hp e he
  obtain ⟨q, -, rfl⟩ := List.mem_map.1 hp
  obtain ⟨x, -, rfl⟩ := List.mem_map.1 he
  rfl

/-! ## The end of training -/

/-- One more step of the fold. -/
theorem foldN_succ {α : Type} (n : Nat) (a : α) (f : α → Nat → α) : foldN (n + 1) a f = f (foldN n a f) n := by
  simp only [foldN, List.range_succ, List.foldl_append, List.foldl_cons, List.foldl_nil]

/-- The channels of the first `k` packages passed training. -/
def State.channelsPassed (s : State) (k : Nat) : State := foldN k s fun s n => s.setRegF (Reg.memCStatus n) 0 4 15

theorem State.channelsPassed_leaves (s : State) (k : Nat) :
    (s.channelsPassed k).mem = s.mem ∧ ∀ o, o < Reg.memCStatus 0 → (s.channelsPassed k).reg o = s.reg o := by
  refine List.foldlRecOn (motive := fun t : State => t.mem = s.mem ∧ ∀ o, o < Reg.memCStatus 0 → t.reg o = s.reg o) _ _
    ⟨rfl, fun _ _ => rfl⟩ ?_
  rintro t ⟨hmem, hreg⟩ n -
  refine ⟨hmem, fun o ho => (State.reg_setReg_other _ _ ?_).trans (hreg o ho)⟩
  simp only [Reg.memCStatus] at *
  omega

theorem State.channelsPassed_status (s : State) {k n : Nat} (hn : n < k) :
    (s.channelsPassed k).regF (Reg.memCStatus n) 0 4 = 15 := by
  induction k with
  | zero => exact absurd hn (Nat.not_lt_zero n)
  | succ k ih =>
    rw [State.channelsPassed, foldN_succ, ← State.channelsPassed]
    rcases Nat.lt_succ_iff_lt_or_eq.1 hn with hlt | rfl
    · have hne : Reg.memCStatus n ≠ Reg.memCStatus k := by simp only [Reg.memCStatus]; omega
      exact (State.regF_setRegF_other _ _ _ _ _ _ hne).trans (ih hlt)
    · exact State.regF_setRegF_same _ _ _ _ _ (by decide)

section
variable {s : State} (htrain : s.regB Reg.memCtrl 0 = true) (hopen : s.regB Reg.memStatus 0 = false)
  (hfail : s.regB Reg.memStatus 1 = false)
include htrain hopen hfail

/-- Training is running. -/
theorem State.not_trainingEnded :
    ¬ (s.regB Reg.memCtrl 0 = false ∨ s.regB Reg.memStatus 0 = true ∨ s.regB Reg.memStatus 1 = true) := by
  rw [htrain, hopen, hfail]
  decide

theorem State.memTrained_passed :
    s.memTrained none = (s.setRegB Reg.memStatus 0 true).channelsPassed (numPkgs s.grade) :=
  if_neg (State.not_trainingEnded htrain hopen hfail)

/-- A failure leaves TRAIN_FAIL and the package that failed in MEM_STATUS, whatever the packages' own registers show. -/
theorem State.memTrained_failed_status (f : Fin 64) : (s.memTrained (some f)).reg Reg.memStatus =
    ((s.setRegB Reg.memStatus 1 true).setRegF Reg.memStatus 4 6 f).reg Reg.memStatus := by
  rw [State.memTrained, if_neg (State.not_trainingEnded htrain hopen hfail)]
  refine List.foldlRecOn (motive := fun t : State => t.reg Reg.memStatus = _) _ _ rfl fun t ht n _ => ?_
  have hne : Reg.memStatus ≠ Reg.memCStatus n := by simp only [Reg.memStatus, Reg.memCStatus]; omega
  exact (State.reg_setReg_other _ _ hne).trans ht

end

/-- The stage that the firmware enters is all that may change besides (R387). -/
theorem exec_memTrainDone (fail : Option (Fin 64)) (s : State) : ∃ t, exec (.memTrainDone fail) s = .next t ∧
    t.mem = (s.memTrained fail).mem ∧ ∀ o, o ≠ Reg.secStatus → t.reg o = (s.memTrained fail).reg o := by
  change ∃ t, execMemTrainDone fail s = .next t ∧ _
  unfold execMemTrainDone
  dsimp only
  split
  · exact ⟨_, rfl, rfl, fun o ho => State.reg_setReg_other _ _ ho⟩
  · exact ⟨_, rfl, rfl, fun _ _ => rfl⟩

/-! ## The end of the fill -/

/-- A table whose entries are filtered by their keys reads its default where the filter fails. -/
theorem Tbl.get_filter_key {α : Type} (d : α) (t : Tbl α) (f : Nat → Bool) (k : Nat) :
    Tbl.get d (t.filter fun p => f p.1) k = if f k = true then Tbl.get d t k else d := by
  induction t with
  | nil => simp [Tbl.get]
  | cons p t ih =>
    obtain ⟨j, v⟩ := p
    by_cases hk : k = j
    · subst hk
      by_cases hf : f k = true <;> simp [Tbl.get, hf, ih]
    · by_cases hf : f j = true <;> simp [Tbl.get, hf, hk, ih]

section
variable {s : State} (hbusy : s.regB Reg.memStatus 2 = true)
include hbusy

theorem State.memFilled_eq : s.memFilled = { s with
    mem := s.mem.filter fun p => decide (usable s.grade ≤ p.1)
    poison := s.poison.filter fun p => decide (usable s.grade ≤ 32 * p.1) }.setRegB Reg.memStatus 2 false := by
  rw [State.memFilled, hbusy, if_neg Bool.noConfusion]

theorem State.memFilled_byte (x : Nat) : s.memFilled.byte x = if x < usable s.grade then 0 else s.byte x := by
  rw [State.memFilled_eq hbusy]
  refine (Tbl.get_filter_key 0 s.mem (fun a => decide (usable s.grade ≤ a)) x).trans ?_
  by_cases hx : x < usable s.grade
  · rw [if_pos hx, if_neg (by simpa using hx)]
  · rw [if_neg hx, if_pos (by simpa using hx)]
    rfl

theorem State.memFilled_poisoned (g : Nat) :
    s.memFilled.poisoned g = if 32 * g < usable s.grade then false else s.poisoned g := by
  rw [State.memFilled_eq hbusy]
  refine (Tbl.get_filter_key false s.poison (fun a => decide (usable s.grade ≤ 32 * a)) g).trans ?_
  by_cases hg : 32 * g < usable s.grade
  · rw [if_pos hg, if_neg (by simpa using hg)]
  · rw [if_neg hg, if_pos (by simpa using hg)]
    rfl

/-- While the firmware does not run, the end of the fill opens nothing. -/
theorem exec_memInitDone (hfw : s.fwRuns = false) : exec .memInitDone s = .next s.memFilled := by
  have hidle : s.memFilled.fwRuns = false := by rw [State.memFilled_eq hbusy]; exact hfw
  change execMemInitDone s = _
  rw [execMemInitDone]
  simp only [hidle, Bool.false_eq_true, false_and, and_false, if_false]

end

end Sys2Proof.Machine
end

section
/-! PROOFS. Memory bring-up and the flush (R247, R251). -/
namespace Sys2Proof.Proofs
open Sys2Proof Sys2Proof.Machine Sys2Proof.Claims

section
variable {v : BitVec 32} {s : State} (hreach : s.reaches Reg.memCtrl = true)
include hreach

theorem memTrain_begins (hv : v = 1) : ∃ t, exec (.memTrain v) s = .next t ∧ t.regB Reg.memCtrl 0 = true ∧
    OnlyRegs s t [Reg.memCtrl] ∧ t = { s with regs := t.regs } := by
  subst hv
  exact ⟨_, exec_memCtrl 1 (by simp) hreach s.memCtrlWrite_train, s.regB_setRegB_same _ _ _ (by decide),
    s.setReg_onlyRegs _ _, rfl⟩

theorem memInit_begins (hv : v = 2) (hfirst : s.regB Reg.memCtrl 1 = false) (htrained : s.regB Reg.memStatus 0 = true) :
    ∃ t, exec (.memInit v) s = .next t ∧ t.regB Reg.memCtrl 1 = true ∧ t.regB Reg.memStatus 2 = true ∧
      OnlyRegs s t [Reg.memCtrl, Reg.memStatus] ∧ t = { s with regs := t.regs } := by
  subst hv
  obtain ⟨hctrl, hstatus, honly⟩ := s.setRegB_two (o := Reg.memCtrl) (o' := Reg.memStatus) (i := 1) (j := 2) true true
    (by decide) (by decide) (by decide)
  exact ⟨_, exec_memCtrl 2 (by simp) hreach (s.memCtrlWrite_init.trans (State.memInit_started htrained hfirst)), hctrl,
    hstatus, honly, rfl⟩

theorem memInit_ignored (hv : v = 2) (h : s.regB Reg.memStatus 0 = false) : exec (.memInit v) s = .next s := by
  subst hv
  exact exec_memCtrl 2 (by simp) hreach (s.memCtrlWrite_init.trans (State.memInit_untrained h))

theorem memOpen_opens (hv : v = 4) (hfirst : s.regB Reg.memCtrl 2 = false) (hinit : s.regB Reg.memCtrl 1 = true)
    (hdone : s.regB Reg.memStatus 2 = false) : ∃ t, exec (.memOpen v) s = .next t ∧ t.regB Reg.memCtrl 2 = true ∧
      t.regB Reg.memStatus 3 = true ∧ ∀ x, t.byte x = s.byte x := by
  subst hv
  obtain ⟨hctrl, hstatus, -⟩ := s.setRegB_two (o := Reg.memCtrl) (o' := Reg.memStatus) (i := 2) (j := 3) true true
    (by decide) (by decide) (by decide)
  obtain ⟨hmem, hreg⟩ := ((s.setRegB Reg.memCtrl 2 true).setRegB Reg.memStatus 3 true).readRecords_leaves
  exact ⟨_, exec_memCtrl 4 (by simp) hreach (s.memCtrlWrite_open.trans (State.memOpen_opened hinit hdone hfirst)),
    (State.regB_congr (hreg _ (by decide)) 2).trans hctrl, (State.regB_congr (hreg _ (by decide)) 3).trans hstatus,
    fun x => congrArg (Tbl.get 0 · x) hmem⟩

theorem memOpen_ignored (hv : v = 4) (h : s.regB Reg.memCtrl 1 = false ∨ s.regB Reg.memStatus 2 = true) :
    exec (.memOpen v) s = .next s := by
  subst hv
  exact exec_memCtrl 4 (by simp) hreach (s.memCtrlWrite_open.trans (State.memOpen_unfilled h))

theorem memFlush_cleans (hv : v = 8) : ∃ t, exec (.memFlush v) s = .next t ∧ t.regB Reg.memCtrl 3 = true ∧
    (∀ p ∈ t.chkCache, ∀ e ∈ p.2, e.2 = false) ∧ OnlyRegs s t [Reg.memCtrl] ∧
    t = { s with regs := t.regs, chkCache := t.chkCache } := by
  subst hv
  exact ⟨_, exec_memCtrl 8 (by simp) hreach s.memCtrlWrite_flush, s.regB_setRegB_same _ _ _ (by decide),
    State.cleanChecks_clean _, s.setReg_onlyRegs _ _, rfl⟩

end

section
variable {s : State} (htrain : s.regB Reg.memCtrl 0 = true) (hopen : s.regB Reg.memStatus 0 = false)
  (hfail : s.regB Reg.memStatus 1 = false)
include htrain hopen hfail

theorem memTrainDone_passes : ∃ t, exec (.memTrainDone none) s = .next t ∧ t.regB Reg.memStatus 0 = true ∧
    (∀ n, n < numPkgs s.grade → t.regF (Reg.memCStatus n) 0 4 = 15) ∧ ∀ x, t.byte x = s.byte x := by
  obtain ⟨t, hexec, hmem, hreg⟩ := exec_memTrainDone none s
  rw [State.memTrained_passed htrain hopen hfail] at hmem hreg
  obtain ⟨hmem', hreg'⟩ := (s.setRegB Reg.memStatus 0 true).channelsPassed_leaves (numPkgs s.grade)
  refine ⟨t, hexec, ?_, fun n hn => ?_, fun x => congrArg (Tbl.get 0 · x) (hmem.trans hmem')⟩
  · exact (State.regB_congr ((hreg _ (by decide)).trans (hreg' _ (by decide))) 0).trans
      (s.regB_setRegB_same _ _ _ (by decide))
  · have hne : Reg.memCStatus n ≠ Reg.secStatus := by simp only [Reg.memCStatus, Reg.secStatus]; omega
    exact (State.regF_congr (hreg _ hne) 0 4).trans (State.channelsPassed_status _ hn)

theorem memTrainDone_fails (f : Fin 64) : ∃ t, exec (.memTrainDone (some f)) s = .next t ∧
    t.regB Reg.memStatus 1 = true ∧ t.regB Reg.memStatus 0 = false ∧ t.regF Reg.memStatus 4 6 = f.val := by
  obtain ⟨t, hexec, -, hreg⟩ := exec_memTrainDone (some f) s
  have hstatus := (hreg _ (by decide)).trans (State.memTrained_failed_status htrain hopen hfail f)
  have hbit {i : Nat} (hi : i + 1 ≤ 4) : t.regB Reg.memStatus i = (s.setRegB Reg.memStatus 1 true).regB Reg.memStatus i :=
    (State.regB_congr hstatus i).trans
      (congrArg (· == 1) (State.regF_setRegF_field _ _ _ _ _ _ _ (.inl hi)))
  refine ⟨t, hexec, (hbit (by decide)).trans (s.regB_setRegB_same _ _ _ (by decide)), ?_, ?_⟩
  · exact (hbit (by decide)).trans ((s.regB_setRegB_bit _ _ _ _ (by decide)).trans hopen)
  · rw [State.regF_congr hstatus, State.regF_setRegF_same _ _ _ _ _ (by decide)]
    exact Nat.mod_eq_of_lt f.isLt

end

/-- Settles O36: each write of MEM_CTRL is the action of its one bit; the packages' registers and the stage of the boot lie
apart from MEM_STATUS; and the fill keeps just the entries of memory and poison beyond the usable range. -/
theorem memoryBringUp : Obligations.MemoryBringUp := by
  refine ⟨fun v s hreach => ⟨memTrain_begins hreach, fun hv hfirst => ⟨memInit_begins hreach hv hfirst,
      memInit_ignored hreach hv⟩, fun hv hfirst => ⟨memOpen_opens hreach hv hfirst, memOpen_ignored hreach hv⟩,
      memFlush_cleans hreach⟩,
    fun s htrain hopen hfail => ⟨memTrainDone_passes htrain hopen hfail, memTrainDone_fails htrain hopen hfail⟩,
    fun s hbusy hfw => ⟨_, exec_memInitDone hbusy hfw, ?_, State.memFilled_byte hbusy, State.memFilled_poisoned hbusy, ?_⟩,
    fun s => ⟨_, rfl, s.regB_setRegB_same _ _ _ (by decide), s.setReg_onlyRegs _ _, rfl⟩⟩
  · rw [State.memFilled_eq hbusy]
    exact State.regB_setRegB_same _ _ _ _ (by decide)
  · rw [State.memFilled_eq hbusy]
    exact ⟨State.setReg_onlyRegs { s with mem := _, poison := _ } _ _, rfl⟩

end Sys2Proof.Proofs
end

section
/-! PROOFS. Events of the MEM block (R341), the retirement map, and the mapping of a page to its slot (R260). -/
namespace Sys2Proof.Machine
open Sys2Proof.Claims

/-! ## Frames of events -/

/-- What an event touches is touched too where more registers are listed. -/
theorem eventFrame_mono {s t : State} {offs offs' : List Nat} (hsub : offs ⊆ offs') (h : Claims.EventFrame s t offs) :
    Claims.EventFrame s t offs' := by
  obtain ⟨hreg, hmem⟩ := h
  exact ⟨fun o ho => hreg o fun ho' => ho (hsub ho'), hmem⟩

/-- What an event touches after registers were stored that do not say where its records go. -/
theorem eventFrame_of_onlyRegs {s t u : State} {os offs : List Nat} (honly : OnlyRegs s u os) (hlog : ∀ o ∈ os, o ∉ logOffs)
    (hmem : u.mem = s.mem) (hpoison : u.poison = s.poison) (h : Claims.EventFrame u t offs) :
    Claims.EventFrame s t (os ++ offs) := by
  have hslots : logRecords u = logRecords s := logRecords_congr fun o ho => honly o fun ho' => hlog o ho' ho
  obtain ⟨hreg, hbyte, hpois⟩ := h
  refine ⟨fun o ho hl hp => ?_, fun a ha => ?_, fun g hg => ?_⟩
  · rw [List.mem_append, not_or] at ho
    obtain ⟨hos, hoffs⟩ := ho
    exact (hreg o hoffs hl hp).trans (honly o hos)
  · exact (hbyte a (hslots ▸ ha)).trans (congrArg (Tbl.get 0 · a) hmem)
  · exact (hpois g (hslots ▸ hg)).trans (congrArg (Tbl.get false · g) hpoison)

/-- Registers of the controllers are none of the event log's. -/
theorem not_mem_logOffs {o : Nat} (h : Reg.memCStatus 0 ≤ o) : o ∉ logOffs := by
  have hbelow : ∀ o' ∈ logOffs, o' < Reg.memCStatus 0 := by decide
  exact fun ho => Nat.not_lt.mpr h (hbelow o ho)

/-! ## Events of the MEM block -/

theorem State.memEv_reg_other (s : State) (b n : Nat) (addr : Option Nat) {o : Nat} (h : Reg.memCStatus 0 ≤ o) :
    (s.memEv b n addr).reg o = s.reg o := by
  refine s.event_reg_of_ge _ _ _ _ _ ?_ ?_ <;> simp only [Reg.memCStatus, Reg.msixPba, Reg.memEvent] at * <;> omega

theorem State.memEv_regB (s : State) {b : Nat} (n : Nat) (addr : Option Nat) (h : b < 64) :
    (s.memEv b n addr).regB Reg.memEvent b = true :=
  (State.regB_congr (s.event_reg_self _ _ _ _ (by decide)) b).trans (s.regB_setRegB_same _ _ _ h)

theorem State.memEv_touches (s : State) (b n : Nat) (addr : Option Nat) :
    Claims.EventFrame s (s.memEv b n addr) [Reg.memEvent] := s.event_touches _ _ _ _ (by decide)

/-! ## The retirement map -/

/-- All addresses of a page have one home controller (R249). -/
theorem homePkg_page {page : Nat} (g : Grade) (a : Nat) (h : a / 4096 = page) : homePkg g (4096 * page) = homePkg g a := by
  rw [homePkg, homePkg, Nat.mul_div_cancel_left _ (by decide), h]

/-- A page that is not retired, and for whose home controller a slot is free, is due. -/
theorem State.dueRetire_due {s : State} {page : Nat} (hdue : page ∉ s.retireDue) (hcopy : ∀ e ∈ s.retiring, e.1 ≠ page)
    (hmapped : s.slotOf (homePkg s.grade (4096 * page)) page = none)
    (hfree : (s.freeSlot (homePkg s.grade (4096 * page))).isSome = true) :
    s.dueRetire page = { s with retireDue := s.retireDue ++ [page] } := by
  have hnone : (s.freeSlot (homePkg s.grade (4096 * page))).isNone = false := by
    rw [← Option.not_isSome, hfree]; rfl
  have hout : ¬ (((s.slotOf (homePkg s.grade (4096 * page)) page).isSome || s.retireDue.contains page ||
      s.retiring.any fun e => e.1 == page) = true) := by
    simpa [hmapped, hdue] using fun slot h => hcopy (page, slot) h rfl
  rw [State.dueRetire]
  simp only [if_neg hout, hnone, Bool.false_eq_true, if_false]

section
variable {s : State} {a : Nat} (husable : a < usable s.grade)
include husable

/-- After INIT a page that is added is to be retired at once. -/
theorem State.retireAdd_running (hinit : s.regB Reg.memCtrl 1 = true) : s.retireAdd a = s.dueRetire (a / 4096) := by
  rw [State.retireAdd, if_neg (Nat.not_le.mpr husable), if_pos hinit]

/-- Before INIT it is mapped to the lowest free slot. -/
theorem State.retireAdd_mapped {k : Nat} (hinit : s.regB Reg.memCtrl 1 = false)
    (hmapped : s.slotOf (homePkg s.grade a) (a / 4096) = none) (hfree : s.freeSlot (homePkg s.grade a) = some k) :
    s.retireAdd a = (s.takeSlot (homePkg s.grade a)).mapPage (a / 4096) k false := by
  rw [State.retireAdd, if_neg (Nat.not_le.mpr husable), hinit, if_neg Bool.false_ne_true, hmapped, hfree]
  rfl

end

section
variable (s : State) (page slot : Nat) (p : Bool)

/-- The page's slot holds the page, it is counted, and RETIRED is set. -/
theorem State.mapPage_mapped : let n := homePkg s.grade (4096 * page)
    (s.mapPage page slot p).reg (Reg.memCSpare n slot) = BitVec.ofNat 64 (1 + 2 * bnat p + 4096 * page) ∧
      (s.mapPage page slot p).reg (Reg.memCRetired n) = s.reg (Reg.memCRetired n) + 1 ∧
      (s.mapPage page slot p).regB Reg.memEvent 2 = true := by
  intro n
  have hne : Reg.memCRetired n ≠ Reg.memCSpare n slot := by simp only [Reg.memCRetired, Reg.memCSpare]; omega
  refine ⟨?_, ?_, State.memEv_regB _ _ _ (by decide)⟩
  · refine (State.memEv_reg_other _ _ _ _ ?_).trans ?_
    · simp only [Reg.memCSpare, Reg.memCStatus]; omega
    · exact (State.reg_setReg_other _ _ hne.symm).trans (State.reg_setReg_same _ _ _)
  · refine (State.memEv_reg_other _ _ _ _ ?_).trans ?_
    · simp only [Reg.memCRetired, Reg.memCStatus]; omega
    · exact (State.reg_setReg_same _ _ _).trans (congrArg (· + 1) (State.reg_setReg_other _ _ hne))

theorem State.mapPage_reg_other {o : Nat} (h : Reg.memCStatus 0 ≤ o)
    (hspare : o ≠ Reg.memCSpare (homePkg s.grade (4096 * page)) slot)
    (hretired : o ≠ Reg.memCRetired (homePkg s.grade (4096 * page))) : (s.mapPage page slot p).reg o = s.reg o :=
  (State.memEv_reg_other _ _ _ _ h).trans ((State.reg_setReg_other _ _ hretired).trans (State.reg_setReg_other _ _ hspare))

theorem State.mapPage_touches : let n := homePkg s.grade (4096 * page)
    Claims.EventFrame s (s.mapPage page slot p) [Reg.memCSpare n slot, Reg.memCRetired n, Reg.memEvent] := by
  intro n
  refine eventFrame_of_setReg (not_mem_logOffs ?_) (eventFrame_of_setReg (not_mem_logOffs ?_) (State.memEv_touches _ _ _ _))
  · simp only [Reg.memCSpare, Reg.memCStatus]; omega
  · simp only [Reg.memCRetired, Reg.memCStatus]; omega

theorem State.mapPage_frame : Machine.EventFrame s (s.mapPage page slot p) :=
  .trans (.trans (State.setReg_frame _ _ _) (State.setReg_frame _ _ _)) (State.event_frame _ _ _ _ _ _)

end

/-! ## Decoding without errors (R254) -/

theorem cleanHops_getD {errs : List (List SymErr)} (h : CleanHops errs) (i : Nat) : errs.getD i [] = [] := by
  rw [List.getD_eq_getElem?_getD]
  cases he : errs[i]? with
  | none => rfl
  | some e => exact h e (List.mem_of_getElem? he)

/-- A granule read without errors is clean or poison as it was written, and counts towards no correction: of the state only the
count of poisoned reads can change. -/
theorem State.readGranule_clean (s : State) (a : Nat) (demand : Bool) :
    (s.readGranule a [] demand).corr = [] ∧ ((s.readGranule a [] demand).st = s ∨
      demand = true ∧ (s.readGranule a [] demand).st = s.count64 (Reg.memCCntPoisonRd (homePkg s.grade a)) 1) := by
  unfold State.readGranule State.memDecode decodeErr
  cases s.poisoned (a / 32) with
  | false => exact ⟨rfl, .inl rfl⟩
  | true => cases demand with
    | false => exact ⟨rfl, .inl rfl⟩
    | true => exact ⟨rfl, .inr ⟨rfl, rfl⟩⟩

@[simp] theorem State.countCorrections_nil (s : State) (n ch addr : Nat) : s.countCorrections n ch addr [] = s := rfl

/-! ## The copy of a page (R260) -/

/-- What the copy of a page without errors leaves: its poisoned granules are counted. -/
def PageRead (s : State) (page : Nat) (t : State) : Prop :=
  OnlyRegs s t [Reg.memCCntPoisonRd (homePkg s.grade (4096 * page))] ∧ t = { s with regs := t.regs }

/-- One more granule of the page. -/
theorem PageRead.readGranule {s t : State} {page i : Nat} (h : PageRead s page t) (hi : i < 128) :
    PageRead s page (t.readGranule (4096 * page + 32 * i) [] true).st := by
  obtain ⟨honly, hframe⟩ := id h
  obtain ⟨-, hst | ⟨-, hst⟩⟩ := t.readGranule_clean (4096 * page + 32 * i) true
  · rwa [hst]
  · have hgrade : t.grade = s.grade := by rw [hframe]
    rw [hst, hgrade, ← homePkg_page s.grade (4096 * page + 32 * i) (page := page) (by omega)]
    refine ⟨fun o ho => (State.reg_setReg_other _ _ (List.ne_of_not_mem_cons ho)).trans (honly o ho), ?_⟩
    rw [hframe]
    rfl

theorem State.copyPage_clean (s : State) (page : Nat) {errs : List (List SymErr)} (h : CleanHops errs) :
    PageRead s page (s.copyPage page errs) := by
  have hread : let r := (List.range 128).foldl (fun (r : State × List (Nat × Option Nat)) i =>
      let q := r.1.readGranule (4096 * page + 32 * i) (errs.getD i []) true
      (q.st, r.2 ++ q.corr.map fun c => (chanOf s.grade (4096 * page + 32 * i), c))) (s, [])
      r.2 = [] ∧ PageRead s page r.1 := by
    refine List.foldlRecOn (motive := fun r : State × List (Nat × Option Nat) => r.2 = [] ∧ PageRead s page r.1) _ _
      ⟨rfl, fun _ _ => rfl, rfl⟩ ?_
    rintro r ⟨hnone, hpage⟩ i hi
    obtain ⟨hcorr, -⟩ := r.1.readGranule_clean (4096 * page + 32 * i) true
    dsimp only
    rw [cleanHops_getD h, hnone, hcorr]
    exact ⟨rfl, hpage.readGranule (List.mem_range.1 hi)⟩
  obtain ⟨hnone, hpage⟩ := hread
  unfold State.copyPage
  dsimp only
  rw [hnone]
  exact hpage

theorem State.poisonIn_congr {s t : State} (h : t.poison = s.poison) (a n : Nat) : t.poisonIn a n = s.poisonIn a n :=
  congrArg (fun p : Tbl Bool => (granules a n).any fun g => Tbl.get false p g) h

/-- The state in which a page that was copied is mapped, `t` being what its reads left: it is held no more, and the status of
its package shows whether another page of the package is being copied. -/
def State.pageLetGo (s : State) (page : Nat) (t : State) : State :=
  let n := homePkg s.grade (4096 * page)
  let left := t.retiring.filter fun x => x.1 != page
  { t with retiring := left }.setRegB (Reg.memCStatus n) 6 (left.any fun x => homePkg s.grade (4096 * x.1) == n)

theorem PageRead.pageLetGo {s t : State} {page : Nat} (h : PageRead s page t) :
    let n := homePkg s.grade (4096 * page)
    let u := s.pageLetGo page t
    OnlyRegs s u [Reg.memCStatus n, Reg.memCCntPoisonRd n] ∧
      u = { s with regs := u.regs, retiring := s.retiring.filter fun x => x.1 != page } := by
  intro n u
  obtain ⟨honly, hframe⟩ := h
  refine ⟨fun o ho => ?_, ?_⟩
  · rw [List.mem_cons, not_or] at ho
    obtain ⟨hstatus, hcount⟩ := ho
    exact (State.reg_setReg_other _ _ hstatus).trans (honly o hcount)
  · simp only [u, State.pageLetGo]
    rw [hframe]
    rfl

/-- After a copy without errors, the page is mapped with the poison it had. -/
theorem State.pageCopied_clean (s : State) (page slot : Nat) {errs : List (List SymErr)} (h : CleanHops errs) :
    ∃ t, PageRead s page t ∧ s.pageCopied page slot errs =
      ((s.pageLetGo page t).mapPage page slot (s.poisonIn (4096 * page) 4096)).retryHeld := by
  refine ⟨_, s.copyPage_clean page h, ?_⟩
  obtain ⟨-, hframe⟩ := s.copyPage_clean page h
  unfold State.pageCopied State.pageLetGo
  generalize s.copyPage page errs = t at hframe ⊢
  have hpoison (l : List (Nat × Nat)) : ({ t with retiring := l } : State).poisonIn (4096 * page) 4096 =
      s.poisonIn (4096 * page) 4096 := State.poisonIn_congr (congrArg State.poison hframe) _ _
  simp only [hpoison]

/-- Nothing waits at a controller, so that nothing is taken again. -/
theorem State.retryHeld_none {s : State} (h : s.memHeld = []) : s.retryHeld = s := by
  rw [State.retryHeld, h, List.foldl_nil, ← h]

/-- Nothing waits in a flow or for a chunk buffer, so that nothing goes on. -/
theorem State.serveAll_none {s : State} (hflows : ∀ e ∈ s.rxFlows, e.2.waiting = []) (hchunks : s.chunkQ = []) :
    s.serveAll = s := by
  have hserve : s.rxFlows.foldl (fun s e => serveWaiting e.1 e.2.waiting.length s) s = s :=
    List.foldlRecOn (motive := fun t : State => t = s) _ _ rfl fun t ht e he => by rw [hflows e he]; exact ht
  rw [State.serveAll]
  simp only [hserve, hchunks]
  rfl

end Sys2Proof.Machine
end

section
/-! PROOFS. Retirement of pages (R247, R260). -/
namespace Sys2Proof.Proofs
open Sys2Proof Sys2Proof.Machine Sys2Proof.Claims

/-! ## MEM_RETIRE_ADD -/

theorem exec_memRetireAdd {addr : BitVec 64} {s : State} (hreach : s.reaches Reg.memRetireAdd = true) :
    exec (.memRetireAdd addr) s = .next ((s.retireAdd addr.toNat).holdWord Reg.memRetireAdd none) :=
  congrArg Host.Outcome.next (s.bar_reached _ _ hreach)

/-- A free slot that is taken for a page, and the page mapped to it at once. -/
theorem takeSlot_mapPage (s : State) {page k n : Nat} (hn : homePkg s.grade (4096 * page) = n) :
    let t := (s.takeSlot n).mapPage page k false
    t.reg (Reg.memCSpare n k) = BitVec.ofNat 64 (1 + 4096 * page) ∧
      t.reg (Reg.memCRetired n) = s.reg (Reg.memCRetired n) + 1 ∧
      t.reg (Reg.memCSpareFree n) = s.reg (Reg.memCSpareFree n) - 1 ∧ t.regB Reg.memEvent 2 = true ∧
      EventFrame s t [Reg.memCSpare n k, Reg.memCRetired n, Reg.memCSpareFree n, Reg.memEvent] := by
  subst hn
  intro t
  obtain ⟨hspare, hretired, hevent⟩ := (s.takeSlot (homePkg s.grade (4096 * page))).mapPage_mapped page k false
  refine ⟨hspare, hretired.trans (congrArg (· + 1) (State.reg_setReg_other _ _ ?_)), ?_, hevent, ?_⟩
  · simp only [Reg.memCRetired, Reg.memCSpareFree]; omega
  · refine (State.mapPage_reg_other _ _ _ _ ?_ ?_ ?_).trans (State.reg_setReg_same _ _ _) <;>
      simp only [Reg.memCSpareFree, Reg.memCStatus, Reg.memCSpare, Reg.memCRetired, State.takeSlot, State.setReg_grade] <;> omega
  · refine eventFrame_mono ?_ (eventFrame_of_setReg (not_mem_logOffs ?_) (State.mapPage_touches _ page k false))
    · intro o ho
      simp only [List.mem_cons, List.not_mem_nil, or_false] at ho ⊢
      obtain rfl | rfl | rfl | rfl := ho <;> simp
    · simp only [Reg.memCSpareFree, Reg.memCStatus]; omega

/-! ## The copy -/

theorem exec_pageRetire {page k : Nat} {s : State} (hdue : page ∈ s.retireDue)
    (hfree : s.freeSlot (homePkg s.grade (4096 * page)) = some k) : exec (.pageRetire page) s =
      .next (({ s with retireDue := s.retireDue.filter (· != page), retiring := s.retiring ++ [(page, k)] }.takeSlot
        (homePkg s.grade (4096 * page))).setRegB (Reg.memCStatus (homePkg s.grade (4096 * page))) 6 true) := by
  have hslot : ({ s with retireDue := s.retireDue.filter (· != page) } : State).freeSlot (homePkg s.grade (4096 * page)) =
      some k := hfree
  change execPageRetire page s = _
  rw [execPageRetire]
  simp only [List.contains_iff_mem.2 hdue, Bool.true_eq_false, if_false, hslot]

theorem pageRetire_copies {page k : Nat} {s : State} : let n := homePkg s.grade (4096 * page)
    page ∈ s.retireDue → s.freeSlot n = some k → ∃ t, exec (.pageRetire page) s = .next t ∧
      t.retiring = s.retiring ++ [(page, k)] ∧ page ∉ t.retireDue ∧ t.regB (Reg.memCStatus n) 6 = true ∧
      t.reg (Reg.memCSpareFree n) = s.reg (Reg.memCSpareFree n) - 1 ∧
      OnlyRegs s t [Reg.memCStatus n, Reg.memCSpareFree n] ∧
      t = { s with regs := t.regs, retiring := t.retiring, retireDue := t.retireDue } := by
  intro n hdue hfree
  have hne : Reg.memCSpareFree n ≠ Reg.memCStatus n := by simp only [Reg.memCSpareFree, Reg.memCStatus]; omega
  refine ⟨_, exec_pageRetire hdue hfree, rfl, fun h => ?_, State.regB_setRegB_same _ _ _ _ (by decide),
    (State.reg_setReg_other _ _ hne).trans (State.reg_setReg_same _ _ _), fun o ho => ?_, rfl⟩
  · exact absurd (List.mem_filter.1 h).2 (by simp)
  · simp only [List.mem_cons, List.not_mem_nil, or_false, not_or] at ho
    obtain ⟨hstatus, hslot⟩ := ho
    exact (State.reg_setReg_other _ _ hstatus).trans (State.reg_setReg_other _ _ hslot)

/-- The copy of a page that is held in one slot ends. -/
theorem exec_pageRetireDone {page k : Nat} {errs : List (List SymErr)} {s : State} (hcopy : (page, k) ∈ s.retiring)
    (hone : ∀ e ∈ s.retiring, e.1 = page → e.2 = k) :
    exec (.pageRetireDone ⟨page, errs⟩) s = .next (s.pageCopied page k errs).serveAll := by
  have hfind : s.retiring.find? (fun e => e.1 == page) = some (page, k) := by
    obtain ⟨e, he⟩ := Option.isSome_iff_exists.1
      (List.find?_isSome (p := fun e : Nat × Nat => e.1 == page).2 ⟨_, hcopy, beq_self_eq_true page⟩)
    have hpage : e.1 = page := by simpa using List.find?_some he
    rw [he, ← hone e (List.mem_of_find?_eq_some he) hpage, ← hpage]
  change execPageRetireDone _ s = _
  rw [execPageRetireDone, hfind]

section
variable {page k : Nat} {errs : List (List SymErr)} {s : State} (hheld : s.memHeld = [])
  (hflows : ∀ e ∈ s.rxFlows, e.2.waiting = []) (hchunks : s.chunkQ = []) (hclean : CleanHops errs)
include hheld hflows hchunks hclean

/-- Where nothing waits, the end of the copy maps the page and does no more. -/
theorem pageCopied_serveAll : ∃ u, (s.pageCopied page k errs).serveAll = u.mapPage page k (s.poisonIn (4096 * page) 4096) ∧
    OnlyRegs s u [Reg.memCStatus (homePkg s.grade (4096 * page)), Reg.memCCntPoisonRd (homePkg s.grade (4096 * page))] ∧
    u = { s with regs := u.regs, retiring := s.retiring.filter fun x => x.1 != page } := by
  obtain ⟨r, hread, hcopied⟩ := s.pageCopied_clean page k hclean
  obtain ⟨honly, hgo⟩ := hread.pageLetGo
  rw [hcopied]
  generalize s.pageLetGo page r = u at honly hgo ⊢
  refine ⟨u, ?_, honly, hgo⟩
  have hmap := u.mapPage_frame page k (s.poisonIn (4096 * page) 4096)
  generalize u.mapPage page k (s.poisonIn (4096 * page) 4096) = t at hmap ⊢
  have hheld' : t.memHeld = [] := by rw [hmap, hgo]; exact hheld
  have hflows' : ∀ e ∈ t.rxFlows, e.2.waiting = [] := by rw [hmap, hgo]; exact hflows
  have hchunks' : t.chunkQ = [] := by rw [hmap, hgo]; exact hchunks
  rw [State.retryHeld_none hheld', State.serveAll_none hflows' hchunks']

theorem pageRetireDone_maps (hcopy : (page, k) ∈ s.retiring) (hone : ∀ e ∈ s.retiring, e.1 = page → e.2 = k) :
    let n := homePkg s.grade (4096 * page)
    ∃ t, exec (.pageRetireDone ⟨page, errs⟩) s = .next t ∧ (∀ e ∈ t.retiring, e.1 ≠ page) ∧
      t.reg (Reg.memCSpare n k) =
        BitVec.ofNat 64 (1 + (if s.poisonIn (4096 * page) 4096 then 2 else 0) + 4096 * page) ∧
      t.reg (Reg.memCRetired n) = s.reg (Reg.memCRetired n) + 1 ∧ t.regB Reg.memEvent 2 = true ∧
      EventFrame s t
        [Reg.memCStatus n, Reg.memCSpare n k, Reg.memCRetired n, Reg.memCCntPoisonRd n, Reg.memEvent] := by
  intro n
  obtain ⟨u, hend, honly, hgo⟩ := pageCopied_serveAll (k := k) hheld hflows hchunks hclean
  have hgrade : u.grade = s.grade := by rw [hgo]
  obtain ⟨hspare, hretired, hevent⟩ := u.mapPage_mapped page k (s.poisonIn (4096 * page) 4096)
  have htouch := u.mapPage_touches page k (s.poisonIn (4096 * page) 4096)
  rw [hgrade] at hspare hretired htouch
  refine ⟨_, (exec_pageRetireDone hcopy hone).trans (congrArg _ hend), ?_,
    hspare.trans ?_, hretired.trans (congrArg (· + 1) (honly _ ?_)), hevent, ?_⟩
  · intro e he
    rw [State.mapPage_frame, hgo] at he
    simpa using (List.mem_filter.1 he).2
  · cases s.poisonIn (4096 * page) 4096 <;> rfl
  · simp only [Reg.memCRetired, Reg.memCStatus, Reg.memCCntPoisonRd, List.mem_cons, List.not_mem_nil, or_false]
    omega
  · have hlog : ∀ o ∈ [Reg.memCStatus n, Reg.memCCntPoisonRd n], o ∉ logOffs := by
      intro o ho
      refine not_mem_logOffs ?_
      simp only [List.mem_cons, List.not_mem_nil, or_false, Reg.memCStatus, Reg.memCCntPoisonRd] at *
      omega
    refine eventFrame_mono ?_ (eventFrame_of_onlyRegs honly hlog (by rw [hgo]) (by rw [hgo]) htouch)
    intro o ho
    simp only [List.mem_append, List.mem_cons, List.not_mem_nil, or_false] at ho ⊢
    tauto

end

end Sys2Proof.Proofs
end

section
/-! PROOFS. The scrub (R257) and the poll of MR4 (R258): what each leaves. -/
namespace Sys2Proof.Machine
open Sys2Proof.Claims

/-! ## Scrub -/

/-- The scrub of a group without errors leaves it as it is: a poisoned granule is not counted. -/
theorem State.scrubGroup_clean (s : State) (a : Nat) {errs : List (List SymErr)} (h : CleanHops errs) :
    s.scrubGroup a errs = s := by
  have hread : (List.range 8).foldl (fun (r : State × List (Option Nat)) i =>
      let q := r.1.readGranule (a + 32 * i) (errs.getD i []) false
      (q.st, r.2 ++ q.corr)) (s, []) = (s, []) := by
    refine List.foldlRecOn (motive := fun r : State × List (Option Nat) => r = (s, [])) _ _ rfl ?_
    rintro r rfl i -
    obtain ⟨hcorr, hst | ⟨hdemand, -⟩⟩ := s.readGranule_clean (a + 32 * i) false
    · simp only [cleanHops_getD h, hcorr, hst, List.append_nil]
    · cases hdemand
  simp only [State.scrubGroup, hread, State.countCorrections_nil]

/-- The channel's scrub goes on past the group at its position, and has used the slot that the refresh opened. -/
def State.scrubbed (s : State) (k : Nat) : State :=
  { s with scrubPos := Tbl.set 0 s.scrubPos k (Tbl.get 0 s.scrubPos k + 1), refreshed := Tbl.set none s.refreshed k none }

theorem State.scrubbed_leaves (s : State) (k : Nat) :
    Tbl.get 0 (s.scrubbed k).scrubPos k = Tbl.get 0 s.scrubPos k + 1 ∧
      (∀ j, j ≠ k → Tbl.get 0 (s.scrubbed k).scrubPos j = Tbl.get 0 s.scrubPos j) ∧
      Tbl.get none (s.scrubbed k).refreshed k = none := by
  simp only [State.scrubbed]
  exact ⟨Tbl.get_set_same _ _ _, fun _ hj => Tbl.get_set_other _ _ hj, Tbl.get_set_same _ _ _⟩

/-- A scrub read whose bank was refreshed, with nothing waiting at the controllers. -/
theorem exec_scrubRead {n : Fin 64} {ch : Fin 4} {errs : List (List SymErr)} {s : State} (hn : n.val < numPkgs s.grade)
    (hen : s.regB Reg.memCfg 2 = true) (hinit : s.regB Reg.memCtrl 1 = true) (hfill : s.regB Reg.memStatus 2 = false)
    (hheld : s.memHeld = []) (hfreed : Tbl.get none s.refreshed (n.val * 4 + ch.val) =
      some (bankOf (dramSector (8 * (Tbl.get 0 s.scrubPos (n.val * 4 + ch.val) % groupsPerChannel)))))
    (hclean : CleanHops errs) : ∃ t, exec (.scrubRead n ch errs) s = .next t ∧
      (t = s.scrubbed (n.val * 4 + ch.val) ∨
        t = (s.scrubbed (n.val * 4 + ch.val)).count64 (Reg.memCCntScrubPass n) 1) := by
  change ∃ t, execScrubRead n ch errs s = .next t ∧ _
  unfold execScrubRead
  dsimp only
  rw [hfreed]
  have hfree (x : Nat) : (s.memHeld.any fun h => h.addr / 256 == x / 256) = false := by rw [hheld, List.any_nil]
  cases s.groupAddr n ch (Tbl.get 0 s.scrubPos (n.val * 4 + ch.val) % groupsPerChannel) <;>
  · simp only [hen, hinit, hfill, Nat.not_le.mpr hn, bne_self_eq_false, Bool.or_false, Bool.false_eq_true, Bool.true_eq_false,
      or_false, if_false, hfree, State.scrubGroup_clean _ _ hclean]
    exact ⟨_, rfl, (ite_eq_or_eq _ _ _).symm⟩

/-! ## Temperature -/

/-- `t` is `s` after events of the MEM block: no register of a controller has changed. -/
def MemEvents (s t : State) : Prop :=
  EventRegs s t [Reg.memEvent] ∧ (∀ o, Reg.memCStatus 0 ≤ o → t.reg o = s.reg o) ∧ t.refRate = s.refRate

theorem MemEvents.refl (s : State) : MemEvents s s := ⟨fun _ _ _ _ => rfl, fun _ _ => rfl, rfl⟩

theorem MemEvents.memEv {s t : State} (h : MemEvents s t) (b n : Nat) (addr : Option Nat) : MemEvents s (t.memEv b n addr) := by
  obtain ⟨hregs, hctl, hrate⟩ := h
  obtain ⟨hev, -⟩ := t.memEv_touches b n addr
  have hframe : (t.memEv b n addr).refRate = t.refRate := by rw [State.memEv, t.event_frame 4 Reg.memEvent b n addr]
  exact ⟨fun o ho hlog hp => (hev o ho hlog hp).trans (hregs o ho hlog hp),
    fun o ho => (t.memEv_reg_other b n addr ho).trans (hctl o ho), hframe.trans hrate⟩

/-- The level that a sample gives: at THR_CRIT quarter rate; below THR_LO none; from THR_HI on half rate at least; and between
these the level stays. -/
theorem throttleNext_crit {old temp hi lo crit : Int} (h : crit ≤ temp) : throttleNext old temp hi lo crit = 2 := if_pos h

theorem throttleNext_low {old temp hi lo crit : Int} (hc : temp < crit) (hl : temp < lo) :
    throttleNext old temp hi lo crit = 0 := by
  rw [throttleNext, if_neg (Int.not_le.mpr hc), if_pos hl]

theorem throttleNext_high {old temp hi lo crit : Int} (hc : temp < crit) (hl : lo ≤ temp) (hh : hi ≤ temp) :
    throttleNext old temp hi lo crit = max old 1 := by
  rw [throttleNext, if_neg (Int.not_le.mpr hc), if_neg (Int.not_lt.mpr hl), if_pos hh]

theorem throttleNext_between {old temp hi lo crit : Int} (hc : temp < crit) (hl : lo ≤ temp) (hh : temp < hi) :
    throttleNext old temp hi lo crit = old := by
  rw [throttleNext, if_neg (Int.not_le.mpr hc), if_neg (Int.not_lt.mpr hl), if_neg (Int.not_le.mpr hh)]

/-- The level of package `n` after a sample. -/
def State.mr4Level (s : State) (n : Nat) (temp : Int) : Nat :=
  (throttleNext (s.regF (Reg.memCStatus n) 4 2) temp (s.regF Reg.memTherm 0 8) (s.regF Reg.memTherm 8 8)
    (s.regF Reg.memTherm 16 8)).toNat

/-- The time that throttling held requests back is counted. -/
def State.throttleCounted (s : State) (n held : Nat) : State :=
  if s.regF (Reg.memCStatus n) 4 2 = 0 then s else s.count64 (Reg.memCCntThrottleTc n) held

/-- What a sample leaves before its events. -/
def State.mr4Sampled (s : State) (n : Nat) (temp : BitVec 8) (rate : BitVec 3) (held level : Nat) : State :=
  ({ s.throttleCounted n held with refRate := Tbl.set 0 (s.throttleCounted n held).refRate n rate.toNat }.setRegF
    (Reg.memCTemp n) 0 8 temp.toNat).setRegF (Reg.memCStatus n) 4 2 level

section
variable (s : State) (n : Nat) (temp : BitVec 8) (rate : BitVec 3) (held level : Nat)

theorem State.throttleCounted_reg_other {o : Nat} (h : o ≠ Reg.memCCntThrottleTc n) :
    (s.throttleCounted n held).reg o = s.reg o := by
  unfold State.throttleCounted
  split
  · rfl
  · exact State.reg_setReg_other _ _ h

theorem State.mr4Sampled_reg_other {o : Nat} (htemp : o ≠ Reg.memCTemp n) (hstatus : o ≠ Reg.memCStatus n) :
    (s.mr4Sampled n temp rate held level).reg o = (s.throttleCounted n held).reg o :=
  (State.reg_setReg_other _ _ hstatus).trans (State.reg_setReg_other _ _ htemp)

theorem State.mr4Sampled_level : (s.mr4Sampled n temp rate held level).regF (Reg.memCStatus n) 4 2 = level % 2 ^ 2 :=
  State.regF_setRegF_same _ _ _ _ _ (by decide)

theorem State.mr4Sampled_temp : (s.mr4Sampled n temp rate held level).regF (Reg.memCTemp n) 0 8 = temp.toNat := by
  have hne : Reg.memCTemp n ≠ Reg.memCStatus n := by simp only [Reg.memCTemp, Reg.memCStatus]; omega
  refine (State.regF_setRegF_other _ _ _ _ _ _ hne).trans ((State.regF_setRegF_same _ _ _ _ _ (by decide)).trans ?_)
  exact Nat.mod_eq_of_lt temp.isLt

theorem State.mr4Sampled_counted (h : s.regF (Reg.memCStatus n) 4 2 ≠ 0) :
    Counted s (s.mr4Sampled n temp rate held level) (Reg.memCCntThrottleTc n) held := by
  rw [Counted, State.mr4Sampled_reg_other, State.throttleCounted, if_neg h]
  · exact s.toNat_reg_count64 _ _
  · simp only [Reg.memCCntThrottleTc, Reg.memCTemp]; omega
  · simp only [Reg.memCCntThrottleTc, Reg.memCStatus]; omega

theorem State.mr4Sampled_onlyRegs : OnlyRegs s (s.mr4Sampled n temp rate held level)
    [Reg.memCTemp n, Reg.memCStatus n, Reg.memCCntThrottleTc n] := by
  intro o ho
  simp only [List.mem_cons, List.not_mem_nil, or_false, not_or] at ho
  obtain ⟨htemp, hstatus, hcount⟩ := ho
  exact (s.mr4Sampled_reg_other n temp rate held level htemp hstatus).trans (s.throttleCounted_reg_other n held hcount)

end

/-- A poll stores its sample and raises the events of its level. -/
theorem exec_mr4Poll {n : Fin 64} {temp : BitVec 8} {rate : BitVec 3} {held : Nat} {s : State} (hn : n.val < numPkgs s.grade) :
    ∃ t, exec (.mr4Poll n temp rate held) s = .next t ∧
      MemEvents (s.mr4Sampled n temp rate held (s.mr4Level n temp.toInt)) t := by
  change ∃ t, execMr4Poll n temp rate held s = .next t ∧ _
  rw [execMr4Poll, if_neg (Nat.not_le.mpr hn)]
  refine ⟨_, rfl, ?_⟩
  have hnone := MemEvents.refl (s.mr4Sampled n temp rate held (s.mr4Level n temp.toInt))
  split <;> split
  · exact (hnone.memEv 6 n none).memEv 7 n none
  · exact hnone.memEv 7 n none
  · exact hnone.memEv 6 n none
  · exact hnone

end Sys2Proof.Machine
end

section
/-! PROOFS. The controllers' own work (R247, R256 to R258, R260). -/
namespace Sys2Proof.Proofs
open Sys2Proof Sys2Proof.Machine Sys2Proof.Claims

theorem refreshDue_frees {n : Fin 64} {ch rank : Nat} {bank : Fin 16} {lost : Nat} {s : State} (hn : n.val < numPkgs s.grade)
    (hch : ch < 4) (hrank : rank < 2) : ∃ t, exec (.refreshDue n ch rank bank lost) s = .next t ∧
      Counted s t (Reg.memCCntRefTc n) lost ∧ Tbl.get none t.refreshed (4 * n + ch) = some (16 * rank + bank) ∧
      OnlyRegs s t [Reg.memCCntRefTc n] ∧ t = { s with regs := t.regs, refreshed := t.refreshed } := by
  have hrun : ¬ (numPkgs s.grade ≤ n.val ∨ 4 ≤ ch ∨ 2 ≤ rank) := by omega
  refine ⟨_, if_neg hrun, s.toNat_reg_count64 _ _, ?_, s.setReg_onlyRegs _ _, rfl⟩
  rw [Nat.mul_comm 4 n.val]
  exact Tbl.get_set_same (d := none) s.refreshed _ (some (16 * rank + bank))

theorem scrubRead_advances {n : Fin 64} {ch : Fin 4} {errs : List (List SymErr)} {s : State} (hn : n.val < numPkgs s.grade)
    (hen : s.regB Reg.memCfg 2 = true) (hinit : s.regB Reg.memCtrl 1 = true) (hfill : s.regB Reg.memStatus 2 = false)
    (hheld : s.memHeld = []) (hfreed : Tbl.get none s.refreshed (4 * n + ch) =
      some (bankOf (dramSector (8 * (Tbl.get 0 s.scrubPos (4 * n + ch) % groupsPerChannel)))))
    (hclean : CleanHops errs) : ∃ t, exec (.scrubRead n ch errs) s = .next t ∧
      Tbl.get 0 t.scrubPos (4 * n + ch) = Tbl.get 0 s.scrubPos (4 * n + ch) + 1 ∧
      (∀ k, k ≠ 4 * n.val + ch.val → Tbl.get 0 t.scrubPos k = Tbl.get 0 s.scrubPos k) ∧
      Tbl.get none t.refreshed (4 * n + ch) = none ∧ OnlyRegs s t [Reg.memCCntScrubPass n] ∧
      t = { s with regs := t.regs, scrubPos := t.scrubPos, refreshed := t.refreshed } := by
  rw [Nat.mul_comm 4 n.val] at *
  obtain ⟨hpos, hother, hused⟩ := s.scrubbed_leaves (n.val * 4 + ch.val)
  obtain ⟨t, hexec, rfl | rfl⟩ := exec_scrubRead hn hen hinit hfill hheld hfreed hclean
  · exact ⟨_, hexec, hpos, hother, hused, fun _ _ => rfl, rfl⟩
  · exact ⟨_, hexec, hpos, hother, hused, State.setReg_onlyRegs _ _ _, rfl⟩

theorem mr4Poll_samples (n : Fin 64) (temp : BitVec 8) (rate : BitVec 3) (held : Nat) {s : State}
    (hn : n.val < numPkgs s.grade) :
    let old := s.regF (Reg.memCStatus n) 4 2
    let hi := (s.regF Reg.memTherm 0 8 : Int)
    let lo := (s.regF Reg.memTherm 8 8 : Int)
    let crit := (s.regF Reg.memTherm 16 8 : Int)
    ∃ t, exec (.mr4Poll n temp rate held) s = .next t ∧ t.regF (Reg.memCTemp n) 0 8 = temp.toNat ∧
      Tbl.get 0 t.refRate n = rate.toNat ∧
      (crit ≤ temp.toInt → t.regF (Reg.memCStatus n) 4 2 = 2) ∧
      (temp.toInt < crit → temp.toInt < lo → t.regF (Reg.memCStatus n) 4 2 = 0) ∧
      (temp.toInt < crit → lo ≤ temp.toInt → hi ≤ temp.toInt → t.regF (Reg.memCStatus n) 4 2 = max old 1) ∧
      (temp.toInt < crit → lo ≤ temp.toInt → temp.toInt < hi → t.regF (Reg.memCStatus n) 4 2 = old) ∧
      (old ≠ 0 → Counted s t (Reg.memCCntThrottleTc n) held) ∧
      EventRegs s t [Reg.memCTemp n, Reg.memCStatus n, Reg.memCCntThrottleTc n, Reg.memEvent] := by
  intro old hi lo crit
  obtain ⟨t, hexec, hregs, hctl, hrate⟩ := exec_mr4Poll (temp := temp) (rate := rate) (held := held) hn
  have hold : old < 2 ^ 2 := Nat.mod_lt _ (by decide)
  have hlevel : t.regF (Reg.memCStatus n) 4 2 = (throttleNext old temp.toInt hi lo crit).toNat % 2 ^ 2 :=
    (State.regF_congr (hctl _ (by simp only [Reg.memCStatus]; omega)) 4 2).trans (s.mr4Sampled_level n temp rate held _)
  refine ⟨t, hexec, ?_, ?_, fun hc => ?_, fun hc hl => ?_, fun hc hl hh => ?_, fun hc hl hh => ?_, fun h => ?_,
    fun o ho hlog hp => ?_⟩
  · exact (State.regF_congr (hctl _ (by simp only [Reg.memCTemp, Reg.memCStatus]; omega)) 0 8).trans
      (s.mr4Sampled_temp n temp rate held _)
  · rw [hrate]
    exact Tbl.get_set_same _ _ _
  · rw [hlevel, throttleNext_crit hc]; rfl
  · rw [hlevel, throttleNext_low hc hl]; rfl
  · rw [hlevel, throttleNext_high hc hl hh]; omega
  · rw [hlevel, throttleNext_between hc hl hh]; omega
  · exact (congrArg BitVec.toNat (hctl _ (by simp only [Reg.memCCntThrottleTc, Reg.memCStatus]; omega))).trans
      (s.mr4Sampled_counted n temp rate held _ h)
  · simp only [List.mem_cons, List.not_mem_nil, or_false, not_or] at ho
    obtain ⟨htemp, hstatus, hcount, hev⟩ := ho
    exact (hregs o (by simpa using hev) hlog hp).trans
      (s.mr4Sampled_onlyRegs n temp rate held _ o (by simp [htemp, hstatus, hcount]))

/-- Settles O38: a retirement by the state in which its page is mapped; a read without errors leaves a granule as it is, so that
the copy counts poisoned reads alone and the scrub changes its position alone; and a sample by the level it gives. -/
theorem memoryUpkeep : Obligations.MemoryUpkeep := by
  refine ⟨fun addr k s hreach husable hmapped hfree => ⟨fun hinit hdue hcopy hmapped' hfree' => ?_, fun hinit => ?_⟩,
    fun page k s => pageRetire_copies,
    fun page k errs s hcopy hone hheld hflows hchunks hclean =>
      pageRetireDone_maps hheld hflows hchunks hclean hcopy hone,
    fun n ch rank bank lost s => refreshDue_frees, fun n ch errs s => scrubRead_advances,
    fun n temp rate held s => mr4Poll_samples n temp rate held⟩
  · rw [exec_memRetireAdd hreach, State.retireAdd_running husable hinit, State.dueRetire_due hdue hcopy hmapped' hfree']
    exact ⟨_, rfl, rfl, rfl⟩
  · rw [exec_memRetireAdd hreach, State.retireAdd_mapped husable hinit hmapped hfree]
    exact ⟨_, rfl, takeSlot_mapPage s (homePkg_page _ _ rfl)⟩

end Sys2Proof.Proofs
end

section
/-! PROOFS. What writes of registers keep (R10, R341, R343): a property of registers that the writes of a few registers keep is kept
by every event, and by everything that writes those registers alone. -/
namespace Sys2Proof.Machine
open Sys2Proof.Claims

/-- `P` is about registers alone, and is kept by a write of a register of `W`, which has every register below the FAB block, and
by an event bit of that block. -/
structure RegKept (W : Nat → Prop) (P : State → Prop) : Prop where
  low : ∀ {o : Nat}, o < Reg.fabCfg → W o
  regs : ∀ {s t : State}, P s → t.regs = s.regs → P t
  setReg : ∀ {s : State} {o : Nat} (v : W64), W o → P s → P (s.setReg o v)
  fabEvent : ∀ {s : State} (b : Nat), P s → P (s.setRegB Reg.fabEvent b true)

/-! ## Properties that are kept -/

/-- What a register holds is kept by writes of other registers. -/
theorem RegKept.reg {o : Nat} (hlow : Reg.fabCfg ≤ o) (hev : o ≠ Reg.fabEvent) (Q : W64 → Prop) :
    RegKept (· ≠ o) fun t => Q (t.reg o) where
  low h := by omega
  regs hs h := by rwa [State.reg, h]
  setReg v h hs := by rwa [State.reg_setReg_other _ _ (Ne.symm h)]
  fabEvent b hs := by rwa [State.setRegB, State.setRegF, State.reg_setReg_other _ _ hev]

/-- A bit of FAB_EVENT stays set. -/
theorem RegKept.eventBit {b : Nat} (hb : b < 64) : RegKept (· ≠ Reg.fabEvent) fun t => t.regB Reg.fabEvent b = true where
  low h := by simp only [Reg.fabCfg, Reg.fabEvent] at *; omega
  regs hs h := by rwa [State.regB, State.regF, State.reg, h]
  setReg v h hs := by rwa [State.regB_setReg_other _ _ _ (Ne.symm h)]
  fabEvent c hs := by
    by_cases hbc : b = c
    · rw [hbc, State.regB_setRegB_same _ _ _ _ (hbc ▸ hb)]
    · rwa [State.regB_setRegB_bit _ _ _ _ _ hbc]

theorem RegKept.and {W V : Nat → Prop} {P Q : State → Prop} (hP : RegKept W P) (hQ : RegKept V Q) :
    RegKept (fun o => W o ∧ V o) fun t => P t ∧ Q t where
  low h := ⟨hP.low h, hQ.low h⟩
  regs hs h := ⟨hP.regs hs.1 h, hQ.regs hs.2 h⟩
  setReg v h hs := ⟨hP.setReg v h.1 hs.1, hQ.setReg v h.2 hs.2⟩
  fabEvent b hs := ⟨hP.fabEvent b hs.1, hQ.fabEvent b hs.2⟩

/-! ## What keeps them -/

section
variable {W : Nat → Prop} {P : State → Prop} (hP : RegKept W P) {s : State} (hs : P s)
include hP hs

theorem RegKept.count64 {o : Nat} (k : Nat) (h : W o) : P (s.count64 o k) := hP.setReg _ h hs

theorem RegKept.count32 {o : Nat} (k : Nat) (h : W o) : P (s.count32 o k) := hP.setReg _ h hs

theorem RegKept.raiseVector {v : Nat} (hv : v < 2048) : P (s.raiseVector v) := by
  unfold State.raiseVector
  split
  · exact hP.setReg _ (hP.low (by simp only [Reg.msixPba, Reg.fabCfg]; omega)) hs
  · exact hP.regs hs rfl

theorem RegKept.setEvent (blk bit : Nat) {ev : Nat} (hev : W ev ∨ ev = Reg.fabEvent) : P (s.setEvent blk ev bit) := by
  have hv (t : State) : t.regF (Reg.hubEvVec blk) 0 11 < 2048 := Nat.mod_lt _ (by decide)
  have hbit : P (s.setRegB ev bit true) := by
    rcases hev with hev | rfl
    · exact hP.setReg _ hev hs
    · exact hP.fabEvent _ hs
  have hibi : P (s.setRegB ev bit true).powerIbi := hP.regs hbit rfl
  unfold State.setEvent
  dsimp only
  split <;> split
  · exact hP.raiseVector hibi (hv _)
  · exact hibi
  · exact hP.raiseVector hbit (hv _)
  · exact hbit

theorem RegKept.putLogRecord (blk bit : Nat) (unit detail : Option Nat) : P (s.putLogRecord blk bit unit detail) := by
  have hrecord (a : Nat) (bs : List Byte) (c : Prop) [Decidable c] : P (if c then s.storeBytes a bs else s) := by
    split
    · exact hP.regs hs rfl
    · exact hs
  exact hP.setReg _ (hP.low (by decide)) (hrecord _ _ _)

theorem RegKept.logRecord (blk bit : Nat) (unit detail : Option Nat) : P (s.logRecord blk bit unit detail) :=
  State.logRecord_induction hs (fun _ _ _ _ _ h => hP.putLogRecord h _ _ _ _) (fun _ h => hP.count64 h _ (hP.low (by decide)))
    fun _ h => hP.setEvent h _ _ (.inl (hP.low (by decide)))

/-- An event keeps it, of the FAB block or of a block whose event register may be written. -/
theorem RegKept.event (blk bit : Nat) (unit detail : Option Nat) {ev : Nat} (hev : W ev ∨ ev = Reg.fabEvent) :
    P (s.event blk ev bit unit detail) := hP.logRecord (hP.setEvent hs blk bit hev) _ _ _ _

theorem RegKept.fabEv (b : Nat) (unit detail : Option Nat) : P (s.fabEv b unit detail) := hP.event hs _ _ _ _ (.inr rfl)

theorem RegKept.addressEvent (r : Req) (a : Nat) : P (s.addressEvent r a) :=
  hP.event (hP.setReg _ (hP.low (by decide)) (hP.setReg _ (hP.low (by decide)) hs)) _ _ _ _ (.inl (hP.low (by decide)))

end

/-- What each step of a repetition keeps is kept. -/
theorem foldl_kept {α : Type} {P : State → Prop} {f : State → α → State} (h : ∀ s a, P s → P (f s a)) (l : List α) {s : State}
    (hs : P s) : P (l.foldl f s) := List.foldlRecOn l f hs fun t ht a _ => h t a ht

end Sys2Proof.Machine
end

section
/-! PROOFS. Sending flits (R271 to R275): a flit that a flow may send is handed to the flow's port, and nothing but registers,
links, ports and messages changes. -/
namespace Sys2Proof.Machine
open Sys2Proof.Claims

/-! ## What sending leaves -/

/-- `t` is `s` but for its registers, its links, ports and messages, and the flits that wait for a drain. -/
def SendFrame (s t : State) : Prop :=
  t = { s with regs := t.regs, out := t.out, linkTx := t.linkTx, linkBuf := t.linkBuf, unfreed := t.unfreed, arb := t.arb,
               freed := t.freed, portQ := t.portQ, drainQ := t.drainQ }

theorem SendFrame.refl (s : State) : SendFrame s s := rfl

theorem SendFrame.trans {s t u : State} (h1 : SendFrame s t) (h2 : SendFrame t u) : SendFrame s u := by
  unfold SendFrame at *
  rw [h2, h1]

theorem SendFrame.foldl {α : Type} {f : State → α → State} (h : ∀ s a, SendFrame s (f s a)) (l : List α) (s : State) :
    SendFrame s (l.foldl f s) := foldl_keeps .refl .trans h l s

section
variable {s t : State} (h : SendFrame s t)
include h

theorem SendFrame.flow (dst vc : Nat) : t.flow dst vc = s.flow dst vc := by rw [h]; rfl
theorem SendFrame.rxFlow (k : Nat) : t.rxFlow k = s.rxFlow k := by rw [h]; rfl
theorem SendFrame.mem : t.mem = s.mem := by rw [h]
theorem SendFrame.poison : t.poison = s.poison := by rw [h]
theorem SendFrame.byte (x : Nat) : t.byte x = s.byte x := by rw [h]; rfl
theorem SendFrame.outstTo (d : Nat) : t.outstTo d = s.outstTo d := by rw [h]; rfl

end

theorem State.transmit_sendFrame (s : State) (p : Nat) (f : Flit) : SendFrame s (s.transmit p f) := rfl

theorem pumpPort_sendFrame (p n : Nat) (s : State) : SendFrame s (pumpPort p n s) := by
  induction n generalizing s with
  | zero => rfl
  | succ n ih =>
    unfold pumpPort
    split
    · refine .trans ?_ (ih _)
      exact .trans (t := { s with portQ := _ }) rfl (State.transmit_sendFrame _ _ _)
    · rfl

theorem State.toPort_sendFrame (s : State) (p : Nat) (f : Flit) : SendFrame s (s.toPort p f) := by
  unfold State.toPort
  split
  · exact s.transmit_sendFrame p f
  · exact .trans (t := { s with portQ := _ }) rfl (pumpPort_sendFrame _ _ _)

theorem State.emit_sendFrame (s : State) (f : Flit) : SendFrame s (s.emit f) := by
  unfold State.emit
  dsimp only
  split_ifs
  · rfl
  · rfl
  · rfl
  · split
    · exact s.toPort_sendFrame _ _
    · rfl

section
variable {W : Nat → Prop} {P : State → Prop} (hP : RegKept W P) (hports : ∀ p, W (Reg.fabPCnt p 0)) {s : State} (hs : P s)
include hP hports hs

theorem RegKept.transmit (p : Nat) (f : Flit) : P (s.transmit p f) :=
  hP.regs (hP.count64 hs 1 (hports p)) rfl

theorem RegKept.pumpPort (p n : Nat) : P (pumpPort p n s) := by
  induction n generalizing s with
  | zero => exact hs
  | succ n ih =>
    unfold Machine.pumpPort
    split
    · refine ih (hP.transmit hports ?_ _ _)
      exact hP.regs hs rfl
    · exact hs

theorem RegKept.toPort (p : Nat) (f : Flit) : P (s.toPort p f) := by
  unfold State.toPort
  split
  · exact hP.transmit hports hs _ _
  · refine hP.pumpPort hports ?_ _ _
    exact hP.regs hs rfl

theorem RegKept.emit (f : Flit) : P (s.emit f) := by
  unfold State.emit
  dsimp only
  split_ifs
  · exact hs
  · exact hP.regs hs rfl
  · exact hP.regs hs rfl
  · split
    · exact hP.toPort hports hs _ _
    · exact hs

end

/-- Sending leaves every register of the FAB block and beyond but a port's count of flits. -/
theorem State.emit_reg_other (s : State) (f : Flit) {o : Nat} (hlow : Reg.fabCfg ≤ o) (hev : o ≠ Reg.fabEvent)
    (hports : ∀ p, o ≠ Reg.fabPCnt p 0) : (s.emit f).reg o = s.reg o :=
  (RegKept.reg hlow hev (· = s.reg o)).emit (fun p => (hports p).symm) rfl f

/-! ## Handing a flit to a port -/

theorem State.nextWaiting_mem {s : State} {p : Nat} {f : Flit} (h : s.nextWaiting p = some f) :
    f ∈ Tbl.get [] s.portQ p := by
  unfold State.nextWaiting at h
  dsimp only at h
  split at h
  case h_1 => exact absurd h (by simp)
  case h_2 => exact List.mem_of_mem_filter (List.mem_of_mem_filter (List.mem_of_find?_eq_some h))

/-- A flit handed to a port joins its queue, of which at most one flit is sent (R273). -/
theorem State.toPort_handed (s : State) (p : Nat) (f : Flit) : Handed s (s.toPort p f) p f := by
  unfold State.toPort
  split
  case isTrue hsend =>
    obtain ⟨-, hempty⟩ := Bool.and_eq_true_iff.1 hsend
    have hnone : Tbl.get [] s.portQ p = [] := List.isEmpty_iff.1 hempty
    have hqueue : queueWith s p f = [f] := by rw [queueWith, hnone, List.nil_append]
    refine .inr ⟨f, _, _, _, _, by simp [hqueue], rfl, ?_⟩
    rw [hqueue, List.erase_cons_head]
    exact hnone
  case isFalse =>
    have hqueue : Tbl.get [] (Tbl.set [] s.portQ p (Tbl.get [] s.portQ p ++ [f])) p = queueWith s p f :=
      Tbl.get_set_same _ _ _
    unfold pumpPort
    split
    case h_1 g hg =>
      have hmem := State.nextWaiting_mem hg
      rw [hqueue] at hmem
      refine .inr ⟨g, _, _, _, _, hmem, rfl, ?_⟩
      refine (Tbl.get_set_same _ _ _).trans ?_
      rw [hqueue]
    case h_2 => exact .inl ⟨rfl, hqueue⟩

/-- What was handed over depends on the port's queue and the messages alone. -/
theorem handed_congr {s s1 t t1 : State} {p : Nat} {f : Flit} (h : Handed s t p f) (hout : s1.out = s.out)
    (hqueue : s1.portQ = s.portQ) (hout' : t1.out = t.out) (hqueue' : t1.portQ = t.portQ) : Handed s1 t1 p f := by
  unfold Handed queueWith at *
  rwa [hout, hqueue, hout', hqueue']

/-! ## The port of a flow -/

/-- The ring tables stand in their own registers. -/
theorem State.ringPort_setReg (s : State) {o : Nat} (v : W64) (dst : Nat)
    (h : o < Reg.fabRingTbl 0 0 ∨ Reg.fabRingTbl 2 0 ≤ o) : (s.setReg o v).ringPort dst = s.ringPort dst := by
  have hother (w : W64) : (decide (Reg.fabRingTbl 0 0 ≤ o) && decide (o < Reg.fabRingTbl 2 0) && bit w 16 &&
      fld w 0 16 == dst) = false := by
    rcases h with h | h
    · simp [Nat.not_le.2 h]
    · simp [Nat.not_lt.2 h]
  unfold State.ringPort
  rw [← List.head?_filter, ← List.head?_filter]
  exact congrArg (fun l => Option.map _ (List.head? l)) (Tbl.filter_set _ _ hother)

/-- A flow goes on as it did where its path, the node number and the ring tables are the same. -/
theorem routeTo_congr {s t : State} {dst vc p : Nat} (h : RouteTo s dst vc p) (hnode : t.node = s.node)
    (hring : t.ringPort dst = s.ringPort dst) (hdrain : (t.flow dst vc).drain = (s.flow dst vc).drain)
    (hpath : (t.flow dst vc).path = (s.flow dst vc).path) : RouteTo t dst vc p := by
  unfold RouteTo State.portFor State.staticPort at *
  rwa [hnode, hring, hdrain, hpath]

/-- What sending depends on besides the flit: the flows, the node number and the ring tables. -/
theorem routeTo_of_regs {s t : State} {dst vc p : Nat} (h : RouteTo s dst vc p) (hregs : t.regs = s.regs)
    (hflows : t.flows = s.flows) : RouteTo t dst vc p := by
  have hflow : t.flow dst vc = s.flow dst vc := by rw [State.flow, hflows]; rfl
  refine routeTo_congr h ?_ ?_ (congrArg _ hflow) (congrArg _ hflow)
  · rw [State.node, State.regF, State.reg, hregs]; rfl
  · rw [State.ringPort, hregs]; rfl

/-- A counter of the FAB block changes no route. -/
theorem routeTo_count64 {s : State} {dst vc p : Nat} (h : RouteTo s dst vc p) {k : Nat} (hk : k < 16) (n : Nat) :
    RouteTo (s.count64 (Reg.fabCnt k) n) dst vc p := by
  refine routeTo_congr h ?_ (s.ringPort_setReg _ _ (.inl ?_)) rfl rfl
  · exact State.regF_congr (State.reg_setReg_other _ _ (by simp only [Reg.fabNode, Reg.fabCnt]; omega)) _ _
  · simp only [Reg.fabRingTbl, Reg.fabCnt]; omega

/-- A flit of a flow that may send is handed to the flow's port. -/
theorem emit_of_route {s : State} {f : Flit} {p : Nat} (h : RouteTo s f.dst.toNat f.vc.toNat p) :
    s.emit f = s.toPort p f := by
  obtain ⟨hnode, hother, hdrain, hport⟩ := h
  simp [State.emit, hnode, hother, hdrain, hport]

theorem emit_handed {s : State} {f : Flit} {p : Nat} (h : RouteTo s f.dst.toNat f.vc.toNat p) :
    Handed s (s.emit f) p f := by
  rw [emit_of_route h]
  exact s.toPort_handed p f

end Sys2Proof.Machine
end

section
/-! PROOFS. Flits that the package accepts, their words, and its answers on VC2 (R264, R269, R270). -/
namespace Sys2Proof.Machine
open Sys2Proof.Claims

/-! ## Accepting (R264, R270, R277, R278) -/

theorem accept_of_accepted {s : State} {f : Flit} {typ : Nat} (h : Accepted s f typ) : s.accept f typ = (s, true) := by
  obtain ⟨hnode, hdst, htyp, hok, hkey, hdrop⟩ := h
  simp [State.accept, hnode, hdst, htyp, hok, hkey, hkey ▸ hdrop]

/-! ## Words without errors (R269) -/

theorem State.takeWord_clean (s : State) (g : Granule) : s.takeWord (fword g false) = (s, g, false) :=
  if_pos rfl

theorem State.takeWords_clean (s : State) (gs : List Granule) :
    s.takeWords (cleanWords gs) = (s, gs.map fun g => (g, false)) := by
  have hfold (l : List Granule) (acc : List (Granule × Bool)) :
      (l.map fun g => fword g false).foldl (fun r w => ((r.1.takeWord w).1, r.2 ++ [(r.1.takeWord w).2])) (s, acc) =
        (s, acc ++ l.map fun g => (g, false)) := by
    induction l generalizing acc with
    | nil => simp
    | cons g l ih => rw [List.map_cons, List.foldl_cons, s.takeWord_clean, ih, List.map_cons, List.append_assoc,
        List.singleton_append]
  exact hfold gs []

/-! ## Answers on VC2 -/

/-- The package's own key and number are those of a flit that it accepted. -/
theorem State.respond_eq {s : State} {f : Flit} (hdst : f.dst.toNat = s.node) (hkey : f.pkey.toNat = s.regF Reg.fabPkey 0 16)
    (typ : Nat) (words : List FWord) (trailer : Nat) :
    s.respond f typ words trailer = s.emit (answerTo f (BitVec.ofNat 7 typ) words trailer) := by
  have haddr : flitAddr f / 32 = f.addr.toNat := Nat.mul_div_cancel _ (by decide)
  simp [State.respond, State.mkFlit, answerTo, ← hdst, ← hkey, haddr]

/-- An answer is handed to the port of its flow (R270). -/
theorem State.respond_handed {s : State} {f : Flit} {typ0 p : Nat} (hacc : Accepted s f typ0) (hroute : RouteTo s f.src.toNat 2 p)
    (typ : Nat) (words : List FWord) (trailer : Nat) :
    Handed s (s.respond f typ words trailer) p (answerTo f (BitVec.ofNat 7 typ) words trailer) := by
  obtain ⟨-, hdst, -, -, hkey, -⟩ := hacc
  rw [State.respond_eq hdst hkey]
  exact emit_handed hroute

theorem State.respond_sendFrame (s : State) (f : Flit) (typ : Nat) (words : List FWord) (trailer : Nat) :
    SendFrame s (s.respond f typ words trailer) := s.emit_sendFrame _

/-! ## Programs that wait for nothing outstanding -/

/-- Where no program has ended, none completes (R181, R283). -/
theorem State.settleCores_of_noneEnding {s : State} (h : NoneEnding s) : s.settleCores = s := by
  refine foldl_of_fixed fun e he => ?_
  rcases hprog : e.2 with - | p
  · rfl
  · simp only [h e he p hprog]

theorem noneEnding_congr {s t : State} (h : NoneEnding s) (hprogs : t.progs = s.progs) : NoneEnding t := by
  rwa [NoneEnding, hprogs]

end Sys2Proof.Machine
end

section
/-! PROOFS. The state of a port (Table 11-1, R276): what putting a port in a state keeps, and what it leaves. -/
namespace Sys2Proof.Machine
open Sys2Proof.Claims

/-- Putting a port in a state changes its STATE, FAB_STATUS, and what an event does. -/
theorem RegKept.setPort {W : Nat → Prop} {P : State → Prop} (hP : RegKept W P) (hstatus : W Reg.fabStatus) {p st : Nat}
    (hport : ∀ {t : State}, P t → P (t.setRegF (Reg.fabPStatus p) 0 3 st)) {s : State} (hs : P s) : P (s.setPort p st) := by
  unfold State.setPort
  dsimp only
  split
  · exact hP.fabEv (hP.setReg _ hstatus (hport hs)) _ _ _
  · exact hP.setReg _ hstatus (hport hs)

theorem State.setPort_frame (s : State) (p st : Nat) : EventFrame s (s.setPort p st) := by
  have hset : EventFrame s ((s.setRegF (Reg.fabPStatus p) 0 3 st).setRegF Reg.fabStatus 8 6
      (s.setRegF (Reg.fabPStatus p) 0 3 st).portsUp) := .trans (s.setReg_frame _ _) (State.setReg_frame _ _ _)
  unfold State.setPort
  dsimp only
  split
  · exact hset.trans (State.event_frame _ _ _ _ _ _)
  · exact hset

theorem fabEv_frame (s : State) (b : Nat) (unit detail : Option Nat) : EventFrame s (s.fabEv b unit detail) :=
  s.event_frame _ _ _ _ _

/-- The port is in the state it was put in. -/
theorem State.portState_setPort (s : State) {p st : Nat} (h : st < 8) : (s.setPort p st).portState p = st := by
  have hkept : RegKept (· ≠ Reg.fabPStatus p) fun t => fld (t.reg (Reg.fabPStatus p)) 0 3 = st :=
    .reg (by simp only [Reg.fabCfg, Reg.fabPStatus]; omega) (by simp only [Reg.fabEvent, Reg.fabPStatus]; omega)
      (fun v => fld v 0 3 = st)
  have hne : Reg.fabStatus ≠ Reg.fabPStatus p := by simp only [Reg.fabStatus, Reg.fabPStatus]; omega
  have hset : fld ((s.setRegF (Reg.fabPStatus p) 0 3 st).reg (Reg.fabPStatus p)) 0 3 = st :=
    (s.regF_setRegF_same _ 0 3 st (by decide)).trans (Nat.mod_eq_of_lt h)
  show fld _ 0 3 = st
  unfold State.setPort
  dsimp only
  split
  · exact hkept.fabEv (hkept.setReg _ hne hset) _ _ _
  · exact hkept.setReg _ hne hset

end Sys2Proof.Machine
end

section
/-! PROOFS. Paths, drains and flows (R275, R280). -/
namespace Sys2Proof.Machine
open Sys2Proof.Claims

/-! ## A flow goes on (R275) -/

theorem emits_sendFrame (l : List Flit) (s : State) : SendFrame s (l.foldl State.emit s) :=
  .foldl State.emit_sendFrame l s

/-- The flits that waited are sent on the new path. -/
theorem State.flowOn_flow (s : State) (dst vc : Nat) :
    (s.flowOn dst vc).flow dst vc = { s.flow dst vc with drain := false, path := (s.flow dst vc).goal } :=
  ((emits_sendFrame _ _).flow dst vc).trans (s.flow_setFlow _ _ _)

theorem State.flowOn_of_empty {s : State} {dst vc : Nat} (h : Tbl.get [] s.drainQ (dst * 8 + vc) = []) :
    s.flowOn dst vc = { s with flows := (s.flowOn dst vc).flows, drainQ := (s.flowOn dst vc).drainQ } := by
  unfold State.flowOn
  dsimp only
  rw [h]
  rfl

/-- The drain mark of a flow. -/
def State.drainFlit (s : State) (dst vc : Nat) : Flit := s.mkFlit dst 0x16 vc true 0 0 false false 0 [] vc

/-! ## Issuing again on the new path (R275) -/

/-- `t` is `s` but for what sending changes; the registers are among that. -/
theorem State.count64_sendFrame (s : State) (o k : Nat) : SendFrame s (s.count64 o k) := rfl

theorem SendFrame.ite {s : State} (c : Prop) [Decidable c] (o k : Nat) :
    SendFrame s (if c then s else s.count64 o k) := by
  split
  · rfl
  · exact s.count64_sendFrame o k

theorem State.chunkFlits_sendFrame (s : State) (c : ChunkTx) (typ vc seq : Nat) (start : Bool) :
    SendFrame s (s.chunkFlits c typ vc seq start) := .foldl (fun s _ => s.emit_sendFrame _) _ s

theorem State.sendAs_sendFrame (s : State) (c : ChunkTx) (seq : Nat) (start : Bool) : SendFrame s (s.sendAs c seq start) := by
  unfold State.sendAs
  split
  · exact s.emit_sendFrame _
  · exact s.chunkFlits_sendFrame _ _ _ _ _

theorem State.putPkt_sendFrame (s : State) (t : PktTx) : SendFrame s (s.putPkt t) := .foldl (fun s _ => s.emit_sendFrame _) _ s

/-- The state in which a flow that has drained goes on along its new path, before anything is issued. -/
def State.onNewPath (s : State) (dst vc : Nat) : State :=
  { s.setFlow dst vc { s.flow dst vc with drain := false, path := (s.flow dst vc).goal } with
    drainQ := Tbl.set [] s.drainQ (dst * 8 + vc) [] }

/-- Issuing a flow's traffic again is sending. -/
theorem State.flowReissue_sendFrame (s : State) (dst vc : Nat) : SendFrame (s.onNewPath dst vc) (s.flowReissue dst vc) := by
  unfold State.flowReissue
  dsimp only
  split_ifs
  · exact .foldl (fun s q => .trans (.ite _ _ _) (State.emit_sendFrame _ _)) _ (s.onNewPath dst vc)
  · exact .foldl (fun s c => .trans (.ite _ _ _) (State.sendAs_sendFrame _ _ _ _)) _ (s.onNewPath dst vc)
  · exact .foldl (fun s t => .trans (.ite _ _ _) (State.putPkt_sendFrame _ _)) _ (s.onNewPath dst vc)
  · exact emits_sendFrame _ (s.onNewPath dst vc)

theorem State.flowReissue_flow (s : State) (dst vc : Nat) :
    (s.flowReissue dst vc).flow dst vc = { s.flow dst vc with drain := false, path := (s.flow dst vc).goal } :=
  ((s.flowReissue_sendFrame dst vc).flow dst vc).trans (s.flow_setFlow _ _ _)

theorem State.flowReissue_reqs (s : State) (dst vc : Nat) : (s.flowReissue dst vc).reqs = s.reqs := by
  rw [s.flowReissue_sendFrame dst vc]
  rfl

end Sys2Proof.Machine

namespace Sys2Proof.Proofs
open Sys2Proof Sys2Proof.Machine Sys2Proof.Claims

/-! ## The commands -/

theorem drainMark_echoed {f : Flit} {p : Nat} {s : State} (hacc : Accepted s f 0x16) (hroute : RouteTo s f.src.toNat 2 p) :
    ∃ t, exec (.drainMark f) s = .next t ∧ Handed s t p (answerTo f 0x17 [] f.trailer.toNat) ∧ t.mem = s.mem := by
  refine ⟨s.respond f 0x17 [] f.trailer.toNat, ?_, s.respond_handed hacc hroute 0x17 [] _, (s.respond_sendFrame _ _ _ _).mem⟩
  change execDrainMark f s = _
  rw [execDrainMark, accept_of_accepted hacc]
  rfl

theorem drainEcho_goesOn {f : Flit} {s : State} (hacc : Accepted s f 0x17)
    (hdrain : (s.flow f.src.toNat (f.trailer.toNat % 8)).drain = true) :
    exec (.drainEcho f) s = .next (s.flowOn f.src.toNat (f.trailer.toNat % 8)) := by
  change execDrainEcho f s = _
  rw [execDrainEcho, accept_of_accepted hacc]
  have hvc : fld f.trailer 0 3 = f.trailer.toNat % 8 := by simp [fld]
  simp only [hvc, hdrain, Bool.and_self, if_true]

section
variable {dst : BitVec 16} {vc : Fin 8} {port : Fin 32} {p : Nat} {s : State} (hok : s.pathOk dst.toNat port = true)
  (hroute : RouteTo s dst.toNat vc p)
include hok hroute

theorem exec_flowRepath_up (hup : s.portReady p = true) (hother : p ≠ port.val)
    (hmove : s.mayMove dst.toNat p port = true) :
    exec (.flowRepath dst vc port false) s = .next (((s.count64 (Reg.fabCnt 5) 1).emit
      ((s.count64 (Reg.fabCnt 5) 1).drainFlit dst.toNat vc)).setFlow dst.toNat vc
        { s.flow dst.toNat vc with drain := true, goal := s.pathOf dst.toNat port, since := s.ft }) := by
  obtain ⟨-, -, hdrain, hport⟩ := hroute
  change execFlowRepath dst vc port false s = _
  simp [execFlowRepath, hport, hok, hdrain, hup, hother, hmove, State.drainFlit]

/-- A flow whose port is up sends a drain mark and drains (R238, R275). -/
theorem flowRepath_drains (hup : s.portReady p = true) (hother : p ≠ port.val)
    (hmove : s.mayMove dst.toNat p port = true) :
    ∃ t, exec (.flowRepath dst vc port false) s = .next t ∧ Counted s t (Reg.fabCnt 5) 1 ∧
      t.flow dst.toNat vc = { s.flow dst.toNat vc with drain := true, goal := s.pathOf dst.toNat port, since := s.ft } ∧
      ∃ m : Flit, m.typ.toNat = 0x16 ∧ m.dst = dst ∧ m.vc.toNat = vc.val ∧ m.trailer.toNat = vc.val ∧ Handed s t p m := by
  have hdst : ((s.count64 (Reg.fabCnt 5) 1).drainFlit dst.toNat vc).dst = dst := by simp [State.drainFlit, State.mkFlit]
  have hmvc : ((s.count64 (Reg.fabCnt 5) 1).drainFlit dst.toNat vc).vc.toNat = vc.val := by
    simp [State.drainFlit, State.mkFlit]
  have hsend := emit_handed (s := s.count64 (Reg.fabCnt 5) 1) (f := (s.count64 (Reg.fabCnt 5) 1).drainFlit dst.toNat vc)
    (p := p) (by rw [hdst, hmvc]; exact routeTo_count64 hroute (by decide) 1)
  refine ⟨_, exec_flowRepath_up hok hroute hup hother hmove, ?_, State.flow_setFlow _ _ _ _, _, rfl, hdst, hmvc, ?_,
    handed_congr hsend rfl rfl rfl rfl⟩
  · have hreg := State.emit_reg_other (s.count64 (Reg.fabCnt 5) 1) ((s.count64 (Reg.fabCnt 5) 1).drainFlit dst.toNat vc)
      (o := Reg.fabCnt 5) (by decide) (by decide) fun q => by simp only [Reg.fabCnt, Reg.fabPCnt]; omega
    exact (congrArg BitVec.toNat hreg).trans (s.toNat_reg_count64 _ _)
  · simp only [State.drainFlit, State.mkFlit, BitVec.toNat_ofNat]
    omega

/-- A flow whose port is down moves at once (R275). -/
theorem exec_flowRepath_down (hdown : s.portReady p = false) (hnew : p ≠ port.val ∨ 28 ≤ port.val) :
    exec (.flowRepath dst vc port true) s = .next (((s.count64 (Reg.fabCnt 5) 1).setFlow dst.toNat vc
      { s.flow dst.toNat vc with goal := s.pathOf dst.toNat port }).flowReissue dst.toNat vc) := by
  obtain ⟨-, -, hdrain, hport⟩ := hroute
  have hgo : ¬ (p = port.val ∧ port.val < 28) := by omega
  change execFlowRepath dst vc port true s = _
  simp [execFlowRepath, hport, hok, hdrain, hdown, hgo]

end

theorem drainTimeout_goesOn {dst : BitVec 16} {vc : Fin 8} {s : State} (hdrain : (s.flow dst.toNat vc).drain = true)
    (hlate : (s.flow dst.toNat vc).since + usec * s.regF Reg.fabDrainTimeout 0 16 ≤ s.ft) :
    exec (.drainTimeout dst vc) s = .next (s.flowReissue dst.toNat vc) := by
  change execDrainTimeout dst vc s = _
  simp only [execDrainTimeout, hdrain, hlate, and_self, if_true]

/-- A flow of which nothing is outstanding. -/
theorem flowBusy_of_none {dst vc : Nat} {s : State} (hreqs : ∀ q ∈ s.reqs, ¬ (q.dst = dst ∧ q.vc = vc))
    (hwait : ∀ q ∈ s.reqQ, ¬ (q.dst = dst ∧ q.vc = vc)) (hchunks : vc = 6 → ∀ c ∈ s.chunksTx, c.dst ≠ dst) :
    s.flowBusy dst vc = false := by
  simp only [State.flowBusy, Bool.or_eq_false_iff, List.any_eq_false, Bool.and_eq_true, beq_iff_eq]
  refine ⟨⟨hreqs, hwait⟩, ?_⟩
  by_cases hvc : vc = 6
  · simpa [hvc, List.any_eq_false] using hchunks hvc
  · simp [hvc]

theorem flowIdleRestart_restarts {dst : BitVec 16} {vc : Fin 8} {s : State} (hdrain : (s.flow dst.toNat vc).drain = false)
    (hquiet : (s.flow dst.toNat vc).busyAt + msec ≤ s.ft) (hnone : s.flowBusy dst.toNat vc = false) :
    exec (.flowIdleRestart dst vc) s =
      .next (s.setFlow dst.toNat vc { s.flow dst.toNat vc with next := 0, started := false }) := by
  change execFlowIdleRestart dst vc s = _
  simp only [execFlowIdleRestart, hdrain, hnone, Nat.not_lt.2 hquiet, Bool.false_eq_true, or_self, if_false]

end Sys2Proof.Proofs
end

section
/-! PROOFS. The release of held stores (R286), and the rings that a package joins (R276). -/
namespace Sys2Proof.Proofs
open Sys2Proof Sys2Proof.Machine Sys2Proof.Claims

/-! ## Release (R286) -/

theorem noneEnding_unhold {s : State} (h : NoneEnding s) : NoneEnding s.unhold := by
  intro e he p hp
  obtain ⟨e0, he0, rfl⟩ := List.mem_map.1 he
  obtain ⟨p0, hp0, rfl⟩ := Option.map_eq_some_iff.1 hp
  have hended := h e0 he0 p0 hp0
  split
  · exact hended
  · exact hended

/-- No program that was released is held. -/
theorem unhold_wait (s : State) : ∀ e ∈ s.unhold.progs, ∀ p, e.2 = some p → p.wait ≠ .held := by
  intro e he p hp
  obtain ⟨e0, -, rfl⟩ := List.mem_map.1 he
  obtain ⟨p0, -, rfl⟩ := Option.map_eq_some_iff.1 hp
  split
  case isTrue => exact PWait.noConfusion
  case isFalse hwait => exact hwait

/-- The state in which held stores are released: none is held any more. -/
def releasing (s : State) : State := { s with replHeld := [] }.setRegB Reg.fabStatus 1 false

theorem exec_replRelease {v : BitVec 32} {s : State} (hreach : s.reaches Reg.fabReplRelease = true) (hv : v.getLsbD 0 = true) :
    exec (.replRelease v) s = .next
      (((s.replHeld.foldl (fun s h => s.gstore h.req h.addr h.data h.poison) (releasing s)).unhold).settleCores) := by
  change execReplRelease v s = _
  have hbit : bit (v.zeroExtend 64) 0 = true := by simpa [bit] using hv
  simp [execReplRelease, State.bar, hreach, State.replRelease, hbit, releasing]

theorem release_none {v : BitVec 32} {s : State} (hreach : s.reaches Reg.fabReplRelease = true) (hv : v.getLsbD 0 = true)
    (hheld : s.replHeld = []) (hnone : NoneEnding s) : ∃ t, exec (.replRelease v) s = .next t ∧
      t.regB Reg.fabStatus 1 = false ∧ OnlyRegs s t [Reg.fabStatus] ∧
      (∀ e ∈ t.progs, ∀ p, e.2 = some p → p.wait ≠ .held) ∧ t = { s with regs := t.regs, progs := t.progs } := by
  have hgo := exec_replRelease hreach hv
  rw [hheld, List.foldl_nil, State.settleCores_of_noneEnding (noneEnding_unhold (s := releasing s) hnone)] at hgo
  refine ⟨_, hgo, s.regB_setRegB_same _ 1 false (by decide), fun o ho => ?_, unhold_wait _, ?_⟩
  · exact s.reg_setReg_other _ (by simpa using ho)
  · unfold releasing
    rw [← hheld]
    rfl

theorem release_one {v : BitVec 32} {h : HeldStore} {s : State} (hreach : s.reaches Reg.fabReplRelease = true)
    (hv : v.getLsbD 0 = true) (hheld : s.replHeld = [h]) (hrepl : s.replStore h.addr = false)
    (hown : OwnWrite s h.addr h.data.length) (hpoison : h.poison = false) (hnone : NoneEnding s)
    (hlen : h.data.length ∈ [1, 2, 4, 8]) : ∃ t, exec (.replRelease v) s = .next t ∧ t.replHeld = [] ∧
      t.bytes (devAddr h.addr) h.data.length = h.data := by
  have hn : IsAccessSize h.data.length := by simpa [IsAccessSize] using hlen
  obtain ⟨hpos, -, -⟩ := hn.bounds
  obtain ⟨⟨halign, -, -, hclean⟩, -⟩ := id hown
  have hend := hn.end_le (hn.devAddr halign)
  have halike : StoresAlike { s with replHeld := [] } (releasing s) := .setReg _ _ (by decide) (by decide)
  have hstore : (releasing s).gstore h.req h.addr h.data h.poison =
      ((releasing s).storeBytes (devAddr h.addr) h.data).hostBytes 5 (devAddr h.addr) h.data.length := by
    rw [hpoison]
    exact ownWrite_gstore_within (halike.ownWrite hown) h.req hpos hend ((halike.replStore _).trans hrepl) rfl
  have hframe := State.hostBytes_frame ((releasing s).storeBytes (devAddr h.addr) h.data) 5 (devAddr h.addr) h.data.length
  have hgo := exec_replRelease hreach hv
  rw [hheld, List.foldl_cons, List.foldl_nil, hstore, State.settleCores_of_noneEnding (noneEnding_unhold
    (noneEnding_congr (s := releasing s) hnone (by rw [hframe]; rfl)))] at hgo
  refine ⟨_, hgo, ?_, ?_⟩
  · show (State.hostBytes _ _ _ _).replHeld = []
    rw [hframe]
    rfl
  · refine List.ext_getElem (by simp [State.bytes]) fun k hk hk' => ?_
    have hgran : (releasing s).poisoned ((devAddr h.addr + k) / 32) = false := by
      rw [show (devAddr h.addr + k) / 32 = devAddr h.addr / 32 by omega]
      exact hclean
    rw [← State.byte_storeBytes_same (releasing s) (devAddr h.addr) k h.data hk' hgran]
    simp only [State.bytes, List.getElem_map, List.getElem_range]
    exact congrArg (Tbl.get 0 · (devAddr h.addr + k)) (State.hostBytes_mem _ _ _ _)

/-! ## Rings (R276) -/

/-- What one port of a ring does where JOIN is written: a port that is up and whose ring is left goes down. -/
def leaveRing (v : W64) (s : State) (i : Nat) : State :=
  if bit v (i / 2) ∨ s.portReady (28 + i) = false then s else s.setPort (28 + i) 0

theorem ringCtrlWrite_eq (s : State) (v : W64) :
    s.ringCtrlWrite v = (List.range 4).foldl (leaveRing v) (s.setJoin (fld v 0 2)) := rfl

/-- Leaving a ring writes the STATE of its port, FAB_STATUS, and what an event does. -/
theorem leaveRing_kept {W : Nat → Prop} {P : State → Prop} (hP : RegKept W P) (hstatus : W Reg.fabStatus) {v : W64} {i : Nat}
    (hport : W (Reg.fabPStatus (28 + i))) {s : State} (hs : P s) : P (leaveRing v s i) := by
  unfold leaveRing
  split
  · exact hs
  · exact hP.setPort hstatus (fun h => hP.setReg _ hport h) hs

/-- The ports that leave a ring show the state of another port as it was. -/
theorem leaveRing_portState {v : W64} {s : State} {i j : Nat} (h : i ≠ j) :
    (leaveRing v s j).portState (28 + i) = s.portState (28 + i) :=
  leaveRing_kept (.reg (o := Reg.fabPStatus (28 + i)) (by simp only [Reg.fabCfg, Reg.fabPStatus]; omega)
    (by simp only [Reg.fabEvent, Reg.fabPStatus]; omega) fun w => fld w 0 3 = s.portState (28 + i))
    (by simp only [Reg.fabStatus, Reg.fabPStatus]; omega) (by simp only [Reg.fabPStatus]; omega) rfl

theorem foldl_leaveRing_portState {v : W64} {i : Nat} {l : List Nat} (h : i ∉ l) (s : State) :
    (l.foldl (leaveRing v) s).portState (28 + i) = s.portState (28 + i) := by
  induction l generalizing s with
  | nil => rfl
  | cons j l ih =>
    obtain ⟨hij, hil⟩ := not_or.1 fun hmem => h (List.mem_cons.2 hmem)
    rw [List.foldl_cons, ih hil, leaveRing_portState hij]

/-- A port that is up goes down once its ring is left. -/
theorem foldl_leaveRing_down {v : W64} {i : Nat} {l : List Nat} (hmem : i ∈ l) (hnodup : l.Nodup) {s : State}
    (hleft : bit v (i / 2) = false) (hup : 2 ≤ s.portState (28 + i)) :
    (l.foldl (leaveRing v) s).portState (28 + i) = 0 := by
  induction l generalizing s with
  | nil => exact absurd hmem List.not_mem_nil
  | cons j l ih =>
    obtain ⟨hjl, hl⟩ := List.nodup_cons.1 hnodup
    rw [List.foldl_cons]
    by_cases hij : i = j
    · subst hij
      have hready : s.portReady (28 + i) = true := decide_eq_true hup
      rw [foldl_leaveRing_portState hjl, leaveRing, if_neg (by simp [hleft, hready]), State.portState_setPort _ (by decide)]
    · exact ih ((List.mem_cons.1 hmem).resolve_left hij) hl (by rwa [leaveRing_portState hij])

/-- JOIN and the shunts show what was written (R276). -/
theorem ringCtrlWrite_ringCtrl (s : State) (v : W64) : (s.ringCtrlWrite v).reg Reg.fabRingCtrl =
    BitVec.ofNat 64 (fld v 0 2 % 4 + (3 - fld v 0 2 % 4) * 4) := by
  rw [ringCtrlWrite_eq]
  refine foldl_kept (P := fun t => t.reg Reg.fabRingCtrl = _) (fun t i ht => ?_) _ (s.reg_setReg_same _ _)
  exact leaveRing_kept (.reg (by decide) (by decide) (· = _)) (by decide)
    (by simp only [Reg.fabPStatus, Reg.fabRingCtrl]; omega) ht

theorem fld_join (j : Nat) (h : j < 4) : fld (BitVec.ofNat 64 (j + (3 - j) * 4)) 0 2 = j := by
  interval_cases j <;> rfl

theorem fld_shunts (j : Nat) (h : j < 4) : fld (BitVec.ofNat 64 (j + (3 - j) * 4)) 2 2 = 3 - j := by
  interval_cases j <;> rfl

theorem setJoin_portState (s : State) (j p : Nat) : (s.setJoin j).portState p = s.portState p :=
  State.regF_setReg_other _ _ _ _ (by simp only [Reg.fabPStatus, Reg.fabRingCtrl]; omega)

theorem exec_ringJoin {v : BitVec 32} {s : State} (hreach : s.reaches Reg.fabRingCtrl = true) :
    exec (.ringJoin v) s = .next (s.ringCtrlWrite (v.zeroExtend 64)) := by
  change execRingJoin v s = _
  simp [execRingJoin, State.bar, hreach]

theorem ringJoin_joins {v : BitVec 32} {s : State} (hreach : s.reaches Reg.fabRingCtrl = true) :
    ∃ t, exec (.ringJoin v) s = .next t ∧ t.regF Reg.fabRingCtrl 0 2 = v.toNat % 4 ∧
      t.regF Reg.fabRingCtrl 2 2 = 3 - v.toNat % 4 ∧
      ∀ i : Fin 4, v.getLsbD (i / 2) = false → s.portReady (28 + i) = true → t.portState (28 + i) = 0 := by
  have hjoin : fld (v.zeroExtend 64) 0 2 % 4 = v.toNat % 4 := by simp [fld]
  have hreg := ringCtrlWrite_ringCtrl s (v.zeroExtend 64)
  rw [hjoin] at hreg
  refine ⟨_, exec_ringJoin hreach, ?_, ?_, fun i hleft hup => ?_⟩
  · rw [State.regF, hreg, fld_join _ (Nat.mod_lt _ (by decide))]
  · rw [State.regF, hreg, fld_shunts _ (Nat.mod_lt _ (by decide))]
  · rw [ringCtrlWrite_eq]
    refine foldl_leaveRing_down (List.mem_range.2 i.isLt) List.nodup_range ?_ ?_
    · simpa [bit] using fun _ => hleft
    · rw [setJoin_portState]
      exact of_decide_eq_true hup

/-- Settles O42: drains by the state in which a flow goes on, from which issuing its traffic again is sending alone; the release
by the stores that may be made now; and the rings port by port. -/
theorem flowsAndRings : Obligations.FlowsAndRings := by
  refine ⟨fun f p s => drainMark_echoed, fun f s hacc => ?_, fun dst vc port p s => ?_, fun dst vc s => ⟨?_, ?_⟩,
    fun v s => release_none, fun v h s => release_one, fun v s => ringJoin_joins⟩
  · intro vc fl hdrain
    exact ⟨_, drainEcho_goesOn hacc hdrain, s.flowOn_flow _ _, State.flowOn_of_empty⟩
  · intro fl hok hroute
    refine ⟨fun hup hother hready hcongested hstatic => ?_, fun hdown hnew => ?_⟩
    · refine flowRepath_drains hok hroute hup hother ?_
      cases hadapt : s.regB Reg.detCfg 1 with
      | false => simpa [State.mayMove, hready, hadapt] using hcongested hadapt
      | true => simpa [State.mayMove, hready, hadapt] using hstatic hadapt
    · refine ⟨_, exec_flowRepath_down hok hroute hdown hnew, ?_⟩
      rw [State.flowReissue_flow, State.flow_setFlow]
  · intro hdrain hlate
    exact ⟨_, drainTimeout_goesOn hdrain hlate, s.flowReissue_flow _ _, s.flowReissue_reqs _ _⟩
  · intro hdrain hquiet hreqs hwait hchunks
    have hnone := flowBusy_of_none hreqs hwait fun h => hchunks (Fin.ext h)
    exact ⟨_, flowIdleRestart_restarts hdrain hquiet hnone, State.flow_setFlow _ _ _ _, rfl⟩

end Sys2Proof.Proofs
end

section
/-! PROOFS. Lanes (R266 to R268): what a lane that becomes lasting leaves of its port. -/
namespace Sys2Proof.Machine
open Sys2Proof.Claims

/-- What a register of a port holds is kept by writes of other registers. -/
theorem RegKept.port {o : Nat} (h : Reg.fabPCfg 0 ≤ o) (Q : W64 → Prop) : RegKept (· ≠ o) fun t => Q (t.reg o) :=
  .reg (by simp only [Reg.fabCfg, Reg.fabPCfg] at *; omega) (by simp only [Reg.fabEvent, Reg.fabPCfg] at *; omega) Q

/-! ## A port that degrades (R268) -/

/-- The first four lanes of a list carry the logical lanes 0 to 3. -/
def State.putLanes (r : Nat) (ls : List Nat) (s : State) : State :=
  (ls.take 4).zipIdx.foldl (fun s x => s.setRegF r (4 * x.2) 4 x.1) s

/-- The lane maps of a port that runs on four lanes. -/
def State.fourLanes (s : State) (p : Nat) : State :=
  (s.putLanes (laneMap p false) (s.healthyLanes p false)).putLanes (laneMap p true) (s.healthyLanes p true)

theorem State.degrade_eq (s : State) (p : Nat) : s.degrade p =
    if (s.healthyLanes p false).length < 4 ∨ (s.healthyLanes p true).length < 4 then s.setPort p 0
    else if s.portState p = 3 then s.fourLanes p else ((s.fourLanes p).setPort p 3).fabEv 8 p none := rfl

theorem State.setRegF_frame (s : State) (o lo len x : Nat) : EventFrame s (s.setRegF o lo len x) :=
  s.setReg_frame o _

theorem State.putLanes_frame (s : State) (r : Nat) (ls : List Nat) : EventFrame s (s.putLanes r ls) := by
  unfold State.putLanes
  refine foldl_keeps (R := EventFrame) .refl .trans (fun s x => ?_) _ s
  exact s.setRegF_frame r (4 * x.2) 4 x.1

theorem State.degrade_frame (s : State) (p : Nat) : EventFrame s (s.degrade p) := by
  have hlanes : EventFrame s (s.fourLanes p) := .trans (s.putLanes_frame _ _) (State.putLanes_frame _ _ _)
  rw [s.degrade_eq]
  split_ifs
  · exact s.setPort_frame p 0
  · exact hlanes
  · exact .trans (hlanes.trans (State.setPort_frame _ _ _)) (fabEv_frame _ _ _ _)

section
variable {W : Nat → Prop} {P : State → Prop} (hP : RegKept W P) {p : Nat} (hmap : ∀ rx, W (laneMap p rx))
  (hstatus : W Reg.fabStatus) (hport : ∀ {t : State} {st : Nat}, P t → P (t.setRegF (Reg.fabPStatus p) 0 3 st)) {s : State}
  (hs : P s)

include hP hs in
theorem RegKept.putLanes {r : Nat} (hr : W r) (ls : List Nat) : P (s.putLanes r ls) :=
  foldl_kept (fun _ _ ht => hP.setReg _ hr ht) _ hs

include hP hmap hs in
theorem RegKept.fourLanes : P (s.fourLanes p) := hP.putLanes (hP.putLanes hs (hmap false) _) (hmap true) _

include hP hmap hstatus hport hs

/-- A port that degrades has its lane maps, its STATE and FAB_STATUS written, and what events do. -/
theorem RegKept.degrade : P (s.degrade p) := by
  have hlanes := hP.fourLanes hmap hs
  rw [s.degrade_eq]
  split_ifs
  · exact hP.setPort hstatus hport hs
  · exact hlanes
  · exact hP.fabEv (hP.setPort hstatus hport hlanes) _ _ _

end

/-! ## A lane that becomes lasting (R266, R267) -/

/-- The state in which a lane is lasting and its event is logged, before its port does anything about it. -/
def State.laneMarked (s : State) (p : Nat) (rx : Bool) (lane : Nat) : State :=
  ({ s with laneLast := Tbl.set false s.laneLast (laneKey p rx lane) true }.setRegB (Reg.fabPStatus p)
    (5 + lane) true).fabEv 6 p lane

theorem State.laneLasting_of_healthy {s : State} {p lane : Nat} {rx : Bool} (h : s.isLasting p rx lane = false) :
    s.laneLasting p rx lane =
      if (s.laneMarked p rx lane).portReady p = false then s.laneMarked p rx lane
      else match (s.laneMarked p rx lane).logicalLane p rx lane with
        | none => if ((s.laneMarked p rx lane).rotation p rx).isSome then (s.laneMarked p rx lane).degrade p
          else s.laneMarked p rx lane
        | some i => if (s.laneMarked p rx lane).canRotate p rx then
            (if rx then (s.laneMarked p rx lane).giveNotice p i else s.laneMarked p rx lane)
          else (s.laneMarked p rx lane).degrade p := by
  unfold State.laneLasting
  rw [h, if_neg Bool.false_ne_true]
  rfl

/-- What becomes of a lane that is to be lasting: it was, or it is marked, and its port degrades, gives notice, or does nothing. -/
theorem State.laneLasting_induction {P : State → Prop} {s : State} {p lane : Nat} {rx : Bool}
    (hwas : s.isLasting p rx lane = true → P s) (hmarked : P (s.laneMarked p rx lane))
    (hdegrade : P ((s.laneMarked p rx lane).degrade p))
    (hnotice : ∀ i, P ((s.laneMarked p rx lane).giveNotice p i)) : P (s.laneLasting p rx lane) := by
  cases h : s.isLasting p rx lane with
  | true =>
    rw [State.laneLasting, if_pos h]
    exact hwas h
  | false =>
    rw [State.laneLasting_of_healthy h]
    split
    · exact hmarked
    · split
      · split
        · exact hdegrade
        · exact hmarked
      · split
        · split
          · exact hnotice _
          · exact hmarked
        · exact hdegrade

theorem State.giveNotice_isLasting (s : State) (p i : Nat) (rx : Bool) (lane : Nat) :
    (s.giveNotice p i).isLasting p rx lane = s.isLasting p rx lane := rfl

section
variable (s : State) (p : Nat) (rx : Bool) (lane : Nat)

theorem State.laneMarked_frame : EventFrame { s with laneLast := Tbl.set false s.laneLast (laneKey p rx lane) true }
    (s.laneMarked p rx lane) := .trans (State.setReg_frame _ _ _) (fabEv_frame _ _ _ _)

theorem State.laneMarked_isLasting : (s.laneMarked p rx lane).isLasting p rx lane = true := by
  have hlast : (s.laneMarked p rx lane).laneLast = Tbl.set false s.laneLast (laneKey p rx lane) true := by
    rw [s.laneMarked_frame p rx lane]
  rw [State.isLasting, hlast]
  exact Tbl.get_set_same _ _ _

/-- A lane that was to become lasting is. -/
theorem State.laneLasting_isLasting : (s.laneLasting p rx lane).isLasting p rx lane = true := by
  have hmarked := s.laneMarked_isLasting p rx lane
  refine State.laneLasting_induction (P := fun t => t.isLasting p rx lane = true) id hmarked ?_
    fun i => (State.giveNotice_isLasting _ p i rx lane).trans hmarked
  rw [State.isLasting, State.degrade_frame]
  exact hmarked

end

/-- Marking a lane writes a bit of its port's status, and what an event does. -/
theorem RegKept.laneMarked {W : Nat → Prop} {P : State → Prop} (hP : RegKept W P) {p lane : Nat}
    (hbit : ∀ {t : State}, P t → P (t.setRegB (Reg.fabPStatus p) (5 + lane) true)) {s : State} (hs : P s) (rx : Bool) :
    P (s.laneMarked p rx lane) := by
  refine hP.fabEv (hbit ?_) _ _ _
  exact hP.regs hs rfl

theorem State.laneMarked_portState (s : State) (p : Nat) (rx : Bool) (lane : Nat) :
    (s.laneMarked p rx lane).portState p = s.portState p :=
  (RegKept.port (o := Reg.fabPStatus p) (by simp only [Reg.fabPCfg, Reg.fabPStatus]; omega)
    fun v => fld v 0 3 = s.portState p).laneMarked
    (fun h => (State.regF_setRegF_field _ _ _ _ _ _ _ (.inl (by omega))).trans h) rfl rx

theorem le_laneMap (p : Nat) (rx : Bool) : Reg.fabPTxmap p ≤ laneMap p rx ∧ laneMap p rx ≤ Reg.fabPRxmap p := by
  cases rx <;> simp only [laneMap, Reg.fabPTxmap, Reg.fabPRxmap, Bool.false_eq_true, if_true, if_false] <;> constructor <;> omega

/-- Marking a lane leaves every register of the ports but the status of its own. -/
theorem State.laneMarked_reg_other (s : State) {p lane : Nat} (rx : Bool) {o : Nat} (h : Reg.fabPCfg 0 ≤ o)
    (hne : o ≠ Reg.fabPStatus p) : (s.laneMarked p rx lane).reg o = s.reg o :=
  (RegKept.port h (· = s.reg o)).laneMarked (fun h => (State.reg_setReg_other _ _ hne).trans h) rfl rx

theorem State.laneMarked_logicalLane (s : State) (p : Nat) (rx : Bool) (lane l : Nat) :
    (s.laneMarked p rx lane).logicalLane p rx l = s.logicalLane p rx l := by
  obtain ⟨hlow, hhigh⟩ := le_laneMap p rx
  simp only [Reg.fabPTxmap, Reg.fabPRxmap] at hlow hhigh
  have hreg : (s.laneMarked p rx lane).reg (laneMap p rx) = s.reg (laneMap p rx) :=
    s.laneMarked_reg_other rx (by simp only [Reg.fabPCfg]; omega) (by simp only [Reg.fabPStatus]; omega)
  unfold State.logicalLane
  simp only [State.regF_congr hreg]

end Sys2Proof.Machine
end

section
/-! PROOFS. Lanes (R266 to R268): the events of a lane, the notice that its receiver gives, and the rotation. -/
namespace Sys2Proof.Machine
open Sys2Proof.Claims

/-! ## Events of a lane (R266) -/

/-- What a cause counts besides the event of the lane. -/
def State.causeCounted (s : State) (p : Nat) : LaneCause → State
  | .uncorrectable => s.count64 (Reg.fabPCnt p 4) 1
  | .corrections n => s.count64 (Reg.fabPCnt p 3) n
  | .lockLoss => s

/-- The state in which an event of a lane is counted and its time is kept. -/
def State.eventCounted (s : State) (p : Nat) (rx : Bool) (lane : Nat) : State :=
  { s.count64 (Reg.fabPCnt p 5) 1 with
    laneEv := Tbl.set [] s.laneEv (laneKey p rx lane) (lastThree (Tbl.get [] s.laneEv (laneKey p rx lane) ++ [s.ft])) }

/-- Corrections that exceed the limit of the port, and every other cause, are an event of the lane. -/
theorem exec_laneEvent {p : Fin 32} {cause : LaneCause} {s : State}
    (h : ∀ n, cause = .corrections n → 4 * s.regF (Reg.fabPCfg p) 2 30 < n) (rx : Bool) (lane : Fin 9) :
    exec (.laneEvent p rx lane cause) s = .next ((s.causeCounted p cause).laneEvent p rx lane) := by
  cases cause with
  | uncorrectable => rfl
  | corrections n => exact congrArg Host.Outcome.next (if_pos (h n rfl))
  | lockLoss => rfl

theorem exec_laneEvent_corrections {p : Fin 32} {n : Nat} {s : State} (h : n ≤ 4 * s.regF (Reg.fabPCfg p) 2 30) (rx : Bool)
    (lane : Fin 9) : exec (.laneEvent p rx lane (.corrections n)) s = .next (s.count64 (Reg.fabPCnt p 3) n) :=
  congrArg Host.Outcome.next (if_neg (Nat.not_lt.2 h))

section
variable (s : State) (p : Nat) (cause : LaneCause) (rx : Bool) (lane : Nat)

theorem State.causeCounted_eq : s.causeCounted p cause = { s with regs := (s.causeCounted p cause).regs } := by
  cases cause <;> rfl

theorem State.causeCounted_laneEv : (s.causeCounted p cause).laneEv = s.laneEv := by
  rw [s.causeCounted_eq]

theorem State.causeCounted_ft : (s.causeCounted p cause).ft = s.ft := by
  rw [s.causeCounted_eq]
  rfl

theorem State.causeCounted_reg_other {o : Nat} (h4 : o ≠ Reg.fabPCnt p 4) (h3 : o ≠ Reg.fabPCnt p 3) :
    (s.causeCounted p cause).reg o = s.reg o := by
  cases cause with
  | uncorrectable => exact s.reg_setReg_other _ h4
  | corrections n => exact s.reg_setReg_other _ h3
  | lockLoss => rfl

theorem State.laneEvent_eq : s.laneEvent p rx lane =
    if fourth (Tbl.get [] s.laneEv (laneKey p rx lane)) s.ft then (s.eventCounted p rx lane).laneLasting p rx lane
    else s.eventCounted p rx lane := rfl

theorem State.eventCounted_reg (o : Nat) : (s.eventCounted p rx lane).reg o = (s.count64 (Reg.fabPCnt p 5) 1).reg o := rfl

theorem State.eventCounted_reg_other {o : Nat} (h : o ≠ Reg.fabPCnt p 5) : (s.eventCounted p rx lane).reg o = s.reg o :=
  s.reg_setReg_other _ h

theorem State.eventCounted_frame : s.eventCounted p rx lane =
    { s with regs := (s.eventCounted p rx lane).regs, laneEv := (s.eventCounted p rx lane).laneEv } := rfl

/-- The time of the event is the last that is kept. -/
theorem State.eventCounted_getLast : (Tbl.get [] (s.eventCounted p rx lane).laneEv (laneKey p rx lane)).getLast? = some s.ft := by
  have hget : Tbl.get [] (s.eventCounted p rx lane).laneEv (laneKey p rx lane) =
      lastThree (Tbl.get [] s.laneEv (laneKey p rx lane) ++ [s.ft]) := Tbl.get_set_same _ _ _
  rw [hget, lastThree, List.getLast?_drop, List.getLast?_concat, List.length_append, List.length_singleton]
  exact if_neg (by omega)

end

theorem fabPCnt_ne (p : Nat) {j k : Nat} (h : j ≠ k) : Reg.fabPCnt p j ≠ Reg.fabPCnt p k := by
  simp only [Reg.fabPCnt]
  omega

/-- An event of the FAB block is shown (R341). -/
theorem fabEv_shown (s : State) {b : Nat} (hb : b < 64) (unit detail : Option Nat) :
    (s.fabEv b unit detail).regB Reg.fabEvent b = true :=
  (State.regB_congr (State.event_reg_self _ _ _ _ _ (by decide)) b).trans (State.regB_setRegB_same _ _ _ _ hb)

/-! ## The notice of a rotation (R267) -/

/-- The lane that was marked is the only lasting one, where none was. -/
theorem State.laneMarked_lasting_le_one {s : State} {p : Nat} {rx : Bool} (h : ∀ k : Fin 9, s.isLasting p rx k = false)
    (lane : Nat) : ((List.range 9).filter fun l => (s.laneMarked p rx lane).isLasting p rx l).length ≤ 1 := by
  have hlast : (s.laneMarked p rx lane).laneLast = Tbl.set false s.laneLast (laneKey p rx lane) true := by
    rw [s.laneMarked_frame p rx lane]
  have honly : ∀ l ∈ List.range 9, (s.laneMarked p rx lane).isLasting p rx l = (l == lane) := by
    intro l hl
    rw [State.isLasting, hlast]
    by_cases hlane : l = lane
    · rw [hlane, beq_self_eq_true]
      exact Tbl.get_set_same _ _ _
    · have hkey : laneKey p rx l ≠ laneKey p rx lane := by simp only [laneKey]; omega
      rw [beq_eq_false_iff_ne.2 hlane, Tbl.get_set_other _ _ hkey]
      exact h ⟨l, List.mem_range.1 hl⟩
  rw [List.filter_congr honly, ← List.countP_eq_length_filter]
  exact List.nodup_iff_count_le_one.1 List.nodup_range lane

/-- The receiver of an UP port's first lasting lane gives notice (R267). -/
theorem State.laneLasting_first {s : State} {p lane i : Nat} (hfirst : ∀ k : Fin 9, s.isLasting p true k = false)
    (hlane : s.isLasting p true lane = false) (hcfg : s.regB (Reg.fabPCfg p) 1 = false) (hup : s.portState p = 2)
    (hi : s.logicalLane p true lane = some i) :
    s.laneLasting p true lane = (s.laneMarked p true lane).giveNotice p i := by
  have hstate : (s.laneMarked p true lane).portState p = 2 := (s.laneMarked_portState _ _ _).trans hup
  have hready : (s.laneMarked p true lane).portReady p = true := decide_eq_true (Nat.le_of_eq hstate.symm)
  have hcan : (s.laneMarked p true lane).canRotate p true = true := by
    have hcfg' : (s.laneMarked p true lane).regB (Reg.fabPCfg p) 1 = false :=
      (State.regB_congr (s.laneMarked_reg_other true (by simp only [Reg.fabPCfg]; omega)
        (by simp only [Reg.fabPCfg, Reg.fabPStatus]; omega)) 1).trans hcfg
    simp [State.canRotate, hstate, hcfg', State.laneMarked_lasting_le_one hfirst]
  rw [State.laneLasting_of_healthy hlane, hready, s.laneMarked_logicalLane, hi, hcan]
  rfl

theorem State.giveNotice_rotation (s : State) (p i : Nat) :
    (s.giveNotice p i).rotation p true = some (i, (Config.rotateAt p (Tbl.get 0 s.linkRx p)).toNat) := by
  have hrotate : (s.giveNotice p i).rotate = Tbl.set none s.rotate (2 * p + bnat true)
    (some (i, (Config.rotateAt p (Tbl.get 0 s.linkRx p)).toNat)) := rfl
  rw [State.rotation, hrotate]
  exact Tbl.get_set_same _ _ _

theorem State.giveNotice_regs (s : State) (p i : Nat) : (s.giveNotice p i).regs = s.regs := rfl

theorem State.laneMarked_out (s : State) (p : Nat) (rx : Bool) (lane : Nat) : (s.laneMarked p rx lane).out = s.out := by
  rw [s.laneMarked_frame p rx lane]

/-- A lane that becomes lasting is shown in the status of its port, and its event is shown (R266). -/
theorem State.laneLasting_shown {s : State} {p lane : Nat} {rx : Bool} (hl : lane < 9) (h : s.isLasting p rx lane = false) :
    (s.laneLasting p rx lane).regB (Reg.fabPStatus p) (5 + lane) = true ∧
      (s.laneLasting p rx lane).regB Reg.fabEvent 6 = true := by
  have hbit : 5 + lane < 64 := by omega
  have hstatus : RegKept (· ≠ Reg.fabPStatus p) fun t => t.regB (Reg.fabPStatus p) (5 + lane) = true :=
    .port (by simp only [Reg.fabPCfg, Reg.fabPStatus]; omega) fun v => (fld v (5 + lane) 1 == 1) = true
  have hkept := hstatus.and (RegKept.eventBit (b := 6) (by decide))
  have hmarked : (s.laneMarked p rx lane).regB (Reg.fabPStatus p) (5 + lane) = true ∧
      (s.laneMarked p rx lane).regB Reg.fabEvent 6 = true :=
    ⟨hstatus.fabEv (State.regB_setRegB_same _ _ _ _ hbit) _ _ _, fabEv_shown _ (by decide) _ _⟩
  refine State.laneLasting_induction (P := fun t => t.regB (Reg.fabPStatus p) (5 + lane) = true ∧ t.regB Reg.fabEvent 6 = true)
    (fun hwas => absurd (h.symm.trans hwas) Bool.false_ne_true) hmarked ?_ 
    fun i => hkept.regs hmarked (State.giveNotice_regs _ p i)
  refine hkept.degrade (fun rx => ?_) ?_ (fun ht => ⟨?_, ?_⟩) hmarked
  · obtain ⟨hlow, hhigh⟩ := le_laneMap p rx
    simp only [Reg.fabPTxmap, Reg.fabPRxmap, Reg.fabPStatus, Reg.fabEvent] at *
    omega
  · simp only [Reg.fabStatus, Reg.fabPStatus, Reg.fabEvent]
    omega
  · rw [State.regB, State.regF_setRegF_field _ _ _ _ _ _ _ (.inr (by omega))]
    exact ht.1
  · rw [State.setRegF, State.regB_setReg_other _ _ _ (by simp only [Reg.fabPStatus, Reg.fabEvent]; omega)]
    exact ht.2

/-! ## The rotation (R267) -/

/-- The state in which a logical lane has moved to the spare, before the event. -/
def State.laneMoved (s : State) (p : Nat) (rx : Bool) (i l : Nat) : State :=
  ((s.moveLane p rx i l).setRotation p rx none).count64 (Reg.fabPCnt p 6) 1

theorem exec_laneRotate {p : Fin 32} {rx : Bool} {sp i n : Nat} {s : State} (hup : s.portState p = 2)
    (hrot : s.rotation p rx = some (i, n)) (hreached : s.lseqReached p rx n = true) (hspare : s.spareLane p rx = some sp) :
    exec (.laneRotate p rx) s = .next ((s.laneMoved p rx i sp).fabEv 7 p i) := by
  show execLaneRotate p rx s = _
  unfold execLaneRotate
  rw [hrot, hspare]
  exact if_neg (by simp [hup, hreached])

section
variable (s : State) (p : Nat) (rx : Bool) (i l : Nat)

theorem laneMap_ne (k : Nat) : laneMap p rx ≠ Reg.fabPStatus p ∧ laneMap p rx ≠ Reg.fabPCnt p k ∧ Reg.fabPCfg 0 ≤ laneMap p rx := by
  obtain ⟨hlow, hhigh⟩ := le_laneMap p rx
  simp only [Reg.fabPTxmap, Reg.fabPRxmap, Reg.fabPStatus, Reg.fabPCnt, Reg.fabPCfg] at *
  omega

theorem State.laneMoved_eq : s.laneMoved p rx i l =
    { s with regs := (s.laneMoved p rx i l).regs, rotate := (s.laneMoved p rx i l).rotate } := by
  have hmove : EventFrame s (s.moveLane p rx i l) := .trans (s.setRegF_frame _ _ _ _) (State.setRegF_frame _ _ _ _ _)
  have hlater (m : State) : (m.setRotation p rx none).count64 (Reg.fabPCnt p 6) 1 =
      { m with regs := ((m.setRotation p rx none).count64 (Reg.fabPCnt p 6) 1).regs,
               rotate := (m.setRotation p rx none).rotate } := rfl
  refine (hlater _).trans ?_
  rw [hmove]
  rfl

theorem State.laneMoved_reg_other {o : Nat} (h : o ≠ Reg.fabPCnt p 6) :
    (s.laneMoved p rx i l).reg o = (s.moveLane p rx i l).reg o := State.reg_setReg_other _ _ h

theorem State.laneMoved_map : (s.laneMoved p rx i l).reg (laneMap p rx) =
    (s.setRegF (laneMap p rx) (4 * i) 4 l).reg (laneMap p rx) := by
  obtain ⟨hstatus, hcnt, -⟩ := laneMap_ne p rx 6
  exact (s.laneMoved_reg_other _ _ _ _ hcnt).trans (State.reg_setReg_other _ _ hstatus)

/-- The logical lane lies on the spare. -/
theorem State.laneMoved_logicalLane {i l : Nat} (hi : i < 8) (hspare : s.spareLane p rx = some l) :
    ((s.laneMoved p rx i l).fabEv 7 p i).logicalLane p rx l = some i := by
  obtain ⟨hfree, hl, -⟩ := List.find?_range_eq_some.1 hspare
  have hnone (j : Nat) (hj : j < 8) : s.regF (laneMap p rx) (4 * j) 4 ≠ l := by
    have hfind := List.find?_eq_none.1 (Option.isNone_iff_eq_none.1 hfree) j (List.mem_range.2 hj)
    exact fun he => hfind (beq_iff_eq.2 he)
  have hevent : ((s.laneMoved p rx i l).fabEv 7 p i).reg (laneMap p rx) = (s.laneMoved p rx i l).reg (laneMap p rx) :=
    (RegKept.port (laneMap_ne p rx 6).2.2 (· = _)).fabEv rfl _ _ _
  have hmap := State.regF_congr (hevent.trans (s.laneMoved_map p rx i l))
  have hl16 : l < 2 ^ 4 := (List.mem_range.1 hl).trans (by decide)
  refine List.find?_range_eq_some.2 ⟨?_, List.mem_range.2 hi, fun j hj => ?_⟩
  · rw [hmap, State.regF_setRegF_same _ _ _ _ _ (by omega), Nat.mod_eq_of_lt hl16, beq_self_eq_true]
  · rw [hmap, State.regF_setRegF_field _ _ _ _ _ _ _ (by omega), beq_eq_false_iff_ne.2 (hnone j (by omega))]
    rfl

theorem State.laneMoved_status : ((s.laneMoved p rx i l).fabEv 7 p i).regB (Reg.fabPStatus p) (if rx then 4 else 3) = true := by
  have hbit : (if rx then 4 else 3) < 64 := by split <;> decide
  have hmoved : (s.laneMoved p rx i l).regB (Reg.fabPStatus p) (if rx then 4 else 3) = true :=
    (State.regB_congr (s.laneMoved_reg_other _ _ _ _ (by simp only [Reg.fabPCnt, Reg.fabPStatus]; omega)) _).trans
      (State.regB_setRegB_same _ _ _ _ hbit)
  have hkept : RegKept (· ≠ Reg.fabPStatus p) fun t => t.regB (Reg.fabPStatus p) (if rx then 4 else 3) = true :=
    .port (by simp only [Reg.fabPCfg, Reg.fabPStatus]; omega) fun v => (fld v (if rx then 4 else 3) 1 == 1) = true
  exact hkept.fabEv hmoved _ _ _

theorem State.moveLane_onlyRegs : OnlyRegs s (s.moveLane p rx i l) [laneMap p rx, Reg.fabPStatus p] := by
  intro o ho
  simp only [List.mem_cons, List.not_mem_nil, or_false, not_or] at ho
  exact (State.reg_setReg_other _ _ ho.2).trans (State.reg_setReg_other _ _ ho.1)

theorem State.laneMoved_onlyRegs : OnlyRegs s (s.laneMoved p rx i l) [laneMap p rx, Reg.fabPStatus p, Reg.fabPCnt p 6] := by
  intro o ho
  refine (s.laneMoved_reg_other _ _ _ _ fun h => ho (h ▸ by simp)).trans (s.moveLane_onlyRegs _ _ _ _ _ fun h => ho ?_)
  exact List.mem_append_left [Reg.fabPCnt p 6] h

theorem State.laneMoved_counted : Counted s ((s.laneMoved p rx i l).fabEv 7 p i) (Reg.fabPCnt p 6) 1 := by
  obtain ⟨hstatus, hcnt, -⟩ := laneMap_ne p rx 6
  have hmove : (s.moveLane p rx i l).reg (Reg.fabPCnt p 6) = s.reg (Reg.fabPCnt p 6) := by
    refine s.moveLane_onlyRegs _ _ _ _ _ fun h => ?_
    simp only [List.mem_cons, List.not_mem_nil, or_false] at h
    simp only [Reg.fabPCnt, Reg.fabPStatus] at h hcnt
    omega
  have hevent : ((s.laneMoved p rx i l).fabEv 7 p i).reg (Reg.fabPCnt p 6) = (s.laneMoved p rx i l).reg (Reg.fabPCnt p 6) :=
    (RegKept.port (by simp only [Reg.fabPCfg, Reg.fabPCnt]; omega) (· = _)).fabEv rfl _ _ _
  rw [Counted, hevent, ← hmove]
  exact State.toNat_reg_count64 _ _ _

theorem State.laneMoved_rotation : ((s.laneMoved p rx i l).fabEv 7 p i).rotation p rx = none := by
  have hrotate : ((s.laneMoved p rx i l).fabEv 7 p i).rotate = Tbl.set none s.rotate (2 * p + bnat rx) none := by
    rw [fabEv_frame]
    rfl
  rw [State.rotation, hrotate]
  exact Tbl.get_set_same _ _ _

theorem State.laneMoved_eventFrame : Claims.EventFrame s ((s.laneMoved p rx i l).fabEv 7 p i)
    [if rx then Reg.fabPRxmap p else Reg.fabPTxmap p, Reg.fabPStatus p, Reg.fabPCnt p 6, Reg.fabEvent] := by
  have hlog : ∀ o ∈ [laneMap p rx, Reg.fabPStatus p, Reg.fabPCnt p 6], o ∉ logOffs := by
    have hlow : ∀ o ∈ logOffs, o < Reg.fabPCfg 0 := by decide
    have hmap := (laneMap_ne p rx 6).2.2
    simp only [List.forall_mem_cons, List.not_mem_nil, false_imp_iff, implies_true, and_true]
    refine ⟨fun h => absurd (hlow _ h) (Nat.not_lt.2 hmap), fun h => absurd (hlow _ h) ?_, fun h => absurd (hlow _ h) ?_⟩ <;>
      simp only [Reg.fabPCfg, Reg.fabPStatus, Reg.fabPCnt] <;> omega
  have hmem : (s.laneMoved p rx i l).mem = s.mem := by rw [s.laneMoved_eq]
  have hpoison : (s.laneMoved p rx i l).poison = s.poison := by rw [s.laneMoved_eq]
  exact eventFrame_of_onlyRegs (s.laneMoved_onlyRegs p rx i l) hlog hmem hpoison (State.event_touches _ _ _ _ _ (by decide))

theorem State.laneMoved_frame : let t := (s.laneMoved p rx i l).fabEv 7 p i
    t = { s with regs := t.regs, mem := t.mem, poison := t.poison, msixOut := t.msixOut, rotate := t.rotate } := by
  intro t
  have hframe : t = { s.laneMoved p rx i l with
      regs := t.regs, mem := t.mem, poison := t.poison, msixOut := t.msixOut, ibiOut := t.ibiOut } := fabEv_frame _ _ _ _
  have hibi : t.ibiOut = s.ibiOut := State.event_ibiOut _ _ _ _ _ (by decide)
  have hrotate : t.rotate = (s.laneMoved p rx i l).rotate := by rw [hframe]
  rw [hibi, s.laneMoved_eq, ← hrotate] at hframe
  exact hframe

end

end Sys2Proof.Machine
end

section
/-! PROOFS. Lanes of the fabric (R266 to R268). -/
namespace Sys2Proof.Proofs
open Sys2Proof Sys2Proof.Machine Sys2Proof.Claims

theorem laneEvents_counted : (∀ (p : Fin 32) (rx : Bool) (lane : Fin 9) (cause : LaneCause) (s : State),
    fourth (Tbl.get [] s.laneEv (laneKey p rx lane)) s.ft = false →
    (∀ n, cause = .corrections n → 4 * s.regF (Reg.fabPCfg p) 2 30 < n) →
    ∃ t, exec (.laneEvent p rx lane cause) s = .next t ∧ Counted s t (Reg.fabPCnt p 5) 1 ∧
      (cause = .uncorrectable → Counted s t (Reg.fabPCnt p 4) 1) ∧
      (∀ n, cause = .corrections n → Counted s t (Reg.fabPCnt p 3) n) ∧
      (Tbl.get [] t.laneEv (laneKey p rx lane)).getLast? = some s.ft ∧ t.laneLast = s.laneLast ∧
      OnlyRegs s t [Reg.fabPCnt p 5, Reg.fabPCnt p 4, Reg.fabPCnt p 3] ∧
      t = { s with regs := t.regs, laneEv := t.laneEv }) := by
  intro p rx lane cause s hfourth hcause
  have hstep : (s.causeCounted p cause).laneEvent p rx lane = (s.causeCounted p cause).eventCounted p rx lane := by
    rw [State.laneEvent_eq, State.causeCounted_laneEv, State.causeCounted_ft, hfourth]
    rfl
  have hother {k : Nat} (h : k ≠ 5) : ((s.causeCounted p cause).eventCounted p rx lane).reg (Reg.fabPCnt p k) =
      (s.causeCounted p cause).reg (Reg.fabPCnt p k) := State.eventCounted_reg_other _ _ _ _ (fabPCnt_ne p h)
  refine ⟨_, (exec_laneEvent hcause rx lane).trans (congrArg _ hstep), ?_, ?_, ?_, ?_, ?_, ?_, ?_⟩
  · rw [Counted, State.eventCounted_reg,
      ← s.causeCounted_reg_other p cause (fabPCnt_ne p (by decide)) (fabPCnt_ne p (by decide))]
    exact State.toNat_reg_count64 _ _ _
  · rintro rfl
    rw [Counted, hother (by decide)]
    exact s.toNat_reg_count64 _ _
  · rintro n rfl
    rw [Counted, hother (by decide)]
    exact s.toNat_reg_count64 _ _
  · rw [State.eventCounted_getLast, State.causeCounted_ft]
  · show (s.causeCounted p cause).laneLast = _
    rw [s.causeCounted_eq]
  · intro o ho
    simp only [List.mem_cons, List.not_mem_nil, or_false, not_or] at ho
    obtain ⟨h5, h4, h3⟩ := ho
    exact (State.eventCounted_reg_other _ _ _ _ h5).trans (s.causeCounted_reg_other p cause h4 h3)
  · refine (State.eventCounted_frame _ _ _ _).trans ?_
    rw [s.causeCounted_eq]

theorem lanes : Parts.Lanes := by
  refine ⟨laneEvents_counted, ?_, ?_, ?_, ?_⟩
  · intro p rx lane n s hn
    exact ⟨_, exec_laneEvent_corrections hn rx lane, s.toNat_reg_count64 _ _,
      fun o ho => s.reg_setReg_other _ (List.ne_of_not_mem_cons ho), rfl⟩
  · intro p rx lane cause s hcause hfourth
    refine ⟨_, exec_laneEvent hcause rx lane, fun _ => ?_⟩
    rw [State.laneEvent_eq, State.causeCounted_laneEv, State.causeCounted_ft, hfourth]
    exact State.laneLasting_isLasting _ _ _ _
  · intro p rx lane s hlane
    obtain ⟨hstatus, hevent⟩ := State.laneLasting_shown lane.isLt hlane
    refine ⟨_, rfl, State.laneLasting_isLasting _ _ _ _, hstatus, hevent, fun i hrx hfirst hcfg hup hi => ?_⟩
    subst hrx
    rw [State.laneLasting_first hfirst hlane hcfg hup hi]
    exact ⟨_, State.giveNotice_rotation _ _ _, congrArg (· ++ _) (s.laneMarked_out p true lane)⟩
  · intro p rx sp i n s hup hrot hreached hspare
    exact ⟨_, exec_laneRotate hup hrot hreached hspare, s.laneMoved_logicalLane _ _ i.isLt hspare, s.laneMoved_status _ _ _ _,
      s.laneMoved_counted _ _ _ _, fabEv_shown _ (by decide) _ _, s.laneMoved_rotation _ _ _ _, s.laneMoved_eventFrame _ _ _ _,
      s.laneMoved_frame _ _ _ _⟩

end Sys2Proof.Proofs
end

section
/-! PROOFS. Links (R267, R271, R272): flits taken in order, and what the package keeps while it takes them. -/
namespace Sys2Proof.Machine
open Sys2Proof.Claims

/-! ## What taking a flit keeps (R271, R272) -/

/-- No register of a port is FAB_NODE. -/
theorem fabPort_ne_node {o : Nat} (h : Reg.fabPCfg 0 ≤ o) : o ≠ Reg.fabNode := by
  simp only [Reg.fabPCfg, Reg.fabNode] at *
  omega

theorem le_fabPStatus (p : Nat) : Reg.fabPCfg 0 ≤ Reg.fabPStatus p := by
  simp only [Reg.fabPCfg, Reg.fabPStatus]
  omega

theorem le_fabPCnt (p k : Nat) : Reg.fabPCfg 0 ≤ Reg.fabPCnt p k := by
  simp only [Reg.fabPCfg, Reg.fabPCnt]
  omega

/-- The counts and the time of a flit that was received in good order, and the credit that it returns. -/
def State.flitTaken (s : State) (p : Nat) (f : Flit) (l : LinkPart) : State :=
  { s.count64 (Reg.fabPCnt p 1) 1 with
    linkRx := Tbl.set 0 s.linkRx p ((l.lseq.toNat + 1) % 4096)
    freed := Tbl.set 0 s.freed (p * 8 + f.vc.toNat) (Tbl.get 0 s.freed (p * 8 + f.vc.toNat) + 1)
    unfreed := Tbl.set 0 s.unfreed (revPort p * 8 + l.cvc.toNat)
      (Tbl.get 0 s.unfreed (revPort p * 8 + l.cvc.toNat) - l.ccount.toNat) }

/-- What its ACK or NACK does to the port that it came from (R271). -/
def State.ackTaken (s : State) (p : Nat) (f : Flit) (l : LinkPart) : State :=
  if l.nack then (s.flitTaken p f l).nackPort (revPort p) l.ack.toNat else (s.flitTaken p f l).linkAcked (revPort p) l.ack.toNat

theorem State.takeLink_eq (s : State) (p : Nat) (f : Flit) (l : LinkPart) : s.takeLink p f l =
    pumpPort (revPort p) (Tbl.get [] (s.ackTaken p f l).portQ (revPort p)).length (s.ackTaken p f l) := rfl

theorem State.flitTaken_regs (s : State) (p : Nat) (f : Flit) (l : LinkPart) :
    (s.flitTaken p f l).regs = (s.count64 (Reg.fabPCnt p 1) 1).regs := rfl

/-- How many NACKs of an LSEQ have come in a row, this one included. -/
def State.nackCount (s : State) (p lseq : Nat) : Nat :=
  if (Tbl.get (0, 0) s.linkFail p).1 = lseq then (Tbl.get (0, 0) s.linkFail p).2 + 1 else 1

/-- A port whose retries start anew, and a port that sends again what its far end has not received. -/
def State.retriesOver (s : State) (p : Nat) : State := { s with linkFail := Tbl.set (0, 0) s.linkFail p (0, 0) }
def State.resent (s : State) (p lseq : Nat) : State :=
  { s with linkFail := Tbl.set (0, 0) s.linkFail p (lseq, s.nackCount p lseq)
           out := s.out ++ (Tbl.get [] s.linkBuf p).map fun e => OutMsg.again p e.1 e.2 }

theorem State.nackPort_eq (s : State) (p lseq : Nat) : s.nackPort p lseq =
    if Tbl.get [] (s.linkAcked p lseq).linkBuf p = [] then s.linkAcked p lseq
    else if 8 < (s.linkAcked p lseq).nackCount p lseq then
      (((s.linkAcked p lseq).retriesOver p).failedLaneEvents p lseq).setPort p 0
    else ((s.linkAcked p lseq).resent p lseq).count64 (Reg.fabPCnt p 2) (Tbl.get [] (s.linkAcked p lseq).linkBuf p).length := rfl

theorem State.linkAcked_regs (s : State) (p lseq : Nat) : (s.linkAcked p lseq).regs = s.regs := rfl

section
variable {P : State → Prop} (hP : RegKept (· ≠ Reg.fabNode) P) {s : State} (hs : P s)
include hP hs

theorem RegKept.portReg {o : Nat} (h : Reg.fabPCfg 0 ≤ o) (v : W64) : P (s.setReg o v) := hP.setReg v (fabPort_ne_node h) hs

theorem RegKept.laneLasting (p : Nat) (rx : Bool) (lane : Nat) : P (s.laneLasting p rx lane) := by
  have hmarked : P (s.laneMarked p rx lane) := hP.laneMarked (fun ht => hP.portReg ht (le_fabPStatus p) _) hs rx
  refine State.laneLasting_induction (fun _ => hs) hmarked ?_ fun i => hP.regs hmarked (State.giveNotice_regs _ p i)
  exact hP.degrade (fun rx => fabPort_ne_node (laneMap_ne p rx 0).2.2) (by decide)
    (fun ht => hP.portReg ht (le_fabPStatus p) _) hmarked

theorem RegKept.laneEvent (p : Nat) (rx : Bool) (lane : Nat) : P (s.laneEvent p rx lane) := by
  have hcounted : P (s.eventCounted p rx lane) := hP.regs (hP.portReg hs (le_fabPCnt p 5) _) rfl
  rw [State.laneEvent_eq]
  split
  · exact hP.laneLasting hcounted p rx lane
  · exact hcounted

theorem RegKept.failedLaneEvents (p lseq : Nat) : P (s.failedLaneEvents p lseq) := by
  unfold State.failedLaneEvents
  refine foldl_kept (fun t l ht => ?_) _ hs
  exact hP.laneEvent ht p false l

theorem RegKept.nackPort (p lseq : Nat) : P (s.nackPort p lseq) := by
  have hacked : P (s.linkAcked p lseq) := hP.regs hs (s.linkAcked_regs p lseq)
  have hover : P ((s.linkAcked p lseq).retriesOver p) := hP.regs hacked rfl
  have hresent : P ((s.linkAcked p lseq).resent p lseq) := hP.regs hacked rfl
  rw [s.nackPort_eq]
  split_ifs
  · exact hacked
  · exact hP.setPort (by decide) (fun ht => hP.portReg ht (le_fabPStatus p) _) (hP.failedLaneEvents hover p lseq)
  · exact hP.portReg hresent (le_fabPCnt p 2) _

theorem RegKept.takeLink (p : Nat) (f : Flit) (l : LinkPart) : P (s.takeLink p f l) := by
  have htaken : P (s.flitTaken p f l) := hP.regs (hP.portReg hs (le_fabPCnt p 1) _) (s.flitTaken_regs p f l)
  have hacked : P (s.ackTaken p f l) := by
    unfold State.ackTaken
    split
    · exact hP.nackPort htaken _ _
    · exact hP.regs htaken (State.linkAcked_regs _ _ _)
  rw [State.takeLink_eq]
  exact hP.pumpPort (fun p => fabPort_ne_node (le_fabPCnt p 0)) hacked _ _

end

/-- Taking the link part of a flit leaves the package's node number. -/
theorem State.takeLink_node (s : State) (p : Nat) (f : Flit) (l : LinkPart) : (s.takeLink p f l).node = s.node :=
  (RegKept.reg (o := Reg.fabNode) (by decide) (by decide) fun v => fld v 0 16 = s.node).takeLink rfl p f l

section
variable (s : State) (p : Nat) (f : Flit) (l : LinkPart)

theorem State.takeLink_sendFrame : SendFrame (s.ackTaken p f l) (s.takeLink p f l) := pumpPort_sendFrame _ _ _

theorem State.ackTaken_of_ack (h : l.nack = false) :
    s.ackTaken p f l = (s.flitTaken p f l).linkAcked (revPort p) l.ack.toNat := by
  rw [State.ackTaken, h]
  rfl

/-- A flit without a NACK moves LSEQ on (R271). -/
theorem State.takeLink_linkRx (h : l.nack = false) :
    Tbl.get 0 (s.takeLink p f l).linkRx p = (l.lseq.toNat + 1) % 4096 := by
  have hrx : (s.takeLink p f l).linkRx = Tbl.set 0 s.linkRx p ((l.lseq.toNat + 1) % 4096) := by
    rw [s.takeLink_sendFrame p f l, s.ackTaken_of_ack p f l h]
    rfl
  rw [hrx]
  exact Tbl.get_set_same _ _ _

theorem State.takeLink_mem_progs (h : l.nack = false) : (s.takeLink p f l).mem = s.mem ∧ (s.takeLink p f l).progs = s.progs := by
  rw [s.takeLink_sendFrame p f l, s.ackTaken_of_ack p f l h]
  exact ⟨rfl, rfl⟩

end

/-! ## Where a flit goes (R274) -/

section
variable {p : Fin 32} {f : Flit} {l : LinkPart} {s : State} (hready : s.portReady p = true)
include hready

/-- A flit out of order or with a bad CRC is answered with a NACK of the last good one (R271). -/
theorem exec_linkFlitReceive_bad (h : linkCrcOk f l = false ∨ l.lseq.toNat ≠ Tbl.get 0 s.linkRx p) :
    exec (.linkFlitReceive p f l) s =
      .next { s with out := s.out ++ [.linkNack (revPort p) ((Tbl.get 0 s.linkRx p + 4095) % 4096)] } := by
  show execLinkFlitReceive p f l s = _
  rw [execLinkFlitReceive, if_neg (by simp [hready]), if_pos h]
  rfl

variable (hcrc : linkCrcOk f l = true) (hseq : l.lseq.toNat = Tbl.get 0 s.linkRx p)
include hcrc hseq

/-- A flit in good order and for this package is taken by the rule of its type. -/
theorem exec_linkFlitReceive_deliver (hnode : s.node ≠ 0xFFFF) (hdst : f.dst.toNat = s.node) (hok : flitOk f = true)
    (htyp : f.typ.toNat ≠ 0x1F) : exec (.linkFlitReceive p f l) s = deliver f (s.takeLink p f l) := by
  show execLinkFlitReceive p f l s = _
  rw [execLinkFlitReceive, if_neg (by simp [hready]), if_neg (by simp [hcrc, hseq]), State.route, State.takeLink_node,
    if_neg htyp, if_neg (by simp [hok]), if_neg hnode, if_pos hdst]

end

/-! ## The rules of the types (R270, R299) -/

section
variable (f : Flit) (s : State)

theorem execCollHello_next : ∃ t, execCollHello f s = .next t := by
  unfold execCollHello
  dsimp only
  repeat' split
  all_goals exact ⟨_, rfl⟩

theorem execCollCredit_next : ∃ t, execCollCredit f s = .next t := by
  unfold execCollCredit
  dsimp only
  split <;> exact ⟨_, rfl⟩

theorem execCollSubst_next : ∃ t, execCollSubst f s = .next t := by
  unfold execCollSubst
  dsimp only
  repeat' split
  all_goals exact ⟨_, rfl⟩

theorem execCollAbort_next : ∃ t, execCollAbort f s = .next t := by
  unfold execCollAbort
  dsimp only
  repeat' split
  all_goals exact ⟨_, rfl⟩

theorem execCollTake_next : ∃ t, execCollTake f s = .next t := by
  unfold execCollTake
  dsimp only
  repeat' split
  all_goals exact ⟨_, rfl⟩

theorem deliverCtrl_next : ∃ t, deliverCtrl f s = .next t := by
  unfold deliverCtrl
  split
  · exact execCollHello_next f s
  · exact execCollCredit_next f s
  · exact execCollSubst_next f s
  · exact execCollAbort_next f s
  · exact execCollTake_next f s
  · exact ⟨_, rfl⟩

theorem execNack_next : ∃ t, execNack f s = .next t := by
  unfold execNack
  dsimp only
  repeat' split
  all_goals exact ⟨_, rfl⟩

theorem execCollData_next : ∃ t, execCollData f s = .next t := by
  unfold execCollData
  dsimp only
  repeat' split
  all_goals exact ⟨_, rfl⟩

theorem execDmaAck_next : ∃ t, execDmaAck f s = .next t := by
  unfold execDmaAck
  dsimp only
  repeat' split
  all_goals exact ⟨_, rfl⟩

theorem execPocketData_next : ∃ t, execPocketData f s = .next t := by
  unfold execPocketData
  dsimp only
  repeat' split
  all_goals exact ⟨_, rfl⟩

theorem execPocketAck_next : ∃ t, execPocketAck f s = .next t := by
  unfold execPocketAck
  dsimp only
  repeat' split
  all_goals exact ⟨_, rfl⟩

theorem execQuench_next : ∃ t, execQuench f s = .next t := by
  unfold execQuench
  dsimp only
  split <;> exact ⟨_, rfl⟩

theorem execQuenchAck_next : ∃ t, execQuenchAck f s = .next t := by
  unfold execQuenchAck
  dsimp only
  split_ifs <;> exact ⟨_, rfl⟩

theorem execMgmt_next : ∃ t, execMgmt f s = .next t := by
  unfold execMgmt
  dsimp only
  split <;> exact ⟨_, rfl⟩

/-- Every flit that is addressed to the package is taken: none faults. -/
theorem deliver_next : ∃ t, deliver f s = .next t := by
  unfold deliver
  split
  case h_7 => exact execNack_next f s
  case h_10 => exact execDmaAck_next f s
  case h_11 => exact execCollData_next f s
  case h_12 => exact deliverCtrl_next f s
  case h_15 => exact execPocketData_next f s
  case h_16 => exact execPocketAck_next f s
  case h_17 => exact execQuench_next f s
  case h_18 => exact execQuenchAck_next f s
  case h_19 => exact execMgmt_next f s
  all_goals exact ⟨_, rfl⟩

/-- The rule of a flit's type is the command of its type. -/
theorem deliver_eq_exec {c : Nat × (Flit → Instr)} (hc : c ∈ ([(0x01, .rdReq), (0x02, .rdRsp), (0x03, .wrReq), (0x04, .wrAck),
    (0x05, .atomReq), (0x06, .atomRsp), (0x07, .nack), (0x08, .dmaRd), (0x09, .dmaData), (0x0A, .dmaAck), (0x10, .collData),
    (0x16, .drainMark), (0x17, .drainEcho), (0x18, .pocketData), (0x19, .pocketAck), (0x1C, .quench), (0x1D, .quenchAck),
    (0x1E, .mgmt)] : List (Nat × (Flit → Instr)))) (h : f.typ.toNat = c.1) : deliver f s = exec (c.2 f) s := by
  simp only [List.mem_cons, List.not_mem_nil, or_false] at hc
  unfold deliver
  rcases hc with rfl | rfl | rfl | rfl | rfl | rfl | rfl | rfl | rfl | rfl | rfl | rfl | rfl | rfl | rfl | rfl | rfl | rfl <;>
    rw [h] <;> rfl

/-- The rule of a COLL_CTRL flit is the command of its kind (R299). -/
theorem deliver_ctrl_eq_exec {c : Nat × (Flit → Instr)} (hc : c ∈ ([(0, .collHello), (1, .collCredit), (2, .collSubst),
    (3, .collAbort), (4, .collTake)] : List (Nat × (Flit → Instr)))) (htyp : f.typ.toNat = 0x11)
    (h : f.trailer.toNat % 16 = c.1) : deliver f s = exec (c.2 f) s := by
  have hctrl : deliver f s = deliverCtrl f s := by
    unfold deliver
    rw [htyp]
    rfl
  have hkind : fld f.trailer 0 4 = c.1 := (congrArg (· % 16) (Nat.div_one _)).trans h
  rw [hctrl, deliverCtrl, hkind]
  simp only [List.mem_cons, List.not_mem_nil, or_false] at hc
  rcases hc with rfl | rfl | rfl | rfl | rfl <;> rfl

end

/-! ## NACKs and notices (R267, R271) -/

/-- The first NACK of an LSEQ sends again what follows it (R271). -/
theorem State.nackPort_first {s : State} {p lseq : Nat} (hrest : ackBuf lseq (Tbl.get [] s.linkBuf p) ≠ [])
    (hfail : Tbl.get (0, 0) s.linkFail p = (0, 0)) : s.nackPort p lseq =
      ((s.linkAcked p lseq).resent p lseq).count64 (Reg.fabPCnt p 2) (ackBuf lseq (Tbl.get [] s.linkBuf p)).length := by
  have hbuf : Tbl.get [] (s.linkAcked p lseq).linkBuf p = ackBuf lseq (Tbl.get [] s.linkBuf p) := Tbl.get_set_same _ _ _
  have hfail' : Tbl.get (0, 0) (s.linkAcked p lseq).linkFail p = (0, 0) := by
    unfold State.linkAcked
    dsimp only
    split
    · exact Tbl.get_set_same _ _ _
    · exact hfail
  have hcount : (s.linkAcked p lseq).nackCount p lseq = 1 := by
    rw [State.nackCount, hfail']
    split <;> rfl
  rw [s.nackPort_eq, hbuf, if_neg hrest, hcount, if_neg (by decide)]

end Sys2Proof.Machine
end

section
/-! PROOFS. Training (R268, R276): a port that trains shows its partner, numbers from 0, and runs on its healthy lanes. -/
namespace Sys2Proof.Machine
open Sys2Proof.Claims

section
variable {s t : State} (h : EventFrame s t)
include h

theorem EventFrame.linkRx : t.linkRx = s.linkRx := by rw [h]
theorem EventFrame.linkTx : t.linkTx = s.linkTx := by rw [h]
theorem EventFrame.linkBuf : t.linkBuf = s.linkBuf := by rw [h]
theorem EventFrame.portQ : t.portQ = s.portQ := by rw [h]

end

/-! ## The lanes of a port that trains (R267, R268) -/

theorem SendFrame.linkRx {s t : State} (h : SendFrame s t) : t.linkRx = s.linkRx := by rw [h]

/-- What training does about one logical lane: it moves off a lasting lane onto the healthy spare. -/
def trainLane (p : Nat) (rx : Bool) (s : State) (i : Nat) : State :=
  match s.spareLane p rx with
  | some l => if s.isLasting p rx (s.regF (laneMap p rx) (4 * i) 4) && !s.isLasting p rx l then s.moveLane p rx i l else s
  | none => s

theorem State.trainLanes_eq (s : State) (p : Nat) (rx : Bool) :
    s.trainLanes p rx = (List.range 8).foldl (trainLane p rx) s := rfl

/-- What a lane does that is moved, or not, training does. -/
theorem trainLane_induction {P : State → Prop} {s : State} {p i : Nat} {rx : Bool} (hs : P s)
    (hmove : ∀ l, P (s.moveLane p rx i l)) : P (trainLane p rx s i) := by
  unfold trainLane
  split
  · split
    · exact hmove _
    · exact hs
  · exact hs

theorem State.moveLane_frame (s : State) (p : Nat) (rx : Bool) (i l : Nat) : EventFrame s (s.moveLane p rx i l) :=
  .trans (s.setRegF_frame _ _ _ _) (State.setRegF_frame _ _ _ _ _)

theorem State.trainLanes_frame (s : State) (p : Nat) (rx : Bool) : EventFrame s (s.trainLanes p rx) := by
  rw [s.trainLanes_eq]
  refine foldl_keeps (R := EventFrame) .refl .trans (fun s i => ?_) _ s
  exact trainLane_induction (P := fun t => EventFrame s t) (.refl s) fun l => s.moveLane_frame p rx i l

/-- Training a direction writes its lane map and the bit of its port's status that shows a rotation. -/
theorem RegKept.trainLanes {W : Nat → Prop} {P : State → Prop} (hP : RegKept W P) {p : Nat} {rx : Bool} (hmap : W (laneMap p rx))
    (hbit : ∀ {t : State}, P t → P (t.setRegB (Reg.fabPStatus p) (if rx then 4 else 3) true)) {s : State} (hs : P s) :
    P (s.trainLanes p rx) := by
  rw [s.trainLanes_eq]
  refine foldl_kept (fun t i ht => ?_) _ hs
  exact trainLane_induction (P := P) ht fun l => hbit (hP.setReg _ hmap ht)

/-- A port that trained, before its lanes are set: it is UP and shows its partner. -/
def State.partnered (s : State) (p far : Nat) : State := (s.setPort p 2).setRegF (Reg.fabPStatus p) 16 16 far

/-- The lanes of a port that trained: DEGRADED where a direction has fewer than eight. -/
def State.lanesTrained (s : State) (p : Nat) (few : Prop) [Decidable few] : State :=
  if few then s.degrade p else (s.trainLanes p false).trainLanes p true

/-- No rotation of a port is due. -/
def State.noRotations (s : State) (p : Nat) : State := (s.setRotation p false none).setRotation p true none

/-- The link of a port starts anew. -/
def State.linkReset (s : State) (p : Nat) : State :=
  { s with
    linkTx := Tbl.set 0 s.linkTx p 0
    linkRx := Tbl.set 0 s.linkRx p 0
    linkBuf := Tbl.set [] s.linkBuf p []
    linkFail := Tbl.set (0, 0) s.linkFail p (0, 0)
    freed := clearVcs p s.freed
    unfreed := clearVcs p s.unfreed
    arb := Tbl.set Arb.init s.arb p Arb.init }

/-- A ring port that shows a new partner logs it. -/
def State.partnerShown (s : State) (p far was : Nat) : State := if 28 ≤ p ∧ was ≠ far then s.fabEv 11 p far else s

/-- The port's lanes once it has trained. -/
def State.lanesRun (s : State) (p far : Nat) : State := (s.partnered p far).lanesTrained p
  ((s.healthyLanes p false).length < 8 ∨ (s.healthyLanes p true).length < 8)

/-- A port that trained, before its waiting flits go out. -/
def State.trained (s : State) (p far : Nat) : State :=
  (((s.lanesRun p far).noRotations p).linkReset p).partnerShown p far (s.regF (Reg.fabPStatus p) 16 16)

theorem exec_linkTrainDone {p : Fin 32} {s : State} (htrain : s.canTrain p = true) (hdown : s.portReady p = false)
    (htx : 4 ≤ (s.healthyLanes p false).length) (hrx : 4 ≤ (s.healthyLanes p true).length) (far : BitVec 16) :
    exec (.linkTrainDone p far) s =
      .next (pumpPort p (Tbl.get [] (s.trained p far.toNat).portQ p).length (s.trained p far.toNat)) := by
  show execLinkTrainDone p far s = _
  rw [execLinkTrainDone, if_neg (by simp [htrain, hdown])]
  dsimp only
  rw [if_neg (by omega)]
  unfold State.trained State.partnerShown State.linkReset State.noRotations State.lanesRun State.lanesTrained State.partnered
  rfl

theorem State.noRotations_regs (s : State) (p : Nat) : (s.noRotations p).regs = s.regs := rfl
theorem State.noRotations_portQ (s : State) (p : Nat) : (s.noRotations p).portQ = s.portQ := rfl
theorem State.linkReset_regs (s : State) (p : Nat) : (s.linkReset p).regs = s.regs := rfl
theorem State.linkReset_portQ (s : State) (p : Nat) : (s.linkReset p).portQ = s.portQ := rfl

/-- What registers of the port hold once its lanes run, they hold when it has trained. -/
theorem RegKept.trained {o : Nat} {Q : W64 → Prop} (hlow : Reg.fabPCfg 0 ≤ o) (hcnt : ∀ p, Reg.fabPCnt p 0 ≠ o) {s : State}
    {p far : Nat} (h : Q ((s.lanesRun p far).reg o)) (n : Nat) : Q ((Machine.pumpPort p n (s.trained p far)).reg o) := by
  have hP := RegKept.port hlow Q
  have hreset : Q ((((s.lanesRun p far).noRotations p).linkReset p).reg o) := 
    hP.regs h ((State.linkReset_regs _ p).trans (State.noRotations_regs _ p))
  have htrained : Q ((s.trained p far).reg o) := by
    unfold State.trained State.partnerShown
    split
    · exact hP.fabEv hreset _ _ _
    · exact hreset
  exact hP.pumpPort hcnt htrained p n

section
variable (s : State) (p far : Nat)

theorem State.partnered_frame : EventFrame s (s.partnered p far) := (s.setPort_frame p 2).trans (State.setRegF_frame _ _ _ _ _)

theorem State.lanesRun_frame : EventFrame s (s.lanesRun p far) := by
  refine (s.partnered_frame p far).trans ?_
  unfold State.lanesRun State.lanesTrained
  split
  · exact State.degrade_frame _ _
  · exact (State.trainLanes_frame _ _ _).trans (State.trainLanes_frame _ _ _)

theorem State.partnered_healthyLanes (rx : Bool) : (s.partnered p far).healthyLanes p rx = s.healthyLanes p rx := by
  unfold State.healthyLanes State.isLasting
  rw [s.partnered_frame p far]

theorem State.partnered_portState : (s.partnered p far).portState p = 2 :=
  (State.regF_setRegF_field _ _ _ _ _ _ _ (.inl (by decide))).trans (s.portState_setPort (by decide))

variable {s p far}

/-- A port that degrades with enough lanes, and was UP, is DEGRADED. -/
theorem State.degrade_portState (htx : 4 ≤ (s.healthyLanes p false).length) (hrx : 4 ≤ (s.healthyLanes p true).length) :
    (s.degrade p).portState p = 3 := by
  have hlanes : ¬ ((s.healthyLanes p false).length < 4 ∨ (s.healthyLanes p true).length < 4) := by omega
  have hP : RegKept (· ≠ Reg.fabPStatus p) fun t => fld (t.reg (Reg.fabPStatus p)) 0 3 = 3 :=
    .port (le_fabPStatus p) fun v => fld v 0 3 = 3
  rw [s.degrade_eq, if_neg hlanes]
  split
  case isTrue hstate => exact hP.fourLanes (fun rx => (laneMap_ne p rx 0).1) hstate
  case isFalse => exact hP.fabEv (State.portState_setPort _ (by decide)) _ _ _

/-- The port shows its partner, and is DEGRADED where a direction has fewer than eight healthy lanes (R268, R276). -/
theorem State.lanesRun_far (hfar : far < 2 ^ 16) : (s.lanesRun p far).regF (Reg.fabPStatus p) 16 16 = far := by
  have hP : RegKept (· ≠ Reg.fabPStatus p) fun t => fld (t.reg (Reg.fabPStatus p)) 16 16 = far :=
    .port (le_fabPStatus p) fun v => fld v 16 16 = far
  have hkept {t : State} {lo len x : Nat} (hlo : lo + len ≤ 16) (ht : t.regF (Reg.fabPStatus p) 16 16 = far) :
      (t.setRegF (Reg.fabPStatus p) lo len x).regF (Reg.fabPStatus p) 16 16 = far :=
    (State.regF_setRegF_field _ _ _ _ _ _ _ (.inr hlo)).trans ht
  have hpartner : (s.partnered p far).regF (Reg.fabPStatus p) 16 16 = far :=
    (State.regF_setRegF_same _ _ _ _ _ (by decide)).trans (Nat.mod_eq_of_lt hfar)
  have hbit (rx : Bool) : (if rx then 4 else 3) + 1 ≤ 16 := by cases rx <;> decide
  unfold State.lanesRun State.lanesTrained
  split
  · exact hP.degrade (fun rx => (laneMap_ne p rx 0).1) (by simp only [Reg.fabStatus, Reg.fabPStatus]; omega)
      (hkept (by decide)) hpartner
  · exact hP.trainLanes (laneMap_ne p true 0).1 (hkept (hbit true))
      (hP.trainLanes (laneMap_ne p false 0).1 (hkept (hbit false)) hpartner)

theorem State.lanesRun_portState (htx : 4 ≤ (s.healthyLanes p false).length) (hrx : 4 ≤ (s.healthyLanes p true).length) :
    (s.lanesRun p far).portState p =
      if (s.healthyLanes p false).length < 8 ∨ (s.healthyLanes p true).length < 8 then 3 else 2 := by
  have hP : RegKept (· ≠ Reg.fabPStatus p) fun t => fld (t.reg (Reg.fabPStatus p)) 0 3 = 2 :=
    .port (le_fabPStatus p) fun v => fld v 0 3 = 2
  have hkept {t : State} {lo : Nat} (hlo : 3 ≤ lo) (ht : t.portState p = 2) :
      (t.setRegB (Reg.fabPStatus p) lo true).portState p = 2 :=
    (State.regF_setRegF_field _ _ _ _ _ _ _ (.inl hlo)).trans ht
  have hbit (rx : Bool) : 3 ≤ if rx then 4 else 3 := by cases rx <;> decide
  unfold State.lanesRun State.lanesTrained
  split
  · refine State.degrade_portState ?_ ?_ <;> rwa [State.partnered_healthyLanes]
  · exact hP.trainLanes (laneMap_ne p true 0).1 (hkept (hbit true))
      (hP.trainLanes (laneMap_ne p false 0).1 (hkept (hbit false)) (s.partnered_portState p far))

end

section
variable (s : State) (p far n : Nat)

theorem State.partnerShown_frame (was : Nat) : EventFrame s (s.partnerShown p far was) := by
  unfold State.partnerShown
  split
  · exact fabEv_frame _ _ _ _
  · exact .refl s

theorem State.trained_frame : EventFrame (((s.lanesRun p far).noRotations p).linkReset p) (s.trained p far) := by
  unfold State.trained
  exact State.partnerShown_frame _ _ _ _

theorem State.linkReset_link : Tbl.get 0 (s.linkReset p).linkRx p = 0 ∧ Tbl.get 0 (s.linkReset p).linkTx p = 0 ∧
    Tbl.get [] (s.linkReset p).linkBuf p = [] := by
  have hrx : (s.linkReset p).linkRx = Tbl.set 0 s.linkRx p 0 := rfl
  have htx : (s.linkReset p).linkTx = Tbl.set 0 s.linkTx p 0 := rfl
  have hbuf : (s.linkReset p).linkBuf = Tbl.set [] s.linkBuf p [] := rfl
  rw [hrx, htx, hbuf]
  exact ⟨Tbl.get_set_same _ _ _, Tbl.get_set_same _ _ _, Tbl.get_set_same _ _ _⟩

theorem State.trained_portQ : (s.trained p far).portQ = s.portQ :=
  ((s.trained_frame p far).portQ.trans ((State.linkReset_portQ _ p).trans (State.noRotations_portQ _ p))).trans
    (s.lanesRun_frame p far).portQ

/-- Numbering starts anew (R271, R276). -/
theorem State.trained_link : Tbl.get 0 (s.trained p far).linkRx p = 0 ∧ Tbl.get 0 (s.trained p far).linkTx p = 0 ∧
    Tbl.get [] (s.trained p far).linkBuf p = [] := by
  rw [(s.trained_frame p far).linkRx, (s.trained_frame p far).linkTx, (s.trained_frame p far).linkBuf]
  exact State.linkReset_link _ p

/-- A ring port that trains with a new partner shows it. -/
theorem State.trained_event {s : State} {p far : Nat} (hp : 28 ≤ p) (h : s.regF (Reg.fabPStatus p) 16 16 ≠ far) :
    (s.trained p far).regB Reg.fabEvent 11 = true := by
  rw [State.trained, State.partnerShown, if_pos ⟨hp, h⟩]
  exact fabEv_shown _ (by decide) _ _

end

/-- `t` is `s` but for its registers, the flits a port keeps, its retries, and the messages. -/
def ResendFrame (s t : State) : Prop :=
  t = { s with regs := t.regs, linkBuf := t.linkBuf, linkFail := t.linkFail, out := t.out }

theorem ResendFrame.trans {s t u : State} (h1 : ResendFrame s t) (h2 : ResendFrame t u) : ResendFrame s u := by
  unfold ResendFrame at *
  rw [h2, h1]

theorem State.linkAcked_resendFrame (s : State) (p lseq : Nat) : ResendFrame s (s.linkAcked p lseq) := rfl
theorem State.resent_resendFrame (s : State) (p lseq : Nat) : ResendFrame s (s.resent p lseq) := rfl
theorem State.count64_resendFrame (s : State) (o k : Nat) : ResendFrame s (s.count64 o k) := rfl

theorem State.rotation_setRotation (s : State) (p : Nat) (rx : Bool) (r : Option (Nat × Nat)) :
    (s.setRotation p rx r).rotation p rx = r := by
  have hrotate : (s.setRotation p rx r).rotate = Tbl.set none s.rotate (2 * p + bnat rx) r := rfl
  rw [State.rotation, hrotate]
  exact Tbl.get_set_same _ _ _

end Sys2Proof.Machine
end

section
/-! PROOFS. Links and lanes of the fabric: O39. -/
namespace Sys2Proof.Proofs
open Sys2Proof Sys2Proof.Machine Sys2Proof.Claims

/-- The first NACK of an LSEQ has what follows it sent again (R271). -/
theorem linkNack_resends (p : Fin 32) (lseq : BitVec 12) (s : State) (hready : s.portReady (revPort p) = true)
    (hrest : ackBuf lseq.toNat (Tbl.get [] s.linkBuf (revPort p)) ≠ [])
    (hfail : Tbl.get (0, 0) s.linkFail (revPort p) = (0, 0)) :
    let q := revPort p
    let rest := ackBuf lseq.toNat (Tbl.get [] s.linkBuf q)
    ∃ t, exec (.linkNack p lseq) s = .next t ∧ Tbl.get [] t.linkBuf q = rest ∧
      t.out = s.out ++ rest.map (fun e => .again q e.1 e.2) ∧ Counted s t (Reg.fabPCnt q 2) rest.length ∧
      OnlyRegs s t [Reg.fabPCnt q 2] ∧
      t = { s with regs := t.regs, linkBuf := t.linkBuf, linkFail := t.linkFail, out := t.out } := by
  intro q rest
  have hexec : exec (.linkNack p lseq) s = .next (s.nackPort q lseq.toNat) :=
    congrArg Host.Outcome.next (if_pos hready)
  have hbuf : Tbl.get [] (s.linkAcked q lseq.toNat).linkBuf q = rest := Tbl.get_set_same _ _ _
  rw [hexec, State.nackPort_first hrest hfail]
  have hout : ((s.linkAcked q lseq.toNat).resent q lseq.toNat).out = s.out ++
      (Tbl.get [] (s.linkAcked q lseq.toNat).linkBuf q).map fun e => .again q e.1 e.2 := rfl
  have hregs : ((s.linkAcked q lseq.toNat).resent q lseq.toNat).regs = s.regs := rfl
  have hreg (o : Nat) : ((s.linkAcked q lseq.toNat).resent q lseq.toNat).reg o = s.reg o := by rw [State.reg, hregs]; rfl
  refine ⟨_, rfl, hbuf, hout.trans (by rw [hbuf]), ?_, fun o ho => ?_, ?_⟩
  · rw [Counted, State.toNat_reg_count64, hreg]
  · exact (State.reg_setReg_other _ _ (List.ne_of_not_mem_cons ho)).trans (hreg o)
  · exact ((s.linkAcked_resendFrame _ _).trans (State.resent_resendFrame _ _ _)).trans (State.count64_resendFrame _ _ _)

/-- A notice on VC0 is taken by the far transmitter's end (R267). -/
theorem linkCtrl_notice (p : Fin 32) (f : Flit) (gs : List Granule) (s : State) (hready : s.portReady p = true)
    (htyp : f.typ.toNat = 0x1F) (hvc : f.vc = 0) (hwords : f.words = cleanWords gs) :
    ∃ t, exec (.linkCtrl p f) s = .next t ∧ (Config.rotateNotice f.trailer = none → t = s) ∧
      ∀ n, Config.rotateNotice f.trailer = some n → t.rotation (revPort p) false = some (n.1.toNat, n.2.toNat) ∧
        t = { s with rotate := t.rotate } := by
  have hexec : exec (.linkCtrl p f) s = .next (s.linkCtrlFlit p f) := congrArg Host.Outcome.next (if_pos hready)
  have hclean : (s.takeWords f.words).1 = s := by rw [hwords, State.takeWords_clean]
  rw [hexec, State.linkCtrlFlit, if_pos ⟨htyp, hvc⟩, hclean]
  refine ⟨_, rfl, fun hnone => by rw [hnone], fun n hn => ?_⟩
  rw [hn]
  exact ⟨s.rotation_setRotation _ _ _, rfl⟩

/-- A port that trains shows its partner and numbers from 0 (R268, R276). -/
theorem linkTrainDone_trains (p : Fin 32) (far : BitVec 16) (s : State) (htrain : s.canTrain p = true)
    (hdown : s.portReady p = false) (htx : 4 ≤ (s.healthyLanes p false).length) (hrx : 4 ≤ (s.healthyLanes p true).length) :
    ∃ t, exec (.linkTrainDone p far) s = .next t ∧ t.regF (Reg.fabPStatus p) 16 16 = far.toNat ∧
      t.regF (Reg.fabPStatus p) 0 3 =
        (if (s.healthyLanes p false).length < 8 ∨ (s.healthyLanes p true).length < 8 then 3 else 2) ∧
      Tbl.get 0 t.linkRx p = 0 ∧ (Tbl.get [] s.portQ p = [] → Tbl.get 0 t.linkTx p = 0 ∧ Tbl.get [] t.linkBuf p = []) ∧
      (28 ≤ p.val → s.regF (Reg.fabPStatus p) 16 16 ≠ far.toNat → t.regB Reg.fabEvent 11 = true) := by
  obtain ⟨hlrx, hltx, hbuf⟩ := s.trained_link p far.toNat
  have hcnt : ∀ q, Reg.fabPCnt q 0 ≠ Reg.fabPStatus p := fun q => by simp only [Reg.fabPCnt, Reg.fabPStatus]; omega
  refine ⟨_, exec_linkTrainDone htrain hdown htx hrx far, ?_, ?_, ?_, fun hempty => ?_, fun hp hnew => ?_⟩
  · exact RegKept.trained (Q := fun v => fld v 16 16 = far.toNat) (le_fabPStatus p) hcnt (State.lanesRun_far far.isLt) _
  · exact RegKept.trained (Q := fun v => fld v 0 3 = _) (le_fabPStatus p) hcnt (State.lanesRun_portState htx hrx) _
  · exact (congrArg (Tbl.get 0 · p.val) (pumpPort_sendFrame _ _ _).linkRx).trans hlrx
  · rw [s.trained_portQ, hempty]
    exact ⟨hltx, hbuf⟩
  · have hport : ∀ q, Reg.fabPCnt q 0 ≠ Reg.fabEvent := fun q => by simp only [Reg.fabPCnt, Reg.fabEvent]; omega
    exact (RegKept.eventBit (b := 11) (by decide)).pumpPort hport (State.trained_event hp hnew) _ _

theorem links : Parts.Links := by
  refine ⟨fun p f l s hready => ⟨exec_linkFlitReceive_bad hready, ?_, ?_⟩, fun p f l s hack => ?_, linkNack_resends,
    linkCtrl_notice, linkTrainDone_trains⟩
  · intro hcrc hseq hnode hdst hok c hc htyp
    have hne : f.typ.toNat ≠ 0x1F := by
      simp only [List.mem_cons, List.not_mem_nil, or_false] at hc
      rw [htyp]
      rcases hc with rfl | rfl | rfl | rfl | rfl | rfl | rfl | rfl | rfl | rfl | rfl | rfl | rfl | rfl | rfl | rfl | rfl | rfl <;>
        decide
    obtain ⟨t, ht⟩ := deliver_next f (s.takeLink p f l)
    exact ⟨t, (exec_linkFlitReceive_deliver hready hcrc hseq hnode hdst hok hne).trans ht,
      (deliver_eq_exec f _ hc htyp).symm.trans ht⟩
  · intro hcrc hseq hnode hdst hok htyp c hc hkind
    obtain ⟨t, ht⟩ := deliver_next f (s.takeLink p f l)
    exact ⟨t, (exec_linkFlitReceive_deliver hready hcrc hseq hnode hdst hok (by rw [htyp]; decide)).trans ht,
      (deliver_ctrl_eq_exec f _ hc htyp hkind).symm.trans ht⟩
  · exact ⟨s.takeLink_linkRx p f l hack, s.takeLink_mem_progs p f l hack⟩

/-- Settles O39: the link part of a flit and its route, the NACKs and notices, training, and the lanes one by one. -/
theorem linksAndLanes : Obligations.LinksAndLanes := ⟨links, lanes⟩

end Sys2Proof.Proofs
end

section
/-! PROOFS. Responses (R270, R282 to R284): a request or a chunk that is over, and what came for it. -/
namespace Sys2Proof.Machine
open Sys2Proof.Claims

/-! ## A request or chunk is no longer outstanding (R283) -/

section
variable (s : State) (dst vc : Nat)

theorem State.settled_frame : s.settled dst vc =
    { s with flows := (s.settled dst vc).flows, outst := (s.settled dst vc).outst, wroteTo := (s.settled dst vc).wroteTo } :=
  rfl

theorem State.settled_settled : Settled s (s.settled dst vc) dst := by
  have houtst : (s.settled dst vc).outst = Tbl.set 0 s.outst dst (s.outstTo dst - 1) := rfl
  have hwrote : (s.settled dst vc).wroteTo =
      if s.outstTo dst - 1 = 0 then s.wroteTo.filter fun p => p.2 != dst else s.wroteTo := rfl
  refine ⟨?_, fun d hd => ?_, ?_⟩
  · rw [State.outstTo, houtst, Tbl.get_set_same]
  · rw [State.outstTo, houtst, Tbl.get_set_other _ _ hd, State.outstTo]
  · rw [hwrote]
    exact if_congr Nat.sub_eq_zero_iff_le rfl rfl

end

/-- What is settled depends on the counts and the writes alone. -/
theorem settled_congr {s s1 t t1 : State} {dst : Nat} (h : Settled s t dst) (houtst : s1.outst = s.outst)
    (hwrote : s1.wroteTo = s.wroteTo) (houtst' : t1.outst = t.outst) (hwrote' : t1.wroteTo = t.wroteTo) :
    Settled s1 t1 dst := by
  unfold Settled State.outstTo at *
  rwa [houtst, hwrote, houtst', hwrote']

theorem pumpReqs_of_empty {s : State} (h : s.reqQ = []) (dst : Nat) : pumpReqs dst s.reqQ.length s = s := by
  rw [h]
  rfl

/-- A request is over: nothing waits for the limits of its flow, and no program for its acknowledgement. -/
theorem State.retire_eq {s : State} (hend : NoneEnding s) (hwait : NoneWaiting s) (q : OutReq) :
    s.retire q = { s with reqs := s.reqs.erase q }.settled q.dst q.vc := by
  obtain ⟨hreqs, -, -⟩ := hwait
  show ((pumpReqs q.dst _ (State.settled { s with reqs := s.reqs.erase q } q.dst q.vc))).settleCores = _
  rw [pumpReqs_of_empty (s := State.settled { s with reqs := s.reqs.erase q } q.dst q.vc) hreqs]
  exact State.settleCores_of_noneEnding (noneEnding_congr hend rfl)

section
variable {s : State} (hend : NoneEnding s) (hwait : NoneWaiting s) (q : OutReq)
include hend hwait

theorem State.retire_retired : Retired s (s.retire q) q := by
  rw [State.retire_eq hend hwait]
  exact ⟨rfl, State.settled_settled { s with reqs := s.reqs.erase q } q.dst q.vc⟩

theorem State.retire_frame : s.retire q =
    { s with reqs := (s.retire q).reqs, flows := (s.retire q).flows, outst := (s.retire q).outst,
             wroteTo := (s.retire q).wroteTo } := by
  rw [State.retire_eq hend hwait]
  exact State.settled_frame _ _ _

end

theorem noneWaiting_congr {s t : State} (h : NoneWaiting s) (hreqs : t.reqQ = s.reqQ) (hchunks : t.chunkQ = s.chunkQ)
    (hflows : t.rxFlows = s.rxFlows) : NoneWaiting t := by
  rwa [NoneWaiting, hreqs, hchunks, hflows]

theorem retired_congr {s s1 t t1 : State} {q : OutReq} (h : Retired s t q) (hreqs : s1.reqs = s.reqs) (houtst : s1.outst = s.outst)
    (hwrote : s1.wroteTo = s.wroteTo) (hreqs' : t1.reqs = t.reqs) (houtst' : t1.outst = t.outst)
    (hwrote' : t1.wroteTo = t.wroteTo) : Retired s1 t1 q := by
  obtain ⟨hover, hsettled⟩ := h
  exact ⟨by rw [hreqs, hreqs', hover], settled_congr hsettled houtst hwrote houtst' hwrote'⟩

/-! ## Responses (R270) -/

section
variable {s : State} {f : Flit} {q : OutReq} {rsp typ : Nat} (hacc : Accepted s f rsp) (hans : s.answered f typ = some q)
include hacc hans

/-- A response with data: it reaches the accesses that its request serves, and the request is over. -/
theorem State.response_data {g : Granule} (hwords : f.words = cleanWords [g]) (htyp : typ ≠ 3) : s.response f rsp typ =
    ((s.fill q g (decide (f.trailer.toNat % 256 ≠ 0))).retire q).answer (granuleBytes g)
      (decide (f.trailer.toNat % 256 ≠ 0)) := by
  have hbad : (false || fld f.trailer 0 8 != 0) = decide (f.trailer.toNat % 256 ≠ 0) := by
    simp only [fld, Nat.pow_zero, Nat.div_one, Bool.false_or, bne, decide_not, Nat.reducePow]
    rfl
  rw [← hbad]
  unfold State.response
  dsimp only
  rw [accept_of_accepted hacc, if_neg Bool.false_ne_true.symm]
  dsimp only
  rw [hans, hwords, State.takeWords_clean]
  exact if_neg htyp

theorem State.response_ack (hwords : f.words = []) (htyp : typ = 3) : s.response f rsp typ = s.retire q := by
  unfold State.response
  dsimp only
  rw [accept_of_accepted hacc, if_neg Bool.false_ne_true.symm]
  dsimp only
  rw [hans, hwords]
  exact if_pos htyp

end

/-! ## A request of a unit that runs no program (R281, R282) -/

theorem State.failIssuer_of_no_unit {r : Req} (h : reqUnit r = none) (s : State) (st : Nat) : s.failIssuer r st = s := by
  rw [State.failIssuer, h]

/-- FAB_LAST_ERR with an address, and an event of the FAB block: what a NACK and a timeout tell. -/
def State.errorTold (s : State) (ga b : Nat) (unit detail : Option Nat) : State :=
  (s.setReg Reg.fabLastErr (BitVec.ofNat 64 ga)).fabEv b unit detail

section
variable (s : State) (ga b : Nat) (unit detail : Option Nat)

theorem State.errorTold_frame : EventFrame s (s.errorTold ga b unit detail) :=
  .trans (s.setReg_frame _ _) (fabEv_frame _ _ _ _)

theorem State.errorTold_lastErr : (s.errorTold ga b unit detail).reg Reg.fabLastErr = BitVec.ofNat 64 ga :=
  (State.event_reg_of_ge _ _ _ _ _ _ (by decide) (by decide)).trans (State.reg_setReg_same _ _ _)

theorem State.errorTold_shown {b : Nat} (h : b < 64) : (s.errorTold ga b unit detail).regB Reg.fabEvent b = true :=
  fabEv_shown _ h _ _

theorem State.errorTold_reg_other {o : Nat} (hlow : Reg.fabCfg ≤ o) (hev : o ≠ Reg.fabEvent) (herr : o ≠ Reg.fabLastErr) :
    (s.errorTold ga b unit detail).reg o = s.reg o :=
  (State.event_reg_of_ge _ _ _ _ _ _ (by simp only [Reg.fabCfg, Reg.msixPba] at *; omega) hev).trans
    (State.reg_setReg_other _ _ herr)

theorem State.errorTold_eventFrame :
    Claims.EventFrame s (s.errorTold ga b unit detail) [Reg.fabLastErr, Reg.fabEvent] :=
  eventFrame_of_setReg (by decide) (State.event_touches _ _ _ _ _ (by decide))

end

theorem State.remoteTimeout_eq (s : State) (dst ga : Nat) :
    s.remoteTimeout dst ga = (s.count64 (Reg.fabCnt 9) 1).errorTold ga 0 dst ga := rfl

theorem State.remoteTimeout_frame (s : State) (dst ga : Nat) : EventFrame s (s.remoteTimeout dst ga) :=
  .trans (s.count64_frame _ _) (State.errorTold_frame _ _ _ _ _)

theorem State.remoteTimeout_counted (s : State) (dst ga : Nat) : Counted s (s.remoteTimeout dst ga) (Reg.fabCnt 9) 1 := by
  rw [Counted, State.remoteTimeout_eq, State.errorTold_reg_other _ _ _ _ _ (by decide) (by decide) (by decide)]
  exact State.toNat_reg_count64 _ _ _

theorem State.remoteTimeout_eventFrame (s : State) (dst ga : Nat) :
    Claims.EventFrame s (s.remoteTimeout dst ga) [Reg.fabCnt 9, Reg.fabLastErr, Reg.fabEvent] :=
  eventFrame_of_setReg (by decide) (State.errorTold_eventFrame _ _ _ _ _)

/-- What an event touches is told by the registers, memory and the poison. -/
theorem eventFrame_congr {s t t1 : State} {offs : List Nat} (h : Claims.EventFrame s t offs) (hregs : t1.regs = t.regs)
    (hmem : t1.mem = t.mem) (hpoison : t1.poison = t.poison) : Claims.EventFrame s t1 offs := by
  unfold Claims.EventFrame EventRegs State.reg State.byte State.poisoned at *
  rwa [hregs, hmem, hpoison]

/-! ## Chunks (R284) -/

/-- What a chunk leaves to its owner stands in the DMAs and the transfer. -/
theorem State.chunkOwner_frame (s : State) (c : ChunkTx) (failed : List Nat) : s.chunkOwner c failed =
    { s with dmas := (s.chunkOwner c failed).dmas, xfer := (s.chunkOwner c failed).xfer } := by
  unfold State.chunkOwner
  split
  · split <;> rfl
  · split <;> rfl

/-- A chunk's entry is dropped and it is no longer outstanding. -/
def State.chunkDropped (s : State) (c : ChunkTx) : State :=
  State.settled { s with chunksTx := s.chunksTx.filter fun x => !sameChunk c x } c.dst 6

theorem State.chunkDropped_frame (s : State) (c : ChunkTx) : s.chunkDropped c =
    { s with chunksTx := s.chunksTx.filter (fun x => !sameChunk c x), flows := (s.chunkDropped c).flows,
             outst := (s.chunkDropped c).outst, wroteTo := (s.chunkDropped c).wroteTo } :=
  State.settled_frame _ _ _

theorem State.chunkDropped_settled (s : State) (c : ChunkTx) : Settled s (s.chunkDropped c) c.dst :=
  State.settled_settled { s with chunksTx := s.chunksTx.filter fun x => !sameChunk c x } c.dst 6

theorem State.chunkOver_eq {s : State} (h : s.chunkQ = []) (c : ChunkTx) (failed : List Nat) :
    s.chunkOver c failed = (s.chunkDropped c).chunkOwner c failed := by
  have hq : ((s.chunkDropped c).chunkOwner c failed).chunkQ = [] := by
    rw [State.chunkOwner_frame, State.chunkDropped_frame]
    exact h
  show pumpChunks c.dst ((s.chunkDropped c).chunkOwner c failed).chunkQ.length _ = _
  rw [hq]
  rfl

end Sys2Proof.Machine
end

section
/-! PROOFS. What a unit's stores and the end of its program keep of the registers that they do not write (R23, R151, R283). -/
namespace Sys2Proof.Machine
open Sys2Proof.Claims

/-! ## Stores in the package's own memory (R23, R255, R286) -/

section
variable {W : Nat → Prop} {P : State → Prop} (hP : RegKept W P) {s : State} (hs : P s)
include hP hs

theorem RegKept.eventLow (blk bit : Nat) (unit detail : Option Nat) {ev : Nat} (hev : ev < Reg.fabCfg) :
    P (s.event blk ev bit unit detail) := hP.event hs _ _ _ _ (.inl (hP.low hev))

theorem RegKept.hostBytes {k : Nat} (hk : k < 16) (a n : Nat) : P (s.hostBytes k a n) := by
  unfold State.hostBytes
  split
  · exact hP.count64 hs n (hP.low (by simp only [Reg.hubCnt, Reg.fabCfg]; omega))
  · exact hs

theorem RegKept.mergeEvent (g : Nat) : P (s.mergeEvent g) := by
  have hlast : Reg.memCLastErr (homePkg s.grade (32 * g)) < Reg.fabCfg := by
    have := homePkg_lt s.grade (32 * g)
    simp only [Reg.memCLastErr, Reg.fabCfg]
    omega
  have hmem (n : Nat) := hP.eventLow (hP.setReg (BitVec.ofNat 64 (32 * g)) (hP.low hlast) hs) 4 1 n (some (32 * g))
    (ev := Reg.memEvent) (by decide)
  unfold State.mergeEvent
  split
  · exact hmem _
  · exact hmem _
  · exact hs
  · exact hP.eventLow hs _ _ _ _ (by decide)

theorem RegKept.storeNow (a : Nat) (bs : List Byte) : P (s.storeNow a bs) := by
  have hstored : P (s.storeBytes a bs) := hP.regs hs rfl
  unfold State.storeNow
  refine foldl_kept (fun t g ht => ?_) _ (hP.hostBytes hstored (by decide) _ _)
  exact hP.mergeEvent ht g

theorem RegKept.poisonNow (a n : Nat) : P (s.poisonNow a n) :=
  hP.hostBytes (hP.regs (t := s.poisonBytes _ _) hs rfl) (by decide) _ _

theorem RegKept.askBack (line : Nat) (inv : Bool) : P (s.askBack line inv) := by
  unfold State.askBack
  split
  · refine hP.count64 ?_ 1 (hP.low (by decide))
    exact hP.regs hs rfl
  · exact hs

theorem RegKept.storeParts (r : Req) (a : Nat) (bs : List Byte) (poison : Bool) : P (s.storeParts r a bs poison) := by
  unfold State.storeParts
  refine foldl_kept (fun t g ht => ?_) _ hs
  dsimp only
  split_ifs
  · refine hP.askBack ?_ _ _
    exact hP.regs ht rfl
  · exact hP.poisonNow ht _ _
  · exact hP.storeNow ht _ _

theorem RegKept.store (r : Req) (a : Nat) (bs : List Byte) : P (s.store r a bs) := by
  unfold State.store
  split
  · exact hP.addressEvent hs _ _
  · split_ifs
    · exact hP.eventLow hs _ _ _ _ (by decide)
    · exact hP.storeParts hs _ _ _ _
    · exact hP.storeNow hs _ _

theorem RegKept.storePoison (r : Req) (a n : Nat) : P (s.storePoison r a n) := by
  unfold State.storePoison
  split
  · exact hP.addressEvent hs _ _
  · split_ifs
    · exact hP.eventLow hs _ _ _ _ (by decide)
    · exact hP.storeParts hs _ _ _ _
    · exact hP.poisonNow hs _ _

/-! ## A descriptor that completes (R109, R111) -/

theorem RegKept.descDone (n idx status failed : Nat) : P (s.descDone n idx status failed) :=
  State.descDone_induction (fun t ht => hP.regs hs (by rw [ht])) fun _ _ ht => hP.eventLow ht _ _ _ _ (by decide)

theorem RegKept.descEnd (r : Req) (a st id act idx : Nat) : P (s.descEnd r a st id act idx) :=
  hP.descDone (hP.regs (hP.store hs r a (natBytes 1 st)) (State.signal_regs _ id)) _ _ _ _

end

/-! ## Requests to other nodes (R280, R281) -/

section
variable {W : Nat → Prop} {P : State → Prop} (hP : RegKept W P) (hports : ∀ p, W (Reg.fabPCnt p 0)) {s : State} (hs : P s)
include hP hports hs

theorem RegKept.issueReq (r : Req) (dst typ vc : Nat) (replica : Bool) (addr : Nat) (words : List FWord) (trailer : Nat) :
    P (s.issueReq r dst typ vc replica addr words trailer) := by
  refine hP.emit hports ?_ _
  exact hP.regs hs rfl

theorem RegKept.request (r : Req) (dst typ vc : Nat) (replica : Bool) (addr : Nat) (words : List FWord) (trailer : Nat) :
    P (s.request r dst typ vc replica addr words trailer) := by
  have howes : P (s.owes r dst typ) := hP.regs hs rfl
  unfold State.request
  dsimp only
  split
  · exact hP.issueReq hports howes _ _ _ _ _ _ _ _
  · exact hP.regs howes rfl

theorem RegKept.pumpReqs (dst n : Nat) : P (pumpReqs dst n s) := by
  induction n generalizing s with
  | zero => exact hs
  | succ n ih =>
    unfold Machine.pumpReqs
    split
    · exact hs
    · split
      · refine ih (hP.issueReq hports ?_ _ _ _ _ _ _ _ _)
        exact hP.regs hs rfl
      · exact hs

theorem RegKept.remoteStore (r : Req) (ga : Nat) (bs : List Byte) (poison : Bool) : P (s.remoteStore r ga bs poison) := by
  unfold State.remoteStore
  split
  · exact hP.addressEvent hs _ _
  · refine foldl_kept (fun t x ht => ?_) _ hs
    exact hP.request hports ht _ _ _ _ _ _ _ _

theorem RegKept.gstoreNow (r : Req) (ga : Nat) (bs : List Byte) (poison : Bool) : P (s.gstoreNow r ga bs poison) := by
  unfold State.gstoreNow
  split_ifs
  · exact hP.storePoison hs _ _ _
  · exact hP.store hs _ _ _
  · exact hP.remoteStore hports hs _ _ _ _

end

/-! ## The context of a program that faults (R151) -/

section
variable {W : Nat → Prop} {P : State → Prop} (hP : RegKept W P) (hports : ∀ p, W (Reg.fabPCnt p 0))
  (hheld : ∀ o ∈ [Reg.fabStatus, Reg.fabLastErr, Reg.fabCnt 11], W o) {s : State} (hs : P s)
include hP hports hheld hs

/-- A store by a global address, which the node of a replicated page holds (R286). -/
theorem RegKept.gstore (r : Req) (ga : Nat) (bs : List Byte) (poison : Bool) : P (s.gstore r ga bs poison) := by
  have hhold : P (s.holdStore r ga bs poison) := hP.regs hs rfl
  unfold State.gstore
  split_ifs
  · exact hs
  · refine hP.event (hP.count64 (hP.setReg _ (hheld _ (by simp)) (hP.setReg _ (hheld _ (by simp)) hhold)) 1
      (hheld _ (by simp))) _ _ _ _ (.inr rfl)
  · exact hhold
  · exact hP.gstoreNow hports hs _ _ _ _

theorem RegKept.saveCtx (u : VUnit) (p : Prog) (fault : Bool) (st : List Byte) : P (s.saveCtx u p fault st) := by
  have hctx : P (s.gstore (progReq u) p.ctx (p.ctxBytes s.stitch (s.heldBy u) fault st) false) :=
    hP.gstore hports hheld hs _ _ _ _
  unfold State.saveCtx
  dsimp only
  split
  · exact hctx
  · refine foldl_kept (fun t k ht => ?_) _ hctx
    split
    · exact hP.gstore hports hheld ht _ _ _ _
    · exact ht

end

/-! ## The end of a program (R151, R181, R283) -/

section
variable {W : Nat → Prop} {P : State → Prop} (hP : RegKept W P)
  (hcore : ∀ c, W (Reg.slvCoreCntProgs c) ∧ W (Reg.slvCoreLastErr c)) (hslv : W Reg.slvEvent) {s : State} (hs : P s)
include hP hcore hslv hs

theorem RegKept.coreDone (c : Nat) (p : Prog) (st : Nat) : P (s.coreDone c p st) := by
  have hprog : P (s.setProg (.core (Fin.ofNat 256 c)) none) := hP.regs hs rfl
  have hcount := hP.count64 hprog 1 (hcore c).1
  unfold State.coreDone
  dsimp only
  split
  · exact hP.descEnd hcount _ _ _ _ _ _
  · exact hP.descEnd (hP.event (hP.setReg _ (hcore c).2 hcount) _ _ _ _ (.inl hslv)) _ _ _ _ _ _

theorem RegKept.settleCores : P s.settleCores := by
  unfold State.settleCores
  refine foldl_kept (fun t e ht => ?_) _ hs
  split
  · split
    · split
      · exact hP.coreDone hcore hslv ht _ _ _
      · exact ht
    · exact ht
  · exact ht

theorem RegKept.endProg (u : VUnit) (p : Prog) (st : Nat) : P (s.endProg u p st) := by
  have hdrop : P (s.dropAccesses (progReq u)) := hP.regs hs rfl
  have hprog (t : State) (x : Option Prog) (ht : P t) : P (t.setProg u x) := hP.regs ht rfl
  unfold State.endProg
  cases u with
  | tile t =>
    dsimp only
    split
    · exact hP.regs (hprog _ none hdrop) rfl
    · exact hprog _ none hdrop
  | core c =>
    dsimp only
    split
    · exact hP.coreDone hcore hslv hdrop _ _ _
    · exact hprog _ _ hdrop

end

theorem RegKept.retire {W : Nat → Prop} {P : State → Prop} (hP : RegKept W P) (hports : ∀ p, W (Reg.fabPCnt p 0))
    (hcore : ∀ c, W (Reg.slvCoreCntProgs c) ∧ W (Reg.slvCoreLastErr c)) (hslv : W Reg.slvEvent) {s : State} (hs : P s)
    (q : OutReq) : P (s.retire q) := by
  have hover : P ({ s with reqs := s.reqs.erase q }.settled q.dst q.vc) := hP.regs hs rfl
  exact hP.settleCores hcore hslv (hP.pumpReqs hports hover _ _)

/-! ## What a faulting program leaves in the registers of its unit (R151) -/

/-- The registers of a unit that a fault writes. -/
def State.faultRegs (s : State) (u : VUnit) (p : Prog) (st mf : Nat) : State :=
  (((s.setReg (vePc u) p.pc).setReg (veFaultPc u) p.pc).setReg (veLastFault u)
    (BitVec.ofNat 64 (st + mf % 256 * 256))).count32 (veFault u) 1

/-- The registers of a fault stand apart from those that stores, requests and completions write. -/
theorem veFault_regs_apart (u : VUnit) : (∀ p, Reg.fabPCnt p 0 ≠ veFaultPc u ∧ Reg.fabPCnt p 0 ≠ veLastFault u) ∧
    (∀ c, (Reg.slvCoreCntProgs c ≠ veFaultPc u ∧ Reg.slvCoreLastErr c ≠ veFaultPc u) ∧
      Reg.slvCoreCntProgs c ≠ veLastFault u ∧ Reg.slvCoreLastErr c ≠ veLastFault u) ∧
    (Reg.slvEvent ≠ veFaultPc u ∧ Reg.slvEvent ≠ veLastFault u) ∧ (veFault u ≠ veFaultPc u ∧ veFault u ≠ veLastFault u) ∧
    veFaultPc u ≠ veLastFault u ∧ (∀ o ∈ [vePc u, veFaultPc u, veLastFault u, veFault u], Reg.tnsVePc 0 ≤ o) := by
  cases u <;> simp only [vePc, veFaultPc, veLastFault, veFault, Reg.tnsVePc, Reg.tnsVeFaultPc, Reg.tnsVeLastFault,
    Reg.tnsVeCntFault, Reg.slvVePc, Reg.slvVeFaultPc, Reg.slvVeLastFault, Reg.slvVeCntFault, Reg.fabPCnt, Reg.slvCoreCntProgs,
    Reg.slvCoreLastErr, Reg.slvEvent, List.forall_mem_cons, List.not_mem_nil, false_imp_iff, implies_true, and_true] <;>
    refine ⟨fun p => ?_, fun c => ?_, ?_⟩ <;> omega

/-- The registers show a fault of a program with a status, and an event of the FAB block is shown. -/
def FaultShown (u : VUnit) (p : Prog) (st b : Nat) (t : State) : Prop :=
  (t.regB Reg.fabEvent b = true ∧ t.reg (veFaultPc u) = p.pc) ∧ (t.reg (veLastFault u)).toNat % 256 = st

section
variable {u : VUnit} {p : Prog} {st b : Nat}

theorem faultShown_kept (hb : b < 64) :
    RegKept (fun o => (o ≠ Reg.fabEvent ∧ o ≠ veFaultPc u) ∧ o ≠ veLastFault u) (FaultShown u p st b) := by
  obtain ⟨-, -, -, -, -, hlow⟩ := veFault_regs_apart u
  have hreg (o : Nat) (ho : o ∈ [vePc u, veFaultPc u, veLastFault u, veFault u]) (Q : W64 → Prop) :
      RegKept (· ≠ o) fun t => Q (t.reg o) := by
    have := hlow o ho
    simp only [Reg.tnsVePc] at this
    exact .reg (by simp only [Reg.fabCfg]; omega) (by simp only [Reg.fabEvent]; omega) Q
  exact ((RegKept.eventBit hb).and (hreg _ (by simp) (· = p.pc))).and (hreg _ (by simp) fun v => v.toNat % 256 = st)

/-- The registers that a fault writes show it. -/
theorem State.faultRegs_shown {s : State} (hb : b < 64) (hst : st < 256) (mf : Nat) (h : s.regB Reg.fabEvent b = true) :
    FaultShown u p st b (s.faultRegs u p st mf) := by
  obtain ⟨-, -, -, ⟨hpc, hlast⟩, hne, hlow⟩ := veFault_regs_apart u
  have hev (o : Nat) (ho : o ∈ [vePc u, veFaultPc u, veLastFault u, veFault u]) : o ≠ Reg.fabEvent := by
    have := hlow o ho
    simp only [Reg.tnsVePc, Reg.fabEvent] at *
    omega
  have hP := RegKept.eventBit hb
  refine ⟨⟨?_, ?_⟩, ?_⟩
  · exact hP.count32 (hP.setReg _ (hev _ (by simp)) (hP.setReg _ (hev _ (by simp)) (hP.setReg _ (hev _ (by simp)) h))) 1
      (hev _ (by simp))
  · exact (State.reg_setReg_other _ _ hpc.symm).trans ((State.reg_setReg_other _ _ hne).trans (State.reg_setReg_same _ _ _))
  · have hreg : (s.faultRegs u p st mf).reg (veLastFault u) = BitVec.ofNat 64 (st + mf % 256 * 256) :=
      (State.reg_setReg_other _ _ hlast.symm).trans (State.reg_setReg_same _ _ _)
    rw [hreg, BitVec.toNat_ofNat]
    omega

variable (hb : b < 64)
include hb

/-- A program that faults leaves its fault in the registers of its unit, and events stay shown (R151). -/
theorem State.progFault_shown {s : State} (h : s.regB Reg.fabEvent b = true) (hst : st < 256) (hne : st ≠ 0x33) (mf : Nat) (code : List Byte) :
    FaultShown u p st b (s.progFault u p st mf code) := by
  obtain ⟨hports, hcore, hslv, -⟩ := veFault_regs_apart u
  have hsave := (RegKept.eventBit hb).saveCtx (fun p => by simp only [Reg.fabPCnt, Reg.fabEvent]; omega) (by decide) h u p true
    (natBytes 1 st ++ code)
  have hregs := State.faultRegs_shown (u := u) (p := p) hb hst mf hsave
  have hP := faultShown_kept (u := u) (p := p) (st := st) hb
  unfold State.progFault
  dsimp only
  rw [if_neg hne]
  refine hP.endProg (fun c => ⟨⟨⟨?_, (hcore c).1.1⟩, (hcore c).2.1⟩, ⟨?_, (hcore c).1.2⟩, (hcore c).2.2⟩)
    ⟨⟨by decide, hslv.1⟩, hslv.2⟩ ?_ u p st
  · simp only [Reg.slvCoreCntProgs, Reg.fabEvent]; omega
  · simp only [Reg.slvCoreLastErr, Reg.fabEvent]; omega
  · cases u with
    | tile t => exact hP.logRecord hregs _ _ _ _
    | core c => exact hregs

/-- A request that is over keeps what a fault shows. -/
theorem FaultShown.retire {t : State} (h : FaultShown u p st b t) (q : OutReq) : FaultShown u p st b (t.retire q) := by
  obtain ⟨hports, hcore, hslv, -⟩ := veFault_regs_apart u
  refine (faultShown_kept hb).retire (fun p => ⟨⟨?_, (hports p).1⟩, (hports p).2⟩)
    (fun c => ⟨⟨⟨?_, (hcore c).1.1⟩, (hcore c).2.1⟩, ⟨?_, (hcore c).1.2⟩, (hcore c).2.2⟩) ⟨⟨by decide, hslv.1⟩, hslv.2⟩ h q
  · simp only [Reg.fabPCnt, Reg.fabEvent]; omega
  · simp only [Reg.slvCoreCntProgs, Reg.fabEvent]; omega
  · simp only [Reg.slvCoreLastErr, Reg.fabEvent]; omega

end

end Sys2Proof.Machine
end

section
/-! PROOFS. Responses and time limits of the package's own requests: O41. -/
namespace Sys2Proof.Machine
open Sys2Proof.Claims

/-! ## A program that waits for a request that ends (R151, R281, R282) -/

/-- A value that a table does not read everywhere is listed. -/
theorem Tbl.mem_of_get_ne {α : Type} {d v : α} {t : Tbl α} {k : Nat} (h : Tbl.get d t k = v) (hne : v ≠ d) : (k, v) ∈ t := by
  induction t with
  | nil => exact absurd h.symm hne
  | cons e t ih =>
    obtain ⟨j, x⟩ := e
    rw [Tbl.get] at h
    split at h
    case isTrue hk => exact List.mem_cons.2 (.inl (by rw [hk, h]))
    case isFalse => exact List.mem_cons_of_mem _ (ih h)

/-- Where no program has ended, the one that runs on the unit of a request faults. -/
theorem State.failIssuer_of_prog {s : State} {r : Req} {u : VUnit} {p : Prog} (hend : NoneEnding s) (hunit : reqUnit r = some u)
    (hprog : s.progOf u = some p) (st : Nat) : s.failIssuer r st = s.progFault u p st p.waitsAt [] := by
  have hrun : p.ended = none := hend _ (Tbl.mem_of_get_ne hprog (Option.some_ne_none p)) p rfl
  rw [State.failIssuer, hunit]
  dsimp only
  rw [hprog]
  dsimp only
  rw [hrun]

/-- `t` is `s` but for what a response changes. -/
def ResponseFrame (s t : State) : Prop :=
  t = { s with reqs := t.reqs, outst := t.outst, wroteTo := t.wroteTo, flows := t.flows, accesses := t.accesses,
               dataOut := t.dataOut, dataPoison := t.dataPoison }

theorem ResponseFrame.trans {s t u : State} (h1 : ResponseFrame s t) (h2 : ResponseFrame t u) : ResponseFrame s u := by
  unfold ResponseFrame at *
  rw [h2, h1]

section
variable {s t : State} (h : ResponseFrame s t)
include h

theorem ResponseFrame.regs : t.regs = s.regs := by rw [h]
theorem ResponseFrame.mem : t.mem = s.mem := by rw [h]
theorem ResponseFrame.poison : t.poison = s.poison := by rw [h]

end

section
variable {s t : State} (h : EventFrame s t)
include h

theorem EventFrame.progs : t.progs = s.progs := by rw [h]
theorem EventFrame.reqs : t.reqs = s.reqs := by rw [h]
theorem EventFrame.outst : t.outst = s.outst := by rw [h]
theorem EventFrame.wroteTo : t.wroteTo = s.wroteTo := by rw [h]
theorem EventFrame.accesses : t.accesses = s.accesses := by rw [h]
theorem EventFrame.chunksTx : t.chunksTx = s.chunksTx := by rw [h]

theorem EventFrame.noneEnding (hend : NoneEnding s) : NoneEnding t := noneEnding_congr hend (by rw [h])

theorem EventFrame.noneWaiting (hwait : NoneWaiting s) : NoneWaiting t :=
  noneWaiting_congr hwait (by rw [h]) (by rw [h]) (by rw [h])

end

theorem State.answer_responseFrame (s : State) (bs : List Byte) (b : Bool) : ResponseFrame s (s.answer bs b) := rfl

theorem ResponseFrame.retire {s : State} (hend : NoneEnding s) (hwait : NoneWaiting s) (q : OutReq) :
    ResponseFrame s (s.retire q) := by
  unfold ResponseFrame
  rw [State.retire_frame hend hwait]

section
variable (s : State) (q : OutReq) (g : Granule) (b : Bool)

theorem State.fill_responseFrame : ResponseFrame s (s.fill q g b) := rfl

theorem State.fill_regs : (s.fill q g b).regs = s.regs := rfl
theorem State.fill_progs : (s.fill q g b).progs = s.progs := rfl
theorem State.fill_reqs : (s.fill q g b).reqs = s.reqs := rfl
theorem State.fill_outst : (s.fill q g b).outst = s.outst := rfl
theorem State.fill_wroteTo : (s.fill q g b).wroteTo = s.wroteTo := rfl

theorem State.fill_noneEnding (h : NoneEnding s) : NoneEnding (s.fill q g b) := noneEnding_congr h rfl

theorem State.fill_noneWaiting (h : NoneWaiting s) : NoneWaiting (s.fill q g b) := noneWaiting_congr h rfl rfl rfl

theorem State.fill_filled : Filled s (s.fill q g b) q g b := rfl

variable {s q g b}

/-- The accesses that a request serves are told by the requests and the accesses. -/
theorem filled_congr {s1 t : State} (h : Filled s1 t q g b) (hreqs : s1.reqs = s.reqs) (haccesses : s1.accesses = s.accesses) :
    Filled s t q g b := by
  unfold Filled State.serves at *
  rwa [← hreqs, ← haccesses]

theorem State.retire_accesses (hend : NoneEnding s) (hwait : NoneWaiting s) (q : OutReq) :
    (s.retire q).accesses = s.accesses := by rw [State.retire_frame hend hwait]

end

/-! ## What a timeout tells (R281, R284) -/

theorem State.reg_of_regs {s t : State} (h : t.regs = s.regs) (o : Nat) : t.reg o = s.reg o := by
  rw [State.reg, h]
  rfl

section
variable (s : State) (dst ga : Nat)

theorem State.remoteTimeout_lastErr : (s.remoteTimeout dst ga).reg Reg.fabLastErr = BitVec.ofNat 64 ga := by
  rw [State.remoteTimeout_eq]
  exact State.errorTold_lastErr _ _ _ _ _

theorem State.remoteTimeout_shown : (s.remoteTimeout dst ga).regB Reg.fabEvent 0 = true := by
  rw [State.remoteTimeout_eq]
  exact State.errorTold_shown _ _ _ _ (by decide)

end

/-! ## A request that timed out (R281) -/

/-- A write that timed out stays outstanding. -/
def State.markTimedOut (s : State) (q : OutReq) : State :=
  { s with reqs := s.reqs.map fun x => if x = q then { x with timedOut := true } else x }

theorem State.markTimedOut_responseFrame (s : State) (q : OutReq) : ResponseFrame s (s.markTimedOut q) := rfl

theorem State.markTimedOut_reqs (s : State) (q : OutReq) :
    (s.markTimedOut q).reqs = s.reqs.map fun x => if x = q then { x with timedOut := true } else x := rfl

section
variable {dst : BitVec 16} {seq : BitVec 12} {q : OutReq} {s : State} (hopen : s.openRequest dst.toNat seq.toNat = some q)
include hopen

theorem exec_requestReissue (h : q.last + usec * s.regF Reg.fabReissue 0 16 ≤ s.ft) : exec (.requestReissue dst seq) s =
    .next ((({ s with reqs := s.reqs.map fun x => if x = q then { x with last := s.ft } else x } : State).count64
      (Reg.fabCnt 6) 1).emit q.flit) := by
  show execRequestReissue dst seq s = _
  rw [execRequestReissue, hopen]
  exact if_neg (Nat.not_lt.2 h)

variable (hnew : q.timedOut = false) (htime : q.first + s.loadTimeout ≤ s.ft)
include hnew htime

/-- A write stays outstanding; what is read is poison, and the program that waits for it ends. -/
theorem exec_requestTimeout : exec (.requestTimeout dst seq) s = .next
    (if q.flit.typ.toNat = 3 then (s.remoteTimeout q.dst q.global).markTimedOut q
      else (((s.remoteTimeout q.dst q.global).fill q 0 true).failIssuer q.req 0x34).retire q) := by
  have hlive : ¬ (q.timedOut = true ∨ s.ft < q.first + s.loadTimeout) := by
    rw [hnew, not_or, Nat.not_lt]
    exact ⟨Bool.false_ne_true, htime⟩
  show execRequestTimeout dst seq s = _
  rw [execRequestTimeout, hopen]
  dsimp only
  rw [if_neg hlive]
  split <;> rfl

end

theorem State.chunkOwner_kept (s : State) (c : ChunkTx) (failed : List Nat) : (s.chunkOwner c failed).regs = s.regs ∧
    (s.chunkOwner c failed).progs = s.progs ∧ (s.chunkOwner c failed).chunksTx = s.chunksTx ∧
    (s.chunkOwner c failed).outst = s.outst ∧ (s.chunkOwner c failed).wroteTo = s.wroteTo := by
  rw [State.chunkOwner_frame]
  exact ⟨rfl, rfl, rfl, rfl, rfl⟩

/-- A chunk that is over, where no other waits. -/
theorem State.chunkOver_over {s : State} (h : s.chunkQ = []) (c : ChunkTx) (failed : List Nat) :
    (s.chunkOver c failed).regs = s.regs ∧ (s.chunkOver c failed).progs = s.progs ∧
    (s.chunkOver c failed).chunksTx = s.chunksTx.filter (fun x => !sameChunk c x) ∧ Settled s (s.chunkOver c failed) c.dst := by
  obtain ⟨hregs, hprogs, hchunks, houtst, hwrote⟩ := (s.chunkDropped c).chunkOwner_kept c failed
  rw [State.chunkOver_eq h, hregs, hprogs, hchunks]
  exact ⟨rfl, rfl, rfl, settled_congr (s.chunkDropped_settled c) rfl rfl houtst hwrote⟩

/-- A chunk that timed out is over (R284). -/
theorem exec_chunkTimeout {dst tag : BitVec 16} {c : ChunkTx} {s : State}
    (hfind : (s.sentChunks dst.toNat).find? (fun c => c.tag == tag.toNat) = some c) (htime : c.since + s.loadTimeout ≤ s.ft) :
    exec (.chunkTimeout dst tag) s = .next (((s.chunkOver c (pagePieces c.addr c.len)).remoteTimeout c.dst
      (if c.read then c.src else c.dst * 2 ^ 48 + c.addr)).settleCores) := by
  show execChunkTimeout dst tag s = _
  rw [execChunkTimeout, hfind]
  exact if_neg (Nat.not_lt.2 htime)

end Sys2Proof.Machine

namespace Sys2Proof.Proofs
open Sys2Proof Sys2Proof.Machine Sys2Proof.Claims

/-! ## Responses (R270, R282, R284) -/

/-- A response with data ends its request, and its data reaches the accesses that it serves. -/
theorem response_answers {s : State} {f : Flit} {q : OutReq} {g : Granule} {rsp typ : Nat} (hend : NoneEnding s)
    (hwait : NoneWaiting s) (hwords : f.words = cleanWords [g]) (hacc : Accepted s f rsp) (hans : s.answered f typ = some q)
    (htyp : typ ≠ 3) : let t := s.response f rsp typ
    Retired s t q ∧ Filled s t q g (decide (f.trailer.toNat % 256 ≠ 0)) ∧ t.dataOut = granuleBytes g ∧
      t.dataPoison = decide (f.trailer.toNat % 256 ≠ 0) ∧
      t = { s with reqs := t.reqs, outst := t.outst, wroteTo := t.wroteTo, flows := t.flows, accesses := t.accesses,
                   dataOut := t.dataOut, dataPoison := t.dataPoison } := by
  intro t
  have ht : t = ((s.fill q g (decide (f.trailer.toNat % 256 ≠ 0))).retire q).answer (granuleBytes g)
      (decide (f.trailer.toNat % 256 ≠ 0)) := State.response_data hacc hans hwords htyp
  clear_value t
  subst ht
  generalize decide (f.trailer.toNat % 256 ≠ 0) = b
  have hend' : NoneEnding (s.fill q g b) := noneEnding_congr hend rfl
  have hwait' : NoneWaiting (s.fill q g b) := noneWaiting_congr hwait rfl rfl rfl
  have hacc : ((s.fill q g b).retire q).accesses = (s.fill q g b).accesses := State.retire_accesses hend' hwait' q
  refine ⟨retired_congr (State.retire_retired hend' hwait' q) rfl rfl rfl rfl rfl rfl, hacc, rfl, rfl, ?_⟩
  exact ((s.fill_responseFrame q g b).trans (ResponseFrame.retire hend' hwait' q)).trans (State.answer_responseFrame _ _ _)

theorem dataResponses (f : Flit) (q : OutReq) (g : Granule) (s : State) (hend : NoneEnding s) (hwait : NoneWaiting s)
    (hwords : f.words = cleanWords [g]) :
    ∀ c ∈ ([(0x02, 0x01, .rdRsp), (0x06, 0x05, .atomRsp)] : List (Nat × Nat × (Flit → Instr))),
      Accepted s f c.1 → s.answered f c.2.1 = some q → ∃ t, exec (c.2.2 f) s = .next t ∧ Retired s t q ∧
        Filled s t q g (decide (f.trailer.toNat % 256 ≠ 0)) ∧ t.dataOut = granuleBytes g ∧
        t.dataPoison = decide (f.trailer.toNat % 256 ≠ 0) ∧
        t = { s with reqs := t.reqs, outst := t.outst, wroteTo := t.wroteTo, flows := t.flows, accesses := t.accesses,
                     dataOut := t.dataOut, dataPoison := t.dataPoison } := by
  intro c hc hacc hans
  simp only [List.mem_cons, List.not_mem_nil, or_false] at hc
  rcases hc with rfl | rfl
  · exact ⟨_, rfl, response_answers hend hwait hwords hacc hans (by decide)⟩
  · exact ⟨_, rfl, response_answers hend hwait hwords hacc hans (by decide)⟩

theorem wrAck_retires {f : Flit} {q : OutReq} {s : State} (hend : NoneEnding s) (hwait : NoneWaiting s) (hacc : Accepted s f 0x04)
    (hwords : f.words = []) (hans : s.answered f 0x03 = some q) : ∃ t, exec (.wrAck f) s = .next t ∧ Retired s t q ∧
      t = { s with reqs := t.reqs, outst := t.outst, wroteTo := t.wroteTo, flows := t.flows } :=
  ⟨_, congrArg Host.Outcome.next (State.response_ack hacc hans hwords rfl), State.retire_retired hend hwait q, State.retire_frame hend hwait q⟩

theorem fld_low8 (v : W64) : fld v 0 8 = v.toNat % 256 := congrArg (· % 256) (Nat.div_one _)

/-- A NACK of BUSY is as if the response were lost (R282). -/
theorem nack_busy {f : Flit} {s : State} (hacc : Accepted s f 0x07) (hbusy : f.trailer.toNat % 256 = 2) :
    exec (.nack f) s = .next s := by
  show execNack f s = _
  unfold execNack
  dsimp only
  rw [accept_of_accepted hacc, fld_low8, hbusy]
  exact if_pos (.inr (by decide))

/-- A NACK of STALE ends the request with an event (R282). -/
theorem nack_stale {f : Flit} {q : OutReq} {s : State} (hend : NoneEnding s) (hwait : NoneWaiting s) (hacc : Accepted s f 0x07)
    (hstale : f.trailer.toNat % 256 = 1) (hans : s.answered f 0x05 = some q) (hunit : reqUnit q.req = none) :
    ∃ t, exec (.nack f) s = .next t ∧ Retired s t q ∧ t.reg Reg.fabLastErr = BitVec.ofNat 64 q.global ∧
      t.regB Reg.fabEvent 1 = true ∧ Claims.EventFrame s t [Reg.fabLastErr, Reg.fabEvent] := by
  have hexec : exec (.nack f) s = .next ((s.errorTold q.global 1 q.dst q.global).retire q) := by
    have hgo : ¬ ((s, true).2 = false ∨ (1 : Nat) ≠ 1) := by simp
    show execNack f s = _
    unfold execNack
    dsimp only
    rw [accept_of_accepted hacc, fld_low8, hstale, if_neg hgo]
    dsimp only
    rw [hans]
    exact congrArg (fun t => Host.Outcome.next (State.retire t q)) (State.failIssuer_of_no_unit hunit _ _)
  have htold := s.errorTold_frame q.global 1 q.dst q.global
  have hend' := htold.noneEnding hend
  have hwait' := htold.noneWaiting hwait
  have hframe := ResponseFrame.retire hend' hwait' q
  have hregs := hframe.regs
  refine ⟨_, hexec, ?_, ?_, ?_, ?_⟩
  · exact retired_congr (State.retire_retired hend' hwait' q) htold.reqs.symm htold.outst.symm htold.wroteTo.symm rfl rfl rfl
  · exact (State.reg_of_regs hregs _).trans (s.errorTold_lastErr _ _ _ _)
  · exact (State.regB_congr (State.reg_of_regs hregs _) 1).trans (s.errorTold_shown _ _ _ (by decide))
  · exact eventFrame_congr (s.errorTold_eventFrame _ _ _ _) hregs hframe.mem hframe.poison

/-- An acknowledged chunk is over (R284). -/
theorem dmaAck_over {f : Flit} {c : ChunkTx} {s : State} (hend : NoneEnding s) (hwait : NoneWaiting s) (hacc : Accepted s f 0x0A)
    (hok : f.trailer.toNat / 65536 % 256 = 0) (hcol : s.colTx = [])
    (hfind : (s.sentChunks f.src.toNat).find? (fun c => !c.read && c.tag == f.tag.toNat && c.seq == f.seq.toNat) = some c)
    (howner : c.owner = none) (hpocket : c.pocket = false) : ∃ t, exec (.dmaAck f) s = .next t ∧
      t.chunksTx = s.chunksTx.filter (fun x => !sameChunk c x) ∧ Settled s t c.dst ∧
      t = { s with chunksTx := t.chunksTx, outst := t.outst, wroteTo := t.wroteTo, flows := t.flows } := by
  obtain ⟨-, hchunks, -⟩ := hwait
  have hstatus : fld f.trailer 16 8 = 0 := hok
  have hover : s.chunkOver c [] = s.chunkDropped c := by
    rw [State.chunkOver_eq hchunks, State.chunkOwner, howner]
    exact if_neg (by rw [hpocket]; exact Bool.false_ne_true)
  have hframe := s.chunkDropped_frame c
  have hend' : NoneEnding (s.chunkDropped c) := noneEnding_congr hend (by rw [hframe])
  have hexec : exec (.dmaAck f) s = .next (s.chunkDropped c) := by
    show execDmaAck f s = _
    unfold execDmaAck
    dsimp only
    rw [accept_of_accepted hacc, if_neg Bool.false_ne_true.symm]
    dsimp only
    rw [hcol, List.find?_nil]
    dsimp only
    rw [State.dmaAck, hfind]
    dsimp only
    rw [hstatus, if_neg (by decide), if_neg (by decide), hover, State.settleCores_of_noneEnding hend']
  refine ⟨_, hexec, by rw [hframe], s.chunkDropped_settled c, ?_⟩
  exact hframe.trans (by rw [hframe])

/-! ## Time limits (R281, R284) -/

/-- A request is issued again unchanged (R281). -/
theorem requestReissue_again {dst : BitVec 16} {seq : BitVec 12} {q : OutReq} {p : Nat} {s : State}
    (hopen : s.openRequest dst.toNat seq.toNat = some q) (hroute : RouteTo s q.flit.dst.toNat q.flit.vc.toNat p)
    (htime : q.last + usec * s.regF Reg.fabReissue 0 16 ≤ s.ft) :
    ∃ t, exec (.requestReissue dst seq) s = .next t ∧ Counted s t (Reg.fabCnt 6) 1 ∧ Handed s t p q.flit ∧
      t.reqs = s.reqs.map fun x => if x = q then { x with last := s.ft } else x := by
  refine ⟨_, exec_requestReissue hopen htime, ?_, ?_, ?_⟩
  · rw [Counted, State.emit_reg_other _ _ (by decide) (by decide) fun p => by simp only [Reg.fabCnt, Reg.fabPCnt]; omega]
    exact State.toNat_reg_count64 _ _ _
  · have hlater : RouteTo { s with reqs := s.reqs.map fun x => if x = q then { x with last := s.ft } else x } q.flit.dst.toNat
        q.flit.vc.toNat p := routeTo_of_regs hroute rfl rfl
    exact handed_congr (emit_handed (routeTo_count64 hlater (by decide) 1)) rfl rfl rfl rfl
  · rw [State.emit_sendFrame]
    rfl

section
variable {dst : BitVec 16} {seq : BitVec 12} {q : OutReq} {s : State} (hopen : s.openRequest dst.toNat seq.toNat = some q)
  (hend : NoneEnding s) (hwait : NoneWaiting s) (hnew : q.timedOut = false) (htime : q.first + s.loadTimeout ≤ s.ft)
include hopen hnew htime

/-- A write that timed out stays outstanding (R281). -/
theorem requestTimeout_write (htyp : q.flit.typ.toNat = 3) : ∃ t, exec (.requestTimeout dst seq) s = .next t ∧
    Counted s t (Reg.fabCnt 9) 1 ∧ t.reg Reg.fabLastErr = BitVec.ofNat 64 q.global ∧ t.regB Reg.fabEvent 0 = true ∧
    t.reqs = (s.reqs.map fun x => if x = q then { x with timedOut := true } else x) ∧
    Claims.EventFrame s t [Reg.fabCnt 9, Reg.fabLastErr, Reg.fabEvent] := by
  have hframe := (s.remoteTimeout q.dst q.global).markTimedOut_responseFrame q
  have hregs := hframe.regs
  refine ⟨_, (exec_requestTimeout hopen hnew htime).trans (congrArg _ (if_pos htyp)), ?_, ?_, ?_, ?_, ?_⟩
  · exact (congrArg BitVec.toNat (State.reg_of_regs hregs _)).trans (s.remoteTimeout_counted _ _)
  · exact (State.reg_of_regs hregs _).trans (s.remoteTimeout_lastErr _ _)
  · exact (State.regB_congr (State.reg_of_regs hregs _) 0).trans (s.remoteTimeout_shown _ _)
  · rw [State.markTimedOut_reqs, (s.remoteTimeout_frame q.dst q.global).reqs]
  · exact eventFrame_congr (s.remoteTimeout_eventFrame q.dst q.global) hregs hframe.mem hframe.poison

include hend

/-- The program that waits for what timed out ends (R281). -/
theorem requestTimeout_program {u : VUnit} {p : Prog} (htyp : q.flit.typ.toNat ≠ 3) (hunit : reqUnit q.req = some u)
    (hprog : s.progOf u = some p) : ∃ t, exec (.requestTimeout dst seq) s = .next t ∧ t.regB Reg.fabEvent 0 = true ∧
      t.reg (veFaultPc u) = p.pc ∧ (t.reg (veLastFault u)).toNat % 256 = 0x34 := by
  have hprogs : ((s.remoteTimeout q.dst q.global).fill q 0 true).progs = s.progs :=
    (State.fill_progs _ q 0 true).trans (s.remoteTimeout_frame _ _).progs
  have hprog' : ((s.remoteTimeout q.dst q.global).fill q 0 true).progOf u = some p := by rw [State.progOf, hprogs]; exact hprog
  have hshown : ((s.remoteTimeout q.dst q.global).fill q 0 true).regB Reg.fabEvent 0 = true :=
    (State.regB_congr (State.reg_of_regs (State.fill_regs _ q 0 true) _) 0).trans (s.remoteTimeout_shown _ _)
  have hfault := State.failIssuer_of_prog (noneEnding_congr hend hprogs) hunit hprog' 0x34
  obtain ⟨⟨hev, hpc⟩, hlast⟩ : FaultShown u p 0x34 0
      ((((s.remoteTimeout q.dst q.global).fill q 0 true).failIssuer q.req 0x34).retire q) := by
    rw [hfault]
    exact (State.progFault_shown (by decide) hshown (by decide) (by decide) _ _).retire (by decide) q
  exact ⟨_, (exec_requestTimeout hopen hnew htime).trans (congrArg _ (if_neg htyp)), hev, hpc, hlast⟩

include hwait

/-- What another reader asked for is poison (R281). -/
theorem requestTimeout_read (htyp : q.flit.typ.toNat ≠ 3) (hunit : reqUnit q.req = none) :
    ∃ t, exec (.requestTimeout dst seq) s = .next t ∧
      Counted s t (Reg.fabCnt 9) 1 ∧ t.reg Reg.fabLastErr = BitVec.ofNat 64 q.global ∧ t.regB Reg.fabEvent 0 = true ∧
      (Retired s t q ∧ Filled s t q 0 true) ∧ Claims.EventFrame s t [Reg.fabCnt 9, Reg.fabLastErr, Reg.fabEvent] := by
  have htold := s.remoteTimeout_frame q.dst q.global
  have hend' := State.fill_noneEnding _ q 0 true (htold.noneEnding hend)
  have hwait' := State.fill_noneWaiting _ q 0 true (htold.noneWaiting hwait)
  have hframe := (State.fill_responseFrame _ q 0 true).trans (ResponseFrame.retire hend' hwait' q)
  have hregs := hframe.regs
  have hexec : exec (.requestTimeout dst seq) s = .next (((s.remoteTimeout q.dst q.global).fill q 0 true).retire q) := by
    rw [exec_requestTimeout hopen hnew htime, if_neg htyp, State.failIssuer_of_no_unit hunit]
  have hretired := State.retire_retired hend' hwait' q
  have haccesses : (((s.remoteTimeout q.dst q.global).fill q 0 true).retire q).accesses =
      ((s.remoteTimeout q.dst q.global).fill q 0 true).accesses := State.retire_accesses hend' hwait' q
  refine ⟨_, hexec, ?_, ?_, ?_, ⟨?_, ?_⟩, ?_⟩
  · exact (congrArg BitVec.toNat (State.reg_of_regs hregs _)).trans (s.remoteTimeout_counted _ _)
  · exact (State.reg_of_regs hregs _).trans (s.remoteTimeout_lastErr _ _)
  · exact (State.regB_congr (State.reg_of_regs hregs _) 0).trans (s.remoteTimeout_shown _ _)
  · exact retired_congr hretired ((State.fill_reqs _ q 0 true).trans htold.reqs).symm
      ((State.fill_outst _ q 0 true).trans htold.outst).symm ((State.fill_wroteTo _ q 0 true).trans htold.wroteTo).symm rfl rfl rfl
  · exact filled_congr (haccesses.trans (State.fill_filled _ q 0 true)) htold.reqs htold.accesses
  · exact eventFrame_congr (s.remoteTimeout_eventFrame _ _) hregs hframe.mem hframe.poison

end

/-- A chunk that timed out is over, and sets REMOTE_TIMEOUT (R284). -/
theorem chunkTimeout_over {dst tag : BitVec 16} {c : ChunkTx} {s : State} (hend : NoneEnding s) (hwait : NoneWaiting s)
    (hfind : (s.sentChunks dst.toNat).find? (fun c => c.tag == tag.toNat) = some c) (htime : c.since + s.loadTimeout ≤ s.ft) :
    ∃ t, exec (.chunkTimeout dst tag) s = .next t ∧ t.chunksTx = s.chunksTx.filter (fun x => !sameChunk c x) ∧
      Settled s t c.dst ∧ Counted s t (Reg.fabCnt 9) 1 ∧ t.regB Reg.fabEvent 0 = true := by
  obtain ⟨-, hchunks, -⟩ := hwait
  let u := s.chunkOver c (pagePieces c.addr c.len)
  let ga := if c.read then c.src else c.dst * 2 ^ 48 + c.addr
  obtain ⟨hregs, hprogs, hchunksTx, hsettled⟩ := State.chunkOver_over hchunks c (pagePieces c.addr c.len)
  have htold := u.remoteTimeout_frame c.dst ga
  have hcores := State.settleCores_of_noneEnding (htold.noneEnding (noneEnding_congr hend hprogs))
  refine ⟨u.remoteTimeout c.dst ga, (exec_chunkTimeout hfind htime).trans (congrArg _ hcores), htold.chunksTx.trans hchunksTx,
    settled_congr hsettled rfl rfl htold.outst htold.wroteTo, ?_, u.remoteTimeout_shown _ _⟩
  rw [Counted, ← State.reg_of_regs hregs]
  exact u.remoteTimeout_counted _ _

/-- Settles O41: the responses, the time limits of requests, and that of a chunk, each by its own step. -/
theorem responsesAndTimeouts : Obligations.ResponsesAndTimeouts := by
  refine ⟨dataResponses, fun f q s hend hwait => ⟨wrAck_retires hend hwait, nack_busy, nack_stale hend hwait, fun c =>
    dmaAck_over hend hwait⟩, fun dst seq q p s hopen => ⟨requestReissue_again hopen, fun hend hwait hnew htime =>
    ⟨fun hwho => ?_, fun u p => requestTimeout_program hopen hend hnew htime⟩⟩, fun dst tag c s => chunkTimeout_over⟩
  by_cases htyp : q.flit.typ.toNat = 3
  · obtain ⟨t, hexec, hcount, herr, hev, hreqs, hframe⟩ := requestTimeout_write hopen hnew htime htyp
    exact ⟨t, hexec, hcount, herr, hev, fun _ => hreqs, fun hne => absurd htyp hne, hframe⟩
  · obtain ⟨t, hexec, hcount, herr, hev, hread, hframe⟩ :=
      requestTimeout_read hopen hend hwait hnew htime htyp (hwho.resolve_left htyp)
    exact ⟨t, hexec, hcount, herr, hev, fun h => absurd h htyp, fun _ => hread, hframe⟩

end Sys2Proof.Proofs
end

section
/-! PROOFS. Requests of other nodes in their turn (R280): a flow's state on the receiving side, and the step of one request. -/
namespace Sys2Proof.Machine
open Sys2Proof.Claims

/-! ## The receiving side of flows -/

/-- The state with other flows on the receiving side. -/
def State.withRx (s : State) (R : Tbl FlowRx) : State := { s with rxFlows := R }

section
variable (s : State) (R : Tbl FlowRx)

/-- The flows that make room are flows that there were. -/
theorem State.mem_of_mem_roomFlow {s : State} {k : Nat} {e : Nat × FlowRx} (h : e ∈ s.roomFlow k) : e ∈ s.rxFlows := by
  unfold State.roomFlow at h
  split at h
  · exact h
  · split at h
    · exact h
    · exact List.mem_of_mem_filter h

/-- The other flows are as they were. -/
theorem State.mem_of_mem_setRxFlow {s : State} {k : Nat} {r : FlowRx} {e : Nat × FlowRx} (h : e ∈ (s.setRxFlow k r).rxFlows)
    (hk : e.1 ≠ k) : e ∈ s.rxFlows := by
  have hothers := Tbl.filter_set (d := FlowRx.init) (s.roomFlow k) (k := k) r (f := fun x => x.1 != k)
    fun v => bne_self_eq_false k
  have hmem : e ∈ (s.roomFlow k).filter fun x => x.1 != k := hothers ▸ List.mem_filter.2 ⟨h, by simpa using hk⟩
  exact State.mem_of_mem_roomFlow (List.mem_of_mem_filter hmem)

end

/-- No flow but the one of key `k` holds a request. -/
def RxQuiet (R : Tbl FlowRx) (k : Nat) : Prop := ∀ e ∈ R, e.1 ≠ k → e.2.waiting = []

theorem RxQuiet.setRxFlow {s : State} {k : Nat} (h : RxQuiet s.rxFlows k) (r : FlowRx) :
    RxQuiet (s.setRxFlow k r).rxFlows k := fun e he hk => h e (State.mem_of_mem_setRxFlow he hk) hk

theorem serveWaiting_of_none {s : State} {k : Nat} (h : (s.rxFlow k).waiting = []) (n : Nat) : serveWaiting k n s = s := by
  cases n with
  | zero => rfl
  | succ n => rw [serveWaiting, h]; rfl

/-- Where no flow holds a request and no chunk waits, nothing goes on. -/
theorem State.serveAll_of_quiet {s : State} {k : Nat} (h : RxQuiet s.rxFlows k) (hk : (s.rxFlow k).waiting = [])
    (hchunks : s.chunkQ = []) : s.serveAll = s := by
  have hserve : s.rxFlows.foldl (fun s e => serveWaiting e.1 e.2.waiting.length s) s = s := by
    refine foldl_of_fixed fun e he => ?_
    by_cases hkey : e.1 = k
    · exact serveWaiting_of_none (hkey ▸ hk) _
    · rw [h e he hkey]
      rfl
  rw [State.serveAll]
  simp only [hserve, hchunks]
  rfl

/-! ## A request in its turn -/

/-- The flow of a request is at it, and has it no more; `waits` is what the flow holds besides. -/
def State.turnOf (s : State) (f : Flit) (waits : List Flit) : FlowRx :=
  { s.rxFlow (flowKey f) with waiting := waits, last := s.ft }

/-- The state in which a request in its turn is performed. -/
def State.atTurn (s : State) (f : Flit) : State :=
  (s.setRxFlow (flowKey f) (s.turnOf f [f])).setRxFlow (flowKey f) (s.turnOf f [])

section
variable {s : State} {f : Flit}

/-- The state in which a request in its turn is performed differs from the state before in the flows alone. -/
theorem State.atTurn_eq : ∃ R, s.atTurn f = s.withRx R := ⟨_, rfl⟩

theorem State.atTurn_rxFlow : (s.atTurn f).rxFlow (flowKey f) = s.turnOf f [] := State.rxFlow_setRxFlow _ _ _

theorem State.atTurn_quiet (h : ∀ e ∈ s.rxFlows, e.2.waiting = []) : RxQuiet (s.atTurn f).rxFlows (flowKey f) :=
  RxQuiet.setRxFlow (RxQuiet.setRxFlow (fun e he _ => h e he) _) _

/-- What comes of a request that is performed: its flow goes past it, or not. -/
def passedIf (k : Nat) (q : State × Bool) : State := if q.2 then q.1.passRx k else q.1

/-- The one request that a flow holds, in its turn and free to go, is performed. -/
theorem serveWaiting_one {u : State} {k : Nat} {r r' : FlowRx} (hk : u.rxFlow k = r) (hr : r.waiting = [f])
    (hr' : r' = { r with waiting := [] })
    (hexp : f.seq.toNat = r.expected) (hgo : u.mustWait f = false) :
    serveWaiting k 1 u = passedIf k ((u.setRxFlow k r').serve f) := by
  have hfind : [f].find? (fun g => g.seq.toNat == r.expected) = some f := List.find?_cons_of_pos (beq_iff_eq.2 hexp)
  unfold serveWaiting
  dsimp only
  rw [hk, hr, hfind]
  dsimp only
  rw [hgo, if_neg Bool.false_ne_true, List.erase_cons_head, hr']
  rfl

/-- A request in its turn that need not wait is performed (R280). -/
theorem State.arriveRequest_inTurn (h : InTurn s f) :
    s.arriveRequest f = passedIf (flowKey f) ((s.atTurn f).serve f) := by
  obtain ⟨hstart, hexp, hwait, hgo⟩ := h
  have hdue : (f.seq.toNat + 4096 - f.seq.toNat) % 4096 < 2048 := by omega
  have hnot : ¬ (f.start = true ∧ ((s.rxFlow (flowKey f)).last = 0 ∨ (s.rxFlow (flowKey f)).last + msec ≤ s.ft)) := by
    simp [hstart]
  unfold State.arriveRequest
  dsimp only
  rw [if_neg hnot]
  dsimp only
  rw [hexp, if_pos hdue, hwait, List.contains_nil, if_neg Bool.false_ne_true, List.nil_append, List.length_singleton, ← hexp]
  have hstep := serveWaiting_one (u := s.setRxFlow (flowKey f) (s.turnOf f [f])) (r := s.turnOf f [f]) (r' := s.turnOf f [])
    (s.rxFlow_setRxFlow _ _) rfl rfl hexp.symm hgo
  exact hstep

/-- Past the request the flow expects the next. -/
theorem turnTaken_passRx {t : State} (h : t.rxFlows = (s.atTurn f).rxFlows) : TurnTaken s (t.passRx (flowKey f)) f := by
  have hflow : t.rxFlow (flowKey f) = s.turnOf f [] := by
    rw [State.rxFlow, h]
    exact State.atTurn_rxFlow
  rw [TurnTaken, State.passRx, State.rxFlow_setRxFlow, hflow]
  rfl

end

/-! ## What an answer depends on -/

/-- `t` is as `s` is, as to the sending of flits. -/
structure NetSame (s t : State) : Prop where
  regs : t.regs = s.regs
  flows : t.flows = s.flows
  dropKey : t.dropKey = s.dropKey
  out : t.out = s.out
  portQ : t.portQ = s.portQ

theorem NetSame.refl (s : State) : NetSame s s := ⟨rfl, rfl, rfl, rfl, rfl⟩

theorem NetSame.trans {s t u : State} (h1 : NetSame s t) (h2 : NetSame t u) : NetSame s u :=
  ⟨h2.regs.trans h1.regs, h2.flows.trans h1.flows, h2.dropKey.trans h1.dropKey, h2.out.trans h1.out, h2.portQ.trans h1.portQ⟩

theorem State.withRx_netSame (s : State) (R : Tbl FlowRx) : NetSame s (s.withRx R) := ⟨rfl, rfl, rfl, rfl, rfl⟩

theorem accepted_of_regs {s t : State} {f : Flit} {typ : Nat} (h : Accepted s f typ) (hregs : t.regs = s.regs)
    (hdrop : t.dropKey = s.dropKey) : Accepted t f typ := by
  unfold Accepted State.node State.regF State.reg at *
  rwa [hregs, hdrop]

/-- An answer given after work that sent nothing is handed over as from the state before. -/
theorem NetSame.respond_handed {s t : State} {f : Flit} {typ0 p : Nat} (h : NetSame s t) (hacc : Accepted s f typ0)
    (hroute : RouteTo s f.src.toNat 2 p) (typ : Nat) (words : List FWord) (trailer : Nat) :
    Handed s (t.respond f typ words trailer) p (answerTo f (BitVec.ofNat 7 typ) words trailer) :=
  handed_congr (State.respond_handed (accepted_of_regs hacc h.regs h.dropKey) (routeTo_of_regs hroute h.regs h.flows) _ _ _)
    h.out.symm h.portQ.symm rfl rfl

theorem handed_passRx {s t : State} {p : Nat} {f : Flit} (h : Handed s t p f) (k : Nat) : Handed s (t.passRx k) p f := h

section
variable {s : State} {f : Flit} {typ : Nat} (hacc : Accepted s f typ) (hturn : InTurn s f)
include hacc hturn

/-- An accepted request in its turn. -/
theorem State.requestFlit_inTurn : s.requestFlit f typ = passedIf (flowKey f) ((s.atTurn f).serve f) := by
  unfold State.requestFlit
  dsimp only
  rw [accept_of_accepted hacc]
  exact State.arriveRequest_inTurn hturn

end

end Sys2Proof.Machine
end

section
/-! PROOFS. Stores in working memory for other nodes (R24, R251): the bytes of a granule, and what a store leaves. -/
namespace Sys2Proof.Machine
open Sys2Proof.Claims

/-! ## The bytes of a granule (R9) -/

/-- The bytes of the number that bytes make. -/
theorem natBytes_bytesNat (l : List Byte) : natBytes l.length (bytesNat l) = l := by
  induction l with
  | nil => rfl
  | cons b l ih =>
    have hb := b.isLt
    have hrest : (b.toNat + 256 * bytesNat l) / 256 = bytesNat l := by omega
    have hfirst : BitVec.ofNat 8 (b.toNat + 256 * bytesNat l) = b := BitVec.eq_of_toNat_eq (by rw [BitVec.toNat_ofNat]; omega)
    rw [List.length_cons, bytesNat, natBytes, hrest, hfirst, ih]

theorem granuleBytes_ofBytes {l : List Byte} (h : l.length = 32) : granuleBytes (BitVec.ofNat 256 (bytesNat l)) = l := by
  have hlt : bytesNat l < 2 ^ 256 := (bytesNat_lt l).trans_eq (by rw [h]; rfl)
  rw [granuleBytes, BitVec.toNat_ofNat, Nat.mod_eq_of_lt hlt, ← h, natBytes_bytesNat]

theorem length_granuleBytes (g : Granule) : (granuleBytes g).length = 32 := natBytes_length _ _

theorem granuleBytes_eq_map (g : Granule) : granuleBytes g = (List.range 32).map (granByte g) := by
  refine List.ext_getElem (by simp [length_granuleBytes]) fun k hk hk' => ?_
  rw [List.getElem_map, List.getElem_range, granByte, Nat.pow_mul]
  exact getElem_natBytes 32 g.toNat k hk

/-- A byte of a granule as a field of it. -/
theorem ofNat_fld_eq_granByte (g : Granule) (i : Nat) : BitVec.ofNat 8 (fld g (8 * i) 8) = granByte g i :=
  BitVec.eq_of_toNat_eq (by rw [granByte, BitVec.toNat_ofNat, BitVec.toNat_ofNat, fld, Nat.mod_mod])

/-- The bytes of a merge: the new ones where the mask names them. -/
theorem granuleBytes_mergeMask (old new : Granule) (mask : W32) : granuleBytes (mergeMask old new mask) =
    (List.range 32).map fun i => if bit mask i then granByte new i else granByte old i := by
  rw [mergeMask, granuleBytes_ofBytes (by simp)]
  simp only [ofNat_fld_eq_granByte]

/-- The bytes of a granule of memory. -/
theorem State.granByte_granule (s : State) (a : Nat) {i : Nat} (hi : i < 32) :
    granByte (s.granule a) i = s.byte (a / 32 * 32 + i) := by
  have hbytes : granuleBytes (s.granule a) = s.bytes (a / 32 * 32) 32 := granuleBytes_ofBytes (by simp [State.bytes])
  rw [granuleBytes_eq_map] at hbytes
  exact List.map_inj_left.1 hbytes i (List.mem_range.2 hi)

/-! ## A store in a granule of working memory -/

/-- The granule at a device address: in working memory, clean, and free. -/
structure WorkGranule (s : State) (d : Nat) : Prop where
  region : s.region d = .working
  clean : s.poisoned (d / 32) = false
  free : s.lineBusy (32 * (d / 32)) true = false

/-- A global address of the package itself. -/
def ownGlobal (d : Nat) : Nat := 0xFFFF * 2 ^ 48 + d

theorem devAddr_ownGlobal {d : Nat} (h : d < 2 ^ 48) : devAddr (ownGlobal d) = d := by
  simp only [devAddr, ownGlobal]
  omega

/-- The package's own global addresses are local in every node. -/
theorem isLocal_ownGlobal (s : State) {d : Nat} (h : d < 2 ^ 48) : s.isLocal (ownGlobal d) = true := by
  have hnode : ownGlobal d / 2 ^ 48 % 65536 = 0xFFFF := by simp only [ownGlobal]; omega
  rw [State.isLocal, hnode]
  rfl

section
variable {s : State} {d : Nat} (h : WorkGranule s d)
include h

theorem WorkGranule.hostBytes_storeBytes (bs : List Byte) (n : Nat) :
    (s.storeBytes d bs).hostBytes 5 d n = s.storeBytes d bs := by
  have hregion : (s.storeBytes d bs).region d = .working := h.region
  rw [State.hostBytes, hregion, if_neg (by decide)]

variable (hd : d < 2 ^ 48)
include hd

theorem WorkGranule.ownWrite : OwnWrite s (ownGlobal d) 1 := by
  refine ⟨⟨Nat.mod_one _, isLocal_ownGlobal s hd, ?_, ?_⟩, ?_, ?_⟩ <;> rw [devAddr_ownGlobal hd]
  · rw [State.accessible, h.region]
  · exact h.clean
  · rw [State.streamFails, h.region]
    rfl
  · exact h.free

variable {bs : List Byte} (hpos : 0 < bs.length) (hend : d % 32 + bs.length ≤ 32)
include hpos hend

/-- A store in it is its bytes. -/
theorem WorkGranule.store (r : Req) : s.store r d bs = s.storeBytes d bs := by
  have hstore := ownWrite_store_within (h.ownWrite hd) r (bs := bs) hpos (by rwa [devAddr_ownGlobal hd])
  rw [devAddr_ownGlobal hd, h.hostBytes_storeBytes] at hstore
  exact hstore

theorem WorkGranule.gstore (r : Req) (hrepl : s.replStore (ownGlobal d) = false) (hheld : s.replHeld = []) :
    s.gstore r (ownGlobal d) bs false = s.storeBytes d bs := by
  have hstore := ownWrite_gstore_within (h.ownWrite hd) r (bs := bs) hpos (by rwa [devAddr_ownGlobal hd]) hrepl hheld
  rw [devAddr_ownGlobal hd, h.hostBytes_storeBytes] at hstore
  exact hstore

end

/-- Bytes stored in a clean granule are read back. -/
theorem State.bytes_storeBytes (s : State) {d : Nat} {bs : List Byte} (hend : d % 32 + bs.length ≤ 32)
    (hclean : s.poisoned (d / 32) = false) : (s.storeBytes d bs).bytes d bs.length = bs := by
  refine List.ext_getElem (by simp [State.bytes]) fun k hk hk' => ?_
  simp only [State.bytes, List.getElem_map, List.getElem_range]
  exact s.byte_storeBytes_same d k bs hk' (by rwa [show (d + k) / 32 = d / 32 by omega])

theorem State.storeBytes_netSame (s : State) (d : Nat) (bs : List Byte) : NetSame s (s.storeBytes d bs) :=
  ⟨rfl, rfl, rfl, rfl, rfl⟩

/-! ## What a request must not wait for (R252, R260) -/

/-- Where a range is free, each of its granules is. -/
theorem lineBusy_of_rangeBusy {s : State} {a n g : Nat} {write : Bool} (h : s.rangeBusy a n write = false)
    (hg : g ∈ granules a n) : s.lineBusy (32 * g) write = false := by
  rw [State.rangeBusy, List.any_eq_false] at h
  exact Bool.eq_false_iff.2 (h g hg)

/-- A request that need not wait may use its span. -/
theorem rangeBusy_of_mustWait {s : State} {f : Flit} (h : s.mustWait f = false) :
    s.rangeBusy (s.flitSpan f).1 (s.flitSpan f).2.1 (s.flitSpan f).2.2 = false := (Bool.or_eq_false_iff.1 h).1

end Sys2Proof.Machine
end

section
/-! PROOFS. Reads and writes for other nodes, in their turn (R270, R280). -/
namespace Sys2Proof.Machine
open Sys2Proof.Claims

/-! ## A request that is performed -/

section
variable {s v : State} {f : Flit} {typ : Nat} (hacc : Accepted s f typ) (hturn : InTurn s f)
include hacc hturn

/-- The step of a request that its flow goes past. -/
theorem State.requestFlit_passed (hserve : (s.atTurn f).serve f = (v, true)) :
    s.requestFlit f typ = v.passRx (flowKey f) := by
  rw [State.requestFlit_inTurn hacc hturn, hserve]
  rfl

end

section
variable (s : State) {f : Flit}

theorem State.serve_read (h : f.typ.toNat = 0x01) : s.serve f = (s.serveRead f, true) := by rw [State.serve, h]; rfl
theorem State.serve_write (h : f.typ.toNat = 0x03) : s.serve f = (s.serveWrite f, true) := by rw [State.serve, h]; rfl
theorem State.serve_atomic (h : f.typ.toNat = 0x05) : s.serve f = s.serveAtomic f := by rw [State.serve, h]; rfl
theorem State.serve_dmaRd (h : f.typ.toNat = 0x08) : s.serve f = (s.serveDmaRd f, true) := by rw [State.serve, h]; rfl

theorem State.serve_chunk (h : f.typ.toNat = 0x09) : s.serve f = (s.chunkFlit f 0x0A, f.last) := by rw [State.serve, h]; rfl

theorem State.flitSpan_write (h : f.typ.toNat = 0x03) : s.flitSpan f = (flitAddr f, 32 * f.words.length, true) := by
  rw [State.flitSpan, h]
  rfl

theorem State.flitSpan_atomic (h : f.typ.toNat = 0x05) : s.flitSpan f = (flitAddr f, 32, true) := by
  rw [State.flitSpan, h]
  rfl

theorem State.flitSpan_dmaRd (h : f.typ.toNat = 0x08) : s.flitSpan f = (flitAddr f, fld f.trailer 0 12 + 33, false) := by
  rw [State.flitSpan, h]
  rfl

end

theorem flitAddr_lt (f : Flit) : flitAddr f < 2 ^ 48 := by
  have h := f.addr.isLt
  simp only [flitAddr]
  omega

theorem flitAddr_mod (f : Flit) : flitAddr f % 32 = 0 := Nat.mul_mod_left _ _

theorem flitAddr_div (f : Flit) : flitAddr f / 32 = f.addr.toNat := Nat.mul_div_cancel _ (by decide)

theorem SendFrame.rxFlows {s t : State} (h : SendFrame s t) : t.rxFlows = s.rxFlows := by rw [h]

/-! ## Reads -/

/-- A read that stays in a page of working memory answers the sectors that it names (R270). -/
theorem State.serveRead_ok {s : State} {f : Flit} {n : Nat} (hn : f.trailer.toNat % 8 = n) (h1 : 1 ≤ n) (h6 : n ≤ 6)
    (hpage : flitAddr f % 4096 + 32 * n ≤ 4096) (htarget : s.remoteTarget (flitAddr f) (32 * n) = none) :
    s.serveRead f = s.respond f 0x02 ((List.range n).map fun i =>
      fword (s.granule (flitAddr f + 32 * i)) (s.poisoned (flitAddr f / 32 + i))) 0 := by
  have hfld : fld f.trailer 0 3 = n := (congrArg (· % 8) (Nat.div_one _)).trans hn
  have hbad : ¬ (n ≠ max 1 (min 6 n) ∨ 4096 < flitAddr f % 4096 + 32 * n) := by omega
  unfold State.serveRead
  dsimp only
  rw [hfld, if_neg hbad, htarget]

/-! ## Writes -/

/-- A sector that need not be waited for is free. -/
theorem sector_free {s : State} {a : Nat} {write : Bool} (ha : a % 32 = 0) (h : s.rangeBusy a 32 write = false) :
    s.lineBusy (32 * (a / 32)) write = false := by
  refine lineBusy_of_rangeBusy h ?_
  rw [granules_within (by decide) (by omega)]
  exact List.mem_singleton_self _

/-- `v` is `s` with the bytes of a mask written in the sector at `a`; what sending depends on is the same. -/
structure MaskStored (s v : State) (a : Nat) (mask : W32) (g : Granule) : Prop where
  net : NetSame s v
  rxFlows : v.rxFlows = s.rxFlows
  inside : ∀ i, i < 32 → v.byte (a + i) = if bit mask i then granByte g i else s.byte (a + i)
  outside : ∀ x, (x < a ∨ a + 32 ≤ x) → v.byte x = s.byte x

section
variable {s : State} {a : Nat} {mask : W32} {g : Granule}

theorem maskStored_zero : MaskStored s s a 0 g where
  net := .refl s
  rxFlows := rfl
  inside i _ := by simp [bit]
  outside _ _ := rfl

variable (ha : a % 32 = 0) (hclean : s.poisoned (a / 32) = false)
include ha hclean

theorem maskStored_storeBytes {F : Nat → Byte}
    (hF : ∀ i, i < 32 → F i = if bit mask i then granByte g i else s.byte (a + i)) :
    MaskStored s (s.storeBytes a ((List.range 32).map F)) a mask g where
  net := s.storeBytes_netSame _ _
  rxFlows := rfl
  inside i hi := by
    rw [s.byte_storeBytes_map F (by omega) hclean, if_pos (by omega), Nat.add_sub_cancel_left, hF i hi]
  outside x hx := by rw [s.byte_storeBytes_map F (by omega) hclean, if_neg (by omega)]

theorem maskStored_merge : MaskStored s (s.storeBytes (a / 32 * 32) (granuleBytes (mergeMask (s.granule a) g mask))) a mask g := by
  have hbase : a / 32 * 32 = a := by omega
  rw [hbase, granuleBytes_mergeMask]
  exact maskStored_storeBytes ha hclean fun i hi => by rw [s.granByte_granule a hi, hbase]

theorem maskStored_whole (hmask : mask = BitVec.allOnes 32) : MaskStored s (s.storeBytes a (granuleBytes g)) a mask g := by
  rw [granuleBytes_eq_map]
  refine maskStored_storeBytes ha hclean fun i hi => ?_
  rw [hmask, bit, BitVec.getLsbD_allOnes, decide_eq_true hi, if_pos rfl]

end

/-- The bytes of a write's mask are stored, in one granule of working memory (R251). -/
theorem WorkGranule.storeWords {s : State} {a : Nat} (h : WorkGranule s a) (ha : a % 32 = 0) (hd : a < 2 ^ 48) (r : Req)
    (mask : W32) (g : Granule) : MaskStored s (s.storeWords r a mask [(g, false)]) a mask g := by
  have hlen : (granuleBytes g).length = 32 := length_granuleBytes g
  have hone : s.storeWords r a mask [(g, false)] =
      if mask = BitVec.allOnes 32 then s.store r a (granuleBytes g) else s.storeMask a mask g false := rfl
  rw [hone]
  split
  case isTrue hall =>
    rw [h.store hd (by omega) (by omega)]
    exact maskStored_whole ha h.clean hall
  case isFalse =>
    unfold State.storeMask
    rw [h.clean]
    split
    case isTrue hzero => exact hzero ▸ maskStored_zero
    case isFalse => exact maskStored_merge ha h.clean

/-- A write of one word to a granule of working memory is performed and acknowledged (R270). -/
theorem State.serveWrite_ok {s : State} {f : Flit} {g : Granule} (hwords : f.words = cleanWords [g])
    (htarget : s.remoteTarget (flitAddr f) 32 = none) : s.serveWrite f =
      (s.storeWords (nodeReq f) (flitAddr f) (f.trailer.truncate 32) [(g, false)]).respond f 0x04 [] 0 := by
  have hlen : f.words.length = 1 := by rw [hwords]; rfl
  unfold State.serveWrite
  dsimp only
  rw [hlen, hwords, State.takeWords_clean, Nat.mul_one]
  dsimp only
  rw [htarget]
  rfl

/-! ## Remote accesses reach working memory (R24) -/

/-- What starts in a granule and may be reached stands in working memory. -/
theorem region_of_remoteTarget {s : State} {a n : Nat} (hn : 0 < n) (hend : a % 32 + n ≤ 32) (h : s.remoteTarget a n = none) :
    s.region a = .working := by
  have hmax : max a (32 * (a / 32)) = a := by omega
  rw [State.remoteTarget, firstRefused, granules_within hn hend, List.map_singleton, hmax, List.find?_singleton] at h
  by_contra hne
  simp [hne] at h

end Sys2Proof.Machine

namespace Sys2Proof.Proofs
open Sys2Proof Sys2Proof.Machine Sys2Proof.Claims

section
variable {f : Flit} {p : Nat} {s : State} (hroute : RouteTo s f.src.toNat 2 p) (hturn : InTurn s f)
include hroute hturn

/-- A read of another node, in its turn (R270). -/
theorem read_served (hacc : Accepted s f 0x01) (h1 : 1 ≤ f.trailer.toNat % 8) (h6 : f.trailer.toNat % 8 ≤ 6)
    (hpage : f.addr.toNat * 32 % 4096 + 32 * (f.trailer.toNat % 8) ≤ 4096)
    (htarget : s.remoteTarget (f.addr.toNat * 32) (32 * (f.trailer.toNat % 8)) = none) :
    ∃ t, exec (.rdReq f) s = .next t ∧ TurnTaken s t f ∧ (∀ x, t.byte x = s.byte x) ∧
      Handed s t p (answerTo f 2 ((List.range (f.trailer.toNat % 8)).map fun i =>
        fword (s.granule (f.addr.toNat * 32 + 32 * i)) (s.poisoned (f.addr.toNat * 32 / 32 + i))) 0) := by
  obtain ⟨-, -, htyp, -⟩ := id hacc
  obtain ⟨R, hR⟩ := State.atTurn_eq (s := s) (f := f)
  have hserve := (s.atTurn f).serve_read htyp
  rw [State.serveRead_ok rfl h1 h6 hpage (by rw [hR]; exact htarget)] at hserve
  refine ⟨_, congrArg Host.Outcome.next (State.requestFlit_passed hacc hturn hserve),
    turnTaken_passRx (State.respond_sendFrame _ _ _ _ _).rxFlows, fun x => ?_, handed_passRx ?_ _⟩
  · refine ((State.respond_sendFrame _ _ _ _ _).byte x).trans ?_
    rw [hR]
    rfl
  · rw [hR]
    exact (s.withRx_netSame R).respond_handed hacc hroute _ _ _

/-- A write of another node, in its turn (R270, R251). -/
theorem write_served (hacc : Accepted s f 0x03) {g : Granule} (hwords : f.words = cleanWords [g])
    (htarget : s.remoteTarget (f.addr.toNat * 32) 32 = none) (hclean : s.poisoned (f.addr.toNat * 32 / 32) = false)
    (hregion : s.region (f.addr.toNat * 32) = .working) :
    ∃ t, exec (.wrReq f) s = .next t ∧ TurnTaken s t f ∧ Handed s t p (answerTo f 4 [] 0) ∧
      (∀ i, i < 32 → t.byte (f.addr.toNat * 32 + i) =
        if f.trailer.getLsbD i then granByte g i else s.byte (f.addr.toNat * 32 + i)) ∧
      ∀ x, (x < f.addr.toNat * 32 ∨ f.addr.toNat * 32 + 32 ≤ x) → t.byte x = s.byte x := by
  obtain ⟨-, -, htyp, -⟩ := id hacc
  have hlen : f.words.length = 1 := by rw [hwords]; rfl
  obtain ⟨-, -, -, hgo⟩ := id hturn
  have hfree := rangeBusy_of_mustWait hgo
  rw [s.flitSpan_write htyp, hlen] at hfree
  have hgran : WorkGranule s (flitAddr f) := ⟨hregion, hclean, sector_free (flitAddr_mod f) hfree⟩
  obtain ⟨R, hR⟩ := State.atTurn_eq (s := s) (f := f)
  have hserve := (s.atTurn f).serve_write htyp
  rw [State.serveWrite_ok hwords (by rw [hR]; exact htarget)] at hserve
  have hturnGran : WorkGranule (s.atTurn f) (flitAddr f) := by
    rw [hR]
    exact ⟨hgran.region, hgran.clean, hgran.free⟩
  have hstored := hturnGran.storeWords (flitAddr_mod f) (flitAddr_lt f) (nodeReq f) (f.trailer.truncate 32) g
  have hnet : NetSame s (s.atTurn f) := by rw [hR]; exact s.withRx_netSame R
  have hbyte (x : Nat) : (s.atTurn f).byte x = s.byte x := by rw [hR]; rfl
  refine ⟨_, congrArg Host.Outcome.next (State.requestFlit_passed hacc hturn hserve),
    turnTaken_passRx ((State.respond_sendFrame _ _ _ _ _).rxFlows.trans hstored.rxFlows),
    handed_passRx ((hnet.trans hstored.net).respond_handed hacc hroute _ _ _) _, fun i hi => ?_, fun x hx => ?_⟩
  · refine ((State.respond_sendFrame _ _ _ _ _).byte _).trans ((hstored.inside i hi).trans ?_)
    rw [hbyte, bit, BitVec.truncate_eq_setWidth, BitVec.getLsbD_setWidth, decide_eq_true hi, Bool.true_and]
    rfl
  · exact ((State.respond_sendFrame _ _ _ _ _).byte _).trans ((hstored.outside x hx).trans (hbyte x))

end

end Sys2Proof.Proofs
end

section
/-! PROOFS. Atomics for other nodes (R282): performed once in their turn, remembered, and answered from the reply cache. -/
namespace Sys2Proof.Machine
open Sys2Proof.Claims

/-- The state with another reply cache. -/
def State.withReplies (s : State) (x : Tbl (List Reply)) : State := { s with replies := x }

/-- The reply to an atomic that was performed is kept. -/
def State.remember (s : State) (src : Nat) (r : Reply) : State :=
  s.withReplies (Tbl.set [] s.replies src ((s.freshReplies src ++ [r]).drop ((s.freshReplies src ++ [r]).length - 1024)))

section
variable (s : State) (x : Tbl (List Reply))

theorem State.withReplies_netSame : NetSame s (s.withReplies x) := ⟨rfl, rfl, rfl, rfl, rfl⟩
theorem State.withReplies_rxFlows : (s.withReplies x).rxFlows = s.rxFlows := rfl
theorem State.withReplies_mem : (s.withReplies x).mem = s.mem := rfl
theorem State.withReplies_replies : (s.withReplies x).replies = x := rfl

end

section
variable (s : State) (src : Nat) (r : Reply)

theorem State.remember_netSame : NetSame s (s.remember src r) := s.withReplies_netSame _
theorem State.remember_rxFlows : (s.remember src r).rxFlows = s.rxFlows := s.withReplies_rxFlows _
theorem State.remember_mem : (s.remember src r).mem = s.mem := s.withReplies_mem _

theorem State.remember_byte (x : Nat) : (s.remember src r).byte x = s.byte x := by
  rw [State.byte, s.remember_mem]
  rfl

/-- The reply that is kept is the last. -/
theorem State.remember_last : (Tbl.get [] (s.remember src r).replies src).getLast? = some r := by
  rw [State.remember, State.withReplies_replies, Tbl.get_set_same, List.getLast?_drop, List.getLast?_concat]
  refine if_neg ?_
  rw [List.length_append, List.length_singleton]
  omega

end

/-! ## An atomic in its turn -/

/-! ## An atomic in its turn -/

/-- The address of an atomic's operand. -/
def atomAddr (f : Flit) (o : AtomOp) : Nat := flitAddr f + o.off.val

/-- What an atomic leaves in memory, of the word `w` that came with it. -/
def State.atomStored (s : State) (f : Flit) (w : Granule × Bool) : State :=
  let o := flitAtom f w.1
  let n := 2 ^ o.size.val
  match s.remoteTarget (atomAddr f o) n with
  | some x => s.addressEvent (nodeReq f) x
  | none =>
    if w.2 then s.storePoison (nodeReq f) (atomAddr f o) n
    else s.store (nodeReq f) (atomAddr f o) (natBytes n (atomResult o (s.num (atomAddr f o) n)))

/-- The reply to it. -/
def State.atomReplied (s : State) (f : Flit) (w : Granule × Bool) : Reply :=
  let o := flitAtom f w.1
  let n := 2 ^ o.size.val
  match s.remoteTarget (atomAddr f o) n with
  | some _ => { tag := f.tag.toNat, result := 0, poison := true, status := 1, time := s.ft }
  | none => { tag := f.tag.toNat, result := BitVec.ofNat 64 (s.num (atomAddr f o) n), poison := s.poisonIn (atomAddr f o) n,
              status := 0, time := s.ft }

/-- An atomic whose word came clean, where there is a place for its reply. -/
theorem State.serveAtomic_eq {s : State} {f : Flit} {w : Granule} (hwords : f.words = cleanWords [w])
    (hroom : s.replies.length < 64) : s.serveAtomic f =
      (((s.atomStored f (w, false)).remember f.src.toNat (s.atomReplied f (w, false))).atomReply f (s.atomReplied f (w, false)),
        true) := by
  have hplace : s.replyPlace f.src.toNat = some s := if_pos (by simp [hroom])
  have htake : f.words.take 1 = cleanWords [w] := by rw [hwords]; rfl
  unfold State.serveAtomic
  extract_lets src
  rw [hplace]
  dsimp only
  rw [htake, State.takeWords_clean]
  rfl

/-- An aligned operand lies in its sector. -/
theorem atomAddr_within {f : Flit} {o : AtomOp} (halign : o.off.val % 2 ^ o.size.val = 0) :
    atomAddr f o % 32 + 2 ^ o.size.val ≤ 32 := by
  have hbase := flitAddr_mod f
  have hoff := o.off.isLt
  have hsize : o.size.val < 4 := o.size.isLt
  have hmod : atomAddr f o % 32 = o.off.val := by simp only [atomAddr]; omega
  rw [hmod]
  interval_cases o.size.val <;> omega

theorem atomAddr_div (f : Flit) (o : AtomOp) : atomAddr f o / 32 = flitAddr f / 32 := by
  have hbase := flitAddr_mod f
  have hoff := o.off.isLt
  simp only [atomAddr]
  omega

theorem atomAddr_lt (f : Flit) (o : AtomOp) : atomAddr f o < 2 ^ 48 := by
  have hdiv := atomAddr_div f o
  have haddr := f.addr.isLt
  rw [flitAddr_div] at hdiv
  omega

/-- The old value of an atomic fills at most 64 bits. -/
theorem State.atomOld_lt (s : State) (a : Nat) (o : AtomOp) : s.num a (2 ^ o.size.val) < 2 ^ 64 := by
  have hsize : 2 ^ o.size.val ≤ 8 := (Nat.pow_le_pow_right (by decide) (Nat.le_of_lt_succ o.size.isLt)).trans_eq rfl
  exact (s.num_lt _ _).trans_le ((Nat.pow_le_pow_right (by decide) hsize).trans_eq rfl)

section
variable {s : State} {f : Flit} {w : Granule} {v : Nat}
  (halign : (flitAtom f w).off.val % 2 ^ (flitAtom f w).size.val = 0)
  (hgran : WorkGranule s (atomAddr f (flitAtom f w)))
  (htarget : s.remoteTarget (atomAddr f (flitAtom f w)) (2 ^ (flitAtom f w).size.val) = none)
include halign hgran htarget

/-- On a clean granule of working memory the new value is stored. -/
theorem State.atomStored_ok
    (hv : atomNew (flitAtom f w) (s.num (atomAddr f (flitAtom f w)) (2 ^ (flitAtom f w).size.val)) = some v) :
    s.atomStored f (w, false) = s.storeBytes (atomAddr f (flitAtom f w)) (natBytes (2 ^ (flitAtom f w).size.val) v) := by
  have hpos : 0 < 2 ^ (flitAtom f w).size.val := Nat.two_pow_pos _
  have hwithin := atomAddr_within (f := f) halign
  unfold State.atomStored
  dsimp only
  rw [htarget]
  dsimp only
  rw [if_neg Bool.false_ne_true, atomResult, hv]
  exact hgran.store (atomAddr_lt f _) (by rwa [natBytes_length]) (by rwa [natBytes_length]) _

/-- The reply has the old value. -/
theorem State.atomReplied_ok : s.atomReplied f (w, false) =
    { tag := f.tag.toNat, result := BitVec.ofNat 64 (s.num (atomAddr f (flitAtom f w)) (2 ^ (flitAtom f w).size.val)),
      poison := false, status := 0, time := s.ft } := by
  have hpoison : s.poisonIn (atomAddr f (flitAtom f w)) (2 ^ (flitAtom f w).size.val) = false := by
    rw [State.poisonIn, granules_within (Nat.two_pow_pos _) (atomAddr_within halign), List.any_cons, hgran.clean]
    rfl
  unfold State.atomReplied
  dsimp only
  rw [htarget, hpoison]

end

theorem SendFrame.replies {s t : State} (h : SendFrame s t) : t.replies = s.replies := by rw [h]

theorem State.num_of_bytes {s t : State} (h : ∀ x, t.byte x = s.byte x) (a n : Nat) : t.num a n = s.num a n := by
  simp only [State.num, State.bytes, h]

/-! ## An atomic that comes again -/

theorem State.serveDup_atomic (s : State) {f : Flit} (h : f.typ.toNat = 0x05) : s.serveDup f = s.dupAtomic f := by
  rw [State.serveDup, h]
  rfl

theorem State.freshReplies_congr {s t : State} (hreplies : t.replies = s.replies) (htime : t.time = s.time) (src : Nat) :
    t.freshReplies src = s.freshReplies src := by
  unfold State.freshReplies State.ft
  rw [hreplies, htime]

theorem State.dupAtomic_found {s : State} {f : Flit} {r : Reply}
    (h : (s.freshReplies f.src.toNat).find? (fun q => q.tag == f.tag.toNat) = some r) : s.dupAtomic f = s.atomReply f r := by
  unfold State.dupAtomic
  rw [h]

/-- A counter of the FAB block changes nothing of what is accepted. -/
theorem accepted_count64 {s : State} {R : Tbl FlowRx} {f : Flit} {typ k : Nat} (h : Accepted s f typ) (hk : k < 16) (n : Nat) :
    Accepted ((s.withRx R).count64 (Reg.fabCnt k) n) f typ := by
  have hnode : ((s.withRx R).count64 (Reg.fabCnt k) n).node = s.node :=
    State.regF_congr (State.reg_setReg_other _ _ (by simp only [Reg.fabNode, Reg.fabCnt]; omega)) _ _
  have hkey : ((s.withRx R).count64 (Reg.fabCnt k) n).regF Reg.fabPkey 0 16 = s.regF Reg.fabPkey 0 16 :=
    State.regF_congr (State.reg_setReg_other _ _ (by simp only [Reg.fabPkey, Reg.fabCnt]; omega)) _ _
  unfold Accepted
  rw [hnode, hkey]
  exact h

end Sys2Proof.Machine

namespace Sys2Proof.Proofs
open Sys2Proof Sys2Proof.Machine Sys2Proof.Claims

theorem atomic_served {f : Flit} {p : Nat} {s : State} (hroute : RouteTo s f.src.toNat 2 p) (hturn : InTurn s f)
    (hacc : Accepted s f 0x05) {w : Granule} {v : Nat} (hwords : f.words = cleanWords [w]) (hroom : s.replies.length < 64)
    (htarget : s.remoteTarget (atomAddr f (flitAtom f w)) (2 ^ (flitAtom f w).size.val) = none)
    (halign : (flitAtom f w).off.val % 2 ^ (flitAtom f w).size.val = 0) (hclean : s.poisoned (flitAddr f / 32) = false)
    (hv : atomNew (flitAtom f w) (s.num (atomAddr f (flitAtom f w)) (2 ^ (flitAtom f w).size.val)) = some v) :
    let a := atomAddr f (flitAtom f w)
    let n := 2 ^ (flitAtom f w).size.val
    ∃ t, exec (.atomReq f) s = .next t ∧ TurnTaken s t f ∧ t.num a n = v % 2 ^ (8 * n) ∧
        (∀ x, (x < a ∨ a + n ≤ x) → t.byte x = s.byte x) ∧
        Handed s t p (answerTo f 6 [fword (BitVec.ofNat 256 (s.num a n)) false] 0) ∧
        ∃ r, (Tbl.get [] t.replies f.src.toNat).getLast? = some r ∧ r.tag = f.tag.toNat ∧ r.status = 0 ∧
          r.result.toNat = s.num a n := by
  intro a n
  obtain ⟨-, -, htyp, -⟩ := id hacc
  obtain ⟨-, -, -, hgo⟩ := id hturn
  have hwithin : a % 32 + n ≤ 32 := atomAddr_within halign
  have hfree := rangeBusy_of_mustWait hgo
  rw [s.flitSpan_atomic htyp] at hfree
  have hgran : WorkGranule s a := by
    refine ⟨region_of_remoteTarget (Nat.two_pow_pos _) hwithin htarget, ?_, ?_⟩ <;> rw [atomAddr_div]
    · exact hclean
    · exact sector_free (flitAddr_mod f) hfree
  let r : Reply := { tag := f.tag.toNat, result := BitVec.ofNat 64 (s.num a n), poison := false, status := 0, time := s.ft }
  obtain ⟨R, hR⟩ := State.atTurn_eq (s := s) (f := f)
  have hgran' : WorkGranule (s.withRx R) a := ⟨hgran.region, hgran.clean, hgran.free⟩
  have hserve : (s.atTurn f).serve f =
      ((((s.atTurn f).storeBytes a (natBytes n v)).remember f.src.toNat r).atomReply f r, true) := by
    rw [hR, State.serve_atomic _ htyp, State.serveAtomic_eq (s := s.withRx R) hwords hroom,
      State.atomStored_ok halign hgran' htarget hv, State.atomReplied_ok halign hgran' htarget]
    rfl
  have hsend := State.respond_sendFrame (((s.atTurn f).storeBytes a (natBytes n v)).remember f.src.toNat r) f 0x06
    [fword (BitVec.ofNat 256 r.result.toNat) r.poison] r.status
  have hlen : (natBytes n v).length = n := natBytes_length _ _
  have hresult : r.result.toNat = s.num a n :=
    (BitVec.toNat_ofNat _ _).trans (Nat.mod_eq_of_lt (s.atomOld_lt a (flitAtom f w)))
  have hnet : NetSame s (((s.atTurn f).storeBytes a (natBytes n v)).remember f.src.toNat r) := by
    rw [hR]
    exact ((s.withRx_netSame R).trans (State.storeBytes_netSame _ _ _)).trans (State.remember_netSame _ _ _)
  have hbyte (x : Nat) : (State.passRx (State.atomReply _ f r) (flowKey f)).byte x =
      ((s.withRx R).storeBytes a (natBytes n v)).byte x := (hsend.byte x).trans (by rw [State.remember_byte, hR])
  refine ⟨_, congrArg Host.Outcome.next (State.requestFlit_passed hacc hturn hserve),
    turnTaken_passRx (hsend.rxFlows.trans (State.remember_rxFlows _ _ _)), ?_, fun x hx => ?_, handed_passRx ?_ _, r, ?_, rfl, rfl,
    hresult⟩
  · have hbytes := (s.withRx R).bytes_storeBytes (bs := natBytes n v) (by rwa [hlen]) hgran'.clean
    rw [hlen] at hbytes
    rw [State.num_of_bytes hbyte, State.num, hbytes, bytesNat_natBytes, Nat.pow_mul]
  · exact (hbyte x).trans (State.byte_storeBytes_other _ _ _ _ (by rwa [hlen]))
  · rw [← hresult]
    exact hnet.respond_handed hacc hroute 0x06 _ 0
  · exact (congrArg (fun x => (Tbl.get [] x f.src.toNat).getLast?) hsend.replies).trans (State.remember_last _ _ _)

/-- A duplicate atomic is answered from the reply cache (R282). -/
theorem atomicPerformedOnce : Parts.AtomicPerformedOnce := by
  intro f p r s hroute hacc hstart hdup hfind
  obtain ⟨-, -, htyp, -⟩ := id hacc
  have hnot : ¬ (f.start = true ∧ ((s.rxFlow (flowKey f)).last = 0 ∨ (s.rxFlow (flowKey f)).last + msec ≤ s.ft)) := by
    simp [hstart]
  obtain ⟨R, hR⟩ : ∃ R, s.setRxFlow (flowKey f) { s.rxFlow (flowKey f) with last := s.ft } = s.withRx R := ⟨_, rfl⟩
  have hfresh : ((s.withRx R).count64 (Reg.fabCnt 7) 1).freshReplies f.src.toNat = s.freshReplies f.src.toNat :=
    State.freshReplies_congr rfl rfl _
  have hexec : exec (.atomReq f) s = .next (((s.withRx R).count64 (Reg.fabCnt 7) 1).atomReply f r) := by
    show Host.Outcome.next (s.requestFlit f 0x05) = _
    unfold State.requestFlit
    dsimp only
    rw [accept_of_accepted hacc, if_pos rfl]
    dsimp only
    unfold State.arriveRequest
    dsimp only
    rw [if_neg hnot]
    dsimp only
    rw [if_neg (Nat.not_lt.2 hdup), hR, State.serveDup_atomic _ htyp, 
      State.dupAtomic_found (by rw [hfresh, hfind])]
  have hsend := State.respond_sendFrame ((s.withRx R).count64 (Reg.fabCnt 7) 1) f 0x06
    [fword (BitVec.ofNat 256 r.result.toNat) r.poison] r.status
  have hacc' : Accepted ((s.withRx R).count64 (Reg.fabCnt 7) 1) f 0x05 := accepted_count64 hacc (by decide) 1
  have hroute' : RouteTo ((s.withRx R).count64 (Reg.fabCnt 7) 1) f.src.toNat 2 p :=
    routeTo_count64 (routeTo_of_regs hroute rfl rfl) (by decide) 1
  exact ⟨_, hexec, hsend.mem, hsend.poison, hsend.replies,
    handed_congr (State.respond_handed hacc' hroute' 0x06 _ r.status) rfl rfl rfl rfl⟩

end Sys2Proof.Proofs
end

section
/-! PROOFS. Chunks (R284): what lies in one page of working memory, and a DMA_RD in its turn. -/
namespace Sys2Proof.Machine
open Sys2Proof.Claims

/-! ## Ranges of memory by granules (R23, R252) -/

section
variable {a n g : Nat}

theorem mem_granules (hn : 0 < n) : g ∈ granules a n ↔ a / 32 ≤ g ∧ g ≤ (a + n - 1) / 32 := by
  rw [granules, if_neg hn.ne', mem_upFrom_iff]
  have : a / 32 ≤ (a + n - 1) / 32 := Nat.div_le_div_right (by omega)
  omega

/-- An access to addresses that are all allowed is not refused. -/
theorem firstRefused_of_forall {ok : Nat → Bool} (hn : 0 < n) (h : ∀ x, a ≤ x → x < a + n → ok x = true) :
    firstRefused ok a n = none := by
  refine List.find?_eq_none.2 fun x hx => ?_
  obtain ⟨g, hg, rfl⟩ := List.mem_map.1 hx
  obtain ⟨-, hle⟩ := (mem_granules hn).1 hg
  rw [h _ (by omega) (by omega)]
  decide

/-- A part of a free range is free. -/
theorem rangeBusy_mono {s : State} {a' n' : Nat} {write : Bool} (hn : 0 < n) (hle : a' ≤ a) (hend : a + n ≤ a' + n')
    (h : s.rangeBusy a' n' write = false) : s.rangeBusy a n write = false := by
  refine List.any_eq_false.2 fun g hg => ?_
  obtain ⟨hlo, hhi⟩ := (mem_granules hn).1 hg
  have hmem : g ∈ granules a' n' := (mem_granules (by omega)).2 ⟨by omega, by omega⟩
  rw [lineBusy_of_rangeBusy h hmem]
  decide

end

/-- A load from working memory has no event. -/
theorem State.loadEvent_working {s : State} {a n : Nat} (hn : 0 < n)
    (h : ∀ x, a ≤ x → x < a + n → s.region x = .working) (r : Req) : s.loadEvent r a n = s := by
  have hregion : s.region a = .working := h a le_rfl (by omega)
  have hallowed : firstRefused s.accessible a n = none :=
    firstRefused_of_forall hn fun x hlo hhi => by rw [State.accessible, h x hlo hhi]
  have hhost : s.hostBytes 4 a n = s := by rw [State.hostBytes, hregion, if_neg (by decide)]
  have hread : s.readFails a n = false := by
    simp only [State.readFails, State.streamFails, hregion]
    rfl
  unfold State.loadEvent
  rw [hallowed]
  dsimp only
  rw [hhost, hread, if_pos rfl]

/-! ## A chunk that is opened and sent at once (R280, R284) -/

theorem SendFrame.chunkQ {s t : State} (h : SendFrame s t) : t.chunkQ = s.chunkQ := by rw [h]
theorem SendFrame.chunksTx {s t : State} (h : SendFrame s t) : t.chunksTx = s.chunksTx := by rw [h]

/-- A chunk takes the next SEQ of its flow, before its flits are sent. -/
def State.chunkNumbered (s : State) (c : ChunkTx) : State :=
  { s.setFlow c.dst 6 { s.flow c.dst 6 with next := ((s.flow c.dst 6).next + 1) % 4096, started := true, busyAt := s.ft } with
    chunksTx := s.chunksTx.map fun x => if sameChunk c x then { x with seq := (s.flow c.dst 6).next, since := s.ft } else x }

section
variable (s : State) (c : ChunkTx)

theorem State.sendChunk_eq : s.sendChunk c =
    (s.chunkNumbered c).sendAs c (s.flow c.dst 6).next (!(s.flow c.dst 6).started) := rfl

theorem State.sendChunk_sendFrame : SendFrame (s.chunkNumbered c) (s.sendChunk c) := by
  rw [State.sendChunk_eq]
  exact State.sendAs_sendFrame _ _ _ _

theorem State.chunkNumbered_chunksTx : (s.chunkNumbered c).chunksTx =
    s.chunksTx.map fun x => if sameChunk c x then { x with seq := (s.flow c.dst 6).next, since := s.ft } else x := rfl

end

theorem pumpChunks_of_none {s : State} {dst : Nat} (h : ∀ x ∈ s.chunkQ, x.dst ≠ dst) (n : Nat) : pumpChunks dst n s = s := by
  cases n with
  | zero => rfl
  | succ n =>
    have hfind : s.chunkQ.find? (fun c => c.dst == dst) = none := List.find?_eq_none.2 fun x hx => by simpa using h x hx
    rw [pumpChunks, hfind]

/-- A chunk of another's that is sent to a node: what of it waits, and is outstanding. -/
def State.chunkListed (s : State) (c : ChunkTx) : State :=
  { s with outst := Tbl.set 0 s.outst c.dst (s.outstTo c.dst + 1), chunksTx := s.chunksTx ++ [c] }

/-- The state with another queue of chunks. -/
def State.withChunkQ (s : State) (q : List ChunkTx) : State := { s with chunkQ := q }

section
variable {s : State} {c : ChunkTx} (hread : c.read = false) (howner : c.owner = none) (hpocket : c.pocket = false)
  (hwaits : ∀ x ∈ s.chunkQ, x.dst ≠ c.dst) (hroom : (s.sentChunks c.dst).length < 2048) (hfree : s.chunkBusy c = false)

include hread howner hpocket in
theorem State.openChunk_eq (r : Req) : s.openChunk r c =
    pumpChunks c.dst (s.chunkQ.length + 1) ((s.chunkListed c).withChunkQ (s.chunkQ ++ [c])) := by
  unfold State.openChunk
  rw [hread, howner, hpocket]
  rfl

include hwaits in
/-- The new chunk is the one that is sent next. -/
theorem find?_newChunk : (s.chunkQ ++ [c]).find? (fun x => x.dst == c.dst) = some c := by
  have hnone : s.chunkQ.find? (fun x => x.dst == c.dst) = none := List.find?_eq_none.2 fun x hx => by simpa using hwaits x hx
  rw [List.find?_append, hnone, Option.none_or, List.find?_singleton, beq_self_eq_true]
  rfl

include hwaits in
theorem erase_newChunk : (s.chunkQ ++ [c]).erase c = s.chunkQ := by
  rw [List.erase_append_right _ fun h => hwaits c h rfl, List.erase_cons_head, List.append_nil]

/-- The new chunk is not among those that were sent. -/
theorem sentChunks_newChunk : (((s.chunkListed c).withChunkQ (s.chunkQ ++ [c])).sentChunks c.dst).length ≤
    (s.sentChunks c.dst).length := by
  have hnew : ([c].filter fun x => x.dst == c.dst && !(s.chunkQ ++ [c]).contains x) = [] := by simp
  show ((s.chunksTx ++ [c]).filter fun x => x.dst == c.dst && !(s.chunkQ ++ [c]).contains x).length ≤ _
  rw [List.filter_append, hnew, List.append_nil]
  refine (List.monotone_filter_right _ fun x hx => ?_).length_le
  simp only [List.contains_append, Bool.and_eq_true, Bool.not_eq_true', Bool.or_eq_false_iff] at hx ⊢
  exact ⟨hx.1, hx.2.1⟩

include hread howner hpocket hwaits hroom hfree in
/-- A chunk with room on its flow, whose source is free, is sent at once. -/
theorem State.openChunk_sends (r : Req) : s.openChunk r c = (s.chunkListed c).sendChunk c := by
  have hq := erase_newChunk hwaits
  have hlimit := sentChunks_newChunk (s := s) (c := c)
  have hbusy : ((s.chunkListed c).withChunkQ (s.chunkQ ++ [c])).chunkBusy c = false := hfree
  have hgo : ¬ (2048 < (((s.chunkListed c).withChunkQ (s.chunkQ ++ [c])).sentChunks c.dst).length + 1 ∨
      ((s.chunkListed c).withChunkQ (s.chunkQ ++ [c])).chunkBusy c = true) := by
    rintro (hmany | hbusy')
    · omega
    · exact Bool.false_ne_true (hbusy.symm.trans hbusy')
  have hnext : ((s.chunkListed c).withChunkQ (s.chunkQ ++ [c])).withChunkQ ((s.chunkQ ++ [c]).erase c) = s.chunkListed c := by
    rw [hq]
    rfl
  have hrest : ((s.chunkListed c).sendChunk c).chunkQ = s.chunkQ := (State.sendChunk_sendFrame _ c).chunkQ
  rw [State.openChunk_eq hread howner hpocket, pumpChunks]
  show (match (s.chunkQ ++ [c]).find? fun x => x.dst == c.dst with | none => _ | some c => _) = _
  rw [find?_newChunk hwaits]
  dsimp only
  rw [if_neg hgo]
  exact (congrArg (fun t => pumpChunks c.dst _ (State.sendChunk t c)) hnext).trans
    (pumpChunks_of_none (by rw [hrest]; exact hwaits) _)

end

/-! ## The flits of a chunk (R284) -/

/-- The words of a chunk. -/
def State.chunkWords (s : State) (c : ChunkTx) : List (Granule × Bool) := (List.range (ceilDiv c.len 32)).map (s.chunkWord c)

/-- The one flit of a chunk of at most six words. -/
def State.onlyFlit (s : State) (c : ChunkTx) (typ vc seq : Nat) (start : Bool) : Flit :=
  s.mkFlit c.dst typ vc true c.tag seq start false (c.addr / 32 * 32) (((s.chunkWords c).take 6).map fun w => fword w.1 w.2)
    (crc64 (((s.chunkWords c).flatMap fun w => granuleBytes w.1).take c.len))

section
variable {s : State} {c : ChunkTx} (hpos : 0 < c.len) (hlen : c.len ≤ 192)
include hpos hlen

theorem State.chunkFlits_one (typ vc seq : Nat) (start : Bool) :
    s.chunkFlits c typ vc seq start = s.emit (s.onlyFlit c typ vc seq start) := by
  have hone : ceilDiv (ceilDiv c.len 32) 6 = 1 := by simp only [ceilDiv]; omega
  unfold State.chunkFlits
  dsimp only
  rw [hone]
  rfl

theorem State.onlyFlit_words_length (typ vc seq : Nat) (start : Bool) :
    (s.onlyFlit c typ vc seq start).words.length = ceilDiv c.len 32 := by
  have hsix : ceilDiv c.len 32 ≤ 6 := by simp only [ceilDiv]; omega
  show List.length (((s.chunkWords c).take 6).map _) = _
  rw [List.length_map, List.length_take, State.chunkWords, List.length_map, List.length_range]
  omega

/-- A chunk of at most six words is one flit, which the flow's port is given. -/
theorem State.sendAs_handed (hread : c.read = false) (hdst : c.dst < 65536) {q : Nat} (hroute : RouteTo s c.dst 6 q) (seq : Nat)
    (start : Bool) : Handed s (s.sendAs c seq start) q (s.onlyFlit c 0x09 6 seq start) := by
  have hdst' : (BitVec.ofNat 16 c.dst).toNat = c.dst := by rw [BitVec.toNat_ofNat]; exact Nat.mod_eq_of_lt hdst
  rw [State.sendAs, if_neg (by rw [hread]; exact Bool.false_ne_true), State.chunkFlits_one hpos hlen]
  refine emit_handed ?_
  show RouteTo s (BitVec.ofNat 16 c.dst).toNat 6 q
  rwa [hdst']

end

/-- A flow goes on as it did once it has taken a SEQ. -/
theorem RouteTo.chunkNumbered {s : State} {c : ChunkTx} {q : Nat} (h : RouteTo s c.dst 6 q) :
    RouteTo (s.chunkNumbered c) c.dst 6 q := by
  have hflow : (s.chunkNumbered c).flow c.dst 6 =
      { s.flow c.dst 6 with next := ((s.flow c.dst 6).next + 1) % 4096, started := true, busyAt := s.ft } :=
    s.flow_setFlow _ _ _
  exact routeTo_congr h rfl rfl (by rw [hflow]) (by rw [hflow])

/-! ## A DMA_RD in its turn -/

theorem devAddr_node_add (node : Nat) {d : Nat} (h : d < 2 ^ 48) : devAddr (node * 2 ^ 48 + d) = d := by
  rw [devAddr, Nat.add_comm, Nat.add_mul_mod_self_right, Nat.mod_eq_of_lt h]

/-- The chunk that a DMA_RD asks for. -/
def dmaRdChunk (s : State) (f : Flit) (seq since : Nat) : ChunkTx :=
  { dst := f.src.toNat, tag := f.tag.toNat, read := false,
    src := s.node * 2 ^ 48 + flitAddr f + chunkStart f (flitAddr f) (f.trailer.toNat % 4096 + 1),
    addr := f.trailer.toNat / 2 ^ 16, len := f.trailer.toNat % 4096 + 1, owner := none, fill := none, bad := [],
    pocket := false, replica := false, seq := seq, since := since }

/-- A chunk starts in the sector that its flits name, and ends in its page. -/
theorem chunkStart_le (f : Flit) (a n : Nat) : chunkStart f a n < 32 ∧ chunkStart f a n ≤ 4096 - n - a % 4096 :=
  ⟨(Nat.min_le_left _ _).trans_lt (BitVec.isLt _), Nat.min_le_right _ _⟩

section
variable {s : State} {f : Flit} (hpage : flitAddr f % 4096 + (f.trailer.toNat % 4096 + 1) ≤ 4096)
  (hregion : ∀ x, x / 4096 = flitAddr f / 4096 → s.region x = .working)
include hpage hregion

/-- A DMA_RD of working memory opens its chunk (R284). -/
theorem State.serveDmaRd_eq : s.serveDmaRd f = s.openChunk (nodeReq f) (dmaRdChunk s f 0 0) := by
  have hlen : fld f.trailer 0 12 + 1 = f.trailer.toNat % 4096 + 1 := congrArg (· % 4096 + 1) (Nat.div_one _)
  have haddr : fld f.trailer 16 48 = f.trailer.toNat / 2 ^ 16 := by
    have := f.trailer.isLt
    exact Nat.mod_eq_of_lt (by omega)
  obtain ⟨-, hend⟩ := chunkStart_le f (flitAddr f) (f.trailer.toNat % 4096 + 1)
  have hload := s.loadEvent_working (a := flitAddr f + chunkStart f (flitAddr f) (f.trailer.toNat % 4096 + 1))
    (n := f.trailer.toNat % 4096 + 1) (by omega) (fun x hlo hhi => hregion x (by omega)) (nodeReq f)
  unfold State.serveDmaRd
  dsimp only
  rw [hlen, haddr, hload, ← Nat.add_assoc]
  rfl

end

/-- The start of a chunk is an address of the package. -/
theorem chunkStart_end_lt (f : Flit) (n : Nat) : flitAddr f + chunkStart f (flitAddr f) n < 2 ^ 48 := by
  have haddr := f.addr.isLt
  have hflit : flitAddr f = f.addr.toNat * 32 := rfl
  have hstart := (chunkStart_le f (flitAddr f) n).1
  omega

theorem devAddr_dmaRdChunk (s : State) (f : Flit) : devAddr (dmaRdChunk s f 0 0).src =
    flitAddr f + chunkStart f (flitAddr f) (f.trailer.toNat % 4096 + 1) :=
  (congrArg devAddr (Nat.add_assoc _ _ _)).trans (devAddr_node_add _ (chunkStart_end_lt f _))

/-- The source of the chunk is free where the request need not wait. -/
theorem dmaRdChunk_free {s : State} {f : Flit} (htyp : f.typ.toNat = 0x08) (hgo : s.mustWait f = false) :
    s.chunkBusy (dmaRdChunk s f 0 0) = false := by
  have hfree := rangeBusy_of_mustWait hgo
  rw [s.flitSpan_dmaRd htyp] at hfree
  have hlen : fld f.trailer 0 12 = f.trailer.toNat % 4096 := congrArg (· % 4096) (Nat.div_one _)
  have hstart := (chunkStart_le f (flitAddr f) (f.trailer.toNat % 4096 + 1)).1
  rw [State.chunkBusy, devAddr_dmaRdChunk]
  dsimp only [dmaRdChunk] at hfree ⊢
  exact rangeBusy_mono (by omega) (Nat.le_add_right _ _) (by omega) hfree

/-- The chunk is numbered, and the others are as they were. -/
theorem chunksTx_dmaRd {s : State} {f : Flit}
    (hothers : ∀ x ∈ s.chunksTx, ¬ (x.dst = f.src.toNat ∧ x.tag = f.tag.toNat ∧ x.read = false)) :
    ((s.chunkListed (dmaRdChunk s f 0 0)).chunkNumbered (dmaRdChunk s f 0 0)).chunksTx =
      s.chunksTx ++ [dmaRdChunk s f (s.flow f.src.toNat 6).next s.ft] := by
  have hlisted : (s.chunkListed (dmaRdChunk s f 0 0)).chunksTx = s.chunksTx ++ [dmaRdChunk s f 0 0] := rfl
  have hsame (x : ChunkTx) (hx : x ∈ s.chunksTx) : sameChunk (dmaRdChunk s f 0 0) x = false := by
    have hne := hothers x hx
    simp only [sameChunk, dmaRdChunk, Bool.and_eq_false_iff, beq_eq_false_iff_ne]
    tauto
  rw [State.chunkNumbered_chunksTx, hlisted, List.map_append, List.map_singleton, if_pos (by simp [sameChunk])]
  refine congrArg₂ _ ?_ rfl
  exact (List.map_congr_left fun x hx => by rw [hsame x hx, if_neg Bool.false_ne_true]; rfl).trans (List.map_id _)

theorem State.chunkListed_outstTo (s : State) (c : ChunkTx) : (s.chunkListed c).outstTo c.dst = s.outstTo c.dst + 1 :=
  Tbl.get_set_same (d := 0) s.outst c.dst (s.outstTo c.dst + 1)

/-- In its turn a DMA_RD that need not wait opens its chunk and sends it at once (R280, R284). -/
theorem State.serveDmaRd_sends {s : State} {f : Flit} (htyp : f.typ.toNat = 0x08) (hgo : s.mustWait f = false)
    (hwaits : ∀ x ∈ s.chunkQ, x.dst ≠ f.src.toNat) (hroom : (s.sentChunks f.src.toNat).length < 2048)
    (hpage : flitAddr f % 4096 + (f.trailer.toNat % 4096 + 1) ≤ 4096)
    (hregion : ∀ x, x / 4096 = flitAddr f / 4096 → s.region x = .working) :
    s.serveDmaRd f = (s.chunkListed (dmaRdChunk s f 0 0)).sendChunk (dmaRdChunk s f 0 0) :=
  (State.serveDmaRd_eq hpage hregion).trans
    (State.openChunk_sends rfl rfl rfl hwaits hroom (dmaRdChunk_free htyp hgo) _)

/-- `v` is `s` with the chunk of a DMA_RD open; the chunk's one flit, where there is one, is sent. -/
structure DmaRdOpened (s v : State) (f : Flit) : Prop where
  chunksTx : v.chunksTx = s.chunksTx ++ [dmaRdChunk s f (s.flow f.src.toNat 6).next s.ft]
  outst : v.outstTo f.src.toNat = s.outstTo f.src.toNat + 1
  byte : ∀ x, v.byte x = s.byte x
  sent : ∀ q, RouteTo s f.src.toNat 6 q → f.trailer.toNat % 4096 + 1 ≤ 192 → ∃ m, Handed s v q m ∧ m.dst = f.src ∧
    m.typ.toNat = 0x09 ∧ m.tag = f.tag ∧ m.last = true ∧ m.words.length = ceilDiv (f.trailer.toNat % 4096 + 1) 32

section
variable {s : State} {f : Flit}

/-- The chunk's one flit, where its data are at most six words. -/
theorem State.dmaRd_handed {q : Nat} (hroute : RouteTo s f.src.toNat 6 q) (hshort : f.trailer.toNat % 4096 + 1 ≤ 192) :
    ∃ m, Handed s ((s.chunkListed (dmaRdChunk s f 0 0)).sendChunk (dmaRdChunk s f 0 0)) q m ∧ m.dst = f.src ∧
      m.typ.toNat = 0x09 ∧ m.tag = f.tag ∧ m.last = true ∧ m.words.length = ceilDiv (f.trailer.toNat % 4096 + 1) 32 := by
  have hlisted : RouteTo (s.chunkListed (dmaRdChunk s f 0 0)) (dmaRdChunk s f 0 0).dst 6 q := routeTo_of_regs hroute rfl rfl
  have hpos : 0 < (dmaRdChunk s f 0 0).len := Nat.succ_pos _
  refine ⟨_, State.sendAs_handed hpos hshort rfl f.src.isLt (RouteTo.chunkNumbered hlisted) _ _, ?_, rfl, ?_, rfl,
    State.onlyFlit_words_length hpos hshort _ _ _ _⟩
  · exact BitVec.ofNat_toNat _ f.src
  · exact BitVec.ofNat_toNat _ f.tag

theorem dmaRdOpened_sendChunk
    (hothers : ∀ x ∈ s.chunksTx, ¬ (x.dst = f.src.toNat ∧ x.tag = f.tag.toNat ∧ x.read = false)) :
    DmaRdOpened s ((s.chunkListed (dmaRdChunk s f 0 0)).sendChunk (dmaRdChunk s f 0 0)) f where
  chunksTx := (State.sendChunk_sendFrame _ _).chunksTx.trans (chunksTx_dmaRd hothers)
  outst := ((State.sendChunk_sendFrame _ _).outstTo _).trans (s.chunkListed_outstTo (dmaRdChunk s f 0 0))
  byte x := (State.sendChunk_sendFrame _ _).byte x
  sent _ := State.dmaRd_handed

theorem DmaRdOpened.of_withRx {R : Tbl FlowRx} {v : State} (h : DmaRdOpened (s.withRx R) v f) : DmaRdOpened s v f where
  chunksTx := h.chunksTx
  outst := h.outst
  byte := h.byte
  sent q hroute hshort := by
    obtain ⟨m, hm, hrest⟩ := h.sent q (routeTo_of_regs hroute rfl rfl) hshort
    exact ⟨m, handed_congr hm rfl rfl rfl rfl, hrest⟩

theorem DmaRdOpened.passRx {v : State} (h : DmaRdOpened s v f) (k : Nat) : DmaRdOpened s (v.passRx k) f where
  chunksTx := h.chunksTx
  outst := h.outst
  byte := h.byte
  sent q hroute hshort := by
    obtain ⟨m, hm, hrest⟩ := h.sent q hroute hshort
    exact ⟨m, handed_passRx hm k, hrest⟩

end

end Sys2Proof.Machine

namespace Sys2Proof.Proofs
open Sys2Proof Sys2Proof.Machine Sys2Proof.Claims

/-- A DMA_RD of another node, in its turn (R280, R284). -/
theorem dmaRd_served {f : Flit} {s : State} (hturn : InTurn s f) (hacc : Accepted s f 0x08)
    (hothers : ∀ x ∈ s.chunksTx, ¬ (x.dst = f.src.toNat ∧ x.tag = f.tag.toNat ∧ x.read = false))
    (hwaits : ∀ x ∈ s.chunkQ, x.dst ≠ f.src.toNat) (hroom : (s.sentChunks f.src.toNat).length < 2048)
    (hpage : flitAddr f % 4096 + (f.trailer.toNat % 4096 + 1) ≤ 4096)
    (hregion : ∀ x, x / 4096 = flitAddr f / 4096 → s.region x = .working) :
    ∃ t, exec (.dmaRd f) s = .next t ∧ TurnTaken s t f ∧ DmaRdOpened s t f := by
  obtain ⟨-, -, htyp, -⟩ := id hacc
  obtain ⟨-, -, -, hgo⟩ := id hturn
  obtain ⟨R, hR⟩ := State.atTurn_eq (s := s) (f := f)
  have hserve := (s.atTurn f).serve_dmaRd htyp
  rw [State.serveDmaRd_sends (s := s.atTurn f) htyp (by rw [hR]; exact hgo) (by rw [hR]; exact hwaits)
    (by rw [hR]; exact hroom) hpage (by rw [hR]; exact hregion)] at hserve
  have hsent := ((s.atTurn f).chunkListed (dmaRdChunk (s.atTurn f) f 0 0)).sendChunk_sendFrame (dmaRdChunk (s.atTurn f) f 0 0)
  have hopened := dmaRdOpened_sendChunk (s := s.atTurn f) (f := f) (by rw [hR]; exact hothers)
  refine ⟨_, congrArg Host.Outcome.next (State.requestFlit_passed hacc hturn hserve), turnTaken_passRx hsent.rxFlows,
    DmaRdOpened.passRx (DmaRdOpened.of_withRx (R := R) ?_) _⟩
  rwa [hR] at hopened ⊢

end Sys2Proof.Proofs
end

section
/-! PROOFS. Stores in a page of working memory (R24, R284): the words of a chunk, one after the other. -/
namespace Sys2Proof.Machine
open Sys2Proof.Claims

/-! ## A page of working memory -/

/-- A page of working memory: clean and free, where no store is held. -/
structure WorkPage (s : State) (pg : Nat) : Prop where
  region : ∀ x, x / 4096 = pg → s.region x = .working
  free : ∀ x, x / 4096 = pg → s.lineBusy x true = false
  clean : ∀ x, x / 4096 = pg → s.poisoned (x / 32) = false
  repl : ∀ x, s.replStore x = false
  held : s.replHeld = []

/-- No working memory lies at 2 ^ 48 or above. -/
theorem lt_of_region_working {s : State} {a : Nat} (h : s.region a = .working) : a < 2 ^ 48 := by
  by_contra hlt
  have husable : usable s.grade < 2 ^ 48 := by cases s.grade <;> decide
  rw [State.region] at h
  repeat rw [if_neg (by omega)] at h
  cases h

theorem State.poisoned_storeBytes (s : State) (d : Nat) (bs : List Byte) {g : Nat} (h : s.poisoned g = false) :
    (s.storeBytes d bs).poisoned g = false := by
  have hget := get_setPoison false s.poison ((granules d bs.length).filter fun g => !partly d bs.length g) g
  rw [show Tbl.get false s.poison g = false from h, ite_self] at hget
  exact hget

theorem WorkPage.storeBytes {s : State} {pg : Nat} (h : WorkPage s pg) (d : Nat) (bs : List Byte) :
    WorkPage (s.storeBytes d bs) pg where
  region := h.region
  free := h.free
  clean x hx := s.poisoned_storeBytes d bs (h.clean x hx)
  repl := h.repl
  held := h.held

section
variable {s : State} {d : Nat} {bs : List Byte} (h : WorkPage s (d / 4096)) (hpos : 0 < bs.length)
  (hend : d % 4096 + bs.length ≤ 4096)
include h hpos hend

/-- A part of the page is not refused. -/
theorem WorkPage.firstRefused_none : firstRefused s.accessible d bs.length = none :=
  firstRefused_of_forall hpos fun x hlo hhi => by rw [State.accessible, h.region x (by omega)]

/-- A part of the page is free. -/
theorem WorkPage.rangeBusy_false : s.rangeBusy d bs.length true = false := by
  refine List.any_eq_false.2 fun g hg => ?_
  obtain ⟨hlo, hhi⟩ := (mem_granules hpos).1 hg
  rw [h.free (32 * g) (by omega)]
  decide

/-- A store in the page meets no poison. -/
theorem WorkPage.merges_nil : s.merges d bs.length = [] := by
  refine List.filter_eq_nil_iff.2 fun g hg => ?_
  obtain ⟨hlo, hhi⟩ := (mem_granules hpos).1 hg
  have hclean := h.clean (32 * g) (by omega)
  rw [Nat.mul_div_cancel_left _ (by decide)] at hclean
  rw [hclean, Bool.and_false]
  decide

/-- A store in the page is its bytes. -/
theorem WorkPage.store (r : Req) : s.store r d bs = s.storeBytes d bs := by
  have hregion : s.region d = .working := h.region d rfl
  have hafter : (s.storeBytes d bs).region d = .working := hregion
  have hstream : s.streamFails d = false := by rw [State.streamFails, hregion]; rfl
  unfold State.store
  rw [h.firstRefused_none hpos hend]
  dsimp only
  rw [hstream, if_neg Bool.false_ne_true, h.rangeBusy_false hpos hend, if_neg Bool.false_ne_true, State.storeNow,
    h.merges_nil hpos hend, List.foldl_nil, State.hostBytes, hafter, if_neg (by decide)]

theorem WorkPage.gstore (r : Req) : s.gstore r (ownGlobal d) bs false = s.storeBytes d bs := by
  have hd : d < 2 ^ 48 := lt_of_region_working (h.region d rfl)
  have hne : bs.isEmpty = false := List.isEmpty_eq_false_iff.2 (List.ne_nil_of_length_pos hpos)
  unfold State.gstore State.gstoreNow
  rw [hne, h.repl, h.held, isLocal_ownGlobal s hd, devAddr_ownGlobal hd, h.store hpos hend]
  rfl

end

/-! ## Bytes stored one after the other -/

/-- `t` is `s` but for the memory and its poison. -/
def MemFrame (s t : State) : Prop := t = { s with mem := t.mem, poison := t.poison }

theorem MemFrame.trans {s t u : State} (h1 : MemFrame s t) (h2 : MemFrame t u) : MemFrame s u := by
  rw [MemFrame] at *
  rw [h2, h1]

/-- `t` is `s` with the bytes `bs` stored at `b`, in the page `pg`. -/
structure PageStored (s t : State) (pg b : Nat) (bs : List Byte) : Prop where
  page : WorkPage t pg
  frame : MemFrame s t
  inside : ∀ k (hk : k < bs.length), t.byte (b + k) = bs[k]
  outside : ∀ x, (x < b ∨ b + bs.length ≤ x) → t.byte x = s.byte x

section
variable {s t : State} {pg b : Nat} {bs : List Byte}

theorem PageStored.refl (h : WorkPage s pg) : PageStored s s pg b [] where
  page := h
  frame := rfl
  inside _ hk := absurd hk (Nat.not_lt_zero _)
  outside _ _ := rfl

theorem PageStored.bytes (h : PageStored s t pg b bs) : t.bytes b bs.length = bs := by
  refine List.ext_getElem (by simp [State.bytes]) fun k hk hk' => ?_
  simp only [State.bytes, List.getElem_map, List.getElem_range]
  exact h.inside k hk'

theorem PageStored.netSame (h : PageStored s t pg b bs) : NetSame s t := by
  rw [h.frame]
  exact ⟨rfl, rfl, rfl, rfl, rfl⟩

theorem PageStored.rxFlows (h : PageStored s t pg b bs) : t.rxFlows = s.rxFlows := by rw [h.frame]
theorem PageStored.chunkQ (h : PageStored s t pg b bs) : t.chunkQ = s.chunkQ := by rw [h.frame]
theorem PageStored.chunksRx (h : PageStored s t pg b bs) : t.chunksRx = s.chunksRx := by rw [h.frame]

/-- The next bytes join those that are stored. -/
theorem PageStored.append (h : PageStored s t pg b bs) {cs : List Byte} (hpg : b / 4096 = pg)
    (hend : b % 4096 + (bs.length + cs.length) ≤ 4096) : PageStored s (t.storeBytes (b + bs.length) cs) pg b (bs ++ cs) where
  page := h.page.storeBytes _ _
  frame := h.frame.trans rfl
  inside k hk := by
    rw [List.length_append] at hk
    rcases Nat.lt_or_ge k bs.length with hlt | hge
    · rw [t.byte_storeBytes_other _ _ _ (.inl (by omega)), h.inside k hlt, List.getElem_append_left hlt]
    · obtain ⟨j, rfl⟩ := Nat.exists_eq_add_of_le hge
      have hclean := h.page.clean (b + (bs.length + j)) (by omega)
      rw [← Nat.add_assoc] at hclean ⊢
      rw [t.byte_storeBytes_same _ _ _ (by omega) hclean, List.getElem_append_right (Nat.le_add_right _ _)]
      simp only [Nat.add_sub_cancel_left]
  outside x hx := by
    rw [List.length_append] at hx
    rw [t.byte_storeBytes_other _ _ _ (by omega), h.outside x (by omega)]

end

/-! ## The words of a chunk (R284) -/

/-- One word of a chunk of the package's own memory is stored. -/
def State.storeWord (r : Req) (a len : Nat) (s : State) (w : (Granule × Bool) × Nat) : State :=
  if min 32 (len - 32 * w.2) = 0 ∨ (firstRefused s.accessible (a + 32 * w.2) (min 32 (len - 32 * w.2))).isSome then s
  else s.gstore r (0xFFFF * 2 ^ 48 + a + 32 * w.2) ((granuleBytes w.1.1).take (min 32 (len - 32 * w.2))) w.1.2

theorem State.storeChunk_eq (s : State) (r : Req) (a len : Nat) (ws : List (Granule × Bool)) :
    s.storeChunk r false a len ws = ws.zipIdx.foldl (State.storeWord r a len) s := rfl

theorem wordBytes_length (gs : List Granule) : (wordBytes gs).length = 32 * gs.length := by
  induction gs with
  | nil => rfl
  | cons g gs ih =>
    rw [wordBytes, List.flatMap_cons, List.length_append, length_granuleBytes, ← wordBytes, ih, List.length_cons]
    omega

theorem wordBytes_append (gs hs : List Granule) : wordBytes (gs ++ hs) = wordBytes gs ++ wordBytes hs := List.flatMap_append

/-- A whole clean word of a chunk within a page is its bytes. -/
theorem WorkPage.storeWord {s : State} {a i len : Nat} (h : WorkPage s (a / 4096)) (hlen : 32 * i + 32 ≤ len)
    (hend : a % 4096 + len ≤ 4096) (r : Req) (g : Granule) :
    s.storeWord r a len ((g, false), i) = s.storeBytes (a + 32 * i) (granuleBytes g) := by
  have hg := length_granuleBytes g
  have hmin : min 32 (len - 32 * i) = (granuleBytes g).length := by omega
  have hpage : WorkPage s ((a + 32 * i) / 4096) := by
    rw [show (a + 32 * i) / 4096 = a / 4096 by omega]
    exact h
  have hgo : ¬ ((granuleBytes g).length = 0 ∨ (firstRefused s.accessible (a + 32 * i) (granuleBytes g).length).isSome) := by
    rw [hpage.firstRefused_none (by omega) (by omega), hg]
    decide
  unfold State.storeWord
  dsimp only
  rw [hmin, if_neg hgo, List.take_length, Nat.add_assoc]
  exact hpage.gstore (by omega) (by omega) r

/-- The words of a chunk that are left, once those before them are stored. -/
theorem PageStored.words {s t : State} {a len : Nat} {pre gs : List Granule} (h : PageStored s t (a / 4096) a (wordBytes pre))
    (hlen : len = 32 * (pre.length + gs.length)) (hend : a % 4096 + len ≤ 4096) (r : Req) :
    PageStored s (((gs.map fun g => (g, false)).zipIdx pre.length).foldl (State.storeWord r a len) t) (a / 4096) a
      (wordBytes (pre ++ gs)) := by
  induction gs generalizing t pre with
  | nil => simpa using h
  | cons g gs ih =>
    rw [List.length_cons] at hlen
    have hg := length_granuleBytes g
    have hpre := wordBytes_length pre
    have hnext := h.append (cs := granuleBytes g) rfl (by omega)
    have hone : wordBytes (pre ++ [g]) = wordBytes pre ++ granuleBytes g := by
      rw [wordBytes_append]
      exact congrArg _ (List.flatMap_singleton _ _)
    rw [hpre, ← hone, ← h.page.storeWord (len := len) (by omega) hend r g] at hnext
    have hrest := ih hnext (by rw [List.length_append, List.length_singleton]; omega)
    rw [List.length_append, List.length_singleton, List.append_assoc, List.singleton_append] at hrest
    rw [List.map_cons, List.zipIdx_cons, List.foldl_cons]
    exact hrest

/-- A chunk of whole clean words in a page is stored. -/
theorem WorkPage.storeChunk {s : State} {a : Nat} (h : WorkPage s (a / 4096)) {gs : List Granule}
    (hend : a % 4096 + 32 * gs.length ≤ 4096) (r : Req) :
    PageStored s (s.storeChunk r false a (32 * gs.length) (gs.map fun g => (g, false))) (a / 4096) a (wordBytes gs) := by
  rw [State.storeChunk_eq]
  exact PageStored.words (pre := []) (PageStored.refl h) (by simp) hend r

end Sys2Proof.Machine
end

section
/-! PROOFS. The flits of a chunk (R284), and the requests of other nodes, each in its turn (R280). -/
namespace Sys2Proof.Machine
open Sys2Proof.Claims

/-! ## A flit of a chunk -/

/-- The state with other chunks being received. -/
def State.withChunksRx (s : State) (l : List ChunkRx) : State := { s with chunksRx := l }

/-- The chunk of a flit, with what the flit brings. -/
def chunkWith (s : State) (f : Flit) : ChunkRx := { chunkOf s f with words := wordsWith s f }

/-- The chunk of a flit is from the flit's sender, and has its tag and type. -/
theorem chunkOf_key (s : State) (f : Flit) :
    (chunkOf s f).src = f.src.toNat ∧ (chunkOf s f).tag = f.tag.toNat ∧ (chunkOf s f).typ = f.typ.toNat := by
  unfold chunkOf
  cases h : s.chunksRx.find? fun c => c.src == f.src.toNat && c.tag == f.tag.toNat && c.typ == f.typ.toNat with
  | none => exact ⟨rfl, rfl, rfl⟩
  | some c =>
    have hkey := List.find?_some h
    simp only [Bool.and_eq_true, beq_iff_eq] at hkey
    exact ⟨hkey.1.1, hkey.1.2, hkey.2⟩

/-- A flit joins its chunk. -/
theorem State.collectFlit_eq (s : State) (f : Flit) :
    s.collectFlit f = (s.withChunksRx (otherChunks s f ++ [chunkWith s f]), chunkWith s f) := by
  unfold State.collectFlit chunkWith wordsWith otherChunks chunkOf
  cases h : s.chunksRx.find? fun c => c.src == f.src.toNat && c.tag == f.tag.toNat && c.typ == f.typ.toNat with
  | some c => rfl
  | none =>
    have hnot : (⟨f.src.toNat, f.tag.toNat, f.typ.toNat, f.addr.toNat * 32, [], false⟩ : ChunkRx) ∉ s.chunksRx :=
      fun hmem => List.find?_eq_none.1 h _ hmem (by simp)
    rw [Option.getD_none, List.erase_of_not_mem hnot]
    rfl

/-- Where no other chunk has the flit's key, the others are left when its chunk is over. -/
theorem erase_chunkWith {s : State} {f : Flit} (h : OneChunk s f) :
    (otherChunks s f ++ [chunkWith s f]).erase (chunkWith s f) = otherChunks s f := by
  rw [List.erase_append_right _ fun hmem => h (chunkWith s f) hmem (chunkOf_key s f), List.erase_cons_head, List.append_nil]

/-! ## The end of a chunk -/

/-- The CRC of all the bytes holds for all of them. -/
theorem chunkLen_crc64 (data : List Byte) : chunkLen data (crc64 data) = some data.length := by
  rw [chunkLen, List.range_succ_eq_map, List.map_cons, Nat.sub_zero]
  exact List.find?_cons_of_pos (by rw [List.take_length, beq_self_eq_true])

/-- Where the part in piece `k` of `n` bytes at `a` begins, and its length. -/
def pieceSpan (a n k : Nat) : Nat × Nat :=
  (max a (a / 4096 * 4096 + 256 * k), min (a + n) (a / 4096 * 4096 + 256 * k + 256) - max a (a / 4096 * 4096 + 256 * k))

/-- The pieces of a chunk for working memory that are refused. -/
def State.refusedPieces (s : State) (a n : Nat) : List Nat :=
  (pagePieces a n).filter fun k =>
    (firstRefused (fun x => s.region x == .working) (pieceSpan a n k).1 (pieceSpan a n k).2).isSome

theorem State.refusedPieces_nil {s : State} {a n : Nat} (hn : 0 < n) (h : ∀ x, a ≤ x → x < a + n → s.region x = .working) :
    s.refusedPieces a n = [] := by
  refine List.filter_eq_nil_iff.2 fun k hk => ?_
  have htouch := List.of_mem_filter hk
  simp only [Bool.and_eq_true, decide_eq_true_eq] at htouch
  have hnone : firstRefused (fun x => s.region x == .working) (pieceSpan a n k).1 (pieceSpan a n k).2 = none := by
    have hlt : max a (a / 4096 * 4096 + 256 * k) < min (a + n) (a / 4096 * 4096 + 256 * k + 256) :=
      max_lt (lt_min (by omega) (by omega)) (lt_min (by omega) (by omega))
    refine firstRefused_of_forall (Nat.sub_pos_of_lt hlt) fun x hlo hhi => ?_
    rw [pieceSpan, Nat.add_sub_cancel' hlt.le] at hhi
    rw [h x ((le_max_left _ _).trans hlo) (hhi.trans_le (min_le_left _ _))]
    rfl
  rw [hnone]
  decide

section
variable {s : State} {f : Flit} {c : ChunkRx} {gs : List Granule}

/-- The LAST flit of a chunk that another node pushed and whose CRC is good: its words are stored, and it is acknowledged. -/
theorem State.endChunk_pushed (hown : s.ownRead c.src c.tag = none) (hwords : c.words = cleanWords gs)
    (hcrc : f.trailer.toNat = crc64 (wordBytes gs))
    (hregion : ∀ x, c.addr + chunkStart f c.addr (32 * gs.length) ≤ x →
      x < c.addr + chunkStart f c.addr (32 * gs.length) + 32 * gs.length → s.region x = .working)
    (hpos : gs ≠ []) (ack : Nat) :
    s.endChunk f c ack = ((s.withChunksRx (s.chunksRx.erase c)).storeChunk (nodeReq f) false
      (c.addr + chunkStart f c.addr (32 * gs.length)) (32 * gs.length) (gs.map fun g => (g, false))).respond f ack [] 0 := by
  have hdata : (gs.map fun g => (g, false)).flatMap (fun w => granuleBytes w.1) = wordBytes gs := List.flatMap_map _ _ _
  have hlen : chunkLen (wordBytes gs) f.trailer.toNat = some (32 * gs.length) := by
    rw [hcrc, chunkLen_crc64, wordBytes_length]
  have hlength : 0 < 32 * gs.length := Nat.mul_pos (by decide) (List.length_pos_iff.2 hpos)
  have hrefused := State.refusedPieces_nil hlength hregion
  simp only [State.refusedPieces, pieceSpan] at hrefused
  have hevent : firstRefused (fun x => s.region x == .working) (c.addr + chunkStart f c.addr (32 * gs.length)) (32 * gs.length) =
      none := firstRefused_of_forall hlength fun x hlo hhi => by rw [hregion x hlo hhi]; rfl
  have htake := State.takeWords_clean (s.withChunksRx (s.chunksRx.erase c)) gs
  unfold State.endChunk
  dsimp only
  rw [hown]
  dsimp only
  have hq : ({ s with chunksRx := s.chunksRx.erase c } : State).takeWords c.words =
      (s.withChunksRx (s.chunksRx.erase c), gs.map fun g => (g, false)) := by rw [hwords]; exact htake
  rw [hq]
  dsimp only
  rw [hdata, hlen, Option.getD_some, Option.isSome_some]
  simp only [↓reduceIte, Option.isSome_none, Bool.false_eq_true]
  rw [State.chunkEvent, hevent, hrefused]
  rfl

end

/-! ## The two outcomes of a flit of a chunk -/

section
variable {s : State} {f : Flit}

/-- A flit that is not the last is collected. -/
theorem State.chunkFlit_of_more (hlast : f.last = false) (ack : Nat) :
    s.chunkFlit f ack = s.withChunksRx (otherChunks s f ++ [chunkWith s f]) := by
  unfold State.chunkFlit
  dsimp only
  rw [s.collectFlit_eq f, hlast]
  rfl

/-- No DMA_RD of the package has the sender and tag of the flit. -/
theorem State.ownRead_none (h : ∀ d ∈ s.chunksTx, ¬ (d.read = true ∧ d.dst = f.src.toNat ∧ d.tag = f.tag.toNat)) :
    s.ownRead (chunkWith s f).src (chunkWith s f).tag = none := by
  obtain ⟨hsrc, htag, -⟩ := chunkOf_key s f
  refine List.find?_eq_none.2 fun d hd hkey => h d hd ?_
  simp only [Bool.and_eq_true, beq_iff_eq] at hkey
  exact ⟨hkey.1.1, hkey.1.2.trans hsrc, hkey.2.trans htag⟩

/-- Where the words of the chunk of a flit go. -/
def pushBase (s : State) (f : Flit) (n : Nat) : Nat := (chunkOf s f).addr + chunkStart f (chunkOf s f).addr n

/-- The last flit of a chunk that another node pushes, with a good CRC. -/
theorem State.chunkFlit_pushed {gs : List Granule} (hlast : f.last = true) (hone : OneChunk s f)
    (hown : ∀ d ∈ s.chunksTx, ¬ (d.read = true ∧ d.dst = f.src.toNat ∧ d.tag = f.tag.toNat))
    (hwords : wordsWith s f = cleanWords gs) (hcrc : f.trailer.toNat = crc64 (wordBytes gs)) (hpos : gs ≠ [])
    (hregion : ∀ x, pushBase s f (32 * gs.length) ≤ x → x < pushBase s f (32 * gs.length) + 32 * gs.length →
      s.region x = .working) (ack : Nat) :
    s.chunkFlit f ack = ((s.withChunksRx (otherChunks s f)).storeChunk (nodeReq f) false (pushBase s f (32 * gs.length))
      (32 * gs.length) (gs.map fun g => (g, false))).respond f ack [] 0 := by
  have hend := State.endChunk_pushed (s := s.withChunksRx (otherChunks s f ++ [chunkWith s f])) (c := chunkWith s f)
    (State.ownRead_none hown) hwords hcrc hregion hpos ack
  have herase : (s.withChunksRx (otherChunks s f ++ [chunkWith s f])).chunksRx.erase (chunkWith s f) = otherChunks s f :=
    erase_chunkWith hone
  rw [herase] at hend
  unfold State.chunkFlit
  dsimp only
  rw [s.collectFlit_eq f, hlast]
  exact hend

end

/-- A flow goes past a request, and nothing else goes on. -/
theorem State.serveAll_passRx {t : State} {k : Nat} (h : RxQuiet t.rxFlows k) (hk : (t.rxFlow k).waiting = [])
    (hchunks : t.chunkQ = []) : (t.passRx k).serveAll = t.passRx k := by
  refine State.serveAll_of_quiet (RxQuiet.setRxFlow h _) ?_ hchunks
  rw [State.passRx, State.rxFlow_setRxFlow]
  exact hk

theorem WorkPage.withRx {s : State} {pg : Nat} (h : WorkPage s pg) (R : Tbl FlowRx) : WorkPage (s.withRx R) pg :=
  ⟨h.region, h.free, h.clean, h.repl, h.held⟩

theorem WorkPage.withChunksRx {s : State} {pg : Nat} (h : WorkPage s pg) (l : List ChunkRx) : WorkPage (s.withChunksRx l) pg :=
  ⟨h.region, h.free, h.clean, h.repl, h.held⟩

theorem State.withChunksRx_netSame (s : State) (l : List ChunkRx) : NetSame s (s.withChunksRx l) := ⟨rfl, rfl, rfl, rfl, rfl⟩

theorem State.turnOf_nil {s : State} {f : Flit} (h : (s.rxFlow (flowKey f)).waiting = []) :
    s.turnOf f [] = { s.rxFlow (flowKey f) with last := s.ft } := by
  rw [State.turnOf, ← h]

/-- A chunk within one page lies in it from its start on. -/
theorem pushBase_page {s : State} {f : Flit} {n : Nat} (hn : 0 < n) (hpage : (chunkOf s f).addr % 4096 + n ≤ 4096) :
    pushBase s f n / 4096 = (chunkOf s f).addr / 4096 ∧ pushBase s f n % 4096 + n ≤ 4096 := by
  obtain ⟨-, hend⟩ := chunkStart_le f (chunkOf s f).addr n
  rw [pushBase]
  omega

/-- `v` is `s` with the chunk of a flit stored: `gs`, from the address `b` on. -/
structure ChunkStored (s v : State) (f : Flit) (b : Nat) (gs : List Granule) : Prop where
  net : NetSame s v
  chunkQ : v.chunkQ = s.chunkQ
  chunksRx : v.chunksRx = otherChunks s f
  bytes : v.bytes b (32 * gs.length) = wordBytes gs
  outside : ∀ x, (x < b ∨ b + 32 * gs.length ≤ x) → v.byte x = s.byte x

/-- A chunk of whole clean words within one page is stored, at the turn of its last flit. -/
theorem chunkStored_storeChunk {s : State} {f : Flit} {gs : List Granule} (hpos : gs ≠ [])
    (hpage : (chunkOf s f).addr % 4096 + 32 * gs.length ≤ 4096) (h : WorkPage s ((chunkOf s f).addr / 4096)) (R : Tbl FlowRx)
    (r : Req) :
    let v := ((s.withRx R).withChunksRx (otherChunks s f)).storeChunk r false (pushBase s f (32 * gs.length)) (32 * gs.length)
      (gs.map fun g => (g, false))
    ChunkStored s v f (pushBase s f (32 * gs.length)) gs ∧ v.rxFlows = R := by
  obtain ⟨hbase, hend⟩ := pushBase_page (Nat.mul_pos (by decide) (List.length_pos_iff.2 hpos)) hpage
  have hstored := WorkPage.storeChunk (s := (s.withRx R).withChunksRx (otherChunks s f)) (a := pushBase s f (32 * gs.length))
    (by rw [hbase]; exact (h.withRx R).withChunksRx _) hend r
  have hbytes := hstored.bytes
  have houtside := hstored.outside
  rw [wordBytes_length] at hbytes houtside
  exact ⟨{ net := ((s.withRx_netSame R).trans (State.withChunksRx_netSame _ _)).trans hstored.netSame
           chunkQ := hstored.chunkQ
           chunksRx := hstored.chunksRx
           bytes := hbytes
           outside := houtside }, hstored.rxFlows⟩

/-- The last flit of a chunk that another node pushes, at its turn: its chunk is stored, and then acknowledged. -/
theorem serve_lastFlit {s : State} {f : Flit} {gs : List Granule} (htyp : f.typ.toNat = 0x09) (hlast : f.last = true)
    (hone : OneChunk s f) (hwords : wordsWith s f = cleanWords gs) (hpos : gs ≠ [])
    (hpage : (chunkOf s f).addr % 4096 + 32 * gs.length ≤ 4096)
    (hown : ∀ d ∈ s.chunksTx, ¬ (d.read = true ∧ d.dst = f.src.toNat ∧ d.tag = f.tag.toNat))
    (hwork : WorkPage s ((chunkOf s f).addr / 4096)) (hcrc : f.trailer.toNat = crc64 (wordBytes gs)) :
    ∃ v, (s.atTurn f).serve f = (v.respond f 0x0A [] 0, true) ∧ ChunkStored s v f (pushBase s f (32 * gs.length)) gs ∧
      v.rxFlows = (s.atTurn f).rxFlows := by
  obtain ⟨R, hR⟩ := State.atTurn_eq (s := s) (f := f)
  obtain ⟨hbase, hend⟩ := pushBase_page (Nat.mul_pos (by decide) (List.length_pos_iff.2 hpos)) hpage
  obtain ⟨hstored, hrx⟩ := chunkStored_storeChunk hpos hpage hwork R (nodeReq f)
  have hregion (x : Nat) (hlo : pushBase s f (32 * gs.length) ≤ x)
      (hhi : x < pushBase s f (32 * gs.length) + 32 * gs.length) : s.region x = .working := hwork.region x (by omega)
  have hchunk := State.chunkFlit_pushed (s := s.withRx R) hlast hone hown hwords hcrc hpos hregion 0x0A
  rw [hR]
  exact ⟨_, ((s.withRx R).serve_chunk htyp).trans (congrArg₂ Prod.mk hchunk hlast), hstored, hrx⟩

theorem SendFrame.chunksRx {s t : State} (h : SendFrame s t) : t.chunksRx = s.chunksRx := by rw [h]

theorem SendFrame.bytes {s t : State} (h : SendFrame s t) (a n : Nat) : t.bytes a n = s.bytes a n :=
  List.map_congr_left fun _ _ => h.byte _

theorem ChunkStored.passRx_respond {s v : State} {f : Flit} {b : Nat} {gs : List Granule} (h : ChunkStored s v f b gs)
    (typ trailer k : Nat) (words : List FWord) :
    ((v.respond f typ words trailer).passRx k).chunksRx = otherChunks s f ∧
      ((v.respond f typ words trailer).passRx k).bytes b (32 * gs.length) = wordBytes gs ∧
      ∀ x, (x < b ∨ b + 32 * gs.length ≤ x) → ((v.respond f typ words trailer).passRx k).byte x = s.byte x :=
  have hsent := State.respond_sendFrame v f typ words trailer
  ⟨hsent.chunksRx.trans h.chunksRx, (hsent.bytes _ _).trans h.bytes, fun x hx => (hsent.byte x).trans (h.outside x hx)⟩

end Sys2Proof.Machine

namespace Sys2Proof.Proofs
open Sys2Proof Sys2Proof.Machine Sys2Proof.Claims

section
variable {f : Flit} {s : State} (hturn : InTurn s f) (hacc : Accepted s f 0x09) (hnone : NoneWaiting s)
include hturn hacc hnone

/-- A flit of a chunk that is not its last, in its turn (R284). -/
theorem dmaData_collected (hlast : f.last = false) :
    ∃ t, exec (.dmaData f) s = .next t ∧ t.chunksRx = otherChunks s f ++ [chunkWith s f] ∧
      t.rxFlow (flowKey f) = { s.rxFlow (flowKey f) with last := s.ft } ∧
      t = { s with chunksRx := t.chunksRx, rxFlows := t.rxFlows } := by
  obtain ⟨-, -, htyp, -⟩ := id hacc
  obtain ⟨-, -, hwait, -⟩ := id hturn
  obtain ⟨-, hchunks, hquiet⟩ := hnone
  obtain ⟨R, hR⟩ := State.atTurn_eq (s := s) (f := f)
  have hflow := State.atTurn_rxFlow (s := s) (f := f)
  have hrest := State.atTurn_quiet (f := f) hquiet
  have hstep := State.requestFlit_inTurn hacc hturn
  rw [State.serve_chunk _ htyp, State.chunkFlit_of_more hlast, hlast] at hstep
  rw [hR] at hstep hflow hrest
  have hall : ((s.withRx R).withChunksRx (otherChunks s f ++ [chunkWith s f])).serveAll =
      (s.withRx R).withChunksRx (otherChunks s f ++ [chunkWith s f]) :=
    State.serveAll_of_quiet hrest ((congrArg FlowRx.waiting hflow).trans rfl) hchunks
  exact ⟨(s.withRx R).withChunksRx (otherChunks s f ++ [chunkWith s f]),
    congrArg Host.Outcome.next ((congrArg State.serveAll hstep).trans hall), rfl, hflow.trans (State.turnOf_nil hwait), rfl⟩

/-- The last flit of a chunk with a good CRC, in its turn (R284). -/
theorem dmaData_stored {p : Nat} (hroute : RouteTo s f.src.toNat 2 p) (hlast : f.last = true) (hone : OneChunk s f)
    {gs : List Granule} (hwords : wordsWith s f = cleanWords gs) (hpos : gs ≠ [])
    (hpage : (chunkOf s f).addr % 4096 + 32 * gs.length ≤ 4096)
    (hown : ∀ d ∈ s.chunksTx, ¬ (d.read = true ∧ d.dst = f.src.toNat ∧ d.tag = f.tag.toNat))
    (hwork : WorkPage s ((chunkOf s f).addr / 4096)) (hcrc : f.trailer.toNat = crc64 (wordBytes gs)) :
    ∃ t, exec (.dmaData f) s = .next t ∧ TurnTaken s t f ∧ Handed s t p (answerTo f 0x0A [] 0) ∧
      t.chunksRx = otherChunks s f ∧ t.bytes (pushBase s f (32 * gs.length)) (32 * gs.length) = wordBytes gs ∧
      ∀ x, (x < pushBase s f (32 * gs.length) ∨ pushBase s f (32 * gs.length) + 32 * gs.length ≤ x) →
        t.byte x = s.byte x := by
  obtain ⟨-, -, htyp, -⟩ := id hacc
  obtain ⟨-, hchunks, hquiet⟩ := hnone
  obtain ⟨v, hserve, hstored, hrx⟩ := serve_lastFlit htyp hlast hone hwords hpos hpage hown hwork hcrc
  have hsent : SendFrame v (v.respond f 0x0A [] 0) := State.respond_sendFrame _ _ _ _ _
  have hflows := hsent.rxFlows.trans hrx
  have hwaits : ((v.respond f 0x0A [] 0).rxFlow (flowKey f)).waiting = [] := by
    rw [State.rxFlow, hflows]
    exact congrArg FlowRx.waiting (State.atTurn_rxFlow (s := s) (f := f))
  have hall := State.serveAll_passRx (t := v.respond f 0x0A [] 0) (by rw [hflows]; exact State.atTurn_quiet hquiet) hwaits
    (hsent.chunkQ.trans (hstored.chunkQ.trans hchunks))
  have hstep := State.requestFlit_passed hacc hturn hserve
  exact ⟨_, congrArg Host.Outcome.next ((congrArg State.serveAll hstep).trans hall), turnTaken_passRx hflows,
    handed_passRx (hstored.net.respond_handed hacc hroute _ _ _) _, hstored.passRx_respond _ _ _ _⟩

end

theorem remoteRequestsServed : Parts.RemoteRequestsServed := by
  unfold Parts.RemoteRequestsServed
  intro f p s hroute hturn a
  refine ⟨?read, ?write, ?atomic, ?dmaRd, ?dmaData⟩
  case read =>
    intro hacc n h1 h6 hpage htarget
    exact read_served hroute hturn hacc h1 h6 hpage htarget
  case write =>
    intro hacc g hwords htarget hclean hregion
    exact write_served hroute hturn hacc hwords htarget hclean hregion
  case atomic =>
    intro hacc w v hwords hroom o n at' htarget halign hclean _ hv
    exact atomic_served hroute hturn hacc hwords hroom htarget halign hclean hv
  case dmaRd =>
    intro hacc n c hothers hwaits hroom hpage hregion
    obtain ⟨t, hexec, htaken, hopened⟩ := dmaRd_served hturn hacc hothers hwaits hroom hpage hregion
    exact ⟨t, hexec, htaken, hopened.chunksTx, hopened.outst, hopened.byte, hopened.sent⟩
  case dmaData =>
    intro hacc hnone c
    refine ⟨fun hlast => dmaData_collected hturn hacc hnone hlast, ?_⟩
    intro hlast hone gs hwords hpos _ hpage hown hwork hrepl hheld hcrc b
    have hpageWork : WorkPage s ((chunkOf s f).addr / 4096) :=
      ⟨fun x hx => (hwork x hx).1, fun x hx => (hwork x hx).2.1, fun x hx => (hwork x hx).2.2, hrepl, hheld⟩
    exact dmaData_stored hturn hacc hnone hroute hlast hone hwords hpos hpage hown hpageWork hcrc

/-- Settles O40: each request by the theorem of its kind, and an atomic that comes again from the reply cache. -/
theorem remoteRequests : Obligations.RemoteRequests := ⟨remoteRequestsServed, atomicPerformedOnce⟩

end Sys2Proof.Proofs
end
